-- ==== Sys2Proof/Word.lean ====
section
/-! DEFINITION. The word types of QK9-A (R7, R9): a 64-bit integer word, a byte, and nothing more. Every bit-field,
sign-extension and byte-order helper stands in Sys2Proof/Machine/. -/

namespace Sys2Proof

/-- A 64-bit register or address value (R13, R37). -/
abbrev Word := BitVec 64

/-- One byte of memory (R7). -/
abbrev Byte := BitVec 8

end Sys2Proof
end

