-- ==== Sys2Proof/Config.lean ====
section
/-! DEFINITION. What an implementation fixes, and the free values: constants with no body, of which no proof can see a value.
Every one is named in the assumption log: log entries 12 and 17. -/

namespace Sys2Proof.Config

/-- A fresh free word: the n-th value that the spec leaves open. DESIGN CHOICE, safe: log entry 17. -/
opaque freeWord : Nat → Word
/-- The byte by which data written under another key differs from what its new key decrypts (R351). -/
opaque pad : Nat → Nat → Byte
/-- The low digit in which `time` may differ between dies (R68): whether die d is one count ahead at a cycle. -/
opaque timeAhead : Nat → Nat → Bool
/-- The set of an L2 slice in which a line lies: the spec gives 128 sets and not their index (R211). DESIGN CHOICE, unsafe: log entry 16. -/
opaque l2Set : Nat → Nat
/-- Whether a line of a VF in a vector core's L1 lies in the units taken from it, when so many units are taken in all: the spec gives no
place of a line (R137). The arguments are the core, the VF, the line and the units. DESIGN CHOICE, safe: log entry 71. -/
opaque l1Taken : Nat → Nat → Nat → Nat → Bool
/-- What the old behaviour of an erratum (its ID) makes of the result of an instruction's word; none where the erratum does not concern the word
(R369: the errata are documented elsewhere). DESIGN CHOICE, unsafe: log entry 99. -/
opaque oldResult : Nat → BitVec 32 → Word → Option Word
/-- SHAKE256 to 64 bytes (R346, R353, R356). DESIGN CHOICE, safe: log entry 12. -/
opaque shake256 : List Byte → List Byte
/-- Ed448 signature by the device identity key (R353). -/
opaque signIdentity : List Byte → List Byte
/-- Verification of an Ed448 signature under the fused configuration key (R346). -/
opaque verifyConfiguration : List Byte → List Byte → Bool
/-- The device identity public key (R346). -/
opaque identityKey : List Byte
/-- The digest of the boot ROM, the firmware image and the other measured blocks (R350). -/
opaque measurement : Nat → List Byte
/-- The reply of the security unit to an SPDM request, given the measured state (R350). -/
opaque spdmReply : List Byte → List Byte → List Byte
/-- The Ilyono table in the module's configuration flash: its 1,024 bytes (R346). -/
opaque ilyono : List Byte
/-- The fused minimum serial of the Ilyono table (R346). -/
opaque fusedSerial : Word
/-- The fabric map: populated extent in bytes of window k, its alternate port if any (R398). -/
opaque windowExtent : Nat → Nat
/-- The alternate port of window k: 8 or more stands for none (R398). -/
opaque windowAlternate : Nat → Nat
/-- The fence map at boot: whether firmware finds a core fenced (R395). -/
opaque fencedAtBoot : Nat → Bool
/-- Spare physical cores of a cluster at boot (R389). -/
opaque sparesAtBoot : Nat → Nat
/-- The outcome of the boot steps that only the module can tell: power, image, HBM and link training (R395). -/
opaque bootStep : Nat → Bool
/-- The doublewords of the PF's identity and status region, but for its status register, and the offset of that register (R341, R394,
R395). -/
opaque deviceWord : Nat → Word
/-- The offset of the PF device status register in its region. -/
opaque statusOffset : Nat
/-- The bytes that the body of the fatal-error dump holds for an entry of a type and a die, of the words that it is to hold: the spec gives no
layout (R394). DESIGN CHOICE, safe: log entry 101. -/
opaque dumpBody : Nat → Nat → List Word → List Byte
/-- The encryption of the fatal-error dump under the dump key (R394). DESIGN CHOICE, safe: log entry 12. -/
opaque dumpCipher : List Byte → List Byte
/-- The package's own fabric address (R402), 48 bits wide. -/
opaque address : BitVec 48
/-- The package's own fabric address as a number. -/
def fabricAddress : Nat := address.toNat
/-- n bytes of a list: cut, or filled with zeros. The outputs of the primitives have fixed lengths (R353). -/
def fixed (n : Nat) (l : List Byte) : List Byte := (List.range n).map fun i => l.getD i 0
/-- The identity of a device in a record (R353): the first 32 bytes of SHAKE256 of its identity public key. -/
def identity : List Byte := fixed 32 (shake256 identityKey)
/-- The 114-byte Ed448 signature, under the device identity key, of the 64-byte SHAKE256 of some bytes (R353). -/
def signature (l : List Byte) : List Byte := fixed 114 (signIdentity (fixed 64 (shake256 l)))

end Sys2Proof.Config
end

