-- ==== Sys2Proof/Syntax.lean ====
section
/-! DEFINITION. The instruction syntax of QK9-A: ONE inductive with a constructor for every row of the opcode table.
Rows 0 to 248 of the table are instruction words (R36 to R54, R61); the constructors carry the fields that R37, R39 and R46
to R53 give them. The other rows are the part's steps that no instruction word names (an engine's, firmware's, the host's);
they have no operand fields: what such a step acts on (which core, which frame, which register) is the machine's `subject`. The L bit of an SX or SI word says whether the word is slot A of a pair
(R40); it belongs to the fetch word and is no operand, so it is a parameter of the encoder and not a field here. -/

namespace Sys2Proof

/-- An integer register x0 to x15 (R14, R38). -/
abbrev XReg := Fin 16
/-- A vector register v0 to v31 (R52). -/
abbrev VReg := Fin 32
/-- A mask register field: 1 to 7 name m1 to m7, 0 names none (R52). -/
abbrev MReg := Fin 8

/-- The scope field of an ordering operation (R37, R230). -/
inductive Scope where
  | core | clu | pkg | sys
  deriving DecidableEq, Repr

/-- The ordering field of an atomic (R49). -/
inductive Order where
  | none | acq | rel | ar
  deriving DecidableEq, Repr

/-- The width of a scalar atomic (R49): 4 or 8 bytes. -/
inductive Width where
  | w | d
  deriving DecidableEq, Repr

/-- The element types of R19, codes 0x0 to 0xC in this order. -/
inductive EType where
  | i2 | i4 | i8 | i16 | i32 | ui8 | ui16 | ui32 | bf16 | f16 | f32 | t8 | t6
  deriving DecidableEq, Repr

/-- The conditions of `vcmp` and `vfcmp`, codes 0 to 3 (R52). -/
inductive Cond where
  | eq | ne | lt | le
  deriving DecidableEq, Repr

/-- The operations of `vmlog`, codes 0 to 3 (R52). -/
inductive MaskOp where
  | and | or | xor | andn
  deriving DecidableEq, Repr

/-- The format pairs of R54, codes 0 to 8. -/
inductive FormatPair where
  | bf16bf16 | f16f16 | t8t8 | t6t6 | t8t6 | t6t8 | i8i8 | i4i4 | i2i2
  deriving DecidableEq, Repr

/-- The instructions and steps of the opcode table, one constructor per row: first those that carry fields, in the table's
order, then those that carry none. -/
inductive Instr where
  /-- LUI (R61): Loads a 20-bit upper immediate into rd, as the RISC-V specification gives it. -/
  | lui (rd : XReg) (imm : BitVec 20)
  /-- AUIPC (R61): Adds a 20-bit upper immediate to pc and writes the sum to rd. -/
  | auipc (rd : XReg) (imm : BitVec 20)
  /-- JAL (R34): Jumps pc-relative and links; a target that is not a multiple of 4 raises 0x5.0.2. -/
  | jal (rd : XReg) (off : BitVec 20)
  /-- JALR (R34): Jumps register-indirect and links, with the alignment check on the target. -/
  | jalr (rd rs1 : XReg) (imm : BitVec 12)
  /-- BEQ (R61): Branches if the two registers are equal. -/
  | beq (rs1 rs2 : XReg) (off : BitVec 12)
  /-- BNE (R61): Branches if the two registers differ. -/
  | bne (rs1 rs2 : XReg) (off : BitVec 12)
  /-- BLT (R61): Branches on a signed less-than comparison. -/
  | blt (rs1 rs2 : XReg) (off : BitVec 12)
  /-- BGE (R61): Branches on a signed greater-or-equal comparison. -/
  | bge (rs1 rs2 : XReg) (off : BitVec 12)
  /-- BLTU (R61): Branches on an unsigned less-than comparison. -/
  | bltu (rs1 rs2 : XReg) (off : BitVec 12)
  /-- BGEU (R61): Branches on an unsigned greater-or-equal comparison. -/
  | bgeu (rs1 rs2 : XReg) (off : BitVec 12)
  /-- LB (R63): Loads a sign-extended byte. -/
  | lb (rd rs1 : XReg) (imm : BitVec 12)
  /-- LH (R63): Loads a sign-extended halfword; an access spanning two 8-byte blocks raises 0x5.0.0. -/
  | lh (rd rs1 : XReg) (imm : BitVec 12)
  /-- LW (R63): Loads a sign-extended word; in follow mode it may migrate the shuttle instead. -/
  | lw (rd rs1 : XReg) (imm : BitVec 12)
  /-- LD (R63): Loads a doubleword. -/
  | ld (rd rs1 : XReg) (imm : BitVec 12)
  /-- LBU (R63): Loads a zero-extended byte. -/
  | lbu (rd rs1 : XReg) (imm : BitVec 12)
  /-- LHU (R63): Loads a zero-extended halfword. -/
  | lhu (rd rs1 : XReg) (imm : BitVec 12)
  /-- LWU (R63): Loads a zero-extended word. -/
  | lwu (rd rs1 : XReg) (imm : BitVec 12)
  /-- SB (R63): Stores a byte; it commits to the store buffer and registers at the home. -/
  | sb (rs1 rs2 : XReg) (imm : BitVec 12)
  /-- SH (R63): Stores a halfword; an access spanning two 8-byte blocks raises 0x5.0.1. -/
  | sh (rs1 rs2 : XReg) (imm : BitVec 12)
  /-- SW (R63): Stores a word. -/
  | sw (rs1 rs2 : XReg) (imm : BitVec 12)
  /-- SD (R63): Stores a doubleword. -/
  | sd (rs1 rs2 : XReg) (imm : BitVec 12)
  /-- ADDI (R61): Adds an immediate to a register. -/
  | addi (rd rs1 : XReg) (imm : BitVec 12)
  /-- SLTI (R61): Sets rd to the result of a signed less-than comparison with an immediate. -/
  | slti (rd rs1 : XReg) (imm : BitVec 12)
  /-- SLTIU (R61): Sets rd to the result of an unsigned less-than comparison with an immediate. -/
  | sltiu (rd rs1 : XReg) (imm : BitVec 12)
  /-- XORI (R61): Exclusive-ORs a register with an immediate. -/
  | xori (rd rs1 : XReg) (imm : BitVec 12)
  /-- ORI (R61): ORs a register with an immediate. -/
  | ori (rd rs1 : XReg) (imm : BitVec 12)
  /-- ANDI (R61): ANDs a register with an immediate. -/
  | andi (rd rs1 : XReg) (imm : BitVec 12)
  /-- SLLI (R61): Shifts left logically by an immediate amount. -/
  | slli (rd rs1 : XReg) (sh : BitVec 6)
  /-- SRLI (R61): Shifts right logically by an immediate amount. -/
  | srli (rd rs1 : XReg) (sh : BitVec 6)
  /-- SRAI (R61): Shifts right arithmetically by an immediate amount. -/
  | srai (rd rs1 : XReg) (sh : BitVec 6)
  /-- ADD (R61): Adds two registers. -/
  | add (rd rs1 rs2 : XReg)
  /-- SUB (R61): Subtracts two registers. -/
  | sub (rd rs1 rs2 : XReg)
  /-- SLL (R61): Shifts left logically by a register amount. -/
  | sll (rd rs1 rs2 : XReg)
  /-- SLT (R61): Sets rd to the result of a signed less-than comparison. -/
  | slt (rd rs1 rs2 : XReg)
  /-- SLTU (R61): Sets rd to the result of an unsigned less-than comparison. -/
  | sltu (rd rs1 rs2 : XReg)
  /-- XOR (R61): Exclusive-ORs two registers. -/
  | xor (rd rs1 rs2 : XReg)
  /-- SRL (R61): Shifts right logically by a register amount. -/
  | srl (rd rs1 rs2 : XReg)
  /-- SRA (R61): Shifts right arithmetically by a register amount. -/
  | sra (rd rs1 rs2 : XReg)
  /-- OR (R61): ORs two registers. -/
  | or (rd rs1 rs2 : XReg)
  /-- AND (R61): ANDs two registers. -/
  | and (rd rs1 rs2 : XReg)
  /-- ADDIW (R61): Adds an immediate as a 32-bit operation and sign-extends the result. -/
  | addiw (rd rs1 : XReg) (imm : BitVec 12)
  /-- SLLIW (R61): Shifts a 32-bit value left logically by an immediate amount. -/
  | slliw (rd rs1 : XReg) (sh : BitVec 5)
  /-- SRLIW (R61): Shifts a 32-bit value right logically by an immediate amount. -/
  | srliw (rd rs1 : XReg) (sh : BitVec 5)
  /-- SRAIW (R61): Shifts a 32-bit value right arithmetically by an immediate amount. -/
  | sraiw (rd rs1 : XReg) (sh : BitVec 5)
  /-- ADDW (R61): Adds as a 32-bit operation. -/
  | addw (rd rs1 rs2 : XReg)
  /-- SUBW (R61): Subtracts as a 32-bit operation. -/
  | subw (rd rs1 rs2 : XReg)
  /-- SLLW (R61): Shifts a 32-bit value left logically by a register amount. -/
  | sllw (rd rs1 rs2 : XReg)
  /-- SRLW (R61): Shifts a 32-bit value right logically by a register amount. -/
  | srlw (rd rs1 rs2 : XReg)
  /-- SRAW (R61): Shifts a 32-bit value right arithmetically by a register amount. -/
  | sraw (rd rs1 rs2 : XReg)
  /-- FENCE (R64): Acts as fence.s.ar.clu when pred and succ both hold R or W, and as a no-op otherwise; this covers FENCE.TSO and PAUSE. -/
  | fence (fm pred succ : BitVec 4) (rs1 rd : BitVec 5)
  /-- FENCE_I (`fence.i`) (R65): Waits until earlier stores are registered, then discards the current core's instruction-side copies. -/
  | fenceI (imm : BitVec 12) (rs1 rd : BitVec 5)
  /-- MUL (R69): Multiplies and keeps the low 64 bits. -/
  | mul (rd rs1 rs2 : XReg)
  /-- MULH (R69): Returns the high 64 bits of a signed by signed product. -/
  | mulh (rd rs1 rs2 : XReg)
  /-- MULHSU (R69): Returns the high 64 bits of a signed by unsigned product. -/
  | mulhsu (rd rs1 rs2 : XReg)
  /-- MULHU (R69): Returns the high 64 bits of an unsigned product. -/
  | mulhu (rd rs1 rs2 : XReg)
  /-- DIV (R69): Divides signed; division by zero returns the published result and never traps. -/
  | div (rd rs1 rs2 : XReg)
  /-- DIVU (R69): Divides unsigned. -/
  | divu (rd rs1 rs2 : XReg)
  /-- REM (R69): Returns the signed remainder. -/
  | rem (rd rs1 rs2 : XReg)
  /-- REMU (R69): Returns the unsigned remainder. -/
  | remu (rd rs1 rs2 : XReg)
  /-- MULW (R69): Multiplies as a 32-bit operation. -/
  | mulw (rd rs1 rs2 : XReg)
  /-- DIVW (R69): Divides signed as a 32-bit operation. -/
  | divw (rd rs1 rs2 : XReg)
  /-- DIVUW (R69): Divides unsigned as a 32-bit operation. -/
  | divuw (rd rs1 rs2 : XReg)
  /-- REMW (R69): Returns the signed 32-bit remainder. -/
  | remw (rd rs1 rs2 : XReg)
  /-- REMUW (R69): Returns the unsigned 32-bit remainder. -/
  | remuw (rd rs1 rs2 : XReg)
  /-- CSRRW (R16): Atomically swaps a CSR with a register, under the access and privilege rules. -/
  | csrrw (rd rs1 : XReg) (csr : BitVec 12)
  /-- CSRRS (R16): Reads a CSR and sets bits in it; it writes only when rs1 is not x0. -/
  | csrrs (rd rs1 : XReg) (csr : BitVec 12)
  /-- CSRRC (R16): Reads a CSR and clears bits in it; it writes only when rs1 is not x0. -/
  | csrrc (rd rs1 : XReg) (csr : BitVec 12)
  /-- CSRRWI (R16): Writes an immediate to a CSR and returns the old value. -/
  | csrrwi (rd : XReg) (uimm : BitVec 5) (csr : BitVec 12)
  /-- CSRRSI (R16): Sets CSR bits from an immediate; it writes only when the immediate is nonzero. -/
  | csrrsi (rd : XReg) (uimm : BitVec 5) (csr : BitVec 12)
  /-- CSRRCI (R16): Clears CSR bits from an immediate; it writes only when the immediate is nonzero. -/
  | csrrci (rd : XReg) (uimm : BitVec 5) (csr : BitVec 12)
  /-- FADD_S (R69): Adds FP32 values held in x registers (Zfinx). -/
  | faddS (rd rs1 rs2 : XReg) (rm : BitVec 3)
  /-- FSUB_S (R69): Subtracts FP32 values. -/
  | fsubS (rd rs1 rs2 : XReg) (rm : BitVec 3)
  /-- FMUL_S (R69): Multiplies FP32 values. -/
  | fmulS (rd rs1 rs2 : XReg) (rm : BitVec 3)
  /-- FDIV_S (R69): Divides FP32 values. -/
  | fdivS (rd rs1 rs2 : XReg) (rm : BitVec 3)
  /-- FSQRT_S (R69): Takes the FP32 square root. -/
  | fsqrtS (rd rs1 : XReg) (rm : BitVec 3)
  /-- FSGNJ_S (R69): Injects the sign of rs2 into rs1. -/
  | fsgnjS (rd rs1 rs2 : XReg)
  /-- FSGNJN_S (R69): Injects the negated sign of rs2 into rs1. -/
  | fsgnjnS (rd rs1 rs2 : XReg)
  /-- FSGNJX_S (R69): Injects the XOR of the two signs into rs1. -/
  | fsgnjxS (rd rs1 rs2 : XReg)
  /-- FMIN_S (R69): Returns the FP32 minimum. -/
  | fminS (rd rs1 rs2 : XReg)
  /-- FMAX_S (R69): Returns the FP32 maximum. -/
  | fmaxS (rd rs1 rs2 : XReg)
  /-- FCVT_W_S (R69): Converts FP32 to a signed 32-bit integer. -/
  | fcvtWS (rd rs1 : XReg) (rm : BitVec 3)
  /-- FCVT_WU_S (R69): Converts FP32 to an unsigned 32-bit integer. -/
  | fcvtWuS (rd rs1 : XReg) (rm : BitVec 3)
  /-- FCVT_L_S (R69): Converts FP32 to a signed 64-bit integer. -/
  | fcvtLS (rd rs1 : XReg) (rm : BitVec 3)
  /-- FCVT_LU_S (R69): Converts FP32 to an unsigned 64-bit integer. -/
  | fcvtLuS (rd rs1 : XReg) (rm : BitVec 3)
  /-- FCVT_S_W (R69): Converts a signed 32-bit integer to FP32. -/
  | fcvtSW (rd rs1 : XReg) (rm : BitVec 3)
  /-- FCVT_S_WU (R69): Converts an unsigned 32-bit integer to FP32. -/
  | fcvtSWu (rd rs1 : XReg) (rm : BitVec 3)
  /-- FCVT_S_L (R69): Converts a signed 64-bit integer to FP32. -/
  | fcvtSL (rd rs1 : XReg) (rm : BitVec 3)
  /-- FCVT_S_LU (R69): Converts an unsigned 64-bit integer to FP32. -/
  | fcvtSLu (rd rs1 : XReg) (rm : BitVec 3)
  /-- FEQ_S (R69): Compares FP32 values for equality. -/
  | feqS (rd rs1 rs2 : XReg)
  /-- FLT_S (R69): Compares FP32 values for less than. -/
  | fltS (rd rs1 rs2 : XReg)
  /-- FLE_S (R69): Compares FP32 values for less than or equal. -/
  | fleS (rd rs1 rs2 : XReg)
  /-- FCLASS_S (R69): Classifies an FP32 value. -/
  | fclassS (rd rs1 : XReg)
  /-- FMADD_S (R69): Computes a fused multiply-add. -/
  | fmaddS (rd rs1 rs2 rs3 : XReg) (rm : BitVec 3)
  /-- FMSUB_S (R69): Computes a fused multiply-subtract. -/
  | fmsubS (rd rs1 rs2 rs3 : XReg) (rm : BitVec 3)
  /-- FNMSUB_S (R69): Computes a negated fused multiply-subtract. -/
  | fnmsubS (rd rs1 rs2 rs3 : XReg) (rm : BitVec 3)
  /-- FNMADD_S (R69): Computes a negated fused multiply-add. -/
  | fnmaddS (rd rs1 rs2 rs3 : XReg) (rm : BitVec 3)
  /-- SHSTART (R70): Releases at package scope, reads a start block, checks it, offers a new shuttle to a target and returns a status. -/
  | shstart (rd rs1 rs2 : XReg)
  /-- SHMOVE (R71): Migrates the shuttle to the core named in rs1. -/
  | shmove (rs1 : XReg)
  /-- SHMOVE_HOME (R71): Migrates the shuttle to the core above the slice that homes the address in rs1. -/
  | shmoveHome (rs1 : XReg)
  /-- IPOST (R75): Releases at cluster scope and posts an iteration to an iteration-ring channel. -/
  | ipost (ch : BitVec 3) (rs1 : XReg)
  /-- IWAIT (R75): Waits until a channel's completed-through count reaches the iteration, then acquires at cluster scope. -/
  | iwait (ch : BitVec 3) (rs1 : XReg)
  /-- FENCE_S_ACQ (`fence.s.acq.<sc>`) (R240): Performs an acquire fence at the encoded scope. -/
  | fenceSAcq (sc : Scope)
  /-- FENCE_S_REL (`fence.s.rel.<sc>`) (R240): Performs a release fence at the encoded scope. -/
  | fenceSRel (sc : Scope)
  /-- FENCE_S_AR (`fence.s.ar.<sc>`) (R240): Performs a full acquire-release fence that also orders stores before later loads. -/
  | fenceSAr (sc : Scope)
  /-- FENCE_Q (R241): Places one joint entry in every engine queue named by the queue mask. -/
  | fenceQ (rs1 : XReg)
  /-- INV_R (R242): Performs an acquire whose Discard drops only the Valid words in the region's lines. -/
  | invR (sc : Scope) (rs1 rs2 : XReg)
  /-- WB_R (R243): Recalls the region's registrations throughout the partition, and at system scope writes the region to memory. -/
  | wbR (sc : Scope) (rs1 rs2 : XReg)
  /-- LD_ACQ_W (R239): Loads a word with an acquire; it never reads a Valid copy. -/
  | ldAcqW (sc : Scope) (rd rs1 : XReg)
  /-- LD_ACQ_D (R239): Loads a doubleword with an acquire. -/
  | ldAcqD (sc : Scope) (rd rs1 : XReg)
  /-- ST_REL_W (R239): Releases, then stores a word. -/
  | stRelW (sc : Scope) (rs1 rs2 : XReg)
  /-- ST_REL_D (R239): Releases, then stores a doubleword. -/
  | stRelD (sc : Scope) (rs1 rs2 : XReg)
  /-- TIER_HINT_HOT (R337): Gives the region's pages a standing hot hint and may queue background pulls. -/
  | tierHintHot (rs1 rs2 : XReg)
  /-- TIER_HINT_COLD (R337): Gives the region's pages a standing cold hint and clears their working-set bits. -/
  | tierHintCold (rs1 rs2 : XReg)
  /-- LDFE (R247): Waits for a full word, reads it and sets it empty, then acquires. -/
  | ldfe (rd rs1 : XReg)
  /-- STFE (R247): Releases, waits for an empty word, then writes it and sets it full. -/
  | stfe (rs1 rs2 : XReg)
  /-- LDFF (R247): Waits for a full word and reads it, leaving its state unchanged. -/
  | ldff (rd rs1 : XReg)
  /-- FE_SET_FULL (R247): Sets a scratchpad word's state to full and serves any waiters. -/
  | feSetFull (rs1 : XReg)
  /-- FE_SET_EMPTY (R247): Sets a scratchpad word's state to empty and serves any waiters. -/
  | feSetEmpty (rs1 : XReg)
  /-- QPUSH_QA (R184): Through the vector queue, pushes one QA entry to every matrix core of the target set. -/
  | qpushQa (vs : VReg) (rs1 rs2 : XReg)
  /-- QPUSH_QK (R185): Checks a command and pushes it to the QK of every target, adding to TL. -/
  | qpushQk (rd rs1 rs2 : XReg)
  /-- QPOP_QD (R186): Through the vector queue, pops the oldest QD row of a matrix core into vN. -/
  | qpopQd (vd : VReg) (rs1 : XReg)
  /-- QSTAT_QA (R187): Reads the QA occupancy of a matrix core. -/
  | qstatQa (rd rs1 : XReg)
  /-- QSTAT_QK (R187): Reads the QK occupancy of a matrix core. -/
  | qstatQk (rd rs1 : XReg)
  /-- QSTAT_QD (R187): Reads the QD occupancy of a matrix core. -/
  | qstatQd (rd rs1 : XReg)
  /-- CPY (R254): Reads and checks a linear copy descriptor and appends the copy to a copy channel. -/
  | cpy (ch : BitVec 4) (rs1 rs2 : XReg)
  /-- CPY_2D (R254): Appends a two-dimensional strided copy to a copy channel. -/
  | cpy2d (ch : BitVec 4) (rs1 rs2 : XReg)
  /-- CPY_B (R254): Appends a B-SRAM load of a matrix core to a copy channel. -/
  | cpyB (ch : BitVec 4) (rs1 rs2 : XReg)
  /-- COLL_POST_PKG (R404): Posts a package-scope collective and returns its handle. -/
  | collPostPkg (rd rs1 : XReg)
  /-- COLL_POST_SYS (R404): Posts a system-scope collective and returns its handle. -/
  | collPostSys (rd rs1 : XReg)
  /-- COLL_TEST (R406): Reads a collective's state; on a terminal state it frees the entry and acquires, and it takes any deferred fault. -/
  | collTest (rd rs1 : XReg)
  /-- AMO_ADD (R244): Performs an atomic add of width w, with optional ordering, at the given scope. -/
  | amoAdd (wd : Width) (ord : Order) (sc : Scope) (rd rs1 rs2 : XReg)
  /-- AMO_AND (R244): Performs an atomic AND. -/
  | amoAnd (wd : Width) (ord : Order) (sc : Scope) (rd rs1 rs2 : XReg)
  /-- AMO_OR (R244): Performs an atomic OR. -/
  | amoOr (wd : Width) (ord : Order) (sc : Scope) (rd rs1 rs2 : XReg)
  /-- AMO_XOR (R244): Performs an atomic XOR. -/
  | amoXor (wd : Width) (ord : Order) (sc : Scope) (rd rs1 rs2 : XReg)
  /-- AMO_MIN (R244): Performs an atomic signed minimum. -/
  | amoMin (wd : Width) (ord : Order) (sc : Scope) (rd rs1 rs2 : XReg)
  /-- AMO_MAX (R244): Performs an atomic signed maximum. -/
  | amoMax (wd : Width) (ord : Order) (sc : Scope) (rd rs1 rs2 : XReg)
  /-- AMO_MINU (R244): Performs an atomic unsigned minimum. -/
  | amoMinu (wd : Width) (ord : Order) (sc : Scope) (rd rs1 rs2 : XReg)
  /-- AMO_MAXU (R244): Performs an atomic unsigned maximum. -/
  | amoMaxu (wd : Width) (ord : Order) (sc : Scope) (rd rs1 rs2 : XReg)
  /-- AMO_SWAP (R244): Performs an atomic swap. -/
  | amoSwap (wd : Width) (ord : Order) (sc : Scope) (rd rs1 rs2 : XReg)
  /-- CAS (R244): Compares with x[rd] and, if equal, swaps, as one atomic step. -/
  | cas (wd : Width) (ord : Order) (sc : Scope) (rd rs1 rs2 : XReg)
  /-- VLD (R150): Issues into the vector queue a unit-stride vector load. -/
  | vld (o v p : Bool) (vd : VReg) (rs1 : XReg)
  /-- VST (R150): Issues a unit-stride vector store. -/
  | vst (o v p : Bool) (vd : VReg) (rs1 : XReg)
  /-- VLDS (R150): Issues a strided vector load. -/
  | vlds (o v : Bool) (vd : VReg) (rs1 rs2 : XReg)
  /-- VSTS (R150): Issues a strided vector store. -/
  | vsts (o v : Bool) (vd : VReg) (rs1 rs2 : XReg)
  /-- VLDX (R150): Issues an indexed vector load. -/
  | vldx (o v : Bool) (vd : VReg) (rs1 : XReg) (vi : VReg)
  /-- VSTX (R150): Issues an indexed vector store. -/
  | vstx (o v : Bool) (vd : VReg) (rs1 : XReg) (vi : VReg)
  /-- VLD2 (R150): Issues a two-dimensional vector load with a row stride. -/
  | vld2 (o v p : Bool) (vd : VReg) (rs1 rs2 : XReg)
  /-- VST2 (R150): Issues a two-dimensional vector store with a row stride. -/
  | vst2 (o v p : Bool) (vd : VReg) (rs1 rs2 : XReg)
  /-- VAMO_ADD_CLU (R156): Performs one 32-bit atomic add per element at cluster scope. -/
  | vamoAddClu (o : Bool) (ord : Order) (vd : VReg) (rs1 : XReg) (vi : VReg)
  /-- VAMO_AND_CLU (R156): Performs per-element atomic AND at cluster scope. -/
  | vamoAndClu (o : Bool) (ord : Order) (vd : VReg) (rs1 : XReg) (vi : VReg)
  /-- VAMO_OR_CLU (R156): Performs per-element atomic OR at cluster scope. -/
  | vamoOrClu (o : Bool) (ord : Order) (vd : VReg) (rs1 : XReg) (vi : VReg)
  /-- VAMO_XOR_CLU (R156): Performs per-element atomic XOR at cluster scope. -/
  | vamoXorClu (o : Bool) (ord : Order) (vd : VReg) (rs1 : XReg) (vi : VReg)
  /-- VAMO_MIN_CLU (R156): Performs per-element atomic minimum at cluster scope. -/
  | vamoMinClu (o : Bool) (ord : Order) (vd : VReg) (rs1 : XReg) (vi : VReg)
  /-- VAMO_MAX_CLU (R156): Performs per-element atomic maximum at cluster scope. -/
  | vamoMaxClu (o : Bool) (ord : Order) (vd : VReg) (rs1 : XReg) (vi : VReg)
  /-- VAMO_SWAP_CLU (R156): Performs per-element atomic swap at cluster scope. -/
  | vamoSwapClu (o : Bool) (ord : Order) (vd : VReg) (rs1 : XReg) (vi : VReg)
  /-- VAMO_ADD_PKG (R156): Performs per-element atomic add at package scope. -/
  | vamoAddPkg (o : Bool) (ord : Order) (vd : VReg) (rs1 : XReg) (vi : VReg)
  /-- VAMO_AND_PKG (R156): Performs per-element atomic AND at package scope. -/
  | vamoAndPkg (o : Bool) (ord : Order) (vd : VReg) (rs1 : XReg) (vi : VReg)
  /-- VAMO_OR_PKG (R156): Performs per-element atomic OR at package scope. -/
  | vamoOrPkg (o : Bool) (ord : Order) (vd : VReg) (rs1 : XReg) (vi : VReg)
  /-- VAMO_XOR_PKG (R156): Performs per-element atomic XOR at package scope. -/
  | vamoXorPkg (o : Bool) (ord : Order) (vd : VReg) (rs1 : XReg) (vi : VReg)
  /-- VAMO_MIN_PKG (R156): Performs per-element atomic minimum at package scope. -/
  | vamoMinPkg (o : Bool) (ord : Order) (vd : VReg) (rs1 : XReg) (vi : VReg)
  /-- VAMO_MAX_PKG (R156): Performs per-element atomic maximum at package scope. -/
  | vamoMaxPkg (o : Bool) (ord : Order) (vd : VReg) (rs1 : XReg) (vi : VReg)
  /-- VAMO_SWAP_PKG (R156): Performs per-element atomic swap at package scope. -/
  | vamoSwapPkg (o : Bool) (ord : Order) (vd : VReg) (rs1 : XReg) (vi : VReg)
  /-- VSETL (R147): Sets vtype, vlr and vlc in the scalar pipe and returns the granted column count. -/
  | vsetl (rd rs1 : XReg) (rows : BitVec 4) (et : EType)
  /-- VDEPTH (R148): Waits for the vector queue to drain, then requests a new vector depth. -/
  | vdepth (rd : XReg) (lg : BitVec 2)
  /-- VSTRIP (R149): Advances the pointers named in vptrs and sets the lengths of the next strip. -/
  | vstrip (rd rs1 : XReg)
  /-- VWAIT (R249): Waits until flag words reach their expected values or a timeout elapses, and writes the unmet mask. -/
  | vwait (md : MReg) (va vb : VReg) (t : BitVec 3)
  /-- CWAIT (R74): Waits until every cwctr counter is at or below its limit. -/
  | cwait (ld st cp tl : BitVec 5)
  /-- BAR_INIT (R251): Initialises a barrier's target and clears its counts. -/
  | barInit (b : BitVec 6) (rs1 : XReg)
  /-- BAR_ARR (R251): Releases at cluster scope and arrives at a barrier, which may complete it. -/
  | barArr (rd : XReg) (b : BitVec 6)
  /-- BAR_EXP (R251): Adds a byte count to a barrier's pending bytes. -/
  | barExp (b : BitVec 6) (rs1 : XReg)
  /-- BAR_WAIT (R251): Waits until the barrier's phase differs from the arrival word, then acquires. -/
  | barWait (b : BitVec 6) (rs1 : XReg)
  /-- BAR_TEST (R251): Tests a barrier without waiting, and acquires if it has completed. -/
  | barTest (rd : XReg) (b : BitVec 6)
  /-- VADD (R158): Adds integer elements with wraparound. -/
  | vadd (x : Bool) (vm : MReg) (vd vs1 vs2 : VReg)
  /-- VSUB (R158): Subtracts integer elements with wraparound. -/
  | vsub (x : Bool) (vm : MReg) (vd vs1 vs2 : VReg)
  /-- VMUL (R158): Multiplies integer elements and keeps the low part. -/
  | vmul (x : Bool) (vm : MReg) (vd vs1 vs2 : VReg)
  /-- VMULH (R158): Multiplies integer elements and keeps the high part. -/
  | vmulh (x : Bool) (vm : MReg) (vd vs1 vs2 : VReg)
  /-- VMACC (R158): Performs an integer multiply-accumulate into vd. -/
  | vmacc (x : Bool) (vm : MReg) (vd vs1 vs2 : VReg)
  /-- VMIN (R158): Takes the signed minimum of elements. -/
  | vmin (x : Bool) (vm : MReg) (vd vs1 vs2 : VReg)
  /-- VMAX (R158): Takes the signed maximum of elements. -/
  | vmax (x : Bool) (vm : MReg) (vd vs1 vs2 : VReg)
  /-- VMINU (R158): Takes the unsigned minimum of elements. -/
  | vminu (x : Bool) (vm : MReg) (vd vs1 vs2 : VReg)
  /-- VMAXU (R158): Takes the unsigned maximum of elements. -/
  | vmaxu (x : Bool) (vm : MReg) (vd vs1 vs2 : VReg)
  /-- VAND (R158): ANDs elements bitwise. -/
  | vand (x : Bool) (vm : MReg) (vd vs1 vs2 : VReg)
  /-- VOR (R158): ORs elements bitwise. -/
  | vor (x : Bool) (vm : MReg) (vd vs1 vs2 : VReg)
  /-- VXOR (R158): Exclusive-ORs elements bitwise. -/
  | vxor (x : Bool) (vm : MReg) (vd vs1 vs2 : VReg)
  /-- VSLL (R158): Shifts elements left. -/
  | vsll (x : Bool) (vm : MReg) (vd vs1 vs2 : VReg)
  /-- VSRL (R158): Shifts elements right logically. -/
  | vsrl (x : Bool) (vm : MReg) (vd vs1 vs2 : VReg)
  /-- VSRA (R158): Shifts elements right arithmetically. -/
  | vsra (x : Bool) (vm : MReg) (vd vs1 vs2 : VReg)
  /-- VCLIP (R160): Narrows with a rounding shift and saturation. -/
  | vclip (x : Bool) (vm : MReg) (vd vs1 vs2 : VReg)
  /-- VSADD (R158): Adds signed elements with saturation. -/
  | vsadd (x : Bool) (vm : MReg) (vd vs1 vs2 : VReg)
  /-- VSSUB (R158): Subtracts signed elements with saturation. -/
  | vssub (x : Bool) (vm : MReg) (vd vs1 vs2 : VReg)
  /-- VSADDU (R158): Adds unsigned elements with saturation. -/
  | vsaddu (x : Bool) (vm : MReg) (vd vs1 vs2 : VReg)
  /-- VSSUBU (R158): Subtracts unsigned elements with saturation. -/
  | vssubu (x : Bool) (vm : MReg) (vd vs1 vs2 : VReg)
  /-- VWADD (R159): Adds into a double-width destination group. -/
  | vwadd (x : Bool) (vm : MReg) (vd vs1 vs2 : VReg)
  /-- VWMUL (R159): Multiplies into a double-width destination group. -/
  | vwmul (x : Bool) (vm : MReg) (vd vs1 vs2 : VReg)
  /-- VWMACC (R159): Performs a double-width multiply-accumulate. -/
  | vwmacc (x : Bool) (vm : MReg) (vd vs1 vs2 : VReg)
  /-- VNSR (R160): Narrows with a right shift and wraparound. -/
  | vnsr (x : Bool) (vm : MReg) (vd vs1 vs2 : VReg)
  /-- VFADD (R161): Adds FP elements, rounding with frm. -/
  | vfadd (x : Bool) (vm : MReg) (vd vs1 vs2 : VReg)
  /-- VFSUB (R161): Subtracts FP elements. -/
  | vfsub (x : Bool) (vm : MReg) (vd vs1 vs2 : VReg)
  /-- VFMUL (R161): Multiplies FP elements. -/
  | vfmul (x : Bool) (vm : MReg) (vd vs1 vs2 : VReg)
  /-- VFMACC (R161): Performs a fused FP multiply-accumulate into vd. -/
  | vfmacc (x : Bool) (vm : MReg) (vd vs1 vs2 : VReg)
  /-- VFNMACC (R161): Performs a negated fused FP multiply-accumulate. -/
  | vfnmacc (x : Bool) (vm : MReg) (vd vs1 vs2 : VReg)
  /-- VFDIV (R161): Divides FP elements, correctly rounded. -/
  | vfdiv (x : Bool) (vm : MReg) (vd vs1 vs2 : VReg)
  /-- VFSQRT (R161): Takes the FP square root of each element. -/
  | vfsqrt (x : Bool) (vm : MReg) (vd vs1 : VReg)
  /-- VFRECE (R162): Estimates the reciprocal to 8 significant bits. -/
  | vfrece (x : Bool) (vm : MReg) (vd vs1 : VReg)
  /-- VFRSQE (R162): Estimates the reciprocal square root to 8 significant bits. -/
  | vfrsqe (x : Bool) (vm : MReg) (vd vs1 : VReg)
  /-- VFMIN (R161): Takes the IEEE minimumNumber of elements. -/
  | vfmin (x : Bool) (vm : MReg) (vd vs1 vs2 : VReg)
  /-- VFMAX (R161): Takes the IEEE maximumNumber of elements. -/
  | vfmax (x : Bool) (vm : MReg) (vd vs1 vs2 : VReg)
  /-- VFSGNJ (R163): Writes the magnitude of vs1 with the sign of vs2. -/
  | vfsgnj (x : Bool) (vm : MReg) (vd vs1 vs2 : VReg)
  /-- VFCLASS (R163): Writes a one-hot class code for each FP element. -/
  | vfclass (x : Bool) (vm : MReg) (vd vs1 : VReg)
  /-- VCVT (R167): Converts elements from the source type into the vtype type. -/
  | vcvt (x : Bool) (vm : MReg) (src : EType) (vd vs1 : VReg)
  /-- VCVTB (R168): Block-scales FP32 values into T8 or T6 codes and writes their scale bytes. -/
  | vcvtb (x : Bool) (vm : MReg) (vd vs1 vs2 : VReg)
  /-- VDECB (R169): Decodes block-scaled T8 or T6 codes into FP32. -/
  | vdecb (x : Bool) (vm : MReg) (vd vs1 vs2 : VReg)
  /-- VCMP (R164): Compares integer elements into a mask register. -/
  | vcmp (c : Cond) (vm md : MReg) (vs1 vs2 : VReg)
  /-- VFCMP (R164): Compares FP elements into a mask register. -/
  | vfcmp (c : Cond) (vm md : MReg) (vs1 vs2 : VReg)
  /-- VMLOG (R165): Combines two mask registers logically. -/
  | vmlog (op : MaskOp) (md ma mb : MReg)
  /-- VPOPC (R165): Counts the set mask bits below N into an x register. -/
  | vpopc (rd : XReg) (ma : MReg)
  /-- VFIRST (R165): Writes the index of the first set mask bit into an x register. -/
  | vfirst (rd : XReg) (ma : MReg)
  /-- VMERGE (R166): Selects between vs1 and vs2 by a mask, for every element below N. -/
  | vmerge (vm : MReg) (vd vs1 vs2 : VReg)
  /-- VBCAST (R173): Broadcasts an x register to every active element. -/
  | vbcast (vm : MReg) (vd : VReg) (rs1 : XReg)
  /-- VMVSX (R173): Writes an x register to element 0. -/
  | vmvsx (vm : MReg) (vd : VReg) (rs1 : XReg)
  /-- VSLUP (R170): Slides elements up by x[rs2] positions. -/
  | vslup (vm : MReg) (vd vs1 : VReg) (rs2 : XReg)
  /-- VSLDN (R170): Slides elements down by x[rs2] positions. -/
  | vsldn (vm : MReg) (vd vs1 : VReg) (rs2 : XReg)
  /-- VRGATH (R171): Gathers elements of vs1 by the indices in vs2. -/
  | vrgath (vm : MReg) (vd vs1 vs2 : VReg)
  /-- VCOMP (R171): Compresses the mask-selected elements to the front of vd. -/
  | vcomp (vm : MReg) (vd vs1 : VReg)
  /-- VTRN (R172): Transposes square blocks of vlr rows. -/
  | vtrn (vd vs1 : VReg)
  /-- VMVXS (R173): Moves element 0 of vs1 into an x register. -/
  | vmvxs (rd : XReg) (vs1 : VReg)
  /-- VREDSUM (R174): Computes an integer sum reduction into element 0. -/
  | vredsum (vm : MReg) (vd vs1 vs2 : VReg)
  /-- VREDMAX (R174): Computes an integer maximum reduction. -/
  | vredmax (vm : MReg) (vd vs1 vs2 : VReg)
  /-- VREDMIN (R174): Computes an integer minimum reduction. -/
  | vredmin (vm : MReg) (vd vs1 vs2 : VReg)
  /-- VREDAND (R174): Computes a bitwise AND reduction. -/
  | vredand (vm : MReg) (vd vs1 vs2 : VReg)
  /-- VREDOR (R174): Computes a bitwise OR reduction. -/
  | vredor (vm : MReg) (vd vs1 vs2 : VReg)
  /-- VFREDO (R118): Computes an ordered FP sum reduction. -/
  | vfredo (vm : MReg) (vd vs1 vs2 : VReg)
  /-- VFREDT (R119): Computes a fixed-tree FP sum reduction. -/
  | vfredt (vm : MReg) (vd vs1 vs2 : VReg)
  /-- VFREDMAX (R120): Computes an FP maximumNumber reduction. -/
  | vfredmax (vm : MReg) (vd vs1 vs2 : VReg)
  /-- VFREDMIN (R120): Computes an FP minimumNumber reduction. -/
  | vfredmin (vm : MReg) (vd vs1 vs2 : VReg)
  /-- MRUN (R194): Checks the slot and appends an ARM of the given row count to the core's own QK. -/
  | mrun (fp : FormatPair) (tag : BitVec 3) (rs1 : XReg)
  /-- MCFG (R181): Waits for the slot to be free, then checks and writes a matrix configuration slot. -/
  | mcfg (fp : FormatPair) (tag : BitVec 3) (rs1 rs2 : XReg)
  /-- MZERO (R195): Appends a ZERO of accumulator rows to QK. -/
  | mzero (rs1 rs2 : XReg)
  /-- MDRAIN (R196): Appends a DRAIN of a slot's window to QK. -/
  | mdrain (tag : BitVec 3) (rs1 : XReg)
  /-- MCPY_IN (R197): Appends an MCPY that loads accumulator rows from memory, and waits for it to complete. -/
  | mcpyIn (rs1 rs2 : XReg)
  /-- MCPY_OUT (R197): Appends an MCPY that stores accumulator rows to memory, and waits for it to complete. -/
  | mcpyOut (rs1 rs2 : XReg)
  /-- MSTAT (R198): Returns the matrix core status and clears the sticky bits it returns. -/
  | mstat (rd : XReg)
  /-- ILLEGAL_INSTRUCTION (R36): Issuing a word in an illegal or reserved-later space, or with an unassigned function code, raises 0x0.0.0 or 0x0.0.1. -/
  | illegalInstruction (w : BitVec 32)
  /-- ECALL (`ecall`) (R66): Traps with 0xA.0.0 from U or 0xA.0.2 in M; in S it sends a firmware service request and the shuttle waits. -/
  | ecall
  /-- EBREAK (`ebreak`) (R66): Traps with 0xA.0.3 to the S handler, or to the M handler in M mode. -/
  | ebreak
  /-- SRET (`sret`) (R67): Returns from an S-mode trap; it resumes a slot B word lone, and raises 0x0.0.3 in U mode. -/
  | sret
  /-- MRET (`mret`) (R67): Returns from an M-mode trap on the firmware column, and raises 0x0.0.3 outside M mode. -/
  | mret
  /-- WFI (`wfi`) (R67): In S or M mode, waits until an interrupt is pending or wlimit expires; in U mode it raises 0x0.0.3. -/
  | wfi
  /-- SHEXIT (`shexit`) (R72): Checks the signal targets, enters Exiting and waits for all cwctr counters to reach zero. -/
  | shexit
  /-- SHYIELD (`shyield`) (R73): Yields issue as the core class states, and lets an ordered mix migration take effect. -/
  | shyield
  /-- TSW_WRITE (R18): A tsw write takes effect at the next issue, checks the EE bits and clears the follow-hop count. -/
  | tswWrite
  /-- VPTRS_WRITE (R21): A vptrs write whose value holds SZ 7 raises 0x0.0.6 and changes no field. -/
  | vptrsWrite
  /-- VRESUME_WRITE (R22): An S-mode vresume write sets the restart index; a U-mode write raises 0x0.0.6. -/
  | vresumeWrite
  /-- TCAUSE_WRITE (R25): A supervisor write stores a cause value as given, with no other effect. -/
  | tcauseWrite
  /-- STVEC_WRITE (R81): A write to the VF-wide stvec, scounteren or trec reaches every core of the partition within 2,000 cycles. -/
  | stvecWrite
  /-- TREC_WRITE (R86): Sets the trap-ring base, size and enables; a 1 written to ERR clears it. -/
  | trecWrite
  /-- SIP_WRITE (R83): A software write sets or clears SSIP, and leaves the read-only pending bits unchanged. -/
  | sipWrite
  /-- FCSR_ACCESS (R106): An access to fflags or fcsr waits until every earlier vector instruction has completed. -/
  | fcsrAccess
  /-- CWP_READ (R256): A read of a copy write pointer takes any deferred fault, is ordered before later accesses, and performs a Discard. -/
  | cwpRead
  /-- PMC_WRITE (R357): Sets a performance counter's 48-bit count. -/
  | pmcWrite
  /-- PMC_READ (R357): Waits for the shuttle's earlier instructions, then returns the counter. -/
  | pmcRead
  /-- PMSEL_WRITE (R357): Selects an event and its filters; a 1 written to OV clears it. -/
  | pmselWrite
  /-- REGISTER_WRITE (R8): A write to any register that has no row of its own, with the access codes applied. -/
  | registerWrite
  /-- INTERRUPT_ENTRY (R84): A pending, enabled interrupt is taken by the lowest qualifying slot of the VF at an issue boundary. -/
  | interruptEntry
  /-- TRAP_RECORD_POST (R87): Claims a producer index and writes a trap record, waiting for a page pull if one is needed. -/
  | trapRecordPost
  /-- OWNER_LOST_REFUSAL (R218): A refused store or atomic for an owner-lost word is taken as a trap at the shuttle's next issue boundary. -/
  | ownerLostRefusal
  /-- SHUTTLE_WAKE (R127): A wake makes a Waiting shuttle Ready, and it reissues the blocking instruction. -/
  | shuttleWake
  /-- WAIT_LIMIT_EXPIRY (R260): A blocking wait's wlimit bound expires; its requests are withdrawn and the wait's cause is trapped. -/
  | waitLimitExpiry
  /-- FRAME_PACK (R94): Once the cwctr counters reach zero, the shuttle releases, packs its frame and sends it to a chosen destination. -/
  | framePack
  /-- FRAME_CRC_RETRY (R28): A frame that fails its CRC is discarded and the sender sends it again. -/
  | frameCrcRetry
  /-- FRAME_ARRIVAL (R29): The receiving core restores the frame, negotiates depth, zeroes the vector state and lets the shuttle issue. -/
  | frameArrival
  /-- QUEUED_FRAME_DELIVERY (R93): A freed slot goes to a named frame, then to the head of the class queue, then to a heddle start. -/
  | queuedFrameDelivery
  /-- FRAME_DELIVERY_FAILED (R99): After the last resend fails or the link is lost, the frame is restored and raises 0x1.7.3. -/
  | frameDeliveryFailed
  /-- MIX_WINDOW_END (R96): At each 4,096-cycle window end the heddle updates each shuttle's mix sample and may order a mix migration. -/
  | mixWindowEnd
  /-- MIX_MIGRATION (R96): An ordered mix migration takes effect at the shuttle's next issue boundary outside a pair. -/
  | mixMigration
  /-- EXIT_RELEASE (R72): Once the exiting shuttle's counters are zero it releases, decrements its successor counters and frees its slot. -/
  | exitRelease
  /-- START_ENTRY_SERVED (R311): The heddle serves a start entry into a free slot, with its scratch and depth grants. -/
  | startEntryServed
  /-- VECTOR_UNIT_START (R129): The vector unit starts the oldest ready queue entry of a thread, chosen round-robin. -/
  | vectorUnitStart
  /-- VECTOR_COMPLETION (R145): A vector instruction completes, its last element is performed, and its counters fall. -/
  | vectorCompletion
  /-- VECTOR_QUEUE_PARITY_ERROR (R132): An entry that fails its parity check is discarded with the younger entries, and the thread rolls back without a trap. -/
  | vectorQueueParityError
  /-- DEPTH_GRANT_COMPLETE (R137): L1 units taken for a depth grant finish writing back, and the thread is granted the new depth. -/
  | depthGrantComplete
  /-- QA_ENTRY_ARRIVAL (R184): A pushed QA entry becomes visible in every target's QA at once. -/
  | qaEntryArrival
  /-- QK_COMMAND_ARRIVAL (R185): A pushed command appears in the QK of every target. -/
  | qkCommandArrival
  /-- ARM (R188): The command unit arms a slot when the slot is unarmed. -/
  | arm
  /-- ZERO (R188): The command unit zeroes accumulator rows that no armed window overlaps. -/
  | zero
  /-- DRAIN (R192): The command unit converts a slot's accumulator rows into QD rows. -/
  | drain
  /-- DRAIN_ROW (R192): A DRAIN that has waited for QD space appends its next row. -/
  | drainRow
  /-- BAR (R188): Once every earlier QK command has completed, the command unit makes a barrier arrival with a cluster release. -/
  | bar
  /-- MCPY (R197): The command unit transfers accumulator rows to or from memory as accesses of the issuing shuttle. -/
  | mcpy
  /-- QA_CONSUME (R190): The array consumes the QA head entry, or a scratch entry, applying four group updates to every column. -/
  | qaConsume
  /-- TL_DECREMENT (R200): A completed matrix command decrements its issuer's TL counter. -/
  | tlDecrement
  /-- QK_PARITY_ERROR (R198): A QK command that fails parity is discarded and QKP is set. -/
  | qkParityError
  /-- REGISTER (R225): The oldest buffered store to a word is granted at its home and appended to the word's coherence order. -/
  | register
  /-- REGISTRATION_GRANT (R212): The home grants a registration request, merging the bytes and recalling the word from any owner. -/
  | registrationGrant
  /-- EVICT (R214): A line is evicted; Valid words drop and Registered words are written back to the home. -/
  | evict
  /-- FILL (R225): A core obtains a Valid copy of the latest value on a miss, a grain fill or a prefetch. -/
  | fill
  /-- HOME_READ (R215): The home answers a read for a grain, forwarding words that are Registered to their owners. -/
  | homeRead
  /-- WATCH_WAKE (R217): A value written at the home wakes every watcher of the word and removes their entries. -/
  | watchWake
  /-- RING_POST_APPLY (R75): The iteration ring applies a post to its channel, advancing C and waking iwaits. -/
  | ringPostApply
  /-- FE_REQUEST_RESEND (R247): A full/empty request refused for lack of waiter entries is resent after 64 cycles. -/
  | feRequestResend
  /-- VWAIT_POLL (R249): Every 256 cycles, window, shared-uncached and device flag elements are read again. -/
  | vwaitPoll
  /-- VWAIT_TIMEOUT (R249): The vwait timeout elapses and the unmet set is written to the mask. -/
  | vwaitTimeout
  /-- COPY_BLOCK_DELIVERED (R255): The writes of a 512-byte block or slice row are performed; the channel advances its pointer and decrements PEND. -/
  | copyBlockDelivered
  /-- COPY_COMPLETE (R255): A copy operation completes, drops the issuer's Valid copies and decrements CP. -/
  | copyComplete
  /-- COPY_FAULT (R259): A faulting copy is abandoned, CP falls, and a deferred 0x8.4.4 is held for the issuer. -/
  | copyFault
  /-- PLB_FILL (R287): A PLB miss fills the entry from the VF's protection table. -/
  | plbFill
  /-- ATB_FILL (R294): A walker fills an attribute-buffer entry and raises any translation fault. -/
  | atbFill
  /-- PAGE_PULL (R296): The tier engine completes a pull of a page into HBM and wakes every waiter. -/
  | pagePull
  /-- PULL_FAILED (R297): After retries the pull fails; the page is marked lost and every waiter meets 0x4.x.0. -/
  | pullFailed
  /-- PAGE_MOVE_DOWN (R298): The tier engine moves a page to the far tier in five ordered steps. -/
  | pageMoveDown
  /-- BACKGROUND_PULL (R336): The tier engine pulls non-resident pages of the incoming VF's recorded set, in set order. -/
  | backgroundPull
  /-- PAGE_RESTORE (R392): The tier engine restores a poisoned or lost shared-key page from its clean copy. -/
  | pageRestore
  /-- KICK (R342): A host write of a queue's write index exposes records; a write that laps the queue makes it Lapped. -/
  | kick
  /-- RING (R342): Sets a queue's ring base and size, only while the queue is Stopped. -/
  | ring
  /-- WBASE (R343): Sets and enables the BAR 2 window base. -/
  | wbase
  /-- BAR2_ACCESS (R343): A host access through BAR 2 is checked and performed uncached at the home; a fault records the last host fault. -/
  | bar2Access
  /-- SKEIN (R308): A die consumes a SKEIN record, reading and checking its task table and placing its tasks. -/
  | skein
  /-- START (R307): A die consumes a START record and starts or offers its shuttle. -/
  | start
  /-- WAIT (R317): A die consumes a WAIT record once the signal word meets its condition. -/
  | wait
  /-- SIGNAL (R319): The lead die writes or adds to the signal word with a system release, once every die has reached the record. -/
  | signal
  /-- FENCE_RECORD (R319): A FENCE is consumed once every die's completed-through index has reached it. -/
  | fenceRecord
  /-- DEPENDENCE_AWAIT (R314): On a watch wake the die re-reads a task counter and starts the task when it is at or below zero. -/
  | dependenceAwait
  /-- RESIDENCY_GATE_PASS (R316): A record waiting at the gate passes when 256 times F reaches RT. -/
  | residencyGatePass
  /-- WAIT_QUEUE_REARM (R318): The pull wake for a parked WAIT's signal page re-arms its queue. -/
  | waitQueueRearm
  /-- SIGNAL_WORD_POLL (R317): Every 4,096 cycles, signal words on shared-uncached or device pages are read again. -/
  | signalWordPoll
  /-- PRE_EMPTION_NOTICE (R325): LEAD microseconds before a slice ends, firmware raises 0xD.0.0 on every core of the partition. -/
  | preEmptionNotice
  /-- BOBBIN_REFILL (R327): PRE before the next slice, the tier engine writes back a bobbin and loads the incoming VF's context. -/
  | bobbinRefill
  /-- WORLD_SWITCH (R329): At the slice end, the partition halts, sends registered words home, swaps contexts and advances its generation. -/
  | worldSwitch
  /-- RESUME_GATE_PASS (R331): Restored shuttles leave Parked once 256 times F reaches RR. -/
  | resumeGatePass
  /-- TIMER (R347): Service 0x01 sets the timer deadline and clears STIP. -/
  | timer
  /-- TIMER_DEADLINE (R83): When time reaches the deadline, STIP is set on the VF's interrupt core. -/
  | timerDeadline
  /-- VF_INFORMATION (R347): Service 0x02 returns the feature mask, binding, generation and last host fault. -/
  | vfInformation
  /-- PROTECTION (R290): Service 0x03 writes the protection table and removes the affected PLB entries. -/
  | protection
  /-- OWNER_LOST_CLEARING (R219): Service 0x04 clears owner-lost words of a mapped range to zero. -/
  | ownerLostClearing
  /-- QUEUE_CONTROL (R305): Service 0x05 resets a queue's indices, abandoning pending records, and makes it Running. -/
  | queueControl
  /-- RANGE_INSTALL_AND_REMOVAL (R295): Service 0x06 checks the receipt and installs or removes a range entry on every die. -/
  | rangeInstallAndRemoval
  /-- SCRUB (R353): Service 0x07 scrubs frames or a tenant context and writes a signed receipt. -/
  | scrub
  /-- BIND_VF (R349): Partition sub-function 0 binds a VF given a kind-2 receipt, and returns its bobbin index. -/
  | bindVf
  /-- UNBIND_VF (R349): Partition sub-function 1 resets the VF if it has run, then unbinds it. -/
  | unbindVf
  /-- HOME_MASK_ENTRY (R209): Partition sub-function 2 stages a home-mask entry for the next switch. -/
  | homeMaskEntry
  /-- SCHEDULE_ENTRY (R324): Partition sub-function 3 stages schedule entries, and commits them when the final flag is set. -/
  | scheduleEntry
  /-- ADD_SECTION (R323): Partition sub-function 4 adds a section to a partition. -/
  | addSection
  /-- REMOVE_SECTION (R323): Partition sub-function 5 removes a section when every bound VF is quiescent. -/
  | removeSection
  /-- READ_CONFIGURATION (R349): Partition sub-function 6 returns the section mask, generation and bound-VF count. -/
  | readConfiguration
  /-- TIER (R334): Service 0x09 sets the VF's allowance, quota, PIN and resume threshold. -/
  | tier
  /-- VF_CONFIGURATION (R338): Service 0x0A sets a VF's feature mask, effective at its next switch-in. -/
  | vfConfiguration
  /-- LOG_CONFIGURATION (R355): Service 0x0B sets a watched range and window, selects a VF's log, or acknowledges records. -/
  | logConfiguration
  /-- PAGE_TABLE (R347): Service 0x0C writes one page-table entry and removes the affected ATB entries. -/
  | pageTable
  /-- ERRATUM_ENTRY (R369): Service 0x0D returns an entry of the erratum-emulation register. -/
  | erratumEntry
  /-- DUMP_READ (R394): Service 0x0E decrypts 64 KiB of the fatal-error dump into the log window. -/
  | dumpRead
  /-- EVACUATE (R410): Service 0x0F evacuates a partition to another package in pre-copy or post-copy mode. -/
  | evacuate
  /-- OPEN_FOR_IMPORT (R410): Service 0x10 opens a partition to receive an evacuation. -/
  | openForImport
  /-- COLLECTIVE_GROUP (R402): Service 0x11 configures a VF's collective group from a rank list. -/
  | collectiveGroup
  /-- INTERRUPT_ROUTING (R85): Service 0x12 changes the VF's interrupt core at its next switch-in. -/
  | interruptRouting
  /-- UNKNOWN_SERVICE (R348): A request with an unassigned service number returns status 5. -/
  | unknownService
  /-- SERVICE_COMPLETION (R348): A service that returned status 3 finishes, and its final status is returned on the next identical call. -/
  | serviceCompletion
  /-- SPDM_REQUEST (R350): The security unit answers an SPDM request over the DOE mailbox. -/
  | spdmRequest
  /-- LOCK_INTERFACE_REQUEST (R344): A TDISP lock moves the VF's TDI to CONFIG_LOCKED, restricting its requests and PF changes. -/
  | lockInterfaceRequest
  /-- STOP_INTERFACE (R344): A TDISP STOP_INTERFACE resets the VF and leaves ERROR. -/
  | stopInterface
  /-- VF_RESET (R393): Stops the VF's queues, halts it, abandons its work, makes its registrations owner-lost and replaces its key. -/
  | vfReset
  /-- LOG_WINDOW_END (R355): At each log window's end, every watched range emits a seal record with its sums. -/
  | logWindowEnd
  /-- PATROL_SCRUB (R387): The patrol scrubber reads and rewrites protected words on its period. -/
  | patrolScrub
  /-- FIRMWARE_REELECTION (R391): After three missed heartbeats, a standby becomes primary and the failed core is fenced. -/
  | firmwareReelection
  /-- CORE_LOSS (R99): A core lost to an uncorrectable error loses its shuttles, and its registrations become owner-lost. -/
  | coreLoss
  /-- PLANNED_FENCE (R390): Firmware warns with 0xD.0.3 and fences a core, section or die at a switch. -/
  | plannedFence
  /-- FATAL_ERROR (R394): A class-0xF cause halts the package, writes an encrypted dump and sets FATAL. -/
  | fatalError
  /-- BRING_UP (R395): From power good, the part boots, verifies firmware, trains memory and the host link, and sets READY. -/
  | bringUp
  /-- CLOCK_THROTTLE (R396): Firmware lowers the arithmetic clock in steps when the power cap or coolant temperature requires it. -/
  | clockThrottle
  /-- HBM_ROW_SPARING (R389): HBM rows are spared at run time, holding accesses to the bank for at most 2 µs. -/
  | hbmRowSparing
  /-- CXL_LINK_DOWN (R398): A CXL link goes down and accesses switch to the alternate port. -/
  | cxlLinkDown
  /-- UE_PORT_DOWN (R411): An Ultra Ethernet port goes down and traffic sprays over the remaining ports. -/
  | uePortDown
  /-- COLLECTIVE_COMPLETE (R408): The collective engine finishes an operation, reducing in rank order and writing the destination. -/
  | collectiveComplete
  /-- ATOM (R409): Rank 0's engine performs an ATOM on a fabric word and returns the old value to every poster. -/
  | atom
  /-- COLLECTIVE_ABORT (R393): An abort message from a peer completes the collective with peer-aborted status. -/
  | collectiveAbort
  /-- PEER_RESPONSE_TIMEOUT (R411): After 10 ms with no transport response, every outstanding collective with that peer takes STATE 6. -/
  | peerResponseTimeout
  /-- START_OFFER (R70): An offer from shstart or a die scheduler reaches the target heddle, which starts it, queues it or refuses it, and returns the status. -/
  | startOffer
  /-- START_INTERFACE_REQUEST (R344): A TDISP request moves a VF's TDI from CONFIG_LOCKED to RUN. -/
  | startInterfaceRequest
  /-- CXL_LINK_UP (R398): A CXL primary link returns, and accesses to its window use the primary port again. -/
  | cxlLinkUp
  /-- UE_PORT_UP (R401): An Ultra Ethernet port comes up and joins the ports that collective traffic is sprayed across. -/
  | uePortUp
  /-- MESH_LINK_LOSS (R386): An uncorrectable mesh link is removed, and traffic is routed around it. -/
  | meshLinkLoss
  /-- SECURITY_UNIT_LOSS (R391): The security unit on die 0 is lost, and its replica on die 7 serves from the next request. -/
  | securityUnitLoss
  /-- WARM_RESET (R394): A reset brings the part back from out of service after a fatal error, keeping the dump. -/
  | warmReset
  /-- CYCLE_COUNTER_OVERFLOW (R358): A counter that counts cycle events (0x001 or 0x00A) wraps, sets OV and may raise LCOFI. -/
  | cycleCounterOverflow
  /-- PARTITION_IMPORT (R410): At the target package, arriving evacuation traffic is re-encrypted under fresh keys, the VFs are bound and the generation advances. -/
  | partitionImport
  /-- EVACUATION_TARGET_LOST (R411): The target is lost before step 6, and the evacuation fails with status 1, the source resuming the partition. -/
  | evacuationTargetLost
  deriving DecidableEq, Repr

end Sys2Proof
end

