-- ==== Sys2Proof/WellFormed.lean ====
section
/-! DEFINITION. Which instruction terms stand for something the spec's encodings and numberings can name: the field ranges
of R39, R50, R52, R54 and the register groups of R143. A step of another agent carries no operand. -/

namespace Sys2Proof

/-- A rounding-mode field that decodes: 101 and 110 are illegal (R69). -/
def rmOk (rm : BitVec 3) : Bool := rm != 5 && rm != 6

/-- X = 1 names a mask register in vm (R52). -/
def maskOk (x : Bool) (vm : MReg) : Bool := !x || vm != 0

/-- The well-formed instructions and steps. -/
def wellFormed : Instr → Bool
  | .lui _ _ => true
  | .auipc _ _ => true
  | .jal _ _ => true
  | .jalr _ _ _ => true
  | .beq _ _ _ => true
  | .bne _ _ _ => true
  | .blt _ _ _ => true
  | .bge _ _ _ => true
  | .bltu _ _ _ => true
  | .bgeu _ _ _ => true
  | .lb _ _ _ => true
  | .lh _ _ _ => true
  | .lw _ _ _ => true
  | .ld _ _ _ => true
  | .lbu _ _ _ => true
  | .lhu _ _ _ => true
  | .lwu _ _ _ => true
  | .sb _ _ _ => true
  | .sh _ _ _ => true
  | .sw _ _ _ => true
  | .sd _ _ _ => true
  | .addi _ _ _ => true
  | .slti _ _ _ => true
  | .sltiu _ _ _ => true
  | .xori _ _ _ => true
  | .ori _ _ _ => true
  | .andi _ _ _ => true
  | .slli _ _ _ => true
  | .srli _ _ _ => true
  | .srai _ _ _ => true
  | .add _ _ _ => true
  | .sub _ _ _ => true
  | .sll _ _ _ => true
  | .slt _ _ _ => true
  | .sltu _ _ _ => true
  | .xor _ _ _ => true
  | .srl _ _ _ => true
  | .sra _ _ _ => true
  | .or _ _ _ => true
  | .and _ _ _ => true
  | .addiw _ _ _ => true
  | .slliw _ _ _ => true
  | .srliw _ _ _ => true
  | .sraiw _ _ _ => true
  | .addw _ _ _ => true
  | .subw _ _ _ => true
  | .sllw _ _ _ => true
  | .srlw _ _ _ => true
  | .sraw _ _ _ => true
  | .fence _ _ _ _ _ => true
  | .fenceI _ _ _ => true
  | .ecall => true
  | .ebreak => true
  | .mul _ _ _ => true
  | .mulh _ _ _ => true
  | .mulhsu _ _ _ => true
  | .mulhu _ _ _ => true
  | .div _ _ _ => true
  | .divu _ _ _ => true
  | .rem _ _ _ => true
  | .remu _ _ _ => true
  | .mulw _ _ _ => true
  | .divw _ _ _ => true
  | .divuw _ _ _ => true
  | .remw _ _ _ => true
  | .remuw _ _ _ => true
  | .csrrw _ _ _ => true
  | .csrrs _ _ _ => true
  | .csrrc _ _ _ => true
  | .csrrwi _ _ _ => true
  | .csrrsi _ _ _ => true
  | .csrrci _ _ _ => true
  | .sret => true
  | .mret => true
  | .wfi => true
  | .faddS _ _ _ rm => rmOk rm
  | .fsubS _ _ _ rm => rmOk rm
  | .fmulS _ _ _ rm => rmOk rm
  | .fdivS _ _ _ rm => rmOk rm
  | .fsqrtS _ _ rm => rmOk rm
  | .fsgnjS _ _ _ => true
  | .fsgnjnS _ _ _ => true
  | .fsgnjxS _ _ _ => true
  | .fminS _ _ _ => true
  | .fmaxS _ _ _ => true
  | .fcvtWS _ _ rm => rmOk rm
  | .fcvtWuS _ _ rm => rmOk rm
  | .fcvtLS _ _ rm => rmOk rm
  | .fcvtLuS _ _ rm => rmOk rm
  | .fcvtSW _ _ rm => rmOk rm
  | .fcvtSWu _ _ rm => rmOk rm
  | .fcvtSL _ _ rm => rmOk rm
  | .fcvtSLu _ _ rm => rmOk rm
  | .feqS _ _ _ => true
  | .fltS _ _ _ => true
  | .fleS _ _ _ => true
  | .fclassS _ _ => true
  | .fmaddS _ _ _ _ rm => rmOk rm
  | .fmsubS _ _ _ _ rm => rmOk rm
  | .fnmsubS _ _ _ _ rm => rmOk rm
  | .fnmaddS _ _ _ _ rm => rmOk rm
  | .shstart _ _ _ => true
  | .shmove _ => true
  | .shmoveHome _ => true
  | .shexit => true
  | .shyield => true
  | .ipost _ _ => true
  | .iwait _ _ => true
  | .fenceSAcq _ => true
  | .fenceSRel _ => true
  | .fenceSAr _ => true
  | .fenceQ _ => true
  | .invR sc _ _ => sc != .core
  | .wbR sc _ _ => sc != .core
  | .ldAcqW _ _ _ => true
  | .ldAcqD _ _ _ => true
  | .stRelW _ _ _ => true
  | .stRelD _ _ _ => true
  | .tierHintHot _ _ => true
  | .tierHintCold _ _ => true
  | .ldfe _ _ => true
  | .stfe _ _ => true
  | .ldff _ _ => true
  | .feSetFull _ => true
  | .feSetEmpty _ => true
  | .qpushQa _ _ _ => true
  | .qpushQk _ _ _ => true
  | .qpopQd _ _ => true
  | .qstatQa _ _ => true
  | .qstatQk _ _ => true
  | .qstatQd _ _ => true
  | .cpy _ _ _ => true
  | .cpy2d _ _ _ => true
  | .cpyB _ _ _ => true
  | .collPostPkg _ _ => true
  | .collPostSys _ _ => true
  | .collTest _ _ => true
  | .amoAdd _ _ _ _ _ _ => true
  | .amoAnd _ _ _ _ _ _ => true
  | .amoOr _ _ _ _ _ _ => true
  | .amoXor _ _ _ _ _ _ => true
  | .amoMin _ _ _ _ _ _ => true
  | .amoMax _ _ _ _ _ _ => true
  | .amoMinu _ _ _ _ _ _ => true
  | .amoMaxu _ _ _ _ _ _ => true
  | .amoSwap _ _ _ _ _ _ => true
  | .cas _ _ _ _ _ _ => true
  | .vld _ _ _ _ _ => true
  | .vst _ _ _ _ _ => true
  | .vlds _ _ _ _ _ => true
  | .vsts _ _ _ _ _ => true
  | .vldx _ _ _ _ _ => true
  | .vstx _ _ _ _ _ => true
  | .vld2 _ _ _ _ _ _ => true
  | .vst2 _ _ _ _ _ _ => true
  | .vamoAddClu _ _ _ _ _ => true
  | .vamoAndClu _ _ _ _ _ => true
  | .vamoOrClu _ _ _ _ _ => true
  | .vamoXorClu _ _ _ _ _ => true
  | .vamoMinClu _ _ _ _ _ => true
  | .vamoMaxClu _ _ _ _ _ => true
  | .vamoSwapClu _ _ _ _ _ => true
  | .vamoAddPkg _ _ _ _ _ => true
  | .vamoAndPkg _ _ _ _ _ => true
  | .vamoOrPkg _ _ _ _ _ => true
  | .vamoXorPkg _ _ _ _ _ => true
  | .vamoMinPkg _ _ _ _ _ => true
  | .vamoMaxPkg _ _ _ _ _ => true
  | .vamoSwapPkg _ _ _ _ _ => true
  | .vsetl _ _ rows _ => 1 ≤ rows.toNat && rows.toNat ≤ 8
  | .vdepth _ _ => true
  | .vstrip _ _ => true
  | .vwait md _ _ _ => md != 0
  | .cwait _ _ _ _ => true
  | .barInit _ _ => true
  | .barArr _ _ => true
  | .barExp _ _ => true
  | .barWait _ _ => true
  | .barTest _ _ => true
  | .vadd x vm _ _ _ => maskOk x vm
  | .vsub x vm _ _ _ => maskOk x vm
  | .vmul x vm _ _ _ => maskOk x vm
  | .vmulh x vm _ _ _ => maskOk x vm
  | .vmacc x vm _ _ _ => maskOk x vm
  | .vmin x vm _ _ _ => maskOk x vm
  | .vmax x vm _ _ _ => maskOk x vm
  | .vminu x vm _ _ _ => maskOk x vm
  | .vmaxu x vm _ _ _ => maskOk x vm
  | .vand x vm _ _ _ => maskOk x vm
  | .vor x vm _ _ _ => maskOk x vm
  | .vxor x vm _ _ _ => maskOk x vm
  | .vsll x vm _ _ _ => maskOk x vm
  | .vsrl x vm _ _ _ => maskOk x vm
  | .vsra x vm _ _ _ => maskOk x vm
  | .vclip x vm _ vs1 _ => maskOk x vm && vs1.val % 2 == 0
  | .vsadd x vm _ _ _ => maskOk x vm
  | .vssub x vm _ _ _ => maskOk x vm
  | .vsaddu x vm _ _ _ => maskOk x vm
  | .vssubu x vm _ _ _ => maskOk x vm
  | .vwadd x vm vd _ _ => maskOk x vm && vd.val % 2 == 0
  | .vwmul x vm vd _ _ => maskOk x vm && vd.val % 2 == 0
  | .vwmacc x vm vd _ _ => maskOk x vm && vd.val % 2 == 0
  | .vnsr x vm _ vs1 _ => maskOk x vm && vs1.val % 2 == 0
  | .vfadd x vm _ _ _ => maskOk x vm
  | .vfsub x vm _ _ _ => maskOk x vm
  | .vfmul x vm _ _ _ => maskOk x vm
  | .vfmacc x vm _ _ _ => maskOk x vm
  | .vfnmacc x vm _ _ _ => maskOk x vm
  | .vfdiv x vm _ _ _ => maskOk x vm
  | .vfsqrt x vm _ _ => maskOk x vm
  | .vfrece x vm _ _ => maskOk x vm
  | .vfrsqe x vm _ _ => maskOk x vm
  | .vfmin x vm _ _ _ => maskOk x vm
  | .vfmax x vm _ _ _ => maskOk x vm
  | .vfsgnj x vm _ _ _ => maskOk x vm
  | .vfclass x vm _ _ => maskOk x vm
  | .vcvt x vm _ _ _ => maskOk x vm
  | .vcvtb x vm vd vs1 vs2 => maskOk x vm && vs1.val % 4 == 0 && vs2 != vd
  | .vdecb x vm vd _ _ => maskOk x vm && vd.val % 4 == 0
  | .vcmp _ _ md _ _ => md != 0
  | .vfcmp _ _ md _ _ => md != 0
  | .vmlog _ md ma mb => md != 0 && ma != 0 && mb != 0
  | .vpopc _ ma => ma != 0
  | .vfirst _ ma => ma != 0
  | .vmerge vm _ _ _ => vm != 0
  | .vbcast _ _ _ => true
  | .vmvsx _ _ _ => true
  | .vslup _ _ _ _ => true
  | .vsldn _ _ _ _ => true
  | .vrgath _ _ _ _ => true
  | .vcomp vm _ _ => vm != 0
  | .vtrn _ _ => true
  | .vmvxs _ _ => true
  | .vredsum _ _ _ _ => true
  | .vredmax _ _ _ _ => true
  | .vredmin _ _ _ _ => true
  | .vredand _ _ _ _ => true
  | .vredor _ _ _ _ => true
  | .vfredo _ _ _ _ => true
  | .vfredt _ _ _ _ => true
  | .vfredmax _ _ _ _ => true
  | .vfredmin _ _ _ _ => true
  | .mrun _ _ _ => true
  | .mcfg _ _ _ _ => true
  | .mzero _ _ => true
  | .mdrain _ _ => true
  | .mcpyIn _ _ => true
  | .mcpyOut _ _ => true
  | .mstat _ => true
  | .tswWrite => true
  | .vptrsWrite => true
  | .vresumeWrite => true
  | .tcauseWrite => true
  | .stvecWrite => true
  | .trecWrite => true
  | .sipWrite => true
  | .fcsrAccess => true
  | .cwpRead => true
  | .pmcWrite => true
  | .pmcRead => true
  | .pmselWrite => true
  | .registerWrite => true
  | .interruptEntry => true
  | .trapRecordPost => true
  | .ownerLostRefusal => true
  | .shuttleWake => true
  | .waitLimitExpiry => true
  | .framePack => true
  | .frameCrcRetry => true
  | .frameArrival => true
  | .queuedFrameDelivery => true
  | .frameDeliveryFailed => true
  | .mixWindowEnd => true
  | .mixMigration => true
  | .exitRelease => true
  | .startEntryServed => true
  | .vectorUnitStart => true
  | .vectorCompletion => true
  | .vectorQueueParityError => true
  | .depthGrantComplete => true
  | .qaEntryArrival => true
  | .qkCommandArrival => true
  | .arm => true
  | .zero => true
  | .drain => true
  | .drainRow => true
  | .bar => true
  | .mcpy => true
  | .qaConsume => true
  | .tlDecrement => true
  | .qkParityError => true
  | .register => true
  | .registrationGrant => true
  | .evict => true
  | .fill => true
  | .homeRead => true
  | .watchWake => true
  | .ringPostApply => true
  | .feRequestResend => true
  | .vwaitPoll => true
  | .vwaitTimeout => true
  | .copyBlockDelivered => true
  | .copyComplete => true
  | .copyFault => true
  | .plbFill => true
  | .atbFill => true
  | .pagePull => true
  | .pullFailed => true
  | .pageMoveDown => true
  | .backgroundPull => true
  | .pageRestore => true
  | .kick => true
  | .ring => true
  | .wbase => true
  | .bar2Access => true
  | .skein => true
  | .start => true
  | .wait => true
  | .signal => true
  | .fenceRecord => true
  | .dependenceAwait => true
  | .residencyGatePass => true
  | .waitQueueRearm => true
  | .signalWordPoll => true
  | .preEmptionNotice => true
  | .bobbinRefill => true
  | .worldSwitch => true
  | .resumeGatePass => true
  | .timer => true
  | .timerDeadline => true
  | .vfInformation => true
  | .protection => true
  | .ownerLostClearing => true
  | .queueControl => true
  | .rangeInstallAndRemoval => true
  | .scrub => true
  | .bindVf => true
  | .unbindVf => true
  | .homeMaskEntry => true
  | .scheduleEntry => true
  | .addSection => true
  | .removeSection => true
  | .readConfiguration => true
  | .tier => true
  | .vfConfiguration => true
  | .logConfiguration => true
  | .pageTable => true
  | .erratumEntry => true
  | .dumpRead => true
  | .evacuate => true
  | .openForImport => true
  | .collectiveGroup => true
  | .interruptRouting => true
  | .unknownService => true
  | .serviceCompletion => true
  | .spdmRequest => true
  | .lockInterfaceRequest => true
  | .stopInterface => true
  | .vfReset => true
  | .logWindowEnd => true
  | .patrolScrub => true
  | .firmwareReelection => true
  | .coreLoss => true
  | .plannedFence => true
  | .fatalError => true
  | .bringUp => true
  | .clockThrottle => true
  | .hbmRowSparing => true
  | .cxlLinkDown => true
  | .uePortDown => true
  | .collectiveComplete => true
  | .atom => true
  | .collectiveAbort => true
  | .peerResponseTimeout => true
  | .illegalInstruction _ => true
  | .startOffer => true
  | .startInterfaceRequest => true
  | .cxlLinkUp => true
  | .uePortUp => true
  | .meshLinkLoss => true
  | .securityUnitLoss => true
  | .warmReset => true
  | .cycleCounterOverflow => true
  | .partitionImport => true
  | .evacuationTargetLost => true

end Sys2Proof
end

