-- ==== Sys2Proof/Decode.lean ====
section
/-! DEFINITION. The decoder of QK9-A, total on any bytes, and after it the encoder, both written from the encoding tables
R35 to R39, R46 to R54, R61 and R62. A word is cut into the six fields that every format of R37 shares (opcode, rd, funct3,
rs1, rs2, and bits [31:25]); a word that is no instruction is rejected by the name of its cause, in the order of R45. -/

namespace Sys2Proof

/-- Why a word is no instruction (R45 orders 2, 3 and 4): illegal 0x0.0.0, reserved for a later generation 0x0.0.1, or an
integer-register field of 16 or more 0x0.0.5. -/
inductive Reject where
  | illegal
  | reservedLater
  | registerField
  deriving DecidableEq, Repr

/-- What the decoder answers. -/
inductive Decoded where
  | instr (i : Instr)
  | reject (r : Reject)
  deriving DecidableEq, Repr

/-- The six bit ranges of an instruction word: [6:0], [11:7], [14:12], [19:15], [24:20], [31:25] (R37). -/
structure WordFields where
  op : Nat
  rd : Nat
  f3 : Nat
  rs1 : Nat
  rs2 : Nat
  f7 : Nat
  deriving DecidableEq, Repr

/-- The fields of a 32-bit word. -/
def fieldsOf (n : Nat) : WordFields :=
  ⟨n % 128, n / 128 % 32, n / 4096 % 8, n / 32768 % 32, n / 1048576 % 32, n / 33554432 % 128⟩

/-- The word of six fields. -/
def WordFields.pack (f : WordFields) : Nat :=
  f.op + f.rd * 128 + f.f3 * 4096 + f.rs1 * 32768 + f.rs2 * 1048576 + f.f7 * 33554432

/-- The codes of the scope field (R37). -/
def Scope.code : Scope → Nat
  | .core => 0 | .clu => 1 | .pkg => 2 | .sys => 3

/-- The scope of a code. -/
def scopeOf : Nat → Scope
  | 0 => .core | 1 => .clu | 2 => .pkg | _ => .sys

/-- The codes of the ordering field (R49). -/
def Order.code : Order → Nat
  | .none => 0 | .acq => 1 | .rel => 2 | .ar => 3

/-- The ordering of a code. -/
def orderOf : Nat → Order
  | 0 => .none | 1 => .acq | 2 => .rel | _ => .ar

/-- The codes of the atomic width (R49). -/
def Width.code : Width → Nat
  | .w => 0 | .d => 1

/-- The width of a code. -/
def widthOf : Nat → Width
  | 0 => .w | _ => .d

/-- The ETYPE codes (R19). -/
def EType.code : EType → Nat
  | .i2 => 0 | .i4 => 1 | .i8 => 2 | .i16 => 3 | .i32 => 4 | .ui8 => 5 | .ui16 => 6 | .ui32 => 7
  | .bf16 => 8 | .f16 => 9 | .f32 => 10 | .t8 => 11 | .t6 => 12

/-- The element type of a code; 0xD to 0xF are none (R19). -/
def etypeOf : Nat → Option EType
  | 0 => some .i2 | 1 => some .i4 | 2 => some .i8 | 3 => some .i16 | 4 => some .i32 | 5 => some .ui8
  | 6 => some .ui16 | 7 => some .ui32 | 8 => some .bf16 | 9 => some .f16 | 10 => some .f32
  | 11 => some .t8 | 12 => some .t6 | _ => none

/-- The condition codes (R52). -/
def Cond.code : Cond → Nat
  | .eq => 0 | .ne => 1 | .lt => 2 | .le => 3

/-- The condition of a code. -/
def condOf : Nat → Cond
  | 0 => .eq | 1 => .ne | 2 => .lt | _ => .le

/-- The codes of the mask operations (R52). -/
def MaskOp.code : MaskOp → Nat
  | .and => 0 | .or => 1 | .xor => 2 | .andn => 3

/-- The mask operation of a code. -/
def maskOpOf : Nat → MaskOp
  | 0 => .and | 1 => .or | 2 => .xor | _ => .andn

/-- The format-pair codes (R54). -/
def FormatPair.code : FormatPair → Nat
  | .bf16bf16 => 0 | .f16f16 => 1 | .t8t8 => 2 | .t6t6 => 3 | .t8t6 => 4 | .t6t8 => 5 | .i8i8 => 6
  | .i4i4 => 7 | .i2i2 => 8

/-- The format pair of a code; 9 to 15 are none (R54). -/
def pairOf : Nat → Option FormatPair
  | 0 => some .bf16bf16 | 1 => some .f16f16 | 2 => some .t8t8 | 3 => some .t6t6 | 4 => some .t8t6
  | 5 => some .t6t8 | 6 => some .i8i8 | 7 => some .i4i4 | 8 => some .i2i2 | _ => none

/-- A one-bit field of a Bool. -/
def lb (b : Bool) : Nat := if b then 1 else 0

/-- Illegal, 0x0.0.0. -/
def bad : Decoded := .reject .illegal

/-- Build an instruction from one integer-register field (R38). -/
def x1 (a : Nat) (k : XReg → Instr) : Decoded :=
  if h : a < 16 then .instr (k ⟨a, h⟩) else .reject .registerField

/-- Build an instruction from two integer-register fields (R38). -/
def x2 (a b : Nat) (k : XReg → XReg → Instr) : Decoded :=
  if ha : a < 16 then (if hb : b < 16 then .instr (k ⟨a, ha⟩ ⟨b, hb⟩) else .reject .registerField)
  else .reject .registerField

/-- Build an instruction from three integer-register fields (R38). -/
def x3 (a b c : Nat) (k : XReg → XReg → XReg → Instr) : Decoded :=
  if ha : a < 16 then
    (if hb : b < 16 then (if hc : c < 16 then .instr (k ⟨a, ha⟩ ⟨b, hb⟩ ⟨c, hc⟩) else .reject .registerField)
     else .reject .registerField)
  else .reject .registerField

/-- A vector register field. -/
def vr (a : Nat) : VReg := Fin.ofNat 32 a
/-- A mask register field. -/
def mr (a : Nat) : MReg := Fin.ofNat 8 a
/-- A field of w bits. -/
def bf (w a : Nat) : BitVec w := BitVec.ofNat w a

/-- The 12-bit I-format immediate. -/
def WordFields.imm12 (f : WordFields) : BitVec 12 := bf 12 (f.rs2 + f.f7 * 32)
/-- The 12-bit S-format immediate. -/
def WordFields.simm (f : WordFields) : BitVec 12 := bf 12 (f.rd + f.f7 * 32)
/-- Bits [12:1] of the B-format offset. -/
def WordFields.boff (f : WordFields) : BitVec 12 :=
  bf 12 (f.rd / 2 + f.f7 % 64 * 16 + f.rd % 2 * 1024 + f.f7 / 64 * 2048)
/-- Bits [31:12] of the U-format immediate. -/
def WordFields.uimm20 (f : WordFields) : BitVec 20 := bf 20 (f.f3 + f.rs1 * 8 + f.rs2 * 256 + f.f7 * 8192)
/-- Bits [20:1] of the J-format offset. -/
def WordFields.joff (f : WordFields) : BitVec 20 :=
  bf 20 (f.rs2 / 2 + f.f7 % 64 * 16 + f.rs2 % 2 * 1024 + f.f3 * 2048 + f.rs1 * 16384 + f.f7 / 64 * 524288)

/-- LOAD (R61). -/
def decodeLoad (f : WordFields) : Decoded :=
  match f.f3 with
  | 0 => x2 f.rd f.rs1 fun rd rs1 => .lb rd rs1 f.imm12
  | 1 => x2 f.rd f.rs1 fun rd rs1 => .lh rd rs1 f.imm12
  | 2 => x2 f.rd f.rs1 fun rd rs1 => .lw rd rs1 f.imm12
  | 3 => x2 f.rd f.rs1 fun rd rs1 => .ld rd rs1 f.imm12
  | 4 => x2 f.rd f.rs1 fun rd rs1 => .lbu rd rs1 f.imm12
  | 5 => x2 f.rd f.rs1 fun rd rs1 => .lhu rd rs1 f.imm12
  | 6 => x2 f.rd f.rs1 fun rd rs1 => .lwu rd rs1 f.imm12
  | _ => bad

/-- STORE (R61). -/
def decodeStore (f : WordFields) : Decoded :=
  match f.f3 with
  | 0 => x2 f.rs1 f.rs2 fun rs1 rs2 => .sb rs1 rs2 f.simm
  | 1 => x2 f.rs1 f.rs2 fun rs1 rs2 => .sh rs1 rs2 f.simm
  | 2 => x2 f.rs1 f.rs2 fun rs1 rs2 => .sw rs1 rs2 f.simm
  | 3 => x2 f.rs1 f.rs2 fun rs1 rs2 => .sd rs1 rs2 f.simm
  | _ => bad

/-- BRANCH (R61). -/
def decodeBranch (f : WordFields) : Decoded :=
  match f.f3 with
  | 0 => x2 f.rs1 f.rs2 fun rs1 rs2 => .beq rs1 rs2 f.boff
  | 1 => x2 f.rs1 f.rs2 fun rs1 rs2 => .bne rs1 rs2 f.boff
  | 4 => x2 f.rs1 f.rs2 fun rs1 rs2 => .blt rs1 rs2 f.boff
  | 5 => x2 f.rs1 f.rs2 fun rs1 rs2 => .bge rs1 rs2 f.boff
  | 6 => x2 f.rs1 f.rs2 fun rs1 rs2 => .bltu rs1 rs2 f.boff
  | 7 => x2 f.rs1 f.rs2 fun rs1 rs2 => .bgeu rs1 rs2 f.boff
  | _ => bad

/-- OP-IMM (R61); the shifts fix bits [31:26]. -/
def decodeOpImm (f : WordFields) : Decoded :=
  match f.f3 with
  | 0 => x2 f.rd f.rs1 fun rd rs1 => .addi rd rs1 f.imm12
  | 2 => x2 f.rd f.rs1 fun rd rs1 => .slti rd rs1 f.imm12
  | 3 => x2 f.rd f.rs1 fun rd rs1 => .sltiu rd rs1 f.imm12
  | 4 => x2 f.rd f.rs1 fun rd rs1 => .xori rd rs1 f.imm12
  | 6 => x2 f.rd f.rs1 fun rd rs1 => .ori rd rs1 f.imm12
  | 7 => x2 f.rd f.rs1 fun rd rs1 => .andi rd rs1 f.imm12
  | 1 => if f.f7 / 2 = 0 then x2 f.rd f.rs1 fun rd rs1 => .slli rd rs1 (bf 6 (f.rs2 + f.f7 % 2 * 32)) else bad
  | 5 => if f.f7 / 2 = 0 then x2 f.rd f.rs1 fun rd rs1 => .srli rd rs1 (bf 6 (f.rs2 + f.f7 % 2 * 32))
    else if f.f7 / 2 = 16 then x2 f.rd f.rs1 fun rd rs1 => .srai rd rs1 (bf 6 (f.rs2 + f.f7 % 2 * 32)) else bad
  | _ => bad

/-- OP-IMM-32 (R61). -/
def decodeOpImm32 (f : WordFields) : Decoded :=
  match f.f3, f.f7 with
  | 0, _ => x2 f.rd f.rs1 fun rd rs1 => .addiw rd rs1 f.imm12
  | 1, 0 => x2 f.rd f.rs1 fun rd rs1 => .slliw rd rs1 (bf 5 f.rs2)
  | 5, 0 => x2 f.rd f.rs1 fun rd rs1 => .srliw rd rs1 (bf 5 f.rs2)
  | 5, 32 => x2 f.rd f.rs1 fun rd rs1 => .sraiw rd rs1 (bf 5 f.rs2)
  | _, _ => bad

/-- OP: base and M (R61). -/
def decodeOp (f : WordFields) : Decoded :=
  match f.f3, f.f7 with
  | 0, 0 => x3 f.rd f.rs1 f.rs2 fun rd rs1 rs2 => .add rd rs1 rs2
  | 0, 32 => x3 f.rd f.rs1 f.rs2 fun rd rs1 rs2 => .sub rd rs1 rs2
  | 1, 0 => x3 f.rd f.rs1 f.rs2 fun rd rs1 rs2 => .sll rd rs1 rs2
  | 2, 0 => x3 f.rd f.rs1 f.rs2 fun rd rs1 rs2 => .slt rd rs1 rs2
  | 3, 0 => x3 f.rd f.rs1 f.rs2 fun rd rs1 rs2 => .sltu rd rs1 rs2
  | 4, 0 => x3 f.rd f.rs1 f.rs2 fun rd rs1 rs2 => .xor rd rs1 rs2
  | 5, 0 => x3 f.rd f.rs1 f.rs2 fun rd rs1 rs2 => .srl rd rs1 rs2
  | 5, 32 => x3 f.rd f.rs1 f.rs2 fun rd rs1 rs2 => .sra rd rs1 rs2
  | 6, 0 => x3 f.rd f.rs1 f.rs2 fun rd rs1 rs2 => .or rd rs1 rs2
  | 7, 0 => x3 f.rd f.rs1 f.rs2 fun rd rs1 rs2 => .and rd rs1 rs2
  | 0, 1 => x3 f.rd f.rs1 f.rs2 fun rd rs1 rs2 => .mul rd rs1 rs2
  | 1, 1 => x3 f.rd f.rs1 f.rs2 fun rd rs1 rs2 => .mulh rd rs1 rs2
  | 2, 1 => x3 f.rd f.rs1 f.rs2 fun rd rs1 rs2 => .mulhsu rd rs1 rs2
  | 3, 1 => x3 f.rd f.rs1 f.rs2 fun rd rs1 rs2 => .mulhu rd rs1 rs2
  | 4, 1 => x3 f.rd f.rs1 f.rs2 fun rd rs1 rs2 => .div rd rs1 rs2
  | 5, 1 => x3 f.rd f.rs1 f.rs2 fun rd rs1 rs2 => .divu rd rs1 rs2
  | 6, 1 => x3 f.rd f.rs1 f.rs2 fun rd rs1 rs2 => .rem rd rs1 rs2
  | 7, 1 => x3 f.rd f.rs1 f.rs2 fun rd rs1 rs2 => .remu rd rs1 rs2
  | _, _ => bad

/-- OP-32: base and M (R61). -/
def decodeOp32 (f : WordFields) : Decoded :=
  match f.f3, f.f7 with
  | 0, 0 => x3 f.rd f.rs1 f.rs2 fun rd rs1 rs2 => .addw rd rs1 rs2
  | 0, 32 => x3 f.rd f.rs1 f.rs2 fun rd rs1 rs2 => .subw rd rs1 rs2
  | 1, 0 => x3 f.rd f.rs1 f.rs2 fun rd rs1 rs2 => .sllw rd rs1 rs2
  | 5, 0 => x3 f.rd f.rs1 f.rs2 fun rd rs1 rs2 => .srlw rd rs1 rs2
  | 5, 32 => x3 f.rd f.rs1 f.rs2 fun rd rs1 rs2 => .sraw rd rs1 rs2
  | 0, 1 => x3 f.rd f.rs1 f.rs2 fun rd rs1 rs2 => .mulw rd rs1 rs2
  | 4, 1 => x3 f.rd f.rs1 f.rs2 fun rd rs1 rs2 => .divw rd rs1 rs2
  | 5, 1 => x3 f.rd f.rs1 f.rs2 fun rd rs1 rs2 => .divuw rd rs1 rs2
  | 6, 1 => x3 f.rd f.rs1 f.rs2 fun rd rs1 rs2 => .remw rd rs1 rs2
  | 7, 1 => x3 f.rd f.rs1 f.rs2 fun rd rs1 rs2 => .remuw rd rs1 rs2
  | _, _ => bad

/-- MISC-MEM: the rs1 and rd fields are ignored (R61, R62). -/
def decodeMiscMem (f : WordFields) : Decoded :=
  match f.f3 with
  | 0 => .instr (.fence (bf 4 (f.f7 / 8)) (bf 4 (f.f7 % 8 * 2 + f.rs2 / 16)) (bf 4 (f.rs2 % 16)) (bf 5 f.rs1) (bf 5 f.rd))
  | 1 => .instr (.fenceI f.imm12 (bf 5 f.rs1) (bf 5 f.rd))
  | _ => bad

/-- SYSTEM: five fixed words and the CSR forms (R61, R62). -/
def decodeSystem (f : WordFields) : Decoded :=
  match f.f3 with
  | 0 => if f.rd = 0 ∧ f.rs1 = 0 then
      (match f.rs2, f.f7 with
       | 0, 0 => .instr .ecall
       | 1, 0 => .instr .ebreak
       | 2, 8 => .instr .sret
       | 2, 24 => .instr .mret
       | 5, 8 => .instr .wfi
       | _, _ => bad)
    else bad
  | 1 => x2 f.rd f.rs1 fun rd rs1 => .csrrw rd rs1 f.imm12
  | 2 => x2 f.rd f.rs1 fun rd rs1 => .csrrs rd rs1 f.imm12
  | 3 => x2 f.rd f.rs1 fun rd rs1 => .csrrc rd rs1 f.imm12
  | 5 => x1 f.rd fun rd => .csrrwi rd (bf 5 f.rs1) f.imm12
  | 6 => x1 f.rd fun rd => .csrrsi rd (bf 5 f.rs1) f.imm12
  | 7 => x1 f.rd fun rd => .csrrci rd (bf 5 f.rs1) f.imm12
  | _ => bad

/-- rm 101 and 110 are illegal (R69). -/
def rmGate (f : WordFields) (k : BitVec 3 → Decoded) : Decoded :=
  if f.f3 = 5 ∨ f.f3 = 6 then bad else k (bf 3 f.f3)

/-- OP-FP: Zfinx single precision (R61, R69). -/
def decodeOpFp (f : WordFields) : Decoded :=
  match f.f7 with
  | 0 => rmGate f fun rm => x3 f.rd f.rs1 f.rs2 fun rd rs1 rs2 => .faddS rd rs1 rs2 rm
  | 4 => rmGate f fun rm => x3 f.rd f.rs1 f.rs2 fun rd rs1 rs2 => .fsubS rd rs1 rs2 rm
  | 8 => rmGate f fun rm => x3 f.rd f.rs1 f.rs2 fun rd rs1 rs2 => .fmulS rd rs1 rs2 rm
  | 12 => rmGate f fun rm => x3 f.rd f.rs1 f.rs2 fun rd rs1 rs2 => .fdivS rd rs1 rs2 rm
  | 44 => if f.rs2 = 0 then rmGate f fun rm => x2 f.rd f.rs1 fun rd rs1 => .fsqrtS rd rs1 rm else bad
  | 16 => (match f.f3 with
     | 0 => x3 f.rd f.rs1 f.rs2 fun rd rs1 rs2 => .fsgnjS rd rs1 rs2
     | 1 => x3 f.rd f.rs1 f.rs2 fun rd rs1 rs2 => .fsgnjnS rd rs1 rs2
     | 2 => x3 f.rd f.rs1 f.rs2 fun rd rs1 rs2 => .fsgnjxS rd rs1 rs2
     | _ => bad)
  | 20 => (match f.f3 with
     | 0 => x3 f.rd f.rs1 f.rs2 fun rd rs1 rs2 => .fminS rd rs1 rs2
     | 1 => x3 f.rd f.rs1 f.rs2 fun rd rs1 rs2 => .fmaxS rd rs1 rs2
     | _ => bad)
  | 80 => (match f.f3 with
     | 2 => x3 f.rd f.rs1 f.rs2 fun rd rs1 rs2 => .feqS rd rs1 rs2
     | 1 => x3 f.rd f.rs1 f.rs2 fun rd rs1 rs2 => .fltS rd rs1 rs2
     | 0 => x3 f.rd f.rs1 f.rs2 fun rd rs1 rs2 => .fleS rd rs1 rs2
     | _ => bad)
  | 96 => (match f.rs2 with
     | 0 => rmGate f fun rm => x2 f.rd f.rs1 fun rd rs1 => .fcvtWS rd rs1 rm
     | 1 => rmGate f fun rm => x2 f.rd f.rs1 fun rd rs1 => .fcvtWuS rd rs1 rm
     | 2 => rmGate f fun rm => x2 f.rd f.rs1 fun rd rs1 => .fcvtLS rd rs1 rm
     | 3 => rmGate f fun rm => x2 f.rd f.rs1 fun rd rs1 => .fcvtLuS rd rs1 rm
     | _ => bad)
  | 104 => (match f.rs2 with
     | 0 => rmGate f fun rm => x2 f.rd f.rs1 fun rd rs1 => .fcvtSW rd rs1 rm
     | 1 => rmGate f fun rm => x2 f.rd f.rs1 fun rd rs1 => .fcvtSWu rd rs1 rm
     | 2 => rmGate f fun rm => x2 f.rd f.rs1 fun rd rs1 => .fcvtSL rd rs1 rm
     | 3 => rmGate f fun rm => x2 f.rd f.rs1 fun rd rs1 => .fcvtSLu rd rs1 rm
     | _ => bad)
  | 112 => if f.rs2 = 0 ∧ f.f3 = 1 then x2 f.rd f.rs1 fun rd rs1 => .fclassS rd rs1 else bad
  | _ => bad

/-- The four-register format: fmt [26:25] is 0 and rs3 is [31:27] (R61, R62). -/
def decodeFma (f : WordFields) (k : XReg → XReg → XReg → XReg → BitVec 3 → Instr) : Decoded :=
  if f.f7 % 4 = 0 then
    rmGate f fun rm =>
      if h : f.f7 / 4 < 16 then x3 f.rd f.rs1 f.rs2 fun rd rs1 rs2 => k rd rs1 rs2 ⟨f.f7 / 4, h⟩ rm
      else .reject .registerField
  else bad

/-- The scope field of an SX word. -/
def WordFields.scope (f : WordFields) : Nat := f.f7 % 4
/-- The f4 field of an SX word. -/
def WordFields.f4 (f : WordFields) : Nat := f.f7 / 4 % 16
/-- The L bit of an SX or SI word (R37). -/
def WordFields.lbit (f : WordFields) : Bool := f.f7 / 64 % 2 == 1

/-- Custom-0, funct3 000 (R46). -/
def decodeSx0 (f : WordFields) : Decoded :=
  match f.f4 with
  | 0 => if f.scope = 0 then x3 f.rd f.rs1 f.rs2 fun rd rs1 rs2 => .shstart rd rs1 rs2 else bad
  | 1 => if f.scope = 0 ∧ f.rd = 0 then
      (match f.rs2 with
       | 0 => x1 f.rs1 fun rs1 => .shmove rs1
       | 1 => x1 f.rs1 fun rs1 => .shmoveHome rs1
       | _ => bad)
    else bad
  | 2 => if f.scope = 0 ∧ f.rd = 0 ∧ f.rs1 = 0 ∧ f.rs2 = 0 then .instr .shexit else bad
  | 3 => if f.scope = 0 ∧ f.rd = 0 ∧ f.rs1 = 0 ∧ f.rs2 = 0 then .instr .shyield else bad
  | 4 => if f.scope = 0 ∧ f.rd = 0 ∧ f.rs2 / 8 = 0 then x1 f.rs1 fun rs1 => .ipost (bf 3 f.rs2) rs1 else bad
  | 5 => if f.scope = 0 ∧ f.rd = 0 ∧ f.rs2 / 8 = 0 then x1 f.rs1 fun rs1 => .iwait (bf 3 f.rs2) rs1 else bad
  | 6 => if f.rd = 0 ∧ f.rs1 = 0 then
      (match f.rs2 with
       | 1 => .instr (.fenceSAcq (scopeOf f.scope))
       | 2 => .instr (.fenceSRel (scopeOf f.scope))
       | 3 => .instr (.fenceSAr (scopeOf f.scope))
       | _ => bad)
    else bad
  | 7 => if f.scope = 0 ∧ f.rd = 0 ∧ f.rs2 = 0 then x1 f.rs1 fun rs1 => .fenceQ rs1 else bad
  | 8 => if f.rd = 0 ∧ f.scope ≠ 0 then x2 f.rs1 f.rs2 fun rs1 rs2 => .invR (scopeOf f.scope) rs1 rs2 else bad
  | 9 => if f.rd = 0 ∧ f.scope ≠ 0 then x2 f.rs1 f.rs2 fun rs1 rs2 => .wbR (scopeOf f.scope) rs1 rs2 else bad
  | 10 => if f.rs2 = 0 then x2 f.rd f.rs1 fun rd rs1 => .ldAcqW (scopeOf f.scope) rd rs1 else bad
  | 11 => if f.rs2 = 0 then x2 f.rd f.rs1 fun rd rs1 => .ldAcqD (scopeOf f.scope) rd rs1 else bad
  | 12 => if f.rd = 0 then x2 f.rs1 f.rs2 fun rs1 rs2 => .stRelW (scopeOf f.scope) rs1 rs2 else bad
  | 13 => if f.rd = 0 then x2 f.rs1 f.rs2 fun rs1 rs2 => .stRelD (scopeOf f.scope) rs1 rs2 else bad
  | 14 => if f.rd = 0 then
      (match f.scope with
       | 0 => x2 f.rs1 f.rs2 fun rs1 rs2 => .tierHintHot rs1 rs2
       | 1 => x2 f.rs1 f.rs2 fun rs1 rs2 => .tierHintCold rs1 rs2
       | _ => bad)
    else bad
  | _ => bad

/-- Custom-0, funct3 001: full/empty words (R47). -/
def decodeSx1 (f : WordFields) : Decoded :=
  match if f.scope = 0 then f.f4 else 15 with
  | 0 => if f.rs2 = 0 then x2 f.rd f.rs1 fun rd rs1 => .ldfe rd rs1 else bad
  | 1 => if f.rd = 0 then x2 f.rs1 f.rs2 fun rs1 rs2 => .stfe rs1 rs2 else bad
  | 2 => if f.rs2 = 0 then x2 f.rd f.rs1 fun rd rs1 => .ldff rd rs1 else bad
  | 3 => if f.rd = 0 then
      (match f.rs2 with
       | 0 => x1 f.rs1 fun rs1 => .feSetEmpty rs1
       | 1 => x1 f.rs1 fun rs1 => .feSetFull rs1
       | _ => bad)
    else bad
  | _ => bad

/-- Custom-0, funct3 010: queues, copies, collectives (R48). -/
def decodeSx2 (f : WordFields) : Decoded :=
  match f.f4, f.scope with
  | 0, 0 => x2 f.rs1 f.rs2 fun rs1 rs2 => .qpushQa (vr f.rd) rs1 rs2
  | 0, 1 => x3 f.rd f.rs1 f.rs2 fun rd rs1 rs2 => .qpushQk rd rs1 rs2
  | 1, 2 => if f.rs2 = 0 then x1 f.rs1 fun rs1 => .qpopQd (vr f.rd) rs1 else bad
  | 2, 0 => if f.rs2 = 0 then x2 f.rd f.rs1 fun rd rs1 => .qstatQa rd rs1 else bad
  | 2, 1 => if f.rs2 = 0 then x2 f.rd f.rs1 fun rd rs1 => .qstatQk rd rs1 else bad
  | 2, 2 => if f.rs2 = 0 then x2 f.rd f.rs1 fun rd rs1 => .qstatQd rd rs1 else bad
  | 3, 0 => if f.rd / 16 = 0 then x2 f.rs1 f.rs2 fun rs1 rs2 => .cpy (bf 4 f.rd) rs1 rs2 else bad
  | 4, 0 => if f.rd / 16 = 0 then x2 f.rs1 f.rs2 fun rs1 rs2 => .cpy2d (bf 4 f.rd) rs1 rs2 else bad
  | 5, 0 => if f.rd / 16 = 0 then x2 f.rs1 f.rs2 fun rs1 rs2 => .cpyB (bf 4 f.rd) rs1 rs2 else bad
  | 6, 2 => if f.rs2 = 0 then x2 f.rd f.rs1 fun rd rs1 => .collPostPkg rd rs1 else bad
  | 6, 3 => if f.rs2 = 0 then x2 f.rd f.rs1 fun rd rs1 => .collPostSys rd rs1 else bad
  | 7, 0 => if f.rs2 = 0 then x2 f.rd f.rs1 fun rd rs1 => .collTest rd rs1 else bad
  | _, _ => bad

/-- Custom-0, funct3 011 to 111: scalar atomics (R49). -/
def decodeAmo (f : WordFields) : Decoded :=
  match f.f3, f.f7 / 32 % 2 with
  | 3, 0 => x3 f.rd f.rs1 f.rs2 fun rd rs1 rs2 => .amoAdd (widthOf (f.f7 / 16 % 2)) (orderOf (f.f7 / 4 % 4)) (scopeOf f.scope) rd rs1 rs2
  | 3, 1 => x3 f.rd f.rs1 f.rs2 fun rd rs1 rs2 => .amoAnd (widthOf (f.f7 / 16 % 2)) (orderOf (f.f7 / 4 % 4)) (scopeOf f.scope) rd rs1 rs2
  | 4, 0 => x3 f.rd f.rs1 f.rs2 fun rd rs1 rs2 => .amoOr (widthOf (f.f7 / 16 % 2)) (orderOf (f.f7 / 4 % 4)) (scopeOf f.scope) rd rs1 rs2
  | 4, 1 => x3 f.rd f.rs1 f.rs2 fun rd rs1 rs2 => .amoXor (widthOf (f.f7 / 16 % 2)) (orderOf (f.f7 / 4 % 4)) (scopeOf f.scope) rd rs1 rs2
  | 5, 0 => x3 f.rd f.rs1 f.rs2 fun rd rs1 rs2 => .amoMin (widthOf (f.f7 / 16 % 2)) (orderOf (f.f7 / 4 % 4)) (scopeOf f.scope) rd rs1 rs2
  | 5, 1 => x3 f.rd f.rs1 f.rs2 fun rd rs1 rs2 => .amoMax (widthOf (f.f7 / 16 % 2)) (orderOf (f.f7 / 4 % 4)) (scopeOf f.scope) rd rs1 rs2
  | 6, 0 => x3 f.rd f.rs1 f.rs2 fun rd rs1 rs2 => .amoMinu (widthOf (f.f7 / 16 % 2)) (orderOf (f.f7 / 4 % 4)) (scopeOf f.scope) rd rs1 rs2
  | 6, 1 => x3 f.rd f.rs1 f.rs2 fun rd rs1 rs2 => .amoMaxu (widthOf (f.f7 / 16 % 2)) (orderOf (f.f7 / 4 % 4)) (scopeOf f.scope) rd rs1 rs2
  | 7, 0 => x3 f.rd f.rs1 f.rs2 fun rd rs1 rs2 => .amoSwap (widthOf (f.f7 / 16 % 2)) (orderOf (f.f7 / 4 % 4)) (scopeOf f.scope) rd rs1 rs2
  | 7, 1 => x3 f.rd f.rs1 f.rs2 fun rd rs1 rs2 => .cas (widthOf (f.f7 / 16 % 2)) (orderOf (f.f7 / 4 % 4)) (scopeOf f.scope) rd rs1 rs2
  | _, _ => bad

/-- Custom-0 (R46 to R49). -/
def decodeSx (f : WordFields) : Decoded :=
  match f.f3 with
  | 0 => decodeSx0 f
  | 1 => decodeSx1 f
  | 2 => decodeSx2 f
  | _ => decodeAmo f

/-- The O bit of a vector memory word (R50). -/
def WordFields.obit (f : WordFields) : Bool := f.f7 / 4 % 2 == 1
/-- The V bit of a vector memory word (R50). -/
def WordFields.vbit (f : WordFields) : Bool := f.f7 / 2 % 2 == 1
/-- The P bit of a vector memory word (R50). -/
def WordFields.pbit (f : WordFields) : Bool := f.f7 % 2 == 1

/-- Custom-1, funct3 000: vector loads and stores (R50, R151). -/
def decodeVmem (f : WordFields) : Decoded :=
  match f.f7 / 8 % 8 with
  | 0 => if f.rs2 = 0 then x1 f.rs1 fun rs1 => .vld f.obit f.vbit f.pbit (vr f.rd) rs1 else bad
  | 1 => if f.rs2 = 0 then x1 f.rs1 fun rs1 => .vst f.obit f.vbit f.pbit (vr f.rd) rs1 else bad
  | 2 => if f.f7 % 2 = 0 then x2 f.rs1 f.rs2 fun rs1 rs2 => .vlds f.obit f.vbit (vr f.rd) rs1 rs2 else bad
  | 3 => if f.f7 % 2 = 0 then x2 f.rs1 f.rs2 fun rs1 rs2 => .vsts f.obit f.vbit (vr f.rd) rs1 rs2 else bad
  | 4 => if f.f7 % 2 = 0 then x1 f.rs1 fun rs1 => .vldx f.obit f.vbit (vr f.rd) rs1 (vr f.rs2) else bad
  | 5 => if f.f7 % 2 = 0 then x1 f.rs1 fun rs1 => .vstx f.obit f.vbit (vr f.rd) rs1 (vr f.rs2) else bad
  | 6 => x2 f.rs1 f.rs2 fun rs1 rs2 => .vld2 f.obit f.vbit f.pbit (vr f.rd) rs1 rs2
  | 7 => x2 f.rs1 f.rs2 fun rs1 rs2 => .vst2 f.obit f.vbit f.pbit (vr f.rd) rs1 rs2
  | _ => bad

/-- Custom-1, funct3 001: `vamo` (R50). -/
def decodeVamoClu (f : WordFields) : Decoded :=
  match f.f7 / 8 % 8 with
  | 0 => x1 f.rs1 fun rs1 => .vamoAddClu f.obit (orderOf (f.f7 % 4)) (vr f.rd) rs1 (vr f.rs2)
  | 1 => x1 f.rs1 fun rs1 => .vamoAndClu f.obit (orderOf (f.f7 % 4)) (vr f.rd) rs1 (vr f.rs2)
  | 2 => x1 f.rs1 fun rs1 => .vamoOrClu f.obit (orderOf (f.f7 % 4)) (vr f.rd) rs1 (vr f.rs2)
  | 3 => x1 f.rs1 fun rs1 => .vamoXorClu f.obit (orderOf (f.f7 % 4)) (vr f.rd) rs1 (vr f.rs2)
  | 4 => x1 f.rs1 fun rs1 => .vamoMinClu f.obit (orderOf (f.f7 % 4)) (vr f.rd) rs1 (vr f.rs2)
  | 5 => x1 f.rs1 fun rs1 => .vamoMaxClu f.obit (orderOf (f.f7 % 4)) (vr f.rd) rs1 (vr f.rs2)
  | 6 => x1 f.rs1 fun rs1 => .vamoSwapClu f.obit (orderOf (f.f7 % 4)) (vr f.rd) rs1 (vr f.rs2)
  | _ => bad

/-- Custom-1, funct3 010: `vamo` (R50). -/
def decodeVamoPkg (f : WordFields) : Decoded :=
  match f.f7 / 8 % 8 with
  | 0 => x1 f.rs1 fun rs1 => .vamoAddPkg f.obit (orderOf (f.f7 % 4)) (vr f.rd) rs1 (vr f.rs2)
  | 1 => x1 f.rs1 fun rs1 => .vamoAndPkg f.obit (orderOf (f.f7 % 4)) (vr f.rd) rs1 (vr f.rs2)
  | 2 => x1 f.rs1 fun rs1 => .vamoOrPkg f.obit (orderOf (f.f7 % 4)) (vr f.rd) rs1 (vr f.rs2)
  | 3 => x1 f.rs1 fun rs1 => .vamoXorPkg f.obit (orderOf (f.f7 % 4)) (vr f.rd) rs1 (vr f.rs2)
  | 4 => x1 f.rs1 fun rs1 => .vamoMinPkg f.obit (orderOf (f.f7 % 4)) (vr f.rd) rs1 (vr f.rs2)
  | 5 => x1 f.rs1 fun rs1 => .vamoMaxPkg f.obit (orderOf (f.f7 % 4)) (vr f.rd) rs1 (vr f.rs2)
  | 6 => x1 f.rs1 fun rs1 => .vamoSwapPkg f.obit (orderOf (f.f7 % 4)) (vr f.rd) rs1 (vr f.rs2)
  | _ => bad

/-- Custom-1, funct3 011: vector configuration and `vwait` (R50). -/
def decodeVcfg (f : WordFields) : Decoded :=
  match f.f7 / 8 % 8 with
  | 0 => (let rows := f.f7 % 8 * 2 + f.rs2 / 16
      match etypeOf (f.rs2 % 16) with
      | some et => if 1 ≤ rows ∧ rows ≤ 8 then x2 f.rd f.rs1 fun rd rs1 => .vsetl rd rs1 (bf 4 rows) et else bad
      | none => bad)
  | 1 => if f.f7 % 8 = 0 ∧ f.rs2 / 4 = 0 ∧ f.rs1 = 0 then x1 f.rd fun rd => .vdepth rd (bf 2 f.rs2) else bad
  | 2 => if f.f7 % 8 = 0 ∧ f.rs2 = 0 then x2 f.rd f.rs1 fun rd rs1 => .vstrip rd rs1 else bad
  | 3 => if f.rd / 8 = 0 ∧ f.rd ≠ 0 then .instr (.vwait (mr f.rd) (vr f.rs1) (vr f.rs2) (bf 3 f.f7)) else bad
  | _ => bad

/-- The barrier number of a barrier word, bits [25:20] (R50). -/
def WordFields.barrier (f : WordFields) : BitVec 6 := bf 6 (f.rs2 + f.f7 % 2 * 32)

/-- Custom-1, funct3 101: barriers; bit [26] is 0 (R50). -/
def decodeBar (f : WordFields) : Decoded :=
  match if f.f7 / 2 % 2 = 0 then f.f7 / 4 % 16 else 15 with
  | 0 => if f.rd = 0 then x1 f.rs1 fun rs1 => .barInit f.barrier rs1 else bad
  | 1 => if f.rs1 = 0 then x1 f.rd fun rd => .barArr rd f.barrier else bad
  | 2 => if f.rd = 0 then x1 f.rs1 fun rs1 => .barExp f.barrier rs1 else bad
  | 3 => if f.rd = 0 then x1 f.rs1 fun rs1 => .barWait f.barrier rs1 else bad
  | 4 => if f.rs1 = 0 then x1 f.rd fun rd => .barTest rd f.barrier else bad
  | _ => bad

/-- Custom-1 (R50). -/
def decodeSi (f : WordFields) : Decoded :=
  match f.f3 with
  | 0 => decodeVmem f
  | 1 => decodeVamoClu f
  | 2 => decodeVamoPkg f
  | 3 => decodeVcfg f
  | 4 => if f.f7 / 32 % 2 = 0 then .instr (.cwait (bf 5 f.rd) (bf 5 f.rs1) (bf 5 f.rs2) (bf 5 f.f7)) else bad
  | 5 => decodeBar f
  | _ => bad

/-- The X bit of a VA word (R37). -/
def WordFields.xbit (f : WordFields) : Bool := f.f7 / 8 % 2 == 1
/-- The vm field of a VA word (R37). -/
def WordFields.vm (f : WordFields) : MReg := mr f.f7

/-- The codes of funct3 000 to 100 permit X = 1, and then vm must be nonzero (R52). -/
def xGate (f : WordFields) (ok : Bool) (i : Bool → MReg → Instr) : Decoded :=
  if ok && maskOk f.xbit f.vm then .instr (i f.xbit f.vm) else bad

/-- The codes of funct3 101 to 111 refuse X = 1 (R52). -/
def noX (f : WordFields) (d : Decoded) : Decoded := if f.xbit then bad else d

/-- Custom-2, funct3 000 to 100, by 8 * funct3 + f3b (R51, R52, R143). -/
def decodeVaArith (f : WordFields) : Decoded :=
  match f.f3 * 8 + f.f7 / 16 % 8 with
  | 0 => xGate f true fun x vm => .vadd x vm (vr f.rd) (vr f.rs1) (vr f.rs2)
  | 1 => xGate f true fun x vm => .vsub x vm (vr f.rd) (vr f.rs1) (vr f.rs2)
  | 2 => xGate f true fun x vm => .vmul x vm (vr f.rd) (vr f.rs1) (vr f.rs2)
  | 3 => xGate f true fun x vm => .vmulh x vm (vr f.rd) (vr f.rs1) (vr f.rs2)
  | 4 => xGate f true fun x vm => .vmacc x vm (vr f.rd) (vr f.rs1) (vr f.rs2)
  | 5 => xGate f true fun x vm => .vmin x vm (vr f.rd) (vr f.rs1) (vr f.rs2)
  | 6 => xGate f true fun x vm => .vmax x vm (vr f.rd) (vr f.rs1) (vr f.rs2)
  | 7 => xGate f true fun x vm => .vminu x vm (vr f.rd) (vr f.rs1) (vr f.rs2)
  | 8 => xGate f true fun x vm => .vmaxu x vm (vr f.rd) (vr f.rs1) (vr f.rs2)
  | 9 => xGate f true fun x vm => .vand x vm (vr f.rd) (vr f.rs1) (vr f.rs2)
  | 10 => xGate f true fun x vm => .vor x vm (vr f.rd) (vr f.rs1) (vr f.rs2)
  | 11 => xGate f true fun x vm => .vxor x vm (vr f.rd) (vr f.rs1) (vr f.rs2)
  | 12 => xGate f true fun x vm => .vsll x vm (vr f.rd) (vr f.rs1) (vr f.rs2)
  | 13 => xGate f true fun x vm => .vsrl x vm (vr f.rd) (vr f.rs1) (vr f.rs2)
  | 14 => xGate f true fun x vm => .vsra x vm (vr f.rd) (vr f.rs1) (vr f.rs2)
  | 15 => xGate f (f.rs1 % 2 == 0) fun x vm => .vclip x vm (vr f.rd) (vr f.rs1) (vr f.rs2)
  | 16 => xGate f true fun x vm => .vsadd x vm (vr f.rd) (vr f.rs1) (vr f.rs2)
  | 17 => xGate f true fun x vm => .vssub x vm (vr f.rd) (vr f.rs1) (vr f.rs2)
  | 18 => xGate f true fun x vm => .vsaddu x vm (vr f.rd) (vr f.rs1) (vr f.rs2)
  | 19 => xGate f true fun x vm => .vssubu x vm (vr f.rd) (vr f.rs1) (vr f.rs2)
  | 20 => xGate f (f.rd % 2 == 0) fun x vm => .vwadd x vm (vr f.rd) (vr f.rs1) (vr f.rs2)
  | 21 => xGate f (f.rd % 2 == 0) fun x vm => .vwmul x vm (vr f.rd) (vr f.rs1) (vr f.rs2)
  | 22 => xGate f (f.rd % 2 == 0) fun x vm => .vwmacc x vm (vr f.rd) (vr f.rs1) (vr f.rs2)
  | 23 => xGate f (f.rs1 % 2 == 0) fun x vm => .vnsr x vm (vr f.rd) (vr f.rs1) (vr f.rs2)
  | 24 => xGate f true fun x vm => .vfadd x vm (vr f.rd) (vr f.rs1) (vr f.rs2)
  | 25 => xGate f true fun x vm => .vfsub x vm (vr f.rd) (vr f.rs1) (vr f.rs2)
  | 26 => xGate f true fun x vm => .vfmul x vm (vr f.rd) (vr f.rs1) (vr f.rs2)
  | 27 => xGate f true fun x vm => .vfmacc x vm (vr f.rd) (vr f.rs1) (vr f.rs2)
  | 28 => xGate f true fun x vm => .vfnmacc x vm (vr f.rd) (vr f.rs1) (vr f.rs2)
  | 29 => xGate f true fun x vm => .vfdiv x vm (vr f.rd) (vr f.rs1) (vr f.rs2)
  | 30 => xGate f (f.rs2 == 0) fun x vm => .vfsqrt x vm (vr f.rd) (vr f.rs1)
  | 31 => xGate f (f.rs2 == 0) fun x vm => .vfrece x vm (vr f.rd) (vr f.rs1)
  | 32 => xGate f (f.rs2 == 0) fun x vm => .vfrsqe x vm (vr f.rd) (vr f.rs1)
  | 33 => xGate f true fun x vm => .vfmin x vm (vr f.rd) (vr f.rs1) (vr f.rs2)
  | 34 => xGate f true fun x vm => .vfmax x vm (vr f.rd) (vr f.rs1) (vr f.rs2)
  | 35 => xGate f true fun x vm => .vfsgnj x vm (vr f.rd) (vr f.rs1) (vr f.rs2)
  | 36 => xGate f (f.rs2 == 0) fun x vm => .vfclass x vm (vr f.rd) (vr f.rs1)
  | 37 => (match etypeOf f.rs2 with
     | some src => xGate f true fun x vm => .vcvt x vm src (vr f.rd) (vr f.rs1)
     | none => bad)
  | 38 => xGate f (f.rs1 % 4 == 0 && f.rs2 != f.rd) fun x vm => .vcvtb x vm (vr f.rd) (vr f.rs1) (vr f.rs2)
  | 39 => xGate f (f.rd % 4 == 0) fun x vm => .vdecb x vm (vr f.rd) (vr f.rs1) (vr f.rs2)
  | _ => bad

/-- Custom-2, funct3 101 to 111, by 8 * funct3 + f3b (R51, R52). -/
def decodeVaMove (f : WordFields) : Decoded :=
  match f.f3 * 8 + f.f7 / 16 % 8 with
  | 40 => if f.rd % 8 = 0 then bad else .instr (.vcmp (condOf (f.rd / 8)) f.vm (mr f.rd) (vr f.rs1) (vr f.rs2))
  | 41 => if f.rd % 8 = 0 then bad else .instr (.vfcmp (condOf (f.rd / 8)) f.vm (mr f.rd) (vr f.rs1) (vr f.rs2))
  | 42 => if f.vm = 0 ∧ f.rd % 8 ≠ 0 ∧ f.rs1 / 8 = 0 ∧ f.rs1 ≠ 0 ∧ f.rs2 / 8 = 0 ∧ f.rs2 ≠ 0 then
      .instr (.vmlog (maskOpOf (f.rd / 8)) (mr f.rd) (mr f.rs1) (mr f.rs2)) else bad
  | 43 => if f.vm = 0 ∧ f.rs1 / 8 = 0 ∧ f.rs1 ≠ 0 ∧ f.rs2 = 0 then x1 f.rd fun rd => .vpopc rd (mr f.rs1) else bad
  | 44 => if f.vm = 0 ∧ f.rs1 / 8 = 0 ∧ f.rs1 ≠ 0 ∧ f.rs2 = 0 then x1 f.rd fun rd => .vfirst rd (mr f.rs1) else bad
  | 45 => if f.vm = 0 then bad else .instr (.vmerge f.vm (vr f.rd) (vr f.rs1) (vr f.rs2))
  | 46 => if f.rs2 = 0 then x1 f.rs1 fun rs1 => .vbcast f.vm (vr f.rd) rs1 else bad
  | 47 => if f.rs2 = 0 then x1 f.rs1 fun rs1 => .vmvsx f.vm (vr f.rd) rs1 else bad
  | 48 => x1 f.rs2 fun rs2 => .vslup f.vm (vr f.rd) (vr f.rs1) rs2
  | 49 => x1 f.rs2 fun rs2 => .vsldn f.vm (vr f.rd) (vr f.rs1) rs2
  | 51 => if f.vm = 0 ∨ f.rs2 ≠ 0 then bad else .instr (.vcomp f.vm (vr f.rd) (vr f.rs1))
  | 52 => if f.vm = 0 ∧ f.rs2 = 0 then .instr (.vtrn (vr f.rd) (vr f.rs1)) else bad
  | 53 => if f.vm = 0 ∧ f.rs2 = 0 then x1 f.rd fun rd => .vmvxs rd (vr f.rs1) else bad
  | 50 => .instr (.vrgath f.vm (vr f.rd) (vr f.rs1) (vr f.rs2))
  | 54 => .instr (.vredsum f.vm (vr f.rd) (vr f.rs1) (vr f.rs2))
  | 55 => .instr (.vredmax f.vm (vr f.rd) (vr f.rs1) (vr f.rs2))
  | 56 => .instr (.vredmin f.vm (vr f.rd) (vr f.rs1) (vr f.rs2))
  | 57 => .instr (.vredand f.vm (vr f.rd) (vr f.rs1) (vr f.rs2))
  | 58 => .instr (.vredor f.vm (vr f.rd) (vr f.rs1) (vr f.rs2))
  | 59 => .instr (.vfredo f.vm (vr f.rd) (vr f.rs1) (vr f.rs2))
  | 60 => .instr (.vfredt f.vm (vr f.rd) (vr f.rs1) (vr f.rs2))
  | 61 => .instr (.vfredmax f.vm (vr f.rd) (vr f.rs1) (vr f.rs2))
  | 62 => .instr (.vfredmin f.vm (vr f.rd) (vr f.rs1) (vr f.rs2))
  | _ => bad

/-- Custom-2 (R51, R52). -/
def decodeVa (f : WordFields) : Decoded :=
  if f.f3 < 5 then decodeVaArith f else noX f (decodeVaMove f)

/-- Custom-3 (R53, R54). -/
def decodeMx (f : WordFields) : Decoded :=
  match f.f3 with
  | 0 => (match pairOf (f.f7 / 8 % 16) with
     | some fp => if f.rd = 0 ∧ f.rs2 = 0 then x1 f.rs1 fun rs1 => .mrun fp (bf 3 f.f7) rs1 else bad
     | none => bad)
  | 1 => (match pairOf (f.f7 / 8 % 16) with
     | some fp => if f.rd = 0 then x2 f.rs1 f.rs2 fun rs1 rs2 => .mcfg fp (bf 3 f.f7) rs1 rs2 else bad
     | none => bad)
  | 2 => if f.rd = 0 ∧ f.f7 = 0 then x2 f.rs1 f.rs2 fun rs1 rs2 => .mzero rs1 rs2 else bad
  | 3 => if f.rd = 0 ∧ f.rs2 = 0 ∧ f.f7 / 8 = 0 then x1 f.rs1 fun rs1 => .mdrain (bf 3 f.f7) rs1 else bad
  | 4 => if f.rd = 0 ∧ f.f7 = 0 then x2 f.rs1 f.rs2 fun rs1 rs2 => .mcpyIn rs1 rs2 else bad
  | 5 => if f.rd = 0 ∧ f.f7 = 0 then x2 f.rs1 f.rs2 fun rs1 rs2 => .mcpyOut rs1 rs2 else bad
  | 6 => if f.rs1 = 0 ∧ f.rs2 = 0 ∧ f.f7 = 0 then x1 f.rd fun rd => .mstat rd else bad
  | _ => bad

/-- The major-opcode map (R35, R36): an implemented space by its own table, six spaces reserved for later generations, every
other word illegal. -/
def decodeFields (f : WordFields) : Decoded :=
  match f.op with
  | 0x3 => decodeLoad f
  | 0xb => decodeSx f
  | 0xf => decodeMiscMem f
  | 0x13 => decodeOpImm f
  | 0x17 => x1 f.rd fun rd => .auipc rd f.uimm20
  | 0x1b => decodeOpImm32 f
  | 0x23 => decodeStore f
  | 0x2b => decodeSi f
  | 0x33 => decodeOp f
  | 0x37 => x1 f.rd fun rd => .lui rd f.uimm20
  | 0x3b => decodeOp32 f
  | 0x43 => decodeFma f fun rd rs1 rs2 rs3 rm => .fmaddS rd rs1 rs2 rs3 rm
  | 0x47 => decodeFma f fun rd rs1 rs2 rs3 rm => .fmsubS rd rs1 rs2 rs3 rm
  | 0x4b => decodeFma f fun rd rs1 rs2 rs3 rm => .fnmsubS rd rs1 rs2 rs3 rm
  | 0x4f => decodeFma f fun rd rs1 rs2 rs3 rm => .fnmaddS rd rs1 rs2 rs3 rm
  | 0x53 => decodeOpFp f
  | 0x5b => decodeVa f
  | 0x63 => decodeBranch f
  | 0x67 => if f.f3 = 0 then x2 f.rd f.rs1 fun rd rs1 => .jalr rd rs1 f.imm12 else bad
  | 0x6f => x1 f.rd fun rd => .jal rd f.joff
  | 0x73 => decodeSystem f
  | 0x7b => decodeMx f
  | 0x1f => .reject .reservedLater
  | 0x3f => .reject .reservedLater
  | 0x57 => .reject .reservedLater
  | 0x5f => .reject .reservedLater
  | 0x6b => .reject .reservedLater
  | 0x77 => .reject .reservedLater
  | _ => bad

/-- The decoder on one 32-bit word. -/
def decodeWord (w : BitVec 32) : Decoded := decodeFields (fieldsOf w.toNat)

/-- The word of four bytes, the first at the lowest address (R7, R34). -/
def wordOfBytes (b0 b1 b2 b3 : Byte) : BitVec 32 := b3 ++ b2 ++ b1 ++ b0

/-- The decoder on bytes: the instruction of the first word, and the bytes after it; nothing where fewer than four are
left. -/
def decodeBytes : List Byte → Option (Decoded × List Byte)
  | b0 :: b1 :: b2 :: b3 :: rest => some (decodeWord (wordOfBytes b0 b1 b2 b3), rest)
  | _ => none

/-- Is this the word of an SX or SI instruction, which may claim its neighbour (R37, R40)? -/
def isSxSi (w : BitVec 32) : Bool := w.toNat % 128 == 0x0b || w.toNat % 128 == 0x2b

/-- Is this the word of a VA or MX instruction (R40)? -/
def isVaMx (w : BitVec 32) : Bool := w.toNat % 128 == 0x5b || w.toNat % 128 == 0x7b

/-- The L bit of a word (R37). -/
def wordL (w : BitVec 32) : Bool := w.getLsbD 31

/-- Is this an SX word of `shstart`, `shmove`, `shexit` or `shyield`, which are always lone (R40)? -/
def isLoneOnly (w : BitVec 32) : Bool :=
  let f := fieldsOf w.toNat
  f.op == 0x0b && f.f3 == 0 && f.f4 < 4

/-- Little-endian bytes of a table word (R7). -/
def bytesOfWord (n : Nat) : List Byte :=
  [BitVec.ofNat 8 n, BitVec.ofNat 8 (n / 256), BitVec.ofNat 8 (n / 65536), BitVec.ofNat 8 (n / 16777216)]

/-- The instruction the decoder reads from a table word. Every instruction of QK9-A is one 32-bit word (R34), so the bits
above nbits are 0 and the bytes are the word's four. -/
def decodeTableWord (_nbits w : Nat) : Option Instr :=
  match decodeBytes (bytesOfWord w) with
  | some (.instr i, _) => some i
  | _ => none

/-- The fields of a well-formed instruction's word, with its L bit where it has one; a step that no word names has none. -/
def encodeFields (l : Bool) : Instr → Option WordFields
  | .lui rd imm => some ⟨55, rd.val, imm.toNat % 8, imm.toNat / 8 % 32, imm.toNat / 256 % 32, imm.toNat / 8192⟩
  | .auipc rd imm => some ⟨23, rd.val, imm.toNat % 8, imm.toNat / 8 % 32, imm.toNat / 256 % 32, imm.toNat / 8192⟩
  | .jal rd off => some ⟨111, rd.val, off.toNat / 2048 % 8, off.toNat / 16384 % 32, off.toNat / 1024 % 2 + off.toNat % 16 * 2, off.toNat / 16 % 64 + off.toNat / 524288 * 64⟩
  | .jalr rd rs1 imm => some ⟨103, rd.val, 0, rs1.val, imm.toNat % 32, imm.toNat / 32⟩
  | .beq rs1 rs2 off => some ⟨99, off.toNat / 1024 % 2 + off.toNat % 16 * 2, 0, rs1.val, rs2.val, off.toNat / 16 % 64 + off.toNat / 2048 * 64⟩
  | .bne rs1 rs2 off => some ⟨99, off.toNat / 1024 % 2 + off.toNat % 16 * 2, 1, rs1.val, rs2.val, off.toNat / 16 % 64 + off.toNat / 2048 * 64⟩
  | .blt rs1 rs2 off => some ⟨99, off.toNat / 1024 % 2 + off.toNat % 16 * 2, 4, rs1.val, rs2.val, off.toNat / 16 % 64 + off.toNat / 2048 * 64⟩
  | .bge rs1 rs2 off => some ⟨99, off.toNat / 1024 % 2 + off.toNat % 16 * 2, 5, rs1.val, rs2.val, off.toNat / 16 % 64 + off.toNat / 2048 * 64⟩
  | .bltu rs1 rs2 off => some ⟨99, off.toNat / 1024 % 2 + off.toNat % 16 * 2, 6, rs1.val, rs2.val, off.toNat / 16 % 64 + off.toNat / 2048 * 64⟩
  | .bgeu rs1 rs2 off => some ⟨99, off.toNat / 1024 % 2 + off.toNat % 16 * 2, 7, rs1.val, rs2.val, off.toNat / 16 % 64 + off.toNat / 2048 * 64⟩
  | .lb rd rs1 imm => some ⟨3, rd.val, 0, rs1.val, imm.toNat % 32, imm.toNat / 32⟩
  | .lh rd rs1 imm => some ⟨3, rd.val, 1, rs1.val, imm.toNat % 32, imm.toNat / 32⟩
  | .lw rd rs1 imm => some ⟨3, rd.val, 2, rs1.val, imm.toNat % 32, imm.toNat / 32⟩
  | .ld rd rs1 imm => some ⟨3, rd.val, 3, rs1.val, imm.toNat % 32, imm.toNat / 32⟩
  | .lbu rd rs1 imm => some ⟨3, rd.val, 4, rs1.val, imm.toNat % 32, imm.toNat / 32⟩
  | .lhu rd rs1 imm => some ⟨3, rd.val, 5, rs1.val, imm.toNat % 32, imm.toNat / 32⟩
  | .lwu rd rs1 imm => some ⟨3, rd.val, 6, rs1.val, imm.toNat % 32, imm.toNat / 32⟩
  | .sb rs1 rs2 imm => some ⟨35, imm.toNat % 32, 0, rs1.val, rs2.val, imm.toNat / 32⟩
  | .sh rs1 rs2 imm => some ⟨35, imm.toNat % 32, 1, rs1.val, rs2.val, imm.toNat / 32⟩
  | .sw rs1 rs2 imm => some ⟨35, imm.toNat % 32, 2, rs1.val, rs2.val, imm.toNat / 32⟩
  | .sd rs1 rs2 imm => some ⟨35, imm.toNat % 32, 3, rs1.val, rs2.val, imm.toNat / 32⟩
  | .addi rd rs1 imm => some ⟨19, rd.val, 0, rs1.val, imm.toNat % 32, imm.toNat / 32⟩
  | .slti rd rs1 imm => some ⟨19, rd.val, 2, rs1.val, imm.toNat % 32, imm.toNat / 32⟩
  | .sltiu rd rs1 imm => some ⟨19, rd.val, 3, rs1.val, imm.toNat % 32, imm.toNat / 32⟩
  | .xori rd rs1 imm => some ⟨19, rd.val, 4, rs1.val, imm.toNat % 32, imm.toNat / 32⟩
  | .ori rd rs1 imm => some ⟨19, rd.val, 6, rs1.val, imm.toNat % 32, imm.toNat / 32⟩
  | .andi rd rs1 imm => some ⟨19, rd.val, 7, rs1.val, imm.toNat % 32, imm.toNat / 32⟩
  | .slli rd rs1 sh => some ⟨19, rd.val, 1, rs1.val, sh.toNat % 32, sh.toNat / 32 + 0⟩
  | .srli rd rs1 sh => some ⟨19, rd.val, 5, rs1.val, sh.toNat % 32, sh.toNat / 32 + 0⟩
  | .srai rd rs1 sh => some ⟨19, rd.val, 5, rs1.val, sh.toNat % 32, sh.toNat / 32 + 32⟩
  | .add rd rs1 rs2 => some ⟨51, rd.val, 0, rs1.val, rs2.val, 0⟩
  | .sub rd rs1 rs2 => some ⟨51, rd.val, 0, rs1.val, rs2.val, 32⟩
  | .sll rd rs1 rs2 => some ⟨51, rd.val, 1, rs1.val, rs2.val, 0⟩
  | .slt rd rs1 rs2 => some ⟨51, rd.val, 2, rs1.val, rs2.val, 0⟩
  | .sltu rd rs1 rs2 => some ⟨51, rd.val, 3, rs1.val, rs2.val, 0⟩
  | .xor rd rs1 rs2 => some ⟨51, rd.val, 4, rs1.val, rs2.val, 0⟩
  | .srl rd rs1 rs2 => some ⟨51, rd.val, 5, rs1.val, rs2.val, 0⟩
  | .sra rd rs1 rs2 => some ⟨51, rd.val, 5, rs1.val, rs2.val, 32⟩
  | .or rd rs1 rs2 => some ⟨51, rd.val, 6, rs1.val, rs2.val, 0⟩
  | .and rd rs1 rs2 => some ⟨51, rd.val, 7, rs1.val, rs2.val, 0⟩
  | .addiw rd rs1 imm => some ⟨27, rd.val, 0, rs1.val, imm.toNat % 32, imm.toNat / 32⟩
  | .slliw rd rs1 sh => some ⟨27, rd.val, 1, rs1.val, sh.toNat, 0⟩
  | .srliw rd rs1 sh => some ⟨27, rd.val, 5, rs1.val, sh.toNat, 0⟩
  | .sraiw rd rs1 sh => some ⟨27, rd.val, 5, rs1.val, sh.toNat, 32⟩
  | .addw rd rs1 rs2 => some ⟨59, rd.val, 0, rs1.val, rs2.val, 0⟩
  | .subw rd rs1 rs2 => some ⟨59, rd.val, 0, rs1.val, rs2.val, 32⟩
  | .sllw rd rs1 rs2 => some ⟨59, rd.val, 1, rs1.val, rs2.val, 0⟩
  | .srlw rd rs1 rs2 => some ⟨59, rd.val, 5, rs1.val, rs2.val, 0⟩
  | .sraw rd rs1 rs2 => some ⟨59, rd.val, 5, rs1.val, rs2.val, 32⟩
  | .fence fm pred succ rs1 rd => some ⟨15, rd.toNat, 0, rs1.toNat, succ.toNat + pred.toNat % 2 * 16, pred.toNat / 2 + fm.toNat * 8⟩
  | .fenceI imm rs1 rd => some ⟨15, rd.toNat, 1, rs1.toNat, imm.toNat % 32, imm.toNat / 32⟩
  | .ecall => some ⟨115, 0, 0, 0, 0, 0⟩
  | .ebreak => some ⟨115, 0, 0, 0, 1, 0⟩
  | .mul rd rs1 rs2 => some ⟨51, rd.val, 0, rs1.val, rs2.val, 1⟩
  | .mulh rd rs1 rs2 => some ⟨51, rd.val, 1, rs1.val, rs2.val, 1⟩
  | .mulhsu rd rs1 rs2 => some ⟨51, rd.val, 2, rs1.val, rs2.val, 1⟩
  | .mulhu rd rs1 rs2 => some ⟨51, rd.val, 3, rs1.val, rs2.val, 1⟩
  | .div rd rs1 rs2 => some ⟨51, rd.val, 4, rs1.val, rs2.val, 1⟩
  | .divu rd rs1 rs2 => some ⟨51, rd.val, 5, rs1.val, rs2.val, 1⟩
  | .rem rd rs1 rs2 => some ⟨51, rd.val, 6, rs1.val, rs2.val, 1⟩
  | .remu rd rs1 rs2 => some ⟨51, rd.val, 7, rs1.val, rs2.val, 1⟩
  | .mulw rd rs1 rs2 => some ⟨59, rd.val, 0, rs1.val, rs2.val, 1⟩
  | .divw rd rs1 rs2 => some ⟨59, rd.val, 4, rs1.val, rs2.val, 1⟩
  | .divuw rd rs1 rs2 => some ⟨59, rd.val, 5, rs1.val, rs2.val, 1⟩
  | .remw rd rs1 rs2 => some ⟨59, rd.val, 6, rs1.val, rs2.val, 1⟩
  | .remuw rd rs1 rs2 => some ⟨59, rd.val, 7, rs1.val, rs2.val, 1⟩
  | .csrrw rd rs1 csr => some ⟨115, rd.val, 1, rs1.val, csr.toNat % 32, csr.toNat / 32⟩
  | .csrrs rd rs1 csr => some ⟨115, rd.val, 2, rs1.val, csr.toNat % 32, csr.toNat / 32⟩
  | .csrrc rd rs1 csr => some ⟨115, rd.val, 3, rs1.val, csr.toNat % 32, csr.toNat / 32⟩
  | .csrrwi rd uimm csr => some ⟨115, rd.val, 5, uimm.toNat, csr.toNat % 32, csr.toNat / 32⟩
  | .csrrsi rd uimm csr => some ⟨115, rd.val, 6, uimm.toNat, csr.toNat % 32, csr.toNat / 32⟩
  | .csrrci rd uimm csr => some ⟨115, rd.val, 7, uimm.toNat, csr.toNat % 32, csr.toNat / 32⟩
  | .sret => some ⟨115, 0, 0, 0, 2, 8⟩
  | .mret => some ⟨115, 0, 0, 0, 2, 24⟩
  | .wfi => some ⟨115, 0, 0, 0, 5, 8⟩
  | .faddS rd rs1 rs2 rm => some ⟨83, rd.val, rm.toNat, rs1.val, rs2.val, 0⟩
  | .fsubS rd rs1 rs2 rm => some ⟨83, rd.val, rm.toNat, rs1.val, rs2.val, 4⟩
  | .fmulS rd rs1 rs2 rm => some ⟨83, rd.val, rm.toNat, rs1.val, rs2.val, 8⟩
  | .fdivS rd rs1 rs2 rm => some ⟨83, rd.val, rm.toNat, rs1.val, rs2.val, 12⟩
  | .fsqrtS rd rs1 rm => some ⟨83, rd.val, rm.toNat, rs1.val, 0, 44⟩
  | .fsgnjS rd rs1 rs2 => some ⟨83, rd.val, 0, rs1.val, rs2.val, 16⟩
  | .fsgnjnS rd rs1 rs2 => some ⟨83, rd.val, 1, rs1.val, rs2.val, 16⟩
  | .fsgnjxS rd rs1 rs2 => some ⟨83, rd.val, 2, rs1.val, rs2.val, 16⟩
  | .fminS rd rs1 rs2 => some ⟨83, rd.val, 0, rs1.val, rs2.val, 20⟩
  | .fmaxS rd rs1 rs2 => some ⟨83, rd.val, 1, rs1.val, rs2.val, 20⟩
  | .fcvtWS rd rs1 rm => some ⟨83, rd.val, rm.toNat, rs1.val, 0, 96⟩
  | .fcvtWuS rd rs1 rm => some ⟨83, rd.val, rm.toNat, rs1.val, 1, 96⟩
  | .fcvtLS rd rs1 rm => some ⟨83, rd.val, rm.toNat, rs1.val, 2, 96⟩
  | .fcvtLuS rd rs1 rm => some ⟨83, rd.val, rm.toNat, rs1.val, 3, 96⟩
  | .fcvtSW rd rs1 rm => some ⟨83, rd.val, rm.toNat, rs1.val, 0, 104⟩
  | .fcvtSWu rd rs1 rm => some ⟨83, rd.val, rm.toNat, rs1.val, 1, 104⟩
  | .fcvtSL rd rs1 rm => some ⟨83, rd.val, rm.toNat, rs1.val, 2, 104⟩
  | .fcvtSLu rd rs1 rm => some ⟨83, rd.val, rm.toNat, rs1.val, 3, 104⟩
  | .feqS rd rs1 rs2 => some ⟨83, rd.val, 2, rs1.val, rs2.val, 80⟩
  | .fltS rd rs1 rs2 => some ⟨83, rd.val, 1, rs1.val, rs2.val, 80⟩
  | .fleS rd rs1 rs2 => some ⟨83, rd.val, 0, rs1.val, rs2.val, 80⟩
  | .fclassS rd rs1 => some ⟨83, rd.val, 1, rs1.val, 0, 112⟩
  | .fmaddS rd rs1 rs2 rs3 rm => some ⟨67, rd.val, rm.toNat, rs1.val, rs2.val, rs3.val * 4⟩
  | .fmsubS rd rs1 rs2 rs3 rm => some ⟨71, rd.val, rm.toNat, rs1.val, rs2.val, rs3.val * 4⟩
  | .fnmsubS rd rs1 rs2 rs3 rm => some ⟨75, rd.val, rm.toNat, rs1.val, rs2.val, rs3.val * 4⟩
  | .fnmaddS rd rs1 rs2 rs3 rm => some ⟨79, rd.val, rm.toNat, rs1.val, rs2.val, rs3.val * 4⟩
  | .shstart rd rs1 rs2 => some ⟨11, rd.val, 0, rs1.val, rs2.val, 0 + 0 * 4 + lb l * 64⟩
  | .shmove rs1 => some ⟨11, 0, 0, rs1.val, 0, 0 + 1 * 4 + lb l * 64⟩
  | .shmoveHome rs1 => some ⟨11, 0, 0, rs1.val, 1, 0 + 1 * 4 + lb l * 64⟩
  | .shexit => some ⟨11, 0, 0, 0, 0, 0 + 2 * 4 + lb l * 64⟩
  | .shyield => some ⟨11, 0, 0, 0, 0, 0 + 3 * 4 + lb l * 64⟩
  | .ipost ch rs1 => some ⟨11, 0, 0, rs1.val, ch.toNat, 0 + 4 * 4 + lb l * 64⟩
  | .iwait ch rs1 => some ⟨11, 0, 0, rs1.val, ch.toNat, 0 + 5 * 4 + lb l * 64⟩
  | .fenceSAcq sc => some ⟨11, 0, 0, 0, 1, sc.code + 6 * 4 + lb l * 64⟩
  | .fenceSRel sc => some ⟨11, 0, 0, 0, 2, sc.code + 6 * 4 + lb l * 64⟩
  | .fenceSAr sc => some ⟨11, 0, 0, 0, 3, sc.code + 6 * 4 + lb l * 64⟩
  | .fenceQ rs1 => some ⟨11, 0, 0, rs1.val, 0, 0 + 7 * 4 + lb l * 64⟩
  | .invR sc rs1 rs2 => some ⟨11, 0, 0, rs1.val, rs2.val, sc.code + 8 * 4 + lb l * 64⟩
  | .wbR sc rs1 rs2 => some ⟨11, 0, 0, rs1.val, rs2.val, sc.code + 9 * 4 + lb l * 64⟩
  | .ldAcqW sc rd rs1 => some ⟨11, rd.val, 0, rs1.val, 0, sc.code + 10 * 4 + lb l * 64⟩
  | .ldAcqD sc rd rs1 => some ⟨11, rd.val, 0, rs1.val, 0, sc.code + 11 * 4 + lb l * 64⟩
  | .stRelW sc rs1 rs2 => some ⟨11, 0, 0, rs1.val, rs2.val, sc.code + 12 * 4 + lb l * 64⟩
  | .stRelD sc rs1 rs2 => some ⟨11, 0, 0, rs1.val, rs2.val, sc.code + 13 * 4 + lb l * 64⟩
  | .tierHintHot rs1 rs2 => some ⟨11, 0, 0, rs1.val, rs2.val, 0 + 14 * 4 + lb l * 64⟩
  | .tierHintCold rs1 rs2 => some ⟨11, 0, 0, rs1.val, rs2.val, 1 + 14 * 4 + lb l * 64⟩
  | .ldfe rd rs1 => some ⟨11, rd.val, 1, rs1.val, 0, 0 + 0 * 4 + lb l * 64⟩
  | .stfe rs1 rs2 => some ⟨11, 0, 1, rs1.val, rs2.val, 0 + 1 * 4 + lb l * 64⟩
  | .ldff rd rs1 => some ⟨11, rd.val, 1, rs1.val, 0, 0 + 2 * 4 + lb l * 64⟩
  | .feSetFull rs1 => some ⟨11, 0, 1, rs1.val, 1, 0 + 3 * 4 + lb l * 64⟩
  | .feSetEmpty rs1 => some ⟨11, 0, 1, rs1.val, 0, 0 + 3 * 4 + lb l * 64⟩
  | .qpushQa vs rs1 rs2 => some ⟨11, vs.val, 2, rs1.val, rs2.val, 0 + 0 * 4 + lb l * 64⟩
  | .qpushQk rd rs1 rs2 => some ⟨11, rd.val, 2, rs1.val, rs2.val, 1 + 0 * 4 + lb l * 64⟩
  | .qpopQd vd rs1 => some ⟨11, vd.val, 2, rs1.val, 0, 2 + 1 * 4 + lb l * 64⟩
  | .qstatQa rd rs1 => some ⟨11, rd.val, 2, rs1.val, 0, 0 + 2 * 4 + lb l * 64⟩
  | .qstatQk rd rs1 => some ⟨11, rd.val, 2, rs1.val, 0, 1 + 2 * 4 + lb l * 64⟩
  | .qstatQd rd rs1 => some ⟨11, rd.val, 2, rs1.val, 0, 2 + 2 * 4 + lb l * 64⟩
  | .cpy ch rs1 rs2 => some ⟨11, ch.toNat, 2, rs1.val, rs2.val, 0 + 3 * 4 + lb l * 64⟩
  | .cpy2d ch rs1 rs2 => some ⟨11, ch.toNat, 2, rs1.val, rs2.val, 0 + 4 * 4 + lb l * 64⟩
  | .cpyB ch rs1 rs2 => some ⟨11, ch.toNat, 2, rs1.val, rs2.val, 0 + 5 * 4 + lb l * 64⟩
  | .collPostPkg rd rs1 => some ⟨11, rd.val, 2, rs1.val, 0, 2 + 6 * 4 + lb l * 64⟩
  | .collPostSys rd rs1 => some ⟨11, rd.val, 2, rs1.val, 0, 3 + 6 * 4 + lb l * 64⟩
  | .collTest rd rs1 => some ⟨11, rd.val, 2, rs1.val, 0, 0 + 7 * 4 + lb l * 64⟩
  | .amoAdd wd ord sc rd rs1 rs2 => some ⟨11, rd.val, 3, rs1.val, rs2.val, sc.code + ord.code * 4 + wd.code * 16 + 0 * 32 + lb l * 64⟩
  | .amoAnd wd ord sc rd rs1 rs2 => some ⟨11, rd.val, 3, rs1.val, rs2.val, sc.code + ord.code * 4 + wd.code * 16 + 1 * 32 + lb l * 64⟩
  | .amoOr wd ord sc rd rs1 rs2 => some ⟨11, rd.val, 4, rs1.val, rs2.val, sc.code + ord.code * 4 + wd.code * 16 + 0 * 32 + lb l * 64⟩
  | .amoXor wd ord sc rd rs1 rs2 => some ⟨11, rd.val, 4, rs1.val, rs2.val, sc.code + ord.code * 4 + wd.code * 16 + 1 * 32 + lb l * 64⟩
  | .amoMin wd ord sc rd rs1 rs2 => some ⟨11, rd.val, 5, rs1.val, rs2.val, sc.code + ord.code * 4 + wd.code * 16 + 0 * 32 + lb l * 64⟩
  | .amoMax wd ord sc rd rs1 rs2 => some ⟨11, rd.val, 5, rs1.val, rs2.val, sc.code + ord.code * 4 + wd.code * 16 + 1 * 32 + lb l * 64⟩
  | .amoMinu wd ord sc rd rs1 rs2 => some ⟨11, rd.val, 6, rs1.val, rs2.val, sc.code + ord.code * 4 + wd.code * 16 + 0 * 32 + lb l * 64⟩
  | .amoMaxu wd ord sc rd rs1 rs2 => some ⟨11, rd.val, 6, rs1.val, rs2.val, sc.code + ord.code * 4 + wd.code * 16 + 1 * 32 + lb l * 64⟩
  | .amoSwap wd ord sc rd rs1 rs2 => some ⟨11, rd.val, 7, rs1.val, rs2.val, sc.code + ord.code * 4 + wd.code * 16 + 0 * 32 + lb l * 64⟩
  | .cas wd ord sc rd rs1 rs2 => some ⟨11, rd.val, 7, rs1.val, rs2.val, sc.code + ord.code * 4 + wd.code * 16 + 1 * 32 + lb l * 64⟩
  | .vld o v p vd rs1 => some ⟨43, vd.val, 0, rs1.val, 0, lb p + lb v * 2 + lb o * 4 + 0 * 8 + lb l * 64⟩
  | .vst o v p vd rs1 => some ⟨43, vd.val, 0, rs1.val, 0, lb p + lb v * 2 + lb o * 4 + 1 * 8 + lb l * 64⟩
  | .vlds o v vd rs1 rs2 => some ⟨43, vd.val, 0, rs1.val, rs2.val, 0 + lb v * 2 + lb o * 4 + 2 * 8 + lb l * 64⟩
  | .vsts o v vd rs1 rs2 => some ⟨43, vd.val, 0, rs1.val, rs2.val, 0 + lb v * 2 + lb o * 4 + 3 * 8 + lb l * 64⟩
  | .vldx o v vd rs1 vi => some ⟨43, vd.val, 0, rs1.val, vi.val, 0 + lb v * 2 + lb o * 4 + 4 * 8 + lb l * 64⟩
  | .vstx o v vd rs1 vi => some ⟨43, vd.val, 0, rs1.val, vi.val, 0 + lb v * 2 + lb o * 4 + 5 * 8 + lb l * 64⟩
  | .vld2 o v p vd rs1 rs2 => some ⟨43, vd.val, 0, rs1.val, rs2.val, lb p + lb v * 2 + lb o * 4 + 6 * 8 + lb l * 64⟩
  | .vst2 o v p vd rs1 rs2 => some ⟨43, vd.val, 0, rs1.val, rs2.val, lb p + lb v * 2 + lb o * 4 + 7 * 8 + lb l * 64⟩
  | .vamoAddClu o ord vd rs1 vi => some ⟨43, vd.val, 1, rs1.val, vi.val, ord.code + lb o * 4 + 0 * 8 + lb l * 64⟩
  | .vamoAndClu o ord vd rs1 vi => some ⟨43, vd.val, 1, rs1.val, vi.val, ord.code + lb o * 4 + 1 * 8 + lb l * 64⟩
  | .vamoOrClu o ord vd rs1 vi => some ⟨43, vd.val, 1, rs1.val, vi.val, ord.code + lb o * 4 + 2 * 8 + lb l * 64⟩
  | .vamoXorClu o ord vd rs1 vi => some ⟨43, vd.val, 1, rs1.val, vi.val, ord.code + lb o * 4 + 3 * 8 + lb l * 64⟩
  | .vamoMinClu o ord vd rs1 vi => some ⟨43, vd.val, 1, rs1.val, vi.val, ord.code + lb o * 4 + 4 * 8 + lb l * 64⟩
  | .vamoMaxClu o ord vd rs1 vi => some ⟨43, vd.val, 1, rs1.val, vi.val, ord.code + lb o * 4 + 5 * 8 + lb l * 64⟩
  | .vamoSwapClu o ord vd rs1 vi => some ⟨43, vd.val, 1, rs1.val, vi.val, ord.code + lb o * 4 + 6 * 8 + lb l * 64⟩
  | .vamoAddPkg o ord vd rs1 vi => some ⟨43, vd.val, 2, rs1.val, vi.val, ord.code + lb o * 4 + 0 * 8 + lb l * 64⟩
  | .vamoAndPkg o ord vd rs1 vi => some ⟨43, vd.val, 2, rs1.val, vi.val, ord.code + lb o * 4 + 1 * 8 + lb l * 64⟩
  | .vamoOrPkg o ord vd rs1 vi => some ⟨43, vd.val, 2, rs1.val, vi.val, ord.code + lb o * 4 + 2 * 8 + lb l * 64⟩
  | .vamoXorPkg o ord vd rs1 vi => some ⟨43, vd.val, 2, rs1.val, vi.val, ord.code + lb o * 4 + 3 * 8 + lb l * 64⟩
  | .vamoMinPkg o ord vd rs1 vi => some ⟨43, vd.val, 2, rs1.val, vi.val, ord.code + lb o * 4 + 4 * 8 + lb l * 64⟩
  | .vamoMaxPkg o ord vd rs1 vi => some ⟨43, vd.val, 2, rs1.val, vi.val, ord.code + lb o * 4 + 5 * 8 + lb l * 64⟩
  | .vamoSwapPkg o ord vd rs1 vi => some ⟨43, vd.val, 2, rs1.val, vi.val, ord.code + lb o * 4 + 6 * 8 + lb l * 64⟩
  | .vsetl rd rs1 rows et => some ⟨43, rd.val, 3, rs1.val, et.code + rows.toNat % 2 * 16, rows.toNat / 2 + 0 * 8 + lb l * 64⟩
  | .vdepth rd lg => some ⟨43, rd.val, 3, 0, lg.toNat, 1 * 8 + lb l * 64⟩
  | .vstrip rd rs1 => some ⟨43, rd.val, 3, rs1.val, 0, 2 * 8 + lb l * 64⟩
  | .vwait md va vb t => some ⟨43, md.val, 3, va.val, vb.val, t.toNat + 3 * 8 + lb l * 64⟩
  | .cwait ld st cp tl => some ⟨43, ld.toNat, 4, st.toNat, cp.toNat, tl.toNat + lb l * 64⟩
  | .barInit b rs1 => some ⟨43, 0, 5, rs1.val, b.toNat % 32, b.toNat / 32 + 0 * 4 + lb l * 64⟩
  | .barArr rd b => some ⟨43, rd.val, 5, 0, b.toNat % 32, b.toNat / 32 + 1 * 4 + lb l * 64⟩
  | .barExp b rs1 => some ⟨43, 0, 5, rs1.val, b.toNat % 32, b.toNat / 32 + 2 * 4 + lb l * 64⟩
  | .barWait b rs1 => some ⟨43, 0, 5, rs1.val, b.toNat % 32, b.toNat / 32 + 3 * 4 + lb l * 64⟩
  | .barTest rd b => some ⟨43, rd.val, 5, 0, b.toNat % 32, b.toNat / 32 + 4 * 4 + lb l * 64⟩
  | .vadd x vm vd vs1 vs2 => some ⟨91, vd.val, 0, vs1.val, vs2.val, vm.val + lb x * 8 + 0 * 16⟩
  | .vsub x vm vd vs1 vs2 => some ⟨91, vd.val, 0, vs1.val, vs2.val, vm.val + lb x * 8 + 1 * 16⟩
  | .vmul x vm vd vs1 vs2 => some ⟨91, vd.val, 0, vs1.val, vs2.val, vm.val + lb x * 8 + 2 * 16⟩
  | .vmulh x vm vd vs1 vs2 => some ⟨91, vd.val, 0, vs1.val, vs2.val, vm.val + lb x * 8 + 3 * 16⟩
  | .vmacc x vm vd vs1 vs2 => some ⟨91, vd.val, 0, vs1.val, vs2.val, vm.val + lb x * 8 + 4 * 16⟩
  | .vmin x vm vd vs1 vs2 => some ⟨91, vd.val, 0, vs1.val, vs2.val, vm.val + lb x * 8 + 5 * 16⟩
  | .vmax x vm vd vs1 vs2 => some ⟨91, vd.val, 0, vs1.val, vs2.val, vm.val + lb x * 8 + 6 * 16⟩
  | .vminu x vm vd vs1 vs2 => some ⟨91, vd.val, 0, vs1.val, vs2.val, vm.val + lb x * 8 + 7 * 16⟩
  | .vmaxu x vm vd vs1 vs2 => some ⟨91, vd.val, 1, vs1.val, vs2.val, vm.val + lb x * 8 + 0 * 16⟩
  | .vand x vm vd vs1 vs2 => some ⟨91, vd.val, 1, vs1.val, vs2.val, vm.val + lb x * 8 + 1 * 16⟩
  | .vor x vm vd vs1 vs2 => some ⟨91, vd.val, 1, vs1.val, vs2.val, vm.val + lb x * 8 + 2 * 16⟩
  | .vxor x vm vd vs1 vs2 => some ⟨91, vd.val, 1, vs1.val, vs2.val, vm.val + lb x * 8 + 3 * 16⟩
  | .vsll x vm vd vs1 vs2 => some ⟨91, vd.val, 1, vs1.val, vs2.val, vm.val + lb x * 8 + 4 * 16⟩
  | .vsrl x vm vd vs1 vs2 => some ⟨91, vd.val, 1, vs1.val, vs2.val, vm.val + lb x * 8 + 5 * 16⟩
  | .vsra x vm vd vs1 vs2 => some ⟨91, vd.val, 1, vs1.val, vs2.val, vm.val + lb x * 8 + 6 * 16⟩
  | .vclip x vm vd vs1 vs2 => some ⟨91, vd.val, 1, vs1.val, vs2.val, vm.val + lb x * 8 + 7 * 16⟩
  | .vsadd x vm vd vs1 vs2 => some ⟨91, vd.val, 2, vs1.val, vs2.val, vm.val + lb x * 8 + 0 * 16⟩
  | .vssub x vm vd vs1 vs2 => some ⟨91, vd.val, 2, vs1.val, vs2.val, vm.val + lb x * 8 + 1 * 16⟩
  | .vsaddu x vm vd vs1 vs2 => some ⟨91, vd.val, 2, vs1.val, vs2.val, vm.val + lb x * 8 + 2 * 16⟩
  | .vssubu x vm vd vs1 vs2 => some ⟨91, vd.val, 2, vs1.val, vs2.val, vm.val + lb x * 8 + 3 * 16⟩
  | .vwadd x vm vd vs1 vs2 => some ⟨91, vd.val, 2, vs1.val, vs2.val, vm.val + lb x * 8 + 4 * 16⟩
  | .vwmul x vm vd vs1 vs2 => some ⟨91, vd.val, 2, vs1.val, vs2.val, vm.val + lb x * 8 + 5 * 16⟩
  | .vwmacc x vm vd vs1 vs2 => some ⟨91, vd.val, 2, vs1.val, vs2.val, vm.val + lb x * 8 + 6 * 16⟩
  | .vnsr x vm vd vs1 vs2 => some ⟨91, vd.val, 2, vs1.val, vs2.val, vm.val + lb x * 8 + 7 * 16⟩
  | .vfadd x vm vd vs1 vs2 => some ⟨91, vd.val, 3, vs1.val, vs2.val, vm.val + lb x * 8 + 0 * 16⟩
  | .vfsub x vm vd vs1 vs2 => some ⟨91, vd.val, 3, vs1.val, vs2.val, vm.val + lb x * 8 + 1 * 16⟩
  | .vfmul x vm vd vs1 vs2 => some ⟨91, vd.val, 3, vs1.val, vs2.val, vm.val + lb x * 8 + 2 * 16⟩
  | .vfmacc x vm vd vs1 vs2 => some ⟨91, vd.val, 3, vs1.val, vs2.val, vm.val + lb x * 8 + 3 * 16⟩
  | .vfnmacc x vm vd vs1 vs2 => some ⟨91, vd.val, 3, vs1.val, vs2.val, vm.val + lb x * 8 + 4 * 16⟩
  | .vfdiv x vm vd vs1 vs2 => some ⟨91, vd.val, 3, vs1.val, vs2.val, vm.val + lb x * 8 + 5 * 16⟩
  | .vfsqrt x vm vd vs1 => some ⟨91, vd.val, 3, vs1.val, 0, vm.val + lb x * 8 + 6 * 16⟩
  | .vfrece x vm vd vs1 => some ⟨91, vd.val, 3, vs1.val, 0, vm.val + lb x * 8 + 7 * 16⟩
  | .vfrsqe x vm vd vs1 => some ⟨91, vd.val, 4, vs1.val, 0, vm.val + lb x * 8 + 0 * 16⟩
  | .vfmin x vm vd vs1 vs2 => some ⟨91, vd.val, 4, vs1.val, vs2.val, vm.val + lb x * 8 + 1 * 16⟩
  | .vfmax x vm vd vs1 vs2 => some ⟨91, vd.val, 4, vs1.val, vs2.val, vm.val + lb x * 8 + 2 * 16⟩
  | .vfsgnj x vm vd vs1 vs2 => some ⟨91, vd.val, 4, vs1.val, vs2.val, vm.val + lb x * 8 + 3 * 16⟩
  | .vfclass x vm vd vs1 => some ⟨91, vd.val, 4, vs1.val, 0, vm.val + lb x * 8 + 4 * 16⟩
  | .vcvt x vm src vd vs1 => some ⟨91, vd.val, 4, vs1.val, src.code, vm.val + lb x * 8 + 5 * 16⟩
  | .vcvtb x vm vd vs1 vs2 => some ⟨91, vd.val, 4, vs1.val, vs2.val, vm.val + lb x * 8 + 6 * 16⟩
  | .vdecb x vm vd vs1 vs2 => some ⟨91, vd.val, 4, vs1.val, vs2.val, vm.val + lb x * 8 + 7 * 16⟩
  | .vcmp c vm md vs1 vs2 => some ⟨91, md.val + c.code * 8, 5, vs1.val, vs2.val, vm.val + 0 * 8 + 0 * 16⟩
  | .vfcmp c vm md vs1 vs2 => some ⟨91, md.val + c.code * 8, 5, vs1.val, vs2.val, vm.val + 0 * 8 + 1 * 16⟩
  | .vmlog op md ma mb => some ⟨91, md.val + op.code * 8, 5, ma.val, mb.val, 0 + 0 * 8 + 2 * 16⟩
  | .vpopc rd ma => some ⟨91, rd.val, 5, ma.val, 0, 0 + 0 * 8 + 3 * 16⟩
  | .vfirst rd ma => some ⟨91, rd.val, 5, ma.val, 0, 0 + 0 * 8 + 4 * 16⟩
  | .vmerge vm vd vs1 vs2 => some ⟨91, vd.val, 5, vs1.val, vs2.val, vm.val + 0 * 8 + 5 * 16⟩
  | .vbcast vm vd rs1 => some ⟨91, vd.val, 5, rs1.val, 0, vm.val + 0 * 8 + 6 * 16⟩
  | .vmvsx vm vd rs1 => some ⟨91, vd.val, 5, rs1.val, 0, vm.val + 0 * 8 + 7 * 16⟩
  | .vslup vm vd vs1 rs2 => some ⟨91, vd.val, 6, vs1.val, rs2.val, vm.val + 0 * 8 + 0 * 16⟩
  | .vsldn vm vd vs1 rs2 => some ⟨91, vd.val, 6, vs1.val, rs2.val, vm.val + 0 * 8 + 1 * 16⟩
  | .vrgath vm vd vs1 vs2 => some ⟨91, vd.val, 6, vs1.val, vs2.val, vm.val + 0 * 8 + 2 * 16⟩
  | .vcomp vm vd vs1 => some ⟨91, vd.val, 6, vs1.val, 0, vm.val + 0 * 8 + 3 * 16⟩
  | .vtrn vd vs1 => some ⟨91, vd.val, 6, vs1.val, 0, 0 + 0 * 8 + 4 * 16⟩
  | .vmvxs rd vs1 => some ⟨91, rd.val, 6, vs1.val, 0, 0 + 0 * 8 + 5 * 16⟩
  | .vredsum vm vd vs1 vs2 => some ⟨91, vd.val, 6, vs1.val, vs2.val, vm.val + 0 * 8 + 6 * 16⟩
  | .vredmax vm vd vs1 vs2 => some ⟨91, vd.val, 6, vs1.val, vs2.val, vm.val + 0 * 8 + 7 * 16⟩
  | .vredmin vm vd vs1 vs2 => some ⟨91, vd.val, 7, vs1.val, vs2.val, vm.val + 0 * 8 + 0 * 16⟩
  | .vredand vm vd vs1 vs2 => some ⟨91, vd.val, 7, vs1.val, vs2.val, vm.val + 0 * 8 + 1 * 16⟩
  | .vredor vm vd vs1 vs2 => some ⟨91, vd.val, 7, vs1.val, vs2.val, vm.val + 0 * 8 + 2 * 16⟩
  | .vfredo vm vd vs1 vs2 => some ⟨91, vd.val, 7, vs1.val, vs2.val, vm.val + 0 * 8 + 3 * 16⟩
  | .vfredt vm vd vs1 vs2 => some ⟨91, vd.val, 7, vs1.val, vs2.val, vm.val + 0 * 8 + 4 * 16⟩
  | .vfredmax vm vd vs1 vs2 => some ⟨91, vd.val, 7, vs1.val, vs2.val, vm.val + 0 * 8 + 5 * 16⟩
  | .vfredmin vm vd vs1 vs2 => some ⟨91, vd.val, 7, vs1.val, vs2.val, vm.val + 0 * 8 + 6 * 16⟩
  | .mrun fp tag rs1 => some ⟨123, 0, 0, rs1.val, 0, tag.toNat + fp.code * 8⟩
  | .mcfg fp tag rs1 rs2 => some ⟨123, 0, 1, rs1.val, rs2.val, tag.toNat + fp.code * 8⟩
  | .mzero rs1 rs2 => some ⟨123, 0, 2, rs1.val, rs2.val, 0 + 0 * 8⟩
  | .mdrain tag rs1 => some ⟨123, 0, 3, rs1.val, 0, tag.toNat + 0 * 8⟩
  | .mcpyIn rs1 rs2 => some ⟨123, 0, 4, rs1.val, rs2.val, 0 + 0 * 8⟩
  | .mcpyOut rs1 rs2 => some ⟨123, 0, 5, rs1.val, rs2.val, 0 + 0 * 8⟩
  | .mstat rd => some ⟨123, rd.val, 6, 0, 0, 0 + 0 * 8⟩
  | .tswWrite => none
  | .vptrsWrite => none
  | .vresumeWrite => none
  | .tcauseWrite => none
  | .stvecWrite => none
  | .trecWrite => none
  | .sipWrite => none
  | .fcsrAccess => none
  | .cwpRead => none
  | .pmcWrite => none
  | .pmcRead => none
  | .pmselWrite => none
  | .registerWrite => none
  | .interruptEntry => none
  | .trapRecordPost => none
  | .ownerLostRefusal => none
  | .shuttleWake => none
  | .waitLimitExpiry => none
  | .framePack => none
  | .frameCrcRetry => none
  | .frameArrival => none
  | .queuedFrameDelivery => none
  | .frameDeliveryFailed => none
  | .mixWindowEnd => none
  | .mixMigration => none
  | .exitRelease => none
  | .startEntryServed => none
  | .vectorUnitStart => none
  | .vectorCompletion => none
  | .vectorQueueParityError => none
  | .depthGrantComplete => none
  | .qaEntryArrival => none
  | .qkCommandArrival => none
  | .arm => none
  | .zero => none
  | .drain => none
  | .drainRow => none
  | .bar => none
  | .mcpy => none
  | .qaConsume => none
  | .tlDecrement => none
  | .qkParityError => none
  | .register => none
  | .registrationGrant => none
  | .evict => none
  | .fill => none
  | .homeRead => none
  | .watchWake => none
  | .ringPostApply => none
  | .feRequestResend => none
  | .vwaitPoll => none
  | .vwaitTimeout => none
  | .copyBlockDelivered => none
  | .copyComplete => none
  | .copyFault => none
  | .plbFill => none
  | .atbFill => none
  | .pagePull => none
  | .pullFailed => none
  | .pageMoveDown => none
  | .backgroundPull => none
  | .pageRestore => none
  | .kick => none
  | .ring => none
  | .wbase => none
  | .bar2Access => none
  | .skein => none
  | .start => none
  | .wait => none
  | .signal => none
  | .fenceRecord => none
  | .dependenceAwait => none
  | .residencyGatePass => none
  | .waitQueueRearm => none
  | .signalWordPoll => none
  | .preEmptionNotice => none
  | .bobbinRefill => none
  | .worldSwitch => none
  | .resumeGatePass => none
  | .timer => none
  | .timerDeadline => none
  | .vfInformation => none
  | .protection => none
  | .ownerLostClearing => none
  | .queueControl => none
  | .rangeInstallAndRemoval => none
  | .scrub => none
  | .bindVf => none
  | .unbindVf => none
  | .homeMaskEntry => none
  | .scheduleEntry => none
  | .addSection => none
  | .removeSection => none
  | .readConfiguration => none
  | .tier => none
  | .vfConfiguration => none
  | .logConfiguration => none
  | .pageTable => none
  | .erratumEntry => none
  | .dumpRead => none
  | .evacuate => none
  | .openForImport => none
  | .collectiveGroup => none
  | .interruptRouting => none
  | .unknownService => none
  | .serviceCompletion => none
  | .spdmRequest => none
  | .lockInterfaceRequest => none
  | .stopInterface => none
  | .vfReset => none
  | .logWindowEnd => none
  | .patrolScrub => none
  | .firmwareReelection => none
  | .coreLoss => none
  | .plannedFence => none
  | .fatalError => none
  | .bringUp => none
  | .clockThrottle => none
  | .hbmRowSparing => none
  | .cxlLinkDown => none
  | .uePortDown => none
  | .collectiveComplete => none
  | .atom => none
  | .collectiveAbort => none
  | .peerResponseTimeout => none
  | .illegalInstruction _ => none
  | .startOffer => none
  | .startInterfaceRequest => none
  | .cxlLinkUp => none
  | .uePortUp => none
  | .meshLinkLoss => none
  | .securityUnitLoss => none
  | .warmReset => none
  | .cycleCounterOverflow => none
  | .partitionImport => none
  | .evacuationTargetLost => none

/-- The word of a well-formed instruction (R37). -/
def encode (l : Bool) (i : Instr) : Option (BitVec 32) :=
  (encodeFields l i).map fun f => BitVec.ofNat 32 f.pack

end Sys2Proof
end

