-- ==== Sys2Proof/Machine/State.lean ====
section
/-! DEFINITION. The state of a QK9-A package: everything the spec gives the machine, as plain data. Cores are numbered as
`shid.CORE` numbers them (die [11:9], cluster-in-die [8], core-in-cluster [7:0]); a shuttle slot is numbered by its `shid`
(16 * core + slot); a section by 2 * cluster + section (R203); a VF from 0 to 255; a partition from 0 to 31. -/

namespace Sys2Proof.Machine

/-- The privilege modes (R15). -/
inductive Mode where
  | u | s | m
  deriving DecidableEq, Repr

/-- The classes of core (R122). -/
inductive CoreClass where
  | control | vector | matrix
  deriving DecidableEq, Repr

/-- The kinds of access that the checks of R289 and R294 tell apart. -/
inductive Access where
  | load | store | fetch | atomic
  deriving DecidableEq, Repr

/-- A byte order is decided once, in Ops; memory is the list of (machine address, byte) pairs that are not zero. -/
abbrev Memory := List Host.Cell

/-- The mix sample of a shuttle (R27 offset 0xD0, R96). -/
structure Mix where
  issued : BitVec 16 := 0
  vector : BitVec 16 := 0
  low : BitVec 4 := 0
  traps : BitVec 8 := 0
  deriving DecidableEq, Repr

/-- The state that a shuttle owns and that travels in its frame (R13, R27). `x` holds x1 to x15; `vtype` is none while VILL
is set (R19). -/
structure Shuttle where
  pc : Word := 0
  x : SMap Word := []
  /-- integer registers whose stored word has failed its check (R140, R386). DEDUCED, unsafe: log entry 22. -/
  xbad : BitVec 16 := 0
  tsw : Word := 0
  vtype : Option EType := none
  vlr : BitVec 4 := 0
  vlc : BitVec 10 := 0
  vdepth : BitVec 4 := 1
  vptrs : BitVec 32 := 0
  vresume : BitVec 13 := 0
  wlimit : BitVec 32 := 0
  fcsr : BitVec 8 := 0
  sepc : Word := 0
  stval : Word := 0
  scause : Word := 0
  sscratch : Word := 0
  tcause : BitVec 10 := 0
  sie : Bool := false
  spie : Bool := false
  spp : Bool := false
  mode : Mode := .u
  origin : BitVec 16 := 0
  hops : BitVec 4 := 0
  migs : BitVec 16 := 0
  mix : Mix := {}
  deriving DecidableEq, Repr

/-- The machine-mode trap registers of a hardware thread of the firmware column (R100). PRESUMED, unsafe: log entry 8. -/
structure MTrap where
  mepc : Word := 0
  mcause : Word := 0
  mtval : Word := 0
  mtvec : Word := 0
  mstatus : Word := 0
  deriving DecidableEq, Repr

/-- What a Waiting shuttle waits for (R30, R127, R260). -/
inductive WaitKind where
  /-- a `cwctr` counter at 255 (R23) -/
  | counter
  /-- `ldfe`, `stfe`, `ldff` at a window address (R247); `queued` once the scratchpad holds the request -/
  | fullEmpty (addr : Word) (queued : Bool)
  /-- `cwait` (R74) -/
  | cwait
  /-- `ipost` or `iwait` on a ring channel of a section (R75) -/
  | ring (section_ ch : Nat)
  /-- `bar.wait` (R251) -/
  | barrier (section_ b : Nat)
  /-- a full copy-channel queue, at issue of a copy (R254): the descriptor address -/
  | channel (addr : Word)
  /-- a full queue named in a `fence.q` (R241): the mask, and whether it is a copy channel's -/
  | fenceQ (mask : Word) (isChannel : Bool)
  /-- a queue push or pop, or the collective queue (R184 to R186, R404): the stval of expiry -/
  | queue (tval : Word)
  /-- the slot of an `mcfg`, or a full QK of a matrix instruction (R181, R194) -/
  | matrix
  /-- an `mcpy` in QK (R197): its command number -/
  | mcpy (id : Nat)
  /-- a page pull (R296): the address whose page is pulled -/
  | pull (va : Nat)
  /-- a full vector queue, or a vector result not yet produced (R127, R128) -/
  | vector
  /-- a store that finds 64 registration requests outstanding (R212) -/
  | storeBuffer
  /-- a depth grant (R137): the depth granted -/
  | depth (d : Nat)
  /-- `vwait` (R249): timeout exponent and the unmet elements -/
  | vwait (t : Nat) (unmet : List Nat)
  /-- WFI (R67) -/
  | wfi
  /-- a firmware service (R66) -/
  | firmware
  /-- the counter wait of packing (R94) -/
  | packing
  /-- the status of an offered start (R70) -/
  | offer
  /-- the awaited step has been performed elsewhere (R70, R197, R247): the instruction completes with this value when it issues -/
  | done (v : Word)
  deriving DecidableEq, Repr

/-- A blocking wait in progress: its kind, the bound fixed when it began (0: none) and the cycles counted (R24, R260).
DESIGN CHOICE, unsafe: log entry 14. -/
structure WaitInfo where
  kind : WaitKind
  bound : Nat := 0
  counted : Nat := 0
  /-- the address whose page pull a `vwait` waits for besides (R249, R297); at a page pull, that of a fetch which waits for it -/
  page : Option Nat := none
  deriving DecidableEq, Repr

/-- The states of R30 that a slot's shuttle can be in. A Parked shuttle is one whose slot has `parked` set beside the state it
was parked from; a shuttle In transit or Queued is in the frames of the state,
its old slot being `sent` until the acknowledgement. `issuing` is not kept: an issue is one step. -/
inductive Life where
  /-- the slot is free -/
  | free
  /-- the slot is reserved for a mix migration (R96) -/
  | reserved
  | ready
  | waiting
  | packing
  /-- the frame has been sent and is not yet acknowledged (R29) -/
  | sent
  | exiting
  deriving DecidableEq, Repr

/-- An entry of an attribute buffer (R291): the page of one VF, the leaf that maps it and where the leaf lies, and the rights
and key of the range entry used. -/
structure AtbEntry where
  vf : Nat
  page : Nat
  leaf : Word
  leafAt : Nat
  level : Nat
  xwr : BitVec 3
  kidx : Nat
  deriving DecidableEq, Repr

/-- A buffered store (R225): the 8-byte block it lies in, the bytes and their mask, and the slot that made it. -/
structure StoreEntry where
  shid : Nat
  block : Nat
  data : BitVec 64
  mask : BitVec 8
  /-- the byte address to report in stval (R218) -/
  addr : Word
  /-- the agent of a cause (R88): 0 scalar, 1 vector, 2 matrix -/
  agent : Nat := 0
  /-- where the home slice and the block lie, and the key, as the fill found them (R291) -/
  slice : Nat := 0
  ma : Nat := 0
  kidx : Nat := 0
  /-- the page's grain in bytes (R207), and how its store is performed: 0 by registration; 1 to 3 at the place of an uncached,
  shared-uncached or device page (R237); 4 at a scratchpad (R205) -/
  grain : Nat := 32
  pol : Nat := 0
  /-- the number of the vector instruction that made it, 0 for none: ST counts the instruction until it is performed (R23, R74) -/
  vseq : Nat := 0
  deriving DecidableEq, Repr

/-- A store held uncommitted behind older vector instructions (R130): it commits when every queue entry numbered `after` or
less has completed. -/
structure Held where
  after : Nat
  entry : StoreEntry
  /-- the attribute entry that its check used, and the mode, for what commits with it (R293, R299) -/
  leaf : Option AtbEntry := none
  mode : Mode := .u
  deriving DecidableEq, Repr

/-- An element of a vector atomic whose word the core holds and keeps until the element is performed (R157): where the word lies, the
operation, whether it is signed, the operand, and the old value once it is performed. -/
structure Pin where
  elem : Nat
  vf : Nat
  wd : Nat
  ma : Nat
  kidx : Nat
  op : Nat
  signed : Bool
  operand : BitVec 32
  old : Option (BitVec 32) := none
  deriving DecidableEq, Repr

/-- An entry of a thread's vector queue (R128): the instruction, the checkpoint of R130 taken when the entry was made (which
holds the captured `vtype`, `vlr`, `vlc`, `frm` and x operands), the word and the other word of its pair. -/
structure VEntry where
  seq : Nat
  instr : Instr
  ck : Shuttle
  word : BitVec 32
  mate : BitVec 32
  /-- a bounded wait of the entry at a matrix queue (R184, R186, R260) -/
  wait : Option WaitInfo := none
  /-- the vector registers and masks as they were when the instruction started, once it has stopped on its way (R143, R146) -/
  src : Option (SMap (BitVec 1024) × SMap (BitVec 4096)) := none
  /-- the elements at or above the lowest unperformed one that are performed (R141) -/
  done : List Nat := []
  pins : List Pin := []
  /-- it has started behind an older instruction of its thread that waits at an element (R129, R145), and what elements of it have read -/
  started : Bool := false
  early : SMap (Option Nat) := []
  deriving DecidableEq, Repr

/-- A deferred engine fault held for a shuttle (R185, R259): the cause to take, the underlying cause, stval, and the queue
(0 to 15 a copy channel of the cluster, 16 the collective queue, 17 a QK). -/
structure Deferred where
  cause : BitVec 10
  under : BitVec 10
  tval : Word
  queue : Nat
  order : Nat
  deriving DecidableEq, Repr

/-- A refused store that is due as a trap (R218, R219). -/
structure RefusedStore where
  cause : BitVec 10
  addr : Word
  /-- the words that it would have written: no later store of the shuttle to them is performed before the trap -/
  words : List Nat := []
  deriving DecidableEq, Repr

/-- Why and where a shuttle is being packed (R27, R91): the reason code, the named core (0xFFF: any candidate), the words to be
executed at the destination, and the pc of the frame. -/
structure PackInfo where
  reason : Nat
  named : Nat := 0xFFF
  word : BitVec 32 := 0
  mate : BitVec 32 := 0
  pc : Word
  slotShid : Option Nat := none
  /-- the last control transfer was one that R40 names, and the shuttle has not issued since -/
  jumped : Bool := false
  deriving DecidableEq, Repr

/-- What the die keeps of a started shuttle (R70, R72, R308, R312, R319): its completion address, its successor counters, its
scratch grant (core, offset, length in bytes) and the host-queue record that started it. It follows the shuttle, outside the
frame. -/
structure TaskInfo where
  completion : Word := 0
  successors : List Word := []
  grant : Option (Nat × Nat × Nat) := none
  record : Option (Nat × Nat) := none
  deriving DecidableEq, Repr

/-- A shuttle slot of a core (R13, R122, R135): the shuttle in it and the slot's own state. -/
structure Slot where
  life : Life := .free
  parked : Bool := false
  vf : Nat := 0
  sh : Shuttle := {}
  m : MTrap := {}
  wait : Option WaitInfo := none
  pack : Option PackInfo := none
  task : TaskInfo := {}
  tl : Nat := 0
  cp : Nat := 0
  vregs : SMap (BitVec 1024) := []
  masks : SMap (BitVec 4096) := []
  /-- poisoned rows of the vector register file (R140), keyed as vregs -/
  vpoison : SMap Bool := []
  vq : List VEntry := []
  vseq : Nat := 0
  /-- the started vector instruction, while it waits at an element (R129) -/
  vrun : Option VEntry := none
  held : List Held := []
  deferred : List Deferred := []
  refused : List RefusedStore := []
  /-- a scalar trap held behind older vector work (R130, R413): its cause and stval -/
  heldTrap : Option (BitVec 10 × Word) := none
  /-- a mix migration ordered by the heddle: the reserved slot (R96) -/
  mixOrder : Option Nat := none
  /-- the last control transfer was a branch, jump or `shmove` (R40) -/
  jumped : Bool := false
  /-- the instruction just performed completed (model's own: says whether slot B of a pair follows) -/
  completed : Bool := false
  /-- the word being issued and the other word of its pair (R87, R90) -/
  word : BitVec 32 := 0
  mate : BitVec 32 := 0
  /-- a wake is on its way (R127) -/
  woken : Bool := false
  /-- `shyield` asked to be passed over once (R73) -/
  yielded : Bool := false
  /-- slot A of a pair has been performed and slot B has not: no boundary falls between the two words (R41, R84) -/
  half : Bool := false
  /-- values that the shuttle's next load of a word or of an aligned doubleword has taken ahead of its turn (R228): of word w under 2 * w,
  of the 8-byte block b under 4 * b + 1 -/
  early : SMap (Option Word) := []
  /-- the cycle of its core's clock in which the last wake reached the core: the shuttle is Ready from the next (R127) -/
  wokeAt : Option Word := none
  /-- it has been parked while it Waited, and issues its instruction again, before anything else, when it next runs (R30, R330) -/
  again : Bool := false
  /-- a bounded wait that goes on when its instruction, issued again, has had the page or the room that it waits for first (R260) -/
  earlier : Option WaitInfo := none
  /-- `last_issue`: the cycle, of its core's clock (R396), of the last issue, none for minus infinity (R126) -/
  lastIssue : Option Word := none
  deriving DecidableEq, Repr

/-- An entry of the protection lookaside buffer (R287). -/
structure PlbEntry where
  vf : Nat
  region : Nat
  valid : Bool
  r : Bool
  w : Bool
  x : Bool
  u : Bool
  deriving DecidableEq, Repr

/-- An entry of the QA queue (R182, R184). -/
structure QaEntry where
  val : BitVec 1024
  w : Nat
  scl : BitVec 32
  tag : Nat
  /-- it was poisoned in a bobbin or a context area (R386) -/
  bad : Bool := false
  deriving DecidableEq, Repr

/-- A command in QK (R182, R185, R188): the command word and operand, who issued it, and the progress of a DRAIN or MCPY. An
`mcpy` is held with the code 4 (in) or 5 (out) and its memory address; code 6 is a joint entry of `fence.q`, whose number is
the operand. -/
structure QkCmd where
  op : Nat
  tag : Nat := 0
  pair : Nat := 0
  operand : Word := 0
  addr : Word := 0
  issuer : Nat := 0
  id : Nat := 0
  word : Word := 0
  taken : Bool := false
  progress : Nat := 0
  deriving DecidableEq, Repr

/-- A drained row in QD (R182, R192): 64 elements of the given width, and a poison bit for each; `bad` marks a parity error. -/
structure QdRow where
  vals : List (BitVec 32)
  w : Nat
  poison : BitVec 64
  bad : Bool := false
  deriving DecidableEq, Repr

/-- A configuration slot of a matrix core (R179). -/
structure CfgSlot where
  configured : Bool := false
  armed : Bool := false
  remaining : Nat := 0
  e : Nat := 0
  rows : Nat := 0
  pair : FormatPair := .bf16bf16
  w0 : Word := 0
  w1 : Word := 0
  issuer : Nat := 0
  order : Nat := 0
  /-- the number and the word of the ARM that armed it (R188) -/
  id : Nat := 0
  word : Word := 0
  deriving DecidableEq, Repr

/-- The chunk of B that the array holds (R191): its slot and chunk number, and the rows and scale words as read, keyed by
2 * column + row and by column. -/
structure HeldChunk where
  tag : Nat
  j : Nat
  rows : SMap (BitVec 512)
  scales : SMap (BitVec 32)
  deriving DecidableEq, Repr

/-- The sticky bits of `mstat` (R198). -/
structure MStat where
  utag : Nat := 0
  ut : Bool := false
  qkp : Bool := false
  be : Bool := false
  wm : Bool := false
  psn : Bool := false
  iovf : Bool := false
  uf : Bool := false
  of : Bool := false
  nv : Bool := false
  deriving DecidableEq, Repr

/-- A request queued at a scratchpad for a full/empty word (R247): the word's offset, the slot, and whether it waits for full. -/
structure FeWaiter where
  off : Nat
  shid : Nat
  wantsFull : Bool
  deriving DecidableEq, Repr

/-- The part of a core's state that is the running VF's context (R326): scratchpad, full/empty bits, matrix stores and queues,
interrupt registers and counters. -/
structure CoreCtx where
  vf : Nat := 0
  scratch : SMap (BitVec 8) := []
  full : SMap Bool := []
  spoison : SMap Bool := []
  waiters : List FeWaiter := []
  /-- scratchpad units of 4 KiB of a vector core (R136) -/
  units : Nat := 0
  /-- scratch grants (offset, length) held on this core (R312) -/
  grants : List (Nat × Nat) := []
  acc : SMap (BitVec 32) := []
  accPoison : SMap Bool := []
  cfg : SMap CfgSlot := []
  qa : List QaEntry := []
  qk : List QkCmd := []
  qd : List QdRow := []
  mstat : MStat := {}
  armOrder : Nat := 0
  /-- issuers of completed commands whose TL decrement is on its way (R200) -/
  tlDone : List Nat := []
  sie : Word := 0
  sip : Word := 0
  /-- the detail of the pending pre-emption notice (R83, R88): 0 slice ending, 1 reset, 2 evacuation, 3 fence -/
  notice : Nat := 0
  pmc : SMap (BitVec 48) := []
  pmsel : SMap (BitVec 32) := []
  deriving DecidableEq, Repr

/-- The registers of the VF that reach other cores with a delay (R81). -/
structure VfRegs where
  stvec : Word := 0
  scounteren : Word := 0
  trec : Word := 0
  deriving DecidableEq, Repr

/-- A core (R122): the running VF's context and what stays with the core. -/
structure Core where
  ctx : CoreCtx := {}
  plb : List PlbEntry := []
  atb : List AtbEntry := []
  /-- Valid copies of words (R210), keyed by DVA word -/
  l1 : SMap (Option (BitVec 32)) := []
  /-- words of Valid copies that have failed their check (R140, R386). DEDUCED, unsafe: log entry 22. -/
  l1bad : List Nat := []
  /-- 8-byte blocks whose two Valid words were obtained at different instants: no 8-byte access reads them together (R224, R225) -/
  l1apart : List Nat := []
  /-- instruction-side copies (R65), keyed by DVA word. DESIGN CHOICE, safe: log entry 9. -/
  icache : SMap (Option (BitVec 32)) := []
  /-- the words of instruction-side copies that have been fetched from: a start keeps no others (R368) -/
  iseen : List Nat := []
  sbuf : List StoreEntry := []
  chunk : Option HeldChunk := none
  /-- B-SRAM rows, keyed by 512 * slice + row, and scale words (R176) -/
  bsram : SMap (BitVec 512) := []
  bscale : SMap (BitVec 32) := []
  bpoison : SMap Bool := []
  /-- the core is fenced (R390), or lost and treated as fenced (R389) -/
  fenced : Bool := false
  lost : Bool := false
  /-- the barrel pointer P (R126) and the vector unit's own pointer (R129) -/
  ptr : Nat := 0
  vptr : Nat := 0
  /-- the cycle of the barrel's last selection (R126) and of the vector unit's last start (R129) -/
  turn : Option Word := none
  vstart : Option Word := none
  /-- the VF whose context each bobbin holds (R327) -/
  bobbin0 : Option Nat := none
  bobbin1 : Option Nat := none
  /-- an earlier value of the VF registers that this core still uses (R81) -/
  stale : Option VfRegs := none
  deriving DecidableEq, Repr

/-- A barrier (R250). -/
structure Barrier where
  tgt : Nat := 0
  cnt : Nat := 0
  pend : Nat := 0
  ph : Bool := false
  init : Bool := false
  deriving DecidableEq, Repr

/-- An iteration-ring channel (R75): the completed-through count, the window, and the posts on their way (shid, value). -/
structure RingChannel where
  c : Nat := 0
  w : BitVec 64 := 0
  posts : List (Nat × Word) := []
  /-- the ring cycle and core of the last post applied -/
  last : Option (Word × Nat) := none
  deriving DecidableEq, Repr

/-- The forms of a copy (R253). -/
inductive CopyForm where
  | lin | rect | bsram
  deriving DecidableEq, Repr

/-- A copy command in a channel queue (R252 to R255); `joint` is the entry of a `fence.q` instead (R233). -/
structure CopyCmd where
  joint : Option Nat := none
  form : CopyForm := .lin
  desc : List Word := []
  bar : Option Nat := none
  bytes : Nat := 0
  issuer : Nat := 0
  order : Nat := 0
  mode : Mode := .u
  delivered : Nat := 0
  counted : Nat := 0
  /-- the address whose page pull the channel waits for (R255, R296) -/
  waits : Option Nat := none
  /-- the cause, with its address, that a failed pull has for its next access (R297) -/
  failed : Option (BitVec 10 × Word) := none
  deriving DecidableEq, Repr

/-- A copy channel (R252, R256), with its own attribute buffer (R291). -/
structure Channel where
  cmds : List CopyCmd := []
  seq : BitVec 16 := 0
  atb : List AtbEntry := []
  deriving DecidableEq, Repr

/-- The cluster state of one section that belongs to the running VF's context (R326): 32 barriers, 4 ring channels and 8 copy
channels. -/
structure SectionCtx where
  vf : Nat := 0
  barriers : SMap Barrier := []
  ring : SMap RingChannel := []
  chans : SMap Channel := []
  deriving DecidableEq, Repr

/-- A frame (R27): the shuttle's state, and the fields that only a frame has. -/
structure Frame where
  sh : Shuttle
  vf : Nat
  part : Nat
  reason : Nat
  dclass : CoreClass
  gen : BitVec 16
  word : BitVec 32 := 0
  mate : BitVec 32 := 0
  named : Nat := 0xFFF
  /-- the slot that sent it (a shid), and the core it was sent to with its slot -/
  src : Nat
  dst : Nat := 0
  slot : Nat := 0
  retries : Nat := 0
  order : Nat := 0
  task : TaskInfo := {}
  /-- the refused stores and deferred faults that follow the shuttle until it next issues (R218) -/
  refused : List RefusedStore := []
  /-- of a shuttle that firmware has moved off a fenced core: its deferred faults, and the operations still counted in TL and CP (R99) -/
  deferred : List Deferred := []
  tl : Nat := 0
  cp : Nat := 0
  /-- the last control transfer was a branch, jump or `shmove`, and nothing has issued since (R40) -/
  jumped : Bool := false
  /-- the fault to take on arrival: 0x1.7.3 or 0x1.0.1 (R99) -/
  trapOnArrival : Option (BitVec 10 × Word) := none
  deriving DecidableEq, Repr

/-- A start waiting at a heddle or being offered (R70, R307, R311). -/
structure Start where
  vf : Nat
  core : Nat
  entry : Word
  arg0 : Word
  arg1 : Word
  control : Word
  task : TaskInfo := {}
  prio : Nat := 1
  since : Nat := 0
  order : Nat := 0
  reserved : Bool := false
  /-- the slot whose `shstart` awaits the status, with its rd (R70) -/
  issuer : Option (Nat × Nat) := none
  deriving DecidableEq, Repr

/-- A queue push on its way (R184, R185). -/
structure Push where
  targets : List Nat
  qa : Option QaEntry := none
  qk : Option QkCmd := none
  vf : Nat
  deriving DecidableEq, Repr

/-- A trap record waiting to be posted (R87). -/
structure TrapRecord where
  vf : Nat
  core : Nat
  words : List Word
  /-- the producer index claimed for it and the address of its place in the ring, once step 3 is done -/
  claim : Option (Word × Nat) := none
  /-- the address whose page pull its posting waits for (R87, R296) -/
  waits : Option Nat := none
  deriving DecidableEq, Repr

/-- The home state of a word that is not Unregistered (R210). -/
inductive HomeState where
  | unregistered
  /-- the owning core; where the word lies in machine memory and under which key, as the grant found them (R291) -/
  | registered (core ma kidx : Nat)
  /-- the lost owner; where the word lies, by which a scrub of its frame finds it (R219) -/
  | ownerLost (core ma : Nat)
  deriving DecidableEq, Repr

/-- A line of an L2 slice (R206): its tenant tag, its line number by DVA, the slice, and its valid sectors. -/
structure L2Line where
  vf : Nat
  line : Nat
  slice : Nat
  sectors : BitVec 16
  deriving DecidableEq, Repr

/-- Who watches a word (R217). -/
inductive Watcher where
  | slot (shid : Nat)
  | queue (vf q die : Nat)
  | die (d task : Nat)
  deriving DecidableEq, Repr

/-- A watch entry of a home slice (R217). -/
structure Watch where
  slice : Nat
  vf : Nat
  word : Nat
  who : Watcher
  /-- the wake has been sent and has not arrived -/
  fired : Bool := false
  /-- the order in which the wake was sent, and whether it is marked lost -/
  sent : Nat := 0
  lost : Bool := false
  deriving DecidableEq, Repr

/-- A range-table entry (R295): its four words. -/
structure RangeEntry where
  w0 : Word := 0
  w1 : Word := 0
  w2 : Word := 0
  w3 : Word := 0
  deriving DecidableEq, Repr

/-- The states of a host queue (R303). -/
inductive QueueState where
  | running | waiting | parked | lapped | stopped
  deriving DecidableEq, Repr

/-- A host queue (R302, R303, R342): ring register, write index, consumed index and completed-through inputs of each die. -/
structure HostQueue where
  ring : Word := 6
  kick : BitVec 32 := 0
  widx : BitVec 32 := 0
  consumed : SMap (BitVec 32) := []
  /-- Running, Lapped or Stopped: what all dies share -/
  state : QueueState := .stopped
  /-- per die: Waiting or Parked at a WAIT, else Running (R317, R318) -/
  dies : SMap QueueState := []
  cause : BitVec 10 := 0
  /-- per die: the address whose page pull the die waits for, plus one (R296, R318) -/
  waits : SMap Nat := []
  /-- the record that stopped the queue: dies behind it may go on up to it (R306, R320) -/
  stopAt : Option Nat := none
  /-- records, by index plus 2^32 times the index resets before it, that still have a start not made or a shuttle not exited, with the
  die (R319) -/
  open_ : List (Nat × Nat) := []
  /-- index resets made so far (the model's own: it tells the records before a reset from those after it) -/
  resets : Nat := 0
  deriving DecidableEq, Repr

/-- An external event of a VF (R85): the cause, and the queue number for class 0xE. -/
structure ExtEvent where
  cause : BitVec 10
  queue : Nat := 0
  deriving DecidableEq, Repr

/-- The TDISP states (R344). -/
inductive TdiState where
  | unlocked | locked | run | error
  deriving DecidableEq, Repr

/-- A collective group (R402): (fabric address, VF) of each rank, and the VF's own rank. -/
structure CollGroup where
  ranks : List (Nat × Nat) := []
  own : Nat := 0
  deriving DecidableEq, Repr

/-- An entry of the collective queue (R403 to R406). -/
structure CollEntry where
  held : Bool := false
  posts : Nat := 0
  desc : List Word := []
  sys : Bool := false
  mode : Mode := .u
  core : Nat := 0
  order : Nat := 0
  opnum : Nat := 0
  joint : Option Nat := none
  state : Nat := 0
  peer : Nat := 0
  cause : Option (BitVec 10 × Word) := none
  /-- the address whose page pull the engine waits for (R296) -/
  waits : Option Nat := none
  deriving DecidableEq, Repr

/-- A hint region (R337), with the pages of it that the VF maps and has mapped since the hint: first page and number of pages each. -/
structure HintRegion where
  base : Nat
  len : Nat
  hot : Bool
  spans : List (Nat × Nat) := []
  deriving DecidableEq, Repr

/-- A first-touch record that is still to be put in its place among those of its cycle: the die, `time`, and the doublewords at offsets
0x10 and 0x18 (R356). -/
structure LogNote where
  die : Nat
  time : Word
  page : Word
  what : Word
  deriving DecidableEq, Repr

/-- A watched range of the access log (R355): base, limit, and the counts of the window so far on each die, keyed
8 * die + (0 loads, 1 stores, 2 atomics, 3 fetches, 4 host), with the pages already touched on each die. -/
structure LogRange where
  base : Nat := 0
  limit : Nat := 0
  counts : SMap Nat := []
  touched : List (Nat × Nat) := []
  deriving DecidableEq, Repr

/-- A VF's context while it is not running (R326): slots by shid, cores, sections, start entries and queued frames. -/
structure SavedCtx where
  slots : SMap Slot := []
  cores : SMap CoreCtx := []
  sections : SMap SectionCtx := []
  starts : List Start := []
  queued : List Frame := []
  bsram : SMap (BitVec 512) := []
  bscale : SMap (BitVec 32) := []
  bpoison : SMap Bool := []
  deriving DecidableEq, Repr

/-- A virtual function (R322): what the package keeps for it. -/
structure Vf where
  bound : Option Nat := none
  index : Nat := 0
  regs : VfRegs := {}
  feature : BitVec 32 := 0
  featureNext : Option (BitVec 32) := none
  ranges : SMap RangeEntry := []
  protRoot : Nat := 0
  tier0 : Word := 0
  tier0Next : Option Word := none
  tier1 : Word := 0
  /-- the recorded working set, in order (R333) -/
  recorded : List Nat := []
  /-- OVF of the tier-control block (R334) -/
  ovf : Bool := false
  /-- the working-set list of each die's slice for the current run (R332) -/
  wsl : SMap (List Nat) := []
  hints : List HintRegion := []
  /-- the order of the last pull of a page (R335) -/
  pullOrder : SMap Nat := []
  intCore : Nat := 0
  intCoreNext : Option Nat := none
  ext : List ExtEvent := []
  /-- the timer deadline, none when disarmed (R347) -/
  deadline : Option Word := none
  hostFault : BitVec 10 := 0
  tdi : TdiState := .unlocked
  queues : SMap HostQueue := []
  wbase : Word := 0
  msix : SMap Word := []
  msixPending : BitVec 17 := 0
  groups : SMap CollGroup := []
  coll : SMap CollEntry := []
  collAtb : List AtbEntry := []
  /-- operations posted so far on each group (R403) -/
  collPosts : SMap Nat := []
  /-- operations that have ended at another rank before this VF has posted them: group, number, STATE and PEER (R404, R406) -/
  collEnds : List (Nat × Nat × Nat × Nat) := []
  /-- DVAs at which host accesses through BAR 2 wait for a page pull (R296, R343) -/
  hostWaits : List Nat := []
  logRanges : SMap LogRange := []
  logWindow : Nat := 0
  /-- the cycle at which the current log window began (R355) -/
  logStart : Nat := 0
  logSeq : Nat := 0
  logRing : List (List Word) := []
  logDropped : Nat := 0
  logChain : List Word := []
  /-- the first-touch records of a cycle, by ascending die, and the cycle (R356) -/
  logPend : List LogNote := []
  logCycle : Word := 0
  saved : SavedCtx := {}
  hasRun : Bool := false
  lastRunEnd : Nat := 0
  keyGen : Nat := 0
  resetEpoch : Nat := 0
  /-- pages whose contents are still on the package that the VF has come from (R410) -/
  remote : List Nat := []
  /-- the end of the grace time of a reset that has been announced, in cycles (R393) -/
  resetAt : Option Nat := none
  /-- restored shuttles wait for the resume gate (R331) -/
  gated : Bool := false
  deriving DecidableEq, Repr

/-- A change staged for a partition's next world switch (R349). -/
inductive Staged where
  | bind (vf : Nat)
  | unbind (vf : Nat)
  | homeMask (index : Nat) (mask : BitVec 32)
  | addSection (sec : Nat)
  | removeSection (sec : Nat)
  | fenceCore (core : Nat)
  | fenceSection (sec : Nat)
  /-- pages leave the HBM stacks of a die that is fenced (R390) -/
  | clearStacks (die : Nat)
  deriving DecidableEq, Repr

/-- A partition (R321, R324). -/
structure Partition where
  sections : BitVec 32 := 0
  gen : BitVec 16 := 0
  vfs : List Nat := []
  running : Option Nat := none
  /-- the cycle at which the running slice began (R324) -/
  sliceStart : Nat := 0
  /-- the notice of the running slice has been raised (R325) -/
  noticed : Bool := false
  /-- several VFs were bound at the last switch: a VF is granted half of the B-SRAM rows (R177) -/
  shared : Bool := false
  /-- the earliest cycle at which an announced fence or evacuation may be applied (R390, R410) -/
  notBefore : Nat := 0
  schedule : List Word := []
  scheduleNext : Option (List Word) := none
  stagedEntries : SMap Word := []
  pos : Nat := 0
  masks : SMap (BitVec 32) := []
  staged : List Staged := []
  importFrom : Option Nat := none
  /-- per generation: the sections, and the cores that are fenced or of the firmware column (R309) -/
  hist : SMap (BitVec 32 × List Nat) := []
  /-- an evacuation in progress: target address, target partition, mode (R410) -/
  evac : Option (Nat × Nat × Nat) := none
  /-- VFs that have gone to another package, with their pages that are still here to be pulled (R410) -/
  leaving : List (Nat × List Nat) := []
  deriving DecidableEq, Repr

/-- A task owned by a die whose start has not been made (R314, R316). -/
structure Await where
  id : Nat
  die : Nat
  vf : Nat
  counter : Word
  start : Start
  queue : Nat
  index : Nat
  rt : Nat
  /-- its counter holds no value above 0, or it has none: its start is due (R314, R316) -/
  due : Bool := false
  /-- the address whose page pull its counter's read waits for -/
  waits : Option Nat := none
  deriving DecidableEq, Repr

/-- What a start or a queue asks firmware for (R347): the caller (a slot, or the PF mailbox), the service number and a1 to a5. -/
structure Request where
  slot : Option Nat
  vf : Nat
  number : Word
  args : List Word
  deriving DecidableEq, Repr

/-- A service that has returned status 3 and goes on (R348), with its final reply once it has ended. -/
structure LongService where
  req : Request
  reply : Option (List Word) := none
  deriving DecidableEq, Repr

/-- A pull of a page in progress (R296): the VF, the page, and whether a shuttle or engine waits on it. -/
structure Pull where
  vf : Nat
  page : Nat
  demand : Bool
  /-- the die whose tier-engine slice was asked -/
  die : Nat := 0
  deriving DecidableEq, Repr

/-- A fabric window of the fabric map (R397, R398): populated extent in bytes, primary port, and an alternate port. -/
structure Window where
  extent : Nat := 0
  primary : Nat := 0
  alternate : Option Nat := none
  deriving DecidableEq, Repr

/-- A die (R292, R319, R355): its translation root register and its error log of corrected errors (R386). DESIGN CHOICE, safe: log entry 67. -/
structure Die where
  trr : Word := 0
  errors : Nat := 0
  /-- structure rows, by core (4096 for HBM) and row, with the cycles of their correctable errors in the last 24 h, and those marked for
  repair (R387) -/
  rows : List ((Nat × Nat) × List Nat) := []
  repair : List (Nat × Nat) := []
  fenced : Bool := false
  /-- the queue after the one served last by the die's scheduler: 16 * VF + queue (R304) -/
  next : Nat := 0
  deriving DecidableEq, Repr

/-- What a REGISTER_WRITE step names: a CSR of the shuttle (R16) or a register of BAR 0 (R341). -/
inductive RegSel where
  | csr (a : BitVec 12)
  | vfBar0 (vf off : Nat)
  | pfBar0 (off : Nat)
  | selvedge (section_ : Nat)
  | trr (die : Nat)
  deriving DecidableEq, Repr

/-- What firmware fences by plan (R390). -/
inductive FenceTarget where
  | core (n : Nat)
  | section_ (n : Nat)
  | die (n : Nat)
  deriving DecidableEq, Repr

/-- One peer's part of a collective, as the fabric brings it (R403, R404, R408): its rank, the OP and TAG it posted, and the
elements (or the ATOM operand and compare value) that it supplies. -/
structure PeerPost where
  rank : Nat
  op : Nat
  tag : Word
  data : List Word
  deriving DecidableEq, Repr

/-- What arrives of one VF at the target package of an evacuation (R410 steps 4 to 6). DESIGN CHOICE, safe: log entry 50. -/
structure ImportVf where
  vf : Nat
  index : Nat
  regs : VfRegs
  tier0 : Word
  tier1 : Word
  queues : SMap HostQueue
  saved : SavedCtx
  recorded : List Nat := []
  /-- pages that stay on the source to be pulled (R410, mode 1) -/
  rest : List Nat := []
  deriving DecidableEq, Repr

/-- WHAT A STEP OF ANOTHER AGENT ACTS ON: the model's own input register, read by the steps of the opcode table that no
instruction word names. Which field a step reads is said at its meaning. -/
structure Subject where
  core : Nat := 0
  slot : Nat := 0
  section_ : Nat := 0
  chan : Nat := 0
  vf : Nat := 0
  queue : Nat := 0
  die : Nat := 0
  part : Nat := 0
  item : Nat := 0
  addr : Nat := 0
  size : Nat := 0
  value : Word := 0
  flag : Bool := false
  rd : XReg := 0
  reg : RegSel := .pfBar0 0
  access : Access := .load
  fence : FenceTarget := .core 0
  cause : BitVec 10 := 0
  peers : List PeerPost := []
  images : List ImportVf := []
  bytes : List (BitVec 8) := []
  deriving DecidableEq, Repr

/-- The choices that a vector memory instruction leaves open (the model's own input): the elements that an instruction with O = 0 performs
first, in this order (R141, R153, R157), and the elements that a load with V = 1 takes from later stores of its own shuttle that are still
held (R78), and how many elements are performed in one step, the others following in later steps of the unit (R153). Nothing chosen:
ascending order, no held store is seen, and every element in one step. -/
structure ElemChoice where
  early : List Nat := []
  ahead : List Nat := []
  batch : Option Nat := none
  deriving DecidableEq, Repr

/-- One move of the interleaving of the package's agents (the model's own input): the shuttle in a slot issues; a step of the
opcode table that has no word happens, acting on a subject; time passes; the policy or the choices of elements change; a load is taken
ahead of its turn. -/
inductive Move where
  | issue (shid : Nat)
  | event (i : Instr) (subj : Subject)
  | tick (n : Nat)
  | policy (eager : Bool)
  | elements (c : ElemChoice)
  /-- the shuttle's next load of the word at an address, or of the aligned doubleword there, takes its value now (R228) -/
  | early (shid addr : Nat) (double : Bool)
  /-- an element of the vector load that has started behind an incomplete one takes its value now (R145, R228) -/
  | earlyElt (shid elem : Nat)
  /-- a store of another package to fabric-attached memory arrives at its device (R223, R399) -/
  | peerStore (addr : Nat) (data : Word) (mask : BitVec 8)
  deriving DecidableEq, Repr

/-- The PF mailbox (R347): request doublewords, reply doublewords, and the done bit. -/
structure Mailbox where
  req : SMap Word := []
  reply : SMap Word := []
  busy : Bool := false
  done : Bool := false
  deriving DecidableEq, Repr

/-- The whole package. The last seven fields are the model's own and no part of the hardware. -/
structure State where
  /-- the bytes of machine memory that are not zero (R300) -/
  mem : Memory := []
  /-- poisoned 8-byte units of machine memory, keyed by address / 8 (R219) -/
  poison : SMap Bool := []
  /-- the key under which a 64 KiB frame was last written, and the pad through which its bytes now read (R351) -/
  fkey : SMap Nat := []
  pads : SMap Nat := []
  /-- the home state of every word that is not Unregistered, keyed by 2^56 * VF + DVA / 4 (R210) -/
  home : SMap HomeState := []
  /-- the L2 lines present in the slices, the most recently allocated or registered first (R206, R211) -/
  l2 : List L2Line := []
  watches : List Watch := []
  slots : SMap Slot := []
  cores : SMap Core := []
  sections : SMap SectionCtx := []
  vfs : SMap Vf := []
  parts : SMap Partition := []
  dies : SMap Die := []
  /-- the selvedge register of each section (R221) -/
  selvedge : SMap (BitVec 32) := []
  /-- frames in transit, and frames in a streamer's queue in FIFO order (R30, R93) -/
  frames : List Frame := []
  queued : List Frame := []
  /-- starts being offered, and the start entries of the heddles (R70, R311) -/
  offers : List Start := []
  starts : List Start := []
  /-- starts that no start entry could take, held by a die (R311) -/
  heldStarts : List Start := []
  pushes : List Push := []
  records : List TrapRecord := []
  awaits : List Await := []
  pulls : List Pull := []
  /-- pages of the shared key whose far-tier frame is kept as a clean copy: (VF, page, far-tier IPA) (R392) -/
  clean : List (Nat × Nat × Nat) := []
  /-- requests waiting at the primary firmware core, in arrival order, and long services (R347, R348) -/
  requests : List Request := []
  longs : List LongService := []
  mailbox : Mailbox := {}
  epoch : Nat := 0
  receiptSerial : Nat := 0
  /-- the release epoch of a 64 KiB frame, keyed by machine address / 65536 (R352) -/
  releaseEpochs : SMap Nat := []
  /-- the VF that last mapped a 64 KiB frame, plus one (R353) -/
  frameVfs : SMap Nat := []
  windows : SMap Window := []
  cxlDown : List Nat := []
  ueDown : List Nat := []
  meshDown : List (Nat × Nat) := []
  /-- the firmware column: (core, role), primary first (R345, R346) -/
  column : List (Nat × Nat) := []
  heartbeats : Nat := 0
  /-- the eight entries of the erratum-emulation register (R369) -/
  errata : SMap Word := []
  fusedSerial : Word := 0
  identityTrusted : Bool := false
  /-- why the Ilyono table was refused, 0 where it was accepted (R346) -/
  ilyonoReason : Nat := 0
  securityDown : List Nat := []
  ready : Bool := false
  fatal : Bool := false
  /-- the PF error vector has been raised (R394) -/
  pfVector : Bool := false
  /-- the bytes of the fatal-error dump, before their encryption (R394) -/
  dump : Option (List (BitVec 8)) := none
  /-- the PF access-log window: the VF selected, or none, when it shows the dump words read last (R356, R394) -/
  logSelect : Option Nat := none
  logWindow : List Word := []
  /-- steps by which the arithmetic clock is lowered (R396) -/
  throttle : Nat := 0
  /-- protection leaves that firmware has placed in its area so far (R288) -/
  fwLeaves : Nat := 0
  /-- spare physical cores left in each cluster (R389) -/
  spares : SMap Nat := []
  /-- SPDM replies pending on the DOE mailbox (R350) -/
  doe : List (BitVec 8) := []
  cycle : Word := 0
  /-- cycles of the arithmetic clock as it has actually run, which counts of cycles hold in (R396) -/
  arith : Word := 0
  /-- a counter that numbers commands, frames and posts in their order -/
  order : Nat := 0
  /-- the interleaving to come (model's own) -/
  agenda : List Move := []
  /-- the slot whose shuttle an instruction acts for (model's own) -/
  focus : Nat := 0
  /-- what a step without a word acts on (model's own) -/
  subject : Subject := {}
  /-- engines act as soon as they can (model's own). DESIGN CHOICE, unsafe: log entry 3. -/
  eager : Bool := true
  /-- the open choices of vector memory instructions (model's own) -/
  elems : ElemChoice := {}
  /-- the engines have the next turn where no interleaving is given (model's own) -/
  engines : Bool := false
  /-- how many free values have been used (model's own) -/
  fresh : Nat := 0
  deriving DecidableEq, Repr

/-- The package at power good, before bring-up (R395): no partition, no shuttle, every register at the reset value of its field
map or at the value the assumption log names, memory with nothing listed; bring-up is the first thing to happen.
DESIGN CHOICE, unsafe: log entry 6. -/
def State.reset : State := { agenda := [.event .bringUp {}] }

/-- Why the machine stops. -/
inductive Fault where
  /-- The part is out of service after a fatal error and nothing is left to happen until a reset (R394). Raised by `step`.
  Safe: the spec gives the part no further step of its own. -/
  | outOfService
  deriving DecidableEq, Repr

/-- Why an instruction has no meaning here. -/
inductive Refusal where
  /-- The instruction has no meaning in this model yet. Raised by an arm of `exec`. Safe: the model stops. -/
  | notModelled (mnemonic : String)
  deriving DecidableEq, Repr

end Sys2Proof.Machine
end

