-- ==== Sys2Proof/Machine/Fields.lean ====
section
/-! DEFINITION. Accessors of the state, the topology of the package (R92, R122, R203), and the plain byte, bit and
sign-extension helpers. Everything the rest of the machine reads or writes goes through these. -/

namespace Sys2Proof.Machine

/-- The answer of exec and step. -/
abbrev Out := Host.Outcome State Fault Refusal

/-- Sign extension to 64 bits. -/
def sx {w : Nat} (v : BitVec w) : Word := v.signExtend 64
/-- Zero extension to 64 bits. -/
def zx {w : Nat} (v : BitVec w) : Word := v.zeroExtend 64
/-- A Bool as a 64-bit 0 or 1. -/
def bw (b : Bool) : Word := if b then 1 else 0
/-- Bits [hi:lo] of a word as a number (R5). -/
def bitsOf (v : Word) (hi lo : Nat) : Nat := v.toNat / 2 ^ lo % 2 ^ (hi + 1 - lo)
/-- Bit i of a word. -/
def bitOf (v : Word) (i : Nat) : Bool := v.getLsbD i
/-- The number below 2^k of a value. -/
def lowBits (v k : Nat) : Nat := v % 2 ^ k

/-- The cause class.agent.detail (R10). -/
def cause (cls agent det : Nat) : BitVec 10 := BitVec.ofNat 10 (cls * 64 + agent * 8 + det)

/-- The die, global cluster and core-in-cluster of a core number (R26). -/
def dieOf (c : Nat) : Nat := c / 512
/-- Global cluster number (R26). -/
def clusterOf (c : Nat) : Nat := c / 256
/-- Core-in-cluster. -/
def inCluster (c : Nat) : Nat := c % 256
/-- A core number names a core (R26, R122). -/
def coreExists (c : Nat) : Bool := decide (c < 4096) && decide (c % 256 < 192)
/-- The class of a core by its position (R122). -/
def classOf (c : Nat) : CoreClass := if c % 256 < 4 then .control else if c % 256 < 64 then .vector else .matrix
/-- The code of a class (R26, R70). -/
def CoreClass.code : CoreClass → Nat
  | .control => 0 | .vector => 1 | .matrix => 2
/-- The section within its cluster (R203). -/
def sectionIn (c : Nat) : Nat :=
  let k := c % 256
  if k < 4 then (if k < 2 then 0 else 1)
  else if k < 64 then (if k < 34 then 0 else 1)
  else (if k < 128 then 0 else 1)
/-- The global section of a core (R203). -/
def sectionOf (c : Nat) : Nat := 2 * clusterOf c + sectionIn c
/-- Slots of a core (R122). -/
def slotCount (c : Nat) : Nat := match classOf c with | .control => 4 | .vector => 16 | .matrix => 2
/-- Distance of two numbers. -/
def absDiff (a b : Nat) : Nat := (a - b) + (b - a)
/-- Mesh hops between two cores (R92). -/
def hops (a b : Nat) : Nat :=
  absDiff (a % 256 % 16) (b % 256 % 16) + absDiff (a % 256 / 16) (b % 256 / 16)
/-- Die bridges between two cores (R92). -/
def bridges (a b : Nat) : Nat :=
  absDiff (dieOf a % 4) (dieOf b % 4) + absDiff (dieOf a / 4) (dieOf b / 4)
/-- The key (B, K, H, n) of a candidate as one number (R92): each part is below the weight of the part before it. -/
def coreKey (src c : Nat) : Nat :=
  ((bridges src c * 2 + (if clusterOf src = clusterOf c then 0 else 1)) * 64 + hops src c) * 4096 + c
/-- The cores of a global section, ascending (R203). -/
def sectionCores (sec : Nat) : List Nat :=
  let base := sec / 2 * 256
  if sec % 2 = 0 then
    ([0, 1] ++ (List.range 30).map (· + 4) ++ (List.range 64).map (· + 64)).map (base + ·)
  else ([2, 3] ++ (List.range 30).map (· + 34) ++ (List.range 64).map (· + 128)).map (base + ·)

/-- The slot numbered by a shid. -/
def State.slot (s : State) (k : Nat) : Slot := SMap.get {} s.slots k
/-- Write a slot. -/
def State.setSlot (s : State) (k : Nat) (v : Slot) : State := { s with slots := SMap.put {} s.slots k v }
/-- Change a slot. -/
def State.updSlot (s : State) (k : Nat) (f : Slot → Slot) : State := s.setSlot k (f (s.slot k))
/-- The slot in focus. -/
def State.me (s : State) : Slot := s.slot s.focus
/-- Change the slot in focus. -/
def State.updMe (s : State) (f : Slot → Slot) : State := s.updSlot s.focus f
/-- The shuttle in focus. -/
def State.sh (s : State) : Shuttle := s.me.sh
/-- Change the shuttle in focus. -/
def State.updSh (s : State) (f : Shuttle → Shuttle) : State := s.updMe fun m => { m with sh := f m.sh }
/-- The core of the focus. -/
def State.myCore (s : State) : Nat := s.focus / 16
/-- A core. -/
def State.core (s : State) (c : Nat) : Core := SMap.get {} s.cores c
/-- Write a core. -/
def State.setCore (s : State) (c : Nat) (v : Core) : State := { s with cores := SMap.put {} s.cores c v }
/-- Change a core. -/
def State.updCore (s : State) (c : Nat) (f : Core → Core) : State := s.setCore c (f (s.core c))
/-- Change the context part of a core. -/
def State.updCtx (s : State) (c : Nat) (f : CoreCtx → CoreCtx) : State :=
  s.updCore c fun k => { k with ctx := f k.ctx }
/-- The cluster state of a section. -/
def State.sec (s : State) (n : Nat) : SectionCtx := SMap.get {} s.sections n
/-- Change the cluster state of a section. -/
def State.updSec (s : State) (n : Nat) (f : SectionCtx → SectionCtx) : State :=
  { s with sections := SMap.put {} s.sections n (f (s.sec n)) }
/-- A virtual function. -/
def State.vf (s : State) (n : Nat) : Vf := SMap.get {} s.vfs n
/-- Change a virtual function. -/
def State.updVf (s : State) (n : Nat) (f : Vf → Vf) : State := { s with vfs := SMap.put {} s.vfs n (f (s.vf n)) }
/-- A partition. -/
def State.part (s : State) (n : Nat) : Partition := SMap.get {} s.parts n
/-- Change a partition. -/
def State.updPart (s : State) (n : Nat) (f : Partition → Partition) : State :=
  { s with parts := SMap.put {} s.parts n (f (s.part n)) }
/-- A die. -/
def State.die (s : State) (n : Nat) : Die := SMap.get {} s.dies n
/-- Change a die. -/
def State.updDie (s : State) (n : Nat) (f : Die → Die) : State := { s with dies := SMap.put {} s.dies n (f (s.die n)) }
/-- A host queue of a VF. -/
def Vf.queue (v : Vf) (q : Nat) : HostQueue := SMap.get {} v.queues q
/-- Change a host queue. -/
def Vf.updQueue (v : Vf) (q : Nat) (f : HostQueue → HostQueue) : Vf :=
  { v with queues := SMap.put {} v.queues q (f (v.queue q)) }
/-- A barrier of a section. -/
def SectionCtx.barrier (c : SectionCtx) (b : Nat) : Barrier := SMap.get {} c.barriers b
/-- A ring channel of a section. -/
def SectionCtx.ringCh (c : SectionCtx) (n : Nat) : RingChannel := SMap.get {} c.ring n
/-- A copy channel of a section. -/
def SectionCtx.chan (c : SectionCtx) (n : Nat) : Channel := SMap.get {} c.chans n
/-- A configuration slot of a matrix core. -/
def CoreCtx.slotCfg (c : CoreCtx) (t : Nat) : CfgSlot := SMap.get {} c.cfg t

/-- An integer register of a shuttle: x0 reads zero (R14). -/
def Shuttle.getX (sh : Shuttle) (r : XReg) : Word := if r = 0 then 0 else SMap.get 0 sh.x r.val
/-- Write an integer register: a write to x0 is discarded (R14), and a failed check ends with the write (R140). -/
def Shuttle.setX (sh : Shuttle) (r : XReg) (v : Word) : Shuttle :=
  if r = 0 then sh
  else { sh with x := SMap.put 0 sh.x r.val v, xbad := if sh.xbad = 0 then 0 else sh.xbad &&& ~~~((1 : BitVec 16) <<< r.val) }
/-- An integer register of the shuttle in focus. -/
def State.x (s : State) (r : XReg) : Word := s.sh.getX r
/-- Write an integer register of the shuttle in focus. -/
def State.setX (s : State) (r : XReg) (v : Word) : State := s.updSh fun sh => sh.setX r v

/-- The vector loads, vector stores and vector atomics, which the counters LD and ST count (R23): (counts in LD, counts in ST). -/
def memCounters : Instr → Bool × Bool
  | .vld .. | .vlds .. | .vldx .. | .vld2 .. => (true, false)
  | .vst .. | .vsts .. | .vstx .. | .vst2 .. => (false, true)
  | .vamoAddClu .. | .vamoAndClu .. | .vamoOrClu .. | .vamoXorClu .. | .vamoMinClu .. | .vamoMaxClu .. | .vamoSwapClu ..
  | .vamoAddPkg .. | .vamoAndPkg .. | .vamoOrPkg .. | .vamoXorPkg .. | .vamoMinPkg .. | .vamoMaxPkg .. | .vamoSwapPkg .. =>
    (true, true)
  | _ => (false, false)
/-- The vector instructions of a thread that are not complete, oldest first. -/
def Slot.vpending (m : Slot) : List VEntry := m.vrun.toList ++ m.vq
/-- The counter LD (R23): the vector loads and atomics from entry into the queue to completion. -/
def Slot.ld (m : Slot) : Nat := (m.vpending.filter fun e => (memCounters e.instr).1).length
/-- The counter ST of the shuttle in slot k (R23, R74): its vector stores and atomics in the queue, and those complete there of which a
store has still to be performed. -/
def State.stOf (s : State) (k : Nat) : Nat :=
  let vs := ((s.slot k).vpending.filter fun e => (memCounters e.instr).2).map (·.seq)
  let bs := ((s.core (k / 16)).sbuf.filter fun e => e.shid == k && e.vseq != 0).map (·.vseq)
  (vs ++ bs).eraseDups.length

/-- The section belongs to the partition (R203, R321). -/
def Partition.hasSection (p : Partition) (sec : Nat) : Bool := p.sections.getLsbD sec
/-- The partition that holds a section, 32 for none. -/
def State.partOfSection (s : State) (sec : Nat) : Nat :=
  match s.parts.find? (fun e => e.2.hasSection sec) with
  | some e => e.1
  | none => 32
/-- The partition of a core. -/
def State.partOfCore (s : State) (c : Nat) : Nat := s.partOfSection (sectionOf c)
/-- The core lies in the partition. -/
def State.inPart (s : State) (p c : Nat) : Bool := coreExists c && (s.part p).hasSection (sectionOf c)
/-- The core is fenced, or lost and treated as fenced (R389). -/
def State.isFenced (s : State) (c : Nat) : Bool := (s.core c).fenced || (s.core c).lost
/-- The core belongs to the firmware column (R345). -/
def State.inColumn (s : State) (c : Nat) : Bool := s.column.any fun e => e.1 == c
/-- The primary core of the firmware column. -/
def State.primary (s : State) : Nat :=
  match s.column.find? (fun e => e.2 == 0) with
  | some e => e.1
  | none => 0
/-- The cores of a partition, ascending. -/
def State.partCores (s : State) (p : Nat) : List Nat :=
  ((List.range 16).flatMap fun cl =>
    (List.range 192).filterMap fun k =>
      if (s.part p).hasSection (sectionOf (cl * 256 + k)) then some (cl * 256 + k) else none)
/-- The sections of a partition, ascending. -/
def State.partSections (s : State) (p : Nat) : List Nat := (List.range 32).filter (s.part p).hasSection
/-- The partition of a VF, 32 for none. -/
def State.partOfVf (s : State) (v : Nat) : Nat := (s.vf v).bound.getD 32
/-- The VF runs: its context is live on its partition. -/
def State.running (s : State) (v : Nat) : Bool := (s.part (s.partOfVf v)).running == some v
/-- The dies that hold a section of the partition, ascending (R302). -/
def State.partDies (s : State) (p : Nat) : List Nat :=
  (List.range 8).filter fun d => (List.range 4).any fun k => (s.part p).hasSection (4 * d + k)
/-- The lead die of a partition (R319). -/
def State.leadDie (s : State) (p : Nat) : Nat := (s.partDies p).headD 0
/-- The registers of the VF as a core sees them (R81). -/
def State.vfRegs (s : State) (v c : Nat) : VfRegs := (s.core c).stale.getD (s.vf v).regs
/-- A free slot of a core, the lowest numbered, that is not reserved. -/
def State.freeSlot (s : State) (c : Nat) : Option Nat :=
  (List.range (slotCount c)).find? fun k => (s.slot (c * 16 + k)).life == .free
/-- Insert by key, smallest first. -/
def insertBy (key : Nat → Nat) (a : Nat) : List Nat → List Nat
  | [] => [a]
  | b :: l => if key a ≤ key b then a :: b :: l else b :: insertBy key a l
/-- The element with the smallest key. -/
def minBy (key : Nat → Nat) : List Nat → Option Nat
  | [] => none
  | a :: l => match minBy key l with
    | none => some a
    | some b => if key a ≤ key b then some a else some b
/-- `time`: a 100 MHz count of the 850 MHz cycle count, agreeing across dies to within one count (R68). -/
def State.timeOn (s : State) (die : Nat) : Word :=
  BitVec.ofNat 64 (s.cycle.toNat * 2 / 17 + (if Config.timeAhead die s.cycle.toNat then 1 else 0))
/-- The cycle that a core's own counts are in (R396): of the arithmetic clock as it runs; a control core's clock is never lowered. -/
def State.coreCycle (s : State) (c : Nat) : Word := if classOf c = .control then s.cycle else s.arith
/-- A fresh number for a command, frame or post. -/
def State.bump (s : State) : State := { s with order := s.order + 1 }

/-- Is bit 0 of a mode code S or M. -/
def Mode.code : Mode → Nat
  | .u => 0 | .s => 1 | .m => 3

/-- The word of 8 bytes, little-endian (R7). -/
def wordOf8 (f : Nat → Byte) : Word :=
  f 7 ++ (f 6 ++ (f 5 ++ (f 4 ++ (f 3 ++ (f 2 ++ (f 1 ++ f 0))))))
/-- Byte i of a 64-bit value. -/
def byteAt (v : Word) (i : Nat) : Byte := v.extractLsb' (8 * i) 8
/-- Expand a byte mask to a bit mask. -/
def maskBits (m : BitVec 8) : Word := wordOf8 fun i => if m.getLsbD i then 0xFF else 0
/-- The bytes of `new` where the mask is set, else those of `old`. -/
def mergeBytes (old new : Word) (m : BitVec 8) : Word :=
  (old &&& ~~~(maskBits m)) ||| (new &&& maskBits m)
/-- The byte mask of n bytes from offset o within an 8-byte block. -/
def byteMask (o n : Nat) : BitVec 8 := BitVec.ofNat 8 ((2 ^ n - 1) * 2 ^ o)

end Sys2Proof.Machine
end

