-- ==== Sys2Proof/Machine/Formats.lean ====
section
/-! DEFINITION. Number formats and exact arithmetic (R101 to R121): values are exact dyadic numbers, rounded once where a rule says
so. -/

namespace Sys2Proof.Machine

/-- IEEE flags NV, DZ, OF, UF, NX as `fflags` holds them, bits 4 to 0. -/
abbrev FFlags := BitVec 5
/-- Invalid operation. -/
def flagNV : FFlags := 16
/-- Division by zero. -/
def flagDZ : FFlags := 8
/-- Overflow. -/
def flagOF : FFlags := 4
/-- Underflow. -/
def flagUF : FFlags := 2
/-- Inexact. -/
def flagNX : FFlags := 1
/-- A flag if a condition holds. -/
def flagIf (b : Bool) (f : FFlags) : FFlags := if b then f else 0

/-- The rounding modes of R105. -/
inductive Rm where
  | rne | rtz | rdn | rup | rmm
  deriving DecidableEq, Repr
/-- The mode of an `frm` or rm code (R105). -/
def rmOf : Nat → Option Rm
  | 0 => some .rne | 1 => some .rtz | 2 => some .rdn | 3 => some .rup | 4 => some .rmm | _ => none

/-- A decoded value: a NaN (signalling or not), an infinity, or (-1)^neg * m * 2^e, where m = 0 is a signed zero. -/
inductive Fp where
  | nan (signalling : Bool)
  | inf (neg : Bool)
  | fin (neg : Bool) (m : Nat) (e : Int)
  deriving DecidableEq, Repr

/-- A binary format: exponent width and fraction width (R103). -/
structure Fmt where
  eb : Nat
  fb : Nat
  deriving DecidableEq, Repr
/-- FP32 (R103). -/
def fp32 : Fmt := { eb := 8, fb := 23 }
/-- FP16 (R103). -/
def fp16 : Fmt := { eb := 5, fb := 10 }
/-- BF16 (R103). -/
def bf16 : Fmt := { eb := 8, fb := 7 }
/-- Exponent bias. -/
def Fmt.bias (f : Fmt) : Nat := 2 ^ (f.eb - 1) - 1
/-- Width in bits. -/
def Fmt.width (f : Fmt) : Nat := 1 + f.eb + f.fb
/-- The exponent of the smallest subnormal. -/
def Fmt.qmin (f : Fmt) : Int := 1 - (f.bias : Int) - f.fb
/-- The bits of +infinity. -/
def Fmt.infBits (f : Fmt) : Nat := (2 ^ f.eb - 1) * 2 ^ f.fb
/-- The default NaN (R103, R104). -/
def Fmt.nanBits (f : Fmt) : Nat := f.infBits + 2 ^ (f.fb - 1)
/-- The sign bit at its place. -/
def Fmt.sign (f : Fmt) (neg : Bool) : Nat := if neg then 2 ^ (f.eb + f.fb) else 0

/-- Decode a bit string (R103). -/
def Fmt.decode (f : Fmt) (b : Nat) : Fp :=
  let neg := b / 2 ^ (f.eb + f.fb) % 2 == 1
  let ex := b / 2 ^ f.fb % 2 ^ f.eb
  let fr := b % 2 ^ f.fb
  if ex = 2 ^ f.eb - 1 then (if fr = 0 then .inf neg else .nan (fr / 2 ^ (f.fb - 1) == 0))
  else if ex = 0 then .fin neg fr f.qmin
  else .fin neg (2 ^ f.fb + fr) (f.qmin + (ex - 1 : Nat))

/-- Does a rounding go up, given the quotient's low bit, the remainder and its modulus. -/
def roundsUp (rm : Rm) (neg odd : Bool) (rem mod : Nat) : Bool :=
  match rm with
  | .rne => decide (mod < 2 * rem) || (decide (2 * rem = mod) && odd)
  | .rtz => false
  | .rdn => neg && decide (0 < rem)
  | .rup => !neg && decide (0 < rem)
  | .rmm => decide (mod ≤ 2 * rem) && decide (0 < rem)

/-- m * 2^e as a multiple of 2^q, rounded: the multiple, and whether it is inexact. -/
def roundAt (rm : Rm) (neg : Bool) (m : Nat) (e q : Int) : Nat × Bool :=
  if q ≤ e then (m * 2 ^ (e - q).toNat, false)
  else
    let mod := 2 ^ (q - e).toNat
    let hi := m / mod
    let rem := m % mod
    (if roundsUp rm neg (hi % 2 == 1) rem mod then hi + 1 else hi, decide (rem ≠ 0))

/-- The exponent of the leading bit of m * 2^e, m not zero. -/
def topExp (m : Nat) (e : Int) : Int := (Nat.log2 m : Int) + e

/-- rnd of R121: a value rounded to a format under a mode, with its flags (R103, R104, R117). -/
def Fmt.round (f : Fmt) (rm : Rm) : Fp → Nat × FFlags
  | .nan _ => (f.nanBits, 0)
  | .inf neg => (f.sign neg + f.infBits, 0)
  | .fin neg m e =>
    if m = 0 then (f.sign neg, 0)
    else
      let top := topExp m e
      let q := max (top - f.fb) f.qmin
      let (r, inexact) := roundAt rm neg m e q
      let bits := (q - f.qmin).toNat * 2 ^ f.fb + r
      if f.infBits ≤ bits then
        let toInf := match rm with
          | .rne | .rmm => true
          | .rtz => false
          | .rdn => neg
          | .rup => !neg
        (f.sign neg + (if toInf then f.infBits else f.infBits - 1), flagOF ||| flagNX)
      else
        let emin : Int := 1 - (f.bias : Int)
        let tiny := decide (top < emin) && decide ((roundAt rm neg m e (top - f.fb)).1 ≠ 2 ^ (f.fb + 1) ∨ top + 1 < emin)
        (f.sign neg + bits, flagIf inexact flagNX ||| flagIf (tiny && inexact) flagUF)

/-- NV if a value is a signalling NaN. -/
def Fp.snan : Fp → FFlags
  | .nan true => flagNV
  | _ => 0
/-- The value is a NaN. -/
def Fp.isNan : Fp → Bool
  | .nan _ => true
  | _ => false
/-- Negation. -/
def Fp.negate : Fp → Fp
  | .nan b => .nan b
  | .inf n => .inf !n
  | .fin n m e => .fin (!n) m e
/-- A signed integer at exponent e as a value; z is the sign of a zero. -/
def ofSigned (v : Int) (e : Int) (z : Bool) : Fp := .fin (if v = 0 then z else decide (v < 0)) v.natAbs e
/-- The signed multiple of 2^q that a finite value is, q not above its exponent. -/
def scaled (neg : Bool) (m : Nat) (e q : Int) : Int :=
  let a : Int := (m * 2 ^ (e - q).toNat : Nat)
  if neg then -a else a

/-- The exact sum (R117), with NV where IEEE 754 says the operation is invalid. -/
def Fp.add (rm : Rm) : Fp → Fp → Fp × FFlags
  | .nan a, b => (.nan false, Fp.snan (.nan a) ||| b.snan)
  | a, .nan b => (.nan false, a.snan ||| Fp.snan (.nan b))
  | .inf a, .inf b => if a = b then (.inf a, 0) else (.nan false, flagNV)
  | .inf a, .fin .. => (.inf a, 0)
  | .fin .., .inf b => (.inf b, 0)
  | .fin n1 m1 e1, .fin n2 m2 e2 =>
    let q := min e1 e2
    (ofSigned (scaled n1 m1 e1 q + scaled n2 m2 e2 q) q (if n1 = n2 then n1 else rm == .rdn), 0)
/-- The exact product. -/
def Fp.mul : Fp → Fp → Fp × FFlags
  | .nan a, b => (.nan false, Fp.snan (.nan a) ||| b.snan)
  | a, .nan b => (.nan false, a.snan ||| Fp.snan (.nan b))
  | .inf a, .inf b => (.inf (a != b), 0)
  | .inf a, .fin b m _ => if m = 0 then (.nan false, flagNV) else (.inf (a != b), 0)
  | .fin a m _, .inf b => if m = 0 then (.nan false, flagNV) else (.inf (a != b), 0)
  | .fin a m e, .fin b n k => (.fin (a != b) (m * n) (e + k), 0)
/-- a * b + c (R117): NV for an infinity times a zero even when c is a quiet NaN. -/
def Fp.fma (rm : Rm) (a b c : Fp) : Fp × FFlags :=
  let (p, f) := a.mul b
  let (r, g) := p.add rm c
  (r, f ||| g)
/-- The quotient, kept with its sticky bit below the precision of every format. -/
def Fp.div : Fp → Fp → Fp × FFlags
  | .nan a, b => (.nan false, Fp.snan (.nan a) ||| b.snan)
  | a, .nan b => (.nan false, a.snan ||| Fp.snan (.nan b))
  | .inf _, .inf _ => (.nan false, flagNV)
  | .inf a, .fin b _ _ => (.inf (a != b), 0)
  | .fin a _ _, .inf b => (.fin (a != b) 0 0, 0)
  | .fin a m e, .fin b n k =>
    if n = 0 then (if m = 0 then (.nan false, flagNV) else (.inf (a != b), flagDZ))
    else
      let num := m * 2 ^ 64
      (.fin (a != b) (2 * (num / n) + (if num % n = 0 then 0 else 1)) (e - k - 65), 0)
/-- The integer square root, bit by bit. -/
def sqrtBits (n : Nat) : Nat → Nat → Nat
  | 0, r => r
  | b + 1, r => if (r + 2 ^ b) * (r + 2 ^ b) ≤ n then sqrtBits n b (r + 2 ^ b) else sqrtBits n b r
/-- A finite positive value with an even exponent. -/
def evenExp (m : Nat) (e : Int) : Nat × Int := if e % 2 = 0 then (m, e) else (2 * m, e - 1)
/-- The square root, kept with its sticky bit below the precision of every format. -/
def Fp.sqrt : Fp → Fp × FFlags
  | .nan a => (.nan false, Fp.snan (.nan a))
  | .inf true => (.nan false, flagNV)
  | .inf false => (.inf false, 0)
  | .fin neg m e =>
    if m = 0 then (.fin neg 0 0, 0)
    else if neg then (.nan false, flagNV)
    else
      let (m1, e1) := evenExp m e
      let n := m1 * 2 ^ 64
      let r := sqrtBits n 48 0
      (.fin false (2 * r + (if r * r = n then 0 else 1)) (e1 / 2 - 33), 0)

/-- A finite value rounded to 8 significant bits, RNE (R162). -/
def round8 : Fp → Fp
  | .fin neg m e =>
    if m = 0 then .fin neg m e
    else
      let q := topExp m e - 7
      .fin neg (roundAt .rne neg m e q).1 q
  | v => v
/-- The exact reciprocal with its sticky bit, or the special result (R162). -/
def Fp.recip : Fp → Fp × FFlags
  | .nan a => (.nan false, Fp.snan (.nan a))
  | .inf neg => (.fin neg 0 0, 0)
  | .fin neg m e => if m = 0 then (.inf neg, flagDZ) else Fp.div (.fin false 1 0) (.fin neg m e)
/-- The reciprocal square root with its sticky bit, or the special result (R162). -/
def Fp.rsqrt : Fp → Fp × FFlags
  | .nan a => (.nan false, Fp.snan (.nan a))
  | .inf neg => if neg then (.nan false, flagNV) else (.fin false 0 0, 0)
  | .fin neg m e =>
    if m = 0 then (.inf neg, flagDZ)
    else if neg then (.nan false, flagNV)
    else
      let (m1, e1) := evenExp m e
      let r := sqrtBits (2 ^ 120 / m1) 61 0
      (.fin false (2 * r + (if r * r * m1 = 2 ^ 120 then 0 else 1)) (-(e1 / 2) - 61), 0)
/-- An estimate of R162 in a format: rounded to 8 bits, then to the format with RNE; it never raises NX. -/
def Fmt.estimate (f : Fmt) (v : Fp × FFlags) : Nat × FFlags :=
  let (b, g) := f.round .rne (round8 v.1)
  (b, (v.2 ||| g) &&& ~~~flagNX)

/-- The sign of the comparison of two numbers that are not NaN: -1, 0 or 1; zeros are equal. -/
def Fp.cmp : Fp → Fp → Int
  | .inf a, .inf b => if a = b then 0 else if a then -1 else 1
  | .inf a, _ => if a then -1 else 1
  | _, .inf b => if b then 1 else -1
  | .fin n1 m1 e1, .fin n2 m2 e2 =>
    let q := min e1 e2
    let d := scaled n1 m1 e1 q - scaled n2 m2 e2 q
    if d < 0 then -1 else if d = 0 then 0 else 1
  | _, _ => 0
/-- The sign of a value that is not a NaN. -/
def Fp.isNeg : Fp → Bool
  | .nan _ => false
  | .inf n => n
  | .fin n _ _ => n
/-- minimumNumber, or maximumNumber, of two bit strings, with -0 below +0 (R120, R161). -/
def Fmt.minMax (f : Fmt) (wantMax : Bool) (a b : Nat) : Nat × FFlags :=
  let x := f.decode a
  let y := f.decode b
  let fl := x.snan ||| y.snan
  if x.isNan && y.isNan then (f.nanBits, fl)
  else if x.isNan then (b, fl)
  else if y.isNan then (a, fl)
  else
    let c := x.cmp y
    let aLess := decide (c < 0) || (decide (c = 0) && x.isNeg && !y.isNeg)
    (if aLess != wantMax then a else b, fl)

/-- A comparison: eq and ne are quiet, lt and le signal for any NaN (R164). -/
def fcompare (c : Cond) (x y : Fp) : Bool × FFlags :=
  let anyNan := x.isNan || y.isNan
  match c with
  | .eq => (!anyNan && decide (x.cmp y = 0), x.snan ||| y.snan)
  | .ne => (anyNan || decide (x.cmp y ≠ 0), x.snan ||| y.snan)
  | .lt => (!anyNan && decide (x.cmp y < 0), flagIf anyNan flagNV)
  | .le => (!anyNan && decide (x.cmp y ≤ 0), flagIf anyNan flagNV)

/-- The class of R163 as a bit number. -/
def Fmt.classBit (f : Fmt) (b : Nat) : Nat :=
  match f.decode b with
  | .nan true => 8
  | .nan false => 9
  | .inf true => 0
  | .inf false => 7
  | .fin neg m _ =>
    if m = 0 then (if neg then 3 else 4)
    else if b / 2 ^ f.fb % 2 ^ f.eb = 0 then (if neg then 2 else 5)
    else if neg then 1 else 6

/-- The sign of b injected into a bit string: `mode` 0 copies it, 1 negates it, 2 exclusive-ors it. -/
def Fmt.inject (f : Fmt) (mode a b : Nat) : Nat :=
  let top := 2 ^ (f.eb + f.fb)
  let sa := a / top % 2
  let sb := b / top % 2
  let r := match mode with
    | 0 => sb
    | 1 => 1 - sb
    | _ => (sa + sb) % 2
  a % top + r * top

/-- A value rounded to an integer, and whether that is inexact. -/
def toInteger (rm : Rm) (neg : Bool) (m : Nat) (e : Int) : Int × Bool :=
  let (r, ix) := roundAt rm neg m e 0
  (if neg then -(r : Int) else r, ix)

/-- Smallest and largest value of a w-bit format (R101). -/
def intMin (w : Nat) (signed : Bool) : Int := if signed then -(2 ^ (w - 1) : Nat) else 0
/-- Largest value. -/
def intMax (w : Nat) (signed : Bool) : Int := if signed then (2 ^ (w - 1) : Nat) - 1 else (2 ^ w : Nat) - 1
/-- The value is in the range of a format. -/
def inRange (t : Int) (w : Nat) (signed : Bool) : Bool := decide (intMin w signed ≤ t) && decide (t ≤ intMax w signed)
/-- sat of R121. -/
def sat (t : Int) (w : Nat) (signed : Bool) : Int := if t < intMin w signed then intMin w signed else if intMax w signed < t then intMax w signed else t
/-- wrap of R121, as a w-bit string. -/
def wrap (t : Int) (w : Nat) : Nat := (t % (2 ^ w : Nat)).toNat
/-- sint of R121. -/
def sint (v w : Nat) : Int := if v % 2 ^ w < 2 ^ (w - 1) then (v % 2 ^ w : Nat) else (v % 2 ^ w : Nat) - (2 ^ w : Nat)

/-- Length of the run of bits equal to b from bit i - 1 of g downward. -/
def runLen (g : Nat) (b : Bool) : Nat → Nat
  | 0 => 0
  | i + 1 => if g.testBit i == b then runLen g b i + 1 else 0
/-- Width of the magnitude field of T8 or T6 (R107). -/
def tapW (t6 : Bool) : Nat := if t6 then 5 else 7
/-- Magnitude of a nonzero field g of T8 or T6 as (m, e) (R107). -/
def tapMag (t6 : Bool) (g : Nat) : Nat × Int :=
  let w := tapW t6
  let one := g.testBit (w - 1)
  let m := runLen g one w
  let k : Int := if one then (m : Int) - 1 else -(m : Int)
  let used := min (m + 1) w
  let e := if used < w then g / 2 ^ (w - 1 - used) % 2 else 0
  let used2 := if used < w then used + 1 else used
  let n := w - used2
  (2 ^ n + g % 2 ^ n, 2 * k + e - n)
/-- dec_tap of R107: bits above the code are ignored; NaR is a quiet NaN (R109). -/
def decTap (t6 : Bool) (code : Nat) : Fp :=
  let w := tapW t6
  let g := code % 2 ^ w
  let s := code / 2 ^ w % 2 == 1
  if g = 0 then (if s then .nan false else .fin false 0 0) else .fin s (tapMag t6 g).1 (tapMag t6 g).2
/-- The magnitude of a field in units of the format's smallest magnitude, 2^-12 or 2^-8. -/
def tapUnits (t6 : Bool) (g : Nat) : Nat := (tapMag t6 g).1 * 2 ^ ((tapMag t6 g).2 + (if t6 then 8 else 12)).toNat
/-- enc_tap of R110: the magnitude is num / den units; lo counts the codes whose magnitude is not above it. -/
def encTap (t6 : Bool) : Fp → Nat × FFlags
  | .nan _ => (2 ^ tapW t6, flagNV)
  | .inf _ => (2 ^ tapW t6, flagNV)
  | .fin neg m e =>
    if m = 0 then (0, 0)
    else
      let w := tapW t6
      let u : Int := e + (if t6 then 8 else 12)
      let num := m * 2 ^ u.toNat
      let den := 2 ^ (-u).toNat
      let s := if neg then 2 ^ w else 0
      let lo := ((List.range (2 ^ w)).filter fun g => decide (0 < g) && decide (tapUnits t6 g * den ≤ num)).length
      if lo = 0 then (s + 1, flagUF ||| flagNX)
      else if tapUnits t6 lo * den = num then (s + lo, 0)
      else if lo = 2 ^ w - 1 then (s + lo, flagOF ||| flagNX)
      else
        let mid := (tapUnits t6 lo + tapUnits t6 (lo + 1)) * den
        let c := if 2 * num < mid then lo else if mid < 2 * num then lo + 1 else if lo % 2 = 0 then lo else lo + 1
        (s + c, flagNX)

/-- x * 2^k. -/
def Fp.scaleBy (k : Int) : Fp → Fp
  | .fin n m e => .fin n m (e + k)
  | v => v
/-- The scale byte of a block of values (R113). -/
def blockScale (l : List Fp) : Nat :=
  let tops := l.filterMap fun v => match v with
    | .fin _ m e => if m = 0 then none else some (topExp m e)
    | _ => none
  match tops with
  | [] => 127
  | t :: ts => (max ((ts.foldl max t) + 126) 0).toNat

/-- What the elements of a matrix format pair are: a float format, a tapered format, or an integer width. -/
inductive ElemKind where
  | flt (f : Fmt)
  | tap (t6 : Bool)
  | int (w : Nat)
  deriving DecidableEq, Repr
end Sys2Proof.Machine

namespace Sys2Proof

open Machine

/-- The kinds of the A and B elements of a pair (R54). -/
def FormatPair.kinds : FormatPair → ElemKind × ElemKind
  | .bf16bf16 => (.flt bf16, .flt bf16)
  | .f16f16 => (.flt fp16, .flt fp16)
  | .t8t8 => (.tap false, .tap false)
  | .t6t6 => (.tap true, .tap true)
  | .t8t6 => (.tap false, .tap true)
  | .t6t8 => (.tap true, .tap false)
  | .i8i8 => (.int 8, .int 8)
  | .i4i4 => (.int 4, .int 4)
  | .i2i2 => (.int 2, .int 2)
end Sys2Proof

namespace Sys2Proof.Machine

/-- dec of R121 on a matrix element. -/
def ElemKind.dec : ElemKind → Nat → Fp
  | .flt f, c => f.decode c
  | .tap t6, c => decTap t6 c
  | .int w, c => ofSigned (sint c w) 0 false

/-- The exact sum of sixteen products as one value (R114): NaN, an infinity, or a finite sum; NV is of the invalid cases. The rule does not
say whether infinities of both signs raise NV beside a quiet NaN: here they do not. DESIGN CHOICE, unsafe: log entry 74. -/
def sumProducts (l : List (Fp × FFlags)) : Fp × FFlags :=
  let nv := l.foldl (fun f p => f ||| p.2) 0
  let ps := l.map (·.1)
  let pinf := ps.any (· == .inf false)
  let ninf := ps.any (· == .inf true)
  if ps.any Fp.isNan then (.nan false, nv)
  else if pinf && ninf then (.nan false, nv ||| flagNV)
  else if pinf then (.inf false, nv)
  else if ninf then (.inf true, nv)
  else
    let sum := ps.foldl (fun a p => (Fp.add .rne a p).1) (.fin false 0 0)
    match sum with
    | .fin _ 0 e => (.fin (ps.all fun p => match p with | .fin neg 0 _ => neg | _ => false) 0 e, nv)
    | v => (v, nv)
/-- group_fp of R114: the new accumulator and the conditions raised. -/
def groupFp (acc : Nat) (ka kb : ElemKind) (a b : List Nat) (sa sb : Nat) : Nat × FFlags :=
  if sa = 255 ∨ sb = 255 then (fp32.nanBits, flagNV)
  else
    let (v, f1) := sumProducts ((a.zip b).map fun p => (ka.dec p.1).mul (kb.dec p.2))
    let (g, f2) := fp32.round .rne (v.scaleBy ((sa : Int) + sb - 254))
    let (r, f3) := Fp.add .rne (fp32.decode acc) (fp32.decode g)
    let (bits, f4) := fp32.round .rne r
    (bits, f1 ||| f2 ||| f3 ||| f4)
/-- group_int of R115: the new accumulator and whether it saturated. -/
def groupInt (acc wa wb : Nat) (a b : List Nat) : Nat × Bool :=
  let s := (a.zip b).foldl (fun t p => t + sint p.1 wa * sint p.2 wb) 0
  let t := sint acc 32 + s
  (wrap (sat t 32 true) 32, !(inRange t 32 true))

end Sys2Proof.Machine
end

