-- ==== Sys2Proof/Machine/Flags.lean ====
section
/-! DEFINITION. The flag computations: `fflags` and `frm` (R69, R105, R106), the exception-mask bits of FP and integer
instructions (R106), and the sticky status of a matrix core (R114, R198). -/

namespace Sys2Proof.Machine

/-- Accrue flags into `fflags` (R69, R106). -/
def Shuttle.accrue (sh : Shuttle) (f : FFlags) : Shuttle := { sh with fcsr := sh.fcsr ||| f.zeroExtend 8 }
/-- `frm` (R69, R105). -/
def Shuttle.frm (sh : Shuttle) : Nat := sh.fcsr.toNat / 32 % 8
/-- The rounding mode that `frm` holds; a valid mode is checked before (R45 order 10). -/
def Shuttle.rm (sh : Shuttle) : Rm := (rmOf sh.frm).getD .rne
/-- The mode of a Zfinx rm field: 111 takes `frm` (R69). -/
def Shuttle.rmField (sh : Shuttle) (rm : BitVec 3) : Option Rm := if rm = 7 then rmOf sh.frm else rmOf rm.toNat
/-- The exception-mask bit of an FP or conversion instruction: NV, DZ, OF or UF (R106). -/
def excBit (f : FFlags) : Bool := f &&& 0x1E != 0
/-- The exception-mask bit of an integer result: outside the range of the format (R158 to R160). -/
def overBit (t : Int) (w : Nat) (signed : Bool) : Bool := !(inRange t w signed)
/-- Record the conditions of a group update in the sticky status (R114, R115, R198). -/
def MStat.note (m : MStat) (f : FFlags) (ovf : Bool) : MStat :=
  { m with nv := m.nv || f.getLsbD 4, of := m.of || f.getLsbD 2, uf := m.uf || f.getLsbD 1, iovf := m.iovf || ovf }

end Sys2Proof.Machine
end

