-- ==== Sys2Proof/Machine/Operands.lean ====
section
/-! DEFINITION. The operand forms of vector instructions: element types (R19, R101), placement in registers and groups (R102,
R133, R143), masks (R134), and the elements that an instruction reads and writes. -/

namespace Sys2Proof

/-- Register width of an element type (R19). -/
def EType.width : EType → Nat
  | .i2 => 2 | .i4 => 4 | .i8 | .ui8 | .t8 | .t6 => 8 | .i16 | .ui16 | .bf16 | .f16 => 16 | .i32 | .ui32 | .f32 => 32
/-- C, the columns of a row (R19). -/
def EType.cols (e : EType) : Nat := 1024 / e.width
/-- The type is a signed integer (R142). -/
def EType.isSigned : EType → Bool
  | .i2 | .i4 | .i8 | .i16 | .i32 => true
  | _ => false
/-- The type is an integer (R142). -/
def EType.isInt : EType → Bool
  | .ui8 | .ui16 | .ui32 => true
  | e => e.isSigned
/-- The type is an FP type (R142). -/
def EType.isFp : EType → Bool
  | .bf16 | .f16 | .f32 => true
  | _ => false
/-- The type is a tapered type (R142). -/
def EType.isTap : EType → Bool
  | .t8 | .t6 => true
  | _ => false
/-- The format of an FP type (R103). -/
def EType.fmt : EType → Machine.Fmt
  | .bf16 => Machine.bf16 | .f16 => Machine.fp16 | _ => Machine.fp32
/-- The value of an element read by ext (R142), FP or tapered types being no integers. -/
def EType.ext (e : EType) (v : Nat) : Int := if e.isSigned then Machine.sint v e.width else (v % 2 ^ e.width : Nat)
/-- The bits of a T6 container that an instruction writes (R102, R144). -/
def EType.clean (e : EType) (v : Nat) : Nat := if e = .t6 then v % 64 else v % 2 ^ e.width

end Sys2Proof

namespace Sys2Proof.Machine

/-- The vector registers of a thread, keyed by 8 * register + row (R133). -/
abbrev VRegs := SMap (BitVec 1024)
/-- The mask registers (R134). -/
abbrev Masks := SMap (BitVec 4096)

/-- A row of a register. -/
def VRegs.row (m : VRegs) (v r : Nat) : BitVec 1024 := SMap.get 0 m (8 * (v % 32) + r)
/-- Element j of width w of a row (R102). -/
def VRegs.elt (m : VRegs) (w v r j : Nat) : Nat := (m.row v r).toNat / 2 ^ (w * j) % 2 ^ w
/-- Write element j of width w of a row. -/
def VRegs.setElt (m : VRegs) (w v r j val : Nat) : VRegs :=
  let old := (m.row v r).toNat
  let p := 2 ^ (w * j)
  SMap.put 0 m (8 * (v % 32) + r) (BitVec.ofNat 1024 (old - old / p % 2 ^ w * p + val % 2 ^ w * p))
/-- Element j of row r of a register group whose element width is w (R143). -/
def VRegs.gElt (m : VRegs) (w v r j : Nat) : Nat := m.elt w (v + j / (1024 / w)) r (j % (1024 / w))
/-- Write element j of row r of a register group. -/
def VRegs.setGElt (m : VRegs) (w v r j val : Nat) : VRegs := m.setElt w (v + j / (1024 / w)) r (j % (1024 / w)) val
/-- A mask register. -/
def Masks.reg (m : Masks) (k : Nat) : BitVec 4096 := SMap.get 0 m k

/-- What a vector instruction works on: the captured shuttle state, the vector registers and the masks (R128). -/
structure VArgs where
  ck : Shuttle
  regs : VRegs
  masks : Masks
/-- The element type. -/
def VArgs.et (a : VArgs) : EType := a.ck.vtype.getD .i8
/-- `vlr`. -/
def VArgs.rows (a : VArgs) : Nat := a.ck.vlr.toNat
/-- `vlc`. -/
def VArgs.cols (a : VArgs) : Nat := a.ck.vlc.toNat
/-- N = vlr * vlc. -/
def VArgs.n (a : VArgs) : Nat := a.rows * a.cols
/-- The index at which the instruction starts (R22). -/
def VArgs.start (a : VArgs) : Nat := a.ck.vresume.toNat
/-- Element i of a register, read at width w (R133). -/
def VArgs.elt (a : VArgs) (w v i : Nat) : Nat := a.regs.elt w v (i / a.cols) (i % a.cols)
/-- Element i of a register in the current type; a T6 read ignores the container's high bits (R102). -/
def VArgs.cur (a : VArgs) (v : VReg) (i : Nat) : Nat := a.et.clean (a.elt a.et.width v.val i)
/-- Element i read by ext. -/
def VArgs.int (a : VArgs) (v : VReg) (i : Nat) : Int := a.et.ext (a.cur v i)
/-- Element i read as a floating-point value. -/
def VArgs.fp (a : VArgs) (v : VReg) (i : Nat) : Fp := a.et.fmt.decode (a.cur v i)
/-- The active elements (R133): from the start index, and under the mask that vm names. -/
def VArgs.active (a : VArgs) (vm : MReg) : List Nat :=
  let m := a.masks.reg vm.val
  (List.range a.n).filter fun i => decide (a.start ≤ i) && (vm == 0 || m.getLsbD i)
/-- The active elements of an instruction with an X bit: every element under X = 1 (R134). -/
def VArgs.activeX (a : VArgs) (x : Bool) (vm : MReg) : List Nat := a.active (if x then 0 else vm)

/-- The key of the row of a group's register that holds an element of width w (R143). -/
def VArgs.rowKey (a : VArgs) (w v i : Nat) : Nat := 8 * ((v + i % a.cols / (1024 / w)) % 32) + i / a.cols

/-- What an arithmetic vector instruction comes to: registers, masks, flags, an x register to write, and the rows written. -/
structure VEff where
  regs : VRegs
  masks : Masks
  flags : FFlags := 0
  xw : Option (XReg × Word) := none
  wrote : List Nat := []

/-- The result of one element: its value, its flags and its exception-mask bit. -/
structure EltOut where
  val : Nat
  flags : FFlags := 0
  exc : Bool := false

/-- Write bits of a mask register (R134): the given ones, and zero at and above N. -/
def VArgs.putMask (a : VArgs) (md : Nat) (l : List (Nat × Bool)) : Masks :=
  let old := (a.masks.reg md) &&& BitVec.ofNat 4096 (2 ^ a.n - 1)
  SMap.put 0 a.masks md
    (l.foldl (fun (m : BitVec 4096) p =>
      if p.2 then m ||| (BitVec.ofNat 4096 (2 ^ p.1)) else m &&& ~~~(BitVec.ofNat 4096 (2 ^ p.1))) old)
/-- Apply an element function to the active elements: all sources are read first (R143), then the results are written at width w of
a group at vd, the flags accrue, and under X the exception mask is written (R134, R144). -/
def VArgs.mapElts (a : VArgs) (x : Bool) (vm : MReg) (w : Nat) (vd : VReg) (f : Nat → EltOut) : VEff :=
  let outs := (a.activeX x vm).map fun i => (i, f i)
  { regs := outs.foldl (fun m o => m.setGElt w vd.val (o.1 / a.cols) (o.1 % a.cols) o.2.val) a.regs
    masks := if x then a.putMask vm.val (outs.map fun o => (o.1, o.2.exc)) else a.masks
    flags := outs.foldl (fun g o => g ||| o.2.flags) 0
    wrote := outs.map fun o => a.rowKey w vd.val o.1 }

/-- The keys of the rows of some registers, or groups, in which elements of width w lie (R143). -/
def VArgs.keys (a : VArgs) (w : Nat) (vs : List VReg) (l : List Nat) : List Nat := vs.flatMap fun v => l.map fun i => a.rowKey w v.val i
/-- A row of a list is poisoned (R140). -/
def Slot.anyPoison (m : Slot) (l : List Nat) : Bool := l.any fun r => SMap.get false m.vpoison r

end Sys2Proof.Machine
end

