-- ==== Sys2Proof/Machine/Memory.lean ====
section
/-! DEFINITION. Machine memory (R300): bytes, little-endian words (R7), poison (R219) and the encryption keys under which frames
were written (R351). An unlisted byte reads as zero before its pad. -/

namespace Sys2Proof.Machine

/-- The canonical form of memory: addresses strictly rising, no zero byte listed. -/
def Memory.wf (m : Memory) : Bool := SMap.wf 0 m

/-- The pad through which a byte of a re-keyed frame reads (R351): by its place in the frame, so that a page keeps its bytes when it is
moved. DESIGN CHOICE, safe: log entry 10. -/
def State.padAt (s : State) (a : Nat) : Byte :=
  let k := SMap.get 0 s.pads (a / 65536)
  if k = 0 then 0 else Config.pad k (a % 65536)
/-- One byte of machine memory. DESIGN CHOICE, unsafe: log entry 1. -/
def State.byte (s : State) (a : Nat) : Byte := SMap.get 0 s.mem a ^^^ s.padAt a
/-- Write one byte of machine memory. -/
def State.putByte (s : State) (a : Nat) (v : Byte) : State := { s with mem := SMap.put 0 s.mem a (v ^^^ s.padAt a) }
/-- Write bytes from an address on. -/
def State.putBytes (s : State) (a : Nat) (l : List Byte) : State := l.zipIdx.foldl (fun t e => t.putByte (a + e.2) e.1) s
/-- The 8 bytes at an address, little-endian. -/
def State.read64 (s : State) (a : Nat) : Word := wordOf8 fun i => s.byte (a + i)
/-- The 4 bytes at an address, little-endian. -/
def State.read32 (s : State) (a : Nat) : BitVec 32 := (s.read64 a).truncate 32
/-- Write the bytes of a little-endian word whose mask bit is set. -/
def State.writeMask (s : State) (a : Nat) (v : Word) (m : BitVec 8) : State :=
  (List.range 8).foldl (fun t i => if m.getLsbD i then t.putByte (a + i) (byteAt v i) else t) s
/-- Write 8 bytes, little-endian. -/
def State.write64 (s : State) (a : Nat) (v : Word) : State := s.writeMask a v 0xFF
/-- The 8-byte unit is poisoned (R219). -/
def State.poisoned (s : State) (a : Nat) : Bool := SMap.get false s.poison (a / 8)
/-- Set or clear the poison of an 8-byte unit. -/
def State.setPoison (s : State) (a : Nat) (b : Bool) : State := { s with poison := SMap.put false s.poison (a / 8) b }

/-- First machine address above HBM (R300). -/
def hbmTop : Nat := 0xC000000000
/-- The firmware-reserved area: the top 16 GiB of HBM (R300). -/
def fwBase : Nat := 0xBC00000000
/-- First machine address of the fabric windows (R300, R397). -/
def fabricBase : Nat := 0x1000000000000
/-- Size of a fabric window (R397). -/
def windowSize : Nat := 0x200000000000
/-- The machine address lies in the firmware-reserved area. -/
def inFwArea (a : Nat) : Bool := decide (fwBase ≤ a) && decide (a < hbmTop)
/-- The machine address lies in HBM. -/
def inHbm (a : Nat) : Bool := decide (a < hbmTop)
/-- The machine address lies in a fabric window. -/
def inFabric (a : Nat) : Bool := decide (fabricBase ≤ a) && decide (a < fabricBase + 8 * windowSize)
/-- The fabric window of a machine address. -/
def windowOf (a : Nat) : Nat := (a - fabricBase) / windowSize
/-- The machine address exists (R300). -/
def machineExists (a : Nat) : Bool := inHbm a || inFabric a
/-- The window has a port whose link is up (R398). -/
def State.windowUp (s : State) (k : Nat) : Bool :=
  let w : Window := SMap.get {} s.windows k
  !(s.cxlDown.contains w.primary) || (match w.alternate with | some p => !(s.cxlDown.contains p) | none => false)

/-- The identity of a key: index and generation (R351), plus one. -/
def State.keyId (s : State) (kidx : Nat) : Nat :=
  kidx * 4294967296 + (if kidx = 256 then 0 else (s.vf kidx).keyGen) + 1
/-- The frame of a machine address was last written under another key (R351). -/
def State.foreign (s : State) (a kidx : Nat) : Bool :=
  let cur := SMap.get 0 s.fkey (a / 65536)
  cur != 0 && cur != s.keyId kidx
/-- A write under a key: a frame that was last written under another one holds unrelated bytes from then on (R351).
DESIGN CHOICE, safe: log entry 10. -/
def State.useKey (s : State) (a kidx : Nat) : State :=
  let fr := a / 65536
  let t := { s with fkey := SMap.put 0 s.fkey fr (s.keyId kidx) }
  if s.foreign a kidx then { t with pads := SMap.put 0 s.pads fr (s.fresh + 1), fresh := s.fresh + 1 } else t
/-- A read of 8 bytes under a key: under another key than the frame's own, unrelated bytes, while the frame stays as it is (R351).
DESIGN CHOICE, safe: log entry 10. -/
def State.readKey (s : State) (a kidx : Nat) : State × Word :=
  if s.foreign a kidx then ({ s with fresh := s.fresh + 1 }, Config.freeWord (s.fresh + 1)) else (s, s.read64 a)
/-- The read of a read-modify-write under a key: only one that goes on to write touches a frame of another key (R351). -/
def State.rmwKey (s : State) (a kidx : Nat) (f : Word → Option Word) : State × Word :=
  let x := s.readKey a kidx
  (if (f x.2).isSome then x.1.useKey a kidx else x.1, x.2)

/-- What was written under one key is re-encrypted under another (R351, R410). -/
def State.rekey (s : State) (old new : Nat) : State := { s with fkey := s.fkey.map fun e => if e.2 = old then (e.1, new) else e }
/-- Copy n bytes with their poison from one machine address to another, both 8-byte aligned, one 8-byte unit at a time. -/
def State.copyUnits (s : State) (src dst : Nat) : Nat → State
  | 0 => s
  | k + 1 =>
    let t := s.copyUnits src dst k
    (t.write64 (dst + 8 * k) (t.read64 (src + 8 * k))).setPoison (dst + 8 * k) (t.poisoned (src + 8 * k))

/-- The listed cells of a machine range. -/
def State.cellsIn (s : State) (base len : Nat) : List Host.Cell :=
  s.mem.filter fun e => decide (base ≤ e.1) && decide (e.1 < base + len)

/-- A frame as zero bytes, with no poison, under a key (R353). -/
def State.zeroFrame (s : State) (fr kid : Nat) : State :=
  { s with
    mem := s.mem.filter fun e => decide (e.1 / 65536 ≠ fr)
    poison := s.poison.filter fun e => decide (e.1 / 8192 ≠ fr)
    pads := SMap.put 0 s.pads fr 0
    fkey := SMap.put 0 s.fkey fr kid }

/-- Move the contents and poison of a 64 KiB frame to another frame (R351): it is read under one key, as unrelated bytes if it was last
written under another, and written under the key whose identity is given. -/
def State.moveFrame (s : State) (src dst kidx kid : Nat) : State :=
  let z := s.zeroFrame dst kid
  let pad := if s.foreign (src * 65536) kidx then s.fresh + 1 else SMap.get 0 s.pads src
  { z with
    fresh := if s.foreign (src * 65536) kidx then s.fresh + 1 else s.fresh
    mem := (s.mem.filter fun e => decide (e.1 / 65536 = src)).foldl
      (fun m e => SMap.put 0 m (dst * 65536 + e.1 % 65536) e.2) z.mem
    pads := SMap.put 0 z.pads dst pad
    poison := (s.poison.filter fun e => decide (e.1 / 8192 = src)).foldl
      (fun m e => SMap.put false m (dst * 8192 + e.1 % 8192) e.2) z.poison }

end Sys2Proof.Machine
end

