-- ==== Sys2Proof/Machine/Translate.lean ====
section
/-! DEFINITION. Protection and translation (R286 to R299): the PLB check, the page walk, homing (R208), the range table, the
attribute buffers, the scratchpad window (R204) and the selvedge (R221). -/

namespace Sys2Proof.Machine

/-- Which attribute buffer an agent uses (R291): a die scheduler and the host are checked by the tables as they stand. -/
inductive Buf where
  | core | chan (sec ch : Nat) | coll | die | none
  deriving DecidableEq, Repr

/-- Who makes an access: the VF, the core it is made at or for, the mode, the agent of its causes (R88), and for a vector store its number
in the thread's queue. -/
structure Who where
  vf : Nat
  core : Nat
  mode : Mode
  agent : Nat
  buf : Buf := .core
  vseq : Nat := 0
  deriving DecidableEq, Repr

/-- What an access comes to: a value, a cause with its stval, or the address whose page pull must be waited for. -/
inductive Res (α : Type) where
  | ok (s : State) (a : α)
  | fault (s : State) (c : BitVec 10) (tval : Word)
  | wait (s : State) (va : Nat)
  deriving DecidableEq

/-- Go on after a good access. -/
def Res.bind {α β : Type} : Res α → (State → α → Res β) → Res β
  | .ok s a, f => f s a
  | .fault s c t, _ => .fault s c t
  | .wait s p, _ => .wait s p

/-- The page fault of an access kind (R286). -/
def pageFault (agent : Nat) : Access → BitVec 10
  | .load => cause 3 agent 0
  | .store => cause 3 agent 1
  | .atomic => cause 3 agent 1
  | .fetch => cause 3 0 2

/-- The address is a scratchpad-window address (R286). -/
def isWindow (va : Nat) : Bool := va / 2 ^ 48 == 0xFE
/-- The address raises the page fault of its kind whatever the tables hold (R286). -/
def isReservedVa (va : Nat) : Bool := decide (va / 2 ^ 48 > 0xFE)

/-- Where the top protection table of a VF lies (R288): at the root that firmware has set, else in the place that the model's firmware
keeps for it in the firmware-reserved area. -/
def State.protTable (s : State) (v : Nat) : Nat :=
  if (s.vf v).protRoot = 0 then fwBase + 0x1000000 + v * 0x20000 else (s.vf v).protRoot
/-- The protection-table entry of a region of a VF, none if malformed (R288, R289). -/
def State.plbWalk (s : State) (v region : Nat) : Option PlbEntry :=
  let top := s.read64 (s.protTable v + 8 * (region / 65536))
  let leaf := bitsOf top 51 16 * 65536
  if bitsOf top 63 52 ≠ 0 ∨ bitsOf top 15 1 ≠ 0 then none
  else if bitOf top 0 then
    if inFwArea leaf then
      let b := s.byte (leaf + region % 65536)
      if b.toNat / 32 ≠ 0 then none
      else some { vf := v, region := region, valid := b.getLsbD 0, r := b.getLsbD 1, w := b.getLsbD 2,
                  x := b.getLsbD 3, u := b.getLsbD 4 }
    else none
  else some { vf := v, region := region, valid := false, r := false, w := false, x := false, u := false }

/-- The tests of R289 on a PLB entry. -/
def plbTest (e : PlbEntry) (mode : Mode) (agent : Nat) (acc : Access) : Option (BitVec 10) :=
  let ag := if acc = .fetch then 0 else agent
  if e.valid && ((mode == .u && !e.u) || (mode == .s && acc == .fetch && e.u)) then some (cause 2 ag 3)
  else match acc with
    | .load => if e.valid && e.r then none else some (cause 2 ag 0)
    | .store => if e.valid && e.w then none else some (cause 2 ag 1)
    | .atomic => if e.valid && e.w && e.r then none else some (cause 2 ag 1)
    | .fetch => if e.valid && e.x then none else some (cause 2 0 2)

/-- The PLB entry of a region: a hit moves to the front, a miss fills from the table and is kept among 64 (R287). -/
def State.plbLookup (s : State) (w : Who) (region : Nat) : Option (State × PlbEntry) :=
  let plb := (s.core w.core).plb
  match plb.find? (fun e => e.vf == w.vf && e.region == region) with
  | some e =>
    some (s.updCore w.core fun k =>
      { k with plb := e :: plb.filter fun e' => !(e'.vf == w.vf && e'.region == region) }, e)
  | none =>
    match s.plbWalk w.vf region with
    | some e => some (s.updCore w.core fun k => { k with plb := (e :: plb).take 64 }, e)
    | none => none

/-- The PLB check of an access (R289). -/
def State.plbRights (s : State) (w : Who) (acc : Access) (va : Nat) : Res Unit :=
  match (match w.buf with
    | .none | .die => (s.plbWalk w.vf (va / 2 ^ 26)).map fun e => (s, e)
    | _ => s.plbLookup w (va / 2 ^ 26)) with
  | none => .fault s (cause 2 (if acc = .fetch then 0 else w.agent) 6) (BitVec.ofNat 64 va)
  | some (t, e) =>
    match plbTest e w.mode w.agent acc with
    | some c => .fault t c (BitVec.ofNat 64 va)
    | none => .ok t ()
/-- The PLB check of an access (R289); then, while translation is not enabled, its page fault (R292). -/
def State.plbCheck (s : State) (w : Who) (acc : Access) (va : Nat) : Res Unit :=
  (s.plbRights w acc va).bind fun t _ =>
    if bitOf (s.die (dieOf w.core)).trr 0 then .ok t () else .fault t (pageFault w.agent acc) (BitVec.ofNat 64 va)

/-- What a page walk comes to. -/
inductive Walk where
  | leaf (e : Word) (lv : Nat) (at_ : Nat)
  | missing
  | malformed
  deriving DecidableEq, Repr

/-- Fields of a page-table entry (R293). -/
def pteTier (e : Word) : Nat := bitsOf e 63 62
/-- HOME field. -/
def pteHome (e : Word) : Nat := bitsOf e 61 50
/-- ADDR field. -/
def pteAddr (e : Word) : Nat := bitsOf e 49 10
/-- Homing mode. -/
def pteHm (e : Word) : Bool := bitOf e 9
/-- Cache policy: 0 cached, 1 uncached, 2 shared-uncached, 3 device. -/
def ptePol (e : Word) : Nat := bitsOf e 8 7

/-- A leaf at its level is well formed (R293, R294). -/
def leafOk (e : Word) (lv : Nat) : Bool :=
  !(lv == 3 || bitsOf e 6 5 == 3 || bitOf e 2 || (pteHm e && bitsOf e 61 54 != 0)
    || (lv != 0 && pteTier e != 0)
    || (lv == 2 && pteAddr e % 1048576 != 0) || (lv == 1 && pteAddr e % 1024 != 0))

/-- The walk of R294 from the table at t of level lv. -/
def State.walk (s : State) (va : Nat) : Nat → Nat → Walk
  | 0, t =>
    let at_ := t + 8 * (va / 2 ^ 16 % 1024)
    let e := s.read64 at_
    if !(bitOf e 0) then .missing
    else if bitOf e 1 then (if leafOk e 0 then .leaf e 0 at_ else .malformed)
    else .malformed
  | lv + 1, t =>
    let at_ := t + 8 * (va / 2 ^ (16 + 10 * (lv + 1)) % 1024)
    let e := s.read64 at_
    if !(bitOf e 0) then .missing
    else if bitOf e 1 then (if leafOk e (lv + 1) then .leaf e (lv + 1) at_ else .malformed)
    else if bitsOf e 9 2 ≠ 0 ∨ pteTier e ≠ 0 ∨ pteHome e ≠ 0 then .malformed
    else State.walk s va lv (pteAddr e * 8192)

/-- The walk from the translation root of a die (R292, R294): nothing while EN is 0. -/
def State.walkVa (s : State) (die va : Nat) : Walk :=
  let trr := (s.die die).trr
  if bitOf trr 0 then s.walk va 3 (bitsOf trr 51 13 * 8192) else .missing

/-- The IPA that a leaf gives an address (R294). -/
def leafIpa (e : Word) (lv va : Nat) : Nat := pteAddr e * 65536 + va % 2 ^ (16 + 10 * lv)

/-- BASE, LIMIT and MBASE of a range entry (R295). -/
def RangeEntry.valid (r : RangeEntry) : Bool := bitOf r.w0 63
/-- First IPA. -/
def RangeEntry.base (r : RangeEntry) : Nat := bitsOf r.w0 55 16 * 65536
/-- One past the last IPA. -/
def RangeEntry.limit (r : RangeEntry) : Nat := bitsOf r.w1 55 16 * 65536
/-- Machine address of BASE. -/
def RangeEntry.mbase (r : RangeEntry) : Nat := bitsOf r.w2 51 16 * 65536
/-- The rights X, W, R. -/
def RangeEntry.rights (r : RangeEntry) : BitVec 3 := BitVec.ofNat 3 (bitsOf r.w3 11 9)
/-- The key index. -/
def RangeEntry.kidx (r : RangeEntry) : Nat := bitsOf r.w3 8 0
/-- The entry covers an IPA. -/
def RangeEntry.covers (r : RangeEntry) (ipa : Nat) : Bool :=
  r.valid && decide (r.base ≤ ipa) && decide (ipa < r.limit)

/-- The range entry of a VF that covers an IPA (R294). -/
def State.rangeOf (s : State) (v ipa : Nat) : Option RangeEntry :=
  ((s.vf v).ranges.find? fun e => decide (e.1 < 48) && e.2.covers ipa).map (·.2)

/-- The rights X W R suffice for an access. -/
def rightsOk (xwr : BitVec 3) : Access → Bool
  | .load => xwr.getLsbD 0
  | .store => xwr.getLsbD 1
  | .atomic => xwr.getLsbD 1 && xwr.getLsbD 0
  | .fetch => xwr.getLsbD 2

/-- The cores that take part in hashed homing for a mask (R208): a lost core stays in the list until the switch (R389).
DEDUCED, unsafe: log entry 15. -/
def State.homeList (s : State) (mask : BitVec 32) : List Nat :=
  (List.range 32).flatMap fun sec =>
    if mask.getLsbD sec then (sectionCores sec).filter fun c => !(s.core c).fenced else []

/-- The hashed home of an address (R208). -/
def homeHashed (l : List Nat) (va : Nat) : Option Nat :=
  let ln := va / 512 % 2 ^ 47
  let h := (ln % 65536) ^^^ (ln / 65536 % 65536) ^^^ (ln / 4294967296)
  l[h * l.length / 65536]?

/-- The home slice of an address under a leaf, none where R208 raises 0x3.x.5. -/
def State.homeOf (s : State) (v : Nat) (e : Word) (va : Nat) : Option Nat :=
  let p := s.partOfVf v
  if pteHm e then
    let mask : BitVec 32 := SMap.get 0 (s.part p).masks (pteHome e % 16)
    if mask &&& ~~~(s.part p).sections ≠ 0 then none else homeHashed (s.homeList mask) va
  else if s.inPart p (pteHome e) && !(s.core (pteHome e)).fenced then some (pteHome e) else none

/-- Where an address of a VF lies, by the tables alone and with no effect: leaf, machine address, range entry. -/
def State.locate (s : State) (v die va : Nat) : Option (Word × Nat × RangeEntry) :=
  match s.walkVa die va with
  | .leaf e lv _ =>
    let ipa := leafIpa e lv va
    (s.rangeOf v ipa).map fun r => (e, r.mbase + (ipa - r.base), r)
  | _ => none

/-- A home message from the core is let through by the selvedge of the destination's section (R221). -/
def State.selvedgeOk (s : State) (part src dst : Nat) : Bool :=
  let rs : BitVec 32 := SMap.get 0 s.selvedge (sectionOf src)
  let rd : BitVec 32 := SMap.get 0 s.selvedge (sectionOf dst)
  rd.getLsbD 5 || rd.getLsbD 6 || rs.getLsbD 5 || rs.getLsbD 6 || (rd.toNat % 32 == part)

/-- The attribute buffer of an agent. -/
def State.atbOf (s : State) (w : Who) : List AtbEntry :=
  match w.buf with
  | .core => (s.core w.core).atb
  | .chan sec ch => ((s.sec sec).chan ch).atb
  | .coll => (s.vf w.vf).collAtb
  | .none | .die => []

/-- Install an entry in an agent's attribute buffer: 128 entries for a core, 32 for an engine (R291). -/
def State.atbInstall (s : State) (w : Who) (e : AtbEntry) : State :=
  let rest (l : List AtbEntry) := l.filter fun a => !(a.vf == e.vf && a.page == e.page)
  match w.buf with
  | .core => s.updCore w.core fun k => { k with atb := (e :: rest k.atb).take 128 }
  | .chan sec ch => s.updSec sec fun c =>
      { c with chans := SMap.put {} c.chans ch { c.chan ch with atb := (e :: rest (c.chan ch).atb).take 32 } }
  | .coll => s.updVf w.vf fun v => { v with collAtb := (e :: rest v.collAtb).take 32 }
  | .none | .die => s

/-- The last four tests of R294 on an entry: rights, shared key, lost page, page to pull, as one is that is still on another package (R410). -/
def State.atbTest (s : State) (w : Who) (acc : Access) (va : Nat) (e : AtbEntry) : Res AtbEntry :=
  let ag := if acc = .fetch then 0 else w.agent
  let tv : Word := BitVec.ofNat 64 va
  let tier := if e.level = 0 then pteTier e.leaf else 0
  if !(rightsOk e.xwr acc) then .fault s (cause 3 ag 4) tv
  else if e.kidx = 256 ∧ ptePol e.leaf ≠ 2 then .fault s (cause 6 ag 3) tv
  else if tier = 3 then .fault s (cause 4 ag 1) tv
  else if (tier ≠ 0 ∧ ¬(tier = 1 ∧ 2 ≤ ptePol e.leaf)) ∨ (s.vf w.vf).remote.contains (va / 65536) = true then .wait s va
  else .ok s e

/-- The fill of R294. The walker sets A in the leaf at the first committed access. -/
def State.atbFill (s : State) (w : Who) (acc : Access) (va : Nat) : Res AtbEntry :=
  let ag := if acc = .fetch then 0 else w.agent
  let tv : Word := BitVec.ofNat 64 va
  match s.walkVa (dieOf w.core) va with
  | .missing => .fault s (pageFault w.agent acc) tv
  | .malformed => .fault s (cause 3 ag 5) tv
  | .leaf e lv at_ =>
    match s.homeOf w.vf e va with
    | none => .fault s (cause 3 ag 5) tv
    | some _ =>
      match s.rangeOf w.vf (leafIpa e lv va) with
      | none => .fault s (cause 3 ag 3) tv
      | some r =>
        let ent : AtbEntry :=
          { vf := w.vf, page := va / 65536, leaf := e ||| 8, leafAt := at_, level := lv, xwr := r.rights, kidx := r.kidx }
        (s.atbTest w acc va ent).bind fun t ent =>
          .ok ((t.write64 at_ (e ||| 8)).atbInstall w ent) ent

/-- The attributes of a page for an access that leaves the core (R291). -/
def State.atbCheck (s : State) (w : Who) (acc : Access) (va : Nat) : Res AtbEntry :=
  match (s.atbOf w).find? (fun e => e.vf == w.vf && e.page == va / 65536) with
  | some e => s.atbTest w acc va e
  | none => s.atbFill w acc va

/-- The clean copy of a page is kept until the first store to the page (R392). -/
def State.dropClean (s : State) (page : Nat) : State := { s with clean := s.clean.filter fun c => c.2.1 != page }
/-- The walker sets D at the first committed store to the page (R293), whose clean copy then goes (R392). -/
def State.markDirty (s : State) (e : AtbEntry) : State := (s.dropClean e.page).write64 e.leafAt (s.read64 e.leafAt ||| 0x10)
/-- A store to a word that its core owns is committed: the walker sets D in the leaf that maps the word, if it is not set (R293). -/
def State.markDirtyAt (s0 : State) (v die va : Nat) : State :=
  let s := s0.dropClean (va / 65536)
  match s.walkVa die va with
  | .leaf e lv at_ => if bitOf e 4 || (s.rangeOf v (leafIpa e lv va)).isNone then s else s.write64 at_ (s.read64 at_ ||| 0x10)
  | _ => s

/-- The size of a core's scratchpad (R204). -/
def State.scratchSize (s : State) (c : Nat) : Nat :=
  match classOf c with
  | .control => 262144
  | .vector => (s.core c).ctx.units * 4096
  | .matrix => 65536

/-- The core that a window address names (R204). -/
def windowCore (va : Nat) : Nat := va / 2 ^ 32 % 16 * 256 + va / 2 ^ 20 % 256
/-- The offset that a window address names (R204). -/
def windowOff (va : Nat) : Nat := va % 2 ^ 20

/-- The checks of a window address for an access made at a core, in order (R204, R221): an access to another core's scratchpad passes the
selvedge. R88 has no selvedge code for agent 2 and no class 0x5 for the host. DESIGN CHOICE, unsafe: log entry 68. -/
def State.windowTest (s : State) (p src agent va : Nat) : Option (BitVec 10) :=
  let c := windowCore va
  if va / 2 ^ 36 % 4096 ≠ 0 ∨ va / 2 ^ 28 % 16 ≠ 0 ∨ 192 ≤ c % 256 ∨ s.inPart p c = false ∨ s.isFenced c = true
      ∨ s.inColumn c = true then some (cause 2 agent 4)
  else if s.scratchSize c ≤ windowOff va then some (if agent = 3 then cause 2 3 4 else cause 5 agent 6)
  else if src ≠ c ∧ s.selvedgeOk p src c = false then some (cause 2 (if agent = 2 then 0 else agent) 5)
  else none

/-- The partition of the accessing shuttle or engine. -/
def State.whoPart (s : State) (w : Who) : Nat := s.partOfVf w.vf
/-- The scratchpads that a window access finds are those of its VF: while it is switched out, an engine that goes on for it and the host find
the core's saved context (R204, R330, R403). -/
def State.savedAway (s : State) (w : Who) : Bool :=
  (match w.buf with | .coll | .none => true | _ => false) && (s.vf w.vf).hasRun && !(s.running w.vf)
/-- The context in which a window access finds a core's scratchpad. -/
def State.windowCtx (s : State) (w : Who) (c : Nat) : CoreCtx :=
  if s.savedAway w then SMap.get {} (s.vf w.vf).saved.cores c else (s.core c).ctx
/-- Change the scratchpad that a window access finds. -/
def State.updWindowCtx (s : State) (w : Who) (c : Nat) (f : CoreCtx → CoreCtx) : State :=
  if s.savedAway w then
    s.updVf w.vf fun v => { v with saved := { v.saved with cores := SMap.put {} v.saved.cores c (f (SMap.get {} v.saved.cores c)) } }
  else s.updCtx c f
/-- The checks of a window access by its accessor. The collective engine raises none of 0x2.5.4 and 0x5.5.6 (R88): an address that names no
bytes gives it no right. DESIGN CHOICE, unsafe: log entry 93. -/
def State.windowCause (s : State) (w : Who) (write : Bool) (va : Nat) : Option (BitVec 10) :=
  let t := if s.savedAway w then s.updCtx (windowCore va) fun _ => s.windowCtx w (windowCore va) else s
  (t.windowTest (s.whoPart w) w.core w.agent va).map fun c =>
    if w.agent = 5 ∧ c ≠ cause 2 5 5 then cause 2 5 (if write then 1 else 0) else c

end Sys2Proof.Machine
end

