-- ==== Sys2Proof/Machine/Observe.lean ====
section
/-! DEFINITION. What accesses leave behind besides their data: performance counters (R357 to R359), recorded working sets (R332)
and the access log (R355, R356). None of it changes a register or a byte of tenant memory. -/

namespace Sys2Proof.Machine

/-- The event selector of a counter counts an event of a shuttle in a mode; slice and engine events carry no mode (R357). -/
def pmselCounts (sel : BitVec 32) (code : Nat) (mode : Option Mode) : Bool :=
  sel.toNat % 4096 == code && code != 0 &&
    (match mode with
     | none => true
     | some .u => sel.getLsbD 29
     | some .s => sel.getLsbD 28
     | some .m => false)

/-- Add n events to the counter and set OV on a wrap (R357). -/
def pmcAdd (c : CoreCtx) (i n : Nat) : CoreCtx :=
  let v := (SMap.get 0 c.pmc i : BitVec 48).toNat + n
  { c with
    pmc := SMap.put 0 c.pmc i (BitVec.ofNat 48 v)
    pmsel := if v < 2 ^ 48 then c.pmsel else SMap.put 0 c.pmsel i ((SMap.get 0 c.pmsel i : BitVec 32) ||| 0x40000000) }

/-- Count n events of a code on a core's counters (R357, R358). -/
def State.countN (s : State) (core code n : Nat) (mode : Option Mode) : State :=
  if (s.core core).ctx.pmsel.any (fun e => pmselCounts e.2 code mode) then
    s.updCtx core fun c =>
      (List.range 8).foldl (fun c i => if pmselCounts (SMap.get 0 c.pmsel i) code mode then pmcAdd c i n else c) c
  else s
/-- Count one event. -/
def State.count (s : State) (core code : Nat) (mode : Option Mode) : State := s.countN core code 1 mode

/-- The bytes of a list of little-endian doublewords. -/
def bytesOfWords (l : List Word) : List Byte := l.flatMap fun w => (List.range 8).map (byteAt w)
/-- The doublewords of a list of bytes. -/
def wordsOfBytes (l : List Byte) (n : Nat) : List Word :=
  (List.range n).map fun k => wordOf8 fun i => l.getD (8 * k + i) 0

/-- Append one log record, numbered and chained (R356). -/
def Vf.pushLog (v : Vf) (time : Word) (f10 f18 : Word) : Vf :=
  let chain := if v.logChain = [] then [0, 0, 0, 0] else wordsOfBytes (Config.shake256 (bytesOfWords v.logChain)) 4
  let rec_ := [BitVec.ofNat 64 v.logSeq, time, f10, f18] ++ chain
  { v with logRing := v.logRing ++ [rec_], logSeq := v.logSeq + 1, logChain := rec_ }

/-- Emit a log record: dropped and counted when 1,024 are unread; the next one written is a gap record (R356). -/
def Vf.emitLog (v : Vf) (time f10 f18 : Word) : Vf :=
  if 1024 ≤ v.logRing.length then { v with logDropped := v.logDropped + 1 }
  else if v.logDropped = 0 then v.pushLog time f10 f18
  else
    let g := { v.pushLog time (BitVec.ofNat 64 v.logDropped) 3 with logDropped := 0 }
    if 1024 ≤ g.logRing.length then { g with logDropped := 1 } else g.pushLog time f10 f18

/-- The column of a log count (R355), and the access bits of a record: R, W, X, and the host's beside its R or W (R356). -/
def logKind (acc : Access) (host : Bool) : Nat × Nat :=
  let x : Nat × Nat := match acc with | .load => (0, 1) | .store => (1, 2) | .atomic => (2, 3) | .fetch => (3, 4)
  if host then (4, 8 + x.2) else x

/-- The records of a cycle that is over are emitted, in the order of their dies (R356). -/
def Vf.flushLog (v : Vf) : Vf :=
  if v.logPend.isEmpty then v
  else v.logPend.foldl (fun v n => v.emitLog n.time n.page n.what) { v with logPend := [] }
/-- A first-touch record takes its place among those of its cycle, by ascending die (R356). -/
def Vf.putNote (v : Vf) (n : LogNote) (now : Word) : Vf :=
  let u := if v.logCycle = now then v else v.flushLog
  { u with
    logCycle := now
    logPend := (u.logPend.filter fun x => decide (x.die ≤ n.die)) ++ n :: u.logPend.filter fun x => decide (n.die < x.die) }

/-- Count an access in one watched range, emitting a first-touch record (R355). -/
def Vf.logOne (v : Vf) (i : Nat) (r : LogRange) (die core : Nat) (host : Bool) (acc : Access) (va : Nat) (time now : Word) : Vf :=
  if r.base ≤ va ∧ va < r.limit then
    let k := 8 * die + (logKind acc host).1
    let r1 := { r with counts := SMap.put 0 r.counts k (SMap.get 0 r.counts k + 1) }
    if r.touched.contains (die, va / 65536) then { v with logRanges := SMap.put {} v.logRanges i r1 }
    else
      let r2 := { r1 with touched := r1.touched ++ [(die, va / 65536)] }
      Vf.putNote { v with logRanges := SMap.put {} v.logRanges i r2 }
        { die := die, time := time, page := BitVec.ofNat 64 (va / 65536 * 65536)
          what := BitVec.ofNat 64 (1 + i * 256 + (logKind acc host).2 * 4096 + (if host then 0xFFF else core) * 65536) } now
  else v

/-- Record a page in the working-set list of a die (R332): at most 131,072 pages, no page twice. -/
def Vf.recordPage (v : Vf) (die page : Nat) : Vf :=
  let l := SMap.get [] v.wsl die
  if l.contains page then v
  else if l.length < 131072 then { v with wsl := SMap.put [] v.wsl die (l ++ [page]) }
  else { v with ovf := true }

/-- The access is the host's (R343, R355). -/
def Who.isHost (w : Who) : Bool := w.agent == 3 && w.buf == .none
/-- A committed access of a VF counts in its watched ranges (R355). -/
def State.noteLog (s : State) (w : Who) (acc : Access) (va : Nat) (host : Bool) : State :=
  if (s.vf w.vf).logRanges.any fun e => decide (e.2.base ≤ va) && decide (va < e.2.limit) then
    s.updVf w.vf fun v =>
      v.logRanges.foldl (fun v e => v.logOne e.1 e.2 (dieOf w.core) w.core host acc va (s.timeOn (dieOf w.core)) s.cycle) v
  else s
/-- A committed access of a VF to a translated address: a core's is recorded in the working set too (R299, R332, R355). -/
def State.noteAccess (s : State) (w : Who) (acc : Access) (va : Nat) (host : Bool) : State :=
  (if host || w.buf != .core then s
   else s.updVf w.vf fun v => v.recordPage (dieOf w.core) (va / 65536)).noteLog w acc va host

end Sys2Proof.Machine
end

