-- ==== Sys2Proof/Machine/Coherence.lean ====
section
/-! DEFINITION. Registration coherence as the abstract machine of R225 to R227: store buffers, Register steps at the homes, Valid
copies, recalls, watches, owner-lost and poisoned words (R210 to R221), and the accesses of cores and engines built on them.
The latest value of every word is in machine memory; which core owns it is its home state. -/

namespace Sys2Proof.Machine

/-- The core that owns a word (R210). -/
def HomeState.owner : HomeState → Option Nat
  | .registered c _ _ => some c
  | _ => none
/-- The core whose loss has lost a word (R210, R218). -/
def HomeState.loser : HomeState → Option Nat
  | .ownerLost c _ => some c
  | _ => none
/-- The key of a word's home state: VF and DVA word (R206, R210). -/
def wordKey (v wd : Nat) : Nat := v * 2 ^ 56 + wd
/-- The home state of a word. -/
def State.homeState (s : State) (v wd : Nat) : HomeState := SMap.get .unregistered s.home (wordKey v wd)
/-- Set the home state of a word. -/
def State.setHome (s : State) (v wd : Nat) (h : HomeState) : State :=
  { s with home := SMap.put .unregistered s.home (wordKey v wd) h }
/-- The words of an 8-byte block that a byte mask touches. -/
def wordsOf (blk : Nat) (m : BitVec 8) : List Nat :=
  (if m &&& 0x0F ≠ 0 then [2 * blk] else []) ++ (if m &&& 0xF0 ≠ 0 then [2 * blk + 1] else [])
/-- The bytes of the words that a byte mask touches. -/
def wordMask (m : BitVec 8) : BitVec 8 :=
  (if m &&& 0x0F ≠ 0 then 0x0F else 0) ||| (if m &&& 0xF0 ≠ 0 then 0xF0 else 0)
/-- The bytes of a word within its block. -/
def halfOf (wd : Nat) : BitVec 8 := if wd % 2 = 0 then 0x0F else 0xF0
/-- The pieces of a store to bytes of one block (R223, R224): one for the aligned doubleword, else one for each word. -/
def storeParts (m : BitVec 8) : List (BitVec 8) :=
  if m = 0xFF then [m] else [m &&& 0x0F, m &&& 0xF0].filter fun x => x != 0
/-- The core owns a word. -/
def State.owns (s : State) (c v wd : Nat) : Bool := (s.homeState v wd).owner == some c
/-- The core owns every one of the words. -/
def State.ownsAll (s : State) (c v : Nat) (l : List Nat) : Bool := l.all fun wd => s.owns c v wd
/-- Where the block of a Registered word lies, and its key: what the owner's accesses use, with no attribute buffer (R291). -/
def State.ownedAt (s : State) (v wd : Nat) : Nat × Nat :=
  match s.homeState v wd with
  | .registered _ ma kidx => (ma / 8 * 8, kidx)
  | _ => (0, 0)
/-- A word is Owner-lost. -/
def State.isLost (s : State) (v wd : Nat) : Bool := (s.homeState v wd).loser.isSome

/-- A wake has reached the core of a slot in a cycle: the shuttle is Ready, from the next cycle on (R127). -/
def Slot.wake (m : Slot) (now : Word) : Slot := { m with life := .ready, woken := false, wokeAt := some now }
/-- A wake reaches a slot: at once, or left on its way (R127). -/
def State.signal (s : State) (k : Nat) : State :=
  if (s.slot k).life = .waiting then
    if s.eager then s.updSlot k fun m => m.wake (s.coreCycle (k / 16))
    else s.updSlot k fun m => { m with woken := true }
  else s

/-- A counter of the shuttle in a slot has fallen, or a fault has been held for it: a wait on its counters is tested again (R30). -/
def State.counterFell (s : State) (k : Nat) : State :=
  match (s.slot k).wait with
  | some w => (match w.kind with | .cwait => s.signal k | .counter => s.signal k | _ => s)
  | none => s

/-- The state of a queue on a die (R317, R318). -/
def HostQueue.onDie (h : HostQueue) (d : Nat) : QueueState := SMap.get .running h.dies d
/-- Set the state of a queue on a die. -/
def HostQueue.setDie (h : HostQueue) (d : Nat) (x : QueueState) : HostQueue := { h with dies := SMap.put .running h.dies d x }
/-- A die that is Waiting at a WAIT reads its signal word again (R317). -/
def HostQueue.wakeDie (h : HostQueue) (d : Nat) : HostQueue := if h.onDie d = .waiting then h.setDie d .running else h

/-- A message of a VF from a core or slice to another is let through by the selvedge (R221). -/
def State.passes (s : State) (v src dst : Nat) : Bool := s.selvedgeOk (s.partOfVf v) src dst
/-- Deliver the wakes of a list of watchers (R217): a queue in Waiting runs again and re-reads its signal word; a die scheduler reads its
counter again, which it watches anew (R314). A wake that the selvedge of its watcher's section refuses does not arrive (R221).
DEDUCED, unsafe: log entry 88. -/
def State.deliver (s : State) (l : List Watch) : State :=
  l.foldl (fun t w => match w.who with
    | .slot k => if t.passes w.vf w.slice (k / 16) then t.signal k else t
    | .queue v q d => t.updVf v fun f => f.updQueue q fun h => h.wakeDie d
    | .die _ _ => { t with watches := t.watches.filter fun x => x.who != w.who }) s

/-- The home of a word sends a wake to every watcher of the word, marked lost where the word has become Owner-lost, and removes their
entries (R217). -/
def State.wake (s : State) (v wd : Nat) (lost : Bool) : State :=
  let of (w : Watch) : Bool := w.vf == v && w.word == wd && !w.fired
  if s.watches.any of then
    if s.eager then { s with watches := s.watches.filter fun w => !(of w) }.deliver (s.watches.filter of)
    else
      { s with order := s.order + 1
               watches := s.watches.map fun w => if of w then { w with fired := true, sent := s.order, lost := lost } else w }
  else s
/-- A value written at the home wakes every watcher of the word (R217). -/
def State.wakeWord (s : State) (v wd : Nat) : State := s.wake v wd false

/-- The word is watched (R217). -/
def State.watched (s : State) (v wd : Nat) : Bool := s.watches.any fun w => w.vf == v && w.word == wd && !w.fired

/-- Bytes of a block enter the coherence order of their words, and a whole unit loses its poison (R219, R225). -/
def State.append (s : State) (ma kidx : Nat) (data : Word) (m : BitVec 8) : State :=
  let t := (s.useKey ma kidx).writeMask ma data m
  if m = 0xFF then t.setPoison ma false else t

/-- f(old, d) of R156: min and max by ext. -/
def vamoFun (op : Nat) (signed : Bool) (old d : BitVec 32) : BitVec 32 :=
  let less (p q : BitVec 32) : Bool := if signed then p.slt q else p.ult q
  match op with
  | 0 => old + d
  | 1 => old &&& d
  | 2 => old ||| d
  | 3 => old ^^^ d
  | 4 => if less d old then d else old
  | 5 => if less old d then d else old
  | _ => d
/-- The element of a pin is performed on its core: its word is read and written in one step (R157). -/
def State.performPin (s : State) (c : Nat) (p : Pin) : State × Pin :=
  let blk := p.ma / 8 * 8
  let t := (s.markDirtyAt p.vf (dieOf c) (4 * p.wd)).useKey blk p.kidx
  let old := t.read32 p.ma
  let v : Word := zx (vamoFun p.op p.signed old p.operand)
  ((t.append blk p.kidx (if p.ma % 8 = 0 then v else v <<< 32) (if p.ma % 8 = 0 then 0x0F else 0xF0)).wakeWord p.vf p.wd,
    { p with old := some old })
/-- The elements of a list of pins that a test selects and that are not performed are performed, lowest first. -/
def State.performPins (s : State) (c : Nat) (q : Pin → Bool) : List Pin → State × List Pin
  | [] => (s, [])
  | p :: l =>
    let (t, p') := if p.old.isNone && q p then s.performPin c p else (s, p)
    let r := State.performPins t c q l
    (r.1, p' :: r.2)
/-- Before a core gives up words, it performs the elements of started vector atomics that hold them (R157). -/
def State.unpin (s : State) (c : Nat) (q : Pin → Bool) : State :=
  (List.range (slotCount c)).foldl (fun t i =>
    let k := 16 * c + i
    match (t.slot k).vrun with
    | some e =>
      if e.pins.isEmpty then t
      else
        let r := t.performPins c q e.pins
        r.1.updSlot k fun m => { m with vrun := some { e with pins := r.2 } }
    | none => t) s

/-- The home recalls a word from any other owner (R212, R214), which performs first what holds it there (R157). -/
def State.recall (s : State) (c v wd : Nat) : State :=
  match (s.homeState v wd).owner with
  | some o => if o = c then s
    else ((s.unpin o fun p => p.vf == v && p.wd == wd).count o 0x007 none).setHome v wd .unregistered
  | none => s

/-- A word lies in a line. -/
def L2Line.has (l : L2Line) (v wd : Nat) : Bool := l.vf == v && l.line == wd / 128
/-- A slice keeps the line: it holds a Registered, Owner-lost or watched word (R211). -/
def State.lineHeld (s : State) (l : L2Line) : Bool :=
  s.home.any (fun e => l.has (e.1 / 2 ^ 56) (e.1 % 2 ^ 56)) || s.watches.any fun w => l.has w.vf w.word
/-- The registrations of a line are recalled, and its watches are cleared with a wake (R211). -/
def State.releaseLine (s : State) (l : L2Line) : State :=
  let t := (s.home.map (·.1)).foldl (fun t k =>
    if l.has (k / 2 ^ 56) (k % 2 ^ 56) then t.recall 4096 l.vf (k % 2 ^ 56) else t) s
  ((t.watches.filter fun w => l.has w.vf w.word).map (·.word)).foldl (fun t wd => t.wakeWord l.vf wd) t
/-- The set of a slice, of its 128, in which a line lies (R211). -/
def lineSet (line : Nat) : Nat := Config.l2Set line % 128
/-- The lines of a slice in the set of a line, but for that line (R211). -/
def State.setPeers (s : State) (v line slice : Nat) : List L2Line :=
  s.l2.filter fun l => l.slice == slice && !(l.vf == v && l.line == line) && lineSet l.line == lineSet line
/-- A line leaves its slice. The Owner-lost states of its words stay with the home (R219). -/
def State.dropLine (s : State) (l : L2Line) : State := { s with l2 := s.l2.filter fun x => x != l }
/-- Of lines that a slice keeps, newest first, the one that gives way: it is released (R211); one that holds Owner-lost words, which no release
ends, only where all do, and it leaves the slice. DESIGN CHOICE, unsafe: log entry 16. -/
def State.giveWay (s : State) (held : List L2Line) : State :=
  let lost (l : L2Line) : Bool := s.home.any fun e => l.has (e.1 / 2 ^ 56) (e.1 % 2 ^ 56) && e.2.loser.isSome
  match (held.filter fun l => !(lost l)).getLast? with
  | some l => s.releaseLine l
  | none => match held.getLast? with
    | some l => (s.releaseLine l).dropLine l
    | none => s
/-- Before a registration or watch: a thirteenth line held in a set first releases the line there that was registered least recently
(R211). -/
def State.roomFor (s : State) (v line slice : Nat) : State :=
  if s.l2.length < 12 then s
  else
    let held := (s.setPeers v line slice).filter s.lineHeld
    if held.length < 12 then s else s.giveWay held
/-- A line that is to be allocated in a full set of 16 ways takes the place of the oldest line there that the slice need not keep
(R206, R211). -/
def State.l2Victim (s : State) (v line slice : Nat) : State :=
  if s.l2.length < 16 then s
  else
    let peers := s.setPeers v line slice
    if peers.length < 16 then s
    else
      let free (t : State) : Option L2Line := (peers.filter fun l => t.l2.contains l && !(t.lineHeld l)).getLast?
      match free s with
      | some l => s.dropLine l
      | none => let t := s.giveWay peers; match free t with
        | some l => t.dropLine l
        | none => t
/-- The sectors of the aligned grain of n bytes that holds an address (R206, R207). -/
def sectorMask (va n : Nat) : BitVec 16 := BitVec.ofNat 16 ((2 ^ (n / 32) - 1) * 2 ^ (va % 512 / n * n / 32))
/-- An event of a slice is counted, where the slice's core runs the VF whose request it is (R358). -/
def State.countSlice (s : State) (v slice code : Nat) : State := if (s.core slice).ctx.vf = v then s.count slice code none else s
/-- A request reaches an L2 slice: a hit or a miss is counted, and the grain's sectors of the line are then valid (R206, R207). A line of
another tenant leaves first (R206). `front` says that the request registers the line (R211). A counter counts only what bears the
tag of its own VF (R358). DESIGN CHOICE, unsafe: log entry 16. -/
def State.touchL2 (s : State) (v va slice grain : Nat) (front : Bool) : State :=
  let line := va / 512
  let m := sectorMask va grain
  let own (t : State) (code : Nat) : State := t.countSlice v slice code
  match s.l2.find? fun l => l.line == line && l.slice == slice with
  | some l =>
    if l.vf = v then
      let t := own s (if l.sectors &&& m = m then 0x010 else 0x011)
      let l' : L2Line := { l with sectors := l.sectors ||| m }
      if front then { t with l2 := l' :: t.l2.filter fun x => x != l }
      else if l' = l then t
      else { t with l2 := t.l2.map fun x => if x = l then l' else x }
    else
      let t := own (s.releaseLine l) 0x011
      { t with l2 := { vf := v, line := line, slice := slice, sectors := m } :: t.l2.filter fun x => x != l }
  | none =>
    let t := own (s.l2Victim v line slice) 0x011
    { t with l2 := { vf := v, line := line, slice := slice, sectors := m } :: t.l2 }
/-- A home slice keeps the line of a word that comes to be watched (R211). -/
def State.keepLine (s : State) (v line slice : Nat) : State :=
  let t := s.roomFor v line slice
  if t.l2.any fun l => l.vf == v && l.line == line && l.slice == slice then t
  else
    let u := t.l2Victim v line slice
    { u with l2 := { vf := v, line := line, slice := slice, sectors := 0 } :: u.l2 }

/-- The PLB entry of a region is used, by a write-back of a core (R287). -/
def State.plbUse (s : State) (v c va : Nat) : State :=
  match s.plbLookup { vf := v, core := c, mode := .u, agent := 0 } (va / 2 ^ 26) with
  | some (t, _) => t
  | none => s
/-- The slice that a VF's line is homed at: the one that holds it, or the core itself where none does. -/
def State.lineSlice (s : State) (c v line : Nat) : Nat :=
  match s.l2.find? fun l => l.vf == v && l.line == line with | some l => l.slice | none => c
/-- Some words of a core leave it: the Valid copies are dropped, and the Registered words are written back to the home (R214, R225), but for
a write-back that the selvedge refuses, whose words stay (R221). DEDUCED, unsafe: log entry 88. -/
def State.evictWords (s : State) (c v line : Nat) (which : Nat → Bool) : State :=
  let inside (wd : Nat) : Bool := wd / 128 == line && which wd
  let owned (e : Nat × HomeState) : Bool := e.1 / 2 ^ 56 == v && inside (e.1 % 2 ^ 56) && e.2.owner == some c
  let t := s.updCore c fun k => { k with l1 := k.l1.keep fun wd => !(inside wd) }
  if t.home.any owned && t.passes v c (t.lineSlice c v line) then
    let u := (t.unpin c fun p => p.vf == v && inside p.wd).plbUse v c (512 * line)
    { u with home := u.home.filter fun e => !(owned e) }
  else t
/-- Drop a core's copies of a line, and write its Registered words back to the home (R214, R206). -/
def State.evictLine (s : State) (c v line : Nat) : State := s.evictWords c v line fun _ => true
/-- Units are taken from the L1 of a vector core, n in all now: the lines that lie in them leave it (R137). -/
def State.takeUnits (s : State) (c n : Nat) : State :=
  let v := (s.core c).ctx.vf
  let own := s.home.filterMap fun e => if e.2.owner == some c then some (e.1 / 2 ^ 56, e.1 % 2 ^ 56 / 128) else none
  let lines : List (Nat × Nat) := own ++ ((s.core c).l1.map fun e => (v, e.1 / 128))
  lines.eraseDups.foldl
    (fun t l => if Config.l1Taken c l.1 l.2 n then t.evictLine c l.1 l.2 else t) s

/-- Drop a core's Valid copies of some words. -/
def State.dropValid (s : State) (c : Nat) (l : List Nat) : State :=
  s.updCore c fun k => { k with l1 := k.l1.filter fun e => !(l.contains e.1) }
/-- Discard (R225) but for the words that an acquire load has just read, which stay Valid (R216). -/
def State.discardBut (s : State) (c : Nat) (mode : Option Mode) (keep : List Nat) : State :=
  (s.updCore c fun k =>
    { k with l1 := k.l1.filter fun e => keep.contains e.1, l1apart := k.l1apart.filter fun b => keep.contains (2 * b) }).count c 0x008 mode
/-- Discard (R225): every Valid word of the core is dropped. -/
def State.discard (s : State) (c : Nat) (mode : Option Mode) : State := s.discardBut c mode []

/-- The home grants a core the words of a block that a mask touches, and the bytes, if there are any, are merged (R212): the core owns
them, unless a word is watched, which is written back at once and wakes its watchers if it was written (R217). -/
def State.grant (s : State) (c v blk ma kidx : Nat) (data : Word) (m : BitVec 8) (writes : Bool) : State :=
  let ws := wordsOf blk m
  let s1 := ws.foldl (fun t wd => (t.recall c v wd).setHome v wd (.registered c (ma + 4 * (wd % 2)) kidx)) s
  let s2 := (if writes then s1.append ma kidx data m else s1).dropValid c ws
  ws.foldl (fun t wd =>
    if t.watched v wd then
      let u := t.setHome v wd .unregistered
      if writes then u.wakeWord v wd else u
    else t) s2

/-- The cause of a refused store, if the home refuses it: an Owner-lost word, or a poisoned unit written in part (R218, R219). For agents 2
and 5 R88 has no code for the second but that of poisoned data read. DESIGN CHOICE, unsafe: log entry 68. -/
def State.storeRefusal (s : State) (v blk ma agent : Nat) (m : BitVec 8) : Option (BitVec 10) :=
  if (wordsOf blk m).any (s.isLost v) then some (cause 6 agent 1)
  else if s.poisoned ma ∧ m ≠ 0xFF then some (cause 0xC agent (if agent = 2 ∨ agent = 5 then 0 else 1))
  else none

/-- A refusal is held for the shuttle that made the store (R218). DEDUCED, unsafe: log entry 65. -/
def State.refuse (s : State) (e : StoreEntry) (c : BitVec 10) : State :=
  s.updSlot e.shid fun m => { m with refused := m.refused ++ [{ cause := c, addr := e.addr, words := wordsOf e.block e.mask }] }
/-- A store waits: an earlier store of its shuttle to the same word has been refused, and the trap has not been taken (R218). -/
def State.heldBack (s : State) (e : StoreEntry) : Bool :=
  (s.slot e.shid).refused.any fun r => (wordsOf e.block e.mask).any r.words.contains
/-- The cause of a message of a core to the home of a block that the selvedge refuses, on its way or on the way from the home to an owner of
the words (R221): R88 has no selvedge code for agent 2. -/
def State.routeCause (s : State) (v c slice blk agent : Nat) (m : BitVec 8) : Option (BitVec 10) :=
  let far (wd : Nat) : Bool := match (s.homeState v wd).owner with | some o => o != c && !(s.passes v slice o) | none => false
  if !(s.passes v c slice) || (wordsOf blk m).any far then some (cause 2 (if agent = 2 then 0 else agent) 5) else none

/-- A window address names a scratchpad's block (R205): its bytes are written there; the full/empty bit stays, poison goes (R140). -/
def CoreCtx.putScratch (c : CoreCtx) (blk : Nat) (data : Word) (m : BitVec 8) : CoreCtx :=
  { c with
    scratch := (List.range 8).foldl
      (fun t i => if m.getLsbD i then SMap.put 0 t (8 * blk + i) (byteAt data i) else t) c.scratch
    spoison := SMap.put false c.spoison blk false }
/-- The bytes of a scratchpad's 8-byte block (R205). -/
def CoreCtx.scratchBlock (c : CoreCtx) (blk : Nat) : Word := wordOf8 fun i => SMap.get 0 c.scratch (8 * blk + i)

/-- A buffered store that is not registered is performed where its page or window has it done (R205, R220, R237). -/
def State.performStore (s : State) (e : StoreEntry) : State :=
  let v := (s.slot e.shid).vf
  if e.pol = 4 then s.updCtx (windowCore (8 * e.block)) fun x => x.putScratch (windowOff (8 * e.block) / 8) e.data e.mask
  else match s.storeRefusal v e.block e.ma e.agent e.mask with
    | some c => s.refuse e c
    | none =>
      let t := (if e.pol = 1 then s.touchL2 v (8 * e.block) e.slice e.grain false else s).append e.ma e.kidx e.data e.mask
      if e.pol = 1 then (wordsOf e.block e.mask).foldl (fun t wd => t.wakeWord v wd) t else t

/-- A store to words that the core owns is merged into their latest values, with no message, or refused (R212, R219). -/
def State.applyOwned (s : State) (c v : Nat) (e : StoreEntry) : State :=
  let at_ := s.ownedAt v ((wordsOf e.block e.mask).headD 0)
  match s.storeRefusal v e.block at_.1 e.agent e.mask with
  | some cs => s.refuse e cs
  | none => (s.markDirtyAt v (dieOf c) (8 * e.block)).append at_.1 at_.2 e.data e.mask
/-- An entry of a core's buffer is gone: a store that waits for room there is tried again (R212). -/
def State.roomMade (s : State) (c : Nat) : State :=
  (List.range (slotCount c)).foldl (fun t i => match (t.slot (16 * c + i)).wait with
    | some w => if w.kind = .storeBuffer then t.signal (16 * c + i) else t
    | none => t) s
/-- The Register step of one buffer entry that has been taken from the buffer (R225, R212): words that the core has come to own take it with
no request. `counted` says that it has a request of its own (R207). -/
def State.registerAs (s0 : State) (c : Nat) (e : StoreEntry) (counted : Bool) : State :=
  let v := (s0.slot e.shid).vf
  let s := if e.vseq = 0 then s0 else s0.counterFell e.shid
  if e.pol ≠ 0 then s.performStore e
  else
    let s := (s.roomMade c).plbUse v c (8 * e.block)
    if s.ownsAll c v (wordsOf e.block e.mask) then s.applyOwned c v e
    else
      let s := if counted then s.count c 0x006 (some (s.slot e.shid).sh.mode) else s
      match (s.routeCause v c e.slice e.block e.agent e.mask).or (s.storeRefusal v e.block e.ma e.agent e.mask) with
      | some cs => s.refuse e cs
      | none =>
        let s1 := if counted then s.countSlice v e.slice 0x012 else s
        let s2 := s1.roomFor v (e.block / 64) e.slice
        let s3 := if counted then s2.touchL2 v (8 * e.block) e.slice e.grain true else s2
        s3.grant c v e.block e.ma e.kidx e.data e.mask true
/-- The Register step of one entry, by a request of its own. -/
def State.register (s : State) (c : Nat) (e : StoreEntry) : State := s.registerAs c e true

/-- Accesses to a page of this policy at this machine address are performed in the shuttle's program order: those to a device page, and those
to a page of a fabric window (R220, R399). -/
def inPageOrder (pol ma : Nat) : Bool := pol == 3 || (pol == 2 && inFabric ma)
/-- The entry is of one shuttle and of the page of a block, whose accesses keep their order (R220, R399). -/
def StoreEntry.onPage (e : StoreEntry) (k blk : Nat) : Bool := inPageOrder e.pol e.ma && e.shid == k && e.block / 8192 == blk / 8192
/-- Two entries that are performed in buffer order (R225, R220, R399): of one word, or of one shuttle on one page that keeps the order. -/
def StoreEntry.ordered (a b : StoreEntry) : Bool :=
  (a.block == b.block && wordMask a.mask &&& wordMask b.mask != 0) || (inPageOrder a.pol a.ma && b.onPage a.shid a.block)
/-- The entry touches words of a mask of a block. -/
def StoreEntry.touches (e : StoreEntry) (blk : Nat) (m : BitVec 8) : Bool := e.block == blk && wordMask e.mask &&& wordMask m != 0
/-- Of a buffer, newest first: the entries that satisfy p and those that must be performed before them, oldest first. -/
def toRegister (p : StoreEntry → Bool) : List StoreEntry → List StoreEntry → List StoreEntry
  | [], acc => acc
  | e :: l, acc => toRegister p l (if p e || acc.any (e.ordered ·) then e :: acc else acc)
/-- Register entries in turn. One that a refused store holds back stays in the buffer, and so does what must come behind it (R218). -/
def State.registerEach (s : State) (c : Nat) (stay : List StoreEntry) : List StoreEntry → State
  | [] => s
  | e :: l =>
    if s.heldBack e || stay.any (·.ordered e) then State.registerEach s c (e :: stay) l
    else State.registerEach ((s.updCore c fun k => { k with sbuf := k.sbuf.erase e }).register c e) c stay l
/-- Register the entries of a core's buffer that satisfy p, each behind those that must go before it (R225). -/
def State.registerWhere (s : State) (c : Nat) (p : StoreEntry → Bool) : State :=
  s.registerEach c [] (toRegister p (s.core c).sbuf.reverse [])
/-- Register the entry of a core's buffer at a place, if nothing older must go before it (R225). With `whole`, the request carries the
oldest entry of every other word of its grain too (R207). -/
def State.registerAt (s : State) (c i : Nat) (whole : Bool) : State :=
  match (s.core c).sbuf[i]? with
  | none => s
  | some e =>
    let take (t : State) (e : StoreEntry) (counted : Bool) : State :=
      (t.updCore c fun k => { k with sbuf := k.sbuf.erase e }).registerAs c e counted
    let first (t : State) (e : StoreEntry) : Bool :=
      (toRegister (· == e) (t.core c).sbuf.reverse []).head? == some e && !(t.heldBack e)
    if first s e then
      let others := if whole && e.pol == 0 then (s.core c).sbuf.filter fun x =>
          x.pol == 0 && x != e && !(x.ordered e) && x.block * 8 / e.grain == e.block * 8 / e.grain && first s x else []
      others.foldl (fun t x => take t x false) (take s e true)
    else s
/-- The oldest entries of a core's buffer whose words it owns are applied, in buffer order, and leave the buffer (R212 step 3). -/
def State.applyLater (s : State) (c : Nat) : Nat → State
  | 0 => s
  | n + 1 =>
    match (s.core c).sbuf.find? fun e => e.pol == 0 && s.ownsAll c (s.slot e.shid).vf (wordsOf e.block e.mask) && !(s.heldBack e)
        && (toRegister (· == e) (s.core c).sbuf.reverse []).head? == some e with
    | some e => State.applyLater ((s.updCore c fun k => { k with sbuf := k.sbuf.erase e }).register c e) c n
    | none => s
/-- Drain a core's whole buffer to the homes, oldest first (R139). A store that a refused one holds back is refused with it.
DESIGN CHOICE, unsafe: log entry 65. -/
def State.registerAll (s : State) (c : Nat) : State :=
  let t := s.registerWhere c fun _ => true
  (t.core c).sbuf.foldl (fun t e =>
    let cs := match (t.slot e.shid).refused with | r :: _ => r.cause | [] => cause 6 e.agent 1
    (t.updCore c fun k => { k with sbuf := k.sbuf.erase e }).refuse e cs) t

/-- The release of a slot's earlier stores (R229): every one has registered, or been performed. -/
def State.releaseSlot (s : State) (k : Nat) : State := s.registerWhere (k / 16) fun e => e.shid == k

/-- The entries of a core's buffer for a block that a slot may see (R226): those of pages that are not registered are seen by nobody. -/
def State.visible (s : State) (c k blk : Nat) : List StoreEntry :=
  (s.core c).sbuf.filter fun e => e.block == blk && e.pol == 0 && (classOf c == .vector || e.shid == k)

/-- Merge entries over a value, youngest last. -/
def overlay (l : List StoreEntry) (v : Word) : Word := l.foldl (fun a e => mergeBytes a e.data e.mask) v
/-- The bytes that entries write. -/
def covered (l : List StoreEntry) : BitVec 8 := l.foldl (fun a e => a ||| e.mask) 0

/-- Install Valid words of one 8-byte unit in a core's L1, all at one instant (R215, R224, R225): both, or the one chosen; a copy of the other
word that the core holds already is then of another instant. -/
def State.installWords (s : State) (c v blk ma : Nat) (js : List Nat) : State :=
  if s.poisoned ma then s
  else (js.foldl (fun t j =>
    let wd := 2 * blk + j
    if t.owns c v wd || t.isLost v wd then t
    else t.updCore c fun k =>
      { k with l1 := SMap.put none k.l1 wd (some (t.read32 (ma + 4 * j))), l1bad := k.l1bad.filter fun x => x != wd }) s).updCore c
    fun k => { k with l1apart := if js.length = 1 then blk :: k.l1apart.filter fun b => b != blk else k.l1apart.filter fun b => b != blk }
/-- Install the Valid words of one 8-byte unit in a core's L1, both at one instant (R215, R224). -/
def State.installUnit (s : State) (c v blk ma : Nat) : State := s.installWords c v blk ma [0, 1]

/-- Bytes of a grain (R207). -/
def grainBytes (leaf : Word) : Nat := match bitsOf leaf 6 5 with | 0 => 32 | 1 => 128 | _ => 512

/-- Fill the naturally aligned grain that holds a block (R207, R215). Unrelated bytes, read under another key than the frame's (R351), are
not kept. -/
def State.fillGrain (s : State) (c v blk ma kidx : Nat) (leaf : Word) : State :=
  if s.foreign ma kidx then s else
  let n := grainBytes leaf / 8
  (List.range n).foldl (fun t i =>
    t.installUnit c v (blk / n * n + i) (ma / (8 * n) * (8 * n) + 8 * i)) s

/-- An access meets a fabric window with no link up (R398). -/
def State.linkCause (s : State) (ma agent pol : Nat) : Option (BitVec 10) :=
  if inFabric ma && !(s.windowUp (windowOf ma)) then
    some (if pol = 2 then cause 0xC agent 0 else cause 4 agent 0)
  else none

/-- Where an access that leaves the core for bytes of the block of an address is performed: its leaf, home slice and machine address, after
the attribute, selvedge and link checks (R221, R291, R398). -/
def State.reach (s : State) (w : Who) (acc : Access) (va : Nat) (need : BitVec 8) : Res (AtbEntry × Nat × Nat) :=
  (s.atbCheck w acc va).bind fun s e =>
    let tv : Word := BitVec.ofNat 64 va
    match s.homeOf w.vf e.leaf va with
    | none => .fault s (cause 3 w.agent 5) tv
    | some sl =>
      let ipa := leafIpa e.leaf e.level va
      match s.rangeOf w.vf ipa with
      | none => .fault s (cause 3 w.agent 3) tv
      | some r =>
        let ma := r.mbase + (ipa - r.base)
        match (if ptePol e.leaf < 2 then s.routeCause w.vf w.core sl (va / 8) w.agent need else none).or
            (s.linkCause ma w.agent (ptePol e.leaf)) with
        | some c => .fault s c tv
        | none => .ok s (e, sl, ma)

/-- The value of a block at its home, for the bytes needed: Owner-lost words and poisoned units raise their causes (R218, R219). -/
def State.homeValue (s : State) (w : Who) (va blk ma kidx : Nat) (need : BitVec 8) : Res Word :=
  let tv : Word := BitVec.ofNat 64 va
  if (wordsOf blk need).any (s.isLost w.vf) then .fault s (cause 6 w.agent 0) tv
  else if s.poisoned ma then .fault s (cause 0xC (if w.agent = 3 then 3 else w.agent) 0) tv
  else .ok (s.readKey ma kidx).1 (s.readKey ma kidx).2

/-- The cause of a read of a word of the core store that has failed its check: 0xC.1.4 for the vector unit, 0xC.3.4 in the host's fault
field (R88, R386), else 0xC.0.4 (R140). R140 names 0xC.0.4 for a scratchpad read and R386 the reader's own agent. DESIGN CHOICE, unsafe: log
entry 98. -/
def Who.storeError (w : Who) : BitVec 10 := cause 0xC (if w.agent = 1 ∨ w.agent = 3 then w.agent else 0) 4

/-- What the buffer gives a load by the shuttle of slot k of bytes of one block (R226 source 1): a word that visible entries cover is
taken from them; for one that they cover in part the load waits until the youngest of them has registered, and takes the other bytes
from the merged word; the entry registers here in the same step. The result: the state, the bytes of the words so obtained, their values,
and whether a merged word is among them. DESIGN CHOICE, safe: log entry 82. -/
def State.fromBuffer (s : State) (w : Who) (k blk : Nat) (need : BitVec 8) : State × BitVec 8 × Word × Bool :=
  let vis := s.visible w.core k blk
  if vis.isEmpty then (s, 0, 0, false)
  else (wordsOf blk need).foldl (fun r wd =>
    let h := halfOf wd
    let mine := vis.filter fun e => e.mask &&& h != 0
    match mine.getLast? with
    | none => r
    | some last =>
      if need &&& h &&& ~~~(covered mine) = 0 then (r.1, r.2.1 ||| h, mergeBytes r.2.2.1 (overlay mine 0) h, r.2.2.2)
      else
        let t := r.1.registerWhere w.core fun e => mine.contains e
        let at_ := if t.owns w.core w.vf wd then t.ownedAt w.vf wd else (last.ma, last.kidx)
        if t.isLost w.vf wd || t.poisoned at_.1 then (t, r.2.1, r.2.2)
        else
          let x := t.readKey at_.1 at_.2
          (x.1, r.2.1 ||| h, mergeBytes r.2.2.1 (overlay mine x.2) h, true)) (s, 0, 0, false)

/-- A word's copy in the core: its Registered value, else its Valid copy unless it must not be used (R226 sources 2 and 3); none where the
core holds neither. A copy that has failed its check is an error (R140). -/
def State.ownCopy (s : State) (c v wd : Nat) (acq : Bool) : Option (Except Unit (BitVec 32)) :=
  if s.owns c v wd then
    let at_ := s.ownedAt v wd
    some (if s.poisoned at_.1 then .error () else .ok (s.read32 (at_.1 + 4 * (wd % 2))))
  else if acq then none
  else match SMap.get none (s.core c).l1 wd with
    | none => none
    | some x => some (if (s.core c).l1bad.contains wd then .error () else .ok x)

/-- The part of a load that the buffer does not give: bytes of one block by the shuttle of slot k (R226 sources 2 to 4, R216). The words
of an aligned doubleword are read at one instant: both Registered, both Valid since one instant, or both at the home (R224). -/
def State.loadWords (s : State) (w : Who) (k blk : Nat) (need : BitVec 8) (acq : Bool) (va : Nat)
    (dev : Option (BitVec 10)) : Res Word :=
  let ws := wordsOf blk need
  let tv : Word := BitVec.ofNat 64 va
  let both := s.owns w.core w.vf (2 * blk) && s.owns w.core w.vf (2 * blk + 1)
  let split := need == 0xFF && !both &&
    ((s.core w.core).l1apart.contains blk || s.owns w.core w.vf (2 * blk) || s.owns w.core w.vf (2 * blk + 1))
  let held (wd : Nat) := if split then none else s.ownCopy w.core w.vf wd acq
  let here := ws.filter fun wd => (held wd).isSome
  let here := if need = 0xFF ∧ here.length < 2 then [] else here
  if here.any fun wd => (held wd) matches some (.error ()) then .fault s w.storeError tv
  else
    let v0 : Word := here.foldl (fun v wd => match held wd with
      | some (.ok x) => v ||| (zx x <<< (32 * (wd % 2)))
      | _ => v) 0
    let rest := need &&& ~~~((if here.contains (2 * blk) then (0x0F : BitVec 8) else 0) ||| (if here.contains (2 * blk + 1) then 0xF0 else 0))
    if rest = 0 then .ok s v0
    else
      (s.reach w .load va rest).bind fun s (e, sl, ma0) =>
        let ma := ma0 / 8 * 8
        match (if ptePol e.leaf = 3 then dev else none) with
        | some c => .fault s c tv
        | none =>
          let s := s.registerWhere w.core fun x => x.shid == k && x.pol != 0 &&
            (x.block == blk || (x.onPage k blk && inPageOrder (ptePol e.leaf) ma))
          let s := if ptePol e.leaf = 0 then s.count w.core 0x005 (some w.mode) else s
          let s := if ptePol e.leaf < 2 then s.touchL2 w.vf va sl (grainBytes e.leaf) false else s
          (s.homeValue w va blk ma e.kidx rest).bind fun s v =>
            .ok (if ptePol e.leaf = 0 then s.fillGrain w.core w.vf blk ma e.kidx e.leaf else s) (mergeBytes v0 v (wordMask rest))

/-- A load of bytes of one 8-byte block by the shuttle of slot k on core w.core (R226, R216): where one word of an aligned doubleword is a
merged word, the other is read at the same instant (R224). The PLB check has passed. `dev` is the cause to raise if the page has the
device policy (R63). -/
def State.loadBlock (s : State) (w : Who) (k blk : Nat) (need : BitVec 8) (acq : Bool) (va : Nat)
    (dev : Option (BitVec 10)) : Res Word :=
  let (s, got, v, merged) := s.fromBuffer w k blk need
  let rest := need &&& ~~~got
  if rest = 0 then .ok s v
  else (s.loadWords w k blk rest (acq || (merged && need == 0xFF)) va dev).bind fun s u => .ok s (mergeBytes u v got)

/-- A store of bytes of a block would exceed the 64 requests that a core's buffer holds outstanding, and waits (R212). -/
def State.noRoom (s : State) (w : Who) (blk : Nat) (m : BitVec 8) : Bool :=
  let va := 8 * blk
  let buf := (s.core w.core).sbuf
  if s.eager || w.mode == .m || isWindow va || isReservedVa va || buf.length + (storeParts m).length ≤ 64 then false
  else
    decide (64 < (buf.filter fun e => e.pol == 0).length + (storeParts m).length)
      && !(s.ownsAll w.core w.vf (wordsOf blk m) && !(buf.any fun x => x.touches blk m))
      && (match s.locate w.vf (dieOf w.core) va with | some (e, _, _) => ptePol e == 0 | none => false)
/-- The buffer takes at most 64 requests of cached pages (R212): before a store that has been held behind vector work and commits there, older
entries register in the same step. DESIGN CHOICE, safe: log entry 82. -/
def State.bufferRoom (s : State) (c : Nat) : State :=
  let l := (s.core c).sbuf.filter fun e => e.pol == 0
  if l.length < 64 then s else s.registerWhere c fun e => (l.take (l.length - 63)).contains e
/-- What a shuttle's loads have taken ahead of bytes of a block is forgotten: an access of its own to them comes first (R77, R228). -/
def Slot.dropEarly (m : Slot) (blk : Nat) (mask : BitVec 8) : Slot :=
  if m.early.isEmpty then m
  else { m with early := (m.early.keep fun key => key != 4 * blk + 1).keep fun key => !((wordsOf blk mask).any fun wd => key == 2 * wd) }
/-- COMMIT of one piece of a store (R225): into a word that the core owns and the buffer holds no entry of; else into the buffer. -/
def State.commitPart (s0 : State) (c : Nat) (e : StoreEntry) : State :=
  let s := if (s0.slot e.shid).early.isEmpty then s0 else s0.updSlot e.shid fun m => m.dropEarly e.block e.mask
  let v := (s.slot e.shid).vf
  let ws := wordsOf e.block e.mask
  if e.pol = 0 && s.ownsAll c v ws && !((s.core c).sbuf.any fun x => x.touches e.block e.mask) && !(s.heldBack e) then
    s.applyOwned c v e
  else
    let t := (if e.pol = 0 then s.bufferRoom c else s).updCore c fun x => { x with sbuf := x.sbuf ++ [e] }
    if t.eager then t.registerWhere c fun x => x == e else t
/-- A store takes effect, word by word (R130, R138, R225). -/
def State.commitStore (s : State) (c : Nat) (e : StoreEntry) : State :=
  (storeParts e.mask).foldl (fun t m => t.commitPart c { e with mask := m }) s

/-- The checks of a store of bytes of one 8-byte block (R212, R220), behind the PLB check: what will commit, and the attribute entry of a
store that leaves the core. Only such a store consults the attribute buffer (R291). -/
def State.storeEntry (s : State) (w : Who) (k blk : Nat) (data : Word) (m : BitVec 8) (va : Nat)
    (dev : Option (BitVec 10)) : Res (StoreEntry × Option AtbEntry) :=
  let tv : Word := BitVec.ofNat 64 va
  let ent : StoreEntry := { shid := k, block := blk, data := data, mask := m, addr := tv, agent := w.agent, vseq := w.vseq }
  let ws := wordsOf blk m
  if s.ownsAll w.core w.vf ws && !((s.core w.core).sbuf.any fun x => x.touches blk m) then
    let at_ := s.ownedAt w.vf (ws.headD 0)
    .ok s ({ ent with ma := at_.1, kidx := at_.2 }, none)
  else
    (s.reach w .store va m).bind fun s (e, sl, ma0) =>
      match (if ptePol e.leaf = 3 then dev else none) with
      | some c => .fault s c tv
      | none =>
        .ok s ({ ent with slice := sl, ma := ma0 / 8 * 8, kidx := e.kidx, grain := grainBytes e.leaf, pol := ptePol e.leaf }, some e)
/-- The page at an address keeps the order of a shuttle's accesses (R220, R399). -/
def State.pageOrdered (s : State) (w : Who) (va : Nat) : Bool :=
  if isWindow va || isReservedVa va then false
  else match s.locate w.vf (dieOf w.core) va with | some (e, ma, _) => inPageOrder (ptePol e) ma | none => false
/-- What a store that has passed its checks does when it takes effect (R225 Commit, R293). -/
def State.commitChecked (s : State) (c : Nat) (e : StoreEntry) (leaf : Option AtbEntry) : State :=
  (match leaf with | some l => s.markDirty l | none => s).commitStore c e
/-- A store of bytes of one 8-byte block takes effect. The PLB check has passed. The bytes of a word change in one step, also where a
misaligned access promises no more than each byte (R63, R224). DESIGN CHOICE, unsafe: log entry 70. -/
def State.storeBlock (s : State) (w : Who) (k blk : Nat) (data : Word) (m : BitVec 8) (va : Nat)
    (dev : Option (BitVec 10)) : Res Unit :=
  (s.storeEntry w k blk data m va dev).bind fun s x => .ok (s.commitChecked w.core x.1 x.2) ()

/-- One indivisible read-modify-write of the bytes m of a block by the shuttle of slot k (R227, R245): f gives the new block, or nothing to
append. -/
def State.atomicBlock (s : State) (w : Who) (k blk : Nat) (m : BitVec 8) (va : Nat) (f : Word → Option Word) : Res Word :=
  let s := s.registerWhere w.core fun e => e.touches blk m
  let ws := wordsOf blk m
  let tv : Word := BitVec.ofNat 64 va
  if s.ownsAll w.core w.vf ws then
    let at_ := s.ownedAt w.vf (ws.headD 0)
    if s.poisoned at_.1 then .fault s w.storeError tv
    else
      let (s, old) := s.rmwKey at_.1 at_.2 f
      .ok (match f old with | some nv => (s.markDirtyAt w.vf (dieOf w.core) va).append at_.1 at_.2 nv m | none => s) old
  else
    (s.reach w .atomic va m).bind fun s (e, sl, ma0) =>
      let ma := ma0 / 8 * 8
      let s := if inPageOrder (ptePol e.leaf) ma then s.registerWhere w.core fun x => x.onPage k blk else s
      if ws.any (s.isLost w.vf) then .fault s (cause 6 w.agent 2) tv
      else if s.poisoned ma then .fault s (cause 0xC w.agent 0) tv
      else
        let (s, old) := (ws.foldl (fun t wd => t.recall w.core w.vf wd) s).rmwKey ma e.kidx f
        let s := if (f old).isSome then s.markDirty e else s
        let nv := (f old).getD old
        if ptePol e.leaf = 0 then
          let t := (s.count w.core 0x006 (some w.mode)).countSlice w.vf sl 0x012
          let t := (t.roomFor w.vf (blk / 64) sl).touchL2 w.vf va sl (grainBytes e.leaf) true
          .ok (t.grant w.core w.vf blk ma e.kidx nv m (f old).isSome) old
        else
          let t := if ptePol e.leaf = 1 then s.touchL2 w.vf va sl (grainBytes e.leaf) false else s
          let t := if (f old).isSome then t.append ma e.kidx nv m else t
          .ok (if ptePol e.leaf = 1 ∧ (f old).isSome then ws.foldl (fun t wd => t.wakeWord w.vf wd) t else t) old

/-- A read of a block at its home by an engine, a die scheduler or the host, checked and with no copy left (R233, R304, R343). -/
def State.homeRead (s : State) (w : Who) (blk : Nat) (need : BitVec 8) (va : Nat) : Res Word :=
  (s.plbCheck w .load va).bind fun s _ =>
    (s.reach w .load va need).bind fun s (e, sl, ma0) =>
      ((if ptePol e.leaf < 2 then s.touchL2 w.vf va sl (grainBytes e.leaf) false else s).homeValue
        w va blk (ma0 / 8 * 8) e.kidx need).bind fun s v => .ok (s.noteAccess w .load va w.isHost) v

/-- A write of bytes of a block at its home by an engine, a die scheduler or the host: the word is recalled, merged and left
Unregistered (R233, R304, R343). A refusal is the agent's own cause. -/
def State.homeWrite (s : State) (w : Who) (blk : Nat) (data : Word) (m : BitVec 8) (va : Nat) : Res Unit :=
  (s.plbCheck w .store va).bind fun s _ =>
    (s.reach w .store va m).bind fun s (e, sl, ma0) =>
      let ma := ma0 / 8 * 8
      let ws := wordsOf blk m
      match s.storeRefusal w.vf blk ma w.agent m with
      | some c => .fault s c (BitVec.ofNat 64 va)
      | none =>
        let s := (if ptePol e.leaf < 2 then (s.markDirty e).touchL2 w.vf va sl (grainBytes e.leaf) false else s.markDirty e).noteAccess
          w .store va w.isHost
        let t := (ws.foldl (fun t wd => t.recall 4096 w.vf wd) s).append ma e.kidx data m
        .ok (if ptePol e.leaf < 2 then ws.foldl (fun t wd => t.wakeWord w.vf wd) t else t) ()

/-- One read-modify-write of an aligned doubleword at its home by an engine, a die or firmware. R88 has no owner-lost atomic for the
collective engine, whose cause is that of a store. DESIGN CHOICE, unsafe: log entry 68. -/
def State.homeAtomic (s : State) (w : Who) (va : Nat) (f : Word → Option Word) : Res Word :=
  (s.plbCheck w .atomic va).bind fun s _ =>
    (s.reach w .atomic va 0xFF).bind fun s (e, sl, ma0) =>
      let ma := ma0 / 8 * 8
      let ws := wordsOf (va / 8) 0xFF
      if ws.any (s.isLost w.vf) then .fault s (cause 6 w.agent (if w.agent = 5 then 1 else 2)) (BitVec.ofNat 64 va)
      else if s.poisoned ma then .fault s (cause 0xC w.agent 0) (BitVec.ofNat 64 va)
      else
        let s := if ptePol e.leaf < 2 then s.touchL2 w.vf va sl (grainBytes e.leaf) false else s
        let s := ws.foldl (fun t wd => t.recall 4096 w.vf wd) (s.noteAccess w .atomic va false)
        let (s, old) := s.rmwKey ma e.kidx f
        match f old with
        | some nv =>
          let t := (s.markDirty e).write64 ma nv
          .ok (if ptePol e.leaf < 2 then ws.foldl (fun t wd => t.wakeWord w.vf wd) t else t) old
        | none => .ok s old

/-- A window read of a block (R204, R205): the shuttle's own stores to it that are still on their way are performed first (R77). -/
def State.windowRead (s : State) (w : Who) (k va : Nat) : Res Word :=
  match s.windowCause w false va with
  | some c => .fault s c (BitVec.ofNat 64 va)
  | none =>
    let s := s.registerWhere w.core fun e => e.shid == k && e.pol == 4 && e.block == va / 8
    let ctx := s.windowCtx w (windowCore va)
    if SMap.get false ctx.spoison (windowOff va / 8) then .fault s w.storeError (BitVec.ofNat 64 va)
    else .ok (s.noteLog w .load va w.isHost) (ctx.scratchBlock (windowOff va / 8))

/-- A window write of bytes of a block by an engine or the host (R204, R205). -/
def State.windowWrite (s : State) (w : Who) (va : Nat) (data : Word) (m : BitVec 8) : Res Unit :=
  match s.windowCause w true va with
  | some c => .fault s c (BitVec.ofNat 64 va)
  | none => .ok ((s.updWindowCtx w (windowCore va) fun c => c.putScratch (windowOff va / 8) data m).noteLog w .store va w.isHost) ()
/-- A window store of bytes of a block by the shuttle of slot k: it reaches the scratchpad now, or later (R205, R228). -/
def State.windowStore (s : State) (w : Who) (k va : Nat) (data : Word) (m : BitVec 8) : Res Unit :=
  match s.windowCause w true va with
  | some c => .fault s c (BitVec.ofNat 64 va)
  | none => .ok ((s.commitPart w.core
      { shid := k, block := va / 8, data := data, mask := m, addr := BitVec.ofNat 64 va, agent := w.agent, pol := 4,
        vseq := w.vseq }).noteLog w .store va false) ()
/-- One read-modify-write of a scratchpad's block (R205, R245). -/
def State.windowAtomic (s : State) (w : Who) (va : Nat) (m : BitVec 8) (f : Word → Option Word) : Res Word :=
  match s.windowCause w true va with
  | some c => .fault s c (BitVec.ofNat 64 va)
  | none =>
    let ctx := s.windowCtx w (windowCore va)
    if SMap.get false ctx.spoison (windowOff va / 8) then .fault s w.storeError (BitVec.ofNat 64 va)
    else
      let old := ctx.scratchBlock (windowOff va / 8)
      let t := match f old with
        | some nv => s.updWindowCtx w (windowCore va) fun c => c.putScratch (windowOff va / 8) nv m
        | none => s
      .ok (t.noteLog w .atomic va false) old

/-- Machine-mode accesses are to machine addresses, checked by nothing but the machine address map (R15, R300).
PRESUMED, unsafe: log entry 7. -/
def State.machineRead (s : State) (acc : Access) (va : Nat) : Res Word :=
  if machineExists va then .ok s (s.read64 (va / 8 * 8))
  else .fault s (match acc with | .fetch => cause 2 0 2 | .load => cause 2 0 0 | _ => cause 2 0 1) (BitVec.ofNat 64 va)
/-- A machine-mode write. -/
def State.machineWrite (s : State) (va : Nat) (data : Word) (m : BitVec 8) : Res Unit :=
  if machineExists va then .ok (s.writeMask (va / 8 * 8) data m) () else .fault s (cause 2 0 1) (BitVec.ofNat 64 va)

/-- A checked load of bytes of one block by the shuttle of slot k. -/
def State.load (s : State) (w : Who) (k va : Nat) (need : BitVec 8) (acq : Bool) (dev : Option (BitVec 10)) : Res Word :=
  if w.mode = .m then s.machineRead .load va
  else if isReservedVa va then .fault s (pageFault w.agent .load) (BitVec.ofNat 64 va)
  else if isWindow va then s.windowRead w k va
  else
    (s.plbCheck w .load va).bind fun s _ =>
      (s.loadBlock w k (va / 8) need acq va dev).bind fun s v => .ok (s.noteAccess w .load va false) v

/-- A checked store of bytes of one block by the shuttle of slot k. -/
def State.store (s : State) (w : Who) (k va : Nat) (data : Word) (m : BitVec 8) (dev : Option (BitVec 10)) : Res Unit :=
  if w.mode = .m then s.machineWrite va data m
  else if isReservedVa va then .fault s (pageFault w.agent .store) (BitVec.ofNat 64 va)
  else if isWindow va then s.windowStore w k va data m
  else
    (s.plbCheck w .store va).bind fun s _ =>
      (s.storeBlock w k (va / 8) data m va dev).bind fun s _ => .ok (s.noteAccess w .store va false) ()

/-- A checked atomic on bytes of one block by the shuttle of slot k. -/
def State.atomic (s : State) (w : Who) (k va : Nat) (m : BitVec 8) (f : Word → Option Word) : Res Word :=
  if w.mode = .m then
    (s.machineRead .atomic va).bind fun s old =>
      match f old with
      | some nv => (s.machineWrite va nv m).bind fun s _ => .ok s old
      | none => .ok s old
  else if isReservedVa va then .fault s (pageFault w.agent .atomic) (BitVec.ofNat 64 va)
  else if isWindow va then
    (s.registerWhere w.core fun e => e.touches (va / 8) m).windowAtomic w va m f
  else
    (s.plbCheck w .atomic va).bind fun s _ =>
      (s.atomicBlock w k (va / 8) m va f).bind fun s v => .ok (s.noteAccess w .atomic va false) v

/-- An instruction fetch of one word (R34, R65, R286, R289): an instruction-side copy of the core, else the latest value. -/
def State.fetchWord (s : State) (w : Who) (va : Nat) : Res (BitVec 32) :=
  let pick (v : Word) : BitVec 32 := if va / 4 % 2 = 0 then v.truncate 32 else (v >>> 32).truncate 32
  let tv : Word := BitVec.ofNat 64 va
  if w.mode = .m then (s.machineRead .fetch va).bind fun s v => .ok s (pick v)
  else if isReservedVa va then .fault s (cause 3 0 2) tv
  else if isWindow va then .fault s (cause 2 0 2) tv
  else
    (s.plbCheck w .fetch va).bind fun s _ =>
      match SMap.get none (s.core w.core).icache (va / 4) with
      | some v => .ok ((s.updCore w.core fun k => { k with iseen := va / 4 :: k.iseen.filter fun x => x != va / 4 }).noteAccess w .fetch va
          false) v
      | none =>
        (s.reach w .fetch va (halfOf (va / 4))).bind fun s (e, sl, ma0) =>
          let ma := ma0 / 8 * 8
          let s := if ptePol e.leaf < 2 then s.touchL2 w.vf va sl (grainBytes e.leaf) false else s
          if s.isLost w.vf (va / 4) then .fault s (cause 6 0 0) tv
          else if s.poisoned ma then .fault s (cause 0xC 0 2) tv
          else
            let x := s.readKey ma e.kidx
            .ok (x.1.noteAccess w .fetch va false) (pick x.2)

/-- A read of bytes of one 8-byte block by an engine, a die scheduler or the host, at any address (R233, R255, R286). -/
def State.engineRead (s : State) (w : Who) (va : Nat) (need : BitVec 8) : Res Word :=
  if isReservedVa va then .fault s (pageFault w.agent .load) (BitVec.ofNat 64 va)
  else if isWindow va then s.windowRead w 65536 va
  else s.homeRead w (va / 8) need va
/-- A write of bytes of one 8-byte block by an engine, a die scheduler or the host. -/
def State.engineWrite (s : State) (w : Who) (va : Nat) (v : Word) (m : BitVec 8) : Res Unit :=
  if isReservedVa va then .fault s (pageFault w.agent .store) (BitVec.ofNat 64 va)
  else if isWindow va then s.windowWrite w va v m
  else s.homeWrite w (va / 8) v m va
/-- One read-modify-write of an aligned doubleword by an engine, a die scheduler or firmware, at any address. -/
def State.engineAtomic (s : State) (w : Who) (va : Nat) (g : Word → Option Word) : Res Word :=
  if isReservedVa va then .fault s (pageFault w.agent .atomic) (BitVec.ofNat 64 va)
  else if isWindow va then s.windowAtomic w va 0xFF g
  else s.homeAtomic w va g

end Sys2Proof.Machine
end

