-- ==== Sys2Proof/Machine/Ops.lean ====
section
/-! DEFINITION. The named operations on a shuttle that every family uses: completing an instruction, waiting (R30, R260), taking
a trap (R80, R100) with its record (R87), taking an interrupt (R84), returning from a trap (R67), release and acquire (R229),
and the decode gate of R45 orders 5 to 10. -/

namespace Sys2Proof.Machine

/-- The instruction completes: the pc goes to the next word, and no wait is left. -/
def Slot.completeAt (m : Slot) (pc : Word) : Slot :=
  { m with sh := { m.sh with pc := pc }, wait := none, earlier := none, completed := true, jumped := false, half := false }
/-- The instruction in focus completes and the pc advances by 4. -/
def State.complete (s : State) : State := s.updMe fun m => m.completeAt (m.sh.pc + 4)
/-- Complete after writing an integer register. -/
def State.completeX (s : State) (r : XReg) (v : Word) : State := (s.setX r v).complete

/-- The tag of a wait, to tell whether a reissued instruction goes on with the wait it was in (R260). -/
def WaitKind.tag : WaitKind → Nat
  | .counter => 0 | .fullEmpty _ _ => 1 | .cwait => 2 | .ring _ _ => 3 | .barrier _ _ => 4 | .channel _ => 5
  | .fenceQ _ _ => 6 | .queue _ => 7 | .matrix => 8 | .mcpy _ => 9 | .pull _ => 10 | .vector => 11 | .depth _ => 12
  | .vwait _ _ => 13 | .wfi => 14 | .firmware => 15 | .packing => 16
  | .offer => 17 | .done _ => 18 | .storeBuffer => 19
/-- The waits that `wlimit` bounds (R24, R260). DEDUCED, unsafe: log entry 36. -/
def WaitKind.bounded : WaitKind → Bool
  | .counter | .pull _ | .vector | .storeBuffer | .depth _ | .vwait _ _ | .firmware | .offer | .done _ => false
  | _ => true

/-- A bounded wait that its instruction has begun, whatever it waits for now (R260). -/
def Slot.begun (m : Slot) : Option WaitInfo :=
  match m.wait with
  | some w => if w.kind.bounded then some w else m.earlier
  | none => m.earlier
/-- A slot begins, or goes on with, a wait: the bound is fixed when it begins (R24, R260). A bounded wait goes on behind one for a page, for
vector work or for room. -/
def Slot.waitFor (m : Slot) (k : WaitKind) : Slot :=
  let fresh : WaitInfo := { kind := k, bound := if k.bounded then m.sh.wlimit.toNat else 0 }
  let goOn (w : Option WaitInfo) : Option WaitInfo := w.bind fun w => if w.kind.tag = k.tag then some { w with kind := k } else none
  { m with
    life := .waiting
    woken := false
    wait := some (((goOn m.wait).or (goOn m.begun)).getD fresh)
    earlier := if k.bounded then none else m.begun }
/-- The shuttle in focus Waits and will issue its instruction again (R30). -/
def State.block (s : State) (k : WaitKind) : State := s.updMe fun m => m.waitFor k

/-- The value of the step that another agent has performed for the waiting instruction, if it has. -/
def Slot.doneValue (m : Slot) : Option Word :=
  match m.wait with
  | some w => (match w.kind with | .done v => some v | _ => none)
  | none => none
/-- The step that the shuttle of slot k waits for has been performed with a value: it is Ready and completes when it issues. -/
def State.finish (s : State) (k : Nat) (v : Word) : State :=
  s.updSlot k fun m => { m.wake (s.coreCycle (k / 16)) with wait := some { kind := .done v } }
/-- Wake every Waiting shuttle whose wait satisfies a test (R127). -/
def State.signalWhere (s : State) (p : Nat → WaitKind → Bool) : State :=
  (s.slots.map (·.1)).foldl (fun t k => match (t.slot k).wait with
    | some w => if p k w.kind then t.signal k else t
    | none => t) s

/-- A die's tier-engine slice is asked for the page of an address (R296): concurrent requests join the one in progress; one made on demand
makes it a demand pull of its slice (R336). -/
def State.askPull (s : State) (v va : Nat) (demand : Bool) (die : Nat) : State :=
  let page := va / 65536
  if s.pulls.any (fun p => p.vf == v && p.page == page) then
    { s with pulls := s.pulls.map fun p =>
        if p.vf == v && p.page == page && demand && !p.demand then { p with demand := true, die := die } else p }
  else { s with pulls := s.pulls ++ [{ vf := v, page := page, demand := demand, die := die }] }
/-- The shuttle in focus Waits on a page pull (R296). -/
def State.waitPull (s : State) (va : Nat) : State :=
  ((s.askPull s.me.vf va true (dieOf s.myCore)).count s.myCore 0x00B (some s.sh.mode)).block (.pull va)

/-- The standard cause number of a trap (R89). -/
def scauseOf (c : BitVec 10) : Word :=
  let n := c.toNat
  let cls := n / 64; let ag := n / 8 % 8; let det := n % 8
  if cls = 0 ∧ ((ag = 0 ∧ (det = 0 ∨ det = 1 ∨ det = 3 ∨ det = 5 ∨ det = 6)) ∨ (ag = 1 ∧ det = 0)) then 2
  else if cls = 2 ∧ det = 0 then 5
  else if cls = 2 ∧ det = 1 then 7
  else if cls = 2 ∧ ag = 0 ∧ det = 2 then 1
  else if cls = 3 ∧ det = 0 then 13
  else if cls = 3 ∧ det = 1 then 15
  else if cls = 3 ∧ ag = 0 ∧ det = 2 then 12
  else if cls = 5 ∧ ag = 0 ∧ det = 0 then 4
  else if cls = 5 ∧ ag = 0 ∧ det = 1 then 6
  else if cls = 5 ∧ det = 7 then 6
  else if cls = 5 ∧ ag = 0 ∧ det = 2 then 0
  else if cls = 0xA ∧ ag = 0 ∧ det = 0 then 8
  else if cls = 0xA ∧ ag = 0 ∧ det = 2 then 11
  else if cls = 0xA ∧ ag = 0 ∧ det = 3 then 3
  else 24

/-- The word at an address as a core of a VF would fetch it, with no effect: 0 where it cannot be fetched.
DESIGN CHOICE, unsafe: log entry 53. -/
def State.peek (s : State) (v c : Nat) (mode : Mode) (va : Nat) : BitVec 32 :=
  if mode = .m then s.read32 va
  else if isWindow va || isReservedVa va then 0
  else match SMap.get none (s.core c).icache (va / 4) with
  | some w => w
  | none => match s.locate v (dieOf c) va with
    | some (_, ma, _) => s.read32 ma
    | none => 0
/-- A word that opens a pair when it stands in slot A: SX or SI with L = 0 (R40). -/
def isOpener (w : BitVec 32) : Bool := isSxSi w && !(wordL w)
/-- The other word of the pair that the word at an address belongs to, 0 for none (R40, R87). -/
def State.peekMate (s : State) (v c : Nat) (mode : Mode) (va : Nat) (w : BitVec 32) : BitVec 32 :=
  if va % 8 = 0 then
    let b := s.peek v c mode (va + 4)
    if isOpener w && isVaMx b then b else 0
  else
    let a := s.peek v c mode (va - 4)
    if isOpener a && isVaMx w then a else 0

/-- The doublewords of a trap record of the shuttle in slot k but for its index (R87). -/
def State.recordWords (s : State) (m : Slot) (k : Nat) (epc tval : Word) (c : BitVec 10) (scause : Word)
    (interrupt nohandler : Bool) (under : BitVec 10) (dst : Nat) : List Word :=
  let part := s.partOfVf m.vf
  let gen := (s.part part).gen
  let w := s.peek m.vf (k / 16) m.sh.mode epc.toNat
  [ epc, tval,
    BitVec.ofNat 64 (c.toNat + (if interrupt then 65536 else 0) + m.vf * 2 ^ 24 + part % 32 * 2 ^ 32
      + m.sh.mode.code * 2 ^ 40 + (if nohandler then 2 ^ 42 else 0) + gen.toNat * 2 ^ 48),
    scause,
    BitVec.ofNat 64 (k % 65536 + m.sh.origin.toNat * 65536 + m.sh.migs.toNat * 2 ^ 32),
    s.cycle,
    BitVec.ofNat 64 (w.toNat + (s.peekMate m.vf (k / 16) m.sh.mode epc.toNat w).toNat * 2 ^ 32),
    BitVec.ofNat 64 (under.toNat + dst * 4096) ]

/-- A record write has faulted: ERR is set and EN cleared (R86, R87). -/
def State.recordError (s : State) (v : Nat) : State :=
  s.updVf v fun f => { f with regs := { f.regs with trec := (f.regs.trec ||| 4) &&& ~~~1 } }

/-- Write the doublewords of a record from an address on. -/
def State.writeRecord (s : State) (w : Who) (a : Nat) : List Word → Res Unit
  | [] => .ok s ()
  | v :: l => (s.engineWrite w a v 0xFF).bind fun s _ => State.writeRecord s w (a + 8) l
/-- Who makes the accesses of a record (R87): S-mode accesses of the VF. -/
def TrapRecord.who (r : TrapRecord) : Who := { vf := r.vf, core := r.core, mode := .s, agent := 0, buf := .none }
/-- Steps 1 to 3 of posting (R87), in the ring that `trec` names when they are made: the producer index claimed and where the record goes,
or none where it is dropped. Which `trec` counts is DESIGN CHOICE, unsafe: log entry 69. -/
def State.claimRecord (s : State) (r : TrapRecord) : Res (Option (Word × Nat)) :=
  let trec := (s.vf r.vf).regs.trec
  let base := bitsOf trec 55 12 * 4096
  let n := 2 ^ (bitsOf trec 11 8 + 6)
  (s.engineRead r.who (base + 8) 0xFF).bind fun s cons =>
    (s.engineRead r.who base 0xFF).bind fun s prod =>
      if n ≤ (prod - cons).toNat then (s.engineAtomic r.who (base + 16) fun d => some (d + 1)).bind fun s _ => .ok s none
      else
        (s.engineAtomic r.who base fun p => if p = prod then some (prod + 1) else none).bind fun s _ =>
          .ok s (some (prod, base + 64 + 64 * (prod.toNat % n)))
/-- Steps 4 and 5 of posting (R87): the record's doublewords, the last with the index. -/
def State.fillRecord (s : State) (r : TrapRecord) (c : Word × Nat) : Res Unit :=
  (s.writeRecord r.who c.2 (r.words.take 7)).bind fun s _ =>
    s.writeRecord r.who (c.2 + 56) [r.words.getD 7 0 ||| ((c.1 &&& 0xFFFFFFFF) <<< 32)]

/-- The outcome of an access for the record at the head of those waiting: a fault drops it, a pull holds it (R87). -/
def Res.record {α : Type} (x : Res α) (r : TrapRecord) (f : State → α → State) : State :=
  match x with
  | .ok t a => f t a
  | .fault t _ _ => { t with records := t.records.tail }.recordError r.vf
  | .wait t p => { t with records := match t.records with
      | x :: l => { x with waits := some p } :: l
      | [] => [] }.askPull r.vf p true (dieOf r.core)
/-- The head of the records waiting to be posted is posted, its place in the ring being kept while a pull is waited for (R87). Records
still waiting when EN becomes 0 are dropped. DESIGN CHOICE, unsafe: log entry 69. -/
def State.postHead (s : State) : State :=
  match s.records with
  | [] => s
  | r :: rest =>
    let fill (s : State) (c : Word × Nat) : State := (s.fillRecord r c).record r fun t _ => { t with records := t.records.tail }
    match r.claim with
    | some c => fill s c
    | none =>
      if bitOf (s.vf r.vf).regs.trec 0 then
        (s.claimRecord r).record r fun t c => match c with
          | none => { t with records := rest }
          | some c => fill { t with records := { r with claim := some c } :: rest } c
      else { s with records := rest }

/-- Queue a record for posting; post it at once where nothing is ahead of it (R87). -/
def State.addRecord (s : State) (r : TrapRecord) : State :=
  let t := { s with records := s.records ++ [r] }
  if s.eager && s.records.isEmpty then t.postHead else t

/-- The generation of a slot's partition (R321). -/
def State.genOf (s : State) (v : Nat) : BitVec 16 := (s.part (s.partOfVf v)).gen

/-- The machine-mode trap entry (R100): the published registers, and `tcause`. -/
def Slot.enterM (m : Slot) (c : BitVec 10) (mcause tval epc : Word) (interrupt : Bool) : Slot :=
  let base := m.m.mtvec &&& ~~~3
  { m with
    life := .ready, wait := none, earlier := none, again := false, heldTrap := none, completed := false, jumped := false, half := false
    m := { m.m with
      mepc := epc, mcause := mcause, mtval := tval
      mstatus := (m.m.mstatus &&& ~~~0x1888) ||| (if bitOf m.m.mstatus 3 then 0x80 else 0)
        ||| (BitVec.ofNat 64 (m.sh.mode.code * 2048)) }
    sh := { m.sh with
      tcause := c, mode := .m
      pc := if interrupt && bitOf m.m.mtvec 0 then base + 4 * (mcause &&& 0xFFFF) else base } }

/-- The supervisor trap entry on a slot (R80): every register it changes is shuttle state. -/
def Slot.enterS (m : Slot) (c : BitVec 10) (scause tval epc stvec : Word) (interrupt : Bool) : Slot :=
  let base := stvec &&& ~~~3
  { m with
    life := .ready, wait := none, earlier := none, again := false, pack := none, heldTrap := none, completed := false, jumped := false, half := false
    sh := { m.sh with
      tcause := c, scause := scause, sepc := epc &&& ~~~3, stval := tval
      spie := m.sh.sie, sie := false, spp := m.sh.mode != .u, mode := .s
      pc := if interrupt && bitOf stvec 0 then base + 4 * (scause &&& 0xFFFF) else base } }

/-- TAKING AN EXCEPTION (R80): the shuttle of slot k enters its VF's S handler at `stvec`, or the M handler from M mode (R100),
with the cause, value and pc given; `under` is the underlying cause of a deferred engine fault (R88). A record is posted if
trec.EN is 1, with the word at sepc and the other word of its pair. -/
def State.trapSlot (s : State) (k : Nat) (c : BitVec 10) (scause tval epc : Word) (interrupt : Bool) (under : BitVec 10) : State :=
  let m := s.slot k
  if m.sh.mode = .m then s.setSlot k (m.enterM c scause tval epc interrupt)
  else
    let regs := s.vfRegs m.vf (k / 16)
    let t := s.setSlot k (m.enterS c scause tval epc regs.stvec interrupt)
    if bitOf regs.trec 0 then
      t.addRecord { vf := m.vf, core := k / 16,
                    words := s.recordWords m k epc tval c scause interrupt false under 0 }
    else t

/-- The trap of R80 for the shuttle in focus, at its own pc. -/
def State.takeTrap (s : State) (c : BitVec 10) (tval : Word) : State :=
  s.trapSlot s.focus c (scauseOf c) tval s.sh.pc false 0

/-- An older vector instruction of the thread is incomplete (R130). -/
def Slot.vectorBusy (m : Slot) : Bool := !(m.vq.isEmpty) || m.vrun.isSome

/-- Raise a cause of the instruction in focus: a scalar trap is taken only after every older vector instruction has completed
(R130). -/
def State.raise (s : State) (c : BitVec 10) (tval : Word) : Out :=
  if s.me.vectorBusy then .next (s.block .vector) else .next (s.takeTrap c tval)
/-- Raise a cause whose stval is the instruction word (R90). -/
def State.raiseWord (s : State) (c : BitVec 10) : Out := s.raise c (zx s.me.word)

/-- Go on from an access of the instruction in focus: a value, a trap, or the wait for a page. -/
def Res.run {α : Type} (r : Res α) (f : State → α → Out) : Out :=
  match r with
  | .ok s a => f s a
  | .fault s c t => s.raise c t
  | .wait s p => .next (s.waitPull p)

/-- An effect that R130 holds back while an older vector instruction of the thread is incomplete: the instruction waits. -/
def State.afterVector (s : State) (f : State → Out) : Out :=
  if s.me.vectorBusy then .next (s.block .vector) else f s

/-- A jump to an address (R34): a target that is not a multiple of 4 traps at the jump, which writes no register. -/
def State.jump (s : State) (target : Word) (f : State → State) : Out :=
  if target.toNat % 4 ≠ 0 then s.raise (cause 5 0 2) target
  else .next ((f s).updMe fun m => { m.completeAt target with jumped := true })

/-- Who the shuttle in focus is, for an access by an agent. -/
def State.who (s : State) (agent : Nat) : Who :=
  { vf := s.me.vf, core := s.myCore, mode := s.sh.mode, agent := agent }

/-- A refused store of the shuttle in focus is due: it is taken at this instruction (R218). -/
def State.takeRefusal (s : State) (f : State → Out) : Out :=
  match s.me.refused with
  | [] => f s
  | r :: rest => .next ((s.updMe fun m => { m with refused := rest }).takeTrap r.cause r.addr)

/-- The release of R229 for the shuttle in focus: every earlier store registers; a refusal that comes back is taken at this
instruction (R218). -/
def State.release (s : State) (f : State → Out) : Out :=
  if s.sh.mode = .m then f s else (s.releaseSlot s.focus).takeRefusal f

/-- A slot's loads that were taken ahead are forgotten: an ordering operation or an access to their bytes comes first (R228). -/
def State.forget (s : State) (k : Nat) : State := if (s.slot k).early.isEmpty then s else s.updSlot k fun m => { m with early := [] }
/-- The acquire of R229 after the read, which leaves the words just read Valid (R216): a Discard at cluster scope or wider (R215, R230). -/
def State.acquireBut (s : State) (sc : Scope) (keep : List Nat) : State :=
  if sc = .core then s.forget s.focus else (s.forget s.focus).discardBut s.myCore (some s.sh.mode) keep
/-- The acquire of R229. -/
def State.acquire (s : State) (sc : Scope) : State := s.acquireBut sc []

/-- The privilege bits that `sstatus` shows (R68): SIE, SPIE, SPP, and UXL reads 2. -/
def sstatusOf (sh : Shuttle) : Word :=
  BitVec.ofNat 64 ((if sh.sie then 2 else 0) + (if sh.spie then 32 else 0) + (if sh.spp then 256 else 0) + 2 ^ 33)

/-- RETURN FROM A TRAP by SRET (R67, as published): mode from SPP, SIE from SPIE, SPIE 1, SPP 0, pc from `sepc`. -/
def Shuttle.sret (sh : Shuttle) : Shuttle :=
  { sh with mode := if sh.spp then .s else .u, sie := sh.spie, spie := true, spp := false, pc := sh.sepc }
/-- Return from the M handler by MRET (R67, as published). -/
def Slot.mret (m : Slot) : Slot :=
  let mpp := bitsOf m.m.mstatus 12 11
  { m with
    m := { m.m with mstatus := (m.m.mstatus &&& ~~~0x1888) ||| (if bitOf m.m.mstatus 7 then 0x8 else 0) ||| 0x80 }
    sh := { m.sh with mode := (if mpp = 3 then .m else if mpp = 1 then .s else .u), pc := m.m.mepc } }

/-- The pending bits of `sip` on a core (R83): SEIP while the VF's interrupt core holds an external event, LCOFIP the OR of OV
AND IE, the others as kept. -/
def State.sipOf (s : State) (c : Nat) : Word :=
  let ctx := (s.core c).ctx
  let v := s.vf ctx.vf
  (ctx.sip &&& 0x10022)
    ||| (if !(v.ext.isEmpty) && v.intCore == c then 0x200 else 0)
    ||| (if ctx.pmsel.any (fun e => e.2.getLsbD 31 && e.2.getLsbD 30) then 0x2000 else 0)
/-- The interrupts pending and enabled on a core (R84). -/
def State.pendingOn (s : State) (c : Nat) : Word := s.sipOf c &&& (s.core c).ctx.sie
/-- The interrupt taken first of those pending: PNI, SEI, SSI, STI, LCOFI (R84). -/
def firstInterrupt (p : Word) : Option Nat :=
  if bitOf p 16 then some 16 else if bitOf p 9 then some 9 else if bitOf p 1 then some 1
  else if bitOf p 5 then some 5 else if bitOf p 13 then some 13 else none
/-- The refined cause of an interrupt (R83, R85): SEI carries that of the oldest external event. -/
def State.interruptCause (s : State) (v n notice : Nat) : BitVec 10 × Word :=
  match n with
  | 16 => (cause 0xD 0 notice, 0)
  | 9 => match (s.vf v).ext with
    | e :: _ => (e.cause, if e.cause.toNat / 64 = 0xE then BitVec.ofNat 64 e.queue else 0)
    | [] => (cause 0xB 0 3, 0)
  | 1 => (cause 0xB 0 1, 0)
  | 5 => (cause 0xB 0 4, 0)
  | _ => (cause 0xB 0 2, 0)

/-- The bits of R338 that mask an instruction's feature: bit numbers. -/
def featureOf : Instr → Option Nat
  | .tierHintHot _ _ | .tierHintCold _ _ => some 7
  | .shstart _ _ _ => some 6
  | .faddS .. | .fsubS .. | .fmulS .. | .fdivS .. | .fsqrtS .. | .fsgnjS .. | .fsgnjnS .. | .fsgnjxS .. | .fminS ..
  | .fmaxS .. | .fcvtWS .. | .fcvtWuS .. | .fcvtLS .. | .fcvtLuS .. | .fcvtSW .. | .fcvtSWu .. | .fcvtSL .. | .fcvtSLu ..
  | .feqS .. | .fltS .. | .fleS .. | .fclassS .. | .fmaddS .. | .fmsubS .. | .fnmsubS .. | .fnmaddS .. => some 5
  | .collPostPkg _ _ | .collPostSys _ _ | .collTest _ _ => some 4
  | .cpy _ _ _ | .cpy2d _ _ _ | .cpyB _ _ _ => some 3
  | .mrun .. | .mcfg .. | .mzero .. | .mdrain .. | .mcpyIn .. | .mcpyOut .. | .mstat _ | .qpushQk _ _ _
  | .qstatQa _ _ | .qstatQk _ _ | .qstatQd _ _ => some 1
  | .qpushQa _ _ _ | .qpopQd _ _ => some 0
  | .vld .. | .vst .. | .vlds .. | .vsts .. | .vldx .. | .vstx .. | .vld2 .. | .vst2 ..
  | .vamoAddClu .. | .vamoAndClu .. | .vamoOrClu .. | .vamoXorClu .. | .vamoMinClu .. | .vamoMaxClu .. | .vamoSwapClu ..
  | .vamoAddPkg .. | .vamoAndPkg .. | .vamoOrPkg .. | .vamoXorPkg .. | .vamoMinPkg .. | .vamoMaxPkg .. | .vamoSwapPkg ..
  | .vsetl .. | .vdepth .. | .vstrip .. | .vwait .. => some 0
  | .vadd .. | .vsub .. | .vmul .. | .vmulh .. | .vmacc .. | .vmin .. | .vmax .. | .vminu .. | .vmaxu .. | .vand .. | .vor ..
  | .vxor .. | .vsll .. | .vsrl .. | .vsra .. | .vclip .. | .vsadd .. | .vssub .. | .vsaddu .. | .vssubu .. | .vwadd ..
  | .vwmul .. | .vwmacc .. | .vnsr .. | .vfadd .. | .vfsub .. | .vfmul .. | .vfmacc .. | .vfnmacc .. | .vfdiv .. | .vfsqrt ..
  | .vfrece .. | .vfrsqe .. | .vfmin .. | .vfmax .. | .vfsgnj .. | .vfclass .. | .vcvt .. | .vcvtb .. | .vdecb .. | .vcmp ..
  | .vfcmp .. | .vmlog .. | .vpopc .. | .vfirst .. | .vmerge .. | .vbcast .. | .vslup .. | .vsldn .. | .vrgath .. | .vcomp ..
  | .vtrn .. | .vmvsx .. | .vmvxs .. | .vredsum .. | .vredmax .. | .vredmin .. | .vredand .. | .vredor .. | .vfredo ..
  | .vfredt .. | .vfredmax .. | .vfredmin .. => some 0
  | _ => none

/-- The TAP feature of R338 names some operands of an instruction: `vsetl` and `vcvt` with T8 or T6, `mcfg` and `mrun` with pair
codes 2 to 5. -/
def usesTap : Instr → Bool
  | .vsetl _ _ _ et => et == .t8 || et == .t6
  | .vcvt _ _ src _ _ => src == .t8 || src == .t6
  | .mrun fp _ _ | .mcfg fp _ _ _ => fp == .t8t8 || fp == .t6t6 || fp == .t8t6 || fp == .t6t8
  | _ => false

/-- The word's feature is masked for the VF, in a mode other than M (R339). -/
def State.masked (s : State) (v : Nat) (mode : Mode) (i : Instr) : Bool :=
  let f := (s.vf v).feature
  mode != .m && ((match featureOf i with | some b => f.getLsbD b | none => false) || (usesTap i && f.getLsbD 2))

/-- The classes that implement an instruction (R61, R123), as control, vector, matrix. -/
def classesOf (i : Instr) : Bool × Bool × Bool :=
  match i with
  | .mret => (true, false, false)
  | .invR .. | .wbR .. | .tierHintHot _ _ | .tierHintCold _ _ | .barInit _ _ | .barExp _ _ | .cpy _ _ _ | .cpy2d _ _ _
  | .cpyB _ _ _ | .collPostPkg _ _ | .collPostSys _ _ | .collTest _ _ => (true, true, false)
  | .qpushQk _ _ _ => (false, true, true)
  | .mrun .. | .mcfg .. | .mzero .. | .mdrain .. | .mcpyIn .. | .mcpyOut .. | .mstat _ => (false, false, true)
  | i => match featureOf i with
    | some 5 => (true, true, false)
    | some 0 => (false, true, false)
    | _ => (true, true, true)
/-- A class implements an instruction. -/
def implements (c : CoreClass) (i : Instr) : Bool :=
  match c with
  | .control => (classesOf i).1
  | .vector => (classesOf i).2.1
  | .matrix => (classesOf i).2.2

end Sys2Proof.Machine
end

