-- ==== Sys2Proof/Machine/Migrate.lean ====
section
/-! DEFINITION. Migration (R91 to R99) and starting shuttles (R31, R70, R311 to R313): candidates and their keys, packing,
arrival, queued frames, depth grants (R137), scratch grants (R312), offers to a heddle and its start entries. -/

namespace Sys2Proof.Machine

/-- A class implements a word: a word that is no instruction constrains nothing. -/
def implementsWord (c : CoreClass) (w : BitVec 32) : Bool :=
  match decodeWord w with | .instr i => implements c i | .reject _ => true

/-- The classes that implement both words to be executed (R44, R92), lowest numbered first. -/
def classesFor (word mate : BitVec 32) : List CoreClass :=
  [CoreClass.control, .vector, .matrix].filter fun c => implementsWord c word && implementsWord c mate

/-- The classes of core that a frame may go to: those that implement its words, or the class of the core it failed to reach or came
from, where it carries a failure (R92, R99). -/
def Frame.classes (f : Frame) : List CoreClass :=
  if f.trapOnArrival.isSome then [f.dclass] else classesFor f.word f.mate

/-- The cores of a partition of given classes that are unfenced and outside the firmware column (R92, R309). -/
def State.eligible (s : State) (p : Nat) (cls : List CoreClass) : List Nat :=
  (s.partCores p).filter fun c => cls.contains (classOf c) && !(s.isFenced c) && !(s.inColumn c)
/-- The candidates: eligible cores with a free slot (R92). -/
def State.candidates (s : State) (p : Nat) (cls : List CoreClass) : List Nat :=
  (s.eligible p cls).filter fun c => (s.freeSlot c).isSome
/-- The candidate with the smallest key from a core (R92). -/
def State.nearest (s : State) (src p : Nat) (cls : List CoreClass) : Option Nat :=
  minBy (coreKey src) (s.candidates p cls)
/-- A frame of a partition is Queued ahead for a slot of a core (R93): one that names the core, or, for a frame that names none, the head of
the class's queue. -/
def State.aheadQ (s : State) (p c : Nat) (names : Bool) : Bool :=
  s.queued.any fun f => f.part == p && s.running f.vf && (f.named == c ||
    (!names && f.named == 0xFFF && !(s.inColumn c) && f.classes.contains (classOf c)))
/-- The candidate with the smallest key among those that no Queued frame waits for (R92, R93). -/
def State.nearestFree (s : State) (src p : Nat) (cls : List CoreClass) : Option Nat :=
  minBy (coreKey src) ((s.candidates p cls).filter fun c => !(s.aheadQ p c false))

/-- The depth that a slot's thread holds or has been granted (R137). -/
def Slot.depthHeld (m : Slot) : Nat :=
  match m.wait with
  | some w => (match w.kind with | .depth d => d | _ => m.sh.vdepth.toNat)
  | none => m.sh.vdepth.toNat
/-- Units of a vector core's store in its scratchpad and in the VRF extension of its threads (R136). -/
def State.unitsTaken (s : State) (c : Nat) : Nat :=
  (s.core c).ctx.units +
    ((List.range 16).map fun k =>
      let m := s.slot (c * 16 + k)
      if m.life = .free ∨ m.life = .reserved then 0 else m.depthHeld - 1).sum
/-- F of R137: units in the L1 pool above the 16 that stay. -/
def State.freeUnits (s : State) (c : Nat) : Nat := 128 - s.unitsTaken c - 16
/-- The depth granted to a request of D by a thread that holds Dc (R137). -/
def grantDepth (d f dc : Nat) : Nat :=
  match [8, 4, 2, 1].find? (fun g => decide (g ≤ d) && decide (g - 1 ≤ f + (dc - 1))) with
  | some g => g
  | none => 1
/-- A shuttle takes a granted depth (R137): rows at and above it are gone, and `vlr` is bounded by it. Rows that come again with a greater
depth read zero. DESIGN CHOICE, unsafe: log entry 72. -/
def Slot.setDepth (m : Slot) (g : Nat) : Slot :=
  { m with
    sh := { m.sh with vdepth := BitVec.ofNat 4 g, vlr := if m.sh.vlr.toNat ≤ g then m.sh.vlr else BitVec.ofNat 4 g }
    vregs := m.vregs.keep fun k => decide (k % 8 < g)
    vpoison := m.vpoison.keep fun k => decide (k % 8 < g) }
/-- Grant a depth to the shuttle in a slot: units that it takes leave the L1 (R137). -/
def State.grantTo (s : State) (k d : Nat) : State × Nat :=
  let cur := (s.slot k).sh.vdepth.toNat
  let g := grantDepth d (s.freeUnits (k / 16)) cur
  let t := s.updSlot k fun m => m.setDepth g
  (if cur < g then t.takeUnits (k / 16) (t.unitsTaken (k / 16)) else t, g)

/-- Is the wanted depth of a request 1, 2, 4 or 8 (R20, R137). -/
def lgDepth (lg : Nat) : Nat := 2 ^ (lg % 4)

/-- The lowest offset at which n units fit between the grants held, among offsets that are multiples of the unit (R312). -/
def fitAt (grants : List (Nat × Nat)) (len unit limit : Nat) : Option Nat :=
  (List.range (limit / unit)).findSome? fun k =>
    let o := k * unit
    if o + len ≤ limit ∧ grants.all (fun g => decide (o + len ≤ g.1) || decide (g.1 + g.2 ≤ o)) then some o else none

/-- Where a scratch request of n 256-byte units fits on a core (R312): offset and length, none if it does not fit now. -/
def State.scratchFit (s : State) (c n : Nat) : Option (Nat × Nat) :=
  let ctx := (s.core c).ctx
  match classOf c with
  | .vector =>
    let len := (n * 256 + 4095) / 4096 * 4096
    match fitAt ctx.grants len 4096 458752 with
    | some o => if (o + len) / 4096 ≤ ctx.units + s.freeUnits c then some (o, len) else none
    | none => none
  | .control => (fitAt ctx.grants (n * 256) 256 262144).map fun o => (o, n * 256)
  | .matrix => (fitAt ctx.grants (n * 256) 256 65536).map fun o => (o, n * 256)

/-- Give a scratch grant: its words are zero and empty (R246), and a vector core's scratchpad covers it (R136). -/
def CoreCtx.giveScratch (c : CoreCtx) (o len : Nat) (isVector : Bool) : CoreCtx :=
  let inside (k : Nat) : Bool := decide (o ≤ k) && decide (k < o + len)
  { c with
    scratch := c.scratch.keep fun k => !(inside k)
    full := c.full.keep fun k => !(inside (8 * k))
    spoison := c.spoison.keep fun k => !(inside (8 * k))
    grants := c.grants ++ [(o, len)]
    units := if isVector then max c.units ((o + len) / 4096) else c.units }
/-- Return a scratch grant (R312). -/
def CoreCtx.freeScratch (c : CoreCtx) (o len : Nat) (isVector : Bool) : CoreCtx :=
  let g := c.grants.filter fun x => x != (o, len)
  { c with grants := g, units := if isVector then (g.map fun x => (x.1 + x.2) / 4096).foldl max 0 else c.units }

/-- The size of scratchpad that a request of a class must not exceed, in 256-byte units (R70). -/
def scratchLimit : CoreClass → Nat
  | .control => 1024 | .vector => 1792 | .matrix => 256

/-- The window address of an offset in a core's scratchpad (R204). -/
def windowAddr (c off : Nat) : Word :=
  BitVec.ofNat 64 (0xFE * 2 ^ 48 + clusterOf c * 2 ^ 32 + inCluster c * 2 ^ 20 + off)

/-- The RZ bits of `tsw` cleared (R17). -/
def tswMask : Word := 0xFF000F06

/-- A start takes a slot (R31, R312, R313): the shuttle is initialised, scratch and then depth are granted (R137), and its core discards
Valid words before its first instruction, and the instruction-side copies that nothing has been fetched from: code that was loaded since is
visible to it (R368). DEDUCED, unsafe: log entry 96. -/
def State.startIn (s : State) (st : Start) (c k : Nat) (fit : Option (Nat × Nat)) : State :=
  let shid := c * 16 + k
  let isV := classOf c == .vector
  let sp : Word := match fit with | some (o, len) => windowAddr c (o + len) | none => 0
  let sh : Shuttle :=
    { pc := st.entry
      tsw := (st.control >>> 32) &&& tswMask
      mode := if bitsOf st.control 31 30 = 1 then .s else .u
      origin := BitVec.ofNat 16 shid }
  let sh := ((sh.setX 2 sp).setX 10 st.arg0).setX 11 st.arg1
  let task := { st.task with grant := fit.map fun f => (c, f.1, f.2) }
  let t := s.setSlot shid { life := .ready, vf := st.vf, sh := sh, task := task }
  let t := match fit with
    | some (o, len) =>
      let u := t.updCtx c fun x => x.giveScratch o len isV
      if isV && decide ((t.core c).ctx.units < (u.core c).ctx.units) then u.takeUnits c (u.unitsTaken c) else u
    | none => t
  ((if isV then (t.grantTo shid (lgDepth (bitsOf st.control 3 2))).1 else t).discard c (some sh.mode)).updCore c fun k =>
    { k with icache := k.icache.filter fun e => k.iseen.contains e.1 }

/-- The scratch grant that a start asks for fits the core (R312): none if it does not fit now. -/
def State.startFit (s : State) (st : Start) (c : Nat) : Option (Option (Nat × Nat)) :=
  let n := bitsOf st.control 14 4
  if n = 0 then some none else (s.scratchFit c n).map some

/-- Start entries of a cluster (R311). -/
def State.entriesIn (s : State) (cl : Nat) : List Start := s.starts.filter fun e => clusterOf e.core == cl
/-- VFs bound to a section of a cluster (R311). -/
def State.vfsInCluster (s : State) (cl : Nat) : Nat :=
  (s.parts.map fun p => if p.2.hasSection (2 * cl) || p.2.hasSection (2 * cl + 1) then p.2.vfs.length else 0).sum
/-- Take a start entry for a VF in a cluster (R311): from its reservation of 8, then from the shared pool. -/
def State.entryFree (s : State) (v cl : Nat) : Option Bool :=
  let es := s.entriesIn cl
  if (es.filter fun e => e.vf == v && e.reserved).length < 8 then some true
  else if (es.filter fun e => !e.reserved).length < 256 - 8 * s.vfsInCluster cl then some false
  else none

/-- A frame or start is ahead of a new start for a slot of a core (R93, R311). -/
def State.aheadOf (s : State) (p c : Nat) : Bool :=
  s.aheadQ p c false || s.starts.any (fun e => e.core == c)

/-- Frames on their way to a core leave no free slot of it to a start that reaches the heddle in the cycle in which they do (R71). -/
def State.framesTake (s : State) (c : Nat) : Bool :=
  let free := (List.range (slotCount c)).filter fun k => (s.slot (c * 16 + k)).life == .free
  decide (free.length ≤ (s.frames.filter fun f => f.dst == c && s.running f.vf && (s.slot (c * 16 + f.slot)).life != .reserved).length)
/-- An offer reaches a heddle (R70, R311): code 0 started, 1 queued, 3 fenced, 4 no entry. `alone` says that no frame on its way to the core
reaches it in the same cycle, in which a frame is served first (R71). DESIGN CHOICE, unsafe: log entry 90. -/
def State.offer (s : State) (st : Start) (alone : Bool) : State × Nat :=
  let c := st.core
  let p := s.partOfVf st.vf
  if s.isFenced c then (s, 3)
  else
    match (if s.aheadOf p c || (!alone && s.framesTake c) then none else s.freeSlot c), s.startFit st c with
    | some k, some fit => (s.startIn st c k fit, 0)
    | _, _ =>
      match s.entryFree st.vf (clusterOf c) with
      | some r =>
        ({ s with starts := s.starts ++ [{ st with since := s.arith.toNat, order := s.order, reserved := r, issuer := none }],
                  order := s.order + 1 }, 1)
      | none => (s, 4)

/-- The effective priority of a start entry (R311). -/
def State.effPrio (s : State) (e : Start) : Nat := min 3 (e.prio + (s.arith.toNat - e.since) / 65536)
/-- The entry that a core serves next: highest effective priority, then earliest arrival (R311). -/
def State.bestEntry (s : State) (c : Nat) : Option Start :=
  let l := s.starts.filter fun e => e.core == c && s.running e.vf
  let i := minBy (fun i => match l[i]? with
    | some e => (3 - s.effPrio e) * 2 ^ 64 + e.order
    | none => 0) (List.range l.length)
  i.bind fun i => l[i]?

/-- Serve the best start entry of a core into a free slot that no Queued frame waits for (R93, R311, R312): one that does not fit waits, and
so do those behind it. -/
def State.serveStart (s : State) (c : Nat) : State :=
  match (if s.aheadQ (s.partOfCore c) c false then none else s.freeSlot c), s.bestEntry c with
  | some k, some e =>
    match s.startFit e c with
    | some fit => ({ s with starts := s.starts.erase e }).startIn e c k fit
    | none => s
  | _, _ => s

/-- The state word of a frame at offset 0xE8 (R27). -/
def Frame.stateWord (f : Frame) : Word :=
  BitVec.ofNat 64 ((if f.sh.mode = .u then 0 else 1) + (if f.sh.sie then 4 else 0) + (if f.sh.spie then 8 else 0)
    + (if f.sh.spp then 16 else 0) + f.sh.hops.toNat * 256 + f.sh.migs.toNat * 65536 + f.reason * 2 ^ 32
    + f.dclass.code * 2 ^ 36 + f.gen.toNat * 2 ^ 48)
/-- `vtype` as a CSR value (R19). -/
def vtypeWord : Option EType → Word
  | none => 0x8000000000000000
  | some e => BitVec.ofNat 64 e.code
/-- The mix sample at offset 0xD0 (R27). -/
def Mix.word (m : Mix) : Word :=
  BitVec.ofNat 64 (m.issued.toNat + m.vector.toNat * 65536 + m.low.toNat * 2 ^ 32 + m.traps.toNat * 2 ^ 40)
/-- One step of CRC-32C over a byte (R27), reflected, polynomial 0x82F63B78. -/
def crcByte (c : BitVec 32) (b : Byte) : BitVec 32 :=
  (List.range 8).foldl (fun c _ => if c.getLsbD 0 then (c >>> 1) ^^^ 0x82F63B78 else c >>> 1) (c ^^^ b.zeroExtend 32)
/-- CRC-32C of a list of bytes (R27). -/
def crc32c (l : List Byte) : BitVec 32 := ~~~(l.foldl crcByte 0xFFFFFFFF)
/-- The first 31 doublewords of a frame (R27). -/
def Frame.body (f : Frame) : List Word :=
  [f.sh.pc] ++ (List.range 15).map (fun i => SMap.get 0 f.sh.x (i + 1)) ++
  [ f.sh.tsw, vtypeWord f.sh.vtype,
    zx f.sh.vlr ||| (zx f.sh.vlc <<< 32), zx f.sh.vdepth ||| (zx f.sh.vresume <<< 32), zx f.sh.vptrs,
    zx f.sh.fcsr ||| (zx f.sh.wlimit <<< 32), zx f.sh.origin, zx f.sh.tcause, f.sh.stval, f.sh.sepc,
    f.sh.mix.word, f.sh.sscratch, f.sh.scause, f.stateWord,
    zx f.word ||| BitVec.ofNat 64 (f.named % 4096 * 2 ^ 32) ]
/-- The 256 bytes of a frame as 32 doublewords (R27). -/
def Frame.words (f : Frame) : List Word := f.body ++ [zx (crc32c (bytesOfWords f.body))]

/-- A slot is freed with its vector and mask state and its depth grant (R29, R72). -/
def State.freeSlotOf (s : State) (k : Nat) : State := s.setSlot k {}

/-- What the shuttle of slot k has issued and firmware has moved with it to slot n is counted there (R23, R99). DEDUCED, unsafe: log entry 40. -/
def State.reissue (s : State) (k n : Nat) : State :=
  let own (i : Nat) : Nat := if i = k then n else i
  { s with
    cores := s.cores.map fun e => (e.1, { e.2 with ctx := { e.2.ctx with
      qk := e.2.ctx.qk.map fun x => { x with issuer := own x.issuer }
      cfg := e.2.ctx.cfg.map fun g => (g.1, { g.2 with issuer := own g.2.issuer })
      tlDone := e.2.ctx.tlDone.map own } })
    sections := s.sections.map fun e => (e.1, { e.2 with chans := e.2.chans.map fun ch =>
      (ch.1, { ch.2 with cmds := ch.2.cmds.map fun x => { x with issuer := own x.issuer } }) }) }
/-- A frame takes a slot of a core and is restored (R29): depth negotiated, vector state zero, an acquire at package scope. It
is Parked while the resume gate of its VF is closed (R331). -/
def State.placeFrame (s : State) (f : Frame) (c k : Nat) : State :=
  let shid := c * 16 + k
  let isV := classOf c == .vector
  let mix := if isV && classOf (f.src / 16) != .vector then { f.sh.mix with low := 0 } else f.sh.mix
  let m : Slot :=
    { life := .ready, parked := (s.vf f.vf).gated, vf := f.vf, task := f.task, refused := f.refused, jumped := f.jumped
      deferred := f.deferred, tl := f.tl, cp := f.cp
      sh := { f.sh with mix := mix, vdepth := if isV then 1 else f.sh.vdepth } }
  let t := (if f.tl = 0 ∧ f.cp = 0 then s else s.reissue f.src shid).setSlot shid m
  let t := (if isV then (t.grantTo shid (max 1 f.sh.vdepth.toNat)).1 else t).discard c (some f.sh.mode)
  match f.trapOnArrival with
  | some (cs, tv) => t.trapSlot shid cs (scauseOf cs) tv f.sh.pc false 0
  | none => t

/-- Where a frame goes (R92, R71, R93): a core with a free slot that no Queued frame waits for, or none while it must be Queued. -/
def State.destination (s : State) (f : Frame) (src : Nat) : Option Nat :=
  if f.named ≠ 0xFFF then
    if (s.freeSlot f.named).isSome && !(s.isFenced f.named) && !(s.aheadQ f.part f.named true) then some f.named else none
  else s.nearestFree src f.part f.classes

/-- The slot that sent a frame is released when the frame is acknowledged (R29). -/
def State.ackFrame (s : State) (f : Frame) : State :=
  if (s.slot f.src).life = .sent then s.freeSlotOf f.src else s

/-- A frame joins the queue of a streamer, which acknowledges it (R29, R93). -/
def State.queueFrame (s : State) (f : Frame) : State :=
  { s.ackFrame f with queued := s.queued ++ [f] }

/-- The slot that was reserved for a frame at its destination (R95, R96): its shid, while it is still held. -/
def State.heldFor (s : State) (f : Frame) : Option Nat :=
  let r := f.dst * 16 + f.slot
  if (f.reason = 3 ∨ f.reason = 4) ∧ (s.slot r).life = .reserved ∧ (s.slot r).vf = f.vf then some r else none
/-- A frame in transit arrives (R29, R32, R95, R99), in the lowest free slot of its core (R274), its reservation there being over: where it
holds none, only if no Queued frame waits for the slot. A frame that names a core of the firmware column, whose home it is, takes a slot of it
like any other (R71). Under a new generation its destination is chosen again from the core it was sent to; where that core is fenced, or its slot gone, from the
core that sent it. -/
def State.arriveFrame (s : State) (f : Frame) : State :=
  let s := { s with frames := s.frames.erase f }
  let gen := s.genOf f.vf
  let old := f.gen != gen
  let f := if old then { f with named := 0xFFF, gen := gen } else f
  let there := !(s.isFenced f.dst) && s.inPart f.part f.dst
  match (if there then s.heldFor f else none) with
  | some r =>
    let u := (s.ackFrame f).freeSlotOf r
    u.placeFrame f f.dst ((u.freeSlot f.dst).getD f.slot)
  | none =>
    let s := match s.heldFor f with | some r => s.freeSlotOf r | none => s
    let names := f.named != 0xFFF
    let fits := there && (names || (!(s.inColumn f.dst) && f.classes.contains (classOf f.dst))) && !(s.aheadQ f.part f.dst names)
    match (if fits then s.freeSlot f.dst else none) with
    | some k => (s.ackFrame f).placeFrame f f.dst k
    | none =>
      let f := if s.isFenced f.dst then { f with named := 0xFFF } else f
      match s.destination f (if old && !(s.isFenced f.dst) then f.dst else f.src / 16) with
      | some c => { s with frames := s.frames ++ [{ f with dst := c, slot := (s.freeSlot c).getD 0, dclass := classOf c }] }
      | none => s.queueFrame f

/-- A slot of a core has freed (R93): it goes to a frame that names the core, then to the head of the class queue, which goes to the nearest
candidate where it carries the failure of a named wait (R99), then to a start. -/
def State.deliverFreed (s : State) (c : Nat) : State :=
  match s.freeSlot c with
  | none => s
  | some k =>
    let p := s.partOfCore c
    let ok (f : Frame) : Bool := f.part == p && s.running f.vf
    match s.queued.find? (fun f => ok f && f.named == c) with
    | some f => ({ s with queued := s.queued.erase f }).placeFrame { f with dst := c, dclass := classOf c } c k
    | none =>
      match (if s.inColumn c then none else s.queued.find? fun f =>
          ok f && f.named == 0xFFF && f.classes.contains (classOf c)) with
      | some f =>
        let d := if f.trapOnArrival.isSome then (s.nearest f.dst p f.classes).getD c else c
        ({ s with queued := s.queued.erase f }).placeFrame { f with dst := d, dclass := classOf d } d ((s.freeSlot d).getD k)
      | none => s.serveStart c

/-- A post of the shuttle of slot k to an iteration ring is on its way (R75). -/
def State.posting (s : State) (k : Nat) : Bool :=
  s.sections.any fun e => e.2.ring.any fun r => r.2.posts.any fun p => p.1 == k
/-- The shuttle of slot k may pack now (R94, R132): no queued vector instruction, every counter at zero; and no post of it on its way, behind
which its later posts take effect (R75). -/
def State.mayPack (s : State) (k : Nat) : Bool :=
  let m := s.slot k
  m.life == .packing && !(m.vectorBusy) && m.held.isEmpty && m.tl == 0 && m.cp == 0 && s.stOf k == 0 && m.ld == 0 && !(s.posting k)

/-- A migration trap whose destination class is vector is counted in the mix sample (R96). -/
def Mix.trap (x : Mix) : Mix := if x.traps = 0xFF then x else { x with traps := x.traps + 1 }

/-- A migration of the shuttle of slot k posts a record where trec.MIG is 1 (R97): the cause, the pc of the frame and the destination. -/
def State.recordMove (s : State) (k : Nat) (m : Slot) (c : BitVec 10) (pc : Word) (dst : Nat) : State :=
  let trec := (s.vfRegs m.vf (k / 16)).trec
  if bitOf trec 1 && bitOf trec 0 then
    s.addRecord { vf := m.vf, core := k / 16, words := s.recordWords m k pc 0 c 0 false true 0 dst }
  else s
/-- The post-release part of packing (R91 to R97): the frame is made, recorded, and sent or queued. A follow decision that finds no slot
makes no migration, and its slot is reserved while its frame is in transit (R95). DEDUCED, unsafe: log entry 81. A migration trap into vector
code is counted in the mix sample (R96, R275) as its frame is sent. DESIGN CHOICE, unsafe: log entry 91. -/
def State.sendFrame (s : State) (k : Nat) (i : PackInfo) : State :=
  let m := s.slot k
  let p := s.partOfVf m.vf
  let cls := classesFor i.word i.mate
  let f : Frame :=
    { sh := m.sh, vf := m.vf, part := p, reason := i.reason, dclass := if i.named ≠ 0xFFF then classOf i.named else cls.headD .control
      gen := s.genOf m.vf, word := i.word, mate := i.mate, named := i.named, src := k, order := s.order, task := m.task
      refused := m.refused, jumped := i.jumped }
  let dst := match i.slotShid with
    | some r => some (r / 16)
    | none => s.destination f (k / 16)
  if i.reason = 4 ∧ dst.isNone = true then s.updSlot k fun m => { m with life := .ready, pack := none, wait := none }
  else
    let dclass := match dst with | some c => classOf c | none => f.dclass
    let sh := { m.sh with pc := i.pc, migs := if m.sh.migs = 0xFFFF then m.sh.migs else m.sh.migs + 1,
                          hops := if i.reason = 4 then m.sh.hops + 1 else m.sh.hops
                          mix := if i.reason = 1 ∧ dclass = .vector then m.sh.mix.trap else m.sh.mix }
    let f := { f with sh := sh, dclass := dclass }
    let s := { s with order := s.order + 1 }.count (k / 16) 0x009 (some m.sh.mode)
    let s := s.recordMove k { m with sh := sh } (if i.reason = 1 then cause 1 7 5 else cause 1 7 6) i.pc (dst.getD 0xFFF)
    match dst with
    | some c =>
      let n := match i.slotShid with | some r => r % 16 | none => (s.freeSlot c).getD 0
      let f := { f with dst := c, slot := n }
      let s := { s.updSlot k fun m => { m with life := .sent, pack := none, wait := none } with frames := s.frames ++ [f] }
      let s := if i.reason = 4 then s.setSlot (c * 16 + n) { life := .reserved, vf := m.vf } else s
      if s.eager then s.arriveFrame f else s
    | none =>
      let at_ := if i.named = 0xFFF then k / 16 else i.named
      { (s.freeSlotOf k) with queued := s.queued ++ [{ f with dst := at_ }] }

/-- The deferred fault that is due first (R414): the one of the operation issued earliest, among those a test selects. -/
def Slot.firstDeferred (m : Slot) (p : Deferred → Bool) : Option Deferred :=
  (m.deferred.filter p).foldl (fun b d => match b with
    | none => some d
    | some e => if d.order < e.order then some d else some e) none

/-- Take a deferred engine fault on a slot (R185, R259): its trap carries the underlying cause into the record. -/
def State.takeDeferred (s : State) (k : Nat) (d : Deferred) : State :=
  (s.updSlot k fun m => { m with deferred := m.deferred.erase d }).trapSlot k d.cause (scauseOf d.cause) d.tval
    (s.slot k).sh.pc false d.under

/-- A reserved slot that a shuttle no longer goes to is free again (R96). -/
def State.dropReserved (s : State) (k : Nat) : State :=
  match (s.slot k).pack.bind (·.slotShid) with
  | some r => if (s.slot r).life = .reserved then s.freeSlotOf r else s
  | none => s
/-- The first refused store of a slot's shuttle is taken as a trap at its pc (R218). -/
def State.trapRefused (s : State) (k : Nat) : State :=
  let m := s.slot k
  match m.refused with
  | r :: rest => (s.setSlot k { m with refused := rest }).trapSlot k r.cause (scauseOf r.cause) r.addr m.sh.pc false 0
  | [] => s
/-- Packing goes on once nothing holds it (R94, R130): a deferred fault or a refusal is taken instead, behind older vector instructions; else
the release at package scope is made, and the frame goes. -/
def State.tryPack (s : State) (k : Nat) : State :=
  let m := s.slot k
  match m.pack with
  | none => s
  | some i =>
    if m.vectorBusy then s
    else match m.firstDeferred (fun _ => true) with
    | some d => (s.dropReserved k).takeDeferred k d
    | none =>
      if !(m.refused.isEmpty) then (s.dropReserved k).trapRefused k
      else if s.mayPack k then
        let t := s.releaseSlot k
        if (t.slot k).refused.isEmpty then t.sendFrame k i else (t.dropReserved k).trapRefused k
      else s

/-- The counter wait of packing (R94): bounded by `wlimit` as it stands when the wait begins; one that a world switch has parked goes on with
its bound (R24, R260). -/
def Slot.packWait (m : Slot) : WaitInfo :=
  match m.wait with
  | some w => if w.kind = .packing then w else { kind := .packing, bound := m.sh.wlimit.toNat }
  | none => { kind := .packing, bound := m.sh.wlimit.toNat }
/-- The shuttle of slot k begins to pack (R30, R94). -/
def State.packSlot (s : State) (k : Nat) (i : PackInfo) : State :=
  let t := s.updSlot k fun m =>
    { m with life := .packing, pack := some i, wait := some m.packWait }
  if t.eager then t.tryPack k else t
/-- The shuttle in focus begins to pack. -/
def State.startPacking (s : State) (i : PackInfo) : State := s.packSlot s.focus i

/-- A migration trap at decode (R91, R93, order 7 of R45): in M mode an illegal instruction (R15); 0x1.7.2 where the partition
holds no core that counts; else the shuttle packs with reason 1. The word of the faults and of the frame is the first that the core's class
lacks (R27). -/
def State.migrationTrap (s : State) (mate : BitVec 32) : Out :=
  let lacks := !(implementsWord (classOf s.myCore) s.me.word)
  let word := if lacks then s.me.word else mate
  let mate := if lacks then mate else s.me.word
  if s.sh.mode = .m then s.raise (cause 0 0 0) (zx word)
  else if (s.eligible (s.partOfVf s.me.vf) (classesFor word mate)).isEmpty then s.raise (cause 1 7 2) (zx word)
  else s.afterVector fun s => .next (s.startPacking { reason := 1, word := word, mate := mate, pc := s.sh.pc })

/-- THE DECODE GATE (R45 orders 6, 7 and 8 to 10): a masked feature, a class that lacks the word, then the instruction's own late
causes; otherwise the instruction goes on. -/
def State.gate (s : State) (i : Instr) (late : Option (BitVec 10)) (f : State → Out) : Out :=
  if s.masked s.me.vf s.sh.mode i then s.raiseWord (cause 0 0 2)
  else if implements (classOf s.myCore) i then
    match late with
    | some c => s.raiseWord c
    | none => f s
  else s.migrationTrap 0

/-- An access by the shuttle of slot k hits in its core's L1 (R95). -/
def State.hitsL1 (s : State) (k va : Nat) (need : BitVec 8) : Bool :=
  let c := k / 16
  let ws := wordsOf (va / 8) need
  s.ownsAll c (s.slot k).vf ws || ws.all (fun wd => (SMap.get none (s.core c).l1 wd).isSome)
    || (s.visible c k (va / 8)).any fun e => e.mask &&& wordMask need != 0
/-- The leaf of an address and the home of its page, where the page has one: it is cached or uncached (R208, R220). -/
def State.homed (s : State) (v c va : Nat) : Option (Word × Nat) :=
  match s.locate v (dieOf c) va with
  | some (e, _, _) => if ptePol e < 2 then (s.homeOf v e va).map fun h => (e, h) else none
  | none => none
/-- HOPS of a shuttle becomes 0 (R95). -/
def State.clearHops (s : State) (k : Nat) : State := s.updSlot k fun m => { m with sh := { m.sh with hops := 0 } }
/-- A vector access of the shuttle of slot k to the bytes of an element, made from this state: one that hits in L1, or is homed in this
cluster, sets HOPS to 0 (R26, R95). -/
def State.withHops {α : Type} (s : State) (k : Nat) (addr : Word) (ew : Nat) (r : Res α) : Res α :=
  let m := s.slot k
  let va := addr.toNat
  if m.sh.hops = 0 || isWindow va || isReservedVa va then r
  else if s.hitsL1 k va (byteMask (va % 8) (max 1 (ew / 8)))
      || (match s.homed m.vf (k / 16) va with | some x => clusterOf x.2 == clusterOf (k / 16) | none => false) then
    r.bind fun t v => .ok (t.clearHops k) v
  else r
/-- The core in the home's cluster that a follow decision chooses for an access of the shuttle in focus (R95): none where the
access hits, is not to a cached page, or is homed in this cluster. The second part says whether HOPS is cleared. -/
def State.followTarget (s : State) (va : Nat) (need : BitVec 8) : Option Nat × Bool :=
  let m := s.me
  let c := s.myCore
  if !(bitOf m.sh.tsw 2) || m.sh.mode == .m || isWindow va || isReservedVa va then (none, false)
  else
    if s.hitsL1 s.focus va need then (none, true)
    else
      match s.homed m.vf c va with
      | some (e, h) =>
          if clusterOf h = clusterOf c then (none, true)
          else if ptePol e ≠ 0 then (none, false)
          else if m.sh.hops.toNat < bitsOf m.sh.tsw 11 8 then
            (minBy (fun k => hops h k * 4096 + k)
              ((s.candidates (s.partOfVf m.vf) [classOf c]).filter fun k =>
                clusterOf k == clusterOf h && !(s.aheadQ (s.partOfVf m.vf) k false)), false)
          else (none, false)
      | none => (none, false)

/-- Follow mode before a scalar access (R95): the shuttle may pack with reason 4 instead, its pc being the access. -/
def State.follow (s : State) (va : Nat) (need : BitVec 8) (f : State → Out) : Out :=
  match s.followTarget va need with
  | (some c, _) => s.afterVector fun s => .next (s.startPacking { reason := 4, named := c, word := s.me.word, mate := s.me.mate, pc := s.sh.pc })
  | (none, true) => f (if s.sh.hops = 0 then s else s.clearHops s.focus)
  | (none, false) => f s

end Sys2Proof.Machine
end

