-- ==== Sys2Proof/Machine/Csr.lean ====
section
/-! DEFINITION. The control and status registers (R16 to R26, R68, R82, R83, R86, R100, R256, R357): which are implemented, who may
reach them, what a read returns and what a write changes. -/

namespace Sys2Proof.Machine

/-- The CSR addresses that exist (R16 to R26, R68, R256, R357). -/
def csrExists (a : Nat) : Bool :=
  [0x001, 0x002, 0x003, 0x100, 0x104, 0x105, 0x106, 0x140, 0x141, 0x142, 0x143, 0x144,
   0x5C0, 0x5C1, 0x5C2].contains a
  || (decide (0x5C8 ≤ a) && decide (a ≤ 0x5CF)) || (decide (0x800 ≤ a) && decide (a ≤ 0x809))
  || (decide (0x810 ≤ a) && decide (a ≤ 0x827)) || (decide (0xC00 ≤ a) && decide (a ≤ 0xC1F))
/-- The trap registers of the M handler (R100), which R68 does not list: outside M mode their addresses are unimplemented (R16).
PRESUMED, unsafe: log entry 8. -/
def isMachineCsr (a : Nat) : Bool := [0x300, 0x305, 0x341, 0x342, 0x343].contains a
/-- The CSR is implemented in the mode of the shuttle in focus (R16, R68, R100). -/
def State.csrThere (s : State) (a : Nat) : Bool := csrExists a || (s.sh.mode == .m && isMachineCsr a)
/-- The copy write pointers (R256). -/
def isCwp (a : Nat) : Bool := decide (0x810 ≤ a) && decide (a ≤ 0x81F)
/-- The performance counters (R357). -/
def isPmc (a : Nat) : Bool := decide (0x820 ≤ a) && decide (a ≤ 0x827)
/-- The counter selectors (R357). -/
def isPmsel (a : Nat) : Bool := decide (0x5C8 ≤ a) && decide (a ≤ 0x5CF)
/-- `cycle`, `time`, `instret` and the hpmcounters (R68). -/
def isCounter (a : Nat) : Bool := decide (0xC00 ≤ a) && decide (a ≤ 0xC1F)

/-- The CSR is above the mode, or its counter bit or write is not granted (R16, R68, R357). -/
def State.csrPrivilege (s : State) (a : Nat) (writes : Bool) : Bool :=
  let lv := a / 256 % 4
  match s.sh.mode with
  | .m => false
  | .s => decide (lv = 3 ∧ !(isCounter a))
  | .u =>
    if isCounter a then !((s.vfRegs s.me.vf s.myCore).scounteren.getLsbD (a - 0xC00))
    else if isPmc a then writes
    else decide (lv ≠ 0)
/-- Every field of the CSR is RO or RZ in the current mode (R16, R22). -/
def State.csrReadOnly (s : State) (a : Nat) : Bool :=
  [0x800, 0x801, 0x802, 0x803, 0x806, 0x808, 0x809].contains a || isCwp a || isCounter a
    || (a == 0x805 && s.sh.mode == .u)

/-- `cwctr` as one snapshot (R23). -/
def State.cwctrOf (s : State) (k : Nat) : Word :=
  let m := s.slot k
  BitVec.ofNat 64 (m.ld + s.stOf k * 256 + m.cp * 65536 + m.tl * 2 ^ 24)
/-- The position word `cpos` (R26). -/
def State.cpos (s : State) (k : Nat) : Word :=
  let c := k / 16
  let sh := (s.slot k).sh
  BitVec.ofNat 64 (s.partOfVf (s.slot k).vf % 32 * 2 ^ 27 + sectionIn c * 2 ^ 26 + (classOf c).code * 2 ^ 24
    + sh.hops.toNat * 2 ^ 20 + sh.migs.toNat)
/-- A copy channel of the cluster where a core lies: its section and number there (R252). -/
def channelOf (c n : Nat) : Nat × Nat := (2 * clusterOf c + n / 8, n % 8)
/-- The operations of a channel queue that are not joint entries. -/
def Channel.ops (c : Channel) : List CopyCmd := c.cmds.filter fun x => x.joint.isNone
/-- The write pointer of a channel (R256). -/
def Channel.pointer (c : Channel) : Word :=
  match c.ops with
  | [] => BitVec.ofNat 64 (2 ^ 63 + c.seq.toNat * 2 ^ 40)
  | x :: _ => BitVec.ofNat 64 (c.seq.toNat * 2 ^ 40 + x.counted % 2 ^ 36)

/-- The value that a read of an implemented CSR returns to the shuttle in focus. -/
def State.csrValue (s : State) (a : Nat) : Word :=
  let m := s.me
  let sh := m.sh
  let c := s.myCore
  let regs := s.vfRegs m.vf c
  match a with
  | 0x001 => zx (sh.fcsr &&& 0x1F)
  | 0x002 => zx (sh.fcsr >>> 5)
  | 0x003 => zx sh.fcsr
  | 0x100 => sstatusOf sh
  | 0x104 => (s.core c).ctx.sie
  | 0x105 => regs.stvec
  | 0x106 => regs.scounteren
  | 0x140 => sh.sscratch
  | 0x141 => sh.sepc
  | 0x142 => sh.scause
  | 0x143 => sh.stval
  | 0x144 => s.sipOf c
  | 0x300 => (m.m.mstatus &&& 0x1888) ||| sstatusOf sh ||| 0x800000000
  | 0x305 => m.m.mtvec
  | 0x341 => m.m.mepc
  | 0x342 => m.m.mcause
  | 0x343 => m.m.mtval
  | 0x5C0 => zx sh.tcause
  | 0x5C1 => regs.trec
  | 0x5C2 => sh.tsw
  | 0x800 => vtypeWord sh.vtype
  | 0x801 => zx sh.vlr
  | 0x802 => zx sh.vlc
  | 0x803 => zx sh.vdepth
  | 0x804 => zx sh.vptrs
  | 0x805 => zx sh.vresume
  | 0x806 => s.cwctrOf s.focus
  | 0x807 => zx sh.wlimit
  | 0x808 => BitVec.ofNat 64 (s.focus % 65536)
  | 0x809 => s.cpos s.focus
  | 0xC00 => s.cycle
  | 0xC01 => s.timeOn (dieOf c)
  | _ =>
    if isCwp a then ((s.sec (channelOf c (a - 0x810)).1).chan (channelOf c (a - 0x810)).2).pointer
    else if isPmc a then zx (SMap.get 0 (s.core c).ctx.pmc (a - 0x820))
    else if isPmsel a then zx (SMap.get 0 (s.core c).ctx.pmsel (a - 0x5C8))
    else 0

/-- Change the registers of a VF from a core: the writing core sees the new value at once, the others at once or after a
delay (R81). -/
def State.writeVfRegs (s : State) (f : VfRegs → VfRegs) : State :=
  let v := s.me.vf
  let c := s.myCore
  let old := (s.vf v).regs
  let t := s.updVf v fun x => { x with regs := f x.regs }
  if s.eager then
    (s.partCores (s.partOfVf v)).foldl
      (fun t k => if (t.core k).stale.isSome then t.updCore k fun x => { x with stale := none } else t) t
  else
    ((s.partCores (s.partOfVf v)).foldl
      (fun t k => t.updCore k fun x => { x with stale := some (x.stale.getD old) }) t).updCore c fun x => { x with stale := none }

/-- `vptrs` holds size 7 in some slot (R21). -/
def vptrsBad (v : Word) : Bool := (List.range 4).any fun k => bitsOf v (8 * k + 6) (8 * k + 4) == 7
/-- A `tsw` value sets an EE bit whose erratum entry is empty (R17). -/
def State.tswBad (s : State) (v : Word) : Bool :=
  (List.range 8).any fun k => bitOf v (24 + k) && !(bitOf (SMap.get 0 s.errata k) 16)

/-- A write of a value to an implemented, writable CSR by the shuttle in focus: the new state, or the cause (R16, R17, R21). -/
def State.csrWrite (s : State) (a : Nat) (v : Word) : State ⊕ BitVec 10 :=
  let c := s.myCore
  match a with
  | 0x001 => .inl (s.updSh fun sh => { sh with fcsr := (sh.fcsr &&& 0xE0) ||| (v.truncate 8 &&& 0x1F) })
  | 0x002 => .inl (s.updSh fun sh => { sh with fcsr := (sh.fcsr &&& 0x1F) ||| (v.truncate 8 <<< 5) })
  | 0x003 => .inl (s.updSh fun sh => { sh with fcsr := v.truncate 8 })
  | 0x100 => .inl (s.updSh fun sh => { sh with sie := bitOf v 1, spie := bitOf v 5, spp := bitOf v 8 })
  | 0x104 => .inl (s.updCtx c fun x => { x with sie := v &&& 0x12222 })
  | 0x105 => .inl (s.writeVfRegs fun r =>
      { r with stvec := (v &&& ~~~3) ||| (if bitsOf v 1 0 < 2 then v &&& 3 else r.stvec &&& 3) })
  | 0x106 => .inl (s.writeVfRegs fun r => { r with scounteren := v &&& 0xFFFFFFFF })
  | 0x140 => .inl (s.updSh fun sh => { sh with sscratch := v })
  | 0x141 => .inl (s.updSh fun sh => { sh with sepc := v &&& ~~~3 })
  | 0x142 => .inl (s.updSh fun sh => { sh with scause := v })
  | 0x143 => .inl (s.updSh fun sh => { sh with stval := v })
  | 0x144 => .inl (s.updCtx c fun x => { x with sip := (x.sip &&& ~~~2) ||| (v &&& 2) })
  | 0x300 => .inl (s.updMe fun m =>
      { m with
        m := { m.m with mstatus := (v &&& 0x88) ||| (if bitsOf v 12 11 = 2 then m.m.mstatus &&& 0x1800 else v &&& 0x1800) }
        sh := { m.sh with sie := bitOf v 1, spie := bitOf v 5, spp := bitOf v 8 } })
  | 0x305 => .inl (s.updMe fun m => { m with m := { m.m with mtvec := v &&& ~~~2 } })
  | 0x341 => .inl (s.updMe fun m => { m with m := { m.m with mepc := v &&& ~~~3 } })
  | 0x342 => .inl (s.updMe fun m => { m with m := { m.m with mcause := v } })
  | 0x343 => .inl (s.updMe fun m => { m with m := { m.m with mtval := v } })
  | 0x5C0 => .inl (s.updSh fun sh => { sh with tcause := v.truncate 10 })
  | 0x5C1 => .inl (s.writeVfRegs fun r =>
      { r with trec := (v &&& 0x00FFFFFFFFFFFF03) ||| (r.trec &&& ~~~v &&& 4) })
  | 0x5C2 =>
    if s.tswBad v then .inr (cause 0 0 7)
    else .inl (s.updSh fun sh => { sh with tsw := v &&& tswMask, hops := 0 })
  | 0x804 => if vptrsBad v then .inr (cause 0 0 6) else .inl (s.updSh fun sh => { sh with vptrs := v.truncate 32 &&& 0x7F7F7F7F })
  | 0x805 => .inl (s.updSh fun sh => { sh with vresume := v.truncate 13 })
  | 0x807 => .inl (s.updSh fun sh => { sh with wlimit := v.truncate 32 })
  | _ =>
    if isPmc a then .inl (s.updCtx c fun x => { x with pmc := SMap.put 0 x.pmc (a - 0x820) (v.truncate 48) })
    else if isPmsel a then
      .inl (s.updCtx c fun x =>
        let old : BitVec 32 := SMap.get 0 x.pmsel (a - 0x5C8)
        let new : BitVec 32 := (v.truncate 32 &&& 0xB0000FFF) ||| (old &&& ~~~(v.truncate 32) &&& 0x40000000)
        { x with pmsel := SMap.put 0 x.pmsel (a - 0x5C8) new })
    else .inl s

/-- The CSRs whose access waits for every earlier vector instruction (R106, R357), and those whose write has an effect outside
the shuttle (R130); `vresume`, which a completing vector instruction clears, waits too (R22: DEDUCED, unsafe: log entry 20). -/
def csrWaits (a : Nat) (writes : Bool) : Bool :=
  [0x001, 0x003, 0x805].contains a || isPmc a ||
    (writes && ([0x104, 0x105, 0x106, 0x144, 0x5C1, 0x300, 0x305, 0x341, 0x342, 0x343].contains a || isPmsel a))

/-- A read of a copy write pointer (R234, R256, R259): a deferred fault of the channel is taken first; a channel outside the
partition traps; the read is followed by a Discard. -/
def State.cwpRead (s : State) (n : Nat) (f : State → Word → Out) : Out :=
  match s.me.firstDeferred fun d => d.queue == n with
  | some d => s.afterVector fun s => .next (s.takeDeferred s.focus d)
  | none =>
    let (sec, ch) := channelOf s.myCore n
    if (s.part (s.partOfVf s.me.vf)).hasSection sec then
      let v := ((s.sec sec).chan ch).pointer
      f (s.acquire .clu) v
    else s.raise (cause 2 0 7) (BitVec.ofNat 64 n)

/-- A CSR instruction (R16): the checks in the order of R45, the read of the old value, the write of the new one. -/
def State.csrOp (s : State) (a : BitVec 12) (rd : XReg) (writes : Bool) (newv : Word → Word) : Out :=
  let n := a.toNat
  if !(s.csrThere n) then s.raiseWord (cause 0 0 6)
  else if s.csrPrivilege n writes then s.raiseWord (cause 0 0 3)
  else if writes && s.csrReadOnly n then s.raiseWord (cause 0 0 6)
  else if csrWaits n writes && s.me.vectorBusy then .next (s.block .vector)
  else if isCwp n then s.cwpRead (n - 0x810) fun s v => .next (s.completeX rd v)
  else
    let old := s.csrValue n
    if writes then
      match s.csrWrite n (newv old) with
      | .inl t => .next (t.completeX rd old)
      | .inr c => s.raiseWord c
    else .next (s.completeX rd old)

/-- A CSR instruction stops at decode for its address, the mode or the access, whatever the values (orders 5 and 8 of R45). -/
def State.csrStops (s : State) (a : Nat) (writes : Bool) : Bool :=
  !(s.csrThere a) || s.csrPrivilege a writes || (writes && s.csrReadOnly a)
/-- A CSR instruction's write stops for the new value (order 8 of R45, R17, R21). -/
def State.csrValueStops (s : State) (a : Nat) (v : Word) : Bool := (a == 0x5C2 && s.tswBad v) || (a == 0x804 && vptrsBad v)
/-- CSRRW (R61, as published). -/
def execCsrrw (rd rs1 : XReg) (csr : BitVec 12) (s : State) : Out :=
  s.csrOp csr rd true fun _ => s.x rs1
/-- CSRRS (R61, as published): it writes when rs1 is not x0 (R16). -/
def execCsrrs (rd rs1 : XReg) (csr : BitVec 12) (s : State) : Out :=
  s.csrOp csr rd (rs1 != 0) fun old => old ||| s.x rs1
/-- CSRRC (R61, as published). -/
def execCsrrc (rd rs1 : XReg) (csr : BitVec 12) (s : State) : Out :=
  s.csrOp csr rd (rs1 != 0) fun old => old &&& ~~~(s.x rs1)
/-- CSRRWI (R61, as published). -/
def execCsrrwi (rd : XReg) (uimm : BitVec 5) (csr : BitVec 12) (s : State) : Out :=
  s.csrOp csr rd true fun _ => zx uimm
/-- CSRRSI (R61, as published): it writes when the immediate is not 0 (R16). -/
def execCsrrsi (rd : XReg) (uimm : BitVec 5) (csr : BitVec 12) (s : State) : Out :=
  s.csrOp csr rd (uimm != 0) fun old => old ||| zx uimm
/-- CSRRCI (R61, as published). -/
def execCsrrci (rd : XReg) (uimm : BitVec 5) (csr : BitVec 12) (s : State) : Out :=
  s.csrOp csr rd (uimm != 0) fun old => old &&& ~~~(zx uimm)

/-- A register-write step (R8): the write of the subject's value to a CSR by the shuttle in focus, with the checks of R16; the
instruction that carried it advances on its own row. -/
def State.csrStep (s : State) (a : Nat) : Out :=
  if !(s.csrThere a) then s.raiseWord (cause 0 0 6)
  else if s.csrPrivilege a true then s.raiseWord (cause 0 0 3)
  else if s.csrReadOnly a then s.raiseWord (cause 0 0 6)
  else if csrWaits a true && s.me.vectorBusy then .next (s.block .vector)
  else match s.csrWrite a s.subject.value with
    | .inl t => .next t
    | .inr c => s.raiseWord c

/-- TSW_WRITE (R17, R18). -/
def execTswWrite (s : State) : Out := s.csrStep 0x5C2
/-- VPTRS_WRITE (R21). -/
def execVptrsWrite (s : State) : Out := s.csrStep 0x804
/-- VRESUME_WRITE (R22). -/
def execVresumeWrite (s : State) : Out := s.csrStep 0x805
/-- TCAUSE_WRITE (R25). -/
def execTcauseWrite (s : State) : Out := s.csrStep 0x5C0
/-- TREC_WRITE (R86). -/
def execTrecWrite (s : State) : Out := s.csrStep 0x5C1
/-- SIP_WRITE (R83). -/
def execSipWrite (s : State) : Out := s.csrStep 0x144
/-- PMC_WRITE (R357): the subject's item is the counter. -/
def execPmcWrite (s : State) : Out := s.csrStep (0x820 + s.subject.item % 8)
/-- PMSEL_WRITE (R357): the subject's item is the selector. -/
def execPmselWrite (s : State) : Out := s.csrStep (0x5C8 + s.subject.item % 8)
/-- PMC_READ (R357): waits for the shuttle's earlier instructions, then returns the counter. -/
def execPmcRead (s : State) : Out :=
  s.afterVector fun s => .next (s.setX s.subject.rd (zx (SMap.get 0 (s.core s.myCore).ctx.pmc (s.subject.item % 8))))
/-- FCSR_ACCESS (R106): waits for every earlier vector instruction, then reads `fcsr` into the subject's rd, or writes it. -/
def execFcsrAccess (s : State) : Out :=
  s.afterVector fun s =>
    if s.subject.flag then .next (s.updSh fun sh => { sh with fcsr := s.subject.value.truncate 8 })
    else .next (s.setX s.subject.rd (zx s.sh.fcsr))
/-- CWP_READ (R234, R256, R259): the subject's item is the channel. -/
def execCwpRead (s : State) : Out :=
  s.cwpRead (s.subject.item % 16) fun t v => .next (t.setX s.subject.rd v)
/-- STVEC_WRITE (R81): the VF's `stvec`, `scounteren` and `trec` reach the subject's core. -/
def execStvecWrite (s : State) : Out := .next (s.updCore s.subject.core fun x => { x with stale := none })

end Sys2Proof.Machine
end

