-- ==== Sys2Proof/Machine/Scalar.lean ====
section
/-! DEFINITION. The base instructions of RV64E and M (R61 to R67): arithmetic, branches, loads and stores, fences, environment calls
and returns. -/

namespace Sys2Proof.Machine

/-- The sign-extended low 32 bits (R9). -/
def sx32 (v : Word) : Word := sx (v.truncate 32 : BitVec 32)

/-- LUI (R61). -/
def execLui (rd : XReg) (imm : BitVec 20) (s : State) : Out := .next (s.completeX rd (sx (imm ++ (0 : BitVec 12))))
/-- AUIPC (R61). -/
def execAuipc (rd : XReg) (imm : BitVec 20) (s : State) : Out :=
  .next (s.completeX rd (s.sh.pc + sx (imm ++ (0 : BitVec 12))))
/-- JAL (R34, R61): off holds bits [20:1] of the offset. -/
def execJal (rd : XReg) (off : BitVec 20) (s : State) : Out :=
  s.jump (s.sh.pc + sx (off ++ (0 : BitVec 1))) fun t => t.setX rd (s.sh.pc + 4)
/-- JALR (R34, R61): the target's bit 0 is cleared. -/
def execJalr (rd rs1 : XReg) (imm : BitVec 12) (s : State) : Out :=
  s.jump ((s.x rs1 + sx imm) &&& ~~~1) fun t => t.setX rd (s.sh.pc + 4)

/-- A conditional branch (R34, R61): off holds bits [12:1] of the offset; a branch not taken goes on. -/
def State.branch (s : State) (taken : Bool) (off : BitVec 12) : Out :=
  if taken then s.jump (s.sh.pc + sx (off ++ (0 : BitVec 1))) fun t => t else .next s.complete
/-- BEQ (R61). -/
def execBeq (rs1 rs2 : XReg) (off : BitVec 12) (s : State) : Out := s.branch (s.x rs1 == s.x rs2) off
/-- BNE (R61). -/
def execBne (rs1 rs2 : XReg) (off : BitVec 12) (s : State) : Out := s.branch (s.x rs1 != s.x rs2) off
/-- BLT (R61). -/
def execBlt (rs1 rs2 : XReg) (off : BitVec 12) (s : State) : Out := s.branch ((s.x rs1).slt (s.x rs2)) off
/-- BGE (R61). -/
def execBge (rs1 rs2 : XReg) (off : BitVec 12) (s : State) : Out := s.branch (!(s.x rs1).slt (s.x rs2)) off
/-- BLTU (R61). -/
def execBltu (rs1 rs2 : XReg) (off : BitVec 12) (s : State) : Out := s.branch ((s.x rs1).ult (s.x rs2)) off
/-- BGEU (R61). -/
def execBgeu (rs1 rs2 : XReg) (off : BitVec 12) (s : State) : Out := s.branch (!(s.x rs1).ult (s.x rs2)) off

/-- An older vector memory instruction of the thread with V = 0, or a vector atomic, is incomplete (R78). -/
def ordersScalar : Instr → Bool
  | .vld _ v _ _ _ | .vst _ v _ _ _ | .vld2 _ v _ _ _ _ | .vst2 _ v _ _ _ _ | .vlds _ v _ _ _ | .vsts _ v _ _ _
  | .vldx _ v _ _ _ | .vstx _ v _ _ _ => !v
  | .vamoAddClu .. | .vamoAndClu .. | .vamoOrClu .. | .vamoXorClu .. | .vamoMinClu .. | .vamoMaxClu .. | .vamoSwapClu ..
  | .vamoAddPkg .. | .vamoAndPkg .. | .vamoOrPkg .. | .vamoXorPkg .. | .vamoMinPkg .. | .vamoMaxPkg .. | .vamoSwapPkg .. => true
  | _ => false
/-- A scalar load must wait for older vector work of its thread (R78), or for its own held store to the block (R77). -/
def Slot.loadWaits (m : Slot) (blk : Nat) : Bool :=
  m.vq.any (fun e => ordersScalar e.instr) || (match m.vrun with | some e => ordersScalar e.instr | none => false)
    || m.held.any fun h => h.entry.block == blk

/-- The n-byte field at an address, out of its block. -/
def fieldOf (v : Word) (a n : Nat) : Word := (v >>> (8 * (a % 8))) &&& BitVec.ofNat 64 (2 ^ (8 * n) - 1)
/-- A value moved to its place in the block. -/
def placeOf (v : Word) (a : Nat) : Word := v <<< (8 * (a % 8))

/-- The block's value that a load of n bytes at an address has: the one that it took ahead of its turn, if it did (R228). -/
def Slot.taken (m : Slot) (a n : Nat) (v : Word) : Word :=
  if n = 8 then (SMap.get none m.early (4 * (a / 8) + 1)).getD v
  else if a % 4 + n ≤ 4 then
    match SMap.get none m.early (2 * (a / 4)) with
    | some x => if a / 4 % 2 = 0 then x else x <<< 32
    | none => v
  else v
/-- An access of the shuttle in focus to n bytes at an address uses up, or does away with, what was taken ahead of it (R77, R228). -/
def State.useEarly (s : State) (a n : Nat) : State :=
  if s.me.early.isEmpty then s else s.updMe fun m => m.dropEarly (a / 8) (byteMask (a % 8) n)
/-- A scalar load by the shuttle in focus must wait for older vector work of its thread (R77, R78), or, on a page that keeps the order of
accesses, for all of it (R220, R399). -/
def State.loadHeld (s : State) (a : Nat) : Bool :=
  s.me.loadWaits (a / 8) || (s.me.vectorBusy && s.pageOrdered (s.who 0) a)
/-- A scalar load of n bytes (R63, R77, R95): the value goes to rd through `post`. DEDUCED, unsafe: log entry 13. -/
def State.scalarLoad (s : State) (rd : XReg) (addr : Word) (n : Nat) (post : Word → Word) : Out :=
  let a := addr.toNat
  if 8 < a % 8 + n then s.raise (cause 5 0 0) addr
  else if s.loadHeld a then .next (s.block .vector)
  else
    s.follow a (byteMask (a % 8) n) fun s =>
      (s.load (s.who 0) s.focus a (byteMask (a % 8) n) false (if a % n = 0 then none else some (cause 5 0 0))).run fun s v =>
        let v := s.me.taken a n v
        .next ((s.useEarly a n).completeX rd (post (fieldOf v a n)))

/-- LB (R63). -/
def execLb (rd rs1 : XReg) (imm : BitVec 12) (s : State) : Out :=
  s.scalarLoad rd (s.x rs1 + sx imm) 1 fun v => sx (v.truncate 8 : BitVec 8)
/-- LH (R63). -/
def execLh (rd rs1 : XReg) (imm : BitVec 12) (s : State) : Out :=
  s.scalarLoad rd (s.x rs1 + sx imm) 2 fun v => sx (v.truncate 16 : BitVec 16)
/-- LW (R63). -/
def execLw (rd rs1 : XReg) (imm : BitVec 12) (s : State) : Out := s.scalarLoad rd (s.x rs1 + sx imm) 4 sx32
/-- LD (R63). -/
def execLd (rd rs1 : XReg) (imm : BitVec 12) (s : State) : Out := s.scalarLoad rd (s.x rs1 + sx imm) 8 id
/-- LBU (R63). -/
def execLbu (rd rs1 : XReg) (imm : BitVec 12) (s : State) : Out := s.scalarLoad rd (s.x rs1 + sx imm) 1 id
/-- LHU (R63). -/
def execLhu (rd rs1 : XReg) (imm : BitVec 12) (s : State) : Out := s.scalarLoad rd (s.x rs1 + sx imm) 2 id
/-- LWU (R63). -/
def execLwu (rd rs1 : XReg) (imm : BitVec 12) (s : State) : Out := s.scalarLoad rd (s.x rs1 + sx imm) 4 id

/-- A scalar store issued behind incomplete vector work (R130): checked now and held uncommitted where its page is cached;
otherwise, or where a check fails, the store waits. -/
def State.holdStore (s : State) (a : Nat) (data : Word) (m : BitVec 8) : State :=
  if s.sh.mode = .m ∨ isReservedVa a ∨ isWindow a then s.block .vector
  else
    match (s.plbCheck (s.who 0) .store a).bind fun s _ => s.storeEntry (s.who 0) s.focus (a / 8) data m a none with
    | .ok t x =>
      if x.1.pol = 0 then
        (t.updMe fun y =>
          { y with held := y.held ++ [{ after := y.vseq, entry := x.1, leaf := x.2, mode := y.sh.mode }] }).complete
      else t.block .vector
    | .fault t _ _ => t.block .vector
    | .wait t _ => t.block .vector

/-- A scalar store of the low n bytes of a value (R63, R95, R130). -/
def State.scalarStore (s : State) (addr : Word) (n : Nat) (v : Word) : Out :=
  let a := addr.toNat
  if 8 < a % 8 + n then s.raise (cause 5 0 1) addr
  else if s.me.vectorBusy then .next ((s.useEarly a n).holdStore a (placeOf v a) (byteMask (a % 8) n))
  else
    s.follow a (byteMask (a % 8) n) fun s =>
      if s.noRoom (s.who 0) (a / 8) (byteMask (a % 8) n) then .next (s.block .storeBuffer)
      else
        (s.store (s.who 0) s.focus a (placeOf v a) (byteMask (a % 8) n) (if a % n = 0 then none else some (cause 5 0 1))).run
          fun s _ => .next s.complete
/-- SB (R63). -/
def execSb (rs1 rs2 : XReg) (imm : BitVec 12) (s : State) : Out := s.scalarStore (s.x rs1 + sx imm) 1 (s.x rs2)
/-- SH (R63). -/
def execSh (rs1 rs2 : XReg) (imm : BitVec 12) (s : State) : Out := s.scalarStore (s.x rs1 + sx imm) 2 (s.x rs2)
/-- SW (R63). -/
def execSw (rs1 rs2 : XReg) (imm : BitVec 12) (s : State) : Out := s.scalarStore (s.x rs1 + sx imm) 4 (s.x rs2)
/-- SD (R63). -/
def execSd (rs1 rs2 : XReg) (imm : BitVec 12) (s : State) : Out := s.scalarStore (s.x rs1 + sx imm) 8 (s.x rs2)

/-- ADDI (R61). -/
def execAddi (rd rs1 : XReg) (imm : BitVec 12) (s : State) : Out := .next (s.completeX rd (s.x rs1 + sx imm))
/-- SLTI (R61). -/
def execSlti (rd rs1 : XReg) (imm : BitVec 12) (s : State) : Out := .next (s.completeX rd (bw ((s.x rs1).slt (sx imm))))
/-- SLTIU (R61). -/
def execSltiu (rd rs1 : XReg) (imm : BitVec 12) (s : State) : Out := .next (s.completeX rd (bw ((s.x rs1).ult (sx imm))))
/-- XORI (R61). -/
def execXori (rd rs1 : XReg) (imm : BitVec 12) (s : State) : Out := .next (s.completeX rd (s.x rs1 ^^^ sx imm))
/-- ORI (R61). -/
def execOri (rd rs1 : XReg) (imm : BitVec 12) (s : State) : Out := .next (s.completeX rd (s.x rs1 ||| sx imm))
/-- ANDI (R61). -/
def execAndi (rd rs1 : XReg) (imm : BitVec 12) (s : State) : Out := .next (s.completeX rd (s.x rs1 &&& sx imm))
/-- SLLI (R61). -/
def execSlli (rd rs1 : XReg) (sh : BitVec 6) (s : State) : Out := .next (s.completeX rd (s.x rs1 <<< sh.toNat))
/-- SRLI (R61). -/
def execSrli (rd rs1 : XReg) (sh : BitVec 6) (s : State) : Out := .next (s.completeX rd (s.x rs1 >>> sh.toNat))
/-- SRAI (R61). -/
def execSrai (rd rs1 : XReg) (sh : BitVec 6) (s : State) : Out := .next (s.completeX rd ((s.x rs1).sshiftRight sh.toNat))
/-- ADDIW (R61). -/
def execAddiw (rd rs1 : XReg) (imm : BitVec 12) (s : State) : Out := .next (s.completeX rd (sx32 (s.x rs1 + sx imm)))
/-- The low 32 bits of a word. -/
def lo32 (v : Word) : BitVec 32 := v.truncate 32
/-- SLLIW (R61). -/
def execSlliw (rd rs1 : XReg) (sh : BitVec 5) (s : State) : Out := .next (s.completeX rd (sx (lo32 (s.x rs1) <<< sh.toNat)))
/-- SRLIW (R61). -/
def execSrliw (rd rs1 : XReg) (sh : BitVec 5) (s : State) : Out := .next (s.completeX rd (sx (lo32 (s.x rs1) >>> sh.toNat)))
/-- SRAIW (R61). -/
def execSraiw (rd rs1 : XReg) (sh : BitVec 5) (s : State) : Out :=
  .next (s.completeX rd (sx ((lo32 (s.x rs1)).sshiftRight sh.toNat)))

/-- ADD (R61). -/
def execAdd (rd rs1 rs2 : XReg) (s : State) : Out := .next (s.completeX rd (s.x rs1 + s.x rs2))
/-- SUB (R61). -/
def execSub (rd rs1 rs2 : XReg) (s : State) : Out := .next (s.completeX rd (s.x rs1 - s.x rs2))
/-- SLL (R61): the low 6 bits of rs2. -/
def execSll (rd rs1 rs2 : XReg) (s : State) : Out := .next (s.completeX rd (s.x rs1 <<< ((s.x rs2).toNat % 64)))
/-- SLT (R61). -/
def execSlt (rd rs1 rs2 : XReg) (s : State) : Out := .next (s.completeX rd (bw ((s.x rs1).slt (s.x rs2))))
/-- SLTU (R61). -/
def execSltu (rd rs1 rs2 : XReg) (s : State) : Out := .next (s.completeX rd (bw ((s.x rs1).ult (s.x rs2))))
/-- XOR (R61). -/
def execXor (rd rs1 rs2 : XReg) (s : State) : Out := .next (s.completeX rd (s.x rs1 ^^^ s.x rs2))
/-- SRL (R61). -/
def execSrl (rd rs1 rs2 : XReg) (s : State) : Out := .next (s.completeX rd (s.x rs1 >>> ((s.x rs2).toNat % 64)))
/-- SRA (R61). -/
def execSra (rd rs1 rs2 : XReg) (s : State) : Out := .next (s.completeX rd ((s.x rs1).sshiftRight ((s.x rs2).toNat % 64)))
/-- OR (R61). -/
def execOr (rd rs1 rs2 : XReg) (s : State) : Out := .next (s.completeX rd (s.x rs1 ||| s.x rs2))
/-- AND (R61). -/
def execAnd (rd rs1 rs2 : XReg) (s : State) : Out := .next (s.completeX rd (s.x rs1 &&& s.x rs2))
/-- ADDW (R61). -/
def execAddw (rd rs1 rs2 : XReg) (s : State) : Out := .next (s.completeX rd (sx32 (s.x rs1 + s.x rs2)))
/-- SUBW (R61). -/
def execSubw (rd rs1 rs2 : XReg) (s : State) : Out := .next (s.completeX rd (sx32 (s.x rs1 - s.x rs2)))
/-- SLLW (R61): the low 5 bits of rs2. -/
def execSllw (rd rs1 rs2 : XReg) (s : State) : Out :=
  .next (s.completeX rd (sx (lo32 (s.x rs1) <<< ((s.x rs2).toNat % 32))))
/-- SRLW (R61). -/
def execSrlw (rd rs1 rs2 : XReg) (s : State) : Out :=
  .next (s.completeX rd (sx (lo32 (s.x rs1) >>> ((s.x rs2).toNat % 32))))
/-- SRAW (R61). -/
def execSraw (rd rs1 rs2 : XReg) (s : State) : Out :=
  .next (s.completeX rd (sx ((lo32 (s.x rs1)).sshiftRight ((s.x rs2).toNat % 32))))

/-- The high half of an exact product (R61). -/
def highHalf (p : Int) : Word := BitVec.ofInt 64 (p / 2 ^ 64)
/-- MUL (R61). -/
def execMul (rd rs1 rs2 : XReg) (s : State) : Out := .next (s.completeX rd (s.x rs1 * s.x rs2))
/-- MULH (R61). -/
def execMulh (rd rs1 rs2 : XReg) (s : State) : Out :=
  .next (s.completeX rd (highHalf ((s.x rs1).toInt * (s.x rs2).toInt)))
/-- MULHSU (R61). -/
def execMulhsu (rd rs1 rs2 : XReg) (s : State) : Out :=
  .next (s.completeX rd (highHalf ((s.x rs1).toInt * (s.x rs2).toNat)))
/-- MULHU (R61). -/
def execMulhu (rd rs1 rs2 : XReg) (s : State) : Out :=
  .next (s.completeX rd (highHalf ((s.x rs1).toNat * (s.x rs2).toNat)))
/-- Signed division as published (R69): by zero gives all ones, overflow gives the dividend. -/
def divS {w : Nat} (a b : BitVec w) : BitVec w := if b = 0 then BitVec.allOnes w else BitVec.ofInt w (a.toInt.tdiv b.toInt)
/-- Unsigned division as published (R69). -/
def divU {w : Nat} (a b : BitVec w) : BitVec w := if b = 0 then BitVec.allOnes w else a / b
/-- Signed remainder as published (R69): by zero gives the dividend, overflow gives 0. -/
def remS {w : Nat} (a b : BitVec w) : BitVec w := if b = 0 then a else BitVec.ofInt w (a.toInt.tmod b.toInt)
/-- Unsigned remainder as published (R69). -/
def remU {w : Nat} (a b : BitVec w) : BitVec w := if b = 0 then a else a % b
/-- DIV (R61, R69). -/
def execDiv (rd rs1 rs2 : XReg) (s : State) : Out := .next (s.completeX rd (divS (s.x rs1) (s.x rs2)))
/-- DIVU (R61, R69). -/
def execDivu (rd rs1 rs2 : XReg) (s : State) : Out := .next (s.completeX rd (divU (s.x rs1) (s.x rs2)))
/-- REM (R61, R69). -/
def execRem (rd rs1 rs2 : XReg) (s : State) : Out := .next (s.completeX rd (remS (s.x rs1) (s.x rs2)))
/-- REMU (R61, R69). -/
def execRemu (rd rs1 rs2 : XReg) (s : State) : Out := .next (s.completeX rd (remU (s.x rs1) (s.x rs2)))
/-- MULW (R61). -/
def execMulw (rd rs1 rs2 : XReg) (s : State) : Out := .next (s.completeX rd (sx32 (s.x rs1 * s.x rs2)))
/-- DIVW (R61, R69). -/
def execDivw (rd rs1 rs2 : XReg) (s : State) : Out :=
  .next (s.completeX rd (sx (divS (lo32 (s.x rs1)) (lo32 (s.x rs2)))))
/-- DIVUW (R61, R69). -/
def execDivuw (rd rs1 rs2 : XReg) (s : State) : Out :=
  .next (s.completeX rd (sx (divU (lo32 (s.x rs1)) (lo32 (s.x rs2)))))
/-- REMW (R61, R69). -/
def execRemw (rd rs1 rs2 : XReg) (s : State) : Out :=
  .next (s.completeX rd (sx (remS (lo32 (s.x rs1)) (lo32 (s.x rs2)))))
/-- REMUW (R61, R69). -/
def execRemuw (rd rs1 rs2 : XReg) (s : State) : Out :=
  .next (s.completeX rd (sx (remU (lo32 (s.x rs1)) (lo32 (s.x rs2)))))

/-- A fence that releases and acquires (R229, R240): every earlier store registers, then the Discard at its scope. -/
def State.fenceAr (s : State) (sc : Scope) : Out :=
  s.afterVector fun s => s.release fun s => .next (s.acquire sc).complete

/-- FENCE (R64): `fence.s.ar.clu` where pred and succ both hold R or W, else nothing. -/
def execFence (_fm pred succ : BitVec 4) (_rs1 _rd : BitVec 5) (s : State) : Out :=
  if pred &&& 3 ≠ 0 ∧ succ &&& 3 ≠ 0 then s.fenceAr .clu else .next s.complete
/-- FENCE.I (R65): the shuttle's earlier stores register, and the core's instruction-side copies are discarded. -/
def execFenceI (_imm : BitVec 12) (_rs1 _rd : BitVec 5) (s : State) : Out :=
  s.afterVector fun s => s.release fun s => .next (s.updCore s.myCore fun k => { k with icache := [] }).complete

/-- The request that an ECALL in S mode sends to the firmware column (R66). -/
def State.ecallRequest (s : State) : Request :=
  { slot := some s.focus, vf := s.me.vf, number := s.x 10, args := [s.x 11, s.x 12, s.x 13, s.x 14, s.x 15] }
/-- ECALL (R66): a trap from U or M mode; from S mode a firmware service request, for whose reply the shuttle Waits. -/
def execEcall (s : State) : Out :=
  match s.sh.mode with
  | .u => s.raise (cause 0xA 0 0) 0
  | .m => s.raise (cause 0xA 0 2) 0
  | .s =>
    s.afterVector fun s =>
      if s.requests.any (fun r => r.slot == some s.focus) || s.longs.any (fun l => l.req.slot == some s.focus && l.reply.isNone &&
          s.me.wait.isSome) then .next (s.block .firmware)
      else .next ({ s with requests := s.requests ++ [s.ecallRequest] }.block .firmware)
/-- EBREAK (R66). -/
def execEbreak (s : State) : Out := s.raise (cause 0xA 0 3) s.sh.pc
/-- SRET (R67, R43): privileged. -/
def execSret (s : State) : Out :=
  if s.sh.mode = .u then s.raiseWord (cause 0 0 3)
  else s.afterVector fun s => .next (s.updMe fun m => { m with sh := m.sh.sret, wait := none, completed := true, jumped := false })
/-- MRET (R67): privileged to M mode. -/
def execMret (s : State) : Out :=
  if s.sh.mode = .m then .next (s.updMe fun m => { m.mret with wait := none, completed := true, jumped := false })
  else s.raiseWord (cause 0 0 3)
/-- WFI (R67): in S or M mode it completes while an interrupt is pending for the shuttle, and Waits otherwise. -/
def execWfi (s : State) : Out :=
  if s.sh.mode = .u then s.raiseWord (cause 0 0 3)
  else if s.pendingOn s.myCore ≠ 0 then .next s.complete
  else .next (s.block .wfi)

end Sys2Proof.Machine
end

