-- ==== Sys2Proof/Machine/Sync.lean ====
section
/-! DEFINITION. Ordering, atomic and synchronisation instructions (R239 to R251): acquire loads, release stores, fences, region
maintenance, scalar atomics, full/empty words, barriers and flag vectors. -/

namespace Sys2Proof.Machine

/-- `fence.s.acq.<sc>` (R229, R240): every earlier load, those of queued vector instructions too, is performed before it. -/
def execFenceSAcq (sc : Scope) (s : State) : Out := s.afterVector fun s => .next (s.acquire sc).complete
/-- `fence.s.rel.<sc>` (R229, R240). -/
def execFenceSRel (_sc : Scope) (s : State) : Out := s.afterVector fun s => s.release fun s => .next s.complete
/-- `fence.s.ar.<sc>` (R229, R240). -/
def execFenceSAr (sc : Scope) (s : State) : Out := s.fenceAr sc

/-- The words of a load that its buffer gives it nothing of: the load itself installs them Valid (R216). -/
def State.homeWords (s : State) (c k blk : Nat) (m : BitVec 8) : List Nat :=
  let vis := s.visible c k blk
  (wordsOf blk m).filter fun wd => !(vis.any fun e => e.mask &&& halfOf wd != 0)
/-- An acquire load of n bytes (R239). -/
def State.acqLoad (s : State) (sc : Scope) (rd : XReg) (addr : Word) (n : Nat) (post : Word → Word) : Out :=
  let a := addr.toNat
  if a % n ≠ 0 then s.raise (cause 5 0 0) addr
  else if s.loadHeld a then .next (s.block .vector)
  else
    s.follow a (byteMask (a % 8) n) fun s =>
      let keep := s.homeWords s.myCore s.focus (a / 8) (byteMask (a % 8) n)
      (s.load (s.who 0) s.focus a (byteMask (a % 8) n) true none).run fun s v =>
        .next ((s.acquireBut sc keep).completeX rd (post (fieldOf v a n)))
/-- LD_ACQ_W (R239). -/
def execLdAcqW (sc : Scope) (rd rs1 : XReg) (s : State) : Out := s.acqLoad sc rd (s.x rs1) 4 sx32
/-- LD_ACQ_D (R239). -/
def execLdAcqD (sc : Scope) (rd rs1 : XReg) (s : State) : Out := s.acqLoad sc rd (s.x rs1) 8 id
/-- A release store of n bytes (R239): held behind older vector instructions (R130). -/
def State.relStore (s : State) (addr : Word) (n : Nat) (v : Word) : Out :=
  let a := addr.toNat
  if a % n ≠ 0 then s.raise (cause 5 0 1) addr
  else
    s.afterVector fun s => s.release fun s =>
      s.follow a (byteMask (a % 8) n) fun s =>
        if s.noRoom (s.who 0) (a / 8) (byteMask (a % 8) n) then .next (s.block .storeBuffer)
        else (s.store (s.who 0) s.focus a (placeOf v a) (byteMask (a % 8) n) none).run fun s _ => .next s.complete
/-- ST_REL_W (R239). -/
def execStRelW (_sc : Scope) (rs1 rs2 : XReg) (s : State) : Out := s.relStore (s.x rs1) 4 (s.x rs2)
/-- ST_REL_D (R239). -/
def execStRelD (_sc : Scope) (rs1 rs2 : XReg) (s : State) : Out := s.relStore (s.x rs1) 8 (s.x rs2)

/-- The region check of `inv.r` and `wb.r` (R242): 0x5.0.4. -/
def regionBad (base len : Word) : Bool := decide (2 ^ 36 < len.toNat) || decide (2 ^ 56 < base.toNat + len.toNat)
/-- The 512-byte line overlaps the region (R242). -/
def lineIn (base len line : Nat) : Bool := decide (0 < len) && decide (base / 512 ≤ line) && decide (line ≤ (base + len - 1) / 512)
/-- INV_R (R242): a `fence.s.acq` whose Discard drops only the Valid words in the lines of the region. -/
def execInvR (sc : Scope) (rs1 rs2 : XReg) (s : State) : Out :=
  s.gate (.invR sc rs1 rs2) none fun s =>
    let base := s.x rs1
    let len := s.x rs2
    if regionBad base len then s.raise (cause 5 0 4) base
    else s.afterVector fun s => .next (((s.forget s.focus).updCore s.myCore fun c =>
      { c with l1 := c.l1.filter fun e => !(lineIn base.toNat len.toNat (e.1 * 4 / 512)) }).count s.myCore 0x008
        (some s.sh.mode)).complete
/-- The PLB checks of the 64 MiB regions that a region touches (R243). -/
def State.plbRegions (s : State) (w : Who) (base : Nat) : List Nat → Res Unit
  | [] => .ok s ()
  | r :: l => (s.plbRights w .load (max base (r * 2 ^ 26))).bind fun s _ => State.plbRegions s w base l
/-- The registrations of a region go home (R214, R243): every Registered word of its lines tagged with the VF is recalled. -/
def State.recallRegion (s : State) (v base len : Nat) : State :=
  (s.home.map (·.1)).foldl (fun t key =>
    if key / 2 ^ 56 = v ∧ lineIn base len (key % 2 ^ 56 * 4 / 512) then t.recall 4096 v (key % 2 ^ 56) else t) s
/-- WB_R (R243). -/
def execWbR (sc : Scope) (rs1 rs2 : XReg) (s : State) : Out :=
  s.gate (.wbR sc rs1 rs2) none fun s =>
    let base := s.x rs1
    let len := s.x rs2
    let b := base.toNat
    let n := len.toNat
    if regionBad base len then s.raise (cause 5 0 4) base
    else
      s.afterVector fun s =>
        (if s.sh.mode = .m ∨ n = 0 then .ok s ()
         else s.plbRegions (s.who 0) b
          ((List.range ((b + n - 1) / 2 ^ 26 - b / 2 ^ 26 + 1)).map fun i => b / 2 ^ 26 + i)).run fun s _ =>
          s.release fun s =>
            let t := s.recallRegion s.me.vf b n
            let v := s.me.vf
            .next ({ t with l2 := if sc = Scope.sys then t.l2.filter fun e => !(e.vf == v && lineIn b n e.line) else t.l2 }).complete

/-- A scalar atomic of R244. The operands are sign-extended for the word forms, which keeps both orders of comparison. -/
def State.scalarAtomic (s : State) (wd : Width) (ord : Order) (sc : Scope) (rd rs1 rs2 : XReg)
    (f : Word → Word → Word → Option Word) : Out :=
  let n := match wd with | .w => 4 | .d => 8
  let norm (v : Word) : Word := match wd with | .w => sx32 v | .d => v
  let addr := s.x rs1
  let a := addr.toNat
  let d := norm (s.x rs2)
  let e := norm (s.x rd)
  if a % n ≠ 0 then s.raise (cause 5 0 7) addr
  else
    s.afterVector fun s =>
      (if ord = .rel ∨ ord = .ar then s.release else fun f => f s) fun s =>
        s.follow a (byteMask (a % 8) n) fun s =>
          (s.atomic (s.who 0) s.focus a (byteMask (a % 8) n) fun old =>
            (f (norm (fieldOf old a n)) d e).map fun v => placeOf v a).run fun s old =>
              .next ((if ord = .acq ∨ ord = .ar then s.acquire sc else s.useEarly a n).completeX rd (norm (fieldOf old a n)))
/-- AMO_ADD (R244). -/
def execAmoAdd (wd : Width) (ord : Order) (sc : Scope) (rd rs1 rs2 : XReg) (s : State) : Out :=
  s.scalarAtomic wd ord sc rd rs1 rs2 fun old d _ => some (old + d)
/-- AMO_AND (R244). -/
def execAmoAnd (wd : Width) (ord : Order) (sc : Scope) (rd rs1 rs2 : XReg) (s : State) : Out :=
  s.scalarAtomic wd ord sc rd rs1 rs2 fun old d _ => some (old &&& d)
/-- AMO_OR (R244). -/
def execAmoOr (wd : Width) (ord : Order) (sc : Scope) (rd rs1 rs2 : XReg) (s : State) : Out :=
  s.scalarAtomic wd ord sc rd rs1 rs2 fun old d _ => some (old ||| d)
/-- AMO_XOR (R244). -/
def execAmoXor (wd : Width) (ord : Order) (sc : Scope) (rd rs1 rs2 : XReg) (s : State) : Out :=
  s.scalarAtomic wd ord sc rd rs1 rs2 fun old d _ => some (old ^^^ d)
/-- AMO_MIN (R244). -/
def execAmoMin (wd : Width) (ord : Order) (sc : Scope) (rd rs1 rs2 : XReg) (s : State) : Out :=
  s.scalarAtomic wd ord sc rd rs1 rs2 fun old d _ => some (if d.slt old then d else old)
/-- AMO_MAX (R244). -/
def execAmoMax (wd : Width) (ord : Order) (sc : Scope) (rd rs1 rs2 : XReg) (s : State) : Out :=
  s.scalarAtomic wd ord sc rd rs1 rs2 fun old d _ => some (if old.slt d then d else old)
/-- AMO_MINU (R244). -/
def execAmoMinu (wd : Width) (ord : Order) (sc : Scope) (rd rs1 rs2 : XReg) (s : State) : Out :=
  s.scalarAtomic wd ord sc rd rs1 rs2 fun old d _ => some (if d.ult old then d else old)
/-- AMO_MAXU (R244). -/
def execAmoMaxu (wd : Width) (ord : Order) (sc : Scope) (rd rs1 rs2 : XReg) (s : State) : Out :=
  s.scalarAtomic wd ord sc rd rs1 rs2 fun old d _ => some (if old.ult d then d else old)
/-- AMO_SWAP (R244). -/
def execAmoSwap (wd : Width) (ord : Order) (sc : Scope) (rd rs1 rs2 : XReg) (s : State) : Out :=
  s.scalarAtomic wd ord sc rd rs1 rs2 fun _ d _ => some d
/-- CAS (R244): a comparison that fails writes nothing. -/
def execCas (wd : Width) (ord : Order) (sc : Scope) (rd rs1 rs2 : XReg) (s : State) : Out :=
  s.scalarAtomic wd ord sc rd rs1 rs2 fun old d e => if old = e then some d else none

/-- The checks of a full/empty address, in order (R246). -/
def State.feCheck (s : State) (a : Nat) : Option (BitVec 10) :=
  if !(isWindow a) then some (cause 7 0 3)
  else match s.windowTest (s.partOfVf s.me.vf) s.myCore 0 a with
    | some c => some c
    | none => if a % 8 ≠ 0 then some (cause 5 0 3) else none
/-- The word at a scratchpad offset is full (R246). -/
def State.isFull (s : State) (c off : Nat) : Bool := SMap.get false (s.core c).ctx.full (off / 8)
/-- Set the full/empty bit of a word. -/
def State.setFull (s : State) (c off : Nat) (b : Bool) : State :=
  s.updCtx c fun x => { x with full := SMap.put false x.full (off / 8) b }
/-- The word is poisoned (R140). -/
def State.scratchPoisoned (s : State) (c off : Nat) : Bool := SMap.get false (s.core c).ctx.spoison (off / 8)
/-- The step of a full/empty instruction whose condition holds (R247): the value it returns. -/
def State.feStep (s : State) (c off : Nat) (i : Instr) (v : Word) : State × Word :=
  let old := (s.core c).ctx.scratchBlock (off / 8)
  match i with
  | .ldfe _ _ => (s.setFull c off false, old)
  | .stfe _ _ => ((s.updCtx c fun x => x.putScratch (off / 8) v 0xFF).setFull c off true, 0)
  | _ => (s, old)
/-- The step of a full/empty instruction of the shuttle of slot k is a committed access (R355). It counts as a load or a store.
DESIGN CHOICE, unsafe: log entry 98. -/
def State.noteFe (s : State) (k : Nat) (i : Instr) (va : Nat) : State :=
  s.noteLog { vf := (s.slot k).vf, core := k / 16, mode := (s.slot k).sh.mode, agent := 0 } (match i with | .stfe _ _ => .store | _ => .load) va false
/-- Serve the requests queued for a word, in arrival order, until none can proceed (R247). One that would read a poisoned word is not served:
its shuttle issues the instruction again, which raises 0xC.0.4 (R140). -/
def State.feScan (s : State) (c off : Nat) : Nat → State
  | 0 => s
  | n + 1 =>
    match (s.core c).ctx.waiters.find? (fun w => w.off == off && w.wantsFull == s.isFull c off) with
    | none => s
    | some w =>
      let t := s.updCtx c fun x => { x with waiters := x.waiters.erase w }
      if w.wantsFull && s.scratchPoisoned c off then State.feScan (t.updSlot w.shid fun m => m.wake (s.coreCycle (w.shid / 16))) c off n
      else match decodeWord (t.slot w.shid).word with
      | .instr i =>
        let data := match i with | .stfe _ rs2 => (t.slot w.shid).sh.getX rs2 | _ => 0
        let va := match (t.slot w.shid).wait with | some x => (match x.kind with | .fullEmpty a _ => a.toNat | _ => 0) | none => 0
        let (u, v) := (t.noteFe w.shid i va).feStep c off i data
        State.feScan (u.finish w.shid v) c off n
      | .reject _ => State.feScan t c off n
/-- Serve the waiters of a word after its state changed. DESIGN CHOICE, safe: log entry 21. -/
def State.feServe (s : State) (c off : Nat) : State := s.feScan c off ((s.core c).ctx.waiters.length + 1)
/-- A full/empty instruction with a condition (R247): its step, or a queued request. The shuttle's own stores to the word that are still on
their way come first (R77). -/
def State.fullEmpty (s : State) (i : Instr) (addr : Word) (wantsFull : Bool) (data : Word) (f : State → Word → Out) : Out :=
  let a := addr.toNat
  let c := windowCore a
  let off := windowOff a
  match s.me.doneValue with
  | some v => f s v
  | none =>
    match s.feCheck a with
    | some cs => s.raise cs addr
    | none =>
      let s := s.registerWhere s.myCore fun e => e.shid == s.focus && e.pol == 4 && e.block == a / 8
      if s.isFull c off == wantsFull then
        if wantsFull && s.scratchPoisoned c off then s.raise (cause 0xC 0 4) addr
        else
          let (t, v) := (s.noteFe s.focus i a).feStep c off i data
          f (t.feServe c off) v
      else if (s.core c).ctx.waiters.any (fun w => w.shid == s.focus) then .next (s.block (.fullEmpty addr true))
      else if (s.core c).ctx.waiters.length < 32 then
        .next ((s.updCtx c fun x => { x with waiters := x.waiters ++ [{ off := off, shid := s.focus, wantsFull := wantsFull }] }).block
          (.fullEmpty addr true))
      else .next (s.block (.fullEmpty addr false))
/-- LDFE (R247). -/
def execLdfe (rd rs1 : XReg) (s : State) : Out :=
  s.afterVector fun s => s.fullEmpty (.ldfe rd rs1) (s.x rs1) true 0 fun s v => .next ((s.acquire .clu).completeX rd v)
/-- STFE (R247). -/
def execStfe (rs1 rs2 : XReg) (s : State) : Out :=
  s.afterVector fun s =>
    if (s.me.doneValue).isSome then .next s.complete
    else match s.feCheck (s.x rs1).toNat with
      | some cs => s.raise cs (s.x rs1)
      | none => s.release fun s => s.fullEmpty (.stfe rs1 rs2) (s.x rs1) false (s.x rs2) fun s _ => .next s.complete
/-- LDFF (R247). -/
def execLdff (rd rs1 : XReg) (s : State) : Out :=
  s.afterVector fun s => s.fullEmpty (.ldff rd rs1) (s.x rs1) true 0 fun s v => .next ((s.acquire .clu).completeX rd v)
/-- A `fe.set` (R247). -/
def State.feSet (s : State) (addr : Word) (b : Bool) : Out :=
  s.afterVector fun s =>
    match s.feCheck addr.toNat with
    | some cs => s.raise cs addr
    | none =>
      .next ((s.setFull (windowCore addr.toNat) (windowOff addr.toNat) b).feServe (windowCore addr.toNat)
        (windowOff addr.toNat)).complete
/-- FE_SET_FULL (R247). -/
def execFeSetFull (rs1 : XReg) (s : State) : Out := s.feSet (s.x rs1) true
/-- FE_SET_EMPTY (R247). -/
def execFeSetEmpty (rs1 : XReg) (s : State) : Out := s.feSet (s.x rs1) false
/-- FE_REQUEST_RESEND (R247): a refused request of the subject's slot is made anew. -/
def execFeRequestResend (s : State) : Out :=
  let k := s.subject.core * 16 + s.subject.slot
  match (s.slot k).wait with
  | some w => (match w.kind with
    | .fullEmpty _ false => .next (s.signal k)
    | _ => .next s)
  | none => .next s

/-- The section of a barrier of the cluster of a core (R250). -/
def barrierSection (c b : Nat) : Nat := 2 * clusterOf c + b / 32
/-- Change a barrier. -/
def State.updBarrier (s : State) (sec b : Nat) (f : Barrier → Barrier) : State :=
  s.updSec sec fun c => { c with barriers := SMap.put {} c.barriers (b % 32) (f (c.barrier (b % 32))) }
/-- Complete a barrier if it is due (R250): the phase flips and its waiters are woken. -/
def State.barrierTest (s : State) (sec b : Nat) : State :=
  let x := (s.sec sec).barrier (b % 32)
  if x.init && x.cnt == x.tgt && x.pend == 0 then
    (s.updBarrier sec b fun x => { x with ph := !x.ph, cnt := 0 }).signalWhere fun _ w =>
      match w with | .barrier sc n => sc == sec && n == b % 32 | _ => false
  else s
/-- The causes of an arrival (R251). -/
def Barrier.arriveCause (x : Barrier) : Option (BitVec 10) :=
  if !x.init then some (cause 7 0 4) else if x.cnt = x.tgt then some (cause 7 0 1) else none
/-- One arrival (R251): whether it completed the barrier, and the phase before it. -/
def State.arrive (s : State) (sec b : Nat) : State × Bool × Bool :=
  let ph := ((s.sec sec).barrier (b % 32)).ph
  let t := (s.updBarrier sec b fun x => { x with cnt := x.cnt + 1 }).barrierTest sec b
  (t, ((t.sec sec).barrier (b % 32)).ph != ph, ph)
/-- A barrier instruction on barrier b of the current cluster (R250): outside the partition it traps. -/
def State.onBarrier (s : State) (b : BitVec 6) (f : State → Nat → Barrier → Out) : Out :=
  let sec := barrierSection s.myCore b.toNat
  if (s.part (s.partOfVf s.me.vf)).hasSection sec then f s sec ((s.sec sec).barrier (b.toNat % 32))
  else s.raise (cause 2 0 7) (zx b)
/-- The status word of a barrier (R251). -/
def barrierWord (done ph : Bool) : Word := bw ph ||| (bw done <<< 1)
/-- BAR_INIT (R251). -/
def execBarInit (b : BitVec 6) (rs1 : XReg) (s : State) : Out :=
  s.gate (.barInit b rs1) none fun s => s.afterVector fun s => s.onBarrier b fun s sec _ =>
    let v := s.x rs1
    if v.toNat / 65536 ≠ 0 then s.raise (cause 7 0 4) (zx b)
    else .next (s.updBarrier sec b.toNat fun x =>
      { x with tgt := v.toNat, cnt := 0, pend := 0, init := decide (v ≠ 0) }).complete
/-- BAR_ARR (R251). -/
def execBarArr (rd : XReg) (b : BitVec 6) (s : State) : Out :=
  s.afterVector fun s => s.onBarrier b fun s _ _ => s.release fun s => s.onBarrier b fun s sec x =>
    match x.arriveCause with
    | some c => s.raise c (zx b)
    | none =>
      let (t, done, ph) := s.arrive sec b.toNat
      .next (t.completeX rd (barrierWord done ph))
/-- BAR_EXP (R251). -/
def execBarExp (b : BitVec 6) (rs1 : XReg) (s : State) : Out :=
  s.gate (.barExp b rs1) none fun s => s.afterVector fun s => s.onBarrier b fun s sec x =>
    if !x.init then s.raise (cause 7 0 4) (zx b)
    else if 2 ^ 36 ≤ x.pend + (s.x rs1).toNat then s.raise (cause 7 0 2) (zx b)
    else .next ((s.updBarrier sec b.toNat fun y => { y with pend := y.pend + (s.x rs1).toNat }).barrierTest sec b.toNat).complete
/-- BAR_WAIT (R251). -/
def execBarWait (b : BitVec 6) (rs1 : XReg) (s : State) : Out :=
  s.onBarrier b fun s sec x =>
    if !x.init then s.raise (cause 7 0 4) (zx b)
    else if x.ph != bitOf (s.x rs1) 0 then .next (s.acquire .clu).complete
    else .next (s.block (.barrier sec (b.toNat % 32)))
/-- BAR_TEST (R251). -/
def execBarTest (rd : XReg) (b : BitVec 6) (s : State) : Out :=
  s.onBarrier b fun s _ x =>
    if !x.init then s.raise (cause 7 0 4) (zx b)
    else
      let done := x.ph != bitOf (s.x rd) 0
      .next ((if done then s.acquire .clu else s).completeX rd (barrierWord done x.ph))

/-- Set a watch on a word at a home slice (R217): a Registered word is recalled first; the oldest of 128 entries gives way. -/
def State.setWatch (s : State) (slice v wd : Nat) (who : Watcher) : State :=
  let t := (s.keepLine v (wd / 128) slice).recall 4096 v wd
  let mine := t.watches.filter fun w => w.slice == slice && !w.fired
  let u := match mine with
    | w :: _ => if 128 ≤ mine.length then { t with watches := t.watches.erase w }.deliver [w] else t
    | [] => t
  { u with watches := u.watches ++ [{ slice := slice, vf := v, word := wd, who := who }] }
/-- Remove the watches of a watcher (R260). -/
def State.dropWatches (s : State) (who : Watcher) : State := { s with watches := s.watches.filter fun w => w.who != who }
/-- Watch a flag for a slot, where its page is cached or uncached (R249). -/
def State.watchFlag (s : State) (k : Nat) (va : Nat) : State :=
  if isWindow va ∨ isReservedVa va then s
  else
    let m := s.slot k
    match s.locate m.vf (dieOf (k / 16)) va with
    | some (e, _, _) =>
      if 2 ≤ ptePol e then s
      else match s.homeOf m.vf e va with
        | some sl => (s.setWatch sl m.vf (va / 4) (.slot k)).setWatch sl m.vf (va / 4 + 1) (.slot k)
        | none => s
    | none => s

/-- The flags of a `vwait` that are not met, of those asked for: each read as an acquire load (R249). -/
def State.readFlags (s : State) (addr want : Nat → Word) : List Nat → Res (List Nat)
  | [] => .ok s []
  | i :: l =>
    (s.load { s.who 1 with agent := 1 } s.focus (addr i).toNat 0xFF true none).bind fun s v =>
      (State.readFlags s addr want l).bind fun s rest => .ok s (if v.toNat < (want i).toNat then i :: rest else rest)
/-- The address whose page pull the wait of the shuttle in focus waits for besides. -/
def State.waitsPage (s : State) (p : Option Nat) : State := s.updMe fun m => { m with wait := m.wait.map fun w => { w with page := p } }
/-- VWAIT (R249): the thread's vector queue is empty when it runs, since nothing issues behind it. -/
def execVwait (md : MReg) (va vb : VReg) (t : BitVec 3) (s : State) : Out :=
  s.gate (.vwait md va vb t) (if s.sh.vtype.isNone || decide (16 < s.sh.vlc.toNat) then some (cause 0 1 0) else none) fun s =>
    s.afterVector fun s =>
      let a : VArgs := { ck := s.sh, regs := s.me.vregs, masks := s.me.masks }
      let addr (i : Nat) : Word := BitVec.ofNat 64 (a.elt 64 va.val i)
      let want (i : Nat) : Word := BitVec.ofNat 64 (a.elt 64 vb.val i)
      let stop (s : State) (c : BitVec 10) (tv : Word) : Out :=
        .next ((s.updSh fun sh => { sh with vresume := 0 }).takeTrap c tv)
      if s.me.anyPoison (a.keys 64 [va, vb] (List.range a.n)) then stop s (cause 0xC 1 4) 0
      else match (List.range a.n).find? (fun i => (addr i).toNat % 8 != 0) with
      | some i => stop s (cause 5 1 5) (addr i)
      | none =>
        let todo := match s.me.wait with
          | some w => (match w.kind with | .vwait _ u => u | _ => List.range a.n)
          | none => List.range a.n
        let counted := match s.me.wait with | some w => (if w.kind.tag = 13 then w.counted else 0) | none => 0
        match s.readFlags addr want todo with
        | .fault s c tv => stop s c tv
        | .wait s p => .next (((s.askPull s.me.vf p true (dieOf s.myCore)).block (.vwait t.toNat todo)).waitsPage (some p))
        | .ok s unmet =>
          let s := s.dropWatches (.slot s.focus)
          if unmet.isEmpty || decide (2 ^ (10 + 2 * t.toNat) ≤ counted) then
            let m : BitVec 4096 := unmet.foldl (fun m i => m ||| BitVec.ofNat 4096 (2 ^ i)) 0
            .next (((s.updMe fun x =>
              { x with masks := SMap.put 0 x.masks md.val m, sh := { x.sh with vresume := 0 } }).acquire .clu).complete)
          else
            .next (((unmet.foldl (fun t i => t.watchFlag t.focus (addr i).toNat) s).block (.vwait t.toNat unmet)).waitsPage none)
/-- The subject's slot waits in a `vwait`. -/
def State.inVwait (s : State) (k : Nat) : Bool :=
  match (s.slot k).wait with | some w => w.kind.tag == 13 | none => false
/-- VWAIT_POLL (R249): the flags of the subject's slot are read again. -/
def execVwaitPoll (s : State) : Out :=
  let k := s.subject.core * 16 + s.subject.slot
  .next (if s.inVwait k then s.signal k else s)
/-- VWAIT_TIMEOUT (R249): the timeout of the subject's slot has elapsed; the instruction ends with its unmet set. -/
def execVwaitTimeout (s : State) : Out :=
  let k := s.subject.core * 16 + s.subject.slot
  match (s.slot k).wait with
  | some w => (match w.kind with
    | .vwait t _ =>
      .next (if 2 ^ (10 + 2 * t) ≤ w.counted ∧ (s.slot k).parked = false ∧ (s.slot k).again = false then s.updSlot k fun m => m.wake (s.coreCycle (k / 16)) else s)
    | _ => .next s)
  | none => .next s

end Sys2Proof.Machine
end

