-- ==== Sys2Proof/Machine/Shuttle.lean ====
section
/-! DEFINITION. The seven shuttle and pacing instructions (R70 to R76), and the steps by which an offered start, an exit and a ring
post take effect. -/

namespace Sys2Proof.Machine

/-- The frame of a shuttle that firmware has moved off slot k of a fenced core, with operations still counted (R99). -/
def State.dropMoved (s : State) (k : Nat) (f : Frame → Frame) : State :=
  let g (x : Frame) : Frame := if x.src = k ∧ (x.tl ≠ 0 ∨ x.cp ≠ 0) then f x else x
  { s with queued := s.queued.map g, frames := s.frames.map g }
/-- TL or CP falls by one (R23). -/
def State.dropTl (s : State) (k : Nat) : State :=
  if (s.slot k).life = .free then s.dropMoved k fun f => { f with tl := f.tl - 1 }
  else (s.updSlot k fun m => { m with tl := m.tl - 1 }).counterFell k
/-- CP falls by one (R23). -/
def State.dropCp (s : State) (k : Nat) : State :=
  if (s.slot k).life = .free then s.dropMoved k fun f => { f with cp := f.cp - 1 }
  else (s.updSlot k fun m => { m with cp := m.cp - 1 }).counterFell k
/-- A deferred engine fault is held for a shuttle (R185, R259). -/
def State.holdDeferred (s : State) (k : Nat) (d : Deferred) : State :=
  if (s.slot k).life = .free then s.dropMoved k fun f => { f with deferred := f.deferred ++ [d] }
  else (s.updSlot k fun m => { m with deferred := m.deferred ++ [d] }).counterFell k
/-- A deferred fault that a test selects is taken by the instruction in focus, the earliest first (R414). -/
def State.deferredFirst (s : State) (p : Deferred → Bool) (f : State → Out) : Out :=
  match s.me.firstDeferred p with
  | some d => s.afterVector fun s => .next (s.takeDeferred s.focus d)
  | none => f s

/-- Load n doublewords at an address, each checked as a scalar load (R70, R254). -/
def State.loadBlockWords (s : State) (w : Who) (a : Nat) : Nat → Res (List Word)
  | 0 => .ok s []
  | n + 1 =>
    (s.load w s.focus a 0xFF false none).bind fun s v =>
      (State.loadBlockWords s w (a + 8) n).bind fun s l => .ok s (v :: l)

/-- A class code (R70). -/
def classOfCode : Nat → Option CoreClass
  | 0 => some .control | 1 => some .vector | 2 => some .matrix | _ => none
/-- The fields of a control word that make a start block invalid whatever its target (R70). -/
def State.controlBad (s : State) (w : Word) (issuerU : Bool) : Bool :=
  decide (bitsOf w 29 15 ≠ 0) || decide (bitsOf w 1 0 ≠ 0) || decide (1024 < bitsOf w 14 4) || decide (2 ≤ bitsOf w 31 30)
    || (bitsOf w 31 30 == 1 && issuerU) || s.tswBad (w >>> 32)
/-- The checks of a target word and a start block, in order (R70): the code, or the core chosen. -/
def State.startCheck (s : State) (p src : Nat) (blk : List Word) (tgt : Word) (issuerU : Bool) : Nat ⊕ Nat :=
  let kind := bitsOf tgt 13 12
  let sel := bitsOf tgt 11 0
  let w (i : Nat) : Word := blk.getD i 0
  let blockBad (cl : CoreClass) : Bool :=
    decide ((w 0).toNat % 4 ≠ 0) || decide ((w 4).toNat % 8 ≠ 0) || w 5 != 0 || w 6 != 0 || w 7 != 0
      || s.controlBad (w 3) issuerU || decide (scratchLimit cl < bitsOf (w 3) 14 4)
  if tgt.toNat / 16384 ≠ 0 ∨ 2 ≤ kind then .inl 2
  else if kind = 0 then
    (if s.inPart p sel && !(s.inColumn sel) then (if blockBad (classOf sel) then .inl 5 else .inr sel) else .inl 2)
  else
    match classOfCode sel with
    | none => .inl 2
    | some cl =>
      match minBy (coreKey src) (s.eligible p [cl]) with
      | none => .inl 6
      | some near => if blockBad cl then .inl 5 else .inr ((s.nearest src p [cl]).getD near)
/-- The status word of `shstart` (R70). -/
def startStatus (code core : Nat) : Word := BitVec.ofNat 64 (code + (if code < 2 then core * 65536 else 0))
/-- SHSTART (R70). -/
def execShstart (rd rs1 rs2 : XReg) (s : State) : Out :=
  s.gate (.shstart rd rs1 rs2) none fun s =>
    match s.me.doneValue with
    | some v => .next (s.completeX rd v)
    | none =>
      let a := s.x rs1
      let tgt := s.x rs2
      if a.toNat % 64 ≠ 0 then s.raise (cause 5 0 3) a
      else
        s.afterVector fun s => s.release fun s =>
          (s.loadBlockWords (s.who 0) a.toNat 8).run fun s blk =>
            match s.startCheck (s.partOfVf s.me.vf) s.myCore blk tgt (s.sh.mode == .u) with
            | .inl code => .next (s.completeX rd (startStatus code 0))
            | .inr core =>
              let st : Start :=
                { vf := s.me.vf, core := core, entry := blk.getD 0 0, arg0 := blk.getD 1 0, arg1 := blk.getD 2 0
                  control := blk.getD 3 0, task := { completion := blk.getD 4 0 } }
              if s.eager then
                let (t, code) := s.offer st false
                .next (t.completeX rd (startStatus code core))
              else .next ({ s with offers := s.offers ++ [{ st with issuer := some (s.focus, rd.val) }] }.block .offer)
/-- Where a die offers a start (R310, R389): its core, or the nearest candidate where that is fenced or outside the partition. -/
def State.dieTarget (s : State) (st : Start) : Nat :=
  let p := s.partOfVf st.vf
  if s.inPart p st.core && !(s.isFenced st.core) then st.core
  else (s.nearest st.core p [classOf st.core]).getD ((minBy (coreKey st.core) (s.eligible p [classOf st.core])).getD st.core)
/-- A start of a die is offered (R310, R311): one that no entry takes is held by the die. -/
def State.dieOfferNow (s : State) (st : Start) (alone : Bool) : State :=
  let st := { st with core := s.dieTarget st }
  match s.offer st alone with
  | (t, 4) => { t with heldStarts := t.heldStarts ++ [st] }
  | (t, 3) => { t with heldStarts := t.heldStarts ++ [st] }
  | (t, _) => t
/-- The queue and die of the record that a held start comes from (R311). -/
def Start.source (st : Start) : Option (Nat × Nat × Nat) := st.task.record.map fun r => (st.vf, r.1, r.2 % 8)
/-- An offer reaches its heddle (R70, R311): the status goes back to the issuer, if it is a shuttle's. -/
def State.deliverOffer (s : State) (st : Start) (alone : Bool) : State :=
  let s := { s with offers := s.offers.erase st }
  match st.issuer with
  | some (k, _) =>
    let (t, code) := s.offer st alone
    t.finish k (startStatus code st.core)
  | none => s.dieOfferNow st alone
/-- START_OFFER (R70, R311): the subject's item numbers the offer that reaches its heddle, counting on into the starts that a die holds
because no entry took them, of which those of one queue are offered in order while their VF runs. With the subject's flag set, no frame on its
way to the core reaches it in the same cycle (R71). -/
def execStartOffer (s : State) : Out :=
  match s.offers[s.subject.item]? with
  | none =>
    let n := s.subject.item - s.offers.length
    match s.heldStarts[n]? with
    | none => .next s
    | some st =>
      if !(s.running st.vf) || (s.heldStarts.take n).any (fun x => x.source == st.source) then .next s
      else match s.offer { st with core := s.dieTarget st } s.subject.flag with
      | (_, 3) => .next s
      | (_, 4) => .next s
      | (t, _) => .next { t with heldStarts := t.heldStarts.erase st }
  | some st => .next (s.deliverOffer st s.subject.flag)
/-- START_ENTRY_SERVED (R311, R312): the heddle of the subject's core serves its best entry. -/
def execStartEntryServed (s : State) : Out :=
  .next (if s.isFenced s.subject.core then s else s.serveStart s.subject.core)

/-- The core that `shmove.home` names: the home of an address, under the checks of a one-byte load (R71). DEDUCED, unsafe: log entry 23. -/
def State.homeCore (s : State) (va : Nat) : Res Nat :=
  let w := s.who 0
  let tv : Word := BitVec.ofNat 64 va
  if isReservedVa va then .fault s (pageFault 0 .load) tv
  else if isWindow va then
    (match s.windowTest (s.partOfVf w.vf) w.core 0 va with | some c => .fault s c tv | none => .ok s (windowCore va))
  else
    (s.plbCheck w .load va).bind fun s _ =>
      (s.atbCheck w .load va).bind fun s e =>
        match s.homeOf w.vf e.leaf va with
        | some h => .ok s h
        | none => .fault s (cause 3 0 5) tv
/-- Move to a core, once it is known to be in the partition (R71). The move is a transfer of control (R40). -/
def State.moveTo (s : State) (t : Nat) : Out :=
  if s.isFenced t then s.raise (cause 1 0 1) (BitVec.ofNat 64 t)
  else if t = s.myCore then .next s.complete
  else s.afterVector fun s => .next (s.startPacking { reason := 2, named := t, word := s.me.word, pc := s.sh.pc + 4, jumped := true })
/-- SHMOVE (R71). -/
def execShmove (rs1 : XReg) (s : State) : Out :=
  let t := s.x rs1
  let n := t.toNat
  if s.sh.mode = .m then s.raiseWord (cause 0 0 0)
  else if 4096 ≤ n ∨ 192 ≤ n % 256 ∨ s.inPart (s.partOfVf s.me.vf) n = false ∨ s.inColumn n = true then s.raise (cause 1 0 0) t
  else s.moveTo n
/-- SHMOVE_HOME (R71). -/
def execShmoveHome (rs1 : XReg) (s : State) : Out :=
  if s.sh.mode = .m then s.raiseWord (cause 0 0 0)
  else (s.homeCore (s.x rs1).toNat).run fun s t => s.moveTo t

/-- The signal checks of `shexit` (R72): the PLB and translation checks of an atomic on each word. -/
def State.checkSignals (s : State) (w : Who) : List Word → Res Unit
  | [] => .ok s ()
  | a :: l =>
    (if isReservedVa a.toNat then .fault s (pageFault 0 .atomic) a
     else if isWindow a.toNat then
      (match s.windowTest (s.partOfVf w.vf) w.core 0 a.toNat with | some c => .fault s c a | none => .ok s ())
     else (s.plbCheck w .atomic a.toNat).bind fun s _ => (s.reach w .atomic a.toNat 0xFF).bind fun s _ => .ok s ()).bind fun s _ =>
      State.checkSignals s w l
/-- The words that an exit decrements: successor counters, then the completion word (R72). -/
def TaskInfo.signals (t : TaskInfo) : List Word := t.successors ++ (if t.completion = 0 then [] else [t.completion])
/-- One decrement of an exit (R72): none is made on a word that cannot be had; a page pull is waited for. -/
def State.decrement (s : State) (k : Nat) (a : Word) : State × Bool :=
  let m := s.slot k
  let w : Who := { vf := m.vf, core := k / 16, mode := m.sh.mode, agent := 0 }
  match s.atomic w k a.toNat 0xFF fun old => some (old - 1) with
  | .ok t _ => (t, true)
  | .fault t _ _ => (t, true)
  | .wait t p => (t.askPull m.vf p true (dieOf (k / 16)), false)
/-- The decrements of an exit, in order; those left stay with the task (R72). -/
def State.decrements (s : State) (k : Nat) : List Word → State × List Word
  | [] => (s, [])
  | a :: l =>
    match s.decrement k a with
    | (t, true) => State.decrements t k l
    | (t, false) => (t, a :: l)
/-- The slot, vector and mask state, depth grant and scratch grant of an exited shuttle are freed (R72, R312), and the record that
started it has one shuttle less (R319). -/
def State.freeShuttle (s : State) (k : Nat) : State :=
  let m := s.slot k
  let s1 := match m.task.grant with
    | some (c, o, n) => s.updCtx c fun x => x.freeScratch o n (classOf c == CoreClass.vector)
    | none => s
  let s1 := match m.mixOrder with | some r => if (s1.slot r).life = Life.reserved then s1.freeSlotOf r else s1 | none => s1
  let s2 := match m.task.record with
    | some (q, r) => s1.updVf m.vf fun v => v.updQueue q fun h => { h with open_ := h.open_.erase (r / 8, r % 8) }
    | none => s1
  s2.freeSlotOf k
/-- EXITING goes on (R72): a held fault or a refusal is taken instead; else, with the counters at zero, the release, the
decrements, and the slot is freed. -/
def State.tryExit (s : State) (k : Nat) : State :=
  let m := s.slot k
  if m.life ≠ .exiting then s
  else
    let finishExit (t : State) : State :=
      match t.decrements k (t.slot k).task.signals with
      | (u, []) =>
        let v := u.freeShuttle k
        if v.eager then v.deliverFreed (k / 16) else v
      | (u, l) => u.updSlot k fun m => { m with task := { m.task with successors := l, completion := 0 } }
    if m.doneValue.isSome then finishExit s
    else if m.vectorBusy then s
    else match m.firstDeferred (fun _ => true) with
      | some d => s.takeDeferred k d
      | none =>
        if !(m.refused.isEmpty) then s.trapRefused k
        else if !(m.held.isEmpty) || m.tl != 0 || m.cp != 0 || s.stOf k != 0 then s
        else
          let t := s.releaseSlot k
          if (t.slot k).refused.isEmpty then finishExit (t.updSlot k fun m => { m with wait := some { kind := .done 0 } })
          else t.trapRefused k
/-- SHEXIT (R72, R414). -/
def execShexit (s : State) : Out :=
  s.deferredFirst (fun _ => true) fun s =>
    s.afterVector fun s =>
      (s.checkSignals (s.who 0) s.me.task.signals).run fun s _ =>
        let t := s.updMe fun m => { m with life := .exiting, wait := none }
        .next (if t.eager then t.tryExit t.focus else t)
/-- EXIT_RELEASE (R72) of the subject's slot. -/
def execExitRelease (s : State) : Out := .next (s.tryExit (s.subject.core * 16 + s.subject.slot))

/-- CWAIT (R74): a limit of 31 places no condition. No load behind it is taken ahead of it (R233). -/
def execCwait (ld st cp tl : BitVec 5) (s : State) : Out :=
  s.deferredFirst (fun _ => true) fun s =>
    let m := s.me
    let ok (lim : BitVec 5) (c : Nat) : Bool := lim == 31 || decide (c ≤ lim.toNat)
    if ok ld m.ld && ok st (s.stOf s.focus) && ok cp m.cp && ok tl m.tl then .next (s.forget s.focus).complete else .next (s.block .cwait)

/-- The section of an iteration-ring channel of the cluster of a core (R75). -/
def ringSection (c ch : Nat) : Nat := 2 * clusterOf c + ch / 4
/-- Advance C past the posted iterations at the bottom of the window (R75). -/
def RingChannel.advance : Nat → RingChannel → RingChannel
  | 0, r => r
  | n + 1, r => if r.w.getLsbD 0 then RingChannel.advance n { r with c := r.c + 1, w := r.w >>> 1 } else r
/-- Apply a post (R75). -/
def RingChannel.post (r : RingChannel) (v : Word) : RingChannel :=
  let i := v.toNat % 2 ^ 63
  if bitOf v 63 then { r with c := i, w := 0 }
  else if i < r.c ∨ r.c + 64 ≤ i then r
  else RingChannel.advance 64 { r with w := r.w ||| BitVec.ofNat 64 (2 ^ (i - r.c)) }
/-- Change a ring channel, and wake those who wait on it (R75). -/
def State.updRing (s : State) (sec ch : Nat) (f : RingChannel → RingChannel) : State :=
  (s.updSec sec fun c => { c with ring := SMap.put {} c.ring (ch % 4) (f (c.ringCh (ch % 4))) }).signalWhere fun _ w =>
    match w with | .ring sc n => sc == sec && n == ch % 4 | _ => false
/-- An instruction on ring channel ch of the current cluster (R75): outside the partition it traps. -/
def State.onRing (s : State) (ch : BitVec 3) (f : State → Nat → RingChannel → Out) : Out :=
  let sec := ringSection s.myCore ch.toNat
  if (s.part (s.partOfVf s.me.vf)).hasSection sec then f s sec ((s.sec sec).ringCh (ch.toNat % 4))
  else s.raise (cause 2 0 7) (zx ch)
/-- IPOST (R75): the post is applied at once, or left for the ring to apply. The posts of one shuttle take effect in program order: one waits
while an earlier one of its shuttle, to any channel, is on its way. DESIGN CHOICE, safe: log entry 77. -/
def execIpost (ch : BitVec 3) (rs1 : XReg) (s : State) : Out :=
  s.onRing ch fun s _ _ => s.afterVector fun s => s.release fun s => s.onRing ch fun s sec r =>
    let v := s.x rs1
    let i := v.toNat % 2 ^ 63
    if s.posting s.focus then .next (s.block .vector)
    else if !(bitOf v 63) && decide (i < r.c) then .next s.complete
    else if !(bitOf v 63) && decide (r.c + 64 ≤ i) then .next (s.block (.ring sec (ch.toNat % 4)))
    else if s.eager then .next (s.updRing sec ch.toNat fun r => r.post v).complete
    else
      .next (s.updSec sec fun c =>
        let old := c.ringCh (ch.toNat % 4)
        { c with ring := SMap.put {} c.ring (ch.toNat % 4) { old with posts := old.posts ++ [(s.focus, v)] } }).complete
/-- IWAIT (R75). -/
def execIwait (ch : BitVec 3) (rs1 : XReg) (s : State) : Out :=
  s.onRing ch fun s sec r =>
    if r.c < (s.x rs1).toNat % 2 ^ 63 then .next (s.block (.ring sec (ch.toNat % 4))) else .next (s.acquire .clu).complete
/-- The posts on their way that the ring may apply in a cycle (R75): those in the window; in one ring cycle, in ascending core number. -/
def RingChannel.candidates (r : RingChannel) (now : Word) : List (Nat × Word) :=
  r.posts.filter fun p =>
    (bitOf p.2 63 || decide (p.2.toNat % 2 ^ 63 < r.c + 64)) &&
      (match r.last with | some (t, c) => t != now || decide (c ≤ p.1 / 16) | none => true)
/-- RING_POST_APPLY (R75): the ring applies the post, of the subject's section and channel, that the subject's item numbers among those it
may apply. A shuttle whose next post waited for it goes on. -/
def execRingPostApply (s : State) : Out :=
  let sec := s.subject.section_
  let ch := s.subject.chan
  match (((s.sec sec).ringCh (ch % 4)).candidates s.arith)[s.subject.item]? with
  | some p =>
    let t := s.updRing sec ch fun r => { r.post p.2 with posts := r.posts.erase p, last := some (s.arith, p.1 / 16) }
    .next (match (t.slot p.1).wait with
      | some w => if w.kind = .vector then t.signal p.1 else t
      | none => t)
  | none => .next s

end Sys2Proof.Machine
end

