-- ==== Sys2Proof/Machine/VecArith.lean ====
section
/-! DEFINITION. What the register-only vector instructions compute (R142 to R144, R158 to R174), as pure functions of the captured
shuttle state, the vector registers and the masks. The active elements begin at the start index (R22). -/

namespace Sys2Proof.Machine

/-- The result of an integer operation at width w: wrapped, with the exception-mask bit given. -/
def intOut (t : Int) (w : Nat) (exc : Bool) : EltOut := { val := wrap t w, exc := exc }
/-- The result of a saturating operation. -/
def satOut (t : Int) (w : Nat) (signed : Bool) : EltOut := { val := wrap (sat t w signed) w, exc := overBit t w signed }
/-- The result of an FP operation, with the mask bit of R106. -/
def fpOut (p : Nat × FFlags) : EltOut := { val := p.1, flags := p.2, exc := excBit p.2 }

/-- A binary integer instruction by ext (R158). -/
def VArgs.intOp (a : VArgs) (x : Bool) (vm : MReg) (vd vs1 vs2 : VReg) (f : Int → Int → EltOut) : VEff :=
  a.mapElts x vm a.et.width vd fun i => f (a.int vs1 i) (a.int vs2 i)
/-- A binary instruction on the bits of its operands (R158). -/
def VArgs.bitOp (a : VArgs) (x : Bool) (vm : MReg) (vd vs1 vs2 : VReg) (f : Nat → Nat → EltOut) : VEff :=
  a.mapElts x vm a.et.width vd fun i => f (a.cur vs1 i) (a.cur vs2 i)
/-- A result of vadd, vsub, vmul: wrapped, the mask bit where it is out of range (R158). -/
def VArgs.arith (a : VArgs) (t : Int) : EltOut := intOut t a.et.width (overBit t a.et.width a.et.isSigned)

/-- `vadd` (R158). -/
def vaddEff (x : Bool) (vm : MReg) (vd vs1 vs2 : VReg) (a : VArgs) : VEff := a.intOp x vm vd vs1 vs2 fun p q => a.arith (p + q)
/-- `vsub` (R158). -/
def vsubEff (x : Bool) (vm : MReg) (vd vs1 vs2 : VReg) (a : VArgs) : VEff := a.intOp x vm vd vs1 vs2 fun p q => a.arith (p - q)
/-- `vmul` (R158). -/
def vmulEff (x : Bool) (vm : MReg) (vd vs1 vs2 : VReg) (a : VArgs) : VEff := a.intOp x vm vd vs1 vs2 fun p q => a.arith (p * q)
/-- `vmulh` (R158). -/
def vmulhEff (x : Bool) (vm : MReg) (vd vs1 vs2 : VReg) (a : VArgs) : VEff :=
  a.intOp x vm vd vs1 vs2 fun p q => intOut (p * q / (2 ^ a.et.width : Nat)) a.et.width false
/-- `vmacc` (R158). -/
def vmaccEff (x : Bool) (vm : MReg) (vd vs1 vs2 : VReg) (a : VArgs) : VEff :=
  a.mapElts x vm a.et.width vd fun i => a.arith (a.int vd i + a.int vs1 i * a.int vs2 i)
/-- `vmin` (R158). -/
def vminEff (x : Bool) (vm : MReg) (vd vs1 vs2 : VReg) (a : VArgs) : VEff :=
  a.bitOp x vm vd vs1 vs2 fun p q => intOut (min (sint p a.et.width) (sint q a.et.width)) a.et.width false
/-- `vmax` (R158). -/
def vmaxEff (x : Bool) (vm : MReg) (vd vs1 vs2 : VReg) (a : VArgs) : VEff :=
  a.bitOp x vm vd vs1 vs2 fun p q => intOut (max (sint p a.et.width) (sint q a.et.width)) a.et.width false
/-- `vminu` (R158). -/
def vminuEff (x : Bool) (vm : MReg) (vd vs1 vs2 : VReg) (a : VArgs) : VEff :=
  a.bitOp x vm vd vs1 vs2 fun p q => { val := min p q }
/-- `vmaxu` (R158). -/
def vmaxuEff (x : Bool) (vm : MReg) (vd vs1 vs2 : VReg) (a : VArgs) : VEff :=
  a.bitOp x vm vd vs1 vs2 fun p q => { val := max p q }
/-- `vand` (R158). -/
def vandEff (x : Bool) (vm : MReg) (vd vs1 vs2 : VReg) (a : VArgs) : VEff :=
  a.bitOp x vm vd vs1 vs2 fun p q => { val := p &&& q }
/-- `vor` (R158). -/
def vorEff (x : Bool) (vm : MReg) (vd vs1 vs2 : VReg) (a : VArgs) : VEff :=
  a.bitOp x vm vd vs1 vs2 fun p q => { val := p ||| q }
/-- `vxor` (R158). -/
def vxorEff (x : Bool) (vm : MReg) (vd vs1 vs2 : VReg) (a : VArgs) : VEff :=
  a.bitOp x vm vd vs1 vs2 fun p q => { val := p ^^^ q }
/-- `vsll` (R158). -/
def vsllEff (x : Bool) (vm : MReg) (vd vs1 vs2 : VReg) (a : VArgs) : VEff :=
  a.bitOp x vm vd vs1 vs2 fun p q => { val := p * 2 ^ (q % a.et.width) % 2 ^ a.et.width }
/-- `vsrl` (R158). -/
def vsrlEff (x : Bool) (vm : MReg) (vd vs1 vs2 : VReg) (a : VArgs) : VEff :=
  a.bitOp x vm vd vs1 vs2 fun p q => { val := p / 2 ^ (q % a.et.width) }
/-- `vsra` (R158). -/
def vsraEff (x : Bool) (vm : MReg) (vd vs1 vs2 : VReg) (a : VArgs) : VEff :=
  a.bitOp x vm vd vs1 vs2 fun p q => intOut (sint p a.et.width / (2 ^ (q % a.et.width) : Nat)) a.et.width false
/-- `vsadd` (R158). -/
def vsaddEff (x : Bool) (vm : MReg) (vd vs1 vs2 : VReg) (a : VArgs) : VEff :=
  a.bitOp x vm vd vs1 vs2 fun p q => satOut (sint p a.et.width + sint q a.et.width) a.et.width true
/-- `vssub` (R158). -/
def vssubEff (x : Bool) (vm : MReg) (vd vs1 vs2 : VReg) (a : VArgs) : VEff :=
  a.bitOp x vm vd vs1 vs2 fun p q => satOut (sint p a.et.width - sint q a.et.width) a.et.width true
/-- `vsaddu` (R158). -/
def vsadduEff (x : Bool) (vm : MReg) (vd vs1 vs2 : VReg) (a : VArgs) : VEff :=
  a.bitOp x vm vd vs1 vs2 fun p q => satOut ((p : Int) + q) a.et.width false
/-- `vssubu` (R158). -/
def vssubuEff (x : Bool) (vm : MReg) (vd vs1 vs2 : VReg) (a : VArgs) : VEff :=
  a.bitOp x vm vd vs1 vs2 fun p q => satOut ((p : Int) - q) a.et.width false

/-- A group element of width 2w read with the signedness of ETYPE (R159, R160). -/
def VArgs.int2 (a : VArgs) (v : VReg) (i : Nat) : Int :=
  let raw := a.regs.gElt (2 * a.et.width) v.val (i / a.cols) (i % a.cols)
  if a.et.isSigned then sint raw (2 * a.et.width) else raw
/-- `vwadd` (R159). -/
def vwaddEff (x : Bool) (vm : MReg) (vd vs1 vs2 : VReg) (a : VArgs) : VEff :=
  a.mapElts x vm (2 * a.et.width) vd fun i => intOut (a.int vs1 i + a.int vs2 i) (2 * a.et.width) false
/-- `vwmul` (R159). -/
def vwmulEff (x : Bool) (vm : MReg) (vd vs1 vs2 : VReg) (a : VArgs) : VEff :=
  a.mapElts x vm (2 * a.et.width) vd fun i => intOut (a.int vs1 i * a.int vs2 i) (2 * a.et.width) false
/-- `vwmacc` (R159). -/
def vwmaccEff (x : Bool) (vm : MReg) (vd vs1 vs2 : VReg) (a : VArgs) : VEff :=
  a.mapElts x vm (2 * a.et.width) vd fun i =>
    let t := a.int2 vd i + a.int vs1 i * a.int vs2 i
    intOut t (2 * a.et.width) (overBit t (2 * a.et.width) a.et.isSigned)
/-- `vnsr` (R160). -/
def vnsrEff (x : Bool) (vm : MReg) (vd vs1 vs2 : VReg) (a : VArgs) : VEff :=
  a.mapElts x vm a.et.width vd fun i =>
    a.arith (a.int2 vs1 i / (2 ^ (a.cur vs2 i % (2 * a.et.width)) : Nat))
/-- `vclip` (R160): to nearest, ties toward plus infinity. -/
def vclipEff (x : Bool) (vm : MReg) (vd vs1 vs2 : VReg) (a : VArgs) : VEff :=
  a.mapElts x vm a.et.width vd fun i =>
    let sh := a.cur vs2 i % (2 * a.et.width)
    satOut ((a.int2 vs1 i + (if 0 < sh then (2 ^ (sh - 1) : Nat) else 0)) / (2 ^ sh : Nat)) a.et.width a.et.isSigned

/-- A result rounded to the element format with the captured frm, its operation's flags included (R117, R161). -/
def VArgs.rounded (a : VArgs) (p : Fp × FFlags) : EltOut :=
  let r := a.et.fmt.round a.ck.rm p.1
  fpOut (r.1, p.2 ||| r.2)
/-- An FP instruction on two operands (R161). -/
def VArgs.fpOp (a : VArgs) (x : Bool) (vm : MReg) (vd vs1 vs2 : VReg) (f : Fp → Fp → Fp × FFlags) : VEff :=
  a.mapElts x vm a.et.width vd fun i => a.rounded (f (a.fp vs1 i) (a.fp vs2 i))
/-- `vfadd` (R161). -/
def vfaddEff (x : Bool) (vm : MReg) (vd vs1 vs2 : VReg) (a : VArgs) : VEff := a.fpOp x vm vd vs1 vs2 (Fp.add a.ck.rm)
/-- `vfsub` (R161). -/
def vfsubEff (x : Bool) (vm : MReg) (vd vs1 vs2 : VReg) (a : VArgs) : VEff :=
  a.fpOp x vm vd vs1 vs2 fun p q => Fp.add a.ck.rm p q.negate
/-- `vfmul` (R161). -/
def vfmulEff (x : Bool) (vm : MReg) (vd vs1 vs2 : VReg) (a : VArgs) : VEff := a.fpOp x vm vd vs1 vs2 Fp.mul
/-- `vfmacc` (R161): fused. -/
def vfmaccEff (x : Bool) (vm : MReg) (vd vs1 vs2 : VReg) (a : VArgs) : VEff :=
  a.mapElts x vm a.et.width vd fun i => a.rounded (Fp.fma a.ck.rm (a.fp vs1 i) (a.fp vs2 i) (a.fp vd i))
/-- `vfnmacc` (R161): fused. -/
def vfnmaccEff (x : Bool) (vm : MReg) (vd vs1 vs2 : VReg) (a : VArgs) : VEff :=
  a.mapElts x vm a.et.width vd fun i =>
    a.rounded (Fp.fma a.ck.rm (a.fp vs1 i).negate (a.fp vs2 i) (a.fp vd i).negate)
/-- `vfdiv` (R161). -/
def vfdivEff (x : Bool) (vm : MReg) (vd vs1 vs2 : VReg) (a : VArgs) : VEff := a.fpOp x vm vd vs1 vs2 Fp.div
/-- `vfsqrt` (R161). -/
def vfsqrtEff (x : Bool) (vm : MReg) (vd vs1 : VReg) (a : VArgs) : VEff :=
  a.mapElts x vm a.et.width vd fun i => a.rounded (a.fp vs1 i).sqrt
/-- `vfrece` (R162). -/
def vfreceEff (x : Bool) (vm : MReg) (vd vs1 : VReg) (a : VArgs) : VEff :=
  a.mapElts x vm a.et.width vd fun i => fpOut (a.et.fmt.estimate (a.fp vs1 i).recip)
/-- `vfrsqe` (R162). -/
def vfrsqeEff (x : Bool) (vm : MReg) (vd vs1 : VReg) (a : VArgs) : VEff :=
  a.mapElts x vm a.et.width vd fun i => fpOut (a.et.fmt.estimate (a.fp vs1 i).rsqrt)
/-- `vfmin` (R161). -/
def vfminEff (x : Bool) (vm : MReg) (vd vs1 vs2 : VReg) (a : VArgs) : VEff :=
  a.bitOp x vm vd vs1 vs2 fun p q => fpOut (a.et.fmt.minMax false p q)
/-- `vfmax` (R161). -/
def vfmaxEff (x : Bool) (vm : MReg) (vd vs1 vs2 : VReg) (a : VArgs) : VEff :=
  a.bitOp x vm vd vs1 vs2 fun p q => fpOut (a.et.fmt.minMax true p q)
/-- `vfsgnj` (R163). -/
def vfsgnjEff (x : Bool) (vm : MReg) (vd vs1 vs2 : VReg) (a : VArgs) : VEff :=
  a.bitOp x vm vd vs1 vs2 fun p q =>
    { val := if (a.et.fmt.decode p).isNan then a.et.fmt.nanBits else a.et.fmt.inject 0 p q }
/-- `vfclass` (R163). -/
def vfclassEff (x : Bool) (vm : MReg) (vd vs1 : VReg) (a : VArgs) : VEff :=
  a.mapElts x vm a.et.width vd fun i => { val := 2 ^ a.et.fmt.classBit (a.cur vs1 i) }

/-- A value rounded to an integer with a mode, then saturated (R167): NaN gives 0. -/
def fpToInt (rm : Rm) (w : Nat) (signed : Bool) : Fp → EltOut
  | .nan _ => { val := 0, flags := flagNV, exc := true }
  | .inf neg => { val := wrap (if neg then intMin w signed else intMax w signed) w, flags := flagNV, exc := true }
  | .fin neg m e =>
    let (t, ix) := toInteger rm neg m e
    if inRange t w signed then { val := wrap t w, flags := flagIf ix flagNX }
    else { val := wrap (sat t w signed) w, flags := flagNV, exc := true }
/-- The conversion of one element (R167). -/
def convert (src dst : EType) (rm : Rm) (v : Nat) : EltOut :=
  let fp : Fp := if src.isInt then ofSigned (src.ext v) 0 false else if src.isTap then decTap (src == .t6) v else src.fmt.decode v
  if dst.isInt then
    (if src.isInt then satOut (src.ext v) dst.width dst.isSigned else fpToInt rm dst.width dst.isSigned fp)
  else if dst.isTap then fpOut (encTap (dst == .t6) fp)
  else
    let r := dst.fmt.round rm fp
    fpOut (r.1, fp.snan ||| r.2)
/-- `vcvt` (R167). -/
def vcvtEff (x : Bool) (vm : MReg) (src : EType) (vd vs1 : VReg) (a : VArgs) : VEff :=
  a.mapElts x vm a.et.width vd fun i => convert src a.et a.ck.rm (src.clean (a.elt src.width vs1.val i))
/-- The active columns of one block of a row (R168). -/
def VArgs.blockCols (a : VArgs) (act : List Nat) (r b : Nat) : List Nat :=
  (List.range 16).filterMap fun k =>
    if 16 * b + k < a.cols ∧ act.contains (r * a.cols + 16 * b + k) then some (16 * b + k) else none
/-- `vcvtb` (R113, R168). -/
def vcvtbEff (x : Bool) (vm : MReg) (vd vs1 vs2 : VReg) (a : VArgs) : VEff :=
  let act := a.activeX x vm
  let t6 := a.et == .t6
  let src (r j : Nat) : Fp := fp32.decode (a.regs.gElt 32 vs1.val r j)
  let blocks := ((List.range a.rows).flatMap fun r => (List.range ((a.cols + 15) / 16)).map fun b => (r, b)).filterMap
    fun rb => match a.blockCols act rb.1 rb.2 with
      | [] => none
      | l => some (rb, l, blockScale (l.map (src rb.1)))
  let outs := blocks.flatMap fun (rb, l, sc) =>
    l.map fun j => (rb.1 * a.cols + j, fpOut (encTap t6 ((src rb.1 j).scaleBy (127 - (sc : Int)))))
  let regs := outs.foldl (fun m o => m.setElt 8 vd.val (o.1 / a.cols) (o.1 % a.cols) o.2.val) a.regs
  { regs := blocks.foldl (fun m (rb, _, sc) => m.setElt 8 vs2.val rb.1 rb.2 sc) regs
    masks := if x then a.putMask vm.val (outs.map fun o => (o.1, o.2.exc)) else a.masks
    flags := outs.foldl (fun g o => g ||| o.2.flags) 0
    wrote := blocks.flatMap fun (rb, _, _) => [8 * vd.val + rb.1, 8 * vs2.val + rb.1] }
/-- `vdecb` (R169). -/
def vdecbEff (x : Bool) (vm : MReg) (vd vs1 vs2 : VReg) (a : VArgs) : VEff :=
  a.mapElts x vm 32 vd fun i =>
    let e := a.regs.elt 8 vs2.val (i / a.cols) (i % a.cols / 16)
    let v := decTap (a.et == .t6) (a.cur vs1 i)
    if e = 255 ∨ v.isNan then { val := fp32.nanBits } else fpOut (fp32.round .rne (v.scaleBy ((e : Int) - 127)))

/-- The truth of a comparison of integers (R164). -/
def intCompare (c : Cond) (p q : Int) : Bool :=
  match c with
  | .eq => decide (p = q) | .ne => decide (p ≠ q) | .lt => decide (p < q) | .le => decide (p ≤ q)
/-- `vcmp` (R164). -/
def vcmpEff (c : Cond) (vm md : MReg) (vs1 vs2 : VReg) (a : VArgs) : VEff :=
  { regs := a.regs, masks := a.putMask md.val ((a.active vm).map fun i => (i, intCompare c (a.int vs1 i) (a.int vs2 i))) }
/-- `vfcmp` (R164). -/
def vfcmpEff (c : Cond) (vm md : MReg) (vs1 vs2 : VReg) (a : VArgs) : VEff :=
  let outs := (a.active vm).map fun i => (i, fcompare c (a.fp vs1 i) (a.fp vs2 i))
  { regs := a.regs, masks := a.putMask md.val (outs.map fun o => (o.1, o.2.1)), flags := outs.foldl (fun g o => g ||| o.2.2) 0 }
/-- One bit of `vmlog` (R165). -/
def maskBit (op : MaskOp) (p q : Bool) : Bool :=
  match op with
  | .and => p && q | .or => p || q | .xor => p != q | .andn => p && !q
/-- `vmlog` (R165). -/
def vmlogEff (op : MaskOp) (md ma mb : MReg) (a : VArgs) : VEff :=
  let p := a.masks.reg ma.val
  let q := a.masks.reg mb.val
  { regs := a.regs, masks := a.putMask md.val ((a.active 0).map fun i => (i, maskBit op (p.getLsbD i) (q.getLsbD i))) }
/-- `vpopc` (R165). -/
def vpopcEff (rd : XReg) (ma : MReg) (a : VArgs) : VEff :=
  let m := a.masks.reg ma.val
  { regs := a.regs, masks := a.masks, xw := some (rd, BitVec.ofNat 64 ((a.active 0).filter fun i => m.getLsbD i).length) }
/-- `vfirst` (R165). -/
def vfirstEff (rd : XReg) (ma : MReg) (a : VArgs) : VEff :=
  let m := a.masks.reg ma.val
  { regs := a.regs, masks := a.masks
    xw := some (rd, match (a.active 0).find? fun i => m.getLsbD i with | some i => BitVec.ofNat 64 i | none => BitVec.allOnes 64) }
/-- `vmerge` (R166): the mask selects. -/
def vmergeEff (vm : MReg) (vd vs1 vs2 : VReg) (a : VArgs) : VEff :=
  let m := a.masks.reg vm.val
  a.mapElts false 0 a.et.width vd fun i => { val := a.cur (if m.getLsbD i then vs1 else vs2) i }

/-- The low bits of an x operand as an element (R173). -/
def VArgs.scalar (a : VArgs) (r : XReg) : Nat := a.et.clean (a.ck.getX r).toNat
/-- `vbcast` (R173). -/
def vbcastEff (vm : MReg) (vd : VReg) (rs1 : XReg) (a : VArgs) : VEff :=
  a.mapElts false vm a.et.width vd fun _ => { val := a.scalar rs1 }
/-- `vmvsx` (R173). -/
def vmvsxEff (vm : MReg) (vd : VReg) (rs1 : XReg) (a : VArgs) : VEff :=
  { regs := if (a.active vm).contains 0 then a.regs.setElt a.et.width vd.val 0 0 (a.scalar rs1) else a.regs, masks := a.masks
    wrote := if (a.active vm).contains 0 then [8 * vd.val] else [] }
/-- `vmvxs` (R173). -/
def vmvxsEff (rd : XReg) (vs1 : VReg) (a : VArgs) : VEff :=
  let v := a.et.clean (a.regs.elt a.et.width vs1.val 0 0)
  { regs := a.regs, masks := a.masks
    xw := some (rd, if a.et.isSigned || a.et.isFp then BitVec.ofInt 64 (sint v a.et.width) else BitVec.ofNat 64 v) }
/-- `vslup` (R170). -/
def vslupEff (vm : MReg) (vd vs1 : VReg) (rs2 : XReg) (a : VArgs) : VEff :=
  let k := (a.ck.getX rs2).toNat
  let outs := ((a.active vm).filter fun i => decide (k ≤ i)).map fun i => (i, a.cur vs1 (i - k))
  { regs := outs.foldl (fun m o => m.setElt a.et.width vd.val (o.1 / a.cols) (o.1 % a.cols) o.2) a.regs, masks := a.masks
    wrote := outs.map fun o => 8 * vd.val + o.1 / a.cols }
/-- `vsldn` (R170). -/
def vsldnEff (vm : MReg) (vd vs1 : VReg) (rs2 : XReg) (a : VArgs) : VEff :=
  let k := (a.ck.getX rs2).toNat
  a.mapElts false vm a.et.width vd fun i => { val := if i + k < a.n then a.cur vs1 (i + k) else 0 }
/-- `vrgath` (R171); an index in a T6 container is its low six bits (R102). -/
def vrgathEff (vm : MReg) (vd vs1 vs2 : VReg) (a : VArgs) : VEff :=
  a.mapElts false vm a.et.width vd fun i => { val := if a.cur vs2 i < a.n then a.cur vs1 (a.cur vs2 i) else 0 }
/-- `vcomp` (R171). -/
def vcompEff (vm : MReg) (vd vs1 : VReg) (a : VArgs) : VEff :=
  let src := a.active vm
  let outs := (List.range src.length).zip src
  { regs := outs.foldl (fun m o => m.setElt a.et.width vd.val (o.1 / a.cols) (o.1 % a.cols) (a.cur vs1 o.2)) a.regs
    masks := a.masks
    wrote := outs.map fun o => 8 * vd.val + o.1 / a.cols }
/-- `vtrn` (R172). -/
def vtrnEff (vd vs1 : VReg) (a : VArgs) : VEff :=
  a.mapElts false 0 a.et.width vd fun i =>
    let r := i / a.cols
    let c := i % a.cols
    let s := c / a.rows * a.rows + r
    { val := if s < a.cols then a.cur vs1 (c % a.rows * a.cols + s) else 0 }

/-- The initial value of a reduction: element 0 of row 0 of vs2 (R174). -/
def VArgs.init (a : VArgs) (vs2 : VReg) : Nat := a.et.clean (a.regs.elt a.et.width vs2.val 0 0)
/-- Write the result of a reduction to element 0 of row 0 (R174). -/
def VArgs.putRed (a : VArgs) (vd : VReg) (p : Nat × FFlags) : VEff :=
  { regs := a.regs.setElt a.et.width vd.val 0 0 p.1, masks := a.masks, flags := p.2, wrote := [8 * vd.val] }
/-- An integer reduction by ext (R174). -/
def VArgs.intRed (a : VArgs) (vm : MReg) (vd vs1 vs2 : VReg) (f : Int → Int → Int) : VEff :=
  a.putRed vd (wrap (((a.active vm).map (a.int vs1)).foldl f (a.et.ext (a.init vs2))) a.et.width, 0)
/-- A bitwise reduction (R174). -/
def VArgs.bitRed (a : VArgs) (vm : MReg) (vd vs1 vs2 : VReg) (f : Nat → Nat → Nat) : VEff :=
  a.putRed vd (((a.active vm).map (a.cur vs1)).foldl f (a.init vs2), 0)
/-- An FP reduction in ascending order (R118, R120), with the flags of its initial value. With no active element the result is that value
bit for bit, a NaN too (R174). DESIGN CHOICE, unsafe: log entry 73. -/
def VArgs.fpRed (a : VArgs) (vm : MReg) (vd vs1 vs2 : VReg) (f0 : FFlags) (f : Nat → Nat → Nat × FFlags) : VEff :=
  a.putRed vd (((a.active vm).map (a.cur vs1)).foldl
    (fun (acc : Nat × FFlags) e => let r := f acc.1 e; (r.1, acc.2 ||| r.2)) (a.init vs2, f0))
/-- A reduction to the largest or the smallest (R120): a signalling NaN among its operands, the initial value too, raises NV. -/
def VArgs.minMaxRed (a : VArgs) (vm : MReg) (vd vs1 vs2 : VReg) (wantMax : Bool) : VEff :=
  a.fpRed vm vd vs1 vs2 (a.et.fmt.decode (a.init vs2)).snan (a.et.fmt.minMax wantMax)
/-- One rounded addition of two elements (R118, R119). -/
def VArgs.addRnd (a : VArgs) (p q : Nat) : Nat × FFlags :=
  let r := Fp.add a.ck.rm (a.et.fmt.decode p) (a.et.fmt.decode q)
  let b := a.et.fmt.round a.ck.rm r.1
  (b.1, r.2 ||| b.2)
/-- One level of the tree of R119; none is a hole. -/
def VArgs.treeLevel (a : VArgs) : List (Option Nat) → List (Option Nat) × FFlags
  | p :: q :: l =>
    let (rest, f) := VArgs.treeLevel a l
    match p, q with
    | none, y => (y :: rest, f)
    | x, none => (x :: rest, f)
    | some x, some y => let r := a.addRnd x y; (some r.1 :: rest, f ||| r.2)
  | l => (l, 0)
/-- The tree of R119, level by level. -/
def VArgs.tree (a : VArgs) : Nat → List (Option Nat) → Option Nat × FFlags
  | 0, l => (l.headD none, 0)
  | k + 1, l =>
    let (l1, f) := a.treeLevel l
    let (r, g) := VArgs.tree a k l1
    (r, f ||| g)
/-- The exponent of the smallest power of two that is at least n. -/
def ceilLog (n : Nat) : Nat := if n ≤ 1 then 0 else Nat.log2 (n - 1) + 1

/-- `vredsum` (R174). -/
def vredsumEff (vm : MReg) (vd vs1 vs2 : VReg) (a : VArgs) : VEff := a.intRed vm vd vs1 vs2 (· + ·)
/-- `vredmax` (R174). -/
def vredmaxEff (vm : MReg) (vd vs1 vs2 : VReg) (a : VArgs) : VEff := a.intRed vm vd vs1 vs2 max
/-- `vredmin` (R174). -/
def vredminEff (vm : MReg) (vd vs1 vs2 : VReg) (a : VArgs) : VEff := a.intRed vm vd vs1 vs2 min
/-- `vredand` (R174). -/
def vredandEff (vm : MReg) (vd vs1 vs2 : VReg) (a : VArgs) : VEff := a.bitRed vm vd vs1 vs2 (· &&& ·)
/-- `vredor` (R174). -/
def vredorEff (vm : MReg) (vd vs1 vs2 : VReg) (a : VArgs) : VEff := a.bitRed vm vd vs1 vs2 (· ||| ·)
/-- `vfredo` (R118, R174). -/
def vfredoEff (vm : MReg) (vd vs1 vs2 : VReg) (a : VArgs) : VEff := a.fpRed vm vd vs1 vs2 0 a.addRnd
/-- `vfredt` (R119, R174): with no active element the initial value bit for bit. DESIGN CHOICE, unsafe: log entry 73. -/
def vfredtEff (vm : MReg) (vd vs1 vs2 : VReg) (a : VArgs) : VEff :=
  let act := a.active vm
  let lv := ceilLog a.n
  let (p, f) := a.tree lv ((List.range (2 ^ lv)).map fun i => if act.contains i then some (a.cur vs1 i) else none)
  match p with
  | none => a.putRed vd (a.init vs2, f)
  | some v => let r := a.addRnd (a.init vs2) v; a.putRed vd (r.1, f ||| r.2)
/-- `vfredmax` (R120, R174). -/
def vfredmaxEff (vm : MReg) (vd vs1 vs2 : VReg) (a : VArgs) : VEff := a.minMaxRed vm vd vs1 vs2 true
/-- `vfredmin` (R120, R174). -/
def vfredminEff (vm : MReg) (vd vs1 vs2 : VReg) (a : VArgs) : VEff := a.minMaxRed vm vd vs1 vs2 false

/-- The effect of a register-only vector instruction. -/
def vaEff : Instr → Option (VArgs → VEff)
  | .vadd x vm vd vs1 vs2 => some (vaddEff x vm vd vs1 vs2)
  | .vsub x vm vd vs1 vs2 => some (vsubEff x vm vd vs1 vs2)
  | .vmul x vm vd vs1 vs2 => some (vmulEff x vm vd vs1 vs2)
  | .vmulh x vm vd vs1 vs2 => some (vmulhEff x vm vd vs1 vs2)
  | .vmacc x vm vd vs1 vs2 => some (vmaccEff x vm vd vs1 vs2)
  | .vmin x vm vd vs1 vs2 => some (vminEff x vm vd vs1 vs2)
  | .vmax x vm vd vs1 vs2 => some (vmaxEff x vm vd vs1 vs2)
  | .vminu x vm vd vs1 vs2 => some (vminuEff x vm vd vs1 vs2)
  | .vmaxu x vm vd vs1 vs2 => some (vmaxuEff x vm vd vs1 vs2)
  | .vand x vm vd vs1 vs2 => some (vandEff x vm vd vs1 vs2)
  | .vor x vm vd vs1 vs2 => some (vorEff x vm vd vs1 vs2)
  | .vxor x vm vd vs1 vs2 => some (vxorEff x vm vd vs1 vs2)
  | .vsll x vm vd vs1 vs2 => some (vsllEff x vm vd vs1 vs2)
  | .vsrl x vm vd vs1 vs2 => some (vsrlEff x vm vd vs1 vs2)
  | .vsra x vm vd vs1 vs2 => some (vsraEff x vm vd vs1 vs2)
  | .vclip x vm vd vs1 vs2 => some (vclipEff x vm vd vs1 vs2)
  | .vsadd x vm vd vs1 vs2 => some (vsaddEff x vm vd vs1 vs2)
  | .vssub x vm vd vs1 vs2 => some (vssubEff x vm vd vs1 vs2)
  | .vsaddu x vm vd vs1 vs2 => some (vsadduEff x vm vd vs1 vs2)
  | .vssubu x vm vd vs1 vs2 => some (vssubuEff x vm vd vs1 vs2)
  | .vwadd x vm vd vs1 vs2 => some (vwaddEff x vm vd vs1 vs2)
  | .vwmul x vm vd vs1 vs2 => some (vwmulEff x vm vd vs1 vs2)
  | .vwmacc x vm vd vs1 vs2 => some (vwmaccEff x vm vd vs1 vs2)
  | .vnsr x vm vd vs1 vs2 => some (vnsrEff x vm vd vs1 vs2)
  | .vfadd x vm vd vs1 vs2 => some (vfaddEff x vm vd vs1 vs2)
  | .vfsub x vm vd vs1 vs2 => some (vfsubEff x vm vd vs1 vs2)
  | .vfmul x vm vd vs1 vs2 => some (vfmulEff x vm vd vs1 vs2)
  | .vfmacc x vm vd vs1 vs2 => some (vfmaccEff x vm vd vs1 vs2)
  | .vfnmacc x vm vd vs1 vs2 => some (vfnmaccEff x vm vd vs1 vs2)
  | .vfdiv x vm vd vs1 vs2 => some (vfdivEff x vm vd vs1 vs2)
  | .vfsqrt x vm vd vs1 => some (vfsqrtEff x vm vd vs1)
  | .vfrece x vm vd vs1 => some (vfreceEff x vm vd vs1)
  | .vfrsqe x vm vd vs1 => some (vfrsqeEff x vm vd vs1)
  | .vfmin x vm vd vs1 vs2 => some (vfminEff x vm vd vs1 vs2)
  | .vfmax x vm vd vs1 vs2 => some (vfmaxEff x vm vd vs1 vs2)
  | .vfsgnj x vm vd vs1 vs2 => some (vfsgnjEff x vm vd vs1 vs2)
  | .vfclass x vm vd vs1 => some (vfclassEff x vm vd vs1)
  | .vcvt x vm src vd vs1 => some (vcvtEff x vm src vd vs1)
  | .vcvtb x vm vd vs1 vs2 => some (vcvtbEff x vm vd vs1 vs2)
  | .vdecb x vm vd vs1 vs2 => some (vdecbEff x vm vd vs1 vs2)
  | .vcmp c vm md vs1 vs2 => some (vcmpEff c vm md vs1 vs2)
  | .vfcmp c vm md vs1 vs2 => some (vfcmpEff c vm md vs1 vs2)
  | .vmlog op md ma mb => some (vmlogEff op md ma mb)
  | .vpopc rd ma => some (vpopcEff rd ma)
  | .vfirst rd ma => some (vfirstEff rd ma)
  | .vmerge vm vd vs1 vs2 => some (vmergeEff vm vd vs1 vs2)
  | .vbcast vm vd rs1 => some (vbcastEff vm vd rs1)
  | .vmvsx vm vd rs1 => some (vmvsxEff vm vd rs1)
  | .vslup vm vd vs1 rs2 => some (vslupEff vm vd vs1 rs2)
  | .vsldn vm vd vs1 rs2 => some (vsldnEff vm vd vs1 rs2)
  | .vrgath vm vd vs1 vs2 => some (vrgathEff vm vd vs1 vs2)
  | .vcomp vm vd vs1 => some (vcompEff vm vd vs1)
  | .vtrn vd vs1 => some (vtrnEff vd vs1)
  | .vmvxs rd vs1 => some (vmvxsEff rd vs1)
  | .vredsum vm vd vs1 vs2 => some (vredsumEff vm vd vs1 vs2)
  | .vredmax vm vd vs1 vs2 => some (vredmaxEff vm vd vs1 vs2)
  | .vredmin vm vd vs1 vs2 => some (vredminEff vm vd vs1 vs2)
  | .vredand vm vd vs1 vs2 => some (vredandEff vm vd vs1 vs2)
  | .vredor vm vd vs1 vs2 => some (vredorEff vm vd vs1 vs2)
  | .vfredo vm vd vs1 vs2 => some (vfredoEff vm vd vs1 vs2)
  | .vfredt vm vd vs1 vs2 => some (vfredtEff vm vd vs1 vs2)
  | .vfredmax vm vd vs1 vs2 => some (vfredmaxEff vm vd vs1 vs2)
  | .vfredmin vm vd vs1 vs2 => some (vfredminEff vm vd vs1 vs2)
  | _ => none

end Sys2Proof.Machine
end

