-- ==== Sys2Proof/Machine/VecMem.lean ====
section
/-! DEFINITION. Vector loads, stores and atomics (R150 to R157, R141): the elements one after another, in ascending index with O = 1; with
O = 0 the state's choice of elements comes first. -/

namespace Sys2Proof.Machine

/-- What performing a vector instruction comes to: it is done; it faults at an index; or it stays, waiting. -/
inductive VRes where
  | done (s : State)
  | fault (s : State) (c : BitVec 10) (tval : Word) (idx : Nat)
  | stall (s : State) (e : VEntry)

/-- Where elements stop: all performed, a fault at an index, a page pull at an index, or, the step being over, at the lowest index left. -/
inductive VStop where
  | none
  | fault (c : BitVec 10) (tval : Word) (i : Nat)
  | pull (page i : Nat)
  | rest (i : Nat)

/-- The fields of a vector load or store (R150): O, P, the register, the base, and how the address of an element is found. -/
inductive AddrForm where
  | unit | stride (r : XReg) | index (v : VReg) | grid (r : XReg)
  deriving DecidableEq, Repr
/-- The parts of a vector load or store: it is a store, O, V, P, the data register, the base register, the form (R150). -/
structure MemParts where
  store : Bool
  o : Bool
  v : Bool
  p : Bool := false
  vd : VReg
  rs1 : XReg
  form : AddrForm
  deriving DecidableEq, Repr
/-- The parts of a word that is a vector load or store (R150). -/
def memParts : Instr → Option MemParts
  | .vld o v p vd rs1 => some { store := false, o, v, p, vd, rs1, form := .unit }
  | .vst o v p vd rs1 => some { store := true, o, v, p, vd, rs1, form := .unit }
  | .vlds o v vd rs1 rs2 => some { store := false, o, v, vd, rs1, form := .stride rs2 }
  | .vsts o v vd rs1 rs2 => some { store := true, o, v, vd, rs1, form := .stride rs2 }
  | .vldx o v vd rs1 vi => some { store := false, o, v, vd, rs1, form := .index vi }
  | .vstx o v vd rs1 vi => some { store := true, o, v, vd, rs1, form := .index vi }
  | .vld2 o v p vd rs1 rs2 => some { store := false, o, v, p, vd, rs1, form := .grid rs2 }
  | .vst2 o v p vd rs1 rs2 => some { store := true, o, v, p, vd, rs1, form := .grid rs2 }
  | _ => none

/-- The bit width of an element in memory (R150). -/
def VArgs.ew (a : VArgs) (p : Bool) : Nat := if p then 6 else a.et.width
/-- The address and bit offset of element i (R150). -/
def VArgs.addrOf (a : VArgs) (p : Bool) (rs1 : XReg) (f : AddrForm) (i : Nat) : Word × Nat :=
  let base := a.ck.getX rs1
  let ew := a.ew p
  match f with
  | .unit => (base + BitVec.ofNat 64 (ew * i / 8), ew * i % 8)
  | .stride r => (base + BitVec.ofNat 64 i * a.ck.getX r, 0)
  | .index v => (base + sx (BitVec.ofNat 32 (a.regs.gElt 32 v.val (i / a.cols) (i % a.cols))), 0)
  | .grid r =>
    let j := i % a.cols
    (base + BitVec.ofNat 64 (i / a.cols) * a.ck.getX r + BitVec.ofNat 64 (ew * j / 8), ew * j % 8)

/-- Load n bytes inside one 8-byte block: bytes of the shuttle's own held stores, where they are seen, in place of those (R78).
DESIGN CHOICE, safe: log entry 19. -/
def State.loadN (s : State) (w : Who) (k : Nat) (held : Bool) (a n : Nat) : Res Nat :=
  let mine := if held then ((s.slot k).held.filter fun h => h.entry.block == a / 8).map (·.entry) else []
  (s.load w k a (byteMask (a % 8) n) false none).bind fun s v =>
    .ok s ((overlay mine v).toNat / 2 ^ (8 * (a % 8)) % 2 ^ (8 * n))
/-- Load one element: one access of 8, 16 or 32 bits, or one for each byte that a narrow element touches (R152). -/
def State.loadElt (s : State) (w : Who) (k : Nat) (held : Bool) (addr : Word) (b ew : Nat) : Res Nat :=
  let a := addr.toNat
  if 8 ≤ ew then (if a % (ew / 8) ≠ 0 then .fault s (cause 5 1 5) addr else s.loadN w k held a (ew / 8))
  else
    (s.loadN w k held a 1).bind fun s v0 =>
      if b + ew ≤ 8 then .ok s (v0 / 2 ^ b % 2 ^ ew)
      else (s.loadN w k held (addr + 1).toNat 1).bind fun s v1 => .ok s ((v0 + 256 * v1) / 2 ^ b % 2 ^ ew)

/-- Store n bytes inside one 8-byte block. -/
def State.storeN (s : State) (w : Who) (k : Nat) (a n v : Nat) : Res Unit :=
  s.store w k a (BitVec.ofNat 64 (v * 2 ^ (8 * (a % 8)))) (byteMask (a % 8) n) none
/-- The latest value of a byte that the core's accesses would merge into (R152, R225). -/
def State.latestByte (s : State) (w : Who) (a : Nat) : Nat :=
  if isWindow a then ((SMap.get 0 (s.core (windowCore a)).ctx.scratch (windowOff a)) : Byte).toNat
  else match s.locate w.vf (dieOf w.core) a with
    | some (_, ma, _) => (s.byte ma).toNat
    | none => 0
/-- Store n bits at bit b of one byte: one atomic merge at the byte's home, or behind what the buffer must still hold (R152, R218). -/
def State.storeBits (s : State) (w : Who) (k : Nat) (a b n v : Nat) : Res Unit :=
  let drain (t : State) : State := t.registerWhere w.core fun e => e.touches (a / 8) (byteMask (a % 8) 1)
  let s := drain s
  let near := (s.core w.core).sbuf.filter fun e => e.block == a / 8 && e.pol == 0
  let old := ((overlay near (BitVec.ofNat 64 (s.latestByte w a * 2 ^ (8 * (a % 8))))).toNat / 2 ^ (8 * (a % 8))) % 256
  (s.storeN w k a 1 (old - old / 2 ^ b % 2 ^ n * 2 ^ b + v % 2 ^ n * 2 ^ b)).bind fun s _ => .ok (drain s) ()
/-- Store one element (R152). Of an element that lies in two bytes, both pass their checks before either is stored. -/
def State.storeElt (s : State) (w : Who) (k : Nat) (addr : Word) (b ew v : Nat) : Res Unit :=
  let a := addr.toNat
  if 8 ≤ ew then (if a % (ew / 8) ≠ 0 then .fault s (cause 5 1 5) addr else s.storeN w k a (ew / 8) v)
  else if b + ew ≤ 8 then s.storeBits w k a b ew v
  else
    let second (t : State) : Res Unit := t.storeBits w k (addr + 1).toNat 0 (b + ew - 8) (v / 2 ^ (8 - b))
    (s.storeBits w k a b (8 - b) v).bind fun t _ =>
      match second t with
      | .ok u _ => .ok u ()
      | _ => second s

/-- Perform an action at each index in turn, until one stops, one must wait for room, or n are performed (R141, R155): the state, the indices
performed, and where it stopped. -/
def State.eachElt (s : State) (f : State → Nat → Res State) (room : State → Nat → Bool) (n : Nat) : List Nat → State × List Nat × VStop
  | [] => (s, [], .none)
  | i :: l =>
    if n = 0 || !(room s i) then (s, [], .rest i)
    else match f s i with
    | .ok _ t => let r := State.eachElt t f room (n - 1) l; (r.1, i :: r.2.1, r.2.2)
    | .fault t c tv => (t, [], .fault c tv i)
    | .wait t p => (t, [], .pull p i)

/-- Perform an action at up to n indices ahead of the others, leaving out those at which it stops (R141): the state, and the indices
performed. -/
def State.eachEarly (s : State) (f : State → Nat → Res State) (room : State → Nat → Bool) (n : Nat) : List Nat → State × List Nat
  | [] => (s, [])
  | i :: l =>
    if n = 0 || !(room s i) then (s, [])
    else match f s i with
    | .ok _ t => let r := State.eachEarly t f room (n - 1) l; (r.1, i :: r.2)
    | _ => State.eachEarly s f room n l
/-- How many elements one step performs. -/
def State.batch (s : State) : Nat := match s.elems.batch with | some n => max 1 n | none => 4096
/-- The elements chosen to come first: none with O = 1. -/
def State.chosen (s : State) (o : Bool) (todo : List Nat) : List Nat :=
  if o then [] else (s.elems.early.filter todo.contains).eraseDups
/-- Perform an action at the indices left: in ascending order if O is set, else with the chosen ones that may come early first (R141, R153).
Other agents' accesses may fall between the elements of different steps. DESIGN CHOICE, safe: log entry 18. -/
def State.performElts (s : State) (f : State → Nat → Res State) (room : State → Nat → Bool) (o : Bool) (may : Nat → Bool)
    (todo : List Nat) : State × List Nat × VStop :=
  let first := (s.chosen o todo).filter may
  if first.isEmpty then s.eachElt f room s.batch todo
  else
    let (t, d) := s.eachEarly f room s.batch first
    let r := t.eachElt f room (s.batch - d.length) (todo.filter fun i => !(d.contains i))
    (r.1, d ++ r.2.1, r.2.2)

/-- The indices to perform: below N and not below the start index (R22). DEDUCED, unsafe: log entry 20. -/
def VArgs.indices (a : VArgs) : List Nat := (List.range a.n).filter fun i => decide (a.start ≤ i)
/-- The indices that an entry has still to perform. -/
def VArgs.left (a : VArgs) (e : VEntry) : List Nat := a.indices.filter fun i => !(e.done.contains i)
/-- What a slot's instruction works on. -/
def Slot.vargs (m : Slot) (ck : Shuttle) : VArgs := { ck := ck, regs := m.vregs, masks := m.masks }
/-- What an entry's instruction works on: its sources as they were when it started (R143). -/
def Slot.entryArgs (m : Slot) (e : VEntry) : VArgs :=
  match e.src with
  | some x => { ck := e.ck, regs := x.1, masks := x.2 }
  | none => m.vargs e.ck
/-- Who makes the accesses of a vector instruction (R88). -/
def State.vecWho (s : State) (k : Nat) (ck : Shuttle) : Who :=
  { vf := (s.slot k).vf, core := k / 16, mode := ck.mode, agent := 1 }
/-- An instruction writes element i of a register: the row that it lies in is no longer poisoned (R140). -/
def Slot.setElt (m : Slot) (a : VArgs) (w v i val : Nat) : Slot :=
  { m with
    vregs := VRegs.setElt m.vregs w v (i / a.cols) (i % a.cols) val
    vpoison := SMap.put false m.vpoison (8 * (v % 32) + i / a.cols) false }
/-- The page policy at an address (R220): 4 for a window. -/
def State.polAt (s : State) (w : Who) (a : Nat) : Nat :=
  if isWindow a then 4 else match s.locate w.vf (dieOf w.core) a with | some (e, _, _) => ptePol e | none => 0

/-- No element waits for room: it is no store of the buffer. -/
def always (_ : State) (_ : Nat) : Bool := true
/-- The elements of a vector load (R150). On a page that keeps the order of accesses they come in ascending order (R154, R399). -/
def State.vload (s : State) (k : Nat) (a : VArgs) (e : VEntry) (m : MemParts) : State × List Nat × VStop :=
  let w := s.vecWho k a.ck
  let ahead := s.elems.ahead
  let at_ (i : Nat) : Word × Nat := a.addrOf m.p m.rs1 m.form i
  s.performElts (fun s i =>
    (s.withHops k (at_ i).1 (a.ew m.p) (s.loadElt w k (m.v && ahead.contains i) (at_ i).1 (at_ i).2 (a.ew m.p))).bind fun s v =>
      let v := (SMap.get none e.early i).getD v
      let t := s.updSlot k fun x => x.setElt a a.et.width m.vd.val i (a.et.clean v)
      .ok t t) always m.o (fun i => !(s.pageOrdered w (at_ i).1.toNat)) (a.left e)
/-- The elements of a vector store: every element of the data register is read first (R146, R150). One that finds no room in the buffer waits
there (R155, R212). -/
def State.vstore (s : State) (k : Nat) (a : VArgs) (e : VEntry) (m : MemParts) : State × List Nat × VStop :=
  let w := { s.vecWho k a.ck with vseq := e.seq }
  let at_ (i : Nat) : Word × Nat := a.addrOf m.p m.rs1 m.form i
  s.performElts (fun s i =>
    (s.withHops k (at_ i).1 (a.ew m.p) (s.storeElt w k (at_ i).1 (at_ i).2 (a.ew m.p) (a.cur m.vd i))).bind fun s _ => .ok s s)
    (fun s i =>
      let n := (at_ i).1.toNat
      !(s.noRoom w (n / 8) (byteMask (n % 8) (max 1 (a.ew m.p / 8))))) m.o
    (fun i => !(s.pageOrdered w (at_ i).1.toNat)) (a.left e)

/-- The O bit of a vector atomic (R157). -/
def vamoO : Instr → Bool
  | .vamoAddClu o .. | .vamoAndClu o .. | .vamoOrClu o .. | .vamoXorClu o .. | .vamoMinClu o .. | .vamoMaxClu o .. | .vamoSwapClu o ..
  | .vamoAddPkg o .. | .vamoAndPkg o .. | .vamoOrPkg o .. | .vamoXorPkg o .. | .vamoMinPkg o .. | .vamoMaxPkg o .. | .vamoSwapPkg o .. => o
  | _ => true
/-- The parts of a vector atomic: operation code, ordering, data, base, index register, scope (R156). -/
def vamoParts : Instr → Option (Nat × Order × VReg × XReg × VReg × Scope)
  | .vamoAddClu _ o vd r vi => some (0, o, vd, r, vi, .clu)
  | .vamoAndClu _ o vd r vi => some (1, o, vd, r, vi, .clu)
  | .vamoOrClu _ o vd r vi => some (2, o, vd, r, vi, .clu)
  | .vamoXorClu _ o vd r vi => some (3, o, vd, r, vi, .clu)
  | .vamoMinClu _ o vd r vi => some (4, o, vd, r, vi, .clu)
  | .vamoMaxClu _ o vd r vi => some (5, o, vd, r, vi, .clu)
  | .vamoSwapClu _ o vd r vi => some (6, o, vd, r, vi, .clu)
  | .vamoAddPkg _ o vd r vi => some (0, o, vd, r, vi, .pkg)
  | .vamoAndPkg _ o vd r vi => some (1, o, vd, r, vi, .pkg)
  | .vamoOrPkg _ o vd r vi => some (2, o, vd, r, vi, .pkg)
  | .vamoXorPkg _ o vd r vi => some (3, o, vd, r, vi, .pkg)
  | .vamoMinPkg _ o vd r vi => some (4, o, vd, r, vi, .pkg)
  | .vamoMaxPkg _ o vd r vi => some (5, o, vd, r, vi, .pkg)
  | .vamoSwapPkg _ o vd r vi => some (6, o, vd, r, vi, .pkg)
  | _ => none
/-- The word of a block that an address names. -/
def wordIn (blk : Word) (a : Nat) : BitVec 32 := if a / 4 % 2 = 0 then blk.truncate 32 else (blk >>> 32).truncate 32
/-- A word placed in its half of a block. -/
def wordAt (v : BitVec 32) (a : Nat) : Word := if a / 4 % 2 = 0 then zx v else zx v <<< 32
/-- The instruction is a vector atomic, which holds the vector unit from its start to its end (R145). -/
def isVamo (i : Instr) : Bool := (vamoParts i).isSome
/-- The pin of an element whose word the core has just been granted (R157). -/
def State.pinOf (s : State) (w : Who) (i a op : Nat) (signed : Bool) (d : BitVec 32) : Pin :=
  let at_ := s.ownedAt w.vf (a / 4)
  let lie : Nat × Nat := if s.owns w.core w.vf (a / 4) then at_ else
    match s.locate w.vf (dieOf w.core) a with
    | some (_, ma, r) => (ma / 8 * 8, r.kidx)
    | none => (0, 0)
  { elem := i, vf := w.vf, wd := a / 4, ma := lie.1 + a % 8 / 4 * 4, kidx := lie.2, op := op, signed := signed, operand := d }
/-- The elements of a vector atomic, after its release (R156, R157). With O = 0 an element comes early only where it and every element below it
lie on cached pages and pass every check; their words are granted first, and kept until they are performed. The result holds the pins of
the elements left. -/
def State.vamo (s : State) (k : Nat) (a : VArgs) (e : VEntry) (o : Bool) (op : Nat) (vd : VReg) (rs1 : XReg) (vi : VReg) :
    (State × List Nat × VStop) × List Pin :=
  let w := s.vecWho k a.ck
  let at_ (i : Nat) : Word := a.ck.getX rs1 + sx (BitVec.ofNat 32 (a.elt 32 vi.val i))
  let data (i : Nat) : BitVec 32 := BitVec.ofNat 32 (a.elt 32 vd.val i)
  let put (t : State) (i : Nat) (v : BitVec 32) : Res State :=
    let u := t.updSlot k fun m => m.setElt a 32 vd.val i v.toNat
    .ok u u
  let f (pins : List Pin) (s : State) (i : Nat) : Res State :=
    let n := (at_ i).toNat
    match pins.find? fun p => p.elem == i with
    | some p => match p.old with
      | some v => put s i v
      | none => let r := s.performPin w.core p; put r.1 i (r.2.old.getD 0)
    | none =>
      if n % 4 ≠ 0 then .fault s (cause 5 1 7) (at_ i)
      else
        (s.withHops k (at_ i) 32 (s.atomic w k n (byteMask (n % 8) 4) fun old =>
          some (wordAt (vamoFun op (a.et == .i32) (wordIn old n) (data i)) n))).bind fun s old => put s i (wordIn old n)
  let todo := a.left e
  let first := s.chosen o todo
  let low := todo.filter fun i => first.any fun j => decide (i ≤ j)
  if first.isEmpty || !(low.all fun i => s.polAt w (at_ i).toNat == 0) || !((s.eachElt (f e.pins) always 4096 low).2.2 matches .none) then
    (s.eachElt (f e.pins) always s.batch todo, e.pins)
  else
    let behind := low.filter fun i => !(e.pins.any fun p => p.elem == i)
    let (t, pins) := behind.foldl (fun (r : State × List Pin) i =>
      let n := (at_ i).toNat
      match r.1.atomic w k n (byteMask (n % 8) 4) fun _ => none with
      | .ok u _ => (u, r.2 ++ [u.pinOf w i n op (a.et == .i32) (data i)])
      | _ => r) (s, e.pins)
    let (t, d) := t.eachEarly (f pins) always s.batch first
    let r := t.eachElt (f pins) always (s.batch - d.length) (todo.filter fun i => !(d.contains i))
    ((r.1, d ++ r.2.1, r.2.2), pins)

/-- An entry that stops on its way at element i, some elements above it being performed, for a page or until its next step (R129, R141, R155,
R296). Its sources are kept as they were when it started (R143, R146). -/
def VEntry.stopAt (e : VEntry) (m : Slot) (i : Nat) (d : List Nat) (w : Option WaitInfo) : VEntry :=
  { e with
    ck := { e.ck with vresume := BitVec.ofNat 13 i }
    wait := w
    src := some (e.src.getD (m.vregs, m.masks))
    done := (e.done ++ d).filter fun j => decide (i ≤ j) }
/-- The outcome of the elements of an instruction; `m` is the slot as they found it. -/
def stopRes (k : Nat) (m : Slot) (e : VEntry) (r : State × List Nat × VStop) (f : State → State) : VRes :=
  match r.2.2 with
  | .none => .done (f r.1)
  | .fault c tv i => .fault r.1 c tv i
  | .pull page i =>
    .stall ((r.1.askPull m.vf page true (dieOf (k / 16))).count (k / 16) 0x00B (some e.ck.mode))
      (e.stopAt m i r.2.1 (some { kind := .pull page }))
  | .rest i => .stall r.1 (e.stopAt m i r.2.1 none)

/-- Perform a vector load, store or atomic of the thread in slot k (R150 to R157). -/
def State.vmem (s : State) (k : Nat) (e : VEntry) : VRes :=
  let m := s.slot k
  let a := m.entryArgs e
  match memParts e.instr, vamoParts e.instr with
  | some p, _ => stopRes k m e (if p.store then s.vstore k a e p else s.vload k a e p) id
  | none, some (op, ord, vd, rs1, vi, _) =>
    let rel := (ord == .rel || ord == .ar) && e.src.isNone
    let t := if rel then s.releaseSlot k else s
    match (if rel then (t.slot k).refused else []) with
    | r :: _ => .fault t r.cause r.addr a.start
    | [] =>
      let (r, pins) := t.vamo k a e (vamoO e.instr) op vd rs1 vi
      stopRes k m { e with pins := pins.filter fun p => !(r.2.1.contains p.elem) } r fun s =>
        if ord = .acq ∨ ord = .ar then (s.forget k).discard (k / 16) (some e.ck.mode) else s
  | none, none => .done s

end Sys2Proof.Machine
end

