-- ==== Sys2Proof/Machine/Queues.lean ====
section
/-! DEFINITION. The queue registers of matrix cores (R182 to R187): target sets, pushes, pops, and the arrival of pushed entries. -/

namespace Sys2Proof.Machine

/-- The core number of a KIND 0 target word or of `qpop.qd` and `qstat`, tested in the order of R183; a push or pop, by the agent given, is of
a queue of the own section and passes the selvedge (R221). -/
def State.coreTarget (s : State) (p src : Nat) (n : Nat) (pushPop : Option Nat) : Nat ⊕ BitVec 10 :=
  if 4096 ≤ n ∨ 192 ≤ n % 256 then .inr (cause 8 3 0)
  else if s.inPart p n = false then .inr (cause 2 3 7)
  else if classOf n ≠ .matrix ∨ (pushPop.isSome = true ∧ sectionOf n ≠ sectionOf src) then .inr (cause 8 3 0)
  else if s.isFenced n then .inr (cause 8 3 1)
  else match pushPop with
    | some agent => if s.selvedgeOk p src n then .inl n else .inr (cause 2 agent 5)
    | none => .inl n
/-- The first matrix core of a section. -/
def firstMatrix (sec : Nat) : Nat := sec / 2 * 256 + 64 + 64 * (sec % 2)
/-- The target set of a target word of a push by an agent, in the order of R183, behind which the selvedge stands (R221). -/
def State.targets (s : State) (p src agent : Nat) (masks : Masks) (w : Word) : List Nat ⊕ BitVec 10 :=
  let kind := bitsOf w 13 12
  let sel := bitsOf w 11 0
  if w.toNat / 16384 ≠ 0 ∨ 2 ≤ kind then .inr (cause 8 3 0)
  else if kind = 0 then
    match s.coreTarget p src sel (some agent) with
    | .inl c => .inl [c]
    | .inr c => .inr c
  else if classOf src ≠ .vector ∨ 8 ≤ sel ∨ sel = 0 then .inr (cause 8 3 0)
  else
    let m := Masks.reg masks sel
    let t := ((List.range 64).filter fun j => m.getLsbD j).map fun j => firstMatrix (sectionOf src) + j
    if t.isEmpty then .inr (cause 8 3 0)
    else if t.any s.isFenced then .inr (cause 8 3 1)
    else if t.any fun c => !(s.selvedgeOk p src c) then .inr (cause 2 agent 5)
    else .inl t

/-- Entries held or taken in the QA of a core: those on their way count (R184). -/
def State.qaCount (s : State) (c : Nat) : Nat :=
  (s.core c).ctx.qa.length + (s.pushes.filter fun p => p.qa.isSome && p.targets.contains c).length
/-- Command slots held or taken in the QK of a core (R185); a joint entry takes none (R241). -/
def State.qkCount (s : State) (c : Nat) : Nat :=
  ((s.core c).ctx.qk.filter fun k => k.op != 6).length
    + (s.pushes.filter fun p => p.qk.isSome && p.targets.contains c).length
/-- A push arrives at every target at once (R184, R185); a command that reaches a fenced core is abandoned, with a deferred fault
for its issuer. -/
def State.deliverPush (s : State) (p : Push) : State :=
  p.targets.foldl (fun t c =>
    if t.isFenced c then
      match p.qk with
      | some k => (t.dropTl k.issuer).holdDeferred k.issuer
          { cause := cause 8 3 4, under := cause 8 3 1, tval := k.word, queue := 17, order := k.id }
      | none => t
    else t.updCtx c fun x =>
      { x with qa := x.qa ++ p.qa.toList, qk := x.qk ++ p.qk.toList }) s
/-- A push leaves: it arrives at once, or is left on its way. -/
def State.push (s : State) (p : Push) : State :=
  if s.eager then s.deliverPush p else { s with pushes := s.pushes ++ [p] }

/-- The fields of the entry word of `qpush.qa` that must be zero (R184). -/
def entryWordBad (w : Word) (width : Nat) : Bool :=
  decide (bitsOf w 63 48 ≠ 0) || decide (bitsOf w 15 10 ≠ 0) || (bitOf w 9 && decide (bitsOf w 47 21 ≠ 0))
    || decide (1024 / (64 * width) ≤ bitsOf w 8 6)
/-- The entry that `qpush.qa` makes (R184); rows at and above the depth read as zero. -/
def qaEntryOf (a : VArgs) (vs : VReg) (w : Word) : QaEntry :=
  let width := a.et.width
  let row := bitsOf w 5 3
  let seg := bitsOf w 8 6
  let r (v : Nat) : Nat := if row < a.ck.vdepth.toNat then (a.regs.row v row).toNat else 0
  let scl (q : Nat) : Nat :=
    if bitOf w 9 then r (bitsOf w 20 16) / 2 ^ (8 * (4 * seg + q)) % 256 else bitsOf w (8 * q + 23) (8 * q + 16)
  { val := BitVec.ofNat 1024 (r vs.val / 2 ^ (64 * width * seg) % 2 ^ (64 * width))
    w := width
    scl := BitVec.ofNat 32 (scl 0 + 256 * scl 1 + 65536 * scl 2 + 16777216 * scl 3)
    tag := bitsOf w 2 0 }
/-- An entry of the vector queue that waits for a matrix queue: the bound is fixed when the wait begins (R260). -/
def VEntry.waitQueue (e : VEntry) (tval : Word) (wlimit : Nat) : VEntry :=
  { e with wait := some (e.wait.getD { kind := .queue tval, bound := wlimit }) }
/-- The rows that `qpush.qa` reads (R184), keyed as vregs. -/
def qaRows (a : VArgs) (vs : VReg) (w : Word) : List Nat :=
  if bitsOf w 5 3 < a.ck.vdepth.toNat then
    (8 * vs.val + bitsOf w 5 3) :: (if bitOf w 9 then [8 * bitsOf w 20 16 + bitsOf w 5 3] else [])
  else []
/-- Perform `qpush.qa` at the head of its thread's queue (R184). -/
def State.qpushQa (s : State) (k : Nat) (e : VEntry) (vs : VReg) (rs1 rs2 : XReg) : VRes :=
  let m := s.slot k
  let a := m.vargs e.ck
  let tw := e.ck.getX rs1
  let w := e.ck.getX rs2
  match s.targets (s.partOfVf m.vf) (k / 16) 1 m.masks tw with
  | .inr c => .fault s c tw 0
  | .inl t =>
    if entryWordBad w a.et.width then .fault s (cause 8 3 0) w 0
    else if t.all fun c => decide (s.qaCount c < 32) then
      if m.anyPoison (qaRows a vs w) then .fault s (cause 0xC 1 4) 0 0
      else .done (s.push { targets := t, qa := some (qaEntryOf a vs w), vf := m.vf })
    else .stall s (e.waitQueue tw m.sh.wlimit.toNat)
/-- Write the 64 elements of a drained row to vN, or to vN and vN+1 (R186). -/
def popRow (regs : VRegs) (vd : VReg) (y : QdRow) : VRegs :=
  if y.w = 32 then
    (List.range 64).foldl (fun m j =>
      m.setElt 32 (if j < 32 then vd.val else (vd.val + 1) % 32) 0 (j % 32) ((y.vals.getD j 0).toNat)) regs
  else (List.range 64).foldl (fun m j => m.setElt y.w vd.val 0 j ((y.vals.getD j 0).toNat)) regs
/-- Perform `qpop.qd` at the head of its thread's queue (R186). R186 names no stval for the expiry of its wait: it is 0 (R90). -/
def State.qpopQd (s : State) (k : Nat) (e : VEntry) (vd : VReg) (rs1 : XReg) : VRes :=
  let m := s.slot k
  let tw := e.ck.getX rs1
  match s.coreTarget (s.partOfVf m.vf) (k / 16) tw.toNat (some 1) with
  | .inr c => .fault s c tw 0
  | .inl c =>
    match (s.core c).ctx.qd with
    | [] => .stall s (e.waitQueue 0 m.sh.wlimit.toNat)
    | y :: rest =>
      let t := s.updCtx c fun x => { x with qd := rest }
      if y.bad then .fault t (cause 0xC 3 5) 0 0
      else if y.poison ≠ 0 then .fault t (cause 0xC 1 0) 0 0
      else
        .done (t.updSlot k fun m =>
          { m with
            vregs := popRow m.vregs vd y
            vpoison := m.vpoison.keep fun r => !(r == 8 * vd.val || (y.w == 32 && r == 8 * ((vd.val + 1) % 32))) })

/-- A QK operation code of a command word (R185). -/
def cmdOp (w : Word) : Nat := bitsOf w 3 0
/-- Rows of B-SRAM that a chunk of a pair's B format takes (R176). -/
def rpcOf (fp : FormatPair) : Nat := match fp.kinds.2 with | .flt _ => 2 | _ => 1
/-- Width of a B element in B-SRAM (R176). -/
def widthB (fp : FormatPair) : Nat :=
  match fp.kinds.2 with | .flt _ => 16 | .tap t6 => if t6 then 6 else 8 | .int w => w
/-- Width of an A element (R190). -/
def widthA (fp : FormatPair) : Nat := match fp.kinds.1 with | .flt _ => 16 | .tap _ => 8 | .int w => w
/-- KCH of configuration word 0 (R179). -/
def CfgSlot.kch (c : CfgSlot) : Nat := bitsOf c.w0 8 0
/-- BROW. -/
def CfgSlot.brow (c : CfgSlot) : Nat := bitsOf c.w0 24 16
/-- ABASE. -/
def CfgSlot.abase (c : CfgSlot) : Nat := bitsOf c.w0 40 32
/-- ASRC: the slot takes its A entries from the scratchpad. -/
def CfgSlot.scratchSource (c : CfgSlot) : Bool := bitOf c.w0 48
/-- AOFF. -/
def CfgSlot.aoff (c : CfgSlot) : Nat := bitsOf c.w1 40 32
/-- SOFF. -/
def CfgSlot.soff (c : CfgSlot) : Nat := bitsOf c.w1 61 48
/-- The checks of an ARM (R194). -/
def armCheck (c : CfgSlot) (fp : Option FormatPair) (rows : Nat) : Option (BitVec 10) :=
  if !c.configured then some (cause 9 2 1)
  else if fp ≠ some c.pair then some (cause 9 2 0)
  else if rows = 0 ∨ 512 < c.abase + rows then some (cause 9 2 4)
  else if c.scratchSource ∧ (65536 < 128 * c.aoff + 128 * rows * c.kch ∨ 65536 < 4 * c.soff + 4 * rows * c.kch) then
    some (cause 5 2 6)
  else none
/-- The checks of a ZERO (R195). -/
def zeroCheck (first count : Nat) : Option (BitVec 10) :=
  if 511 < first ∨ 512 < first + count then some (cause 9 2 4) else none
/-- The checks of a DRAIN (R192, R196). -/
def drainCheck (c : CfgSlot) (w : Word) : Option (BitVec 10) :=
  if !c.configured then some (cause 9 2 1)
  else if bitsOf w 63 33 ≠ 0 ∨ bitsOf w 31 26 ≠ 0 ∨ bitsOf w 15 9 ≠ 0 ∨ bitsOf w 25 16 = 0 ∨
      512 < c.abase + bitsOf w 8 0 + bitsOf w 25 16 then some (cause 9 2 4)
  else none
/-- A pushed command is checked as the local instruction checks it (R185); true: it fails. -/
def State.commandBad (s : State) (c : Nat) (w operand : Word) : Bool :=
  let tag := bitsOf w 6 4
  let slot := (s.core c).ctx.slotCfg tag
  let rz := decide (w.toNat / 4096 ≠ 0) || bitOf w 7
  let noPair := decide (bitsOf w 11 8 ≠ 0)
  rz || (match cmdOp w with
    | 0 => (armCheck slot (pairOf (bitsOf w 11 8)) operand.toNat).isSome
    | 1 => noPair || decide (tag ≠ 0) || decide (bitsOf operand 63 26 ≠ 0) || decide (bitsOf operand 15 9 ≠ 0)
        || (zeroCheck (bitsOf operand 8 0) (bitsOf operand 25 16)).isSome
    | 2 => noPair || (drainCheck slot operand).isSome
    | 3 => noPair || decide (tag ≠ 0) || decide (64 ≤ operand.toNat)
    | _ => true)
/-- QPUSH_QK (R185). -/
def execQpushQk (rd rs1 rs2 : XReg) (s : State) : Out :=
  s.gate (.qpushQk rd rs1 rs2) none fun s =>
    s.deferredFirst (fun d => d.queue == 17) fun s =>
      let tw := s.x rs1
      let w := s.x rs2
      match s.targets (s.partOfVf s.me.vf) s.myCore 0 s.me.masks tw with
      | .inr c => s.raise c tw
      | .inl t =>
        if t.any fun c => s.commandBad c w (s.x rd) then s.raise (cause 8 3 6) w
        else
          s.afterVector fun s =>
            if 255 < s.me.tl + t.length then .next (s.block .counter)
            else if t.all fun c => decide (s.qkCount c < 8) then
              let cmd : QkCmd :=
                { op := cmdOp w, tag := bitsOf w 6 4, pair := bitsOf w 11 8, operand := s.x rd, issuer := s.focus
                  id := s.order, word := w }
              .next ((((s.bump).updMe fun m => { m with tl := m.tl + t.length }).push
                { targets := t, qk := some cmd, vf := s.me.vf }).complete)
            else .next (s.block (.queue tw))
/-- A `qstat` (R187): occupancy and capacity. -/
def State.qstat (s : State) (i : Instr) (rd rs1 : XReg) (cap : Nat) (occ : CoreCtx → Nat) : Out :=
  s.gate i none fun s =>
    match s.coreTarget (s.partOfVf s.me.vf) s.myCore (s.x rs1).toNat none with
    | .inr c => s.raise c (s.x rs1)
    | .inl c => .next (s.completeX rd (BitVec.ofNat 64 (occ (s.core c).ctx % 64 + cap * 256)))
/-- QSTAT_QA (R187): a queue's occupancy is what has arrived in it; what is on its way is not counted.
DESIGN CHOICE, unsafe: log entry 75. -/
def execQstatQa (rd rs1 : XReg) (s : State) : Out := s.qstat (.qstatQa rd rs1) rd rs1 32 fun x => x.qa.length
/-- QSTAT_QK (R187). -/
def execQstatQk (rd rs1 : XReg) (s : State) : Out :=
  s.qstat (.qstatQk rd rs1) rd rs1 8 fun x => (x.qk.filter fun k => k.op != 6).length
/-- QSTAT_QD (R187). -/
def execQstatQd (rd rs1 : XReg) (s : State) : Out := s.qstat (.qstatQd rd rs1) rd rs1 32 fun x => x.qd.length

/-- The first push on its way that a test selects arrives. -/
def State.arriveFirst (s : State) (p : Push → Bool) : State :=
  match s.pushes.find? p with
  | some x => { s with pushes := s.pushes.erase x }.deliverPush x
  | none => s
/-- QA_ENTRY_ARRIVAL (R184): the oldest pushed entry on its way to the subject's core becomes visible at every target. -/
def execQaEntryArrival (s : State) : Out :=
  .next (s.arriveFirst fun p => p.qa.isSome && p.targets.contains s.subject.core)
/-- QK_COMMAND_ARRIVAL (R185): the oldest pushed command on its way to the subject's core appears at every target. -/
def execQkCommandArrival (s : State) : Out :=
  .next (s.arriveFirst fun p => p.qk.isSome && p.targets.contains s.subject.core)

/-- Some slot is armed. -/
def CoreCtx.anyArmed (c : CoreCtx) : Bool := c.cfg.any fun e => e.2.armed
/-- The numbers of the joint entries that stand at the head of some queue of the running VFs, or in a collective queue. -/
def State.jointHeads (s : State) : List Nat :=
  (s.sections.flatMap fun e => e.2.chans.filterMap fun c => c.2.cmds.head?.bind (·.joint))
    ++ (s.cores.filterMap fun e => match e.2.ctx.qk with
      | k :: _ => if k.op = 6 then some k.operand.toNat else none
      | [] => none)
    ++ (s.vfs.flatMap fun e => e.2.coll.filterMap fun c => c.2.joint)
/-- An operation of a collective queue has not ended (R403, R406). -/
def CollEntry.pending (e : CollEntry) : Bool := e.held && e.state == 0 && e.cause.isNone
/-- Every operation ahead of a joint entry, in every queue that holds it, has completed (R233). -/
def State.jointReady (s : State) (n : Nat) : Bool :=
  (s.sections.all fun e => e.2.chans.all fun c =>
      !(c.2.cmds.any fun x => x.joint == some n) || (c.2.cmds.head?.bind (·.joint)) == some n)
    && (s.cores.all fun e =>
      !(e.2.ctx.qk.any fun k => k.op == 6 && k.operand.toNat == n) ||
        (!(e.2.ctx.anyArmed) && (match e.2.ctx.qk with | k :: _ => k.op == 6 && k.operand.toNat == n | [] => false)))
    && (s.vfs.all fun e => e.2.coll.all fun c =>
      c.2.joint != some n || e.2.coll.all fun x => !(x.2.pending) || decide (c.2.order < x.2.order))
/-- A joint entry leaves every queue. -/
def State.dropJoint (s : State) (n : Nat) : State :=
  { s with
    sections := s.sections.map fun e => (e.1, { e.2 with chans := e.2.chans.map fun c =>
      (c.1, { c.2 with cmds := c.2.cmds.filter fun x => x.joint != some n }) })
    cores := s.cores.map fun e => (e.1, { e.2 with ctx :=
      { e.2.ctx with qk := e.2.ctx.qk.filter fun k => !(k.op == 6 && k.operand.toNat == n) } })
    vfs := s.vfs.map fun e => (e.1, { e.2 with coll := e.2.coll.filter fun c => c.2.joint != some n }) }
/-- Joint entries that nothing holds any more leave their queues, in order (R233). -/
def State.joints (s : State) : State :=
  s.jointHeads.foldl (fun t n => if t.jointReady n then t.dropJoint n else t) s

end Sys2Proof.Machine
end

