-- ==== Sys2Proof/Machine/VecUnit.lean ====
section
/-! DEFINITION. The vector unit (R127 to R132, R137, R142, R147 to R149): issue into a thread's queue with a checkpoint, start,
completion, precise faults, squash; the configuration instructions; and one meaning for every vector instruction. -/

namespace Sys2Proof.Machine

/-- The element types that an instruction accepts (R142, R184). -/
def acceptsType : Instr → EType → Bool
  | .vadd .., e | .vsub .., e | .vmul .., e | .vmulh .., e | .vmacc .., e | .vmin .., e | .vmax .., e | .vminu .., e
  | .vmaxu .., e | .vand .., e | .vor .., e | .vxor .., e | .vsll .., e | .vsrl .., e | .vsra .., e | .vsadd .., e
  | .vssub .., e | .vsaddu .., e | .vssubu .., e | .vcmp .., e | .vredsum .., e | .vredmax .., e | .vredmin .., e
  | .vredand .., e | .vredor .., e => e.isInt
  | .vwadd .., e | .vwmul .., e | .vwmacc .., e | .vnsr .., e | .vclip .., e =>
    e == .i4 || e == .i8 || e == .i16 || e == .ui8 || e == .ui16
  | .vfadd .., e | .vfsub .., e | .vfmul .., e | .vfmacc .., e | .vfnmacc .., e | .vfdiv .., e | .vfsqrt .., e
  | .vfrece .., e | .vfrsqe .., e | .vfmin .., e | .vfmax .., e | .vfsgnj .., e | .vfclass .., e | .vfcmp .., e
  | .vfredo .., e | .vfredt .., e | .vfredmax .., e | .vfredmin .., e => e.isFp
  | .vcvtb .., e | .vdecb .., e => e.isTap
  | .vlds .., e | .vsts .., e | .vldx .., e | .vstx .., e => e != .i2 && e != .i4
  | .vamoAddClu .., e | .vamoAndClu .., e | .vamoOrClu .., e | .vamoXorClu .., e | .vamoMinClu .., e | .vamoMaxClu .., e
  | .vamoSwapClu .., e | .vamoAddPkg .., e | .vamoAndPkg .., e | .vamoOrPkg .., e | .vamoXorPkg .., e | .vamoMinPkg .., e
  | .vamoMaxPkg .., e | .vamoSwapPkg .., e => e == .i32 || e == .ui32
  | .qpushQa .., e => decide (e.width ≤ 16)
  | _, _ => true
/-- An encoding option that the type or length forbids (R143, R151, R167). -/
def optionBad (i : Instr) (e : EType) (vlc : Nat) : Bool :=
  match i with
  | .vld _ _ p _ _ | .vst _ _ p _ _ | .vld2 _ _ p _ _ _ | .vst2 _ _ p _ _ _ => p && e != .t6
  | .vldx _ _ _ _ vi | .vstx _ _ _ _ vi => decide (vi.val % (32 / e.width) ≠ 0)
  | .vcvt _ _ src _ _ => decide (src.cols < vlc)
  | _ => false
/-- The instruction rounds with `frm` under the type (R105). -/
def usesFrm (i : Instr) (e : EType) : Bool :=
  match i with
  | .vfadd .. | .vfsub .. | .vfmul .. | .vfmacc .. | .vfnmacc .. | .vfdiv .. | .vfsqrt .. | .vfredo .. | .vfredt .. => true
  | .vcvt _ _ src _ _ => !e.isTap && !(e.isInt && src.isInt)
  | _ => false
/-- The causes of orders 9 and 10 of R45 for a vector instruction. -/
def vecLate (i : Instr) (sh : Shuttle) : Option (BitVec 10) :=
  match i with
  | .qpopQd _ _ => none
  | i =>
    match sh.vtype with
    | none => some (cause 0 1 0)
    | some e =>
      if !(acceptsType i e) || optionBad i e sh.vlc.toNat then some (cause 0 1 0)
      else if usesFrm i e && decide (5 ≤ sh.frm) then some (cause 0 0 0)
      else none
/-- The x register that a vector instruction writes when it completes (R128). -/
def vecXd : Instr → Option XReg
  | .vmvxs rd _ | .vpopc rd _ | .vfirst rd _ => some rd
  | _ => none
/-- The keys of the rows of vector registers that an instruction reads (R133, R140, R146). -/
def VArgs.readRows (a : VArgs) (i : Instr) : List Nat :=
  let w := a.et.width
  match i with
  | .vadd x m _ p q | .vsub x m _ p q | .vmul x m _ p q | .vmulh x m _ p q | .vmin x m _ p q | .vmax x m _ p q
  | .vminu x m _ p q | .vmaxu x m _ p q | .vand x m _ p q | .vor x m _ p q | .vxor x m _ p q | .vsll x m _ p q
  | .vsrl x m _ p q | .vsra x m _ p q | .vsadd x m _ p q | .vssub x m _ p q | .vsaddu x m _ p q | .vssubu x m _ p q
  | .vwadd x m _ p q | .vwmul x m _ p q | .vfadd x m _ p q | .vfsub x m _ p q | .vfmul x m _ p q | .vfdiv x m _ p q
  | .vfmin x m _ p q | .vfmax x m _ p q | .vfsgnj x m _ p q => a.keys w [p, q] (a.activeX x m)
  | .vmacc x m d p q | .vfmacc x m d p q | .vfnmacc x m d p q => a.keys w [d, p, q] (a.activeX x m)
  | .vwmacc x m d p q => a.keys (2 * w) [d] (a.activeX x m) ++ a.keys w [p, q] (a.activeX x m)
  | .vnsr x m _ p q | .vclip x m _ p q => a.keys (2 * w) [p] (a.activeX x m) ++ a.keys w [q] (a.activeX x m)
  | .vfsqrt x m _ p | .vfrece x m _ p | .vfrsqe x m _ p | .vfclass x m _ p => a.keys w [p] (a.activeX x m)
  | .vcvt x m src _ p => a.keys src.width [p] (a.activeX x m)
  | .vcvtb x m _ p _ => a.keys 32 [p] (a.activeX x m)
  | .vdecb x m _ p q => a.keys w [p] (a.activeX x m) ++ (a.activeX x m).map fun i => 8 * q.val + i / a.cols
  | .vcmp _ m _ p q | .vfcmp _ m _ p q => a.keys w [p, q] (a.active m)
  | .vmerge m _ p q =>
    let sel := a.masks.reg m.val
    a.keys w [p] ((a.active 0).filter sel.getLsbD) ++ a.keys w [q] ((a.active 0).filter fun i => !(sel.getLsbD i))
  | .vslup m _ p r =>
    let k := (a.ck.getX r).toNat
    a.keys w [p] (((a.active m).filter fun i => decide (k ≤ i)).map fun i => i - k)
  | .vsldn m _ p r =>
    let k := (a.ck.getX r).toNat
    a.keys w [p] (((a.active m).filter fun i => decide (i + k < a.n)).map fun i => i + k)
  | .vrgath m _ p q =>
    a.keys w [q] (a.active m) ++ a.keys w [p] (((a.active m).map fun i => a.cur q i).filter fun t => decide (t < a.n))
  | .vcomp m _ p => a.keys w [p] (a.active m)
  | .vtrn _ p => a.keys w [p] ((List.range a.n).filter fun i => decide (i / a.cols < a.cols))
  | .vmvxs _ p => [8 * p.val]
  | .vredsum m _ p q | .vredmax m _ p q | .vredmin m _ p q | .vredand m _ p q | .vredor m _ p q | .vfredo m _ p q
  | .vfredt m _ p q | .vfredmax m _ p q | .vfredmin m _ p q => (8 * q.val) :: a.keys w [p] (a.active m)
  | .vst _ _ _ d _ | .vsts _ _ d _ _ | .vst2 _ _ _ d _ _ => a.keys w [d] (List.range a.n)
  | .vldx _ _ _ _ vi => a.keys 32 [vi] a.indices
  | .vstx _ _ d _ vi => a.keys w [d] (List.range a.n) ++ a.keys 32 [vi] a.indices
  | i => match vamoParts i with
    | some (_, _, d, _, vi, _) => a.keys w [d, vi] a.indices
    | none => []
/-- A row that an instruction which starts reads is poisoned (R140, R146). -/
def Slot.readsPoison (m : Slot) (e : VEntry) : Bool :=
  !(m.vpoison.isEmpty) && e.src.isNone && m.anyPoison ((m.vargs e.ck).readRows e.instr)
/-- The index that such an error leaves in `vresume`: 0 for what only touches registers, and for a vector store; where a load or vector
atomic goes on from for that (R141, R146, R157). -/
def VEntry.poisonIdx (e : VEntry) : Nat :=
  match e.instr with
  | .vldx .. => e.ck.vresume.toNat
  | i => if isVamo i then e.ck.vresume.toNat else 0

/-- Results of a completed vector instruction reach the shuttle and the checkpoints of younger entries (R106, R128, R130). -/
def Slot.applyEff (m : Slot) (f : VEff) : Slot :=
  let up (sh : Shuttle) : Shuttle :=
    let a := sh.accrue f.flags
    match f.xw with | some (r, v) => a.setX r v | none => a
  { m with
    sh := up m.sh
    vq := m.vq.map fun e => { e with ck := up e.ck }
    vregs := f.regs
    masks := f.masks
    vpoison := if m.vpoison.isEmpty then [] else m.vpoison.keep fun r => !(f.wrote.contains r) }
/-- PERFORM a vector instruction of the thread in slot k. -/
def State.vPerform (s : State) (k : Nat) (e : VEntry) : VRes :=
  let m := s.slot k
  if m.readsPoison e then .fault s (cause 0xC 1 4) 0 e.poisonIdx
  else
    match vaEff e.instr with
    | some f => .done (s.updSlot k fun m => m.applyEff (f (m.vargs e.ck)))
    | none =>
      match e.instr with
      | .qpushQa vs rs1 rs2 => s.qpushQa k e vs rs1 rs2
      | .qpopQd vd rs1 => s.qpopQd k e vd rs1
      | _ => s.vmem k e

/-- A held store takes effect, with the D bit and the access that its check found (R130, R138, R293). -/
def State.commitHeldStore (s : State) (k : Nat) (h : Held) : State :=
  let w : Who := { vf := (s.slot k).vf, core := k / 16, mode := h.mode, agent := 0 }
  let e := h.entry
  let t := match (if h.leaf.isNone then s.storeEntry w k e.block e.data e.mask e.addr.toNat none else .ok s (e, h.leaf)) with
    | .ok t x => t.commitChecked (k / 16) x.1 x.2
    | _ => s.commitChecked (k / 16) e h.leaf
  t.noteAccess w .store e.addr.toNat false
/-- Held stores with no older incomplete vector instruction take effect, in program order (R130). -/
def State.commitHeld (s : State) (k : Nat) : State :=
  let m := s.slot k
  let due (h : Held) : Bool := m.vpending.all fun e => decide (h.after < e.seq)
  (m.held.filter due).foldl (fun t h => t.commitHeldStore k h)
    (s.updSlot k fun m => { m with held := m.held.filter fun h => !(due h) })
/-- The next instruction of the thread, if it has started already, goes on once none before it is left (R129). -/
def Slot.promote (m : Slot) : Slot :=
  match m.vrun, m.vq with
  | none, e :: rest => if e.started then { m with vrun := some e, vq := rest } else m
  | _, _ => m
/-- A vector instruction of slot k has completed (R22, R129, R130): its entry leaves, held stores follow, and a wait on it ends. -/
def State.vFinish (s : State) (k : Nat) (e : VEntry) : State :=
  let t := (s.updSlot k fun m =>
    { m with sh := { m.sh with vresume := 0 }
             vq := m.vq.filter fun x => x.seq != e.seq
             vrun := match m.vrun with | some x => if x.seq = e.seq then none else some x | none => none : Slot }.promote).commitHeld k
  match (t.slot k).wait with
  | some w => (match w.kind with
    | .vector => t.signal k
    | .cwait => t.signal k
    | .counter => t.signal k
    | _ => t)
  | none => t
/-- Return the thread to the checkpoint of an instruction (R43, R130, R131): younger entries and held effects are discarded. -/
def Slot.rollback (m : Slot) (e : VEntry) (idx : Nat) : Slot :=
  { m with
    sh := { e.ck with mix := m.sh.mix, hops := m.sh.hops, vresume := BitVec.ofNat 13 idx }
    life := if m.life = .waiting ∨ m.life = .packing then .ready else m.life
    wait := none
    earlier := none
    again := false
    pack := none
    heldTrap := none
    jumped := false
    half := false
    vq := m.vq.filter fun x => decide (x.seq < e.seq)
    vrun := match m.vrun with | some x => if x.seq < e.seq then some x else none | none => none
    held := m.held.filter fun h => decide (h.after < e.seq)
    word := e.word
    mate := e.mate }
/-- The thread of slot k returns to the checkpoint of an instruction: what the discarded instructions have stored counts in ST no more (R23),
and a request that the thread has queued at a scratchpad is withdrawn. -/
def State.rollback (s : State) (k : Nat) (e : VEntry) (idx : Nat) : State :=
  let m := s.slot k
  let t := match m.wait.map (·.kind) with
    | some (.fullEmpty a true) => s.updCtx (windowCore a.toNat) fun x => { x with waiters := x.waiters.filter fun y => y.shid != k }
    | _ => s
  let mine (x : StoreEntry) : Bool := x.shid == k && decide (e.seq ≤ x.vseq)
  let t := if (t.core (k / 16)).sbuf.any mine then
      t.updCore (k / 16) fun c => { c with sbuf := c.sbuf.map fun x => if mine x then { x with vseq := 0 } else x }
    else t
  t.updSlot k fun m => m.rollback e idx
/-- A refused store whose trap is now taken is due no more (R218). -/
def Slot.dueTaken (m : Slot) (c : BitVec 10) (tval : Word) : Slot :=
  match m.refused with
  | r :: rest => if r.cause = c ∧ r.addr = tval then { m with refused := rest } else m
  | [] => m
/-- A vector instruction faults at an index (R130, R141): the thread returns to its checkpoint and takes the trap there. -/
def State.vFault (s : State) (k : Nat) (e : VEntry) (c : BitVec 10) (tval : Word) (idx : Nat) : State :=
  ((s.rollback k e idx).updSlot k fun m => m.dueTaken c tval).trapSlot k c (scauseOf c) tval e.ck.pc false 0
/-- The instruction is a push or pop of a matrix queue, which starts only when it can complete (R184, R186). -/
def isQueueOp : Instr → Bool
  | .qpushQa .. | .qpopQd .. => true
  | _ => false
/-- Go on with the instruction at the head of slot k (R129): it completes, faults, or stays. A push or pop that waits for a matrix
queue has not started. -/
def State.vAdvance (s : State) (k : Nat) (e : VEntry) : State :=
  match s.vPerform k e with
  | .done t => t.vFinish k e
  | .fault t c tv idx => t.vFault k e c tv idx
  | .stall t e2 =>
    t.updSlot k fun m =>
      if isQueueOp e.instr then { m with vq := m.vq.map fun x => if x.seq = e.seq then e2 else x }
      else { m with vq := m.vq.filter fun x => x.seq != e.seq, vrun := some e2 }

/-- A vector atomic that has started on a core holds its vector unit until its last element is performed (R145). -/
def State.unitHeld (s : State) (c : Nat) : Bool :=
  (List.range 16).any fun j => match (s.slot (c * 16 + j)).vrun with
    | some e => isVamo e.instr
    | none => false
/-- The instruction that the vector unit may start behind a load or store of the thread that waits at an element for a page or for room
(R129, R145): the oldest that has not started. A push, a pop and an atomic wait for what is before them. DESIGN CHOICE, safe: log entry 89. -/
def Slot.startsBehind (m : Slot) : Option VEntry :=
  match m.vrun, m.vq.find? (fun e => !e.started) with
  | some r, some e =>
    if (memParts r.instr).isSome && r.src.isSome && !(isQueueOp e.instr) && !(isVamo e.instr)
        && m.vq.all (fun x => !x.started || !(isVamo x.instr)) then some e else none
  | _, _ => none
/-- The oldest queued instruction of a slot's thread can start (R129, R145, R184, R186). -/
def State.canStart (s : State) (k : Nat) : Bool :=
  match (s.slot k).vrun, (s.slot k).vq with
  | none, e :: _ => !(isQueueOp e.instr) || !(s.vPerform k e matches .stall ..)
  | _, _ => (s.slot k).startsBehind.isSome
/-- The slot whose thread the vector unit of a core serves in this cycle (R129, R145): round robin from the unit's own pointer, one start a
cycle. `k` is a thread that is about to issue an instruction that could start. -/
def State.unitPick (s : State) (c : Nat) (k : Option Nat) : Option Nat :=
  if (s.core c).vstart = some s.arith ∨ s.unitHeld c = true then none
  else ((List.range 16).map fun j => c * 16 + ((s.core c).vptr + j) % 16).find? fun j => k == some j || s.canStart j
/-- The vector unit starts an instruction of slot k (R129, R358). -/
def State.markStart (s : State) (k : Nat) : State :=
  (s.updCore (k / 16) fun c => { c with vptr := (k % 16 + 1) % 16, vstart := some s.arith }).count (k / 16) 0x003
    (some (s.slot k).sh.mode)

/-- The wait at a matrix queue that a parked entry was in, whose bound its reissue goes on with (R260). -/
def Slot.queueWait (m : Slot) : Option WaitInfo :=
  match m.wait with
  | some w => if w.kind.tag = 7 then some w else none
  | none => none
/-- A vector load, store or atomic would take LD or ST above 255 (R23). -/
def State.countersFull (s : State) (k : Nat) (i : Instr) : Bool :=
  ((memCounters i).1 && decide (255 ≤ (s.slot k).ld)) || ((memCounters i).2 && decide (255 ≤ s.stOf k))

/-- ISSUE of a vector instruction (R128): the decode checks, then an entry with a checkpoint; the vector unit performs it at once where it may
start, or is left to start it. A word whose thread's queue holds 8 entries waits. -/
def State.vIssue (s : State) (i : Instr) : Out :=
  s.gate i (vecLate i s.sh) fun s =>
    let m := s.me
    if 8 ≤ m.vpending.length then .next (s.block .vector)
    else if s.countersFull s.focus i then .next (s.block .counter)
    else
      let e : VEntry := { seq := m.vseq + 1, instr := i, ck := m.sh, word := m.word, mate := m.mate, wait := m.queueWait }
      let s0 := if memCounters i = (false, false) then s else s.forget s.focus
      let s1 := s0.updMe fun m => { m with vseq := m.vseq + 1, sh := { m.sh with vresume := 0 } }
      if s.eager && !(m.vectorBusy) && s.unitPick s.myCore (some s.focus) == some s.focus then
        match (s1.markStart s.focus).vPerform s.focus e with
        | .done t => .next t.complete
        | .fault t c tv idx => .next (t.vFault s.focus e c tv idx)
        | .stall t e2 =>
          if isQueueOp i then .next (s1.updMe fun m => { m with vq := [e2] }).complete
          else .next (t.updMe fun m => { m with vrun := some e2 }).complete
      else .next (s1.updMe fun m => { m with vq := m.vq ++ [e] }).complete

/-- Perform a started instruction to its end, or to where it faults or waits for a page (R131). -/
def State.vPerformAll (s : State) (k : Nat) (e : VEntry) : VRes :=
  let back (t : State) : State := { t with elems := s.elems }
  match { s with elems := { s.elems with batch := none } }.vPerform k e with
  | .done t => .done (back t)
  | .fault t c tv idx => .fault (back t) c tv idx
  | .stall t e2 => .stall (back t) e2
/-- The started instructions of a thread run to completion, in order; one that faults or waits is left at its element, and those behind it
are discarded with it (R131, R155). -/
def State.runStarted (s : State) (k : Nat) : Nat → State
  | 0 => s
  | n + 1 =>
    match (s.slot k).vrun with
    | none => s
    | some e =>
      match s.vPerformAll k e with
      | .done u => State.runStarted (u.vFinish k e) k n
      | .fault u _ _ idx => u.rollback k e idx
      | .stall u e2 => (u.rollback k e e2.ck.vresume.toNat).updSlot k fun m => { m with wait := e2.wait }
/-- SQUASH of a thread's queue (R131, R155): what has not started is discarded; what has started runs to completion, or is left at the
element where it faults or waits. -/
def State.squash (s : State) (k : Nat) : State :=
  let t := match (s.slot k).vq.find? fun e => !e.started with
    | some e => (s.rollback k e e.ck.vresume.toNat).updSlot k fun m => { m with wait := e.wait }
    | none => s
  t.runStarted k 10

/-- A push or pop at the head of a slot's queue that cannot start begins its bounded wait (R184, R186). -/
def State.beginQueueWait (s : State) (k : Nat) : State :=
  match (s.slot k).vrun, (s.slot k).vq with
  | none, e :: _ =>
    if isQueueOp e.instr && e.wait.isNone then
      match s.vPerform k e with
      | .stall t e2 => t.updSlot k fun m => { m with vq := m.vq.map fun x => if x.seq = e.seq then e2 else x }
      | _ => s
    else s
  | _, _ => s
/-- VECTOR_UNIT_START (R129): the vector unit of the subject's core starts the oldest entry of the thread whose turn it is; where none can
start, a push or pop at the head of the subject's slot begins to wait. -/
def execVectorUnitStart (s : State) : Out :=
  match s.unitPick s.subject.core none with
  | none => .next (s.beginQueueWait (s.subject.core * 16 + s.subject.slot))
  | some k => match (s.slot k).startsBehind, (s.slot k).vq with
    | some e, _ => .next ((s.markStart k).updSlot k fun m => { m with vq := m.vq.map fun x => if x.seq = e.seq then { x with started := true } else x })
    | none, [] => .next s
    | none, e :: rest =>
      let t := s.markStart k
      if isQueueOp e.instr then .next (t.vAdvance k e)
      else .next (t.updSlot k fun m => { m with vq := rest, vrun := some e })
/-- VECTOR_COMPLETION (R145, R153): the started instruction of the subject's slot is performed, or some of its elements are, and completes
with the last. -/
def execVectorCompletion (s : State) : Out :=
  let k := s.subject.core * 16 + s.subject.slot
  match (s.slot k).vrun with
  | some e => .next (s.vAdvance k { e with wait := none })
  | none => .next s
/-- VECTOR_QUEUE_PARITY_ERROR (R132): the subject's item numbers an entry of the slot's queue, counted from the oldest; it and every
younger entry are discarded and the thread rolls back, with no trap. -/
def execVectorQueueParityError (s : State) : Out :=
  let k := s.subject.core * 16 + s.subject.slot
  match (s.slot k).vq[s.subject.item]? with
  | some e => .next (s.rollback k e e.ck.vresume.toNat)
  | none => .next s

/-- SHYIELD (R73): the issue logic passes the shuttle over once; a mix migration that is ordered takes effect here (R131), its pc the next
word. -/
def execShyield (s : State) : Out :=
  match s.me.mixOrder with
  | some r =>
    let t := (s.squash s.focus).updMe fun m => { m with mixOrder := none }
    let back := t.sh.pc != s.sh.pc
    .next (t.startPacking
      { reason := 3, named := r / 16, pc := if back then t.sh.pc else s.sh.pc + 4, slotShid := some r, jumped := back && t.me.jumped })
  | none => .next (s.complete.updMe fun m => { m with yielded := true })

/-- VSETL (R147). -/
def execVsetl (rd rs1 : XReg) (rows : BitVec 4) (et : EType) (s : State) : Out :=
  s.gate (.vsetl rd rs1 rows et) none fun s =>
    let c := min (s.x rs1).toNat et.cols
    .next ((s.updSh fun sh =>
      { sh with vtype := some et
                vlr := BitVec.ofNat 4 (min rows.toNat sh.vdepth.toNat)
                vlc := BitVec.ofNat 10 c }).completeX rd (BitVec.ofNat 64 c))
/-- VDEPTH (R148): it waits for the thread's queue to be empty; its grant is decided when it issues (R137), and it waits for the units that
it takes from L1 to be free. -/
def execVdepth (rd : XReg) (lg : BitVec 2) (s : State) : Out :=
  s.gate (.vdepth rd lg) none fun s =>
    match s.me.doneValue with
    | some v => .next (s.completeX rd v)
    | none =>
      if s.me.vectorBusy then .next (s.block .vector)
      else
        let g := grantDepth (2 ^ lg.toNat) (s.freeUnits s.myCore) s.sh.vdepth.toNat
        if s.eager || decide (g ≤ s.sh.vdepth.toNat) then
          .next ((s.grantTo s.focus (2 ^ lg.toNat)).1.completeX rd (BitVec.ofNat 64 g))
        else
          let t := s.block (.depth g)
          .next (t.takeUnits s.myCore (t.unitsTaken s.myCore))
/-- DEPTH_GRANT_COMPLETE (R137): the units taken from L1 are free, and the subject's slot has the depth it was granted. -/
def execDepthGrantComplete (s : State) : Out :=
  let k := s.subject.core * 16 + s.subject.slot
  match (s.slot k).wait with
  | some w => (match w.kind with
    | .depth g => .next ((s.updSlot k fun m => m.setDepth g).finish k (BitVec.ofNat 64 g))
    | _ => .next s)
  | none => .next s
/-- The size in bits that a slot of `vptrs` names (R21). -/
def ptrBits : Nat → Nat
  | 0 => 2 | 1 => 4 | 2 => 6 | 3 => 8 | 4 => 16 | 5 => 32 | _ => 64
/-- The pointers that `vstrip` advances by old elements (R149). -/
def Shuttle.advance (sh : Shuttle) (old : Nat) : Shuttle :=
  (List.range 4).foldl (fun t k =>
    let f := sh.vptrs.toNat / 2 ^ (8 * k) % 128
    let r : XReg := Fin.ofNat 16 (f % 16)
    t.setX r (t.getX r + BitVec.ofNat 64 (old * ptrBits (f / 16) / 8))) sh
/-- The lengths of the next strip of M elements (R149). -/
def stripLengths (m depth c : Nat) : Nat × Nat :=
  if depth * c ≤ m then (depth, c) else if c ≤ m then (m / c, c) else if 0 < m then (1, m) else (0, 0)
/-- VSTRIP (R149). -/
def execVstrip (rd rs1 : XReg) (s : State) : Out :=
  s.gate (.vstrip rd rs1) (if s.sh.vtype.isNone then some (cause 0 1 0) else none) fun s =>
    if s.me.vpending.any fun e => (vecXd e.instr).isSome then .next (s.block .vector)
    else
      let sh := s.sh
      let (r, c) := stripLengths (sh.getX rs1).toNat sh.vdepth.toNat ((sh.vtype.getD .i8).cols)
      .next ((s.updSh fun sh =>
        { sh.advance (sh.vlr.toNat * sh.vlc.toNat) with vlr := BitVec.ofNat 4 r, vlc := BitVec.ofNat 10 c }).completeX rd
          (BitVec.ofNat 64 (r * c)))

/-- VLD: through the vector queue (R128). -/
def execVld (o : Bool) (v : Bool) (p : Bool) (vd : VReg) (rs1 : XReg) (s : State) : Out := s.vIssue (.vld o v p vd rs1)
/-- VST: through the vector queue (R128). -/
def execVst (o : Bool) (v : Bool) (p : Bool) (vd : VReg) (rs1 : XReg) (s : State) : Out := s.vIssue (.vst o v p vd rs1)
/-- VLDS: through the vector queue (R128). -/
def execVlds (o : Bool) (v : Bool) (vd : VReg) (rs1 : XReg) (rs2 : XReg) (s : State) : Out := s.vIssue (.vlds o v vd rs1 rs2)
/-- VSTS: through the vector queue (R128). -/
def execVsts (o : Bool) (v : Bool) (vd : VReg) (rs1 : XReg) (rs2 : XReg) (s : State) : Out := s.vIssue (.vsts o v vd rs1 rs2)
/-- VLDX: through the vector queue (R128). -/
def execVldx (o : Bool) (v : Bool) (vd : VReg) (rs1 : XReg) (vi : VReg) (s : State) : Out := s.vIssue (.vldx o v vd rs1 vi)
/-- VSTX: through the vector queue (R128). -/
def execVstx (o : Bool) (v : Bool) (vd : VReg) (rs1 : XReg) (vi : VReg) (s : State) : Out := s.vIssue (.vstx o v vd rs1 vi)
/-- VLD2: through the vector queue (R128). -/
def execVld2 (o : Bool) (v : Bool) (p : Bool) (vd : VReg) (rs1 : XReg) (rs2 : XReg) (s : State) : Out := s.vIssue (.vld2 o v p vd rs1 rs2)
/-- VST2: through the vector queue (R128). -/
def execVst2 (o : Bool) (v : Bool) (p : Bool) (vd : VReg) (rs1 : XReg) (rs2 : XReg) (s : State) : Out := s.vIssue (.vst2 o v p vd rs1 rs2)
/-- VAMO_ADD_CLU: through the vector queue (R128). -/
def execVamoAddClu (o : Bool) (ord : Order) (vd : VReg) (rs1 : XReg) (vi : VReg) (s : State) : Out := s.vIssue (.vamoAddClu o ord vd rs1 vi)
/-- VAMO_AND_CLU: through the vector queue (R128). -/
def execVamoAndClu (o : Bool) (ord : Order) (vd : VReg) (rs1 : XReg) (vi : VReg) (s : State) : Out := s.vIssue (.vamoAndClu o ord vd rs1 vi)
/-- VAMO_OR_CLU: through the vector queue (R128). -/
def execVamoOrClu (o : Bool) (ord : Order) (vd : VReg) (rs1 : XReg) (vi : VReg) (s : State) : Out := s.vIssue (.vamoOrClu o ord vd rs1 vi)
/-- VAMO_XOR_CLU: through the vector queue (R128). -/
def execVamoXorClu (o : Bool) (ord : Order) (vd : VReg) (rs1 : XReg) (vi : VReg) (s : State) : Out := s.vIssue (.vamoXorClu o ord vd rs1 vi)
/-- VAMO_MIN_CLU: through the vector queue (R128). -/
def execVamoMinClu (o : Bool) (ord : Order) (vd : VReg) (rs1 : XReg) (vi : VReg) (s : State) : Out := s.vIssue (.vamoMinClu o ord vd rs1 vi)
/-- VAMO_MAX_CLU: through the vector queue (R128). -/
def execVamoMaxClu (o : Bool) (ord : Order) (vd : VReg) (rs1 : XReg) (vi : VReg) (s : State) : Out := s.vIssue (.vamoMaxClu o ord vd rs1 vi)
/-- VAMO_SWAP_CLU: through the vector queue (R128). -/
def execVamoSwapClu (o : Bool) (ord : Order) (vd : VReg) (rs1 : XReg) (vi : VReg) (s : State) : Out := s.vIssue (.vamoSwapClu o ord vd rs1 vi)
/-- VAMO_ADD_PKG: through the vector queue (R128). -/
def execVamoAddPkg (o : Bool) (ord : Order) (vd : VReg) (rs1 : XReg) (vi : VReg) (s : State) : Out := s.vIssue (.vamoAddPkg o ord vd rs1 vi)
/-- VAMO_AND_PKG: through the vector queue (R128). -/
def execVamoAndPkg (o : Bool) (ord : Order) (vd : VReg) (rs1 : XReg) (vi : VReg) (s : State) : Out := s.vIssue (.vamoAndPkg o ord vd rs1 vi)
/-- VAMO_OR_PKG: through the vector queue (R128). -/
def execVamoOrPkg (o : Bool) (ord : Order) (vd : VReg) (rs1 : XReg) (vi : VReg) (s : State) : Out := s.vIssue (.vamoOrPkg o ord vd rs1 vi)
/-- VAMO_XOR_PKG: through the vector queue (R128). -/
def execVamoXorPkg (o : Bool) (ord : Order) (vd : VReg) (rs1 : XReg) (vi : VReg) (s : State) : Out := s.vIssue (.vamoXorPkg o ord vd rs1 vi)
/-- VAMO_MIN_PKG: through the vector queue (R128). -/
def execVamoMinPkg (o : Bool) (ord : Order) (vd : VReg) (rs1 : XReg) (vi : VReg) (s : State) : Out := s.vIssue (.vamoMinPkg o ord vd rs1 vi)
/-- VAMO_MAX_PKG: through the vector queue (R128). -/
def execVamoMaxPkg (o : Bool) (ord : Order) (vd : VReg) (rs1 : XReg) (vi : VReg) (s : State) : Out := s.vIssue (.vamoMaxPkg o ord vd rs1 vi)
/-- VAMO_SWAP_PKG: through the vector queue (R128). -/
def execVamoSwapPkg (o : Bool) (ord : Order) (vd : VReg) (rs1 : XReg) (vi : VReg) (s : State) : Out := s.vIssue (.vamoSwapPkg o ord vd rs1 vi)
/-- VADD: through the vector queue (R128). -/
def execVadd (x : Bool) (vm : MReg) (vd : VReg) (vs1 : VReg) (vs2 : VReg) (s : State) : Out := s.vIssue (.vadd x vm vd vs1 vs2)
/-- VSUB: through the vector queue (R128). -/
def execVsub (x : Bool) (vm : MReg) (vd : VReg) (vs1 : VReg) (vs2 : VReg) (s : State) : Out := s.vIssue (.vsub x vm vd vs1 vs2)
/-- VMUL: through the vector queue (R128). -/
def execVmul (x : Bool) (vm : MReg) (vd : VReg) (vs1 : VReg) (vs2 : VReg) (s : State) : Out := s.vIssue (.vmul x vm vd vs1 vs2)
/-- VMULH: through the vector queue (R128). -/
def execVmulh (x : Bool) (vm : MReg) (vd : VReg) (vs1 : VReg) (vs2 : VReg) (s : State) : Out := s.vIssue (.vmulh x vm vd vs1 vs2)
/-- VMACC: through the vector queue (R128). -/
def execVmacc (x : Bool) (vm : MReg) (vd : VReg) (vs1 : VReg) (vs2 : VReg) (s : State) : Out := s.vIssue (.vmacc x vm vd vs1 vs2)
/-- VMIN: through the vector queue (R128). -/
def execVmin (x : Bool) (vm : MReg) (vd : VReg) (vs1 : VReg) (vs2 : VReg) (s : State) : Out := s.vIssue (.vmin x vm vd vs1 vs2)
/-- VMAX: through the vector queue (R128). -/
def execVmax (x : Bool) (vm : MReg) (vd : VReg) (vs1 : VReg) (vs2 : VReg) (s : State) : Out := s.vIssue (.vmax x vm vd vs1 vs2)
/-- VMINU: through the vector queue (R128). -/
def execVminu (x : Bool) (vm : MReg) (vd : VReg) (vs1 : VReg) (vs2 : VReg) (s : State) : Out := s.vIssue (.vminu x vm vd vs1 vs2)
/-- VMAXU: through the vector queue (R128). -/
def execVmaxu (x : Bool) (vm : MReg) (vd : VReg) (vs1 : VReg) (vs2 : VReg) (s : State) : Out := s.vIssue (.vmaxu x vm vd vs1 vs2)
/-- VAND: through the vector queue (R128). -/
def execVand (x : Bool) (vm : MReg) (vd : VReg) (vs1 : VReg) (vs2 : VReg) (s : State) : Out := s.vIssue (.vand x vm vd vs1 vs2)
/-- VOR: through the vector queue (R128). -/
def execVor (x : Bool) (vm : MReg) (vd : VReg) (vs1 : VReg) (vs2 : VReg) (s : State) : Out := s.vIssue (.vor x vm vd vs1 vs2)
/-- VXOR: through the vector queue (R128). -/
def execVxor (x : Bool) (vm : MReg) (vd : VReg) (vs1 : VReg) (vs2 : VReg) (s : State) : Out := s.vIssue (.vxor x vm vd vs1 vs2)
/-- VSLL: through the vector queue (R128). -/
def execVsll (x : Bool) (vm : MReg) (vd : VReg) (vs1 : VReg) (vs2 : VReg) (s : State) : Out := s.vIssue (.vsll x vm vd vs1 vs2)
/-- VSRL: through the vector queue (R128). -/
def execVsrl (x : Bool) (vm : MReg) (vd : VReg) (vs1 : VReg) (vs2 : VReg) (s : State) : Out := s.vIssue (.vsrl x vm vd vs1 vs2)
/-- VSRA: through the vector queue (R128). -/
def execVsra (x : Bool) (vm : MReg) (vd : VReg) (vs1 : VReg) (vs2 : VReg) (s : State) : Out := s.vIssue (.vsra x vm vd vs1 vs2)
/-- VCLIP: through the vector queue (R128). -/
def execVclip (x : Bool) (vm : MReg) (vd : VReg) (vs1 : VReg) (vs2 : VReg) (s : State) : Out := s.vIssue (.vclip x vm vd vs1 vs2)
/-- VSADD: through the vector queue (R128). -/
def execVsadd (x : Bool) (vm : MReg) (vd : VReg) (vs1 : VReg) (vs2 : VReg) (s : State) : Out := s.vIssue (.vsadd x vm vd vs1 vs2)
/-- VSSUB: through the vector queue (R128). -/
def execVssub (x : Bool) (vm : MReg) (vd : VReg) (vs1 : VReg) (vs2 : VReg) (s : State) : Out := s.vIssue (.vssub x vm vd vs1 vs2)
/-- VSADDU: through the vector queue (R128). -/
def execVsaddu (x : Bool) (vm : MReg) (vd : VReg) (vs1 : VReg) (vs2 : VReg) (s : State) : Out := s.vIssue (.vsaddu x vm vd vs1 vs2)
/-- VSSUBU: through the vector queue (R128). -/
def execVssubu (x : Bool) (vm : MReg) (vd : VReg) (vs1 : VReg) (vs2 : VReg) (s : State) : Out := s.vIssue (.vssubu x vm vd vs1 vs2)
/-- VWADD: through the vector queue (R128). -/
def execVwadd (x : Bool) (vm : MReg) (vd : VReg) (vs1 : VReg) (vs2 : VReg) (s : State) : Out := s.vIssue (.vwadd x vm vd vs1 vs2)
/-- VWMUL: through the vector queue (R128). -/
def execVwmul (x : Bool) (vm : MReg) (vd : VReg) (vs1 : VReg) (vs2 : VReg) (s : State) : Out := s.vIssue (.vwmul x vm vd vs1 vs2)
/-- VWMACC: through the vector queue (R128). -/
def execVwmacc (x : Bool) (vm : MReg) (vd : VReg) (vs1 : VReg) (vs2 : VReg) (s : State) : Out := s.vIssue (.vwmacc x vm vd vs1 vs2)
/-- VNSR: through the vector queue (R128). -/
def execVnsr (x : Bool) (vm : MReg) (vd : VReg) (vs1 : VReg) (vs2 : VReg) (s : State) : Out := s.vIssue (.vnsr x vm vd vs1 vs2)
/-- VFADD: through the vector queue (R128). -/
def execVfadd (x : Bool) (vm : MReg) (vd : VReg) (vs1 : VReg) (vs2 : VReg) (s : State) : Out := s.vIssue (.vfadd x vm vd vs1 vs2)
/-- VFSUB: through the vector queue (R128). -/
def execVfsub (x : Bool) (vm : MReg) (vd : VReg) (vs1 : VReg) (vs2 : VReg) (s : State) : Out := s.vIssue (.vfsub x vm vd vs1 vs2)
/-- VFMUL: through the vector queue (R128). -/
def execVfmul (x : Bool) (vm : MReg) (vd : VReg) (vs1 : VReg) (vs2 : VReg) (s : State) : Out := s.vIssue (.vfmul x vm vd vs1 vs2)
/-- VFMACC: through the vector queue (R128). -/
def execVfmacc (x : Bool) (vm : MReg) (vd : VReg) (vs1 : VReg) (vs2 : VReg) (s : State) : Out := s.vIssue (.vfmacc x vm vd vs1 vs2)
/-- VFNMACC: through the vector queue (R128). -/
def execVfnmacc (x : Bool) (vm : MReg) (vd : VReg) (vs1 : VReg) (vs2 : VReg) (s : State) : Out := s.vIssue (.vfnmacc x vm vd vs1 vs2)
/-- VFDIV: through the vector queue (R128). -/
def execVfdiv (x : Bool) (vm : MReg) (vd : VReg) (vs1 : VReg) (vs2 : VReg) (s : State) : Out := s.vIssue (.vfdiv x vm vd vs1 vs2)
/-- VFSQRT: through the vector queue (R128). -/
def execVfsqrt (x : Bool) (vm : MReg) (vd : VReg) (vs1 : VReg) (s : State) : Out := s.vIssue (.vfsqrt x vm vd vs1)
/-- VFRECE: through the vector queue (R128). -/
def execVfrece (x : Bool) (vm : MReg) (vd : VReg) (vs1 : VReg) (s : State) : Out := s.vIssue (.vfrece x vm vd vs1)
/-- VFRSQE: through the vector queue (R128). -/
def execVfrsqe (x : Bool) (vm : MReg) (vd : VReg) (vs1 : VReg) (s : State) : Out := s.vIssue (.vfrsqe x vm vd vs1)
/-- VFMIN: through the vector queue (R128). -/
def execVfmin (x : Bool) (vm : MReg) (vd : VReg) (vs1 : VReg) (vs2 : VReg) (s : State) : Out := s.vIssue (.vfmin x vm vd vs1 vs2)
/-- VFMAX: through the vector queue (R128). -/
def execVfmax (x : Bool) (vm : MReg) (vd : VReg) (vs1 : VReg) (vs2 : VReg) (s : State) : Out := s.vIssue (.vfmax x vm vd vs1 vs2)
/-- VFSGNJ: through the vector queue (R128). -/
def execVfsgnj (x : Bool) (vm : MReg) (vd : VReg) (vs1 : VReg) (vs2 : VReg) (s : State) : Out := s.vIssue (.vfsgnj x vm vd vs1 vs2)
/-- VFCLASS: through the vector queue (R128). -/
def execVfclass (x : Bool) (vm : MReg) (vd : VReg) (vs1 : VReg) (s : State) : Out := s.vIssue (.vfclass x vm vd vs1)
/-- VCVT: through the vector queue (R128). -/
def execVcvt (x : Bool) (vm : MReg) (src : EType) (vd : VReg) (vs1 : VReg) (s : State) : Out := s.vIssue (.vcvt x vm src vd vs1)
/-- VCVTB: through the vector queue (R128). -/
def execVcvtb (x : Bool) (vm : MReg) (vd : VReg) (vs1 : VReg) (vs2 : VReg) (s : State) : Out := s.vIssue (.vcvtb x vm vd vs1 vs2)
/-- VDECB: through the vector queue (R128). -/
def execVdecb (x : Bool) (vm : MReg) (vd : VReg) (vs1 : VReg) (vs2 : VReg) (s : State) : Out := s.vIssue (.vdecb x vm vd vs1 vs2)
/-- VCMP: through the vector queue (R128). -/
def execVcmp (c : Cond) (vm : MReg) (md : MReg) (vs1 : VReg) (vs2 : VReg) (s : State) : Out := s.vIssue (.vcmp c vm md vs1 vs2)
/-- VFCMP: through the vector queue (R128). -/
def execVfcmp (c : Cond) (vm : MReg) (md : MReg) (vs1 : VReg) (vs2 : VReg) (s : State) : Out := s.vIssue (.vfcmp c vm md vs1 vs2)
/-- VMLOG: through the vector queue (R128). -/
def execVmlog (op : MaskOp) (md : MReg) (ma : MReg) (mb : MReg) (s : State) : Out := s.vIssue (.vmlog op md ma mb)
/-- VPOPC: through the vector queue (R128). -/
def execVpopc (rd : XReg) (ma : MReg) (s : State) : Out := s.vIssue (.vpopc rd ma)
/-- VFIRST: through the vector queue (R128). -/
def execVfirst (rd : XReg) (ma : MReg) (s : State) : Out := s.vIssue (.vfirst rd ma)
/-- VMERGE: through the vector queue (R128). -/
def execVmerge (vm : MReg) (vd : VReg) (vs1 : VReg) (vs2 : VReg) (s : State) : Out := s.vIssue (.vmerge vm vd vs1 vs2)
/-- VBCAST: through the vector queue (R128). -/
def execVbcast (vm : MReg) (vd : VReg) (rs1 : XReg) (s : State) : Out := s.vIssue (.vbcast vm vd rs1)
/-- VMVSX: through the vector queue (R128). -/
def execVmvsx (vm : MReg) (vd : VReg) (rs1 : XReg) (s : State) : Out := s.vIssue (.vmvsx vm vd rs1)
/-- VSLUP: through the vector queue (R128). -/
def execVslup (vm : MReg) (vd : VReg) (vs1 : VReg) (rs2 : XReg) (s : State) : Out := s.vIssue (.vslup vm vd vs1 rs2)
/-- VSLDN: through the vector queue (R128). -/
def execVsldn (vm : MReg) (vd : VReg) (vs1 : VReg) (rs2 : XReg) (s : State) : Out := s.vIssue (.vsldn vm vd vs1 rs2)
/-- VRGATH: through the vector queue (R128). -/
def execVrgath (vm : MReg) (vd : VReg) (vs1 : VReg) (vs2 : VReg) (s : State) : Out := s.vIssue (.vrgath vm vd vs1 vs2)
/-- VCOMP: through the vector queue (R128). -/
def execVcomp (vm : MReg) (vd : VReg) (vs1 : VReg) (s : State) : Out := s.vIssue (.vcomp vm vd vs1)
/-- VTRN: through the vector queue (R128). -/
def execVtrn (vd : VReg) (vs1 : VReg) (s : State) : Out := s.vIssue (.vtrn vd vs1)
/-- VMVXS: through the vector queue (R128). -/
def execVmvxs (rd : XReg) (vs1 : VReg) (s : State) : Out := s.vIssue (.vmvxs rd vs1)
/-- VREDSUM: through the vector queue (R128). -/
def execVredsum (vm : MReg) (vd : VReg) (vs1 : VReg) (vs2 : VReg) (s : State) : Out := s.vIssue (.vredsum vm vd vs1 vs2)
/-- VREDMAX: through the vector queue (R128). -/
def execVredmax (vm : MReg) (vd : VReg) (vs1 : VReg) (vs2 : VReg) (s : State) : Out := s.vIssue (.vredmax vm vd vs1 vs2)
/-- VREDMIN: through the vector queue (R128). -/
def execVredmin (vm : MReg) (vd : VReg) (vs1 : VReg) (vs2 : VReg) (s : State) : Out := s.vIssue (.vredmin vm vd vs1 vs2)
/-- VREDAND: through the vector queue (R128). -/
def execVredand (vm : MReg) (vd : VReg) (vs1 : VReg) (vs2 : VReg) (s : State) : Out := s.vIssue (.vredand vm vd vs1 vs2)
/-- VREDOR: through the vector queue (R128). -/
def execVredor (vm : MReg) (vd : VReg) (vs1 : VReg) (vs2 : VReg) (s : State) : Out := s.vIssue (.vredor vm vd vs1 vs2)
/-- VFREDO: through the vector queue (R128). -/
def execVfredo (vm : MReg) (vd : VReg) (vs1 : VReg) (vs2 : VReg) (s : State) : Out := s.vIssue (.vfredo vm vd vs1 vs2)
/-- VFREDT: through the vector queue (R128). -/
def execVfredt (vm : MReg) (vd : VReg) (vs1 : VReg) (vs2 : VReg) (s : State) : Out := s.vIssue (.vfredt vm vd vs1 vs2)
/-- VFREDMAX: through the vector queue (R128). -/
def execVfredmax (vm : MReg) (vd : VReg) (vs1 : VReg) (vs2 : VReg) (s : State) : Out := s.vIssue (.vfredmax vm vd vs1 vs2)
/-- VFREDMIN: through the vector queue (R128). -/
def execVfredmin (vm : MReg) (vd : VReg) (vs1 : VReg) (vs2 : VReg) (s : State) : Out := s.vIssue (.vfredmin vm vd vs1 vs2)
/-- QPUSH_QA: through the vector queue (R128). -/
def execQpushQa (vs : VReg) (rs1 : XReg) (rs2 : XReg) (s : State) : Out := s.vIssue (.qpushQa vs rs1 rs2)
/-- QPOP_QD: through the vector queue (R128). -/
def execQpopQd (vd : VReg) (rs1 : XReg) (s : State) : Out := s.vIssue (.qpopQd vd rs1)

end Sys2Proof.Machine
end

