-- ==== Sys2Proof/Machine/Matrix.lean ====
section
/-! DEFINITION. The matrix core (R175 to R202): the matrix instructions, the command unit's steps on QK, the array's consumption of
entries, drains, transfers of accumulator rows, and the decrements of TL that completed commands send. -/

namespace Sys2Proof.Machine

/-- The rows of B-SRAM granted to a VF: first row and one past the last (R177). -/
def State.bGrant (s : State) (v : Nat) : Nat × Nat :=
  if (s.part (s.partOfVf v)).shared = false then (0, 512)
  else if (s.vf v).index = 0 then (0, 256) else (256, 512)
/-- DSH of configuration word 1 (R179). -/
def CfgSlot.dsh (c : CfgSlot) : Nat := bitsOf c.w1 12 8
/-- DRM. -/
def CfgSlot.drm (c : CfgSlot) : Bool := bitOf c.w1 4
/-- DFMT. -/
def CfgSlot.dfmt (c : CfgSlot) : Nat := bitsOf c.w1 3 0
/-- The pair is an integer pair. -/
def isIntPair (fp : FormatPair) : Bool := match fp.kinds.1 with | .int _ => true | _ => false
/-- (DFMT, pair) is valid (R180). -/
def drainOk (dfmt : Nat) (fp : FormatPair) : Bool :=
  dfmt == 0 || ((dfmt == 1 || dfmt == 2) && !(isIntPair fp)) || ((dfmt == 3 || dfmt == 4) && isIntPair fp)
/-- Width of a drained element (R180). -/
def drainWidth (dfmt : Nat) : Nat := if dfmt = 0 then 32 else if dfmt = 4 then 8 else 16
/-- Rows first to first + n - 1 overlap the window of an armed slot (R188); no rows overlap nothing. -/
def CoreCtx.overlapsArmed (c : CoreCtx) (first n : Nat) : Bool :=
  n != 0 && c.cfg.any fun e => e.2.armed && decide (first < e.2.abase + e.2.rows) && decide (e.2.abase < first + n)
/-- Change a configuration slot. -/
def CoreCtx.updCfg (c : CoreCtx) (t : Nat) (f : CfgSlot → CfgSlot) : CoreCtx :=
  { c with cfg := SMap.put {} c.cfg t (f (c.slotCfg t)) }

/-- A bit per slot. -/
def slotBits (p : Nat → Bool) : Nat := ((List.range 8).map fun t => if p t then 2 ^ t else 0).sum
/-- The status that `mstat` returns (R198). -/
def CoreCtx.status (c : CoreCtx) : Word :=
  let q := (c.qk.filter fun k => k.op != 6).length
  let b (x : Bool) (i : Nat) : Nat := if x then 2 ^ i else 0
  let m := c.mstat
  BitVec.ofNat 64 (slotBits (fun t => (c.slotCfg t).armed) * 2 ^ 48 + slotBits (fun t => (c.slotCfg t).configured) * 2 ^ 40
    + c.qa.length % 64 * 2 ^ 34 + q % 16 * 2 ^ 30 + c.qd.length % 64 * 2 ^ 24 + m.utag % 8 * 2 ^ 21
    + b m.ut 20 + b m.qkp 19 + b m.be 18 + b m.wm 17 + b m.psn 16 + b m.iovf 4 + b m.uf 3 + b m.of 2 + b m.nv 1
    + b (c.anyArmed || q != 0) 0)
/-- MSTAT (R198): the sticky fields returned are cleared; UTAG, which is not among them, stays. -/
def execMstat (rd : XReg) (s : State) : Out :=
  s.gate (.mstat rd) none fun s =>
    .next ((s.updCtx s.myCore fun c => { c with mstat := { utag := c.mstat.utag } }).completeX rd (s.core s.myCore).ctx.status)

/-- The cause held for the next matrix instruction, taken before it does anything (R199). -/
def State.matrixGate (s : State) (i : Instr) (f : State → Out) : Out :=
  s.gate i none fun s =>
    let m := (s.core s.myCore).ctx.mstat
    if m.qkp then s.raise (cause 0xC 3 5) 0
    else if m.ut then s.raiseWord (cause 9 2 6)
    else if m.be then s.raise (cause 8 3 6) (s.core s.myCore).ctx.status
    else f s
/-- The command word of a command (R185). -/
def QkCmd.commandWord (k : QkCmd) : Word := BitVec.ofNat 64 (k.op + 16 * k.tag + 256 * k.pair)
/-- Append a command of the shuttle in focus to the core's own QK: a full queue waits, as does TL at 255 (R23, R194). -/
def State.appendQk (s : State) (cmd : QkCmd) (f : State → Out) : Out :=
  if 255 ≤ s.me.tl then .next (s.block .counter)
  else if s.qkCount s.myCore < 8 then
    f ((s.bump.updMe fun m => { m with tl := m.tl + 1 }).updCtx s.myCore fun c =>
      { c with qk := c.qk ++ [{ cmd with issuer := s.focus, id := s.order, word := cmd.commandWord }] })
  else .next (s.block .matrix)
/-- QK holds, or will hold, an ARM or a DRAIN of a tag (R181, R185). -/
def State.qkNames (s : State) (c t : Nat) : Bool :=
  let names (k : QkCmd) : Bool := (k.op == 0 || k.op == 2) && k.tag == t
  (s.core c).ctx.qk.any names || s.pushes.any fun p => p.targets.contains c && (p.qk.map names).getD false

/-- The checks of `mcfg`, in order (R181). -/
def State.mcfgCheck (s : State) (fp : FormatPair) (w0 w1 : Word) : Option (BitVec 10) :=
  let c : CfgSlot := { pair := fp, w0 := w0, w1 := w1 }
  let (lo, hi) := s.bGrant s.me.vf
  if bitsOf w0 63 49 ≠ 0 ∨ bitsOf w0 47 41 ≠ 0 ∨ bitsOf w0 31 25 ≠ 0 ∨ bitsOf w0 15 9 ≠ 0 ∨ c.kch = 0 ∨ 256 < c.kch then
    some (cause 9 2 2)
  else if c.brow < lo ∨ hi < c.brow + c.kch * rpcOf fp then some (cause 9 2 3)
  else if bitsOf w1 63 62 ≠ 0 ∨ bitsOf w1 47 41 ≠ 0 ∨ bitsOf w1 31 13 ≠ 0 ∨ bitsOf w1 7 5 ≠ 0 ∨ drainOk c.dfmt fp = false then
    some (cause 9 2 5)
  else none
/-- MCFG (R181). A chunk of the slot that the array holds is dropped: the next entry loads it anew. DEDUCED, unsafe: log entry 24. -/
def execMcfg (fp : FormatPair) (tag : BitVec 3) (rs1 rs2 : XReg) (s : State) : Out :=
  s.matrixGate (.mcfg fp tag rs1 rs2) fun s =>
    let t := tag.toNat
    if ((s.core s.myCore).ctx.slotCfg t).armed || s.qkNames s.myCore t then .next (s.block .matrix)
    else match s.mcfgCheck fp (s.x rs1) (s.x rs2) with
      | some c => s.raiseWord c
      | none =>
        .next (((s.updCtx s.myCore fun c => c.updCfg t fun _ =>
          { configured := true, pair := fp, w0 := s.x rs1, w1 := s.x rs2 }).updCore s.myCore fun k =>
            { k with chunk := match k.chunk with | some h => if h.tag = t then none else some h | none => none }).complete)
/-- MRUN (R194). -/
def execMrun (fp : FormatPair) (tag : BitVec 3) (rs1 : XReg) (s : State) : Out :=
  s.matrixGate (.mrun fp tag rs1) fun s =>
    match armCheck ((s.core s.myCore).ctx.slotCfg tag.toNat) (some fp) (s.x rs1).toNat with
    | some c => if c = cause 5 2 6 then s.raise c (s.x rs1) else s.raiseWord c
    | none => s.appendQk { op := 0, tag := tag.toNat, pair := fp.code, operand := s.x rs1 } fun s => .next s.complete
/-- MZERO (R195): a count of 0 appends nothing. -/
def execMzero (rs1 rs2 : XReg) (s : State) : Out :=
  s.matrixGate (.mzero rs1 rs2) fun s =>
    match zeroCheck (s.x rs1).toNat (s.x rs2).toNat with
    | some c => s.raiseWord c
    | none =>
      if s.x rs2 = 0 then .next s.complete
      else s.appendQk { op := 1, operand := s.x rs1 ||| (s.x rs2 <<< 16) } fun s => .next s.complete
/-- MDRAIN (R196). -/
def execMdrain (tag : BitVec 3) (rs1 : XReg) (s : State) : Out :=
  s.matrixGate (.mdrain tag rs1) fun s =>
    match drainCheck ((s.core s.myCore).ctx.slotCfg tag.toNat) (s.x rs1) with
    | some c => s.raiseWord c
    | none => s.appendQk { op := 2, tag := tag.toNat, operand := s.x rs1 } fun s => .next s.complete
/-- ROW and COUNT of a row word (R197). -/
def rowWord (w : Word) : Nat × Nat := (bitsOf w 8 0, bitsOf w 25 16)
/-- `mcpy.in` or `mcpy.out` (R197): the command is appended, and the shuttle Waits until it completes. -/
def State.mcpyIssue (s : State) (i : Instr) (out : Bool) (addr w : Word) : Out :=
  match s.me.wait.map WaitInfo.kind with
  | some (WaitKind.done _) => .next s.complete
  | wk =>
    let held := match wk with
      | some (WaitKind.mcpy id) => (s.core s.myCore).ctx.qk.any fun x => x.id == id && (x.op == 4 || x.op == 5)
      | _ => false
    if held then .next (s.updMe fun m => { m with life := .waiting }) else
    s.matrixGate i fun s =>
      let (row, n) := rowWord w
      if bitsOf w 63 26 ≠ 0 ∨ bitsOf w 15 9 ≠ 0 ∨ n = 0 ∨ 512 < row + n then s.raiseWord (cause 9 2 7)
      else if addr.toNat % 256 ≠ 0 then s.raise (cause 5 0 3) addr
      else
        s.appendQk { op := if out then 5 else 4, operand := w, addr := addr } fun t => .next (t.block (.mcpy s.order))
/-- MCPY_IN (R197). -/
def execMcpyIn (rs1 rs2 : XReg) (s : State) : Out := s.mcpyIssue (.mcpyIn rs1 rs2) false (s.x rs1) (s.x rs2)
/-- MCPY_OUT (R197). -/
def execMcpyOut (rs1 rs2 : XReg) (s : State) : Out := s.mcpyIssue (.mcpyOut rs1 rs2) true (s.x rs1) (s.x rs2)

/-- A command of a core has completed: the TL of its issuer falls, at once or when the decrement arrives (R188, R200). -/
def State.commandDone (s : State) (c issuer : Nat) : State :=
  if s.eager then s.dropTl issuer else s.updCtx c fun x => { x with tlDone := x.tlDone ++ [issuer] }
/-- TL_DECREMENT (R200): the oldest decrement on its way from the subject's core arrives. -/
def execTlDecrement (s : State) : Out :=
  let c := s.subject.core
  match (s.core c).ctx.tlDone with
  | k :: rest => .next ((s.updCtx c fun x => { x with tlDone := rest }).dropTl k)
  | [] => .next s
/-- The head of a core's QK, unless it is a joint entry of `fence.q`. -/
def State.qkHead (s : State) (c : Nat) : Option QkCmd := (s.core c).ctx.qk.head?
/-- The head leaves QK. -/
def State.popQk (s : State) (c : Nat) : State := s.updCtx c fun x => { x with qk := x.qk.tail }
/-- Change the head of QK. -/
def State.updHead (s : State) (c : Nat) (f : QkCmd → QkCmd) : State :=
  s.updCtx c fun x => { x with qk := match x.qk with | k :: l => f k :: l | [] => [] }
/-- QK or a slot has changed: joint entries that nothing holds leave, and a shuttle waiting for room in QK or for a slot of an
`mcfg` tries again (R181, R185, R194, R233). -/
def State.qkMoved (s : State) (c : Nat) : State :=
  s.joints.signalWhere fun k w => match w with
    | .matrix => k / 16 == c
    | .queue _ => true
    | .fenceQ _ _ => true
    | _ => false

/-- ARM (R188): the head of QK of the subject's core arms its slot. -/
def execArm (s : State) : Out :=
  let c := s.subject.core
  match s.qkHead c with
  | some k =>
    if k.op = 0 ∧ ((s.core c).ctx.slotCfg k.tag).armed = false then
      let rows := k.operand.toNat
      .next (((s.popQk c).updCtx c fun x =>
        { x.updCfg k.tag fun g =>
            { g with armed := true, e := 0, rows := rows, remaining := rows * g.kch, issuer := k.issuer, order := x.armOrder, id := k.id, word := k.word }
          with armOrder := x.armOrder + 1 }).qkMoved c)
    else .next s
  | none => .next s
/-- Zero accumulator rows, and the poison of their elements (R188, R192). -/
def CoreCtx.zeroRows (c : CoreCtx) (first n : Nat) : CoreCtx :=
  let out (k : Nat) : Bool := decide (k / 64 < first) || decide (first + n ≤ k / 64)
  { c with acc := c.acc.keep out, accPoison := c.accPoison.keep out }
/-- ZERO (R188): the head of QK of the subject's core zeroes its rows once no armed window overlaps them. -/
def execZero (s : State) : Out :=
  let c := s.subject.core
  match s.qkHead c with
  | some k =>
    let (first, n) := rowWord k.operand
    if k.op = 1 ∧ (s.core c).ctx.overlapsArmed first n = false then
      .next ((((s.popQk c).updCtx c fun x => x.zeroRows first n).commandDone c k.issuer).qkMoved c)
    else .next s
  | none => .next s

/-- The conversion of one accumulator element by a drain (R180): the element and the conditions met. -/
def drainElem (g : CfgSlot) (x : BitVec 32) : BitVec 32 × FFlags × Bool :=
  let flt (f : Fmt) : BitVec 32 × FFlags × Bool :=
    let (b, fl) := f.round (if g.drm then .rtz else .rne) (fp32.decode x.toNat)
    (BitVec.ofNat 32 b, fl, false)
  let int (w : Nat) : BitVec 32 × FFlags × Bool :=
    let v := sint x.toNat 32
    let h : Int := if g.drm || g.dsh == 0 then 0 else 2 ^ (g.dsh - 1)
    let t := (v + h) / 2 ^ g.dsh
    (BitVec.ofNat 32 (wrap (sat t w true) w), 0, !(inRange t w true))
  match g.dfmt with
  | 1 => flt bf16
  | 2 => flt fp16
  | 3 => int 16
  | 4 => int 8
  | _ => (x, 0, false)
/-- Drain accumulator row a of a slot into QD (R192); NV is no condition of a drain (R198). -/
def CoreCtx.drainRow (c : CoreCtx) (g : CfgSlot) (a : Nat) (clr : Bool) : CoreCtx :=
  let ys := (List.range 64).map fun n => drainElem g (SMap.get 0 c.acc (64 * a + n))
  let p (n : Nat) : Bool := SMap.get false c.accPoison (64 * a + n)
  let poison : BitVec 64 := (List.range 64).foldl (fun m n => if p n then m ||| BitVec.ofNat 64 (2 ^ n) else m) 0
  let st := ys.foldl (fun m y => m.note (y.2.1 &&& 0x6) y.2.2) c.mstat
  let d := { c with
    qd := c.qd ++ [{ vals := ys.map (·.1), w := drainWidth g.dfmt, poison := poison }]
    mstat := { st with psn := st.psn || poison != 0 } }
  if clr then d.zeroRows a 1 else d
/-- Rows of the head DRAIN are appended while QD has room and rows remain (R192). -/
def drainRows (k : QkCmd) (g : CfgSlot) : Nat → CoreCtx → Nat → CoreCtx × Nat
  | 0, c, done => (c, done)
  | n + 1, c, done =>
    if done < bitsOf k.operand 25 16 ∧ c.qd.length < 32 then
      drainRows k g n (c.drainRow g (g.abase + bitsOf k.operand 8 0 + done) (bitOf k.operand 32)) (done + 1)
    else (c, done)
/-- The head DRAIN of a core goes on by at most n rows, and completes with its last one. -/
def State.drainOn (s : State) (c n : Nat) (k : QkCmd) : State :=
  let ctx := (s.core c).ctx
  let (d, done) := drainRows k (ctx.slotCfg k.tag) n ctx k.progress
  let t := (s.updCtx c fun _ => d).updHead c fun k => { k with taken := true, progress := done }
  if done = bitsOf k.operand 25 16 then (((t.popQk c).commandDone c k.issuer).qkMoved c) else t
/-- DRAIN (R192): the head of QK of the subject's core is taken once its slot is not armed, and drains while QD has room. -/
def execDrain (s : State) : Out :=
  let c := s.subject.core
  match s.qkHead c with
  | some k =>
    if k.op = 2 ∧ k.taken = false ∧ ((s.core c).ctx.slotCfg k.tag).armed = false then .next (s.drainOn c 512 k) else .next s
  | none => .next s
/-- DRAIN_ROW (R192): a taken DRAIN that has waited for QD space appends its next row. -/
def execDrainRow (s : State) : Out :=
  let c := s.subject.core
  match s.qkHead c with
  | some k => if k.op = 2 ∧ k.taken = true then .next (s.drainOn c 1 k) else .next s
  | none => .next s
/-- BAR (R188): once every earlier command has completed, the head BAR arrives at its barrier with a release at cluster scope; a
barrier cause sets BE and the arrival is not made (R198). -/
def execBar (s : State) : Out :=
  let c := s.subject.core
  match s.qkHead c with
  | some k =>
    if k.op = 3 ∧ (s.core c).ctx.anyArmed = false then
      let b := bitsOf k.operand 5 0
      let sec := barrierSection c b
      let t := (s.popQk c).registerAll c
      let x := (t.sec sec).barrier (b % 32)
      let u := if (t.part (t.partOfCore c)).hasSection sec = false ∨ x.arriveCause.isSome then
          t.updCtx c fun x => { x with mstat := { x.mstat with be := true } }
        else (t.arrive sec b).1
      .next ((u.commandDone c k.issuer).qkMoved c)
    else .next s
  | none => .next s

/-- Write one accumulator element; its poison goes (R197). -/
def CoreCtx.putAcc (c : CoreCtx) (k : Nat) (v : BitVec 32) : CoreCtx :=
  { c with acc := SMap.put 0 c.acc k v, accPoison := SMap.put false c.accPoison k false }
/-- Transfer 8-byte blocks i onward of accumulator row a to or from memory (R197). -/
def State.mcpyBlocks (s : State) (w : Who) (k c a : Nat) (out : Bool) (addr : Nat) : Nat → Nat → Res Unit
  | 0, _ => .ok s ()
  | n + 1, i =>
    let e := 64 * a + 2 * i
    if out then
      let v : Word := zx (SMap.get 0 (s.core c).ctx.acc e) ||| (zx (SMap.get 0 (s.core c).ctx.acc (e + 1)) <<< 32)
      (s.store w k (addr + 8 * i) v 0xFF none).bind fun s _ => State.mcpyBlocks s w k c a out addr n (i + 1)
    else
      (s.load w k (addr + 8 * i) 0xFF false none).bind fun s v =>
        State.mcpyBlocks (s.updCtx c fun x => (x.putAcc e (v.truncate 32)).putAcc (e + 1) ((v >>> 32).truncate 32))
          w k c a out addr n (i + 1)
/-- Transfer rows of an MCPY from its progress on (R197): a row that faults, or waits for a page, is left as it was, and a poisoned element
stops `mcpy.out` before its row is written. -/
def State.mcpyRows (s : State) (w : Who) (c : Nat) (k : QkCmd) : Nat → Nat → Res Unit
  | 0, _ => .ok s ()
  | n + 1, r =>
    let a := (rowWord k.operand).1 + r
    let addr := k.addr.toNat + 256 * r
    if k.op = 5 ∧ ((List.range 64).any fun j => SMap.get false (s.core c).ctx.accPoison (64 * a + j)) = true then
      .fault s (cause 0xC 2 3) (BitVec.ofNat 64 addr)
    else
      match s.mcpyBlocks w k.issuer c a (k.op == 5) addr 32 0 with
      | .ok t _ => State.mcpyRows (t.updHead c fun k => { k with progress := r + 1 }) w c k n (r + 1)
      | .fault _ cs tv => .fault s cs tv
      | .wait _ p => .wait s p
/-- The head MCPY of a core has faulted at its row: the rows before it are performed (R233), and its issuer takes the fault at its `mcpy`
(R197). -/
def State.faultMcpy (s : State) (c : Nat) (k : QkCmd) (cs : BitVec 10) (tv : Word) : State :=
  (((((s.releaseSlot k.issuer).popQk c).dropTl k.issuer).trapSlot k.issuer cs (scauseOf cs) tv (s.slot k.issuer).sh.pc false 0).qkMoved c)
/-- The address of the row at which a taken MCPY stands: of the page pull that it waits for (R197). -/
def QkCmd.rowAddr (k : QkCmd) : Nat := k.addr.toNat + 256 * k.progress
/-- MCPY (R197): the head MCPY of the subject's core, once no armed window overlaps its rows, transfers its rows as accesses of the
issuing shuttle, all performed before the next command of QK (R233). A fault is taken by that shuttle at its `mcpy`; a page pull is waited
for at its row. -/
def execMcpy (s : State) : Out :=
  let c := s.subject.core
  match s.qkHead c with
  | some k =>
    let (row, n) := rowWord k.operand
    if (k.op = 4 ∨ k.op = 5) ∧ (k.taken = true ∨ (s.core c).ctx.overlapsArmed row n = false) then
      let m := s.slot k.issuer
      let w : Who := { vf := m.vf, core := c, mode := m.sh.mode, agent := 2 }
      let t := s.updHead c fun k => { k with taken := true }
      match t.mcpyRows w c k (n - k.progress) k.progress with
      | .ok t _ => .next (((((t.releaseSlot k.issuer).popQk c).commandDone c k.issuer).finish k.issuer 0).qkMoved c)
      | .fault t cs tv => .next (t.faultMcpy c k cs tv)
      | .wait t p => .next (t.askPull m.vf p true (dieOf c))
    else .next s
  | none => .next s

/-- The entry that the array takes next and the slot it is for (R189): a scratch entry of the slot armed first among those with
ASRC, else the head of QA. -/
inductive ArrayNext where
  | entry (t : Nat) (e : QaEntry) (fromQa poisoned : Bool)
  | discard (t : Nat)
  | waits
  deriving DecidableEq, Repr
/-- Bytes of the scratchpad as one number. -/
def CoreCtx.scratchNat (c : CoreCtx) (off n : Nat) : Nat :=
  (List.range n).foldl (fun a i => a + (SMap.get 0 c.scratch (off + i) : BitVec 8).toNat * 2 ^ (8 * i)) 0
/-- What the array of a core does next (R189, R190). The doublewords of a scratch entry are read in one step. DESIGN CHOICE, unsafe: log
entry 78. -/
def CoreCtx.arrayNext (c : CoreCtx) : ArrayNext :=
  let own := (List.range 8).filter fun t => (c.slotCfg t).armed && (c.slotCfg t).scratchSource
  match minBy (fun t => (c.slotCfg t).order) own with
  | some t =>
    let g := c.slotCfg t
    let v := 128 * (g.aoff + g.e)
    let sc := 4 * (g.soff + g.e)
    .entry t { val := BitVec.ofNat 1024 (c.scratchNat v 128), w := widthA g.pair, scl := BitVec.ofNat 32 (c.scratchNat sc 4), tag := t }
      false ((List.range 16).any (fun i => SMap.get false c.spoison (v / 8 + i)) || SMap.get false c.spoison (sc / 8))
  | none =>
    match c.qa with
    | [] => .waits
    | e :: _ =>
      let g := c.slotCfg e.tag
      if !g.configured then .discard e.tag
      else if g.armed && !g.scratchSource then .entry e.tag e true e.bad
      else .waits
/-- The array reads rows and scale words of every slice as they stand (R191), all of a chunk in one step. DESIGN CHOICE, unsafe: log
entry 78. -/
def Core.readChunk (k : Core) (t j : Nat) (g : CfgSlot) : HeldChunk :=
  let first := g.brow + j * rpcOf g.pair
  let rows := (List.range 64).flatMap fun n => (List.range (rpcOf g.pair)).map fun r =>
    (2 * n + r, (SMap.get 0 k.bsram (512 * n + first + r) : BitVec 512))
  let scales := (List.range 64).map fun n => (n, (SMap.get 0 k.bscale (512 * n + first) : BitVec 32))
  { tag := t, j := j, rows := rows.filter fun e => e.2 != 0, scales := scales.filter fun e => e.2 != 0 }
/-- CHUNK LOAD (R191): when the chunk or the slot differs from what the array holds. -/
def Core.loadChunk (k : Core) (t j : Nat) (g : CfgSlot) : Core :=
  match k.chunk with
  | some h => if h.tag = t ∧ h.j = j then k else { k with chunk := some (k.readChunk t j g) }
  | none => { k with chunk := some (k.readChunk t j g) }
/-- Element i of width w of a packed value (R102). -/
def packed (v w i : Nat) : Nat := v / 2 ^ (w * i) % 2 ^ w
/-- One group update of an accumulator element (R114, R115, R190). -/
def groupUpdate (fp : FormatPair) (a b q sa sb : Nat) (x : BitVec 32) : BitVec 32 × FFlags × Bool :=
  let as := (List.range 16).map fun i => packed a (widthA fp) (16 * q + i)
  let bs := (List.range 16).map fun i => packed b (widthB fp) (16 * q + i)
  match fp.kinds with
  | (.int wa, .int wb) =>
    let (v, o) := groupInt x.toNat wa wb as bs
    (BitVec.ofNat 32 v, 0, o)
  | (ka, kb) =>
    let (v, f) := groupFp x.toNat ka kb as bs sa sb
    (BitVec.ofNat 32 v, f, false)
/-- The four group updates of one column, in order (R190). -/
def columnUpdate (fp : FormatPair) (a b : Nat) (sa sb : BitVec 32) (x : BitVec 32) : BitVec 32 × FFlags × Bool :=
  [0, 1, 2, 3].foldl (fun r q =>
    let (v, f, o) := groupUpdate fp a b q (bitsOf (zx sa) (8 * q + 7) (8 * q)) (bitsOf (zx sb) (8 * q + 7) (8 * q)) r.1
    (v, r.2.1 ||| f, r.2.2 || o)) (x, 0, false)
/-- Consume an entry for a slot with the chunk held (R190). A poisoned operand poisons the elements that it enters.
DEDUCED, unsafe: log entry 28. -/
def Core.consume (k : Core) (t : Nat) (e : QaEntry) (poisoned : Bool) : Core :=
  let c := k.ctx
  let g := c.slotCfg t
  let m := g.e % g.rows
  let j := g.e / g.rows
  let k := k.loadChunk t j g
  let h := k.chunk.getD { tag := t, j := j, rows := [], scales := [] }
  let row := 64 * (g.abase + m)
  let bad (n : Nat) : Bool := poisoned || SMap.get false c.accPoison (row + n) ||
    (List.range (rpcOf g.pair)).any fun r => SMap.get false k.bpoison (512 * n + g.brow + j * rpcOf g.pair + r)
  let step (x : CoreCtx) (n : Nat) : CoreCtx :=
    let b := (SMap.get 0 h.rows (2 * n) : BitVec 512).toNat + (SMap.get 0 h.rows (2 * n + 1) : BitVec 512).toNat * 2 ^ 512
    let (v, f, o) := columnUpdate g.pair e.val.toNat b e.scl (SMap.get 0 h.scales n) (SMap.get 0 x.acc (row + n))
    { x with
      acc := SMap.put 0 x.acc (row + n) v
      accPoison := SMap.put false x.accPoison (row + n) (bad n)
      mstat := { x.mstat.note f o with psn := x.mstat.psn || bad n } }
  let d := (List.range 64).foldl step c
  let left := g.remaining - 1
  { k with ctx :=
    { d.updCfg t fun g => { g with e := g.e + 1, remaining := left, armed := decide (left ≠ 0) }
      with mstat := { d.mstat with wm := d.mstat.wm || e.w != widthA g.pair } } }
/-- QA_CONSUME (R189, R190): the array of the subject's core consumes its next entry, or discards a head that names an unconfigured
slot; the slot whose last entry is consumed completes its ARM. -/
def execQaConsume (s : State) : Out :=
  let c := s.subject.core
  match (s.core c).ctx.arrayNext with
  | .waits => .next s
  | .discard t =>
    .next (s.updCtx c fun x => { x with qa := x.qa.tail, mstat := { x.mstat with ut := true, utag := t } })
  | .entry t e fromQa p =>
    let s1 := s.updCore c fun k => k.consume t e p
    let s2 := if fromQa then (s1.count c 0x004 none).updCtx c fun x => { x with qa := x.qa.tail } else s1
    let g := (s2.core c).ctx.slotCfg t
    .next (if g.armed then s2 else (s2.commandDone c g.issuer).qkMoved c)
/-- QK_PARITY_ERROR (R198): the head of QK of the subject's core fails parity, is discarded, and QKP is set; its issuer's TL falls.
DEDUCED, unsafe: log entry 25. -/
def execQkParityError (s : State) : Out :=
  let c := s.subject.core
  match s.qkHead c with
  | some k =>
    if k.op = 6 then .next s
    else
      let t := ((s.popQk c).updCtx c fun x => { x with mstat := { x.mstat with qkp := true } }).commandDone c k.issuer
      let u := if k.op = 4 ∨ k.op = 5 then t.updSlot k.issuer fun m => { m.wake (s.coreCycle c) with wait := none } else t
      .next (u.qkMoved c)
  | none => .next s

end Sys2Proof.Machine
end

