-- ==== Sys2Proof/Machine/Copies.lean ====
section
/-! DEFINITION. `fence.q` (R233, R241), copy channels (R252 to R259): issue, delivery, completion, faults. -/

namespace Sys2Proof.Machine

/-- Entries of a collective queue that hold an operation (R403). -/
def Vf.collCount (v : Vf) : Nat := (v.coll.filter fun e => e.2.held).length
/-- The channels that a queue mask names, as section and channel (R241). -/
def maskChannels (core : Nat) (m : Word) : List (Nat × Nat) :=
  ((List.range 16).filter fun i => bitOf m i).map (channelOf core)
/-- Write a channel. -/
def SectionCtx.putChan (x : SectionCtx) (ch : Nat) (c : Channel) : SectionCtx := { x with chans := SMap.put {} x.chans ch c }
/-- Append to a channel's queue. -/
def SectionCtx.addCmd (x : SectionCtx) (ch : Nat) (c : CopyCmd) : SectionCtx :=
  x.putChan ch { x.chan ch with cmds := (x.chan ch).cmds ++ [c] }
/-- FENCE_Q (R241): a fault held for a QK command is taken by any `fence.q` (R185), one held for a channel by a `fence.q` that names it
(R259). Held by a full copy channel and by another full queue at once, it expires with the cause of the channel. DESIGN CHOICE, unsafe: log
entry 92. -/
def execFenceQ (rs1 : XReg) (s : State) : Out :=
  let m := s.x rs1
  let chs := maskChannels s.myCore m
  if bitsOf m 63 18 ≠ 0 ∨ (bitOf m 17 = true ∧ classOf s.myCore ≠ .matrix) then s.raise (cause 8 3 0) m
  else if chs.any fun c => !((s.part (s.partOfVf s.me.vf)).hasSection c.1) then s.raise (cause 2 0 7) m
  else
    s.deferredFirst (fun d => d.queue == 17 || bitOf m d.queue) fun s =>
      if m = 0 then .next s.complete
      else
        s.afterVector fun s => s.release fun s =>
          let chFull := chs.any fun c => decide (16 ≤ ((s.sec c.1).chan c.2).ops.length)
          let full := (bitOf m 17 && decide (8 ≤ s.qkCount s.myCore))
            || (bitOf m 16 && decide (256 ≤ (s.vf s.me.vf).collCount))
          if chFull || full then .next (s.block (.fenceQ m chFull))
          else
            let n := s.order
            let v := s.me.vf
            let c := s.myCore
            let s1 := chs.foldl (fun t c => t.updSec c.1 fun x => x.addCmd c.2 { joint := some n, order := n }) s.bump
            let s2 := if bitOf m 17 then
                s1.updCtx c fun x => { x with qk := x.qk ++ [{ op := 6, operand := BitVec.ofNat 64 n }] }
              else s1
            let s3 := if bitOf m 16 then
                s2.updVf v fun f => { f with coll := SMap.put {} f.coll (256 + n) { joint := some n, order := n } }
              else s2
            .next s3.joints.complete

/-! ### Issue of a copy -/

/-- Bytes of a B-SRAM element chunk of a pair (R255). -/
def chunkBytes (fp : FormatPair) : Nat := 8 * widthB fp
/-- The bytes of an operation, and whether its descriptor breaks R253. -/
def copyShape (f : CopyForm) (d : List Word) : Nat × Bool :=
  let w (i : Nat) : Word := d.getD i 0
  match f with
  | .lin => ((w 2).toNat, decide (2 ^ 36 ≤ (w 2).toNat) || (d.drop 3).any (· != 0))
  | .rect =>
    let rl := bitsOf (w 2) 31 0
    let n := rl * bitsOf (w 2) 63 32
    (n, decide (2 ^ 31 < rl) || decide (2 ^ 36 ≤ n) || (d.drop 5).any (· != 0))
  | .bsram =>
    match pairOf (bitsOf (w 2) 3 0) with
    | none => (0, true)
    | some fp =>
      let chk := bitsOf (w 2) 40 32
      (chk * rpcOf fp * 64 * 68, decide (bitsOf (w 1) 63 12 ≠ 0) || decide (bitsOf (w 2) 63 41 ≠ 0) ||
        decide (bitsOf (w 2) 31 25 ≠ 0) || decide (bitsOf (w 2) 15 4 ≠ 0) || chk == 0 || decide (256 < chk) ||
        (d.drop 4).any (· != 0) || decide (512 < bitsOf (w 2) 24 16 + chk * rpcOf fp))
/-- The descriptor breaks R253, or its target or rows are not allowed (R254). -/
def State.copyBad (s : State) (f : CopyForm) (d : List Word) : Bool :=
  (copyShape f d).2 || (match f with
    | .bsram =>
      let t := (d.getD 1 0).toNat
      let lw := d.getD 2 0
      let (lo, hi) := s.bGrant s.me.vf
      let rows := match pairOf (bitsOf lw 3 0) with | some fp => bitsOf lw 40 32 * rpcOf fp | none => 0
      !(s.inPart (s.partOfVf s.me.vf) t) || classOf t != .matrix || clusterOf t != clusterOf s.myCore
        || decide (bitsOf lw 24 16 < lo) || decide (hi < bitsOf lw 24 16 + rows)
    | _ => false)
/-- The checks of a barrier word (R254): the cause and its stval, which for the barrier's own causes is its number. DESIGN CHOICE, unsafe: log
entry 92. -/
def State.barWordCheck (s : State) (w : Word) (bytes : Nat) (a : Word) : Option (BitVec 10 × Word) :=
  let b := bitsOf w 5 0
  let sec := barrierSection s.myCore b
  let x := (s.sec sec).barrier (b % 32)
  let bn : Word := BitVec.ofNat 64 b
  if bitsOf w 63 8 ≠ 0 ∨ bitOf w 6 = true then some (cause 8 4 2, a)
  else if (s.part (s.partOfVf s.me.vf)).hasSection sec = false then some (cause 2 0 7, bn)
  else if x.init = false then some (cause 7 0 4, bn)
  else if bitOf w 7 = true ∧ 2 ^ 36 ≤ x.pend + bytes then some (cause 7 0 2, bn)
  else none
/-- A copy instruction (R254). -/
def State.copyIssue (s : State) (i : Instr) (f : CopyForm) (ch : BitVec 4) (rs1 rs2 : XReg) : Out :=
  s.gate i none fun s =>
    let (sec, cn) := channelOf s.myCore ch.toNat
    if (s.part (s.partOfVf s.me.vf)).hasSection sec = false then s.raise (cause 2 0 7) (zx ch)
    else
      s.deferredFirst (fun d => d.queue == ch.toNat) fun s =>
        let a := s.x rs1
        if a.toNat % 64 ≠ 0 then s.raise (cause 5 0 3) a
        else
          (s.loadBlockWords (s.who 0) a.toNat 8).run fun s d =>
            let bytes := (copyShape f d).1
            let bw := s.x rs2
            if s.copyBad f d then s.raise (cause 8 4 2) a
            else match (if rs2 = 0 then none else s.barWordCheck bw bytes a) with
              | some (c, tv) => s.raise c tv
              | none =>
                s.afterVector fun s =>
                  if 255 ≤ s.me.cp then .next (s.block .counter)
                  else if 16 ≤ ((s.sec sec).chan cn).ops.length then .next (s.block (.channel a))
                  else
                    let cmd : CopyCmd :=
                      { form := f, desc := d, bar := if rs2 = 0 then none else some (bitsOf bw 5 0), bytes := bytes
                        issuer := s.focus, order := s.order, mode := s.sh.mode }
                    let s1 := s.bump.updSec sec fun x => x.addCmd cn cmd
                    let s2 := if rs2 ≠ 0 ∧ bitOf bw 7 = true then
                        s1.updBarrier (barrierSection s.myCore (bitsOf bw 5 0)) (bitsOf bw 5 0) fun x => { x with pend := x.pend + bytes }
                      else s1
                    .next (s2.updMe fun m => { m with cp := m.cp + 1 }).complete
/-- CPY (R254, R255). -/
def execCpy (ch : BitVec 4) (rs1 rs2 : XReg) (s : State) : Out := s.copyIssue (.cpy ch rs1 rs2) .lin ch rs1 rs2
/-- CPY_2D (R254, R255). -/
def execCpy2d (ch : BitVec 4) (rs1 rs2 : XReg) (s : State) : Out := s.copyIssue (.cpy2d ch rs1 rs2) .rect ch rs1 rs2
/-- CPY_B (R254, R255). -/
def execCpyB (ch : BitVec 4) (rs1 rs2 : XReg) (s : State) : Out := s.copyIssue (.cpyB ch rs1 rs2) .bsram ch rs1 rs2

/-! ### Delivery -/

/-- An address with an offset, modulo 2^64. -/
def addrAdd (a : Word) (n : Nat) : Nat := (a + BitVec.ofNat 64 n).toNat
/-- An engine reads n bytes, 1 to 8, from an address: one or two aligned blocks. -/
def State.engineBytes (s : State) (w : Who) (a n : Nat) : Res Word :=
  let o := a % 8
  let low := min n (8 - o)
  (s.engineRead w a (byteMask o low)).bind fun s v =>
    if low = n then .ok s (v >>> (8 * o))
    else
      (s.engineRead w (a + low) (byteMask 0 (n - low))).bind fun s u =>
        .ok s (((v >>> (8 * o)) &&& BitVec.ofNat 64 (2 ^ (8 * low) - 1)) ||| (u <<< (8 * low)))
/-- Drop the Valid copies of the words of some bytes at a core (R233). -/
def State.dropRange (s : State) (c a n : Nat) : State :=
  s.updCore c fun k => { k with l1 := k.l1.filter fun e => decide (e.1 < a / 4) || decide ((a + n + 3) / 4 ≤ e.1) }
/-- Bytes of one destination block are copied: the bytes before a fault in the second of two source blocks are delivered (R259). -/
def State.copyUnit (s : State) (w : Who) (src d n : Nat) : Res Unit :=
  let put (s : State) (v : Word) (k : Nat) : Res Unit :=
    (s.engineWrite w d (v <<< (8 * (d % 8))) (byteMask (d % 8) k)).bind fun s _ => .ok (s.dropRange w.core d k) ()
  match s.engineBytes w src n with
  | .ok s v => put s v n
  | .wait s p => .wait s p
  | .fault t c tv =>
    let low := 8 - src % 8
    if low < n then
      match s.engineBytes w src low with
      | .ok s v => (put s v low).bind fun s _ => .fault s c tv
      | _ => .fault t c tv
    else .fault t c tv
/-- Copy n bytes between two addresses, one aligned 8-byte unit of the destination at a time, in ascending order.
DEDUCED, unsafe: log entry 66. -/
def State.copyRun (s : State) (w : Who) (src dst : Word) : Nat → Nat → Nat → Res Unit
  | 0, _, _ => .ok s ()
  | fuel + 1, o, n =>
    if n ≤ o then .ok s ()
    else
      let d := addrAdd dst o
      let k := min (n - o) (8 - d % 8)
      (s.copyUnit w (addrAdd src o) d k).bind fun s _ => State.copyRun s w src dst fuel (o + k) n

/-- The next run of a linear or two-dimensional copy from a byte position: source, destination and bytes up to the end of the
row and of the 512-byte destination block (R255). -/
def CopyCmd.piece (c : CopyCmd) (p : Nat) : Word × Word × Nat :=
  let w (i : Nat) : Word := c.desc.getD i 0
  match c.form with
  | .rect =>
    let rl := max 1 (bitsOf (w 2) 31 0)
    let row : Word := BitVec.ofNat 64 (p / rl)
    let src := w 0 + row * w 3 + BitVec.ofNat 64 (p % rl)
    let dst := w 1 + row * w 4 + BitVec.ofNat 64 (p % rl)
    (src, dst, min (rl - p % rl) (512 - dst.toNat % 512))
  | _ =>
    let src := w 0 + BitVec.ofNat 64 p
    let dst := w 1 + BitVec.ofNat 64 p
    (src, dst, min (c.bytes - p) (512 - dst.toNat % 512))
/-- The next block of such a copy (R255): the runs, one of each row, that lie one behind the other in one aligned 512-byte destination block.
DEDUCED, unsafe: log entry 27. -/
def CopyCmd.block (c : CopyCmd) : Nat → Nat → List (Word × Word × Nat)
  | 0, _ => []
  | rows + 1, p =>
    let x := c.piece p
    let q := p + x.2.2
    x :: (if q < c.bytes ∧ (c.piece q).2.1.toNat / 512 = x.2.1.toNat / 512 then CopyCmd.block c rows q else [])
/-- The runs of a block are copied in turn. -/
def State.copyRuns (s : State) (w : Who) : List (Word × Word × Nat) → Res Unit
  | [] => .ok s ()
  | x :: l => (s.copyRun w x.1 x.2.1 (x.2.2 + 1) 0 x.2.2).bind fun s _ => State.copyRuns s w l
/-- Rows that a copy has at most. -/
def CopyCmd.rows (c : CopyCmd) : Nat := match c.form with | .rect => bitsOf (c.desc.getD 2 0) 63 32 | _ => 1
/-- Read n bytes, a multiple of 4, as one number, at most 8 bytes at a time: how many bytes came before the end or a stop, and the number. -/
def State.engineNat (s : State) (w : Who) (a : Word) : Nat → Nat → Nat → Nat → (Nat × Nat) × Res Unit
  | 0, o, _, acc => ((o, acc), .ok s ())
  | fuel + 1, o, n, acc =>
    if n ≤ o then ((o, acc), .ok s ())
    else
      let d := addrAdd a o
      let k := min (n - o) (8 - d % 8)
      match s.engineBytes w d k with
      | .ok s v => State.engineNat s w a fuel (o + k) n (acc + v.toNat % 2 ^ (8 * k) * 2 ^ (8 * o))
      | .fault s c tv => ((o, acc), .fault s c tv)
      | .wait s p => ((o, acc), .wait s p)
/-- The first n bytes of a B-SRAM row are written (R255, R259): a whole row, with its scale, loses its poison. -/
def Core.putRow (k : Core) (key n v : Nat) (scale : Option (BitVec 32)) : Core :=
  let old := (SMap.get 0 k.bsram key : BitVec 512).toNat
  let t := { k with bsram := SMap.put 0 k.bsram key (BitVec.ofNat 512 (old / 2 ^ (8 * n) * 2 ^ (8 * n) + v)) }
  match scale with
  | some x => { t with bscale := SMap.put 0 t.bscale key x, bpoison := SMap.put false t.bpoison key false }
  | none => t
/-- One slice row of a `cpy.b` (R255): unit u counts rows within chunks and slices. The bytes before a fault are delivered (R259). -/
def State.copySlice (s : State) (w : Who) (c : CopyCmd) (u : Nat) : Res Unit :=
  let lw := c.desc.getD 2 0
  match pairOf (bitsOf lw 3 0) with
  | none => .ok s ()
  | some fp =>
    let rpc := rpcOf fp
    let cb := chunkBytes fp
    let r := u % rpc
    let jn := u / rpc
    let row := bitsOf lw 24 16 + jn / 64 * rpc + r
    let t := (c.desc.getD 1 0).toNat
    let key := 512 * (jn % 64) + row
    let sa := c.desc.getD 3 0
    let (g, x) := s.engineNat w (c.desc.getD 0 0 + BitVec.ofNat 64 (jn * cb + 64 * r)) 16 0 (min 64 (cb - 64 * r)) 0
    match x with
    | .wait s p => .wait s p
    | .fault s cs tv => .fault (s.updCore t fun k => k.putRow key g.1 g.2 none) cs tv
    | .ok s _ =>
      let (h, y) := if r ≠ 0 then ((4, 0), .ok s ()) else if sa = 0 then ((4, 0x7F7F7F7F), .ok s ())
        else s.engineNat w (sa + BitVec.ofNat 64 (4 * jn)) 4 0 4 0
      match y with
      | .wait s p => .wait s p
      | .fault s cs tv => .fault (s.updCore t fun k => k.putRow key 64 g.2 none) cs tv
      | .ok s _ => .ok (s.updCore t fun k => k.putRow key 64 g.2 (some (BitVec.ofNat 32 h.2))) ()

/-- The head operation of a channel, unless a joint entry stands there. -/
def State.copyHead (s : State) (sec ch : Nat) : Option CopyCmd :=
  match ((s.sec sec).chan ch).cmds with
  | c :: _ => if c.joint.isNone then some c else none
  | [] => none
/-- Change the head operation of a channel. -/
def State.updCopy (s : State) (sec ch : Nat) (f : CopyCmd → CopyCmd) : State :=
  s.updSec sec fun x =>
    x.putChan ch { x.chan ch with cmds := match (x.chan ch).cmds with | c :: l => f c :: l | [] => [] }
/-- The channel number in the cluster. -/
def channelNumber (sec ch : Nat) : Nat := 8 * (sec % 2) + ch
/-- The operation has written the byte at an address of memory (R253, R255). -/
def CopyCmd.wrote (c : CopyCmd) (a : Word) : Bool :=
  let w (i : Nat) : Word := c.desc.getD i 0
  match c.form with
  | .lin => decide ((a - w 1).toNat < c.delivered)
  | .rect =>
    let rl := max 1 (bitsOf (w 2) 31 0)
    (List.range (c.delivered / rl + 1)).any fun r =>
      let o := (a - w 1 - BitVec.ofNat 64 r * w 4).toNat
      decide (o < rl) && decide (r * rl + o < c.delivered)
  | .bsram => false
/-- The Valid copies that the issuing core holds of words that the operation has written are dropped (R215, R233). -/
def State.dropWritten (s : State) (c : CopyCmd) : State :=
  s.updCore (c.issuer / 16) fun k => { k with l1 := k.l1.filter fun e =>
    !((List.range 4).any fun b => c.wrote (BitVec.ofNat 64 (4 * e.1 + b))) }
/-- The head operation of a channel ends: the issuing core's Valid copies of what it wrote go, SEQ advances, CP falls, a waiting shuttle
tries again (R233, R255, R256, R259). -/
def State.endCopy (s : State) (sec ch : Nat) (c : CopyCmd) : State :=
  ((((s.dropWritten c).updSec sec fun x =>
    x.putChan ch { x.chan ch with cmds := (x.chan ch).cmds.tail, seq := (x.chan ch).seq + 1 }).dropCp
      c.issuer).joints).signalWhere fun _ w => match w with | .channel _ => true | .fenceQ _ _ => true | _ => false
/-- PEND of the named barrier falls by the bytes landed (R250, R257). DEDUCED, unsafe: log entry 31. -/
def State.landed (s : State) (sec ch : Nat) (c : CopyCmd) (n : Nat) : State :=
  match c.bar with
  | none => s
  | some b =>
    let bs := sec / 2 * 2 + b / 32
    let x := (s.sec bs).barrier (b % 32)
    if x.init = false then s
    else
      let t := (s.updBarrier bs b fun x => { x with pend := x.pend - n }).barrierTest bs b
      if n ≤ x.pend then t
      else t.holdDeferred c.issuer
        { cause := cause 8 4 4, under := cause 7 4 2, tval := 0, queue := channelNumber sec ch, order := c.order }
/-- The channel as an accessor: on behalf of the issuing shuttle, with causes of agent 4 (R88, R233, R287). -/
def CopyCmd.who (c : CopyCmd) (s : State) (sec ch : Nat) : Who :=
  let m := s.slot c.issuer
  { vf := if m.life = .free then (s.part (s.partOfSection sec)).running.getD 0 else m.vf, core := c.issuer / 16, mode := c.mode, agent := 4, buf := .chan sec ch }
/-- Abandon the head operation on a cause (R259): CP falls, and a deferred 0x8.4.4 is held for the issuer. -/
def State.abandonCopy (s : State) (sec ch : Nat) (c : CopyCmd) (under : BitVec 10) (tv : Word) : State :=
  (s.endCopy sec ch c).holdDeferred c.issuer
    { cause := cause 8 4 4, under := under, tval := tv, queue := channelNumber sec ch, order := c.order }
/-- What the next block of an operation comes to. -/
inductive BlockOut where
  | done
  | fault (c : BitVec 10) (tval : Word)
  | waits (va : Nat)
  deriving DecidableEq, Repr
/-- The next block or slice row of the head operation (R255): its writes, then DONE, then PEND. A page pull holds the channel, and one that
fails has a cause for it (R297). -/
def State.copyBlock (s : State) (sec ch : Nat) (c : CopyCmd) : State × BlockOut :=
  let w := c.who s sec ch
  let step (n m : Nat) (r : Res Unit) : State × BlockOut :=
    match r with
    | .ok t _ =>
      ((t.updCopy sec ch fun c => { c with delivered := c.delivered + n, counted := c.counted + m, waits := none }).landed sec ch c m, .done)
    | .fault t cs tv => (t, .fault cs tv)
    | .wait _ va => ((s.askPull w.vf va true (sec / 4)).updCopy sec ch fun c => { c with waits := some va }, .waits va)
  match c.failed, c.form with
  | some x, _ => (s, .fault x.1 x.2)
  | none, .bsram => step 1 68 (s.copySlice w c c.delivered)
  | none, _ =>
    let l := c.block c.rows c.delivered
    let n := (l.map fun x => x.2.2).sum
    step n n (s.copyRuns w l)
/-- Units that an operation delivers: bytes, or slice rows. -/
def CopyCmd.units (c : CopyCmd) : Nat := match c.form with | .bsram => c.bytes / 68 | _ => c.bytes
/-- COPY_BLOCK_DELIVERED (R255, R257): the channel of the subject's section performs the writes of its next block. A block that faults
is left to COPY_FAULT. -/
def execCopyBlockDelivered (s : State) : Out :=
  let sec := s.subject.section_
  let ch := s.subject.chan
  match s.copyHead sec ch with
  | some c =>
    if c.delivered < c.units then
      match s.copyBlock sec ch c with
      | (_, .fault _ _) => .next s
      | (t, _) => .next t
    else .next s
  | none => .next s
/-- COPY_COMPLETE (R255): every write of the head operation is performed. -/
def execCopyComplete (s : State) : Out :=
  let sec := s.subject.section_
  let ch := s.subject.chan
  match s.copyHead sec ch with
  | some c => .next (if c.units ≤ c.delivered then s.endCopy sec ch c else s)
  | none => .next s
/-- COPY_FAULT (R259): the next block of the head operation meets a cause; the bytes before it are delivered, and the operation is
abandoned. -/
def execCopyFault (s : State) : Out :=
  let sec := s.subject.section_
  let ch := s.subject.chan
  match s.copyHead sec ch with
  | some c =>
    if c.delivered < c.units then
      match s.copyBlock sec ch c with
      | (t, .fault cs tv) => .next (t.abandonCopy sec ch c cs tv)
      | _ => .next s
    else .next s
  | none => .next s

end Sys2Proof.Machine
end

