-- ==== Sys2Proof/Machine/HostQueue.lean ====
section
/-! DEFINITION. Host queues as the package keeps them (R302 to R306, R318 to R320, R342): indices, external events (R85), the stop of a queue, and
the reads of a die scheduler. -/

namespace Sys2Proof.Machine

/-- Z of a ring register: log2 of the record count (R342). -/
def HostQueue.z (h : HostQueue) : Nat := bitsOf h.ring 4 0
/-- Base DVA of the ring (R342). -/
def HostQueue.base (h : HostQueue) : Nat := bitsOf h.ring 55 12 * 4096
/-- The consumed index of a die. -/
def HostQueue.at_ (h : HostQueue) (d : Nat) : BitVec 32 := SMap.get 0 h.consumed d
/-- The lower of two indices by their distance to the write index (R302, R342). -/
def indexLow (w a b : BitVec 32) : BitVec 32 := if (w - a).toNat < (w - b).toNat then b else a
/-- The read index: the minimum of the consumed indices of the dies of the partition (R302). -/
def State.readIndex (s : State) (v q : Nat) : BitVec 32 :=
  let h := (s.vf v).queue q
  match s.partDies (s.partOfVf v) with
  | [] => h.widx
  | d :: l => l.foldl (fun a e => indexLow h.widx a (h.at_ e)) (h.at_ d)
/-- A die's completed-through index has reached an index (R319). -/
def HostQueue.through (h : HostQueue) (d : Nat) (k : BitVec 32) : Bool :=
  let far (i : BitVec 32) : Bool := decide ((k - i).toNat < 2 ^ 31) && i != k
  !(far (h.at_ d)) && h.open_.all fun o => o.2 != d || !(far (BitVec.ofNat 32 o.1))
/-- Every die of the partition has completed through an index (R319). -/
def State.allThrough (s : State) (v q : Nat) (k : BitVec 32) : Bool :=
  (s.partDies (s.partOfVf v)).all fun d => ((s.vf v).queue q).through d k

/-- The state that the state register reports (R303): that of the whole queue, else Parked or Waiting where a die is. How the states of the
dies make one is DESIGN CHOICE, unsafe: log entry 76. -/
def HostQueue.shown (h : HostQueue) : QueueState :=
  if h.state = .running then
    (if h.dies.any fun d => d.2 == .parked then .parked else if h.dies.any fun d => d.2 == .waiting then .waiting else .running)
  else h.state
/-- The code of a queue state (R303). -/
def QueueState.code : QueueState → Nat
  | .running => 0 | .waiting => 1 | .parked => 2 | .lapped => 3 | .stopped => 4
/-- The queue status register of a VF's queue (R303). -/
def State.statusWord (s : State) (v q : Nat) : Word :=
  BitVec.ofNat 64 ((s.part (s.partOfVf v)).gen.toNat * 2 ^ 48 + ((s.vf v).queue q).cause.toNat * 2 ^ 32)
/-- The queue state register (R303). -/
def State.stateWord (s : State) (v q : Nat) : Word := BitVec.ofNat 64 ((s.vf v).queue q).shown.code
/-- Which of two record indices comes first, seen from a later one. -/
def indexFirst (a b : Nat) : Nat := if (BitVec.ofNat 32 b - BitVec.ofNat 32 a).toNat < 2 ^ 31 then a else b

/-- An external event joins those of a VF (R85): a later event of a queue replaces the cause of the one it holds; one 0xB.0.3 is held
at most. -/
def Vf.addEvent (f : Vf) (c : BitVec 10) (q : Nat) : Vf :=
  if c = cause 0xB 0 3 then
    (if f.ext.any fun e => e.cause == c then f else { f with ext := f.ext ++ [{ cause := c }] })
  else if f.ext.any fun e => e.cause != cause 0xB 0 3 && e.queue == q then
    { f with ext := f.ext.map fun (e : ExtEvent) => if e.cause != cause 0xB 0 3 && e.queue == q then { e with cause := c } else e }
  else { f with ext := f.ext ++ [{ cause := c, queue := q }] }
/-- WFI ends on a core where an interrupt has become pending: it completes with its pc at the next word (R67). -/
def State.wakeWfi (s : State) (c : Nat) : State :=
  if s.pendingOn c = 0 then s
  else (s.slots.map (·.1)).foldl (fun t k =>
    match (t.slot k).wait with
    | some w =>
      if k / 16 = c ∧ w.kind = .wfi ∧ (t.slot k).life = .waiting then
        (t.signal k).updSlot k fun m => { m.completeAt (m.sh.pc + 4) with woken := m.woken }
      else t
    | none => t) s
/-- An external event becomes pending for a VF (R85). -/
def State.extEvent (s : State) (v : Nat) (c : BitVec 10) (q : Nat) : State :=
  (s.updVf v fun f => f.addEvent c q).wakeWfi (s.vf v).intCore
/-- A host interrupt of a VF: its pending bit is set (R341, R343). DEDUCED, unsafe: log entry 33. -/
def State.hostInterrupt (s : State) (v n : Nat) : State :=
  s.updVf v fun f => { f with msixPending := f.msixPending ||| BitVec.ofNat 17 (2 ^ n) }
/-- A die stops a queue at a record with a cause, and the VF receives SEI (R306, R318, R319, R320). Other dies may go on up to the first record
that has stopped it. A Lapped queue that stops so is Stopped, with the new cause. DESIGN CHOICE, unsafe: log entry 95. -/
def State.stopQueue (s : State) (v q d det k : Nat) : State :=
  (s.updVf v fun f => f.updQueue q fun h =>
    { h.setDie d .running with
      state := .stopped, cause := cause 0xE 3 det, waits := SMap.put 0 h.waits d 0
      stopAt := match h.state with | .stopped => h.stopAt.map (indexFirst k) | .lapped => none | _ => some k }).extEvent v (cause 0xE 3 det) q
/-- A core of a die that lies in the VF's partition: where the die's accesses are made from. -/
def State.dieCore (s : State) (v d : Nat) : Nat :=
  match (List.range 4).find? fun k => (s.part (s.partOfVf v)).hasSection (4 * d + k) with
  | some k => (sectionCores (4 * d + k)).headD (512 * d)
  | none => 512 * d
/-- A die scheduler as an accessor (R304). -/
def State.dieWho (s : State) (v d : Nat) : Who := { vf := v, core := s.dieCore v d, mode := .s, agent := 3, buf := .die }
/-- Read n doublewords. -/
def State.dieRead (s : State) (w : Who) (a : Nat) : Nat → Res (List Word)
  | 0 => .ok s []
  | n + 1 =>
    (s.engineRead w a 0xFF).bind fun s v => (State.dieRead s w (a + 8) n).bind fun s l => .ok s (v :: l)

/-- KIND of a record (R306). -/
def recKind (r : List Word) : Nat := bitsOf (r.getD 0 0) 7 0
/-- The kind of the record that a die comes to next, as it stands, with no effect (R306). -/
def State.kindAt (s : State) (v q d : Nat) : Option Nat :=
  let h := (s.vf v).queue q
  (s.locate v d (h.base + 64 * ((h.at_ d).toNat % 2 ^ h.z))).map fun x => (s.byte x.2.1).toNat
/-- A queue whose die waits for a page that cannot be pulled stops (R297, R306, R318 to R320): for a counter of a task or a signal word with
0xE.3.2 if the page is lost, for the word of a SIGNAL with 0xE.3.3, else with 0xE.3.1. The task of such a counter is never started. -/
def State.failQueues (s : State) (v page : Nat) (lost : Bool) : State :=
  let word := if lost then 2 else 1
  let tasks := s.awaits.filter fun a => a.vf == v && a.waits.any fun x => x / 65536 == page
  let t := tasks.foldl (fun t a =>
    ({ t with awaits := t.awaits.erase a, watches := t.watches.filter fun w => w.who != Watcher.die a.die a.id }).stopQueue v a.queue a.die
      word a.index) s
  let due := (t.vf v).queues.flatMap fun q => q.2.waits.filterMap fun w =>
    if w.2 ≠ 0 ∧ (w.2 - 1) / 65536 = page then some (q.1, w.1) else none
  due.foldl (fun t e =>
    let (q, d) := e
    let h := (t.vf v).queue q
    let ring := page == (h.base + 64 * ((h.at_ d).toNat % 2 ^ h.z)) / 65536
    t.stopQueue v q d (if h.onDie d = .parked then word else if !ring && t.kindAt v q d == some 4 then 3 else 1) (h.at_ d).toNat) t

end Sys2Proof.Machine
end

