-- ==== Sys2Proof/Machine/Tier.lean ====
section
/-! DEFINITION. The tier engine (R296 to R298, R332 to R337, R392): residency, allowances and quotas, the choice of a frame, pulls and
their failures, moves down, restores, and tier hints. -/

namespace Sys2Proof.Machine

/-- The cycles in a number of microseconds at the nominal 850 MHz (R68, R396). -/
def micros (n : Nat) : Nat := n * 850
/-- VF, LEN, LEAD and PRE of a schedule entry (R324). -/
def schedVf (e : Word) : Nat := bitsOf e 63 56
/-- LEN, in microseconds. -/
def schedLen (e : Word) : Nat := bitsOf e 47 28
/-- LEAD, in microseconds. -/
def schedLead (e : Word) : Nat := bitsOf e 27 18
/-- PRE, in units of 100 microseconds. -/
def schedPre (e : Word) : Nat := bitsOf e 17 8
/-- The entry of the slice that runs. -/
def Partition.entry (x : Partition) : Option Word := x.schedule[x.pos]?
/-- The schedule that governs the next slice, and the position in it of that slice: a new schedule starts at its first entry, and
entries of VFs no longer bound are passed over (R324). -/
def Partition.next (x : Partition) (bound : List Nat) : Option (Nat × Word) :=
  let l := x.scheduleNext.getD x.schedule
  let first := if x.scheduleNext.isSome || x.running.isNone then 0 else x.pos + 1
  ((List.range l.length).map fun i => (first + i) % l.length).findSome? fun i =>
    (l[i]?).bind fun e => if bound.contains (schedVf e) then some (i, e) else none
/-- The VF that the schedule names as next, once the slice has at most its PRE left (R327, R336). -/
def Partition.soon (x : Partition) (now : Nat) : Option Nat :=
  match x.entry, x.next x.vfs with
  | some e, some (_, n) =>
    if x.running ≠ some (schedVf n) ∧ x.sliceStart + micros (schedLen e) ≤ now + micros (100 * schedPre n) then some (schedVf n) else none
  | _, _ => none

/-- The leaves below a page table: address mapped, entry, level, and where the entry lies. -/
def State.leavesAt (s : State) : Nat → Nat → Nat → List (Nat × Word × Nat × Nat)
  | 0, t, va =>
    (List.range 1024).filterMap fun i =>
      let e := s.read64 (t + 8 * i)
      if bitOf e 0 && bitOf e 1 && leafOk e 0 then some (va + i * 65536, e, 0, t + 8 * i) else none
  | lv + 1, t, va =>
    (List.range 1024).flatMap fun i =>
      let e := s.read64 (t + 8 * i)
      let a := va + i * 2 ^ (16 + 10 * (lv + 1))
      if !(bitOf e 0) then []
      else if bitOf e 1 then (if leafOk e (lv + 1) then [(a, e, lv + 1, t + 8 * i)] else [])
      else State.leavesAt s lv (pteAddr e * 8192) a
/-- Every leaf of the page table of the package (R292). -/
def State.leaves (s : State) : List (Nat × Word × Nat × Nat) :=
  if bitOf (s.die 0).trr 0 then s.leavesAt 3 (bitsOf (s.die 0).trr 51 13 * 8192) 0 else []
/-- The level-0 leaf of a page and where it lies: only such a page takes part in tiering (R294). -/
def State.pageLeaf (s : State) (page : Nat) : Option (Word × Nat) :=
  match s.walkVa 0 (page * 65536) with
  | .leaf e 0 at_ => some (e, at_)
  | _ => none
/-- The page is resident in HBM by its leaf, at whatever level (R294). -/
def State.isResident (s : State) (page : Nat) : Bool :=
  match s.walkVa 0 (page * 65536) with
  | .leaf e lv _ => lv != 0 || pteTier e == 0
  | _ => false
/-- The pages of a span that lie in another, if any do: first page and number of pages. -/
def spanMeet (a b : Nat × Nat) : Option (Nat × Nat) :=
  let lo := max a.1 b.1
  let hi := min (a.1 + a.2) (b.1 + b.2)
  if lo < hi then some (lo, hi - lo) else none
/-- The pages of a leaf that a VF's range table maps, entry by entry (R294, R295): the first page within the leaf, the number of pages, and
the range entry. -/
def State.leafPieces (s : State) (v : Nat) (e : Word) (lv : Nat) : List (Nat × Nat × RangeEntry) :=
  ((s.vf v).ranges.filter fun x => decide (x.1 < 48) && x.2.valid).filterMap fun x =>
    (spanMeet (pteAddr e, 1024 ^ lv) (x.2.base / 65536, (x.2.limit - x.2.base) / 65536)).map fun m => (m.1 - pteAddr e, m.2, x.2)
/-- The machine address of an IPA in a range entry (R295). -/
def RangeEntry.machine (r : RangeEntry) (ipa : Nat) : Nat := r.mbase + (ipa - r.base)
/-- A clean copy is kept: its page has not been stored to (R392). -/
def State.keepsCopy (s : State) (page : Nat) : Bool := s.pageLeaf page |>.any fun l => !(bitOf l.1 4)
/-- The machine ranges that are taken, as base and length: those that mapped leaves name, under every VF's range table, and the far-tier
frames that are kept as clean copies (R392). -/
def State.usedRanges (s : State) : List (Nat × Nat) :=
  (s.leaves.flatMap fun l => s.vfs.flatMap fun v =>
    (s.leafPieces v.1 l.2.1 l.2.2.1).map fun x => (x.2.2.machine ((pteAddr l.2.1 + x.1) * 65536), 65536 * x.2.1))
    ++ s.clean.filterMap fun c => if s.keepsCopy c.2.1 then (s.rangeOf c.1 c.2.2).map fun r => (r.machine c.2.2, 65536) else none
/-- A 64 KiB frame that no leaf maps. -/
def frameFree (used : List (Nat × Nat)) (ma : Nat) : Bool :=
  used.all fun u => decide (ma + 65536 ≤ u.1) || decide (u.1 + u.2 ≤ ma)
/-- The first IPA of a VF whose frame is free, in HBM or in the far tier (R296, R335): of range entries with the rights and key given, if one
has such a frame, else of any. DESIGN CHOICE, unsafe: log entry 30. -/
def State.freeIpa (s : State) (v : Nat) (far : Bool) (rights : Word) : Option Nat :=
  let used := s.usedRanges
  let mine := (s.vf v).ranges.filter fun e => decide (e.1 < 48) && e.2.valid && (inFabric e.2.mbase == far)
  ((mine.filter fun e => e.2.w3 == rights) ++ mine).findSome? fun e =>
    let n := (e.2.limit - e.2.base) / 65536
    ((List.range (min n (used.length + 1))).find? fun i => frameFree used (e.2.mbase + 65536 * i)).map fun i => e.2.base + 65536 * i
/-- The IPA under which a VF's range table reaches a machine frame. -/
def State.ipaOfFrame (s : State) (v ma : Nat) : Option Nat :=
  ((s.vf v).ranges.find? fun e => decide (e.1 < 48) && e.2.valid && decide (e.2.mbase ≤ ma)
    && decide (ma < e.2.mbase + (e.2.limit - e.2.base))).map fun e => e.2.base + (ma - e.2.mbase)
/-- The pages of a VF mapped by level-0 leaves: page, entry, range entry. -/
def State.pagesOf (s : State) (v : Nat) : List (Nat × Word × RangeEntry) :=
  s.leaves.filterMap fun l =>
    if l.2.2.1 = 0 then (s.rangeOf v (pteAddr l.2.1 * 65536)).map fun r => (l.1 / 65536, l.2.1, r) else none
/-- HBM frames that a VF holds (R334). -/
def State.heldFrames (s : State) (v : Nat) : Nat :=
  (s.leaves.map fun l =>
    if pteTier l.2.1 = 0 then
      (((s.leafPieces v l.2.1 l.2.2.1).filter fun x => inHbm x.2.2.mbase).map fun x => x.2.1).sum
    else 0).sum
/-- Far-tier frames that a VF uses (R334). -/
def State.farFrames (s : State) (v : Nat) : Nat := ((s.pagesOf v).filter fun p => pteTier p.2.1 == 1).length
/-- ALLOW and QUOTA (R334). -/
def Vf.allow (v : Vf) : Nat := bitsOf v.tier0 63 32
/-- QUOTA (R334). -/
def Vf.quota (v : Vf) : Nat := bitsOf v.tier0 31 0
/-- PIN (R334). -/
def Vf.pin (v : Vf) : Bool := bitOf v.tier1 16
/-- RR (R334). -/
def Vf.rr (v : Vf) : Nat := bitsOf v.tier1 8 0
/-- RES and WSN (R334). -/
def State.residency (s : State) (v : Nat) : Nat × Nat :=
  (((s.vf v).recorded.filter s.isResident).length, (s.vf v).recorded.length)
/-- The tier-control block of a VF (R334): ALLOW and QUOTA, PIN and RR, RES and WSN, OVF. -/
def State.tierControl (s : State) (v : Nat) : List Word :=
  [(s.vf v).tier0, (s.vf v).tier1, BitVec.ofNat 64 ((s.residency v).1 * 2 ^ 32 + (s.residency v).2), if (s.vf v).ovf then 1 else 0]
/-- 256 times F has reached a threshold (R316, R331). -/
def State.fractionReaches (s : State) (v thr : Nat) : Bool :=
  let (res, n) := s.residency v
  if n = 0 then decide (thr ≤ 256) else decide (thr * n ≤ 256 * res)
/-- Put a span in its place, by its first page. -/
def insertSpan (a : Nat × Nat) : List (Nat × Nat) → List (Nat × Nat)
  | [] => [a]
  | b :: l => if a.1 ≤ b.1 then a :: b :: l else b :: insertSpan a l
/-- The pages that a VF maps through leaves of any level and its range table: spans of pages, ascending. -/
def State.leafPages (s : State) (v : Nat) : List (Nat × Nat) :=
  s.leaves.flatMap fun l =>
    ((s.leafPieces v l.2.1 l.2.2.1).map fun x => (l.1 / 65536 + x.1, x.2.1)).foldr insertSpan []
/-- A hint region holds a page. -/
def HintRegion.holds (h : HintRegion) (page : Nat) : Bool := h.spans.any fun a => decide (a.1 ≤ page) && decide (page < a.1 + a.2)
/-- The pages of a hint region, ascending. -/
def HintRegion.pages (h : HintRegion) : List Nat := h.spans.flatMap fun a => (List.range a.2).map fun i => a.1 + i
/-- The standing hint of a page: hot, cold or none (R337); the latest region that holds it. -/
def Vf.hintOf (v : Vf) (page : Nat) : Option Bool := ((v.hints.filter fun h => h.holds page).getLast?).map (·.hot)
/-- Pages that are no longer mapped lose their hints (R337). -/
def State.pruneHints (s : State) : State :=
  { s with vfs := s.vfs.map fun e =>
      if e.2.hints.isEmpty then e
      else
        let l := s.leafPages e.1
        (e.1, { e.2 with hints := e.2.hints.map fun h => { h with spans := h.spans.flatMap fun a => l.filterMap (spanMeet a) } }) }

/-- Write a leaf with another ADDR and TIER, in one doubleword write (R296, R298). -/
def State.setLeaf (s : State) (at_ : Nat) (e : Word) (ipa tier : Nat) : State :=
  s.write64 at_ ((e &&& ~~~(0xC003FFFFFFFFFC00 : Word)) ||| BitVec.ofNat 64 (tier * 2 ^ 62 + ipa / 65536 * 1024))
/-- Remove a page from every ATB of the package (R298), those of saved contexts too. -/
def State.dropAtbs (s : State) (p : AtbEntry → Bool) : State :=
  let clean (l : SMap SectionCtx) : SMap SectionCtx := l.map fun e => (e.1,
    { e.2 with chans := e.2.chans.map fun c => (c.1, { c.2 with atb := c.2.atb.filter fun a => !(p a) }) })
  { s with
    cores := s.cores.map fun e => (e.1, { e.2 with atb := e.2.atb.filter fun a => !(p a) })
    sections := clean s.sections
    vfs := s.vfs.map fun e => (e.1,
      { e.2 with collAtb := e.2.collAtb.filter fun a => !(p a), saved := { e.2.saved with sections := clean e.2.saved.sections } }) }
/-- Every Registered word of a page goes home, and its L2 lines are written to memory (R214, R298). -/
def State.pageHome (s : State) (page : Nat) : State :=
  let t := (s.home.map (·.1)).foldl (fun t key =>
    if key % 2 ^ 56 / 16384 = page then t.recall 4096 (key / 2 ^ 56) (key % 2 ^ 56) else t) s
  { t with l2 := t.l2.filter fun l => l.line / 128 != page }
/-- A buffered store of a page that moves goes where the page goes (R298). -/
def StoreEntry.moved (src dst kidx : Nat) (e : StoreEntry) : StoreEntry :=
  if e.pol ≠ 4 ∧ e.ma / 65536 = src then { e with ma := dst * 65536 + e.ma % 65536, kidx := kidx } else e
/-- A page moves to another frame (R296, R298): its contents and poison, from under one key to another (R351), and with them the Owner-lost
words and the stores that wait for it. -/
def State.movePage (s : State) (src dst from_ kidx : Nat) : State :=
  let t := s.moveFrame src dst from_ (s.keyId kidx)
  { t with
    home := t.home.map fun e => (e.1, match e.2 with
      | .ownerLost c ma => if ma / 65536 = src then .ownerLost c (dst * 65536 + ma % 65536) else e.2
      | h => h)
    cores := t.cores.map fun e => (e.1, { e.2 with sbuf := e.2.sbuf.map (StoreEntry.moved src dst kidx) })
    slots := t.slots.map fun e => (e.1, { e.2 with held := e.2.held.map fun h => { h with entry := h.entry.moved src dst kidx } }) }
/-- The far-tier frame at a machine address can be reached: its window has a link that is up (R398). -/
def State.farUp (s : State) (ma : Nat) : Bool := !(inFabric ma) || s.windowUp (windowOf ma)
/-- A frame holds a poisoned unit (R219, R411). -/
def State.sickFrame (s : State) (fr : Nat) : Bool := s.poison.any fun p => p.1 / 8192 == fr
/-- The contents of a page of a VF are still on another package (R410). -/
def State.remotePage (s : State) (v page : Nat) : Bool := (s.vf v).remote.contains page
/-- No VF has its page on another package any more: one that shares the frame finds it there. -/
def State.dropRemote (s : State) (page : Nat) : State :=
  { s with vfs := s.vfs.map fun e => (e.1, { e.2 with remote := e.2.remote.filter (· != page) }) }
/-- A page of a VF arrives from another package (R410): its bytes, under the VF's key, in the frame that its leaf names. -/
def State.arrivePage (s : State) (v page : Nat) (l : List Byte) : Option State :=
  match s.locate v 0 (page * 65536) with
  | some (_, ma, r) => if l.length = 65536 then some (((s.zeroFrame (ma / 65536) (s.keyId r.kidx)).putBytes ma l).dropRemote page) else none
  | none => none
/-- Move a page of a VF down to the far tier (R298): none where it may not move, QUOTA is reached, or no link to the far frame is up
(R398). -/
def State.moveDown (s : State) (v page : Nat) : Option State :=
  match s.pageLeaf page with
  | some (e, at_) =>
    let ipa := pteAddr e * 65536
    match s.rangeOf v ipa with
    | some r =>
      match (s.freeIpa v true r.w3).bind fun far => (s.rangeOf v far).map fun rf => (far, rf) with
      | some (far, rf) =>
        if pteTier e = 0 ∧ inHbm r.mbase = true ∧ r.kidx ≠ 256 ∧ s.remotePage v page = false ∧ s.farFrames v < (s.vf v).quota ∧ s.farUp (rf.machine far) = true then
          let s1 := ((s.setLeaf at_ e ipa 2).dropAtbs fun a => a.page == page).pageHome page
          let s2 := s1.movePage (r.machine ipa / 65536) (rf.machine far / 65536) r.kidx rf.kidx
          some (s2.setLeaf at_ (s2.read64 at_) far 1)
        else none
      | none => none
    | none => none
  | none => none

/-- Resident pages of a VF that could supply a frame (R335). -/
def State.takeable (s : State) (v : Nat) : List Nat :=
  ((s.pagesOf v).filter fun p => pteTier p.2.1 == 0 && inHbm p.2.2.mbase && p.2.2.kidx != 256 && !(s.remotePage v p.1)).map (·.1)
/-- Keep the order of a list by a key, smallest first. -/
def sortBy (key : Nat → Nat) (l : List Nat) : List Nat := l.foldr (insertBy key) []
/-- VFs that are not running, the one whose last run ended earliest first (R335). -/
def State.idleVfs (s : State) : List Nat :=
  sortBy (fun v => (s.vf v).lastRunEnd) ((s.vfs.map (·.1)).filter fun v => !(s.running v))
/-- The VF's own pages as sources, in order (R335 source 1); those outside its lists in page-table order. DESIGN CHOICE, unsafe: log
entry 94. -/
def State.ownSources (s : State) (v : Nat) : List (Nat × Nat) :=
  let f := s.vf v
  let inList (p : Nat) : Bool := f.wsl.any fun e => e.2.contains p
  let l := s.takeable v
  ((l.filter fun p => !(inList p)) ++ sortBy (fun p => SMap.get 0 f.pullOrder p) (l.filter inList)).map fun p => (v, p)
/-- Pages of other VFs as sources, in order (R335 sources 3 to 5): none of a VF with PIN = 1 (R334). Where R335 ranks none, the VF whose run
ended earliest comes first, and of its pages the first in page-table order. DESIGN CHOICE, unsafe: log entry 94. -/
def State.otherSources (s : State) : List (Nat × Nat) :=
  let idle := s.idleVfs.filter fun v => !(s.vf v).pin
  (idle.flatMap fun v => ((s.takeable v).filter fun p => (s.vf v).hintOf p == some false).map fun p => (v, p))
    ++ (idle.flatMap fun v =>
        ((s.takeable v).filter fun p => !((s.vf v).recorded.contains p)).map fun p => (v, p))
    ++ (idle.flatMap fun v =>
        ((s.vf v).recorded.reverse.filter fun p => (s.takeable v).contains p).map fun p => (v, p))
/-- Take the frame of the first source that can be moved down and that the VF's range table reaches. -/
def State.takeFrom (s : State) (v : Nat) : List (Nat × Nat) → Option (State × Nat)
  | [] => none
  | (o, p) :: l =>
    match s.pageLeaf p with
    | some (e, _) =>
      match (s.rangeOf o (pteAddr e * 65536)).bind fun r => s.ipaOfFrame v (r.machine (pteAddr e * 65536)), s.moveDown o p with
      | some ipa, some t => some (t, ipa)
      | _, _ => State.takeFrom s v l
    | none => State.takeFrom s v l
/-- A frame for a pull of a VF (R296, R335): the IPA it will have. A VF that does not run has sources 2 to 5 alone (R336).
DEDUCED, unsafe: log entry 29. -/
def State.frameFor (s : State) (v : Nat) (rights : Word) : Option (State × Nat) :=
  if s.running v && decide ((s.vf v).allow ≤ s.heldFrames v) then s.takeFrom v (s.ownSources v)
  else match s.freeIpa v false rights with
    | some ipa => some (s, ipa)
    | none =>
      match s.takeFrom v s.otherSources with
      | some r => some r
      | none => if s.running v then s.takeFrom v (s.ownSources v) else none

/-- Every waiter of a pull is woken (R296): a Parked one keeps its wake until its VF is switched in. -/
def State.wakePull (s : State) (v page : Nat) : State :=
  (s.slots.map (·.1)).foldl (fun t k =>
    let m := t.slot k
    if m.vf ≠ v then t
    else
      let t := match m.vrun with
        | some e => match e.wait.map WaitInfo.kind with
          | some (.pull va) => if va / 65536 = page then t.updSlot k fun m => { m with vrun := some { e with wait := none } } else t
          | _ => t
        | none => t
      match m.wait.map WaitInfo.kind with
      | some (.pull va) => if va / 65536 = page then t.signal k else t
      | some (.vwait _ _) => t.signal k
      | _ => t) s
/-- A trap is due for a shuttle that has waited for a page, once it may be taken (R130, R297, R413). -/
def Slot.trapDue (m : Slot) (c : BitVec 10) (tval : Word) : Slot :=
  { m with life := .ready, wait := none, earlier := none, again := false, woken := false, heldTrap := some (c, tval) }
/-- What a shuttle that waits for a page meets when the page cannot be had (R296, R297): the cause that `c` gives for agent 0 at a scalar access,
and for agent 1 at a flag of its `vwait` or at the element that its squashed vector instruction stopped at. -/
def Slot.pageFault (m : Slot) (page : Nat) (c : Nat → BitVec 10) : Option (BitVec 10 × Word) :=
  match m.wait with
  | none => none
  | some w =>
    match w.kind, w.page, decodeWord m.word with
    | .pull va, pg, i =>
      if va / 65536 = page then
        some (c (match i with
          | .instr i => if memCounters i != (false, false) ∧ pg = none then 1 else 0
          | _ => 0), BitVec.ofNat 64 va)
      else none
    | .vwait _ todo, some p, .instr (.vwait _ va _ _) =>
      if p / 65536 = page then
        ((todo.map fun i => (({ ck := m.sh, regs := m.vregs, masks := m.masks } : VArgs).elt 64 va.val i)).find? fun a => a / 65536 == page).map
          fun a => (c 1, BitVec.ofNat 64 a)
      else none
    | _, _, _ => none
/-- The shuttle of slot k meets the failure of a pull that it waits for (R297): precisely at its instruction, behind older vector work. -/
def State.failSlot (s : State) (k page : Nat) (c : Nat → BitVec 10) : State :=
  let atPage (va : Nat) : Bool := va / 65536 == page
  let m := s.slot k
  let t := if m.life = .exiting then
      s.updSlot k fun m => { m with task := { m.task with successors := m.task.successors.filter fun a => !(atPage a.toNat) } }
    else s
  let t := match m.vrun with
    | some e => match e.wait.map WaitInfo.kind with
      | some (.pull va) => if atPage va then t.vFault k e (c 1) (BitVec.ofNat 64 va) e.ck.vresume.toNat else t
      | _ => t
    | none => t
  let n := t.slot k
  match n.pageFault page c with
  | some (cs, tv) =>
    if n.vectorBusy then t.updSlot k fun m => m.trapDue cs tv
    else (t.dropWatches (.slot k)).trapSlot k cs (scauseOf cs) tv n.sh.pc false 0
  | none => t
/-- The head operation of a channel that waits for a page that cannot be had has its cause (R297). -/
def SectionCtx.failPage (x : SectionCtx) (page : Nat) (c : Nat → BitVec 10) : SectionCtx :=
  { x with chans := x.chans.map fun ch => (ch.1, { ch.2 with cmds := ch.2.cmds.map fun o => match o.waits with
      | some va => if va / 65536 = page then { o with waits := none, failed := some (c 4, BitVec.ofNat 64 va) } else o
      | none => o }) }
/-! ### Collectives that end -/

/-- GROUP of a collective descriptor's header (R404). -/
def collGroup (d : List Word) : Nat := bitsOf (d.getD 0 0) 21 16
/-- A group of a VF (R402). -/
def Vf.group (v : Vf) (g : Nat) : CollGroup := SMap.get {} v.groups g
/-- An entry of the collective queue (R403). -/
def Vf.entry (v : Vf) (k : Nat) : CollEntry := SMap.get {} v.coll k
/-- The VFs of this package among the ranks of a group, with their ranks. -/
def CollGroup.locals (g : CollGroup) : List (Nat × Nat) :=
  (List.range g.ranks.length).filterMap fun r => match g.ranks[r]? with
    | some (a, v) => if a = Config.fabricAddress then some (r, v) else none
    | none => none
/-- The entry of a VF that holds operation n of group g. -/
def Vf.findOp (v : Vf) (g n : Nat) : Option (Nat × CollEntry) :=
  v.coll.find? fun e => decide (e.1 < 256) && e.2.held && collGroup e.2.desc == g && e.2.opnum == n
/-- Change an entry. -/
def State.updColl (s : State) (v k : Nat) (f : CollEntry → CollEntry) : State :=
  s.updVf v fun x => { x with coll := SMap.put {} x.coll k (f (x.entry k)) }
/-- Every local rank's entry of an operation takes a state (R406); a rank that has not posted it yet takes that state when it does. -/
def State.endRanks (s : State) (g : CollGroup) (gn n : Nat) (f : Nat → CollEntry → CollEntry) : State :=
  (g.locals.foldl (fun t r => match (t.vf r.2).findOp gn n with
    | some (k, e) => if e.pending then t.updColl r.2 k (f r.1) else t
    | none =>
      let x := f r.1 {}
      if SMap.get 0 (t.vf r.2).collPosts gn ≤ n && !((t.vf r.2).collEnds.any fun y => y.1 == gn && y.2.1 == n) then
        t.updVf r.2 fun w => { w with collEnds := w.collEnds ++ [(gn, n, x.state, x.peer)] }
      else t) s).joints
/-- A rank has stopped on a cause: it is deferred to its `coll.test`, and its peers take STATE 2 (R404, R406). -/
def State.rankStopped (s : State) (g : CollGroup) (gn n rank v k : Nat) (c : BitVec 10) (tv : Word) : State :=
  (s.updColl v k fun e => { e with cause := some (c, tv), waits := none }).endRanks g gn n fun _ e =>
    { e with state := 2, peer := rank }
/-- The collectives of a VF that wait for a page that cannot be had stop at its rank (R297, R404). -/
def State.failColls (s : State) (v page : Nat) (c : BitVec 10) : State :=
  ((s.vf v).coll.filterMap fun e => match e.2.waits with
    | some va => if va / 65536 = page ∧ e.2.pending = true then some (e.1, e.2, va) else none
    | none => none).foldl (fun t x =>
      let gn := collGroup x.2.1.desc
      let g := (t.vf v).group gn
      t.rankStopped g gn x.2.1.opnum g.own v x.1 c (BitVec.ofNat 64 x.2.2)) s

/-! ### The failure of a pull -/

/-- Host accesses through BAR 2 that wait for a page that cannot be had are completed with Unsupported Request (R297, R343): the cause in the
last-host-fault field, the error vector, and 0xB.0.3. -/
def State.failHost (s : State) (v page : Nat) (c : BitVec 10) : State :=
  let hit := (s.vf v).hostWaits.any fun a => a / 65536 == page
  if hit then
    (((s.updVf v fun f => { f with hostWaits := f.hostWaits.filter (fun a => a / 65536 != page), hostFault := c }).hostInterrupt v
      16).extEvent v (cause 0xB 0 3) 0)
  else s
/-- The posting of a record that waits for a page that cannot be had drops it, with ERR set and EN cleared (R87, R297). -/
def State.failRecord (s : State) (v page : Nat) : State :=
  match s.records with
  | r :: l =>
    if r.vf = v ∧ (r.waits.map (· / 65536)) = some page then { s with records := l }.recordError v else s
  | [] => s
/-- Every waiter of a pull meets the cause that `c` gives for its own agent (R296, R297), in saved contexts too: shuttles, `mcpy.out`, copy
channels, host queues, collectives, trap records and host accesses. -/
def State.failPull (s : State) (v page : Nat) (c : Nat → BitVec 10) (lost : Bool) : State :=
  let s1 := (s.slots.map (·.1)).foldl (fun t k => if (t.slot k).vf ≠ v then t else t.failSlot k page c) s
  let s2 := (s1.cores.map (·.1)).foldl (fun t core => match t.qkHead core with
    | some k =>
      if (k.op = 4 ∨ k.op = 5) ∧ k.taken = true ∧ (t.slot k.issuer).vf = v ∧ k.rowAddr / 65536 = page then
        t.faultMcpy core k (c 2) (BitVec.ofNat 64 k.rowAddr)
      else t
    | none => t) s1
  let fail (l : SMap SectionCtx) : SMap SectionCtx := l.map fun e => (e.1, e.2.failPage page c)
  let s3 : State := { s2 with sections := s2.sections.map fun e =>
    if (s2.part (s2.partOfVf v)).hasSection e.1 && s2.running v then (e.1, e.2.failPage page c) else e }
  ((((s3.failQueues v page lost).failColls v page (c 5)).failHost v page (c 3)).failRecord v page).updVf v fun f =>
    { f with
      saved := { f.saved with
        sections := fail f.saved.sections
        slots := f.saved.slots.map fun e => (e.1, match e.2.pageFault page c with
          | some (cs, tv) => e.2.trapDue cs tv
          | none => e.2) } }
/-- What a pull of a page comes to. -/
inductive PullOut where
  | done (s : State)
  | noFrame
  | blocked
  | poisoned
/-- Pull a page of a VF into HBM (R296): a frame is found, the contents are copied, the leaf is rewritten. A source whose link is
down is not read (R398), and a CXL device gives no poisoned data up (R411). -/
def State.pullPage (s : State) (v page : Nat) : PullOut :=
  match s.pageLeaf page with
  | none => .done s
  | some (e, at_) =>
    if pteTier e ≠ 1 || s.remotePage v page then .done s
    else
      let far := pteAddr e * 65536
      match s.rangeOf v far with
      | none => .done s
      | some rf =>
        if !(s.farUp (rf.machine far)) then .blocked
        else if inFabric (rf.machine far) && s.sickFrame (rf.machine far / 65536) then .poisoned
        else match s.frameFor v rf.w3 with
          | none => .noFrame
          | some (t, ipa) =>
            match t.rangeOf v ipa with
            | none => .noFrame
            | some r =>
              let u := t.movePage (rf.machine far / 65536) (r.machine ipa / 65536) rf.kidx r.kidx
              let w := (u.setLeaf at_ (u.read64 at_) ipa 0).dropAtbs fun a => a.page == page
              let x := if rf.kidx = 256 then { w with clean := w.clean ++ [(v, page, far)] } else w
              .done (x.bump.updVf v fun f => { f with pullOrder := SMap.put 0 f.pullOrder page (x.order + 1) })
/-- A pull leaves the list. -/
def State.dropPull (s : State) (v page : Nat) : State :=
  { s with pulls := s.pulls.filter fun p => !(p.vf == v && p.page == page) }
/-- A demand pull of a running VF is pending in a die's tier-engine slice: it goes ahead of every background pull there (R336). -/
def State.demandAhead (s : State) (die : Nat) : Bool := s.pulls.any fun p => p.demand && p.die == die && s.running p.vf
/-- A page leaves the recorded set of every VF that has recorded it, whether or not the VF runs, so that F reaches 1 (R331, R333, R336).
DEDUCED, unsafe: log entry 29. -/
def State.unrecord (s : State) (page : Nat) : State :=
  { s with vfs := s.vfs.map fun e => (e.1, { e.2 with recorded := e.2.recorded.filter (· != page) }) }
/-- A page is lost (R297, R333): TIER := 3, and it leaves the recorded sets. -/
def State.losePage (s : State) (page : Nat) : State :=
  match s.pageLeaf page with
  | some (e, at_) => (((s.setLeaf at_ e (pteAddr e * 65536) 3).dropAtbs fun a => a.page == page).unrecord page).dropRemote page
  | none => s.dropRemote page
/-- A pull has met poisoned data from a CXL device (R411): every waiter meets 0xC.6.6, and the page stays where it is, outside the recorded
sets. DEDUCED, unsafe: log entry 84. -/
def State.pullPoisoned (s : State) (v page : Nat) : State :=
  ((s.dropPull v page).failPull v page (fun _ => cause 0xC 6 6) false).unrecord page
/-- A pull has failed (R297): the page is lost and every waiter meets 0x4.x.0. -/
def State.pullFails (s : State) (v page : Nat) : State :=
  if s.subject.flag then s.pullPoisoned v page
  else ((s.dropPull v page).failPull v page (fun ag => cause 4 ag 0) true).losePage page
/-- A pull of a page that is still on another package (R410): its bytes, the subject's, arrive, and its waiters go on unless it lies in the far
tier here. DESIGN CHOICE, unsafe: log entry 100. -/
def State.pullRemote (s : State) (v page : Nat) : State :=
  match s.arrivePage v page s.subject.bytes with
  | some t => if t.isResident page then (t.dropPull v page).wakePull v page else t
  | none => s
/-- PAGE_PULL (R296): the subject's item numbers the pull that completes; with no frame to be had, its waiters meet 0x4.x.3. -/
def execPagePull (s : State) : Out :=
  match s.pulls[s.subject.item]? with
  | none => .next s
  | some p =>
    if !p.demand && s.demandAhead p.die then .next s
    else if s.remotePage p.vf p.page then .next (s.pullRemote p.vf p.page)
    else match s.pullPage p.vf p.page with
      | .done t => .next ((t.dropPull p.vf p.page).wakePull p.vf p.page)
      | .noFrame => .next ((s.dropPull p.vf p.page).failPull p.vf p.page (fun ag => cause 4 ag 3) false)
      | .poisoned => .next (s.pullPoisoned p.vf p.page)
      | .blocked => .next s
/-- The page that a die's slice pulls next in the background for a VF (R336): in set order, the next of its recorded set that lies in the far
tier, once the VF runs or its slice is near enough, and behind every demand pull of a running VF in that slice; then, of a VF that runs, the pages
that are still on another package (R410). -/
def State.background (s : State) (v die : Nat) : Option Nat :=
  if s.demandAhead die || !(s.running v || (s.part (s.partOfVf v)).soon s.cycle.toNat == some v) then none
  else
    match (s.vf v).recorded.find? fun p => match s.pageLeaf p with | some (e, _) => pteTier e == 1 | none => false with
    | some p => some p
    | none => if s.running v then (s.vf v).remote.head? else none
/-- PULL_FAILED (R297, R411): the source of the pull numbered by the subject's item could not be read, after its retries, or, with the flag set,
its data came poisoned. Where the item numbers no pull, it is the background pull of the subject's VF (R336). -/
def execPullFailed (s : State) : Out :=
  match s.pulls[s.subject.item]? with
  | none => .next (match s.background s.subject.vf s.subject.die with
    | some p => s.pullFails s.subject.vf p
    | none => s)
  | some p => .next (s.pullFails p.vf p.page)
/-- PAGE_MOVE_DOWN (R298): the tier engine moves the page of the subject's item, of the subject's VF, to the far tier. Pages of a
running VF move only under its own allowance, those of a VF with PIN = 1 that does not run never (R334, R335). -/
def execPageMoveDown (s : State) : Out :=
  let v := s.subject.vf
  let full := decide ((s.vf v).allow ≤ s.heldFrames v)
  if (s.running v || (s.vf v).pin) && !(s.running v && full) then .next s
  else .next ((s.moveDown v s.subject.item).getD s)
/-- BACKGROUND_PULL (R336): the subject's die's slice makes the background pull of the subject's VF that is next. -/
def execBackgroundPull (s : State) : Out :=
  let v := s.subject.vf
  match s.background v s.subject.die with
  | none => .next s
  | some p =>
    if s.remotePage v p then .next (s.pullRemote v p)
    else match s.pullPage v p with
    | .done t => .next ((t.dropPull v p).wakePull v p)
    | .poisoned => .next (s.pullPoisoned v p)
    | _ => .next s
/-- Where a clean copy restores its page (R392): the frame that its leaf names, or, where that is a far-tier frame, one found as for a
pull. -/
def State.restoreTo (s : State) (v : Nat) (e : Word) : Option (State × Nat × RangeEntry) :=
  (s.rangeOf v (pteAddr e * 65536)).bind fun r =>
    if inHbm r.mbase then some (s, pteAddr e * 65536, r)
    else (s.frameFor v r.w3).bind fun x => (x.1.rangeOf v x.2).map fun r => (x.1, x.2, r)
/-- PAGE_RESTORE (R392): the clean copy numbered by the subject's item restores its page, if the leaf's D is 0, the page is poisoned or lost,
and the copy can be read (R398). -/
def execPageRestore (s : State) : Out :=
  match s.clean[s.subject.item]? with
  | none => .next s
  | some (v, page, far) =>
    match s.pageLeaf page, s.rangeOf v far with
    | some (e, at_), some rf =>
      match s.restoreTo v e with
      | some (s1, ipa, r) =>
        let src := rf.machine far / 65536
        let sick := pteTier e == 3 || s.sickFrame (r.machine ipa / 65536)
        if !(bitOf e 4) && sick && s.farUp (rf.machine far) && !(s.sickFrame src) then
          let t := s1.movePage src (r.machine ipa / 65536) rf.kidx r.kidx
          .next (((t.setLeaf at_ e ipa 0).dropAtbs fun a => a.page == page).wakePull v page)
        else .next s
      | none => .next s
    | _, _ => .next s

/-- A hint reaches the tier engine (R337): the mapped pages of the region have it, the oldest of more than 4,096 regions goes; a hot hint
queues pulls, a cold one clears the pages' working-set bits of the run. -/
def State.noteHint (s : State) (v : Nat) (hot : Bool) (a n : Nat) : State :=
  let first := a / 65536
  let h : HintRegion :=
    { base := a, len := n, hot := hot
      spans := (s.leafPages v).filterMap (spanMeet (first, (a + n - 1) / 65536 - first + 1)) }
  let hs := (s.vf v).hints ++ [h]
  let hs := if 4096 < hs.length then hs.tail else hs
  let t := s.updVf v fun f =>
    { f with hints := hs
             wsl := if hot then f.wsl else f.wsl.map fun e => (e.1, e.2.filter fun p => !(h.holds p)) }
  if hot && t.running v && decide (t.heldFrames v < (t.vf v).allow) then
    ((t.pagesOf v).filter fun p => h.holds p.1 && pteTier p.2.1 == 1).foldl
      (fun t p => t.askPull v (p.1 * 65536) false (dieOf s.myCore)) t
  else t
/-- A tier hint (R337): the region test, the PLB checks, and the hint, which the tier engine is given behind older vector work (R130). -/
def State.tierHint (s : State) (i : Instr) (hot : Bool) (base len : Word) : Out :=
  s.gate i none fun s =>
    let a := base.toNat
    let n := len.toNat
    if 2 ^ 40 < n ∨ 2 ^ 56 < a + n ∨ bitsOf base 55 49 = 0x7F then s.raise (cause 4 0 2) base
    else
      (if s.sh.mode = .m ∨ n = 0 then .ok s ()
       else s.plbRegions (s.who 0) a
        ((List.range ((a + n - 1) / 2 ^ 26 - a / 2 ^ 26 + 1)).map fun i => a / 2 ^ 26 + i)).run fun s _ =>
        if n = 0 then .next s.complete else s.afterVector fun s => .next (s.noteHint s.me.vf hot a n).complete
/-- TIER_HINT_HOT (R337). -/
def execTierHintHot (rs1 rs2 : XReg) (s : State) : Out := s.tierHint (.tierHintHot rs1 rs2) true (s.x rs1) (s.x rs2)
/-- TIER_HINT_COLD (R337). -/
def execTierHintCold (rs1 rs2 : XReg) (s : State) : Out := s.tierHint (.tierHintCold rs1 rs2) false (s.x rs1) (s.x rs2)

end Sys2Proof.Machine
end

