-- ==== Sys2Proof/Machine/Collect.lean ====
section
/-! DEFINITION. The collective engine (R401 to R409): posts, tests, completion in rank order, ATOMs, aborts and link failures. -/

namespace Sys2Proof.Machine

/-- Fields of a collective descriptor's header (R404). -/
def collOp (d : List Word) : Nat := bitsOf (d.getD 0 0) 3 0
/-- DTYPE. -/
def collType (d : List Word) : Nat := bitsOf (d.getD 0 0) 11 8
/-- ROP. -/
def collRop (d : List Word) : Nat := bitsOf (d.getD 0 0) 15 12
/-- ROOT. -/
def collRoot (d : List Word) : Nat := bitsOf (d.getD 0 0) 41 32
/-- Bytes of an element (R404). -/
def collWidth (d : List Word) : Nat :=
  if collOp d = 5 then 8 else match etypeOf (collType d) with | some e => e.width / 8 | none => 1
/-- The descriptor breaks R404, or its group, addresses or ranks are not as the post needs. -/
def Vf.collBad (v : Vf) (d : List Word) (sys : Bool) : Bool :=
  let w (i : Nat) : Word := d.getD i 0
  let op := collOp d
  let dt := collType d
  let rop := collRop d
  let g := v.group (collGroup d)
  let n := (w 3).toNat
  let isInt := match etypeOf dt with | some e => e.isInt | none => false
  let opBad := match op with
    | 1 => decide (4 < rop) || (decide (3 ≤ rop) && !isInt)
    | 2 => decide (4 < rop) || (decide (3 ≤ rop) && !isInt)
    | 3 => rop != 0
    | 4 => rop != 0 || decide (g.ranks.length ≤ collRoot d)
    | 5 => !(rop == 0 || rop == 5 || rop == 6) || n != 1
    | _ => true
  opBad || decide (bitsOf (w 0) 7 4 ≠ 0) || decide (bitsOf (w 0) 31 22 ≠ 0) || decide (bitsOf (w 0) 63 42 ≠ 0)
    || (if op = 5 then dt != 0 else decide (dt < 2) || decide (10 < dt))
    || n == 0 || decide (2 ^ 28 < n) || (op != 5 && (w 5 != 0 || w 6 != 0)) || w 7 != 0
    || g.ranks.isEmpty || decide ((w 1).toNat % collWidth d ≠ 0) || decide ((w 2).toNat % collWidth d ≠ 0)
    || (!sys && g.ranks.any fun r => r.1 != Config.fabricAddress)
/-- A handle (R405). -/
def collHandle (k posts : Nat) : Word := BitVec.ofNat 64 (posts % 65536 * 256 + k)
/-- `coll.post` (R404). -/
def State.collPost (s : State) (i : Instr) (sys : Bool) (rd rs1 : XReg) : Out :=
  s.gate i none fun s =>
    let a := s.x rs1
    if a.toNat % 64 ≠ 0 then s.raise (cause 5 0 3) a
    else
      (s.loadBlockWords (s.who 0) a.toNat 8).run fun s d =>
        let v := s.vf s.me.vf
        if v.collBad d sys then s.raise (cause 8 5 3) a
        else
          s.afterVector fun s =>
            match (List.range 256).find? fun k => !((v.entry k).held) with
            | none => .next (s.block (.queue a))
            | some k =>
              let g := collGroup d
              let n := SMap.get 0 v.collPosts g
              let ended := ((v.collEnds.find? fun x => x.1 == g && x.2.1 == n).map fun x => x.2.2).getD (0, 0)
              let e : CollEntry :=
                { held := true, posts := (v.entry k).posts + 1, desc := d, sys := sys, mode := s.sh.mode, core := s.myCore
                  order := s.order, opnum := n, state := ended.1, peer := ended.2 }
              let t := s.bump.updVf s.me.vf fun f =>
                { f with coll := SMap.put {} f.coll k e, collPosts := SMap.put 0 f.collPosts g (n + 1)
                         collEnds := f.collEnds.filter fun x => !(x.1 == g && x.2.1 == n) }
              .next (t.completeX rd (collHandle k (v.entry k).posts))
/-- COLL_POST_PKG (R404). -/
def execCollPostPkg (rd rs1 : XReg) (s : State) : Out := s.collPost (.collPostPkg rd rs1) false rd rs1
/-- COLL_POST_SYS (R404). -/
def execCollPostSys (rd rs1 : XReg) (s : State) : Out := s.collPost (.collPostSys rd rs1) true rd rs1

/-- Free an entry of the collective queue: the number of its posts stays (R405). -/
def State.freeColl (s : State) (v k : Nat) : State :=
  (s.updVf v fun f => { f with coll := SMap.put {} f.coll k { posts := (f.entry k).posts } }).signalWhere fun _ w =>
    match w with | .queue _ => true | .fenceQ _ _ => true | _ => false
/-- The status of an operation (R406): PEER is 0 but with STATE 2 and 6. -/
def CollEntry.status (e : CollEntry) : Word :=
  BitVec.ofNat 64 (e.state % 16 + (if e.state = 2 ∨ e.state = 6 then e.peer % 65536 * 65536 else 0))
/-- COLL_TEST (R406). -/
def execCollTest (rd rs1 : XReg) (s : State) : Out :=
  s.gate (.collTest rd rs1) none fun s =>
    let h := s.x rs1
    let v := s.me.vf
    let k := bitsOf h 7 0
    let e := (s.vf v).entry k
    if bitsOf h 63 24 ≠ 0 ∨ e.held = false ∨ (e.posts - 1) % 65536 ≠ bitsOf h 23 8 then s.raise (cause 8 5 5) h
    else match e.cause with
      | some (c, tv) =>
        s.afterVector fun s =>
          .next ((s.freeColl v k).trapSlot s.focus (cause 8 5 4) (scauseOf (cause 8 5 4)) tv s.sh.pc false c)
      | none =>
        if e.state = 0 then .next (s.completeX rd e.status)
        else s.afterVector fun s => .next (((s.freeColl v k).acquire (if e.sys then .sys else .pkg)).completeX rd e.status)

/-! ### The engine -/

/-- Nothing of the VF's queue that must end first is pending (R233, R403). -/
def Vf.opFirst (v : Vf) (e : CollEntry) : Bool :=
  v.coll.all fun x => !(x.2.pending && collGroup x.2.desc == collGroup e.desc && decide (x.2.opnum < e.opnum))
    && !(x.2.joint.isSome && decide (x.2.order < e.order))
/-- The engine as an accessor for an entry (R404). -/
def CollEntry.who (e : CollEntry) (v : Nat) : Who := { vf := v, core := e.core, mode := e.mode, agent := 5, buf := .coll }
/-- Read n elements of w bytes from an address (R404). -/
def State.readElts (s : State) (w : Who) (a : Word) (width : Nat) : Nat → Nat → Res (List Nat)
  | 0, _ => .ok s []
  | n + 1, i =>
    (s.engineBytes w (addrAdd a (width * i)) width).bind fun s v =>
      (State.readElts s w a width n (i + 1)).bind fun s l => .ok s (v.toNat % 2 ^ (8 * width) :: l)
/-- Write elements of w bytes from an address on; the posting core's Valid copies go (R233). -/
def State.writeElts (s : State) (w : Who) (a : Word) (width : Nat) : List Nat → Nat → Res Unit
  | [], _ => .ok s ()
  | x :: l, i =>
    let d := addrAdd a (width * i)
    (s.engineWrite w d (BitVec.ofNat 64 x <<< (8 * (d % 8))) (byteMask (d % 8) width)).bind fun s _ =>
      State.writeElts (s.dropRange w.core d width) w a width l (i + 1)
/-- comb of R408. -/
def comb (e : EType) (rop a b : Nat) : Nat :=
  let pick (wantMax : Bool) : Nat :=
    if e.isFp then (e.fmt.minMax wantMax a b).1
    else if (if wantMax then decide (e.ext a < e.ext b) else decide (e.ext b < e.ext a)) then b else a
  match rop with
  | 0 => if e.isFp then (e.fmt.round .rne (Fp.add .rne (e.fmt.decode a) (e.fmt.decode b)).1).1 else (a + b) % 2 ^ e.width
  | 1 => pick true
  | 2 => pick false
  | 3 => a &&& b
  | _ => a ||| b
/-- Reduce element i of every rank's data, in rank order (R408). A rank that supplies too few elements supplies a free value of its own.
DESIGN CHOICE, safe: log entry 32. -/
def reduceAt (e : EType) (rop : Nat) (free : Nat) (data : List (List Nat)) (i : Nat) : Nat :=
  let x (l : List Nat × Nat) : Nat := l.1.getD i ((Config.freeWord (free + i * data.length + l.2)).toNat % 2 ^ e.width)
  match data.zipIdx with
  | [] => 0
  | l :: rest => rest.foldl (fun r m => comb e rop r (x m)) (x l)
/-- Elements that a rank supplies (R404). -/
def suppliedBy (d : List Word) (ranks rank : Nat) : Nat :=
  let n := (d.getD 3 0).toNat
  match collOp d with
  | 2 => n * ranks
  | 4 => if collRoot d = rank then n else 0
  | 5 => 0
  | _ => n
/-- What is written at a rank, from the data of every rank (R404, R408). -/
def resultAt (d : List Word) (free rank : Nat) (data : List (List Nat)) : List Nat :=
  let n := (d.getD 3 0).toNat
  let e := (etypeOf (collType d)).getD .i8
  let r := collRop d
  match collOp d with
  | 1 => (List.range n).map (reduceAt e r free data)
  | 2 => (List.range n).map fun i => reduceAt e r free data (rank * n + i)
  | 3 => data.zipIdx.flatMap fun l => (List.range n).map fun i =>
      l.1.getD i ((Config.freeWord (free + i * data.length + l.2)).toNat % 2 ^ e.width)
  | _ => data.getD (collRoot d) []
/-- What reading every rank's data comes to. -/
inductive Gather where
  | all (s : State) (data : List (List Nat))
  | missing
  | mismatch
  | fault (s : State) (rank v k : Nat) (c : BitVec 10) (tv : Word)
  | waits (s : State) (v k va : Nat)
/-- OP and TAG as every rank has posted them, operation n of group g being next at each rank of this package (R403); of other packages as
they arrived. None while a rank has not posted it: it holds its peers at STATE 0 (R406). -/
def State.posted (s : State) (g : CollGroup) (gn n : Nat) (peers : List PeerPost) : List Nat → Option (List (Nat × Word))
  | [] => some []
  | r :: l =>
    let mine : Option (Nat × Word) := match g.ranks[r]? with
      | none => none
      | some (a, v) =>
        if a = Config.fabricAddress then
          match (s.vf v).findOp gn n with
          | some (_, e) => if e.pending && (s.vf v).opFirst e then some (collOp e.desc, e.desc.getD 4 0) else none
          | none => none
        else (peers.find? fun p => p.rank == r).map fun p => (p.op, p.tag)
    mine.bind fun x => (State.posted s g gn n peers l).map fun m => x :: m
/-- Read the data of ranks r onward of operation n of group g, which every rank has posted (R404): of this package's VFs from their memory, of
others as they arrived. -/
def State.readRanks (s : State) (g : CollGroup) (gn n : Nat) (peers : List PeerPost) : List Nat → Gather
  | [] => .all s []
  | r :: l =>
    let here (t : State) (x : List Nat) : Gather :=
      match State.readRanks t g gn n peers l with
      | .all u m => .all u (x :: m)
      | o => o
    match g.ranks[r]? with
    | none => .missing
    | some (a, v) =>
      if a = Config.fabricAddress then
        match (s.vf v).findOp gn n with
        | none => .missing
        | some (k, e) =>
          match s.readElts (e.who v) (e.desc.getD 1 0) (collWidth e.desc) (suppliedBy e.desc g.ranks.length r) 0 with
          | .ok t x => here t x
          | .fault t c tv => .fault t r v k c tv
          | .wait t va => .waits t v k va
      else
        match peers.find? fun p => p.rank == r with
        | none => .missing
        | some p => here s (p.data.map BitVec.toNat)
/-- What every rank has posted for operation n of group g (R403, R404, R406): a mismatch among them is found once all have posted. -/
def State.gather (s : State) (g : CollGroup) (gn n : Nat) (d : List Word) (peers : List PeerPost) (l : List Nat) : Gather :=
  match s.posted g gn n peers l with
  | none => .missing
  | some m => if m.all fun x => x.1 == collOp d && x.2 == d.getD 4 0 then s.readRanks g gn n peers l else .mismatch
/-- The engine waits for a page (R296). -/
def State.collWaits (s : State) (v k va : Nat) : State :=
  (s.updColl v k fun e => { e with waits := some va }).askPull v va true (dieOf ((s.vf v).entry k).core)
/-- Write the results at every local rank of an operation, and end it there (R404, R408). A page pull puts it all off: the state is
then the one before, with the pull asked for. -/
def State.deliverRanks (s base : State) (g : CollGroup) (gn n : Nat) (res : CollEntry → Nat → List Nat) :
    List (Nat × Nat) → State
  | [] => s.joints
  | (r, v) :: l =>
    match (s.vf v).findOp gn n with
    | none => State.deliverRanks s base g gn n res l
    | some (k, e) =>
      if e.pending = false then State.deliverRanks s base g gn n res l
      else
        match s.writeElts (e.who v) (e.desc.getD 2 0) (collWidth e.desc) (res e r) 0 with
        | .ok t _ => State.deliverRanks (t.updColl v k fun e => { e with state := 1, waits := none }) base g gn n res l
        | .fault t c tv => t.rankStopped g gn n r v k c tv
        | .wait _ va => base.collWaits v k va
/-- COLLECTIVE_COMPLETE (R408): the operation of the subject's VF at the entry of its item, once every rank has posted it; the data of
ranks on other packages is the subject's, and `flag` says that it came poisoned (R411). -/
def execCollectiveComplete (s : State) : Out :=
  let v := s.subject.vf
  let e := (s.vf v).entry s.subject.item
  let gn := collGroup e.desc
  let g := (s.vf v).group gn
  if e.pending = false ∨ collOp e.desc = 5 ∨ (s.vf v).opFirst e = false then .next s
  else if s.subject.flag then
    .next (s.rankStopped g gn e.opnum g.own v s.subject.item (cause 0xC 5 7) 0)
  else
    match s.gather g gn e.opnum e.desc s.subject.peers (List.range g.ranks.length) with
    | .missing => .next s
    | .mismatch => .next (s.endRanks g gn e.opnum fun _ x => { x with state := 5 })
    | .fault t r w k c tv => .next (t.rankStopped g gn e.opnum r w k c tv)
    | .waits t w k va => .next (t.collWaits w k va)
    | .all t data =>
      let u := { t with fresh := t.fresh + (e.desc.getD 3 0).toNat * g.ranks.length * g.ranks.length }
      .next (u.deliverRanks s g gn e.opnum (fun x r => resultAt x.desc t.fresh r data) g.locals)
/-- The new value of an ATOM, if it writes one (R409). -/
def atomValue (d : List Word) (old : Word) : Option Word :=
  match collRop d with
  | 0 => some (old + d.getD 5 0)
  | 5 => some (d.getD 5 0)
  | _ => if old = d.getD 6 0 then some (d.getD 5 0) else none
/-- ATOM (R409): once every rank has posted it, rank 0's engine performs the operation of rank 0's descriptor on its word, and the old
value goes to every poster. Where rank 0 is another package, the old value is the subject's, and `flag` says that it came poisoned (R411). No
access falls between its read and its write, where R409 lets a plain one fall. DEDUCED, unsafe: log entry 26. -/
def execAtom (s : State) : Out :=
  let v := s.subject.vf
  let e := (s.vf v).entry s.subject.item
  let gn := collGroup e.desc
  let g := (s.vf v).group gn
  if e.pending = false ∨ collOp e.desc ≠ 5 ∨ (s.vf v).opFirst e = false then .next s
  else if s.subject.flag then .next (s.rankStopped g gn e.opnum g.own v s.subject.item (cause 0xC 5 7) 0)
  else
    match s.gather g gn e.opnum e.desc s.subject.peers (List.range g.ranks.length) with
    | .missing => .next s
    | .mismatch => .next (s.endRanks g gn e.opnum fun _ x => { x with state := 5 })
    | .fault t r w k c tv => .next (t.rankStopped g gn e.opnum r w k c tv)
    | .waits t w k va => .next (t.collWaits w k va)
    | .all t _ =>
      let give (u : State) (old : Word) : State := u.deliverRanks s g gn e.opnum (fun _ _ => [old.toNat]) g.locals
      match g.ranks.head? with
      | some (a, v0) =>
        if a = Config.fabricAddress then
          match (t.vf v0).findOp gn e.opnum with
          | some (k0, e0) =>
            match t.engineAtomic (e0.who v0) (e0.desc.getD 1 0).toNat (atomValue e0.desc) with
            | .ok u old => .next (give u old)
            | .fault u c tv => .next (u.rankStopped g gn e.opnum 0 v0 k0 c tv)
            | .wait u va => .next (u.collWaits v0 k0 va)
          | none => .next s
        else .next (give t s.subject.value)
      | none => .next s
/-- COLLECTIVE_ABORT (R393, R404): an abort message from the rank of the subject's size ends the operation of the subject's VF and item with
STATE 2; with the flag set, the operation of the group of the subject's address and the number of its item, which the VF has not posted yet:
it ends so when it is posted. -/
def execCollectiveAbort (s : State) : Out :=
  let v := s.subject.vf
  if s.subject.flag then
    .next (if SMap.get 0 (s.vf v).collPosts s.subject.addr ≤ s.subject.item
        && !((s.vf v).collEnds.any fun y => y.1 == s.subject.addr && y.2.1 == s.subject.item) then
      s.updVf v fun f => { f with collEnds := f.collEnds ++ [(s.subject.addr, s.subject.item, 2, s.subject.size)] }
    else s)
  else
  let e := (s.vf v).entry s.subject.item
  if e.pending then
    .next (s.updColl v s.subject.item fun e => { e with state := 2, peer := s.subject.size, waits := none }).joints
  else .next s
/-- PEER_RESPONSE_TIMEOUT (R411): the peer package of the subject's fabric address has not answered for 10 ms: every outstanding
collective whose group includes it takes STATE 6. -/
def execPeerResponseTimeout (s : State) : Out :=
  let hit (g : CollGroup) : Option Nat := (List.range g.ranks.length).find? fun r =>
    match g.ranks[r]? with | some (a, _) => a == s.subject.addr && a != Config.fabricAddress | none => false
  .next ({ s with vfs := s.vfs.map fun v => (v.1, { v.2 with coll := v.2.coll.map fun e => (e.1,
    if e.2.pending then
      match hit (v.2.group (collGroup e.2.desc)) with
      | some r => { e.2 with state := 6, peer := r, waits := none }
      | none => e.2
    else e.2) }) } : State).joints

end Sys2Proof.Machine
end

