-- ==== Sys2Proof/Machine/DieSched.lean ====
section
/-! DEFINITION. The die schedulers (R302 to R320): records and their checks, placement, dependence counters, the residency gate,
waits, signals and fences. A step acts for the subject's VF, queue and die. -/

namespace Sys2Proof.Machine

/-- The cores of a section mask, ascending. -/
def maskCores (m : BitVec 32) : List Nat :=
  (List.range 16).flatMap fun cl => (List.range 192).filterMap fun k =>
    if m.getLsbD (sectionOf (cl * 256 + k)) then some (cl * 256 + k) else none
/-- The sections and excluded cores of a partition at a generation (R309). DESIGN CHOICE, unsafe: log entry 34. -/
def State.layoutAt (s : State) (p gen : Nat) : BitVec 32 × (Nat → Bool) :=
  let x := s.part p
  match x.hist.find? fun e => e.1 == gen with
  | some e => (e.2.1, fun c => e.2.2.contains c)
  | none => (x.sections, fun c => (s.core c).fenced || s.inColumn c)
/-- eligible(c, GEN) of R309. -/
def State.eligibleAt (s : State) (p gen : Nat) (c : CoreClass) : List Nat :=
  let (m, out) := s.layoutAt p gen
  (maskCores m).filter fun k => classOf k == c && !(out k)
/-- place of R309. -/
def State.place (s : State) (p gen : Nat) (c : CoreClass) (i seed : Nat) : Option Nat :=
  let e := s.eligibleAt p gen c
  let x := (BitVec.ofNat 32 (i * 0x9E3779B9)) ^^^ BitVec.ofNat 32 seed
  if e.isEmpty then none else e[x.toNat % e.length]?

/-- GEN of a SKEIN or START record. -/
def recGen (r : List Word) : Nat := bitsOf (r.getD 0 0) 47 32
/-- The gate word is malformed (R307). -/
def gateBad (g : Word) : Bool := decide (256 < bitsOf g 8 0) || decide (bitsOf g 15 9 ≠ 0) || decide (bitsOf g 63 18 ≠ 0)
/-- A start's own words are malformed for a class (R70, R312). -/
def State.startWordsBad (s : State) (c : CoreClass) (entry control completion : Word) : Bool :=
  decide (entry.toNat % 4 ≠ 0) || decide (completion.toNat % 8 ≠ 0) || s.controlBad control false
    || decide (scratchLimit c < bitsOf control 14 4)
/-- The core that a START record places its shuttle on, none if the record fails (R307, R309). A core of the firmware column is none that it
may name. DESIGN CHOICE, unsafe: log entry 95. -/
def State.startTarget (s : State) (p : Nat) (r : List Word) (idx : Nat) : Option Nat :=
  let t := bitsOf (r.getD 0 0) 29 16
  let sel := t % 4096
  if t / 4096 = 0 then
    (if coreExists sel && (s.layoutAt p (recGen r)).1.getLsbD (sectionOf sel) && !(s.inColumn sel) then some sel else none)
  else if t / 4096 = 1 then
    (classOfCode sel).bind fun c => s.place p (recGen r) c idx (bitsOf (r.getD 7 0) 31 0)
  else none
/-- The record fails the check of R306, its task table apart. -/
def State.recordBad (s : State) (v idx : Nat) (r : List Word) : Bool :=
  let w (i : Nat) : Word := r.getD i 0
  let p := s.partOfVf v
  let gen := (s.part p).gen.toNat
  let zero (from_ : Nat) : Bool := (r.drop from_).all (· == 0)
  match recKind r with
  | 1 =>
    decide (bitsOf (w 0) 31 8 ≠ 0) || decide (bitsOf (w 0) 63 48 ≠ 0) || decide (gen < recGen r)
      || decide ((w 1).toNat % 64 ≠ 0) || w 2 == 0 || decide (65536 < (w 2).toNat) || decide (bitsOf (w 3) 63 32 ≠ 0)
      || decide ((w 4).toNat % 8 ≠ 0) || gateBad (w 5) || !(zero 6)
  | 2 =>
    decide (bitsOf (w 0) 15 8 ≠ 0) || decide (bitsOf (w 0) 31 30 ≠ 0) || decide (bitsOf (w 0) 63 48 ≠ 0)
      || decide (gen < recGen r) || gateBad (w 5) || decide (bitsOf (w 7) 63 32 ≠ 0)
      || (match s.startTarget p r idx with
          | some c => s.startWordsBad (classOf c) (w 1) (w 4) (w 6)
          | none => true)
  | 3 => decide (bitsOf (w 0) 63 9 ≠ 0) || decide ((w 1).toNat % 8 ≠ 0) || !(zero 4)
  | 4 => decide (bitsOf (w 0) 63 10 ≠ 0) || decide ((w 1).toNat % 8 ≠ 0) || !(zero 3)
  | 5 => decide (bitsOf (w 0) 63 8 ≠ 0) || !(zero 1)
  | _ => true

/-- A die is reading or checking a record of the queue, or acting on it (R305): it waits there for a page of a SKEIN's or a START's, not at a
WAIT, a FENCE or a SIGNAL. -/
def State.inHand (s : State) (v q d : Nat) : Bool :=
  let h := (s.vf v).queue q
  let page : Nat := SMap.get 0 h.waits d
  page != 0 && h.onDie d == .running && ((page - 1) / 65536 == (h.base + 64 * ((h.at_ d).toNat % 2 ^ h.z)) / 65536
    || !(s.kindAt v q d == some 4 || s.kindAt v q d == some 5))
/-- Nothing of the queue's own keeps the die from its next record (R304, R305, R306, R318, R320): the VF runs, a record is exposed, the queue
is not Lapped, but for a record that the die has in hand, not Stopped at or before this record, and the die does not wait at a WAIT. -/
def State.dieMay (s : State) (v q d : Nat) : Bool :=
  let h := (s.vf v).queue q
  let k := h.at_ d
  s.running v && (s.partDies (s.partOfVf v)).contains d && k != h.widx && (h.state != .lapped || s.inHand v q d)
    && (h.state != .stopped || (match h.stopAt with
        | some n => decide ((BitVec.ofNat 32 n - k).toNat < 2 ^ 31) && BitVec.ofNat 32 n != k
        | none => false))
    && h.onDie d == .running
/-- The die may consume from the queue (R304, R311): it waits for no page, and no start of the queue is held. -/
def State.dieReady (s : State) (v q d : Nat) : Bool :=
  let page : Nat := SMap.get 0 ((s.vf v).queue q).waits d
  s.dieMay v q d && (page == 0 || s.isResident ((page - 1) / 65536)) && !(s.heldStarts.any fun e => e.source == some (v, q, d))
/-- A die has not finished with the record that it is consuming (R305). -/
def State.dieBusy (s : State) (v q d : Nat) : Bool := s.dieMay v q d && s.inHand v q d
/-- The die's next record is a FENCE, or a SIGNAL that the die performs, which can be read and passes its check, and whose time has not come
(R306, R319). -/
def State.dieHeld (s : State) (v q d : Nat) : Bool :=
  let h := (s.vf v).queue q
  let k := h.at_ d
  (match s.kindAt v q d with
    | some 4 => s.leadDie (s.partOfVf v) == d
    | some 5 => true
    | _ => false) && !(s.allThrough v q k)
    && (match s.dieRead (s.dieWho v d) (h.base + 64 * (k.toNat % 2 ^ h.z)) 8 with
        | .ok t r => !(t.recordBad v k.toNat r)
        | _ => false)
/-- The queue, as 16 * VF + queue, from which a die takes its next record (R304): round robin over its ready queues. -/
def State.dieTurn (s : State) (d : Nat) : Option Nat :=
  let vs := (s.parts.filterMap fun p => p.2.running).filter fun v => (s.partDies (s.partOfVf v)).contains d
  minBy (fun x => (x + 4096 - (s.die d).next) % 4096)
    ((vs.flatMap fun v => (s.vf v).queues.map fun q => 16 * v + q.1).filter fun x =>
      s.dieReady (x / 16) (x % 16) d && !(s.dieHeld (x / 16) (x % 16) d))
/-- A die has consumed its record. -/
def State.consume (s : State) (v q d : Nat) : State :=
  s.updVf v fun f => f.updQueue q fun h =>
    { h with consumed := SMap.put 0 h.consumed d (h.at_ d + 1), waits := SMap.put 0 h.waits d 0 }
/-- A die waits for a page (R296). -/
def State.dieWaits (s : State) (v q d va : Nat) : State :=
  (s.updVf v fun f => f.updQueue q fun h => { h with waits := SMap.put 0 h.waits d (va + 1) }).askPull v va true d
/-- Read and check the next record of a queue on a die whose turn it is, and act on it if it is of the kind given (R304, R306). -/
def State.withRecord (s : State) (kind : Nat) (f : State → Nat → Nat → Nat → List Word → State) : Out :=
  let v := s.subject.vf
  let q := s.subject.queue % 16
  let d := s.subject.die
  let h := (s.vf v).queue q
  let took (t : State) : Out := .next (t.updDie d fun x => { x with next := (16 * v + q + 1) % 4096 })
  if s.dieTurn d = some (16 * v + q) then
    let k := (h.at_ d).toNat
    match s.dieRead (s.dieWho v d) (h.base + 64 * (k % 2 ^ h.z)) 8 with
    | .fault t _ _ => took (t.stopQueue v q d 1 k)
    | .wait t va => took (t.dieWaits v q d va)
    | .ok t r =>
      if t.recordBad v k r then took (t.stopQueue v q d 1 k)
      else if recKind r ≠ kind then .next s
      else took (f t v q d r)
  else .next s

/-- Offer a start of a die (R310, R311), at once or on its way. -/
def State.dieOffer (s : State) (st : Start) : State :=
  if s.eager then s.dieOfferNow st false else { s with offers := s.offers ++ [{ st with core := s.dieTarget st }] }
/-- A due task waits at the residency gate (R316). -/
def State.atGate (s : State) (a : Await) : Bool := a.due && a.rt != 0 && !(s.fractionReaches a.vf a.rt)
/-- Start the due tasks of a VF, in order, that no gate holds (R315, R316): once the test has passed for a record it is not made
again. -/
def State.startDue (s : State) (v : Nat) : State :=
  (s.awaits.filter fun a => a.vf == v && a.due).foldl (fun t a =>
    let blocked := t.awaits.any fun b => b.vf == v && b.queue == a.queue && b.die == a.die &&
      decide ((BitVec.ofNat 32 a.index - BitVec.ofNat 32 b.index).toNat < 2 ^ 31) && t.atGate b
    if blocked then t
    else
      let t := { t with awaits := (t.awaits.filter fun (b : Await) => b.id != a.id).map fun (b : Await) =>
        if b.vf == v && b.queue == a.queue && b.die == a.die && b.index == a.index then { b with rt := 0 } else b }
      t.dieOffer a.start) s
/-- A task of a record is taken by its die: its start is open until its shuttle exits (R310, R314, R319). -/
def State.own (s : State) (v q d k : Nat) (g counter : Word) (st : Start) : State :=
  let id := ((s.vf v).queue q).resets * 2 ^ 32 + k
  let a : Await :=
    { id := s.order, die := d, vf := v, counter := counter, queue := q, index := k, rt := bitsOf g 8 0, due := counter == 0
      start := { st with prio := bitsOf g 17 16, task := { st.task with record := some (q, id * 8 + d) } } }
  ({ s.bump with awaits := s.awaits ++ [a] }).updVf v fun f => f.updQueue q fun h => { h with open_ := h.open_ ++ [(id, d)] }
/-- The die that owns a task (R310). -/
def State.ownerDie (s : State) (p c : Nat) : Nat :=
  if (s.partDies p).contains (dieOf c) then dieOf c else s.leadDie p

/-- START (R307): the die places the shuttle, and starts or offers it if it is its own. -/
def execStart (s : State) : Out :=
  s.withRecord 2 fun s v q d r =>
    let k := (((s.vf v).queue q).at_ d).toNat
    let w (i : Nat) : Word := r.getD i 0
    let p := s.partOfVf v
    let t := match s.startTarget p r k with
      | some c =>
        if s.ownerDie p c = d then
          s.own v q d k (w 5) 0 { vf := v, core := c, entry := w 1, arg0 := w 2, arg1 := w 3, control := w 4, task := { completion := w 6 } }
        else s
      | none => s
    (t.consume v q d).startDue v

/-- The task entries of a SKEIN (R308), n of them from an address. -/
def State.readTable (s : State) (w : Who) (a : Nat) : Nat → Res (List (List Word))
  | 0 => .ok s []
  | n + 1 =>
    (s.dieRead w a 8).bind fun s e => (State.readTable s w (a + 64) n).bind fun s l => .ok s (e :: l)
/-- A task entry is invalid (R308, R309, R314). -/
def State.taskBad (s : State) (v d : Nat) (r e : List Word) : Bool :=
  let w (i : Nat) : Word := e.getD i 0
  let cnt := w 5
  match classOfCode (bitsOf (w 4) 1 0) with
  | none => true
  | some c =>
    decide (bitsOf (w 4) 15 2 ≠ 0) || decide (bitsOf (w 4) 63 32 ≠ 0) || decide (cnt.toNat % 8 ≠ 0) || w 7 != 0
      || s.startWordsBad c (w 0) (w 3) 0 || (s.eligibleAt (s.partOfVf v) (recGen r) c).isEmpty
      || (cnt != 0 && (match s.locate v d cnt.toNat with | some (e, _, _) => decide (2 ≤ ptePol e) | none => false))
/-- The tasks of a SKEIN that a die owns: counter and start, with their successor lists read (R308, R310). DEDUCED, unsafe: log entry 35. -/
def State.ownTasks (s : State) (v d : Nat) (r : List Word) : List (List Word) → Nat → Res (List (Word × Start))
  | [], _ => .ok s []
  | e :: l, i =>
    let w (j : Nat) : Word := e.getD j 0
    let p := s.partOfVf v
    match (classOfCode (bitsOf (w 4) 1 0)).bind fun c => s.place p (recGen r) c i (bitsOf (r.getD 3 0) 31 0) with
    | none => State.ownTasks s v d r l (i + 1)
    | some c =>
      if s.ownerDie p c = d then
        (s.dieRead (s.dieWho v d) (w 6).toNat (bitsOf (w 4) 31 16)).bind fun s succ =>
          (State.ownTasks s v d r l (i + 1)).bind fun s rest =>
            .ok s ((w 5, { vf := v, core := c, entry := w 0, arg0 := w 1, arg1 := w 2, control := w 3
                           task := { completion := r.getD 4 0, successors := succ } }) :: rest)
      else State.ownTasks s v d r l (i + 1)
/-- SKEIN (R308): the die reads and checks the whole task table, places every task, and takes those it owns. -/
def execSkein (s : State) : Out :=
  s.withRecord 1 fun s v q d r =>
    let k := (((s.vf v).queue q).at_ d).toNat
    let w := s.dieWho v d
    match s.readTable w (r.getD 1 0).toNat (r.getD 2 0).toNat with
    | .fault t _ _ => t.stopQueue v q d 1 k
    | .wait t va => t.dieWaits v q d va
    | .ok t table =>
      if table.any (t.taskBad v d r) then t.stopQueue v q d 1 k
      else match t.ownTasks v d r table 0 with
        | .fault t _ _ => t.stopQueue v q d 1 k
        | .wait t va => t.dieWaits v q d va
        | .ok t own =>
          let u := own.foldl (fun t o => t.own v q d k (r.getD 5 0) o.1 o.2) t
          (u.consume v q d).startDue v

/-- Watch a word for a die or a queue, where its page is cached or uncached (R217, R314, R317). -/
def State.watchWord (s : State) (v d va : Nat) (who : Watcher) : State :=
  match s.locate v d va with
  | some (e, _, _) =>
    if 2 ≤ ptePol e then s
    else match s.homeOf v e va with
      | some sl => (s.setWatch sl v (va / 4) who).setWatch sl v (va / 4 + 1) who
      | none => s
  | none => s
/-- The cause of a stop when a counter or signal word cannot be read: 0xE.3.2 for a lost page, else 0xE.3.1 (R318, R320). -/
def lostOr (c : BitVec 10) : Nat := if c = cause 4 3 0 ∨ c = cause 4 3 1 then 2 else 1
/-- DEPENDENCE_AWAIT (R314): the task numbered by the subject's item re-reads its counter, with its watch set before the read. While the
counter's page is pulled, the task has no watch, and reads anew once the page is there. -/
def execDependenceAwait (s : State) : Out :=
  match s.awaits[s.subject.item]? with
  | none => .next s
  | some a =>
    if a.due || !(s.running a.vf) then .next s
    else
      let who : Watcher := .die a.die a.id
      let put (u : State) (f : Await → Await) : State :=
        { u with awaits := u.awaits.map fun (b : Await) => if b.id = a.id then f b else b }
      let t := (s.dropWatches who).watchWord a.vf a.die a.counter.toNat who
      match t.engineRead (t.dieWho a.vf a.die) a.counter.toNat 0xFF with
      | .fault u c _ =>
        .next (({ u with awaits := u.awaits.filter fun b => b.id != a.id }.dropWatches who).stopQueue a.vf a.queue a.die (lostOr c) a.index)
      | .wait u va => .next ((put (u.dropWatches who) fun b => { b with waits := some va }).askPull a.vf va true a.die)
      | .ok u v =>
        if v.toInt ≤ 0 then .next (((put u fun b => { b with due := true, waits := none }).dropWatches who).startDue a.vf)
        else .next (put u fun b => { b with waits := none })
/-- RESIDENCY_GATE_PASS (R316): the due tasks of the subject's VF whose record's threshold F has reached are started. -/
def execResidencyGatePass (s : State) : Out := .next (if s.running s.subject.vf then s.startDue s.subject.vf else s)

/-- WAIT (R317, R318): the signal word is read under the watch procedure; a page that is not resident parks the queue on the die. -/
def execWait (s : State) : Out :=
  s.withRecord 3 fun s v q d r =>
    let k := (((s.vf v).queue q).at_ d).toNat
    let w (i : Nat) : Word := r.getD i 0
    let a := (w 1).toNat
    let who : Watcher := .queue v q d
    let on (u : State) (x : QueueState) : State := u.updVf v fun f => f.updQueue q fun h => h.setDie d x
    let t := (s.dropWatches who).watchWord v d a who
    match t.engineRead (t.dieWho v d) a 0xFF with
    | .fault u c _ => (u.dropWatches who).stopQueue v q d (lostOr c) k
    | .wait u va => (on (u.dropWatches who) .parked).dieWaits v q d va
    | .ok u x =>
      let met := if bitOf (w 0) 8 then decide ((w 2).toNat ≤ (x &&& w 3).toNat) else (x &&& w 3) == w 2
      if met then (u.dropWatches who).consume v q d else on u .waiting
/-- SIGNAL (R319): the lead die, once every die's completed-through index has reached the record, writes or adds with a release at
system scope; every other die goes past it. -/
def execSignal (s : State) : Out :=
  s.withRecord 4 fun s v q d r =>
    let k := ((s.vf v).queue q).at_ d
    let w (i : Nat) : Word := r.getD i 0
    let a := (w 1).toNat
    if s.leadDie (s.partOfVf v) ≠ d then s.consume v q d
    else if s.allThrough v q k then
      let who := s.dieWho v d
      let done (t : State) : State :=
        (if bitOf (w 0) 9 then t.hostInterrupt v q else t).consume v q d
      match (if bitOf (w 0) 8 then (s.engineAtomic who a fun old => some (old + w 2)).bind fun s _ => .ok s ()
             else s.engineWrite who a (w 2) 0xFF) with
      | .ok t _ => done t
      | .fault t _ _ => t.stopQueue v q d 3 k.toNat
      | .wait t va => t.dieWaits v q d va
    else s
/-- FENCE_RECORD (R319): a FENCE is consumed once every die's completed-through index has reached it. -/
def execFenceRecord (s : State) : Out :=
  s.withRecord 5 fun s v q d _ => if s.allThrough v q (((s.vf v).queue q).at_ d) then s.consume v q d else s
/-- WAIT_QUEUE_REARM (R318): the pull of a parked queue's signal page has completed on the subject's die. -/
def execWaitQueueRearm (s : State) : Out :=
  let v := s.subject.vf
  let d := s.subject.die
  let h := (s.vf v).queue s.subject.queue
  let x : Nat := SMap.get 0 h.waits d
  if h.onDie d = .parked ∧ x ≠ 0 ∧ s.isResident ((x - 1) / 65536) = true then
    .next (s.updVf v fun f => f.updQueue s.subject.queue fun h => { h.setDie d .running with waits := SMap.put 0 h.waits d 0 })
  else .next s
/-- SIGNAL_WORD_POLL (R317): the subject's die, Waiting at a WAIT of the queue, reads its signal word again. -/
def execSignalWordPoll (s : State) : Out :=
  .next (s.updVf s.subject.vf fun f => f.updQueue s.subject.queue fun h => h.wakeDie s.subject.die)

end Sys2Proof.Machine
end

