-- ==== Sys2Proof/Machine/Life.lean ====
section
/-! DEFINITION. The steps in the life of a shuttle that no word of its own makes: undecodable words (R36, R45), interrupts (R84), trap
records (R87), refusals (R218), wakes (R127), the expiry of bounded waits (R260), and the steps of migration (R28, R29, R93 to R96,
R99). -/

namespace Sys2Proof.Machine

/-- The slot that a step names: the subject's core and slot. -/
def State.subjSlot (s : State) : Nat := s.subject.core * 16 + s.subject.slot % 16

/-- ILLEGAL_INSTRUCTION (R36, R39, R45 orders 2 to 4): the cause of a word that is no instruction, with the word as stval. -/
def execIllegalInstruction (w : BitVec 32) (s : State) : Out :=
  match decodeWord w with
  | .reject .illegal => s.raise (cause 0 0 0) (zx w)
  | .reject .reservedLater => s.raise (cause 0 0 1) (zx w)
  | .reject .registerField => s.raise (cause 0 0 5) (zx w)
  | .instr _ => .next s

/-- The shuttle of a slot may take an interrupt of the VF whose context the core holds (R84): Ready, outside a pair and not in the
middle of an instruction whose step has been made, in U mode, or in S mode with SIE. -/
def State.qualifies (s : State) (k : Nat) : Bool :=
  let m := s.slot k
  m.life == .ready && !m.parked && !m.half && m.vf == (s.core (k / 16)).ctx.vf && m.doneValue.isNone && m.heldTrap.isNone
    && m.refused.isEmpty
    && (m.sh.mode == .u || (m.sh.mode == .s && m.sh.sie))
/-- The slot of a core that takes a pending interrupt: the lowest that qualifies (R84). -/
def State.interruptSlot (s : State) (c : Nat) : Option Nat :=
  if s.pendingOn c = 0 then none else ((List.range (slotCount c)).map fun k => c * 16 + k).find? s.qualifies
/-- The source of a taken interrupt: a notice is cleared on this core, an external event is consumed, the others stay (R83, R85). -/
def State.consumeInterrupt (s : State) (c n : Nat) : State :=
  match n with
  | 16 => s.updCtx c fun x => { x with sip := x.sip &&& ~~~0x10000 }
  | 9 => s.updVf (s.core c).ctx.vf fun f => { f with ext := f.ext.tail }
  | _ => s
/-- The shuttle of a slot takes the first pending interrupt of its core (R84): its vector queue is squashed first (R131). -/
def State.takeInterrupt (s : State) (k : Nat) : State :=
  let c := k / 16
  match firstInterrupt (s.pendingOn c) with
  | none => s
  | some n =>
    let (cs, tv) := s.interruptCause (s.slot k).vf n (s.core c).ctx.notice
    let t := (s.squash k).consumeInterrupt c n
    t.trapSlot k cs (BitVec.ofNat 64 (2 ^ 63 + n)) tv (t.slot k).sh.pc true 0
/-- INTERRUPT_ENTRY (R84) on the subject's core. -/
def execInterruptEntry (s : State) : Out :=
  .next (match s.interruptSlot s.subject.core with
    | some k => s.takeInterrupt k
    | none => s)

/-- TRAP_RECORD_POST (R87): the record at the head of those waiting is posted. -/
def execTrapRecordPost (s : State) : Out := .next s.postHead

/-- A scalar trap that was held behind older vector work is taken (R130, R413). -/
def State.takeHeldTrap (s : State) (k : Nat) : State :=
  let m := s.slot k
  match m.heldTrap with
  | some (c, tv) => if m.vectorBusy then s else s.trapSlot k c (scauseOf c) tv m.sh.pc false 0
  | none => s
/-- SHUTTLE_WAKE (R127): a wake reaches the subject's slot. -/
def execShuttleWake (s : State) : Out :=
  let k := s.subjSlot
  let m := s.slot k
  .next (if m.life == .waiting && m.woken then s.updSlot k fun m => m.wake (s.coreCycle (k / 16)) else s)

/-- A wait that expires raises this cause with this stval (R260); nothing where the wait is not one of the table.
DEDUCED, unsafe: log entry 37. -/
def State.expiryCause (s : State) (k : Nat) (w : WaitKind) : Option (BitVec 10 × Word) :=
  match w with
  | .fullEmpty a _ => some (cause 7 0 0, a)
  | .barrier sec b => some (cause 7 0 0, barrierWord false ((s.sec sec).barrier b).ph)
  | .cwait => some (cause 7 0 0, s.cwctrOf k)
  | .ring _ _ => some (cause 7 0 0, 0)
  | .channel a => some (cause 7 4 0, a)
  | .fenceQ m true => some (cause 7 4 0, m)
  | .fenceQ m false => some (cause 7 3 0, m)
  | .queue tv => some (cause 7 3 0, tv)
  | .matrix => some (cause 7 3 0, 0)
  | .mcpy _ => some (cause 7 3 0, 0)
  | .packing => some (cause 1 7 4, s.cwctrOf k)
  | _ => none
/-- A command of QK is withdrawn or abandoned, and its issuer's TL falls at once (R197): the rows that it has stored are performed before what
is behind it in the queue starts (R233). -/
def State.withdrawMcpy (s : State) (k id : Nat) : State :=
  let c := k / 16
  if (s.core c).ctx.qk.any fun x => x.id == id && (x.op == 4 || x.op == 5) then
    (((s.releaseSlot k).updCtx c fun x => { x with qk := x.qk.filter fun y => !(y.id == id && (y.op == 4 || y.op == 5)) }).dropTl k).qkMoved c
  else s
/-- What a wait has placed is withdrawn (R248, R260). -/
def State.withdraw (s : State) (k : Nat) (w : WaitKind) : State :=
  match w with
  | .fullEmpty a _ => s.updCtx (windowCore a.toNat) fun x => { x with waiters := x.waiters.filter fun y => y.shid != k }
  | .mcpy id => s.withdrawMcpy k id
  | .vwait _ _ => s.dropWatches (.slot k)
  | .packing => s.dropReserved k
  | _ => s
/-- OWNER_LOST_REFUSAL (R30, R33, R218, R413) of the subject's slot, once its older vector instructions have completed and no trap of them is
held: at an issue boundary, at the instruction that it waits in, or in place of its packing or exit. What has been handed to firmware, to
a heddle or to the depth grant is answered first. DEDUCED, unsafe: log entry 65. -/
def execOwnerLostRefusal (s : State) : Out :=
  let k := s.subjSlot
  let m := s.slot k
  if m.refused.isEmpty || m.parked || m.vectorBusy || m.heldTrap.isSome then .next s
  else match m.life with
    | .ready => .next (if m.half || m.doneValue.isSome then s else s.trapRefused k)
    | .waiting => match m.wait.map WaitInfo.kind with
      | none | some .firmware | some .offer | some (.depth _) | some (.done _) => .next s
      | some w => .next ((s.withdraw k w).trapRefused k)
    | .packing => .next (s.tryPack k)
    | .exiting => .next (s.tryExit k)
    | _ => .next s

/-- The bounded wait of the oldest entry of a thread's vector queue has run out (R184, R186). -/
def Slot.queueExpiry (m : Slot) : Option (VEntry × Word) :=
  match m.vrun, m.vq with
  | none, e :: _ => match e.wait with
    | some w => (match w.kind with
      | .queue tv => if w.bound ≠ 0 ∧ w.bound ≤ w.counted then some (e, tv) else none
      | _ => none)
    | none => none
  | _, _ => none
/-- WAIT_LIMIT_EXPIRY (R24, R260) of the subject's slot: an event that has come, or whose wake is on its way, wins (R76), and so does a fault
held for a `cwait` or for packing (R414); WFI completes; every other wait traps precisely at the waiting instruction, behind its older vector
instructions. -/
def execWaitLimitExpiry (s : State) : Out :=
  let k := s.subjSlot
  let m := s.slot k
  match m.queueExpiry with
  | some (e, tv) => .next (if s.canStart k then s else s.vFault k e (cause 7 3 0) tv e.ck.vresume.toNat)
  | none =>
    match m.wait with
    | none => .next s
    | some w =>
      if m.parked || m.again || w.bound == 0 || decide (w.counted < w.bound) || (m.life != .waiting && m.life != .packing) then .next s
      else if m.woken then .next (s.updSlot k fun m => m.wake (s.coreCycle (k / 16)))
      else if m.life == .packing && (s.mayPack k || !(m.deferred.isEmpty)) then .next (s.tryPack k)
      else if w.kind = .cwait ∧ m.deferred ≠ [] then .next (s.updSlot k fun m => m.wake (s.coreCycle (k / 16)))
      else if w.kind = .wfi then .next (s.updSlot k fun m => { m.completeAt (m.sh.pc + 4) with life := .ready })
      else match s.expiryCause k w.kind with
        | none => .next s
        | some (c, tv) =>
          let t := s.withdraw k w.kind
          if m.vectorBusy then
            .next (t.updSlot k fun m => { m with life := .waiting, pack := none, wait := some { kind := .vector }, heldTrap := some (c, tv) })
          else .next (t.trapSlot k c (scauseOf c) tv m.sh.pc false 0)

/-- FRAME_PACK (R94) of the subject's slot. -/
def execFramePack (s : State) : Out := .next (s.tryPack s.subjSlot)
/-- FRAME_CRC_RETRY (R28, R99): the frame numbered by the subject's item fails its CRC and is sent again, up to 16 times. -/
def execFrameCrcRetry (s : State) : Out :=
  match s.frames[s.subject.item]? with
  | some f => .next (if f.retries < 16 then { s with frames := s.frames.set s.subject.item { f with retries := f.retries + 1 } } else s)
  | none => .next s
/-- FRAME_ARRIVAL (R29): the frame numbered by the subject's item arrives. -/
def execFrameArrival (s : State) : Out :=
  match s.frames[s.subject.item]? with
  | some f => .next (s.arriveFrame f)
  | none => .next s
/-- QUEUED_FRAME_DELIVERY (R93): the free slot of the subject's core goes to a frame or a start. -/
def execQueuedFrameDelivery (s : State) : Out :=
  .next (if s.isFenced s.subject.core then s else s.deliverFreed s.subject.core)
/-- FRAME_DELIVERY_FAILED (R99): the sixteenth resend has failed, or the link is lost (the subject's flag): the sender restores the
shuttle, which takes 0x1.7.3 on its core, or on the nearest candidate of its class where that core is fenced; the slot kept for the frame is free
again. DEDUCED, unsafe: log entry 39. -/
def execFrameDeliveryFailed (s : State) : Out :=
  match s.frames[s.subject.item]? with
  | none => .next s
  | some f =>
    if f.retries < 16 && !s.subject.flag then .next s
    else
      let src := f.src / 16
      let tv : Word := BitVec.ofNat 64 f.dst
      let t := { (match s.heldFor f with | some r => s.freeSlotOf r | none => s) with frames := s.frames.erase f }
      if !(s.isFenced src) && (s.slot f.src).life == .sent then
        .next ((t.updSlot f.src fun m => { m with life := .ready, sh := f.sh, task := f.task, refused := f.refused, pack := none }).trapSlot
          f.src (cause 1 7 3) 24 tv f.sh.pc false 0)
      else
        let g := { f with named := 0xFFF, dclass := classOf src, trapOnArrival := some (cause 1 7 3, tv), retries := 0 }
        let u := t.ackFrame f
        match u.destination g src with
        | some c => .next (u.placeFrame g c ((u.freeSlot c).getD 0))
        | none => .next (u.queueFrame g)

/-- The heddle's update of a mix sample at the end of a window (R96). -/
def Mix.window (m : Mix) : Mix :=
  { issued := 0, vector := 0, traps := 0
    low := if 8 ≤ m.traps.toNat then 0
      else if m.issued.toNat < 256 then m.low
      else if 4 * m.vector.toNat < m.issued.toNat then BitVec.ofNat 4 (min (m.low.toNat + 1) 4)
      else 0 }
/-- The update of a shuttle's sample. -/
def Shuttle.mixWindow (sh : Shuttle) : Shuttle := { sh with mix := sh.mix.window }
/-- The heddle orders a mix migration of the shuttle of a slot, if it must and a control slot is free that no Queued frame waits for (R93,
R96, R18). -/
def State.mixOrderFor (s : State) (k : Nat) : State :=
  let m := s.slot k
  let c := k / 16
  if bitOf m.sh.tsw 0x1 && classOf c == .vector && m.sh.mix.low == 4 && m.life == .ready && !m.parked && m.mixOrder.isNone then
    match s.nearestFree c (s.partOfVf m.vf) [.control] with
    | some d =>
      let r := d * 16 + (s.freeSlot d).getD 0
      (s.setSlot r { life := .reserved, vf := m.vf }).updSlot k fun m => { m with mixOrder := some r }
    | none => s
  else s
/-- The end of a mix window (R96), for every shuttle wherever it is; the shuttles for which a control slot is wanted are served in ascending
core and slot order. DESIGN CHOICE, unsafe: log entry 79. -/
def State.mixWindow (s : State) : State :=
  let frame (f : Frame) : Frame := { f with sh := f.sh.mixWindow }
  let slots (l : SMap Slot) : SMap Slot := l.map fun e => (e.1, { e.2 with sh := e.2.sh.mixWindow })
  let t : State :=
    { s with
      slots := slots s.slots
      frames := s.frames.map frame
      queued := s.queued.map frame
      vfs := s.vfs.map fun v => (v.1, { v.2 with saved := { v.2.saved with
        slots := slots v.2.saved.slots, queued := v.2.saved.queued.map frame } }) }
  (t.slots.map (·.1)).foldl State.mixOrderFor t
/-- MIX_WINDOW_END (R96): at a multiple of 4,096 of `cycle`. -/
def execMixWindowEnd (s : State) : Out := .next (if s.cycle.toNat % 4096 = 0 then s.mixWindow else s)
/-- An ordered mix migration takes effect at an issue boundary of a slot (R96, R131). -/
def State.mixMigrate (s : State) (k : Nat) : State :=
  match (s.slot k).mixOrder with
  | none => s
  | some r =>
    let t := (s.squash k).updSlot k fun m => { m with mixOrder := none }
    t.packSlot k { reason := 3, named := r / 16, pc := (t.slot k).sh.pc, slotShid := some r, jumped := (t.slot k).jumped }
/-- MIX_MIGRATION (R96, R413) of the subject's slot: at the first boundary at which no fault, refusal or interrupt is due. -/
def execMixMigration (s : State) : Out :=
  let k := s.subjSlot
  let m := s.slot k
  .next (if m.life == .ready && !m.parked && !m.half && m.refused.isEmpty && m.heldTrap.isNone && m.doneValue.isNone
      && s.interruptSlot (k / 16) != some k then s.mixMigrate k else s)

end Sys2Proof.Machine
end

