-- ==== Sys2Proof/Machine/Engines.lean ====
section
/-! DEFINITION. The steps that caches, homes and walkers make of their own accord (R206, R212 to R217, R225, R287, R294, R299, R358). -/

namespace Sys2Proof.Machine

/-- REGISTER (R225): the entry numbered by the subject's item in the subject's core's buffer is granted at its home, if nothing older must go
before it; with the flag set, its request carries the other words of its grain (R207). -/
def execRegister (s : State) : Out := .next (s.registerAt s.subject.core s.subject.item s.subject.flag)
/-- REGISTRATION_GRANT (R212): the home of the subject's address grants the request of the subject's core for that word, and the core applies
the stores that it has buffered to what it then owns. -/
def execRegistrationGrant (s : State) : Out :=
  let a := s.subject.addr
  let c := s.subject.core
  .next (match (s.core c).sbuf.findIdx? fun e => e.touches (a / 8) (halfOf (a / 4)) with
    | some i =>
      let t := s.registerAt c i s.subject.flag
      t.applyLater c (t.core c).sbuf.length
    | none => s)

/-- EVICT (R211, R214, R225): the line of the subject's address leaves the subject's core, or, with a size given, the word of the address alone,
or, with the flag set, the line leaves the L2 slices that need not keep it. -/
def execEvict (s : State) : Out :=
  let line := s.subject.addr / 512
  if s.subject.flag then
    .next { s with l2 := s.l2.filter fun l => !(l.vf == s.subject.vf && l.line == line && !(s.lineHeld l)) }
  else
    let c := s.subject.core
    let v := (s.core c).ctx.vf
    .next (if s.subject.size = 0 then s.evictLine c v line else s.evictWords c v line fun wd => wd == s.subject.addr / 4)

/-- What an access that leaves no trace finds (R299), for a shuttle of the subject's slot and a PLB entry: the leaf and where it lies, the
machine address and the range entry, where the entry grants the access, the leaf's A bit is 1, its page is resident, and no check would raise
a cause. -/
def State.quietBy (s : State) (c va : Nat) (acc : Access) (plb : Option PlbEntry) : Option (Word × Nat × Nat × Nat × RangeEntry) :=
  let v := (s.core c).ctx.vf
  let m := s.slot (c * 16 + s.subject.slot % 16)
  let mode := if m.life = .free then Mode.u else m.sh.mode
  let granted := match plb with | some e => (plbTest e mode 0 acc).isNone | none => false
  if !granted || mode == .m || !(s.running v) || isWindow va || isReservedVa va then none
  else
    match s.walkVa (dieOf c) va with
    | .leaf e lv at_ =>
      (s.rangeOf v (leafIpa e lv va)).bind fun r =>
        let tier := if lv = 0 then pteTier e else 0
        let free := match s.homeOf v e va with
          | some sl => decide (2 ≤ ptePol e) || (s.routeCause v c sl (va / 8) 0 (if acc = .fetch then halfOf (va / 4) else 0xFF)).isNone
          | none => false
        if bitOf e 3 && free && rightsOk r.rights acc && (tier == 0 || (tier == 1 && decide (2 ≤ ptePol e)))
            && (r.kidx != 256 || ptePol e == 2) then
          some (e, lv, at_, r.mbase + (leafIpa e lv va - r.base), r)
        else none
    | _ => none
/-- What such an access finds through a PLB entry that its core holds (R287, R299). -/
def State.quiet (s : State) (c va : Nat) (acc : Access) : Option (Word × Nat × Nat × Nat × RangeEntry) :=
  s.quietBy c va acc ((s.core c).plb.find? fun e => e.vf == (s.core c).ctx.vf && e.region == va / 2 ^ 26)
/-- What a load that leaves no trace reads of words of the 8-byte block of an address at one instant (R224, R226, R228): what the core holds of
them, or else what the home does; nothing on a page that keeps the order of accesses. -/
def State.quietRead (s : State) (c va : Nat) (wds : List Nat) : Option (State × Word) :=
  let blk := va / 8
  let v := (s.core c).ctx.vf
  match ({ s with subject := { s.subject with core := c } } : State).quiet c va .load with
  | none => none
  | some (e, _, _, ma0, r) =>
    let ma := ma0 / 8 * 8
    let held := wds.map fun wd => s.ownCopy c v wd false
    let apart := decide (2 ≤ wds.length) &&
      ((s.core c).l1apart.contains blk || (wds.any (s.owns c v) && !(s.ownsAll c v wds)))
    if inPageOrder (ptePol e) ma then none
    else if held.all Option.isNone then
      (if s.poisoned ma || wds.any (s.isLost v) || (s.linkCause ma 0 (ptePol e)).isSome then none else some (s.readKey ma r.kidx))
    else if apart then none
    else (held.zip wds).foldl (fun o x => match o, x.1 with
      | some (t, y), some (.ok z) => some (t, y ||| (zx z <<< (32 * (x.2 % 2))))
      | _, _ => none) (some (s, 0))
/-- A store of the thread of slot k, or one that its loads must see, is on its way to words of a block (R77, R226). -/
def State.storeAhead (s : State) (k blk : Nat) (m : BitVec 8) : Bool :=
  (s.core (k / 16)).sbuf.any (fun e => e.touches blk m && (e.shid == k || classOf (k / 16) == .vector))
    || (s.slot k).held.any fun h => h.entry.touches blk m
/-- The shuttle of slot k takes the value that its next load of the word at an address, or of the aligned doubleword there, will have, ahead of
its turn (R228): only where the access leaves no trace, no store of its own to those words is on its way, the page is one whose accesses need
not keep their order, and no older vector instruction is incomplete (R78). DESIGN CHOICE, unsafe: log entry 83. -/
def State.takeEarly (s : State) (k addr : Nat) (double : Bool) : State :=
  let c := k / 16
  let m := s.slot k
  let blk := addr / 8
  let wds := if double then [2 * blk, 2 * blk + 1] else [addr / 4]
  let mask : BitVec 8 := if double then 0xFF else halfOf (addr / 4)
  if (m.life != .ready && m.life != .waiting) || m.parked || m.vectorBusy || s.storeAhead k blk mask || m.vf != (s.core c).ctx.vf then s
  else
    match ({ s with subject := { core := c, slot := k % 16 } } : State).quietRead c (8 * blk) wds with
    | some (t, x) =>
      { t with subject := s.subject }.updSlot k fun m =>
        { m with early := SMap.put none m.early (if double then 4 * blk + 1 else 2 * (addr / 4))
                   (some (if double || addr / 4 % 2 == 0 then x else x >>> 32)) }
    | none => s
/-- Of the vector load of slot k that has started behind one which waits at an element, element i takes its value now (R145, R228): O = 0 and an
element of whole bytes, nothing older of the thread stores or is on its way to the block, and the access leaves no trace.
DESIGN CHOICE, unsafe: log entry 83. -/
def State.takeEarlyElt (s : State) (k i : Nat) : State :=
  let c := k / 16
  let m := s.slot k
  match m.vrun, m.vq.find? fun e => e.started && (SMap.get none e.early i).isNone with
  | some r, some e =>
    match memParts r.instr, memParts e.instr with
    | some q, some p =>
      let a := m.vargs e.ck
      let b := m.entryArgs r
      let ew := a.ew p.p
      let n := (a.addrOf p.p p.rs1 p.form i).1.toNat
      let wds := if ew = 64 then [2 * (n / 8), 2 * (n / 8) + 1] else [n / 4]
      let plain (x : MemParts) : Bool := !x.store && (match x.form with | .index _ => false | _ => true)
      let older := m.vq.takeWhile fun x => x.seq != e.seq
      let free := plain p && !p.o && !q.store && decide (8 ≤ ew) && decide (8 ≤ b.ew q.p) && decide (n % (ew / 8) = 0)
        && (a.left e).contains i && older.isEmpty
        && (b.left r).all (fun j => (b.addrOf q.p q.rs1 q.form j).1.toNat / 8 != n / 8)
        && !(s.storeAhead k (n / 8) 0xFF) && !m.parked && m.vf == (s.core c).ctx.vf
      if free then
        match ({ s with subject := { core := c, slot := k % 16 } } : State).quietRead c (8 * (n / 8)) wds with
        | some (t, x) =>
          let v := (x >>> (8 * (n % 8))).toNat % 2 ^ ew
          { t with subject := s.subject }.updSlot k fun m =>
            { m with vq := m.vq.map fun (y : VEntry) => if y.seq = e.seq then { y with early := SMap.put none y.early i (some v) } else y }
        | none => s
      else s
    | _, _ => s
  | _, _ => s
/-- A store of another package to fabric-attached memory arrives at its device (R223, R399): bytes of the 8-byte unit at a machine address in a
fabric window, written under the shared key (R351). -/
def State.peerStore (s : State) (a : Nat) (v : Word) (m : BitVec 8) : State :=
  let ma := a / 8 * 8
  if inFabric ma && s.windowUp (windowOf ma) then ((s.useKey ma 256).writeMask ma v m).setPoison ma (s.poisoned ma && m != 0xFF) else s
/-- FILL (R225): the subject's core obtains Valid copies of the 8-byte unit at the subject's address, or, with a size of 4, of the word there
alone, by a hardware prefetch that changes nothing else (R299); with the flag set, an instruction-side copy of the word there (R65). -/
def execFill (s : State) : Out :=
  let c := s.subject.core
  let va := s.subject.addr / 4 * 4
  let v := (s.core c).ctx.vf
  match s.quiet c va (if s.subject.flag then .fetch else .load) with
  | none => .next s
  | some (e, _, _, ma, r) =>
    if ptePol e ≠ 0 ∨ s.foreign ma r.kidx = true then .next s
    else if s.subject.flag then
      .next (if s.isLost v (va / 4) || s.poisoned ma then s
        else s.updCore c fun k => { k with icache := SMap.put none k.icache (va / 4) (some (s.read32 ma))
                                           iseen := k.iseen.filter fun x => x != va / 4 })
    else .next (s.installWords c v (va / 8) (ma / 8 * 8) (if s.subject.size = 4 then [va / 4 % 2] else [0, 1]))
/-- HOME_READ (R215, R207): the home answers a read of the subject's core for the grain of the subject's address; Registered words are
forwarded and stay with their owners. -/
def execHomeRead (s : State) : Out :=
  let c := s.subject.core
  let va := s.subject.addr / 8 * 8
  match s.quiet c va .load with
  | none => .next s
  | some (e, _, _, ma, r) =>
    .next (if ptePol e = 0 then s.fillGrain c (s.core c).ctx.vf (va / 8) (ma / 8 * 8) r.kidx e else s)
/-- WATCH_WAKE (R217): a wake to the watcher of the watch numbered by the subject's item arrives, the one that its home sent first. -/
def execWatchWake (s : State) : Out :=
  match s.watches[s.subject.item]? with
  | some w =>
    let same := s.watches.filter fun x => x.fired && x.slice == w.slice && x.who == w.who
    .next (match same.find? fun x => same.all fun y => decide (x.sent ≤ y.sent) with
      | some x => { s with watches := s.watches.erase x }.deliver [x]
      | none => s)
  | none => .next s
/-- PLB_FILL (R287, R288, R299): an access on a wrong path of the subject's core, a control core, fills the entry of the subject's address
from its VF's table, where the access itself would leave no trace. -/
def execPlbFill (s : State) : Out :=
  let c := s.subject.core
  let w : Who := { vf := (s.core c).ctx.vf, core := c, mode := .u, agent := 0 }
  let region := s.subject.addr / 2 ^ 26
  if classOf c = .control ∧ (s.quietBy c s.subject.addr s.subject.access (s.plbWalk w.vf region)).isSome = true then
    .next (match s.plbLookup w region with
      | some (t, _) => t
      | none => s)
  else .next s
/-- ATB_FILL (R294, R299): a walker fills the entry of the subject's address ahead of an access of the subject's kind; a fault is raised
by the access itself, which makes the fill with the same checks. -/
def execAtbFill (s : State) : Out :=
  let c := s.subject.core
  let w : Who := { vf := (s.core c).ctx.vf, core := c, mode := .u, agent := 0 }
  let va := s.subject.addr
  match s.quiet c va s.subject.access with
  | none => .next s
  | some (e, lv, at_, _, r) =>
    .next (s.atbInstall w { vf := w.vf, page := va / 65536, leaf := e, leafAt := at_, level := lv, xwr := r.rights, kidx := r.kidx })

/-- CYCLE_COUNTER_OVERFLOW (R358, R359): the counter numbered by the subject's item, which counts cycles or slot-cycles and stands at its
largest value, counts one more and wraps. -/
def execCycleCounterOverflow (s : State) : Out :=
  let c := s.subject.core
  let i := s.subject.item % 8
  let ctx := (s.core c).ctx
  let code := (SMap.get 0 ctx.pmsel i : BitVec 32).toNat % 4096
  if (code = 0x001 ∨ code = 0x00A) ∧ (SMap.get 0 ctx.pmc i : BitVec 48) = 0xFFFFFFFFFFFF ∧ s.running ctx.vf = true then
    .next ((s.updCtx c fun x => pmcAdd x i 1).wakeWfi c)
  else .next s

end Sys2Proof.Machine
end

