-- ==== Sys2Proof/Machine/Switch.lean ====
section
/-! DEFINITION. Partitions in time (R321 to R333): the slice schedule, notices, bobbins, and the world switch, which halts the running
VF, sends its Registered words home, saves its context, applies staged changes, advances the generation and restores the next VF. -/

namespace Sys2Proof.Machine

/-- The cores of a partition that are not of the firmware column: those that hold contexts of its VFs. -/
def State.tenantCore (s : State) (p c : Nat) : Bool := s.inPart p c && !(s.inColumn c)
/-- The slot holds a shuttle of the partition's VFs: on one of those cores, or, in U or S mode, on a core of the firmware column, whose home it
has moved to (R71). -/
def State.tenantSlot (s : State) (p k : Nat) : Bool :=
  s.tenantCore p (k / 16) || (s.inPart p (k / 16) && (s.slot k).life != .free && (s.slot k).life != .reserved && (s.slot k).sh.mode != .m)
/-- A VF is quiescent (R323): no started shuttle, no held start, no queued frame, no unconsumed record. -/
def State.quiescent (s : State) (v : Nat) : Bool :=
  let used (l : SMap Slot) : Bool := l.any fun e => e.2.vf == v && e.2.life != .free && e.2.life != .reserved
  !(used s.slots) && !(used (s.vf v).saved.slots) && !(s.starts.any fun e => e.vf == v) && !(s.heldStarts.any fun e => e.vf == v)
    && (s.vf v).saved.starts.isEmpty && (s.vf v).saved.queued.isEmpty && !(s.queued.any fun f => f.vf == v) && !(s.frames.any fun f => f.vf == v)
    && !(s.offers.any fun e => e.vf == v) && !(s.awaits.any fun a => a.vf == v)
    && (s.vf v).queues.all fun q => q.2.widx == s.readIndex v q.1
/-- A staged change of a partition may be applied now: fences wait for their notice (R390), and the removal of a section until every bound
VF is quiescent (R323). -/
def State.stagedDue (s : State) (p : Nat) : Staged → Bool
  | .fenceCore _ | .fenceSection _ | .clearStacks _ => decide ((s.part p).notBefore ≤ s.cycle.toNat)
  | .removeSection _ => (s.part p).vfs.all s.quiescent
  | _ => true
/-- A staged change for which firmware begins a switch without waiting for the slice to end (R390); every other waits for the next switch
(R349). -/
def Staged.prompt : Staged → Bool
  | .fenceCore _ | .fenceSection _ | .clearStacks _ => true
  | _ => false

/-- RAISE A NOTICE of class 0xD (R83, R325, R390): PNI becomes pending on every core of the partition.
DESIGN CHOICE, unsafe: log entry 38. -/
def State.raiseNotice (s : State) (p det : Nat) : State :=
  ((s.partCores p).filter fun c => !(s.inColumn c)).foldl (fun t c =>
    (t.updCtx c fun x => { x with sip := x.sip ||| 0x10000, notice := det }).wakeWfi c) s
/-- PRE_EMPTION_NOTICE (R325) on the subject's partition: LEAD microseconds before the slice ends, once in a slice. -/
def execPreEmptionNotice (s : State) : Out :=
  let p := s.subject.part
  let x := s.part p
  match x.running, x.entry with
  | some _, some e =>
    let due := x.sliceStart + micros (schedLen e - schedLead e)
    if schedLead e ≠ 0 ∧ x.noticed = false ∧ 1 < x.vfs.length ∧ due ≤ s.cycle.toNat then
      .next ((s.raiseNotice p 0).updPart p fun x => { x with noticed := true })
    else .next s
  | _, _ => .next s
/-- BOBBIN_REFILL (R327, R328): within PRE of the next slice, the tier engine loads the context of the VF that runs next into the bobbin
of its index on every core of the subject's partition; the VF whose context lay there has it in its context area. -/
def execBobbinRefill (s : State) : Out :=
  let p := s.subject.part
  let x := s.part p
  match x.soon s.cycle.toNat with
  | some v =>
    let b := (s.vf v).index
    .next ((s.partCores p).foldl (fun t c => t.updCore c fun k =>
      if b = 0 then { k with bobbin0 := some v } else { k with bobbin1 := some v }) s)
  | none => .next s

/-- A slot's shuttle cannot halt yet (R72, R329): it stands inside a pair, or its exit is past its release. -/
def Slot.unhaltable (m : Slot) : Bool :=
  ((m.half || (m.doneValue.isSome && isOpener m.word)) && m.life == .ready && !m.parked) || (m.life == .exiting && m.doneValue.isSome)
/-- The exits on a partition's cores that nothing holds are made (R72, R330): one whose release has begun completes before its core halts, a
page pull of a word that it decrements included. -/
def State.finishExits (s : State) (p : Nat) : State :=
  ((s.slots.filter fun e => s.tenantSlot p e.1 && e.2.life == .exiting).map (·.1)).foldl State.tryExit s
/-- The offers of a VF that have left reach their heddles (R70), whose statuses come back to their issuers. -/
def State.settleOffers (s : State) (v : Nat) : State :=
  (s.offers.filter fun o => o.vf == v).foldl (fun t o => t.deliverOffer o false) s
/-- An instruction whose step has been made completes before its core halts (R70, R247): its result is in x[rd], and the pc at the next. -/
def Slot.settled (m : Slot) : Slot :=
  match m.doneValue with
  | none => m
  | some v =>
    let sh := match decodeWord m.word with
      | .instr i => (match i with
        | .shstart rd _ _ | .ldfe rd _ | .ldff rd _ | .vdepth rd _ => m.sh.setX rd v
        | _ => m.sh)
      | .reject _ => m.sh
    ({ m with sh := sh }).completeAt (m.sh.pc + 4)
/-- A shuttle stops at its issue boundary for a world switch (R30, R32, R72, R201, R329, R330): its queue is squashed, an instruction whose step
has been made completes, a packing that nothing holds completes, an exit that waits for its counters stands at its `shexit`, and what any other
wait has placed is withdrawn, to be placed again, before anything else is done, with the rest of its bound (R24, R260).
DEDUCED, safe: log entry 42. -/
def State.parkSlot (s : State) (k : Nat) : State :=
  let t := s.squash k
  let m := t.slot k
  match m.life with
  | .packing =>
    let u := t.tryPack k
    if (u.slot k).life = .packing then (u.dropReserved k).updSlot k fun m => { m with life := .ready, pack := none } else u
  | .exiting => if m.doneValue.isSome then t else t.updSlot k fun m => { m with life := .waiting, again := true, wait := none }
  | .ready => t.updSlot k Slot.settled
  | .waiting =>
    match m.wait with
    | none => t.updSlot k fun m => { m with again := true, woken := false }
    | some w =>
      match w.kind with
      | .pull _ | .firmware => t
      | .vwait x _ =>
        (t.dropWatches (.slot k)).updSlot k fun m =>
          let all := List.range (m.sh.vlr.toNat * m.sh.vlc.toNat)
          { m with again := true, woken := false, wait := some { w with kind := .vwait x all } }
      | kind => (t.withdraw k kind).updSlot k fun m => { m with again := true, woken := false }
  | _ => t
/-- A slot as it is saved: it will resume outside a pair with its last control transfer behind it (R43), no mix migration ordered (R32), and
no load taken ahead. -/
def Slot.halted (m : Slot) : Slot := { m with jumped := false, half := false, mixOrder := none, early := [] }
/-- Frames of a VF that have been sent complete their delivery (R32). -/
def State.settleFrames (s : State) (v : Nat) : Nat → State
  | 0 => s
  | n + 1 =>
    match s.frames.find? (fun f => f.vf == v) with
    | none => s
    | some f => State.settleFrames (s.arriveFrame f) v n
/-- Pushes of a VF on their way arrive. -/
def State.settlePushes (s : State) (v : Nat) : State :=
  (s.pushes.filter fun p => p.vf == v).foldl (fun t p => { t with pushes := t.pushes.erase p }.deliverPush p) s
/-- STEPS 1 TO 4 of a world switch (R329) for a running VF: issue stops, queues are squashed, buffers drain, Registered words go home,
L1 lines and watches are gone. -/
def State.haltVf (s : State) (v p : Nat) : State :=
  let s0 := s.settleOffers v
  let ks := (s0.slots.map (·.1)).filter fun k => s0.tenantSlot p k
  let t := ks.foldl State.parkSlot s0
  let t := (t.settleFrames v (4 * t.frames.length + 4)).settlePushes v
  let t : State := { t with slots := t.slots.filter fun e => !(s.tenantCore p (e.1 / 16) && e.2.life == Life.reserved) }
  let cs := (t.cores.map (·.1)).filter (t.tenantCore p)
  let t := (ks.filter fun k => t.inColumn (k / 16)).foldl State.releaseSlot (cs.foldl State.registerAll t)
  { t with
    home := t.home.filter fun e => !(e.1 / 2 ^ 56 == v && (match e.2 with | .registered .. => true | _ => false))
    watches := t.watches.filter fun w => w.vf != v
    cores := t.cores.map fun e =>
      if s.tenantCore p e.1 then
        (e.1, { e.2 with l1 := [], l1bad := [], l1apart := [], icache := [], iseen := [], sbuf := [], chunk := none, ptr := 0, vptr := 0
                         turn := none, vstart := none, stale := none })
      else if s.inPart p e.1 then (e.1, { e.2 with l1 := [], l1bad := [], l1apart := [], icache := [], iseen := [] })
      else e }

/-- The pages with a standing hot hint, in hint order (R333): the latest region that holds a page gives it its place. -/
def State.hotPages (s : State) (v : Nat) : List Nat :=
  let hs := (s.vf v).hints
  (hs.zipIdx.filter fun h => h.1.hot).flatMap fun h =>
    h.1.pages.filter fun p => !((hs.drop (h.2 + 1)).any fun g => g.holds p)
/-- WORKING-SET FORMATION at a switch-out (R333): hot hints in order, then the slices' lists, without duplicates, cold hints, lost pages
and pages no longer mapped, cut to ALLOW. -/
def State.formWorkingSet (s : State) (v : Nat) : State :=
  let f := s.vf v
  let lists := (List.range 8).flatMap fun d => SMap.get [] f.wsl d
  let keep (p : Nat) : Bool :=
    f.hintOf p != some false && (match s.walkVa 0 (p * 65536) with
      | .leaf e lv _ => (s.rangeOf v (leafIpa e lv (p * 65536))).isSome && (lv != 0 || pteTier e != 3)
      | _ => false)
  s.updVf v fun f => { f with recorded := ((s.hotPages v ++ lists).eraseDups.filter keep).take f.allow, wsl := [] }

/-- STEP 5, the way out (R326, R329): the running VF's context leaves the cores of its partition. -/
def State.saveVf (s : State) (v p : Nat) : State :=
  let cs := (s.cores.map (·.1)).filter (s.tenantCore p)
  let rows (f : Core → SMap (BitVec 512)) := cs.flatMap fun c => (f (s.core c)).map fun e => (c * 32768 + e.1, e.2)
  let sv : SavedCtx :=
    { slots := (s.slots.filter fun e => s.tenantSlot p e.1).map fun e => (e.1, e.2.halted)
      cores := cs.map fun c => (c, (s.core c).ctx)
      sections := s.sections.filter fun e => (s.part p).hasSection e.1
      starts := s.starts.filter fun e => e.vf == v
      queued := (s.queued.filter fun f => f.vf == v).map fun f => { f with jumped := false }
      bsram := rows Core.bsram
      bscale := cs.flatMap fun c => (s.core c).bscale.map fun e => (c * 32768 + e.1, e.2)
      bpoison := cs.flatMap fun c => (s.core c).bpoison.map fun e => (c * 32768 + e.1, e.2) }
  let b := (s.vf v).index
  let t : State :=
    { s with
      slots := s.slots.filter fun e => !(s.tenantSlot p e.1)
      sections := s.sections.filter fun e => !((s.part p).hasSection e.1)
      starts := s.starts.filter fun e => e.vf != v
      queued := s.queued.filter fun f => f.vf != v
      cores := s.cores.map fun e =>
        if s.tenantCore p e.1 then
          (e.1, { e.2 with
            ctx := {}, bsram := [], bscale := [], bpoison := []
            bobbin0 := if b = 0 then some v else e.2.bobbin0
            bobbin1 := if b = 0 then e.2.bobbin1 else some v })
        else e }
  (t.updVf v fun f => { f with saved := sv, lastRunEnd := s.cycle.toNat }).updPart p fun x => { x with running := none }

/-- An operation of a saved shuttle has ended: its TL falls, and a deferred fault may come with it. Where firmware has moved the shuttle off a
fenced core, it is in a Queued frame (R99). -/
def SavedCtx.tlFell (v : SavedCtx) (k : Nat) (d : Option Deferred) : SavedCtx :=
  let m : Slot := SMap.get {} v.slots k
  if m.life ≠ .free then
    { v with slots := SMap.put {} v.slots k { m with tl := m.tl - 1, deferred := m.deferred ++ d.toList } }
  else
    { v with queued := v.queued.map fun f => if f.src = k ∧ f.tl ≠ 0 then { f with tl := f.tl - 1, deferred := f.deferred ++ d.toList } else f }
/-- A saved context loses the B-SRAM rows outside a grant, its configuration slots that reach outside, with an ARM of theirs that has not
completed (R188), and the QK commands that name them (R177). -/
def SavedCtx.shrink (v : SavedCtx) (lo hi : Nat) : SavedCtx :=
  let inside (k : Nat) : Bool := decide (lo ≤ k % 512) && decide (k % 512 < hi)
  let outside (g : CfgSlot) : Bool :=
    g.configured && (decide (g.brow < lo) || decide (hi < g.brow + g.kch * rpcOf g.pair))
  let gone (x : CoreCtx) (k : QkCmd) : Bool := (k.op == 0 || k.op == 2) && outside (x.slotCfg k.tag)
  let fault (word : Word) (id : Nat) : Deferred := { cause := cause 8 3 4, under := cause 9 2 3, tval := word, queue := 17, order := id }
  let lost : List (Nat × Deferred) := v.cores.flatMap fun e =>
    (e.2.cfg.filterMap fun g => if g.2.armed && outside g.2 then some (g.2.issuer, fault g.2.word g.2.id) else none)
      ++ ((e.2.qk.filter (gone e.2)).map fun k => (k.issuer, fault k.word k.id))
  let t := { v with
    bsram := v.bsram.keep inside, bscale := v.bscale.keep inside, bpoison := v.bpoison.keep inside
    cores := v.cores.map fun e =>
      (e.1, { e.2 with
        qk := e.2.qk.filter fun k => !(gone e.2 k)
        cfg := e.2.cfg.map fun g =>
          if outside g.2 then (g.1, { g.2 with configured := false, armed := false, remaining := 0 }) else g }) }
  lost.foldl (fun t x => t.tlFell x.1 (some x.2)) t

/-- The default interrupt core of a partition (R85): the lowest-numbered that is not of the firmware column; a fenced core is passed
over. -/
def State.defaultIntCore (s : State) (p : Nat) : Nat :=
  ((s.partCores p).find? fun c => !(s.inColumn c) && !(s.core c).fenced).getD 0
/-- The interface is locked: CONFIG_LOCKED or RUN (R344). -/
def TdiState.bound : TdiState → Bool
  | .locked | .run => true
  | _ => false
/-- A change by another path moves a locked interface to ERROR, in which every queue of the VF is Stopped, its cause kept (R344). -/
def Vf.otherPath (f : Vf) (changed : Bool) : Vf :=
  if f.tdi.bound && changed then
    { f with
      tdi := .error
      queues := f.queues.map fun q => (q.1, { q.2 with state := .stopped, dies := [], waits := [], stopAt := none }) }
  else f
/-- A binding takes effect (R322, R349, R85): one that was accepted before the interface was locked moves it to ERROR (R344). -/
def State.bindNow (s : State) (v p : Nat) : State :=
  (s.updVf v fun f => { f.otherPath true with bound := some p, intCore := s.defaultIntCore p, intCoreNext := none }).updPart p fun x =>
    { x with vfs := x.vfs ++ [v] }
/-- An unbinding takes effect: the VF's key is replaced, and the epoch advances (R349, R351, R352). -/
def State.unbindNow (s : State) (v : Nat) : State :=
  let p := s.partOfVf v
  let t := { s with epoch := s.epoch + 1 }
  (t.updVf v fun f => { f.otherPath true with bound := none, keyGen := f.keyGen + 1, resetEpoch := s.epoch + 1 }).updPart p fun x =>
    { x with vfs := x.vfs.erase v }
/-- A section joins a partition (R323): a die that had none takes part in the queues from their read index on.
DEDUCED, unsafe: log entry 51. -/
def State.addSectionNow (s : State) (p sec : Nat) : State :=
  let d := sec / 4
  let t := s.updPart p fun x => { x with sections := x.sections ||| BitVec.ofNat 32 (2 ^ sec) }
  if (s.partDies p).contains d then t
  else (s.part p).vfs.foldl (fun t v => t.updVf v fun f =>
    { f with queues := f.queues.map fun q => (q.1, { q.2 with consumed := SMap.put 0 q.2.consumed d (s.readIndex v q.1) }) }) t
/-- The pending timer bit moves with the routing of a VF's interrupts (R85). -/
def SavedCtx.moveTimer (v : SavedCtx) (from_ to_ : Nat) : SavedCtx :=
  let a : CoreCtx := SMap.get {} v.cores from_
  let b : CoreCtx := SMap.get {} v.cores to_
  if from_ = to_ then v
  else { v with cores := SMap.put {} (SMap.put {} v.cores from_ { a with sip := a.sip &&& ~~~0x20 }) to_
                           { b with sip := (b.sip &&& ~~~0x20) ||| (a.sip &&& 0x20) } }
/-- The interrupts of a VF move to the default core where their core leaves the partition, its pending timer bit with them (R85). -/
def State.rerouteFrom (s : State) (v p : Nat) (out : Nat → Bool) : State :=
  s.updVf v fun f =>
    if out f.intCore then
      let d := s.defaultIntCore p
      { f with intCore := d, saved := f.saved.moveTimer f.intCore d }
    else f
/-- A section leaves a partition: its part of every context of the partition goes with it (R323). The last one of a partition with bound VFs
stays (R321). -/
def State.removeSectionNow (s : State) (p sec : Nat) : State :=
  let out (c : Nat) : Bool := sectionOf c == sec
  if (s.part p).sections = BitVec.ofNat 32 (2 ^ sec) ∧ (s.part p).vfs ≠ [] then s
  else
  let t := s.updPart p fun x => { x with sections := x.sections &&& ~~~(BitVec.ofNat 32 (2 ^ sec)) }
  (s.part p).vfs.foldl (fun t v => (t.rerouteFrom v p out).updVf v fun f =>
    { f with saved := { f.saved with
      slots := f.saved.slots.filter fun e => !(out (e.1 / 16))
      cores := f.saved.cores.filter fun e => !(out e.1)
      sections := f.saved.sections.filter fun e => e.1 != sec
      starts := f.saved.starts.filter fun e => !(out e.core)
      bsram := f.saved.bsram.keep fun k => !(out (k / 32768))
      bscale := f.saved.bscale.keep fun k => !(out (k / 32768))
      bpoison := f.saved.bpoison.keep fun k => !(out (k / 32768)) } }) t
/-- The frame by which firmware moves a saved shuttle off a fenced core (R99): reason 3, to any candidate for its next word. Its deferred faults,
its due trap and the operations still counted for it go with it. DEDUCED, unsafe: log entry 40. -/
def State.fenceFrame (s : State) (v p k : Nat) (m : Slot) : Frame :=
  { sh := { m.sh with migs := if m.sh.migs = 0xFFFF then m.sh.migs else m.sh.migs + 1 }
    vf := v, part := p, reason := 3, dclass := classOf (k / 16), gen := (s.part p).gen
    src := k, dst := k / 16, order := s.order, task := m.task, refused := m.refused, deferred := m.deferred, tl := m.tl, cp := m.cp
    trapOnArrival := m.heldTrap }
/-- A shuttle is lost with its core (R99): a record of it is posted if trec.EN is 1, and nothing is signalled. -/
def State.recordLoss (s : State) (k : Nat) (m : Slot) : State :=
  if bitOf (s.vfRegs m.vf (k / 16)).trec 0 then
    s.addRecord { vf := m.vf, core := k / 16, words := s.recordWords m k m.sh.pc 0 (cause 0xD 0 3) 0 false true 0 0 }
  else s
/-- A Queued frame that names a core which is fenced goes to the nearest candidate of its class, with the trap 0x1.0.1 (R99). -/
def Frame.unnamed (f : Frame) (c : Nat) : Frame :=
  if f.named = c then { f with named := 0xFFF, dclass := classOf c, trapOnArrival := some (cause 1 0 1, BitVec.ofNat 64 c) } else f
/-- What a saved context holds on a lost core is lost, where a spare takes its number (R99, R389). -/
def State.loseSaved (s : State) (v c : Nat) : State :=
  let sv := (s.vf v).saved
  let mine := sv.slots.filter fun e => e.1 / 16 == c && e.2.life != .free && e.2.life != .reserved
  let keep (k : Nat) : Bool := k / 32768 != c
  (mine.foldl (fun t e => t.recordLoss e.1 e.2) s).updVf v fun f =>
    { f with saved := { f.saved with
      slots := sv.slots.filter fun e => e.1 / 16 != c
      cores := sv.cores.map fun e => if e.1 = c then (c, { vf := v, sip := e.2.sip &&& 0x20 }) else e
      queued := sv.queued.map (Frame.unnamed · c)
      bsram := sv.bsram.keep keep, bscale := sv.bscale.keep keep, bpoison := sv.bpoison.keep keep } }
/-- The issuers of the matrix commands that a saved context holds on a core, each as often as it has commands there (R23). -/
def SavedCtx.issuers (v : SavedCtx) (c : Nat) : List Nat :=
  let x : CoreCtx := SMap.get {} v.cores c
  (x.qk.filter fun k => k.op != 6).map (·.issuer) ++ (x.cfg.filter fun g => g.2.armed).map (fun g => g.2.issuer) ++ x.tlDone
/-- A saved context leaves a fenced core (R99, R85): its shuttles wait as frames behind those that are Queued already (R32, R33), each with its
record (R97), or are lost with a core that is lost; its named frames take 0x1.0.1 elsewhere, its starts are placed again, and its vector and
matrix state is lost, with the commands of a matrix core, which count no longer. DEDUCED, unsafe: log entry 40. -/
def State.fenceSaved (s : State) (v p c : Nat) (lost : Bool) : State :=
  let sv := (s.vf v).saved
  let mine := sv.slots.filter fun e => e.1 / 16 == c && e.2.life != .free && e.2.life != .reserved
  let near : Nat := (minBy (coreKey c) ((s.eligible p [classOf c]).filter (· != c))).getD c
  let keep (k : Nat) : Bool := k / 32768 != c
  let frame (e : Nat × Slot) : Frame := s.fenceFrame v p e.1 e.2
  let t := if lost then mine.foldl (fun t e => t.recordLoss e.1 e.2) s
    else mine.foldl (fun t e => t.recordMove e.1 { e.2 with sh := (frame e).sh } (cause 1 7 6) e.2.sh.pc 0xFFF) s
  (t.rerouteFrom v p (· == c)).updVf v fun f =>
    let left : SavedCtx := { f.saved with
      slots := sv.slots.filter fun e => e.1 / 16 != c
      cores := f.saved.cores.filter fun e => e.1 != c
      queued := sv.queued.map (Frame.unnamed · c) ++ (if lost then [] else mine.map frame)
      starts := sv.starts.map fun (x : Start) => if x.core = c then { x with core := near } else x
      bsram := sv.bsram.keep keep, bscale := sv.bscale.keep keep, bpoison := sv.bpoison.keep keep }
    { f with saved := (sv.issuers c).foldl (fun l k => l.tlFell k none) left }
/-- The L2 lines of a partition's mode-1 pages are written back before a fence changes their homes (R209). -/
def State.writeBackMode1 (s : State) (p : Nat) : State :=
  { s with l2 := s.l2.filter fun l => !((s.part p).vfs.contains l.vf && (match s.walkVa 0 (512 * l.line) with
      | .leaf e _ _ => pteHm e
      | _ => false)) }
/-- A core is fenced at a switch (R389): a spare takes its number where the cluster has one left, and of a planned fence nothing is visible;
else it leaves the core map, and every context of the partition leaves it. What the contexts held on a core that is lost is lost (R99). -/
def State.fenceNow (s : State) (p c : Nat) (lost : Bool) : State :=
  let n : Nat := SMap.get 0 s.spares (clusterOf c)
  if 0 < n then
    let t := { s with spares := SMap.put 0 s.spares (clusterOf c) (n - 1) }.updCore c fun _ => {}
    if lost then (s.part p).vfs.foldl (fun t v => t.loseSaved v c) t else t
  else
    (s.part p).vfs.foldl (fun t v => t.fenceSaved v p c lost) ((s.writeBackMode1 p).updCore c fun _ => { fenced := true })
/-- A whole section is fenced at a switch (R390): its cores leave the core map, and the section leaves the partition.
DEDUCED, unsafe: log entry 63. -/
def State.fenceSectionNow (s : State) (p sec : Nat) : State :=
  ((sectionCores sec).foldl (fun t c =>
    (s.part p).vfs.foldl (fun u v => u.fenceSaved v p c false) (t.updCore c fun _ => { fenced := true })) (s.writeBackMode1 p)).removeSectionNow p sec
/-- The unit at a machine address lies in one of a die's HBM stacks (R300). -/
def onStacks (d ma : Nat) : Bool := inHbm ma && ma / 65536 % 16 / 2 == d
/-- A mapped page lies in one of a die's stacks. -/
def State.stacksUsed (s : State) (d : Nat) : Bool :=
  s.leaves.any fun l => (l.2.2.1 != 0 || pteTier l.2.1 == 0) && s.vfs.any fun v => (s.leafPieces v.1 l.2.1 l.2.2.1).any fun x =>
    (List.range (min 16 x.2.1)).any fun i => onStacks d (x.2.2.machine ((pteAddr l.2.1 + x.1 + i) * 65536))
/-- Pages of a VF that lie on a die's HBM stacks (R300): they move to another stack where the VF has a free frame, else down
(R390). -/
def State.clearStacks (s : State) (d : Nat) : State :=
  s.vfs.foldl (fun t e =>
    (t.pagesOf e.1).foldl (fun t pg =>
      let (page, leaf, r) := pg
      let ipa := pteAddr leaf * 65536
      let onDie := onStacks d
      if pteTier leaf ≠ 0 ∨ inHbm r.mbase = false ∨ onDie (r.machine ipa) = false then t
      else
        let used := t.usedRanges
        let free := ((t.vf e.1).ranges.filter fun x => decide (x.1 < 48) && x.2.valid && inHbm x.2.mbase && x.2.kidx == r.kidx).findSome?
          fun x => ((List.range ((x.2.limit - x.2.base) / 65536)).find? fun i =>
            frameFree used (x.2.mbase + 65536 * i) && !(onDie (x.2.mbase + 65536 * i))).map fun i => (x.2.base + 65536 * i, x.2)
        match free, t.pageLeaf page with
        | some (ipa2, r2), some (e2, at_) =>
          let u := (t.dropAtbs fun a => a.page == page).pageHome page
          let u := u.movePage (r.machine ipa / 65536) (r2.machine ipa2 / 65536) r.kidx r2.kidx
          u.setLeaf at_ e2 ipa2 0
        | _, _ => (t.moveDown e.1 page).getD t) t) s
/-! ### The fatal-error dump (R394) -/

/-- The base of the fatal-error dump. -/
def dumpBase : Nat := 0xBFC0000000
/-- Little-endian bytes of a number. -/
def leBytes (n v : Nat) : List Byte := (List.range n).map fun i => BitVec.ofNat 8 (v / 256 ^ i)
/-- The doubleword at a DVA of a VF as it lies in memory, 0 where the VF maps none. -/
def State.peek64 (s : State) (v a : Nat) : Word :=
  match s.locate v 0 a with
  | some (_, ma, r) => if s.foreign ma r.kidx then 0 else s.read64 ma
  | none => 0
/-- The trap-ring header of a VF and its last 64 records (R87). -/
def State.ringWords (s : State) (v : Nat) : List Word :=
  let trec := (s.vf v).regs.trec
  let base := bitsOf trec 55 12 * 4096
  let n := 2 ^ (bitsOf trec 11 8 + 6)
  let head := (List.range 8).map fun i => s.peek64 v (base + 8 * i)
  let p := (head.getD 0 0).toNat
  head ++ (List.range (min 64 p)).flatMap fun i =>
    (List.range 8).map fun j => s.peek64 v (base + 64 + 64 * ((p - min 64 p + i) % n) + 8 * j)
/-- What the entry of a type holds for a die, in doublewords: 1 trap rings, 2 bobbins, 3 L2 tags, 4 queues, 5 error logs, 6 the fence map. -/
def State.dumpWords (s : State) (type die : Nat) : List Word :=
  let w (n : Nat) : Word := BitVec.ofNat 64 n
  let cs := s.cores.filter fun e => dieOf e.1 == die
  match type with
  | 1 => s.vfs.flatMap fun e => w e.1 :: s.ringWords e.1
  | 2 => cs.flatMap fun e => [e.2.bobbin0, e.2.bobbin1].flatMap fun b => match b with
      | some v => w e.1 :: w v :: ((s.vf v).saved.slots.filter fun m => m.1 / 16 == e.1).flatMap fun m =>
          w m.1 :: m.2.sh.pc :: (List.range 16).map fun i => m.2.sh.getX (Fin.ofNat 16 i)
      | none => []
  | 3 => (s.l2.filter fun l => dieOf l.slice == die).flatMap fun l => [w l.vf, w l.line, w l.slice, zx l.sectors]
  | 4 => (s.vfs.flatMap fun e => e.2.queues.flatMap fun q => [w (16 * e.1 + q.1), zx q.2.widx, zx (SMap.get 0 q.2.consumed die : BitVec 32)])
      ++ ((s.sections.filter fun e => e.1 / 4 == die).flatMap fun e => e.2.chans.flatMap fun c =>
          w (8 * e.1 + c.1) :: zx c.2.seq :: c.2.cmds.flatMap (·.desc))
      ++ cs.flatMap fun e => w e.1 :: (e.2.ctx.qa.map fun a => w a.tag) ++ (e.2.ctx.qk.flatMap fun k => [k.word, k.operand])
          ++ e.2.ctx.qd.flatMap fun y => y.vals.map fun x => zx x
  | 5 => w (s.die die).errors :: (s.die die).repair.flatMap fun r => [w r.1, w r.2]
  | _ => (s.cores.filter fun e => e.2.fenced).map fun e => w e.1
/-- The entries of the dump, by type and die; the final one, of type 0, comes after them. DESIGN CHOICE, safe: log entry 101. -/
def dumpEntries : List (Nat × Nat) :=
  [(1, 0), (6, 0)] ++ (List.range 8).flatMap fun d => [(2, d), (3, d), (4, d), (5, d)]
/-- THE DUMP of a class-0xF cause on a die: its header, its entries, whose offsets count from the start of the body, and its body.
DESIGN CHOICE, safe: log entry 101. -/
def State.dumpBytes (s : State) (c : BitVec 10) (die : Nat) : List Byte :=
  let parts := dumpEntries.map fun e => (e, Config.dumpBody e.1 e.2 (s.dumpWords e.1 e.2))
  let body := parts.flatMap (·.2)
  let table := (List.range (parts.length + 1)).flatMap fun i =>
    let e := dumpEntries.getD i (0, 0)
    leBytes 8 (e.1 + e.2 * 256) ++ leBytes 8 ((parts.take i).map fun x => x.2.length).sum
  leBytes 4 0x5A444D50 ++ leBytes 2 1 ++ leBytes 2 (parts.length + 1) ++ leBytes 8 (c.toNat + die * 4096)
    ++ leBytes 8 (s.timeOn die).toNat ++ leBytes 8 s.epoch ++ Config.fixed 32 (Config.shake256 body) ++ table ++ body
/-- The dump as it is written to its area of 1 GiB. -/
def encryptedDump (l : List Byte) : List Byte := Config.fixed (min l.length (2 ^ 30)) (Config.dumpCipher l)
/-- A FATAL ERROR (R394): every core halts, the dump is written to its area, encrypted, FATAL is set and the PF error vector raised; the part is
out of service until it is reset. READY falls as FATAL rises. DESIGN CHOICE, unsafe: log entry 97. -/
def State.raiseFatal (s : State) (c : BitVec 10) (die : Nat) : State :=
  if s.fatal then s
  else
    { s with
      fatal := true, ready := false, pfVector := true, dump := some (s.dumpBytes c die)
      mem := (s.putBytes dumpBase (encryptedDump (s.dumpBytes c die))).mem }
/-- Frames both of whose dies are fenced are lost with their shuttles (R28, R99). DEDUCED, unsafe: log entry 52. -/
def State.loseFrames (s : State) (die : Nat) : State :=
  let gone (f : Frame) : Bool := (s.die (dieOf (f.src / 16))).fenced && (s.die (dieOf f.dst)).fenced
  if s.frames.any gone then { s with frames := s.frames.filter fun f => !(gone f) }.raiseFatal (cause 0xF 7 5) die else s
/-- The cores of a section leave the core map. -/
def State.fenceCores (s : State) (sec : Nat) : State :=
  (sectionCores sec).foldl (fun t c => t.updCore c fun _ => { fenced := true }) s
/-- A die is out of service once the mapped pages have left its stacks, which one that cannot move keeps, and no partition holds a section of
it (R390). DEDUCED, unsafe: log entry 63. -/
def State.fenceDie (s : State) (d : Nat) : State :=
  if s.stacksUsed d || s.parts.any fun x => (List.range 4).any fun i => x.2.hasSection (4 * d + i) then s
  else (((List.range 4).foldl (fun t i => t.fenceCores (4 * d + i)) s).updDie d fun x => { x with fenced := true }).loseFrames d
/-- One staged change of a partition (R349, R390). -/
def State.applyStaged (s : State) (p : Nat) : Staged → State
  | .bind v => s.bindNow v p
  | .unbind v => s.unbindNow v
  | .homeMask i m => s.updPart p fun x => { x with masks := SMap.put 0 x.masks i m }
  | .addSection sec => s.addSectionNow p sec
  | .removeSection sec => s.removeSectionNow p sec
  | .fenceCore c => s.fenceNow p c false
  | .fenceSection sec => s.fenceSectionNow p sec
  | .clearStacks d => (s.clearStacks d).fenceDie d

/-- The selvedge register of a section under a partition (R221). -/
def State.selvedgeWord (s : State) (p sec : Nat) : BitVec 32 :=
  BitVec.ofNat 32 (p % 32 + (if s.column.any fun e => sectionOf e.1 == sec then 32 else 0) + (s.part p).gen.toNat % 256 * 256)
/-- Firmware writes the selvedge registers of a partition (R221, R329 step 7). -/
def State.writeSelvedge (s : State) (p : Nat) : State :=
  (s.partSections p).foldl (fun t sec => { t with selvedge := SMap.put 0 t.selvedge sec (s.selvedgeWord p sec) }) s
/-- The layout of a generation is kept (R309). -/
def State.recordLayout (s : State) (p : Nat) : State :=
  let x := s.part p
  let out := (s.partCores p).filter fun c => (s.core c).fenced || s.inColumn c
  s.updPart p fun y => { y with hist := SMap.put (0, []) y.hist x.gen.toNat (x.sections, out) }
/-- STEP 7 (R329, R177, R389): staged changes in call order, lost cores, rows marked for repair, the change of grants, the new schedule, the new generation and
the selvedge registers. The schedule goes on behind the slice of the VF that ran before. -/
def State.reconfigure (s : State) (p : Nat) (before : Option Nat) : State :=
  let x := { s.part p with running := before }
  let t := s.updPart p fun y => { y with staged := y.staged.filter fun c => !(s.stagedDue p c) }
  let t : State := (x.staged.filter fun c => s.stagedDue p c).foldl (fun t c => t.applyStaged p c) t
  let t : State := ((t.cores.filter fun e => e.2.lost && t.inPart p e.1).map (·.1)).foldl (fun t c => t.fenceNow p c true) t
  let t : State := { t with dies := t.dies.map fun e => (e.1, { e.2 with repair := e.2.repair.filter fun r => !(t.inPart p r.1) }) }
  let shared := decide (1 < (t.part p).vfs.length)
  let t := if shared && !x.shared then
      (t.part p).vfs.foldl (fun t v => t.updVf v fun f =>
        { f with saved := if f.index = 0 then f.saved.shrink 0 256 else f.saved.shrink 256 512 }) t
    else t
  let t := t.updPart p fun y =>
    { y with
      shared := shared
      schedule := y.scheduleNext.getD y.schedule
      scheduleNext := none
      pos := match x.next y.vfs with | some (i, _) => i | none => 0
      gen := y.gen + 1 }
  (t.recordLayout p).writeSelvedge p

/-- What takes effect at a VF's switch-in (R85, R334, R338): routing, feature mask, allowance. A change accepted before the interface was
locked and applied after it moves the TDI to ERROR (R344). -/
def State.switchInRegs (s : State) (v p : Nat) : State :=
  s.updVf v fun f =>
    let want := f.intCoreNext.getD f.intCore
    let core := if s.tenantCore p want && !(s.core want).fenced then want else s.defaultIntCore p
    { f.otherPath (f.featureNext.isSome || f.tier0Next.isSome || f.intCoreNext.isSome) with
      intCore := core, intCoreNext := none
      saved := f.saved.moveTimer f.intCore core
      feature := f.featureNext.getD f.feature, featureNext := none
      tier0 := f.tier0Next.getD f.tier0, tier0Next := none
      ovf := false, wsl := [], hasRun := true, gated := true }
/-- A restored shuttle is Parked until the resume gate (R331); a wait for a page that is no longer being pulled has its wake (R296). -/
def State.restoredSlot (s : State) (v : Nat) (m : Slot) : Slot :=
  let pulled (va : Nat) : Bool := !(s.pulls.any fun p => p.vf == v && p.page == va / 65536)
  let m := { m.halted with parked := true, lastIssue := none }
  let m := match m.wait with
    | some w => (match w.kind with
      | .pull va => if pulled va then { m with life := if m.life = .waiting then .ready else m.life } else m
      | _ => m)
    | none => m
  m
/-- A saved queued frame is taken up again, before those behind it (R32): under another generation the destination rule is applied again at the
core where it is queued, whatever core it names; it is placed at once where a core is a candidate, else it is queued as before.
DEDUCED, unsafe: log entry 64. -/
def State.requeueFrame (s : State) (f : Frame) (gen : BitVec 16) : State :=
  let f := if f.gen = gen then f else { f with named := 0xFFF, gen := gen }
  match s.destination f f.dst with
  | some c => s.placeFrame { f with dst := c, dclass := classOf c } c ((s.freeSlot c).getD 0)
  | none => { s with queued := s.queued ++ [f] }
/-- STEP 5, the way in, and step 8 (R326, R329 to R331): the context of a VF becomes live on its partition. -/
def State.restoreVf (s : State) (v p : Nat) : State :=
  let t := s.switchInRegs v p
  let sv := (t.vf v).saved
  let gen := (t.part p).gen
  let b := (t.vf v).index
  let t : State :=
    { t with
      slots := sv.slots.foldl (fun l e => SMap.put {} l e.1 (t.restoredSlot v e.2)) t.slots
      sections := sv.sections.foldl (fun l e => SMap.put {} l e.1 e.2) t.sections
      starts := t.starts ++ sv.starts }
  let t := ((t.partCores p).filter fun c => !(t.inColumn c)).foldl (fun t c => t.updCore c fun k =>
    { k with
      ctx := { (SMap.get {} sv.cores c) with vf := v }
      bobbin0 := if b = 0 && k.bobbin0 == some v then none else k.bobbin0
      bobbin1 := if b = 1 && k.bobbin1 == some v then none else k.bobbin1
      bsram := (sv.bsram.filter fun e => e.1 / 32768 == c).map fun e => (e.1 % 32768, e.2)
      bscale := (sv.bscale.filter fun e => e.1 / 32768 == c).map fun e => (e.1 % 32768, e.2)
      bpoison := (sv.bpoison.filter fun e => e.1 / 32768 == c).map fun e => (e.1 % 32768, e.2) }) t
  let t := (t.updVf v fun f =>
    { f with
      saved := {}
      queues := f.queues.map fun q => (q.1, { q.2 with dies := q.2.dies.filter fun d => d.2 != .waiting }) }).updPart p fun x =>
    { x with running := some v, sliceStart := s.cycle.toNat, noticed := false }
  sv.queued.foldl (fun t f => t.requeueFrame f gen) t

/-- The VF that runs after a switch (R324): the schedule's next; without one, the VF that ran, or the first bound.
DESIGN CHOICE, unsafe: log entry 41. -/
def State.nextVf (s : State) (p : Nat) (before : Option Nat) : Option Nat :=
  let x := s.part p
  match x.entry with
  | some e => if x.vfs.contains (schedVf e) then some (schedVf e) else x.vfs.head?
  | none => match before with
    | some v => if x.vfs.contains v then some v else x.vfs.head?
    | none => x.vfs.head?
/-- A world switch of a partition is due (R323 to R325, R389, R390, R410): no VF runs and one is bound, the slice has elapsed, a change is
staged for a fence or where no slice ends, a core has been lost, or the partition is to be evacuated. -/
def State.switchDue (s : State) (p : Nat) : Bool :=
  let x := s.part p
  let now := s.cycle.toNat
  let held := x.evac.isSome && x.running.isNone
  let sliced := x.entry.isSome && decide (1 < x.vfs.length)
  x.sections != 0 && !held &&
    ((x.running.isNone && !(x.vfs.isEmpty))
      || x.staged.any (fun c => s.stagedDue p c && (c.prompt || !sliced))
      || (x.scheduleNext.isSome && !sliced)
      || (match x.entry with
          | some e => decide (1 < x.vfs.length) && decide (x.sliceStart + micros (schedLen e) ≤ now)
          | none => false)
      || s.cores.any (fun e => e.2.lost && s.inPart p e.1)
      || (x.evac.isSome && decide (x.notBefore ≤ now)))
/-- A partition's last generation needs empty host queues before the switch that would pass it (R309). -/
def State.generationOk (s : State) (p : Nat) : Bool :=
  (s.part p).gen != 0xFFFF || (s.part p).vfs.all fun v => (s.vf v).queues.all fun q => q.2.widx == s.readIndex v q.1
/-- The way out of a world switch: halt, form the recorded working set, save. -/
def State.switchOut (s : State) (p : Nat) : State :=
  match (s.part p).running with
  | some v => ((s.haltVf v p).formWorkingSet v).saveVf v p
  | none => s
/-- The collectives of a VF are aborted locally (R393 step 4, R410 step 3): its own take a state, its peers' STATE 2. -/
def State.abortColls (s : State) (v state : Nat) : State :=
  let mine := (s.vf v).coll.filter fun e => e.2.pending
  mine.foldl (fun t e =>
    let g := (s.vf v).group (collGroup e.2.desc)
    let u := t.updColl v e.1 fun x => { x with state := state, waits := none }
    u.endRanks g (collGroup e.2.desc) e.2.opnum fun _ x => { x with state := 2, peer := g.own }) s
/-- Every queue of a VF becomes Stopped, its cause and indices kept (R344, R393, R410). -/
def State.stopQueues (s : State) (v : Nat) : State :=
  s.updVf v fun f => { f with queues := f.queues.map fun q =>
    (q.1, { q.2 with state := .stopped, dies := [], waits := [], stopAt := none }) }
/-- Steps 2 and 3 of an evacuation (R410), the running VF being halted and saved. -/
def State.evacuateHalt (s : State) (p : Nat) : State :=
  (s.part p).vfs.foldl (fun t v => (t.stopQueues v).abortColls v 3) s
/-- WORLD_SWITCH (R329) of the subject's partition. A partition that is evacuated stops after step 5 (R410). -/
def execWorldSwitch (s : State) : Out :=
  let p := s.subject.part
  let x := s.part p
  if s.fatal || !(s.switchDue p) || !(s.generationOk p) then .next s
  else
    let s := s.finishExits p
    if s.slots.any fun e => s.tenantSlot p e.1 && e.2.unhaltable then .next s
    else
      let t := s.switchOut p
      if x.evac.isSome ∧ x.notBefore ≤ s.cycle.toNat then .next (t.evacuateHalt p)
      else
        let u := t.reconfigure p x.running
        match u.nextVf p x.running with
        | some v => .next (u.restoreVf v p)
        | none => .next u

/-- RESUME_GATE_PASS (R331): 256 times F has reached RR, and the restored shuttles of the subject's VF leave Parked, all at once. -/
def execResumeGatePass (s : State) : Out :=
  let v := s.subject.vf
  if s.running v && (s.vf v).gated && s.fractionReaches v (s.vf v).rr then
    let t : State :=
      { s with slots := s.slots.map fun (e : Nat × Slot) => if e.2.vf = v then (e.1, { e.2 with parked := false }) else e }
    .next (t.updVf v fun f =>
      { f with gated := false })
  else .next s

end Sys2Proof.Machine
end

