-- ==== Sys2Proof/Machine/Recover.lean ====
section
/-! DEFINITION. Resets and losses of one VF's context: the reset of a VF (R393), and the TDISP states that lead to it (R344). -/

namespace Sys2Proof.Machine

/-- The words of a VF that a core holds Registered become Owner-lost, and their watchers are woken, with the mark lost (R217, R218). -/
def State.loseOwned (s : State) (v : Nat) (p : Nat → Bool) : State :=
  let mine := s.home.filter fun e => e.1 / 2 ^ 56 == v && (match e.2 with | .registered c _ _ => p c | _ => false)
  let t : State := { s with home := s.home.map fun e =>
    if e.1 / 2 ^ 56 == v then (e.1, match e.2 with
      | .registered c ma _ => if p c then .ownerLost c ma else e.2
      | h => h) else e }
  mine.foldl (fun t e => t.wake v (e.1 % 2 ^ 56) true) t
/-- The live context of a VF's partition is created anew (R178, R250). -/
def State.freshContext (s : State) (v p : Nat) : State :=
  { s with
    slots := s.slots.filter fun e => !(s.tenantSlot p e.1)
    sections := s.sections.filter fun e => !((s.part p).hasSection e.1)
    cores := s.cores.map fun e =>
      if s.tenantCore p e.1 then
        (e.1, { e.2 with
          ctx := { vf := v }, bsram := [], bscale := [], bpoison := [], l1 := [], l1bad := [], l1apart := [], icache := [], iseen := [], sbuf := []
          chunk := none, ptr := 0, vptr := 0, turn := none, vstart := none, stale := none })
      else e }
/-- The frames of HBM and of the fabric windows that a VF's range entries map take a release epoch (R352). -/
def State.releaseFrames (s : State) (v : Nat) (p : RangeEntry → Bool) : State :=
  (s.vf v).ranges.foldl (fun t e =>
    if e.2.valid && p e.2 then
      let frs := (List.range ((e.2.limit - e.2.base) / 65536)).map fun i => e.2.mbase / 65536 + i
      { t with
        releaseEpochs := frs.foldl (fun m fr => SMap.put 0 m fr t.epoch) t.releaseEpochs
        frameVfs := frs.foldl (fun m fr => SMap.put 0 m fr (v + 1)) t.frameVfs }
    else t) s
/-- RESET A VF (R393), steps 1 to 6: queues stop, the cores halt, work is abandoned, collectives are aborted, and keep their entries until they are
tested (R403, R406), registrations become Owner-lost, watches, starts and buffered entries go, the key is replaced, and the context is created
anew. DEDUCED, unsafe: log entry 47. -/
def State.resetVf (s : State) (v : Nat) : State :=
  let p := s.partOfVf v
  let live := s.running v
  let t := (s.stopQueues v).abortColls v 3
  let t := t.loseOwned v fun _ => true
  let t := if live then t.freshContext v p else t
  let t : State :=
    { t with
      watches := t.watches.filter fun w => w.vf != v
      starts := t.starts.filter fun e => e.vf != v
      heldStarts := t.heldStarts.filter fun e => e.vf != v
      offers := t.offers.filter fun e => e.vf != v
      awaits := t.awaits.filter fun a => a.vf != v
      frames := t.frames.filter fun f => f.vf != v
      queued := t.queued.filter fun f => f.vf != v
      pushes := t.pushes.filter fun x => x.vf != v
      records := t.records.filter fun r => r.vf != v
      pulls := t.pulls.filter fun x => x.vf != v
      requests := t.requests.filter fun r => r.slot.isNone || r.vf != v
      longs := t.longs.filter fun l => l.req.slot.isNone || l.req.vf != v
      cores := t.cores.map fun e =>
        (e.1, { e.2 with plb := e.2.plb.filter fun x => x.vf != v, atb := e.2.atb.filter fun x => x.vf != v })
      epoch := t.epoch + 1 }
  (t.updVf v fun f =>
    { f with
      regs := {}, recorded := [], wsl := [], ovf := false, hints := [], ext := [], deadline := none
      coll := f.coll.filter fun e => e.2.held && e.2.joint.isNone
      collAtb := [], hostWaits := [], remote := [], saved := {}, hasRun := false, gated := false, resetAt := none
      queues := f.queues.map fun q => (q.1, { q.2 with open_ := [] })
      keyGen := f.keyGen + 1, resetEpoch := t.epoch }).releaseFrames v fun _ => true
/-- VF_RESET (R393) of the subject's VF: with the flag set, a grace time of as many microseconds as the subject's size first, for which
0xD.0.1 is raised; a reset that was announced so waits for the end of its grace. A request with more than 1,000 microseconds has no grace.
DESIGN CHOICE, unsafe: log entry 97. -/
def execVfReset (s : State) : Out :=
  let v := s.subject.vf
  let now := s.cycle.toNat
  match (s.vf v).resetAt with
  | some n => .next (if n ≤ now then s.resetVf v else s)
  | none =>
    if s.subject.flag && decide (s.subject.size ≤ 1000) then
      let t := s.updVf v fun f => { f with resetAt := some (now + micros s.subject.size) }
      .next (if s.running v then t.raiseNotice (s.partOfVf v) 1 else t)
    else .next (s.resetVf v)

/-- LOCK_INTERFACE_REQUEST (R344): CONFIG_UNLOCKED to CONFIG_LOCKED. -/
def execLockInterfaceRequest (s : State) : Out :=
  .next (s.updVf s.subject.vf fun f => { f with tdi := if f.tdi = .unlocked then .locked else f.tdi })
/-- START_INTERFACE_REQUEST (R344): CONFIG_LOCKED to RUN. -/
def execStartInterfaceRequest (s : State) : Out :=
  .next (s.updVf s.subject.vf fun f => { f with tdi := if f.tdi = .locked then .run else f.tdi })
/-- STOP_INTERFACE (R344, R393): the VF is reset without grace, in whatever state its interface is, and the interface is in CONFIG_UNLOCKED. -/
def execStopInterface (s : State) : Out :=
  let v := s.subject.vf
  .next ((s.resetVf v).updVf v fun f => { f with tdi := .unlocked })

end Sys2Proof.Machine
end

