-- ==== Sys2Proof/Machine/Services.lean ====
section
/-! DEFINITION. The services of the firmware column (R347 to R349, R352 to R356, R402, R410): each performs the request at the head of
those waiting, if it bears its number, as one step, and replies to its caller. -/

namespace Sys2Proof.Machine

/-- What a service answers: its status (R348) and the values of a1 to a3. -/
structure Answer where
  state : State
  status : Nat
  values : List Word := []

/-- The registers that a reply writes (R66): a0 to a3; the ECALL completes. -/
def Slot.served (m : Slot) (status : Nat) (vals : List Word) : Slot :=
  match m.wait with
  | some w =>
    if w.kind = .firmware then
      let sh := (((m.sh.setX 10 (BitVec.ofNat 64 status)).setX 11 (vals.getD 0 0)).setX 12 (vals.getD 1 0)).setX 13 (vals.getD 2 0)
      { (({ m with sh := sh } : Slot).completeAt (sh.pc + 4)) with life := .ready }
    else m
  | none => m
/-- The reply to a caller (R66, R347): to its shuttle, wherever its context is, or to the mailbox. -/
def State.reply (s : State) (r : Request) (status : Nat) (vals : List Word) : State :=
  match r.slot with
  | none =>
    let l : SMap Word := SMap.put 0 (SMap.put 0 (SMap.put 0 (SMap.put 0 [] 0 (BitVec.ofNat 64 status)) 1 (vals.getD 0 0)) 2 (vals.getD 1 0)) 3
      (vals.getD 2 0)
    { s with mailbox := { s.mailbox with reply := l, busy := false, done := true } }
  | some k =>
    if s.running r.vf then s.updSlot k fun m => m.served status vals
    else s.updVf r.vf fun f => { f with saved := { f.saved with
      slots := SMap.put {} f.saved.slots k ((SMap.get {} f.saved.slots k : Slot).served status vals) } }
/-- Two requests come from one caller: the PF, or the supervisor of one VF (R348). -/
def Request.sameCaller (a b : Request) : Bool := (a.slot.isNone && b.slot.isNone) || (a.slot.isSome && b.slot.isSome && a.vf == b.vf)
/-- Two requests are identical calls. -/
def Request.sameCall (a b : Request) : Bool := a.sameCaller b && a.vf == b.vf && a.number == b.number && a.args == b.args
/-- A service in progress answers for a caller: the final status once, 3 until then, 4 to another call (R348). -/
def State.inProgress (s : State) (r : Request) : Option Answer :=
  match s.longs.find? (fun l => l.req.sameCall r) with
  | some l =>
    match l.reply with
    | some vals => some ⟨{ s with longs := s.longs.erase l }, (vals.getD 0 0).toNat, vals.drop 1⟩
    | none => some ⟨s, 3, []⟩
  | none => if s.longs.any fun l => l.req.sameCaller r && l.reply.isNone then some ⟨s, 4, []⟩ else none
/-- PERFORM A SERVICE: the head of the waiting requests, if it has this number, from a caller that may call it. -/
def State.service (s : State) (n : Nat) (fromS fromPf : Bool) (f : State → Request → Answer) : Out :=
  match s.requests with
  | [] => .next s
  | r :: rest =>
    if r.number.toNat ≠ n then .next s
    else
      let t := { s with requests := rest }
      if (r.slot.isSome && !fromS) || (r.slot.isNone && !fromPf) then .next (t.reply r 4 [])
      else
        let a := (t.inProgress r).getD (f t r)
        .next (a.state.reply r a.status a.values)
/-- Argument i of a request, from 1. -/
def Request.a (r : Request) (i : Nat) : Word := r.args.getD (i - 1) 0
/-- A refusal that changes nothing. -/
def State.refusal (s : State) (status : Nat) : Answer := ⟨s, status, []⟩
/-- A PF request for a VF whose TDI is locked (R344). -/
def State.pfLocked (s : State) (r : Request) (v : Nat) : Bool := r.slot.isNone && (s.vf v).tdi.bound
/-- Doubleword i at a machine address that a PF request names. DESIGN CHOICE, unsafe: log entry 44. -/
def State.argWord (s : State) (a : Word) (i : Nat) : Word := s.read64 (a.toNat + 8 * i)
/-- A machine address, aligned to 8, from which n doublewords can be read. -/
def argBad (a : Word) (n : Nat) : Bool :=
  decide (a.toNat % 8 ≠ 0) || !(machineExists a.toNat) || !(machineExists (a.toNat + 8 * n - 1))

/-- Set or clear STIP on the interrupt core of a VF, in its live or its saved context (R83, R85). -/
def State.setTimer (s : State) (v : Nat) (b : Bool) : State :=
  let c := (s.vf v).intCore
  let f (x : CoreCtx) : CoreCtx := { x with sip := if b then x.sip ||| 0x20 else x.sip &&& ~~~0x20 }
  if s.running v then (s.updCtx c f).wakeWfi c
  else s.updVf v fun x => { x with saved := { x.saved with
    cores := SMap.put {} x.saved.cores c (f (SMap.get {} x.saved.cores c)) } }
/-- TIMER, service 0x01 (R347, R83). -/
def execTimer (s : State) : Out :=
  s.service 0x01 true false fun s r =>
    let d := if r.a 1 = 0xFFFFFFFFFFFFFFFF then none else some (r.a 1)
    ⟨(s.updVf r.vf fun f => { f with deadline := d }).setTimer r.vf false, 0, []⟩
/-- TIMER_DEADLINE (R83, R85): `time` has reached the deadline of the subject's VF. -/
def execTimerDeadline (s : State) : Out :=
  let v := s.subject.vf
  match (s.vf v).deadline with
  | some d => .next (if d.toNat ≤ (s.timeOn (dieOf (s.vf v).intCore)).toNat then s.setTimer v true else s)
  | none => .next s
/-- VF_INFORMATION, service 0x02 (R347). -/
def execVfInformation (s : State) : Out :=
  s.service 0x02 true false fun s r =>
    let f := s.vf r.vf
    let p := s.partOfVf r.vf
    ⟨s, 0, [BitVec.ofNat 64 (f.feature.toNat * 2 ^ 32 + r.vf * 2 ^ 24 + p % 32 * 2 ^ 16 + f.index * 256), zx (s.part p).gen,
      zx f.hostFault]⟩

/-- The DVA of a queue's ring lies in a range of DVAs. -/
def Vf.ringIn (f : Vf) (lo hi : Nat) : Bool :=
  f.queues.any fun q => decide (q.2.base < hi) && decide (lo < q.2.base + 64 * 2 ^ q.2.z)
/-- A protection leaf for a top entry of a VF: the one in place, or a new one in firmware's area, which the top entry then names. -/
def State.protLeaf (s : State) (v top : Nat) : State × Nat :=
  let at_ := s.protTable v + 8 * top
  let e := s.read64 at_
  if bitOf e 0 then (s, bitsOf e 51 16 * 65536)
  else
    let leaf := fwBase + 0x4000000 + 65536 * s.fwLeaves
    ({ (s.zeroFrame (leaf / 65536) 0).write64 at_ (BitVec.ofNat 64 (leaf + 1)) with fwLeaves := s.fwLeaves + 1 }, leaf)
/-- Write the leaf byte of n regions from one on (R288). -/
def State.protWrite (s : State) (v region : Nat) (b : Byte) : Nat → State
  | 0 => s
  | n + 1 =>
    let t := s.protWrite v region b n
    let (u, leaf) := t.protLeaf v ((region + n) / 65536)
    u.putByte (leaf + (region + n) % 65536) b
/-- PROTECTION, service 0x03 (R288, R290, R344): the table is written, then the affected PLB entries are removed. -/
def execProtection (s : State) : Out :=
  s.service 0x03 true true fun s r =>
    let v := r.vf
    let base := (r.a 1).toNat
    let n := (r.a 2).toNat
    let region := base / 2 ^ 26
    if base % 2 ^ 26 ≠ 0 ∨ 2 ^ 30 < region + n ∨ 256 ≤ (r.a 3).toNat then s.refusal 2
    else if s.pfLocked r v && (s.vf v).ringIn base (base + n * 2 ^ 26) then s.refusal 4
    else
      let t := s.protWrite v region ((r.a 3).truncate 8 &&& 0x1F) n
      let hit (e : PlbEntry) : Bool := e.vf == v && decide (region ≤ e.region) && decide (e.region < region + n)
      ⟨{ t with cores := t.cores.map fun e => (e.1, { e.2 with plb := e.2.plb.filter fun x => !(hit x) }) }, 0, []⟩
/-- OWNER_LOST_CLEARING, service 0x04 (R219): each Owner-lost word of the range that the VF maps becomes Unregistered with value 0. -/
def execOwnerLostClearing (s : State) : Out :=
  s.service 0x04 true false fun s r =>
    let v := r.vf
    let base := (r.a 1).toNat
    let len := (r.a 2).toNat
    if base % 4 ≠ 0 ∨ len % 4 ≠ 0 ∨ 2 ^ 36 < len then s.refusal 2
    else
      let hit (e : Nat × HomeState) : Bool :=
        e.1 / 2 ^ 56 == v && decide (base ≤ e.1 % 2 ^ 56 * 4) && decide (e.1 % 2 ^ 56 * 4 < base + len)
          && (match e.2 with | .ownerLost .. => true | _ => false)
      ⟨(s.home.filter hit).foldl (fun t e =>
        let wd := e.1 % 2 ^ 56
        match t.locate v 0 (4 * wd) with
        | some (_, ma, k) =>
          ((((t.useKey ma k.kidx).writeMask (ma / 8 * 8) 0 (if wd % 2 = 0 then 0x0F else 0xF0)).setHome v wd .unregistered).wakeWord
            v wd)
        | none => t) s, 0, []⟩
/-- An await belongs to a record that waits at the residency gate. -/
def State.recordGated (s : State) (a : Await) : Bool :=
  s.awaits.any fun b => s.atGate b && b.vf == a.vf && b.die == a.die && b.start.task.record == a.start.task.record
/-- THE INDEX RESET of a queue (R305, R342): records waiting at the gate are abandoned, with the tasks of theirs that await counters; what has
been started or offered, and the tasks of other records that await counters, are not touched. -/
def State.resetQueue (s : State) (v q : Nat) (x : BitVec 32) : State :=
  let gone := s.awaits.filter fun a => a.vf == v && a.queue == q && s.recordGated a
  let t := { s with
    awaits := s.awaits.filter fun a => !(gone.contains a)
    watches := s.watches.filter fun w => match w.who with
      | .queue v' q' _ => !(v' == v && q' == q)
      | .die d n => !(gone.any fun a => a.die == d && a.id == n)
      | _ => true }
  let ds := s.partDies (s.partOfVf v)
  t.updVf v fun f => f.updQueue q fun h =>
    { h with
      widx := x, kick := x, consumed := ds.foldl (fun m d => SMap.put 0 m d x) [], state := .running, dies := [], waits := []
      stopAt := none, open_ := [], resets := h.resets + 1 }
/-- QUEUE_CONTROL, service 0x05 (R305, R342): the index reset, which waits until every die has finished with the record that it reads or
checks. In ERROR the queues of the VF stay Stopped (R344): it is refused. DEDUCED, unsafe: log entry 48. -/
def execQueueControl (s : State) : Out :=
  let busy (r : Request) : Bool :=
    r.number == 0x05 && (s.partDies (s.partOfVf r.vf)).any fun d => s.dieBusy r.vf (r.a 1).toNat d
  if s.requests.head?.any busy then .next s
  else s.service 0x05 true true fun s r =>
    let q := (r.a 1).toNat
    if 16 ≤ q ∨ 2 ^ 32 ≤ (r.a 2).toNat then s.refusal 2
    else if (s.vf r.vf).tdi = .error then s.refusal 4
    else ⟨s.resetQueue r.vf q ((r.a 2).truncate 32), 0, []⟩

/-- A DVA's leaf places it in a range entry of the VF. -/
def State.entryMaps (s : State) (e : RangeEntry) (va : Nat) : Bool :=
  match s.walkVa 0 va with
  | .leaf l lv _ => e.covers (leafIpa l lv va)
  | _ => false
/-- The pages of a queue's ring: the DVA of each. -/
def HostQueue.ringPages (q : HostQueue) : List Nat :=
  (List.range ((q.base % 65536 + 64 * 2 ^ q.z + 65535) / 65536)).map fun i => (q.base / 65536 + i) * 65536
/-- The entry maps some page of a queue ring of the VF (R344). -/
def State.mapsRing (s : State) (v : Nat) (e : RangeEntry) : Bool :=
  (s.vf v).queues.any fun q => q.2.ringPages.any fun va => s.entryMaps e va
/-- A range entry as its fields hold what is written: reserved bits are ignored (R8, R295). -/
def RangeEntry.masked (r : RangeEntry) : RangeEntry :=
  ⟨r.w0 &&& 0x80FFFFFFFFFF0000, r.w1 &&& 0x00FFFFFFFFFF0000, r.w2 &&& 0x000FFFFFFFFF0000, r.w3 &&& 0xFFF⟩
/-- LIMIT of a range entry is above its BASE (R295). -/
def RangeEntry.formed (r : RangeEntry) : Bool := decide (r.base < r.limit)
/-- n bytes at a machine address lie in HBM below the firmware-reserved area, or in the populated extent of one fabric window
(R300, R397). -/
def State.framesExist (s : State) (a n : Nat) : Bool :=
  let k := windowOf a
  decide (a + n ≤ fwBase) || (inFabric a && decide (a + n ≤ fabricBase + k * windowSize + (SMap.get {} s.windows k : Window).extent))
/-- The machine range of an entry lies where tenant frames are (R295). -/
def State.rangeLies (s : State) (r : RangeEntry) : Bool := s.framesExist r.mbase (r.limit - r.base)
/-- The bytes at a machine address. -/
def State.bytesAt (s : State) (a n : Nat) : List Byte := (List.range n).map fun i => s.byte (a + i)
/-- Where the log window's receipts lie in firmware's area. DESIGN CHOICE, safe: log entry 43. -/
def receiptAt (off : Nat) : Nat := fwBase + off
/-- A receipt at an offset of the log window is genuine (R353): its magic, its identity and its signature. -/
def State.receiptOk (s : State) (off kind : Nat) : Bool :=
  let a := receiptAt off
  decide (off % 512 = 0) && decide (off < 65536) && s.read32 a == 0x5A534352 && s.bytesAt (a + 4) 4 == leBytes 2 1 ++ leBytes 2 kind
    && s.bytesAt (a + 0x28) 32 == Config.identity && s.bytesAt (a + 0x180) 114 == Config.signature (s.bytesAt a 0x180)
/-- A kind-1 receipt covers a machine frame. -/
def State.receiptCovers (s : State) (off fr : Nat) : Bool :=
  let a := receiptAt off
  (List.range (min 16 (s.read64 (a + 0x48)).toNat)).any fun i =>
    let b := (s.read64 (a + 0x50 + 16 * i)).toNat
    let n := (s.read64 (a + 0x58 + 16 * i)).toNat
    decide (b ≤ 65536 * fr) && decide (65536 * fr + 65536 ≤ b + n)
/-- The frames that an entry maps. -/
def RangeEntry.frames (r : RangeEntry) : List Nat := (List.range ((r.limit - r.base) / 65536)).map fun i => r.mbase / 65536 + i
/-- The install check of R354. -/
def State.installOk (s : State) (r : RangeEntry) (off : Nat) : Bool :=
  s.receiptOk off 1 && r.frames.all fun fr =>
    s.receiptCovers off fr && decide ((SMap.get 0 s.releaseEpochs fr : Nat) < (s.read64 (receiptAt off + 0x10)).toNat)
/-- RANGE_INSTALL_AND_REMOVAL, service 0x06 (R295, R352, R354): an entry with V = 0 removes, any other takes the place of what is there;
the ATB entries of the VF are removed. DEDUCED, unsafe: log entry 49. -/
def execRangeInstallAndRemoval (s : State) : Out :=
  s.service 0x06 false true fun s r =>
    let v := (r.a 1).toNat
    let i := (r.a 2).toNat
    if 256 ≤ v ∨ 48 ≤ i ∨ argBad (r.a 3) 4 = true then s.refusal 2
    else
      let e : RangeEntry := (⟨s.argWord (r.a 3) 0, s.argWord (r.a 3) 1, s.argWord (r.a 3) 2, s.argWord (r.a 3) 3⟩ : RangeEntry).masked
      let old : RangeEntry := SMap.get {} (s.vf v).ranges i
      let put (t : State) (x : RangeEntry) : State :=
        ((t.updVf v fun f => { f with ranges := SMap.put {} f.ranges i x }).dropAtbs fun a => a.vf == v).pruneHints
      let removed : State :=
        if old.valid then put ({ s with epoch := s.epoch + 1 }.releaseFrames v fun x => x == old) {} else s
      if s.pfLocked r v && (s.mapsRing v old || s.mapsRing v e) then s.refusal 4
      else if !e.valid then ⟨removed, 0, []⟩
      else if !e.formed || !(e.kidx == v || e.kidx == 256) then s.refusal 2
      else if (s.vf v).ranges.any (fun x => x.1 != i && x.2.valid && decide (x.2.base < e.limit) && decide (e.base < x.2.limit)) then
        s.refusal 1
      else if !(s.rangeLies e) || !(removed.installOk e (r.a 4).toNat) then s.refusal 1
      else ⟨put { removed with epoch := removed.epoch + 1 } e, 0, []⟩

/-- A receipt is written, signed, and its offset in the log window returned (R353). -/
def State.writeReceipt (s : State) (kind rel prev part : Nat) (head : Nat) (body : List Byte) : State × Nat :=
  let serial := s.receiptSerial + 1
  let front := leBytes 4 0x5A534352 ++ leBytes 2 1 ++ leBytes 2 kind ++ leBytes 8 serial ++ leBytes 8 s.epoch ++ leBytes 8 rel
    ++ leBytes 2 prev ++ leBytes 2 part ++ leBytes 4 0 ++ Config.identity ++ leBytes 8 head ++ Config.fixed 256 body ++ leBytes 48 0
  let bytes := front ++ Config.signature front ++ leBytes 14 0
  let off := 512 * ((serial - 1) % 128)
  (({ s with receiptSerial := serial } : State).putBytes (receiptAt off) (Config.fixed 512 bytes), off)
/-- The ranges that a scrub's descriptor names: base and length pairs after its count. -/
def State.scrubRanges (s : State) (d : Word) : List (Nat × Nat) :=
  (List.range (min 16 (s.argWord d 0).toNat)).map fun i => ((s.argWord d (1 + 2 * i)).toNat, (s.argWord d (2 + 2 * i)).toNat)
/-- A VF reaches a word by its tables. -/
def State.reaches (s : State) (v wd : Nat) : Bool := (s.locate v 0 (4 * wd)).isSome
/-- Where the word of a home state lies. -/
def HomeState.place : HomeState → Option Nat
  | .unregistered => none
  | .registered _ ma _ => some ma
  | .ownerLost _ ma => some ma
/-- A kind-1 scrub (R353, R219): frames as zero bytes under key 256, with no poison and with no home state of a word that lies there; watches,
L2 lines and working-set entries of what no VF can reach any more go. DEDUCED, unsafe: log entry 45. -/
def State.scrubFrames (s : State) (l : List (Nat × Nat)) : State :=
  let frs := l.flatMap fun e => (List.range (e.2 / 65536)).map fun i => e.1 / 65536 + i
  let t := frs.foldl (fun t fr => t.zeroFrame fr (t.keyId 256)) s
  { t with
    home := t.home.filter fun e => !(e.2.place.any fun ma => frs.contains (ma / 65536))
    watches := t.watches.filter fun w => t.reaches w.vf w.word
    l2 := t.l2.filter fun e => t.reaches e.vf (e.line * 128)
    vfs := t.vfs.map fun e => (e.1,
      { e.2 with
        recorded := e.2.recorded.filter fun p => t.reaches e.1 (p * 16384)
        wsl := e.2.wsl.map fun x => (x.1, x.2.filter fun p => t.reaches e.1 (p * 16384)) })
    epoch := t.epoch + 1 }
/-- Of frames, the one that was released last: its release epoch, and the VF that held it, 0xFFFF where none did (R352, R353).
DEDUCED, unsafe: log entry 45. -/
def State.lastHeld (s : State) (frs : List Nat) : Nat × Nat :=
  frs.foldl (fun (a : Nat × Nat) fr =>
    let e := SMap.get 0 s.releaseEpochs fr
    let v := SMap.get 0 s.frameVfs fr
    if a.1 < e && v != 0 then (e, v - 1) else a) (0, 0xFFFF)
/-- A kind-2 scrub (R353): the structures of a mask, in the sections of a mask, are as new where they hold a VF's state, and its L2 lines
go. -/
def State.scrubContext (s : State) (v mask secs : Nat) : State :=
  let on (i c : Nat) : Bool := mask.testBit i && secs.testBit (sectionOf c)
  let none' (c : Nat) (b : Option Nat) : Option Nat := if on 2 c && b == some v then none else b
  let t : State :=
    { s with
      l2 := s.l2.filter fun e => e.vf != v
      cores := s.cores.map fun e => (e.1, { e.2 with bobbin0 := none' e.1 e.2.bobbin0, bobbin1 := none' e.1 e.2.bobbin1 })
      epoch := s.epoch + 1 }
  t.updVf v fun f =>
    let x := f.saved
    { f with saved :=
      if mask.testBit 6 then {}
      else
        { x with
          slots := x.slots.map fun e =>
            if on 3 (e.1 / 16) then (e.1, { e.2 with vregs := [], masks := [], vpoison := [], sh := { e.2.sh with x := [], xbad := 0 } }) else e
          cores := x.cores.map fun e =>
            let y := if on 1 e.1 then { e.2 with scratch := [], full := [], spoison := [] } else e.2
            (e.1, if on 4 e.1 then { y with acc := [], accPoison := [], cfg := [] } else y)
          bsram := x.bsram.keep fun k => !(on 5 (k / 32768))
          bscale := x.bscale.keep fun k => !(on 5 (k / 32768))
          bpoison := x.bpoison.keep fun k => !(on 5 (k / 32768)) } }
/-- SCRUB, service 0x07 (R353). The descriptor of kind 1 is a count and its ranges; that of kind 2 is the VF, the structure mask and the
section mask. The subject's flag says that the scrub finds an uncorrectable error: there is no receipt. -/
def execScrub (s : State) : Out :=
  s.service 0x07 false true fun s r =>
    let d := r.a 2
    let receipt (t : State) (x : State × Nat) : Answer := if s.subject.flag then ⟨t, 1, []⟩ else ⟨x.1, 0, [BitVec.ofNat 64 x.2]⟩
    if argBad d 33 then s.refusal 2
    else match (r.a 1).toNat with
    | 1 =>
      let n := (s.argWord d 0).toNat
      let l := s.scrubRanges d
      if n = 0 ∨ 16 < n ∨ l.any (fun e => decide (e.1 % 65536 ≠ 0) || decide (e.2 % 65536 ≠ 0) || !(s.framesExist e.1 e.2)) = true then
        s.refusal 2
      else if s.vfs.any (fun v => v.2.ranges.any fun x => x.2.valid && l.any fun e =>
          decide (x.2.mbase < e.1 + e.2) && decide (e.1 < x.2.mbase + (x.2.limit - x.2.base))) then s.refusal 1
      else
        let (rel, prev) := s.lastHeld (l.flatMap fun e => (List.range (e.2 / 65536)).map fun i => e.1 / 65536 + i)
        let t := s.scrubFrames l
        receipt t (t.writeReceipt 1 rel prev ((s.vf prev).bound.getD 0xFFFF) n (l.flatMap fun e => leBytes 8 e.1 ++ leBytes 8 e.2))
    | 2 =>
      let v := (s.argWord d 0).toNat
      let mask := (s.argWord d 1).toNat
      let secs := bitsOf (s.argWord d 2) 31 0
      if 256 ≤ v ∨ 128 ≤ mask then s.refusal 2
      else if s.running v || (s.vf v).hasRun then s.refusal 1
      else
        let t := s.scrubContext v mask secs
        receipt t (t.writeReceipt 2 (s.vf v).resetEpoch v ((s.vf v).bound.getD 0xFFFF) mask (leBytes 4 secs))
    | _ => s.refusal 2

/-- Service 0x08 by its sub-function (R349). -/
def State.partitionService (s : State) (sub : Nat) (f : State → Request → Answer) : Out :=
  match s.requests with
  | [] => .next s
  | r :: _ => if (r.a 1).toNat = sub then s.service 0x08 false true f else .next s
/-- A partition whose next switch binds the VF. -/
def State.stagedBind (s : State) (v : Nat) : Bool := s.parts.any fun p => p.2.staged.contains (.bind v)
/-- A kind-2 receipt for a VF with a serial is held and still good (R354). -/
def State.contextReceipt (s : State) (v : Nat) (serial : Word) : Bool :=
  (List.range 128).any fun i =>
    let a := receiptAt (512 * i)
    s.receiptOk (512 * i) 2 && s.read64 (a + 8) == serial && decide (((s.read64 (a + 0x20)).toNat % 65536) = v)
      && decide ((s.read64 (a + 0x18)).toNat = (s.vf v).resetEpoch)
/-- The bobbin index of a VF that joins others (R322). -/
def State.indexFor (s : State) (p : Nat) : Nat :=
  let vs := (s.part p).vfs ++ (s.part p).staged.filterMap fun c => match c with | .bind v => some v | _ => none
  let zeros := (vs.filter fun v => (s.vf v).index == 0).length
  if vs.length - zeros < zeros then 1 else 0
/-- BIND_VF, sub-function 0 (R322, R349, R354). -/
def execBindVf (s : State) : Out :=
  s.partitionService 0 fun s r =>
    let v := (r.a 2).toNat
    let p := (r.a 3).toNat
    if 256 ≤ v ∨ 32 ≤ p then s.refusal 2
    else if s.pfLocked r v then s.refusal 4
    else
      let x := s.part p
      let staged := (x.staged.filter fun c => match c with | .bind _ => true | _ => false).length
      if !s.identityTrusted || (s.vf v).bound.isSome || s.stagedBind v || decide (64 ≤ x.vfs.length + staged) || x.sections == 0
          || x.importFrom.isSome || !(s.contextReceipt v (r.a 4)) then s.refusal 1
      else
        let i := s.indexFor p
        let t := s.updVf v fun f => { f with index := i }
        ⟨if x.vfs.isEmpty then t.bindNow v p else t.updPart p fun y => { y with staged := y.staged ++ [.bind v] }, 0, [BitVec.ofNat 64 i]⟩
/-- UNBIND_VF, sub-function 1 (R349, R393): the VF is reset first if it has run. -/
def execUnbindVf (s : State) : Out :=
  s.partitionService 1 fun s r =>
    let v := (r.a 2).toNat
    if 256 ≤ v then s.refusal 2
    else if s.pfLocked r v then s.refusal 4
    else match (s.vf v).bound with
    | none => s.refusal 1
    | some p =>
      let t := if (s.vf v).hasRun then s.resetVf v else s
      ⟨if s.running v then t.updPart p fun y => { y with staged := y.staged ++ [.unbind v] } else t.unbindNow v, 0, []⟩
/-- HOME_MASK_ENTRY, sub-function 2 (R209, R349). -/
def execHomeMaskEntry (s : State) : Out :=
  s.partitionService 2 fun s r =>
    let p := (r.a 2).toNat
    let i := (r.a 3).toNat
    if 32 ≤ p ∨ 16 ≤ i ∨ 2 ^ 32 ≤ (r.a 4).toNat then s.refusal 2
    else
      ⟨s.updPart p fun y => { y with staged := y.staged ++ [.homeMask i ((r.a 4).truncate 32)] }, 0,
        [zx (SMap.get 0 (s.part p).masks i : BitVec 32)]⟩
/-- A schedule entry is in range and names a bound VF (R324); its reserved bits are ignored (R8). -/
def schedOk (bound : List Nat) (e : Word) : Bool :=
  bound.contains (schedVf e) && decide (50 ≤ schedLen e) && decide (schedLen e ≤ 1000000) && decide (schedLead e ≤ 1000)
    && decide (schedPre e ≤ 1000)
/-- SCHEDULE_ENTRY, sub-function 3 (R324, R349): entries are staged; the final flag commits them, or the whole schedule is refused. -/
def execScheduleEntry (s : State) : Out :=
  s.partitionService 3 fun s r =>
    let p := (r.a 2).toNat
    let i := (r.a 3).toNat
    if 32 ≤ p ∨ 64 ≤ i ∨ 2 ≤ (r.a 5).toNat then s.refusal 2
    else
      let t := s.updPart p fun y => { y with stagedEntries := SMap.put 0 y.stagedEntries i (r.a 4) }
      if r.a 5 = 0 then ⟨t, 0, []⟩
      else
        let l := (List.range (i + 1)).map fun k => (SMap.get 0 (t.part p).stagedEntries k : Word)
        let u := t.updPart p fun y => { y with stagedEntries := [] }
        if l.all (schedOk (t.part p).vfs) then ⟨u.updPart p fun y => { y with scheduleNext := some l }, 0, []⟩
        else u.refusal 1
/-- ADD_SECTION, sub-function 4 (R323, R349). -/
def execAddSection (s : State) : Out :=
  s.partitionService 4 fun s r =>
    let p := (r.a 2).toNat
    let sec := (r.a 3).toNat
    if 32 ≤ p ∨ 32 ≤ sec then s.refusal 2
    else if s.partOfSection sec ≠ 32 ∨ s.parts.any (fun x => x.2.staged.contains (.addSection sec)) = true ∨ !s.identityTrusted then
      s.refusal 1
    else if (s.part p).vfs.isEmpty then ⟨((s.addSectionNow p sec).recordLayout p).writeSelvedge p, 0, []⟩
    else ⟨s.updPart p fun y => { y with staged := y.staged ++ [.addSection sec] }, 0, []⟩
/-- REMOVE_SECTION, sub-function 5 (R323, R349). -/
def execRemoveSection (s : State) : Out :=
  s.partitionService 5 fun s r =>
    let p := (r.a 2).toNat
    let sec := (r.a 3).toNat
    if 32 ≤ p ∨ 32 ≤ sec then s.refusal 2
    else if (s.part p).hasSection sec = false ∨ (s.part p).vfs.all s.quiescent = false then s.refusal 1
    else if (s.part p).vfs ≠ [] ∧ (s.partSections p).all (fun n => n == sec || (s.part p).staged.contains (.removeSection n)) = true then
      s.refusal 1
    else if (s.part p).vfs.isEmpty then ⟨(s.removeSectionNow p sec).recordLayout p, 0, []⟩
    else ⟨s.updPart p fun y => { y with staged := y.staged ++ [.removeSection sec] }, 0, []⟩
/-- READ_CONFIGURATION, sub-function 6 (R349). -/
def execReadConfiguration (s : State) : Out :=
  s.partitionService 6 fun s r =>
    let x := s.part (r.a 2).toNat
    if 32 ≤ (r.a 2).toNat then s.refusal 2
    else ⟨s, 0, [zx x.sections, zx x.gen, BitVec.ofNat 64 x.vfs.length]⟩

/-- The tenant frame pool: HBM frames below the firmware-reserved area (R334). -/
def tenantPool : Nat := fwBase / 65536
/-- ALLOW of a VF as it will be. -/
def Vf.allowNext (f : Vf) : Nat := bitsOf (f.tier0Next.getD f.tier0) 63 32
/-- The sum of the largest ALLOW of each partition's VFs (R334). -/
def State.allowSum (s : State) : Nat := (s.parts.map fun p => (p.2.vfs.map fun v => (s.vf v).allowNext).foldl max 0).sum
/-- TIER, service 0x09 (R334): QUOTA, PIN and RR at once, ALLOW at the next switch-in; the pool is reported. Reserved bits are ignored
(R8). -/
def execTier (s : State) : Out :=
  s.service 0x09 false true fun s r =>
    let v := (r.a 1).toNat
    let w0 := r.a 2
    let w1 := r.a 3 &&& 0x101FF
    let pool : List Word := [BitVec.ofNat 64 tenantPool]
    if 256 ≤ v ∨ 256 < bitsOf w1 8 0 then s.refusal 2
    else if s.pfLocked r v then s.refusal 4
    else
      let t := s.updVf v fun f =>
        { f with tier0 := BitVec.ofNat 64 (f.allow * 2 ^ 32 + bitsOf w0 31 0), tier0Next := some w0, tier1 := w1 }
      if tenantPool < t.allowSum then ⟨s, 1, pool⟩ else ⟨t, 0, pool⟩
/-- VF_CONFIGURATION, service 0x0A (R338): effective at the VF's next switch-in; reserved bits are ignored (R8). -/
def execVfConfiguration (s : State) : Out :=
  s.service 0x0A false true fun s r =>
    let v := (r.a 1).toNat
    if 256 ≤ v then s.refusal 2
    else if s.pfLocked r v then s.refusal 4
    else ⟨s.updVf v fun f => { f with featureNext := some ((r.a 2).truncate 32 &&& 0xFF) }, 0, []⟩

/-- The sum of one column of a range's counts over the dies (R355). -/
def LogRange.sum (r : LogRange) (k : Nat) : Nat := ((List.range 8).map fun d => (SMap.get 0 r.counts (8 * d + k) : Nat)).sum
/-- THE END OF A LOG WINDOW (R355, R356): every watched range emits a seal record with its sums, behind the first-touch records of the window,
and counts anew. -/
def Vf.sealLog (v : Vf) (time : Word) (now : Nat) : Vf :=
  let v := v.flushLog
  let w := v.logRanges.foldl (fun (w : Vf) e =>
    let r := e.2
    w.emitLog time (BitVec.ofNat 64 (r.sum 0 % 2 ^ 32 + r.sum 1 % 2 ^ 32 * 2 ^ 32))
      (BitVec.ofNat 64 (2 + e.1 * 256 + (r.sum 2 + r.sum 3 + r.sum 4) % 2 ^ 32 * 2 ^ 32))) v
  { w with logRanges := w.logRanges.map fun e => (e.1, { e.2 with counts := [], touched := [] }), logStart := now }
/-- LOG_WINDOW_END (R355) of the subject's VF. -/
def execLogWindowEnd (s : State) : Out :=
  let v := s.subject.vf
  let f := s.vf v
  if f.logWindow ≠ 0 ∧ f.logStart + micros (1000 * f.logWindow) ≤ s.cycle.toNat then
    .next (s.updVf v fun f => f.sealLog (s.timeOn 0) s.cycle.toNat)
  else .next s
/-- What PF BAR 0 + 0x2_0000 shows (R356, R394): the unread log records of the VF selected, else the dump words read last. -/
def State.pfLogWindow (s : State) : List Word :=
  match s.logSelect with
  | some v => (s.vf v).logRing.flatten
  | none => s.logWindow
/-- LOG_CONFIGURATION, service 0x0B (R355, R356): range indices 0 to 15 configure a watched range, which ends the current window; the
model's firmware takes index 16 to select the VF's log for the window, and 17 to acknowledge as many records as the base argument.
DESIGN CHOICE, unsafe: log entry 46. -/
def execLogConfiguration (s : State) : Out :=
  s.service 0x0B false true fun s r =>
    let v := (r.a 1).toNat
    let i := (r.a 2).toNat
    let b := (r.a 3).toNat
    let l := (r.a 4).toNat
    let ms := (r.a 5).toNat
    if 256 ≤ v ∨ 17 < i then s.refusal 2
    else if i = 16 then ⟨{ s with logSelect := some v }, 0, []⟩
    else if i = 17 then ⟨s.updVf v fun f => { f with logRing := f.logRing.drop b }, 0, []⟩
    else if b % 65536 ≠ 0 ∨ l % 65536 ≠ 0 ∨ ms = 0 ∨ 1000 < ms ∨ 2 ^ 56 < l then s.refusal 2
    else
      ⟨s.updVf v fun f =>
        let g := f.sealLog (s.timeOn 0) s.cycle.toNat
        { g with logRanges := SMap.put {} g.logRanges i { base := b, limit := l }, logWindow := ms, logChain := [] }, 0, []⟩

/-- PAGE_TABLE, service 0x0C (R347, R293): one entry of a table in the firmware-reserved area, then the ATB entries package-wide; pages that it
unmaps lose their hints (R337), and pages whose leaf it changes their clean copies (R392). -/
def execPageTable (s : State) : Out :=
  s.service 0x0C false true fun s r =>
    let t := (r.a 1).toNat
    let i := (r.a 2).toNat
    if t % 8192 ≠ 0 ∨ 1024 ≤ i ∨ inFwArea t = false then s.refusal 2
    else
      let u := ((s.write64 (t + 8 * i) (r.a 3)).dropAtbs fun _ => true).pruneHints
      ⟨{ u with clean := u.clean.filter fun c => u.pageLeaf c.2.1 == s.pageLeaf c.2.1 }, 0, []⟩
/-- ERRATUM_ENTRY, service 0x0D (R369). -/
def execErratumEntry (s : State) : Out :=
  s.service 0x0D true true fun s r =>
    if 8 ≤ (r.a 1).toNat then s.refusal 2 else ⟨s, 0, [SMap.get 0 s.errata (r.a 1).toNat]⟩

/-- A doubleword of the fatal-error dump (R394), decrypted. -/
def State.dumpWord (s : State) (i : Nat) : Word := wordOf8 fun j => (s.dump.getD []).getD (8 * i + j) 0
/-- DUMP_READ, service 0x0E (R394): 64 KiB of the dump, decrypted into the log window. -/
def execDumpRead (s : State) : Out :=
  s.service 0x0E false true fun s r =>
    let o := (r.a 1).toNat
    if o % 65536 ≠ 0 ∨ 2 ^ 30 ≤ o then s.refusal 2
    else if s.dump.isNone then s.refusal 1
    else ⟨{ s with logSelect := none, logWindow := (List.range 8192).map fun i => s.dumpWord (o / 8 + i) }, 0, []⟩

/-- A notice reaches a VF of a partition (R99, R410): live, or held with the context of a VF that is not running. -/
def State.noticeVf (s : State) (p det v : Nat) : State :=
  if s.running v then s.raiseNotice p det
  else s.updVf v fun f => { f with saved := { f.saved with
    cores := ((s.partCores p).filter fun c => !(s.inColumn c)).foldl (fun l c =>
      let x : CoreCtx := SMap.get {} l c
      SMap.put {} l c { x with sip := x.sip ||| 0x10000, notice := det }) f.saved.cores } }
/-- A notice reaches every bound VF of a partition (R410). -/
def State.noticeAll (s : State) (p det : Nat) : State := (s.part p).vfs.foldl (fun t v => t.noticeVf p det v) s
/-- EVACUATE, service 0x0F (R410): 0xD.0.2 for every bound VF, at least 1 ms before the switch that halts the partition; the service goes
on. It is refused while the interface of one of them is locked (R344). -/
def execEvacuate (s : State) : Out :=
  s.service 0x0F false true fun s r =>
    let p := (r.a 1).toNat
    let q := (r.a 3).toNat
    let mode := (r.a 4).toNat
    if 32 ≤ p ∨ 32 ≤ q ∨ 2 ≤ mode ∨ 2 ^ 48 ≤ (r.a 2).toNat then s.refusal 2
    else if (s.part p).vfs.any (s.pfLocked r) then s.refusal 4
    else if (s.part p).vfs.isEmpty || (s.part p).evac.isSome then s.refusal 1
    else
      let t := (s.noticeAll p 2).updPart p fun x =>
        { x with evac := some ((r.a 2).toNat, q, mode), notBefore := s.cycle.toNat + micros 1000 }
      ⟨{ t with longs := t.longs ++ [{ req := r }] }, 3, []⟩
/-- OPEN_FOR_IMPORT, service 0x10 (R410): the partition holds sections and no bound VF. -/
def execOpenForImport (s : State) : Out :=
  s.service 0x10 false true fun s r =>
    let p := (r.a 1).toNat
    if 32 ≤ p ∨ 2 ^ 48 ≤ (r.a 2).toNat then s.refusal 2
    else if (s.part p).sections = 0 ∨ (s.part p).vfs ≠ [] ∨ (s.part p).staged ≠ [] then s.refusal 1
    else ⟨s.updPart p fun x => { x with importFrom := some (r.a 2).toNat }, 0, []⟩
/-- A collective of the VF on the group is outstanding (R402): one that has ended counts until it has been tested.
DESIGN CHOICE, unsafe: log entry 97. -/
def Vf.groupBusy (f : Vf) (g : Nat) : Bool := f.coll.any fun e => e.2.held && collGroup e.2.desc == g && e.2.joint.isNone
/-- COLLECTIVE_GROUP, service 0x11 (R402). -/
def execCollectiveGroup (s : State) : Out :=
  s.service 0x11 false true fun s r =>
    let v := (r.a 1).toNat
    let g := (r.a 2).toNat
    let n := (r.a 4).toNat
    if 256 ≤ v ∨ 64 ≤ g ∨ n < 2 ∨ 1024 < n ∨ argBad (r.a 3) (2 * n) = true then s.refusal 2
    else if s.pfLocked r v then s.refusal 4
    else
      let ranks := (List.range n).map fun i => (bitsOf (s.argWord (r.a 3) (2 * i)) 47 0, bitsOf (s.argWord (r.a 3) (2 * i + 1)) 7 0)
      let own := (List.range n).filter fun i => ranks.getD i (0, 0) == (Config.fabricAddress, v)
      if (s.vf v).groupBusy g then s.refusal 1
      else if own.length ≠ 1 then s.refusal 2
      else
        ⟨s.updVf v fun f =>
          { f with
            groups := SMap.put {} f.groups g { ranks := ranks, own := own.headD 0 }
            collPosts := SMap.put 0 f.collPosts g 0
            collEnds := f.collEnds.filter fun x => x.1 != g }, 0, []⟩
/-- INTERRUPT_ROUTING, service 0x12 (R85): effective at the VF's next switch-in; the previous interrupt core is returned. -/
def execInterruptRouting (s : State) : Out :=
  s.service 0x12 true true fun s r =>
    let v := (r.a 1).toNat
    let c := (r.a 2).toNat
    if 256 ≤ v then s.refusal 2
    else if (r.slot.isSome && v != r.vf) || s.pfLocked r v then s.refusal 4
    else if !(s.tenantCore (s.partOfVf v) c) || s.isFenced c then s.refusal 1
    else ⟨s.updVf v fun f => { f with intCoreNext := some c }, 0, [BitVec.ofNat 64 (s.vf v).intCore]⟩
/-- UNKNOWN_SERVICE (R348): a number that no service has, or a sub-function that 0x08 does not have; while another service of the caller is in
progress, 4. -/
def execUnknownService (s : State) : Out :=
  match s.requests with
  | [] => .next s
  | r :: rest =>
    let n := r.number.toNat
    let t : State := { s with requests := rest }
    let say (status : Nat) : Out :=
      let a := (t.inProgress r).getD (t.refusal status)
      .next (a.state.reply r a.status a.values)
    if n = 0 ∨ 0x12 < n then say 5
    else if n = 0x08 ∧ r.slot.isSome = true then .next (t.reply r 4 [])
    else if n = 0x08 ∧ 6 < (r.a 1).toNat then say 2
    else .next s

/-- A VF has gone to another package (R410 steps 4 and 6): it is unbound, and its context here is no more. -/
def State.vfGone (s : State) (v : Nat) : State :=
  (s.unbindNow v).updVf v fun f => { f with saved := {}, hasRun := false, recorded := [], hints := [], remote := [] }
/-- The frames of a VF that has gone to another package are released and scrubbed (R410 step 7, R353). -/
def State.framesGone (s : State) (v : Nat) : State :=
  let l := (s.vf v).ranges.filterMap fun e => if e.2.valid then some (e.2.mbase, e.2.limit - e.2.base) else none
  let t := ({ s with epoch := s.epoch + 1 }.releaseFrames v fun _ => true).updVf v fun f => { f with ranges := [] }
  t.scrubFrames l
/-- The pages of a VF that a post-copy evacuation leaves behind: those outside its recorded set (R410 step 5).
DESIGN CHOICE, unsafe: log entry 100. -/
def State.restPages (s : State) (v : Nat) : List Nat :=
  ((s.leafPages v).flatMap fun x => (List.range x.2).map fun i => x.1 + i).filter fun p => !((s.vf v).recorded.contains p)
/-- The end of an evacuation at the source (R410 step 7): the frames that are left are scrubbed. -/
def State.evacuated (s : State) (p : Nat) : State :=
  ((s.part p).leaving.foldl (fun t e => t.framesGone e.1) s).updPart p fun x => { x with evac := none, leaving := [] }
/-- The VFs of a partition have gone to the target (R410 steps 4 to 6): with everything in mode 0; in mode 1 the pages outside their recorded sets
are still here, to be pulled. -/
def State.sendVfs (s : State) (p mode : Nat) : State :=
  let l := (s.part p).vfs.map fun v => (v, if mode = 0 then [] else s.restPages v)
  ((s.part p).vfs.foldl State.vfGone s).updPart p fun x => { x with leaving := l }
/-- SERVICE_COMPLETION (R348, R410): the service in progress numbered by the subject's item goes on and ends; its status is returned to the next
identical call. The VFs of a halted partition are sent; each page that the target pulls of what is left, the subject's VF and page number, is no
longer needed here; with nothing left the frames are scrubbed. -/
def execServiceCompletion (s : State) : Out :=
  match s.longs[s.subject.item]? with
  | none => .next s
  | some l =>
    let p := (l.req.a 1).toNat
    match (s.part p).evac with
    | none => .next s
    | some (_, _, mode) =>
      if l.reply.isSome || (s.part p).running.isSome then .next s
      else
        let t := if (s.part p).leaving.isEmpty then s.sendVfs p mode
          else s.updPart p fun x => { x with leaving := x.leaving.map fun e =>
            if e.1 = s.subject.vf then (e.1, e.2.filter (· != s.subject.addr / 65536)) else e }
        if (t.part p).leaving.all fun e => e.2.isEmpty then
          let u := t.evacuated p
          .next { u with longs := u.longs.map fun (x : LongService) => if x = l then { x with reply := some [0] } else x }
        else .next t
/-- EVACUATION_TARGET_LOST (R411): the target of the subject's partition is lost before step 6, in which its VFs leave: the service fails with status
1, and the source resumes at its next switch. -/
def execEvacuationTargetLost (s : State) : Out :=
  let p := s.subject.part
  if (s.part p).evac.isNone || !((s.part p).leaving.isEmpty) then .next s
  else
    let t := s.updPart p fun x => { x with evac := none }
    .next { t with longs := t.longs.map fun (x : LongService) =>
      if x.req.number = 0x0F ∧ (x.req.a 1).toNat = p ∧ x.reply.isNone then { x with reply := some [1] } else x }
/-- PARTITION_IMPORT (R410 step 6): what the source sends arrives at the subject's partition, which has been opened for it: page contents
of the subject's VF, its bytes at its address, under the VF's key; and the VFs, which are bound under fresh keys, what has arrived being
re-encrypted; pages that stay on the source are to be pulled. The generation advances, and shuttles whose core is not theirs here wait as frames
for a place (R32). -/
def execPartitionImport (s : State) : Out :=
  let p := s.subject.part
  if (s.part p).importFrom.isNone then .next s
  else
    let a := s.subject.addr
    let frs := (List.range ((a % 65536 + s.subject.bytes.length + 65535) / 65536)).map fun i => a / 65536 + i
    let t := (if s.subject.bytes.isEmpty then s else frs.foldl (fun t fr => t.useKey (fr * 65536) s.subject.vf) s).putBytes a s.subject.bytes
    if s.subject.images.isEmpty then .next t
    else if s.subject.images.any fun im => (s.vf im.vf).bound.isSome then .next t
    else
      let t := t.updPart p fun x => { x with gen := x.gen + 1, importFrom := none }
      let t := s.subject.images.foldl (fun t (im : ImportVf) =>
        let here (c : Nat) : Bool := t.tenantCore p c && !(t.isFenced c)
        let moved := im.saved.slots.filter fun e => !(here (e.1 / 16)) && e.2.life != .free
        let sv := { im.saved with
          slots := im.saved.slots.filter fun e => here (e.1 / 16)
          queued := moved.map (fun e => t.fenceFrame im.vf p e.1 e.2) ++ im.saved.queued }
        ((t.updVf im.vf fun f =>
          { f with
            index := im.index, regs := im.regs, tier0 := im.tier0, tier1 := im.tier1, queues := im.queues, saved := sv
            recorded := im.recorded, remote := im.rest
            keyGen := f.keyGen + 1, hasRun := true }).rekey (t.keyId im.vf) (t.keyId im.vf + 1)).bindNow im.vf p) t
      let t := t.updPart p fun x => { x with shared := decide (1 < x.vfs.length) }
      .next ((t.recordLayout p).writeSelvedge p)

end Sys2Proof.Machine
end

