-- ==== Sys2Proof/Machine/Host.lean ====
section
/-! DEFINITION. What the host does to the package (R8, R302, R305, R341 to R344, R347, R350): writes of the registers of BAR 0, accesses
through BAR 2, and SPDM requests; and the register writes of firmware. A step acts for the subject's VF and queue. -/

namespace Sys2Proof.Machine

/-- A request to the BARs of a VF that exists (R2) is accepted (R344): while the TDI is locked, only in its own IDE stream, which the subject's flag says; in
ERROR never. -/
def State.hostAccepts (s : State) (v : Nat) : Bool :=
  decide (v < 256) && match (s.vf v).tdi with
    | .unlocked => true
    | .locked | .run => s.subject.flag
    | .error => false
/-- A write of the VF's BAR 0 whose source is accepted. -/
def State.vfWrite (s : State) (v : Nat) (f : State → State) : Out := .next (if s.hostAccepts v then f s else s)

/-- KICK (R342, R305): WIDX is set; a lap of the read index makes the queue Lapped; an advance of 1 to 2^Z moves the part's view. -/
def State.kick (s : State) (v q : Nat) (w : BitVec 32) : State :=
  let h := (s.vf v).queue q
  if h.state = .lapped then s
  else
    let n := 2 ^ h.z
    let t := s.updVf v fun f => f.updQueue q fun h => { h with kick := w }
    if n < (w - s.readIndex v q).toNat then
      (t.updVf v fun f => f.updQueue q fun h =>
        { h with state := .lapped, cause := cause 0xE 3 0, stopAt := none }).extEvent v (cause 0xE 3 0) q
    else
      let d := (w - h.widx).toNat
      if 1 ≤ d ∧ d ≤ n then t.updVf v fun f => f.updQueue q fun h => { h with widx := w } else t
/-- KICK (R342) of the subject's queue, with the subject's value. -/
def execKick (s : State) : Out :=
  s.vfWrite s.subject.vf fun s => s.kick s.subject.vf (s.subject.queue % 16) (s.subject.value.truncate 32)
/-- RING (R342): only while the queue is Stopped, and only with Z of 6 to 16. -/
def execRing (s : State) : Out :=
  s.vfWrite s.subject.vf fun s =>
    let w := s.subject.value
    let z := bitsOf w 4 0
    s.updVf s.subject.vf fun f => f.updQueue (s.subject.queue % 16) fun h =>
      if h.state = .stopped ∧ 6 ≤ z ∧ z ≤ 16 then { h with ring := w &&& 0x00FFFFFFFFFFF01F } else h
/-- WBASE (R343). -/
def execWbase (s : State) : Out :=
  s.vfWrite s.subject.vf fun s => s.updVf s.subject.vf fun f => { f with wbase := s.subject.value &&& 0x00FFFFFC00000001 }

/-- What a host's read of a VF's BAR 0 returns at an offset (R8, R303, R341 to R343): all ones where it is not accepted (R344). -/
def State.vfBar0 (s : State) (v off : Nat) : Word :=
  let f := s.vf v
  let q := (off - 0x1000) / 64
  let h := f.queue q
  if !(s.hostAccepts v) then BitVec.allOnes 64
  else if off = 0 then BitVec.ofNat 64 (v * 2 ^ 56 + s.partOfVf v % 32 * 2 ^ 48 + (s.part (s.partOfVf v)).gen.toNat * 2 ^ 32)
  else if 0x1000 ≤ off ∧ off < 0x1400 then
    (match off % 64 with
      | 0x00 => zx h.kick
      | 0x08 => s.statusWord v q
      | 0x10 => s.stateWord v q
      | 0x18 => h.ring
      | 0x20 => zx (s.readIndex v q)
      | _ => 0)
  else if off = 0x2000 then f.wbase
  else if 0x3000 ≤ off ∧ off < 0x3110 then SMap.get 0 f.msix ((off - 0x3000) / 8)
  else if off = 0x3800 then zx f.msixPending
  else 0
/-- The PF device status register (R394, R395): FATAL and READY. -/
def State.deviceStatus (s : State) : Word := (if s.fatal then 1 else 0) ||| (if s.ready then 2 else 0)
/-- What a host's read of PF BAR 0 returns at an offset (R341, R347, R356). DESIGN CHOICE, safe: log entry 12. -/
def State.pfBar0 (s : State) (off : Nat) : Word :=
  if off < 0x1000 then (if off = Config.statusOffset then s.deviceStatus else Config.deviceWord off)
  else if 0x10000 ≤ off ∧ off < 0x10040 then SMap.get 0 s.mailbox.req ((off - 0x10000) / 8)
  else if 0x10080 ≤ off ∧ off < 0x100C0 then SMap.get 0 s.mailbox.reply ((off - 0x10080) / 8)
  else if off = 0x100C0 then (if s.mailbox.done then 1 else 0)
  else if 0x20000 ≤ off ∧ off < 0x30000 then s.pfLogWindow.getD ((off - 0x20000) / 8) 0
  else 0
/-- The host's own access at a DVA (R343): an S-mode access of the VF at the home, which leaves no copy. -/
def State.hostAccess (s : State) (v a n : Nat) (write : Bool) (val : Word) : Res Word :=
  let w : Who := { vf := v, core := s.dieCore v (s.leadDie (s.partOfVf v)), mode := .s, agent := 3, buf := .none }
  let o := a % 8
  let m := byteMask o n
  if write then (s.engineWrite w a (val <<< (8 * o)) m).bind fun t _ => .ok t 0
  else (s.engineRead w a m).bind fun t x => .ok t ((x &&& maskBits m) >>> (8 * o))
/-- BAR2_ACCESS (R343): the subject's access, of the subject's size in bytes within one doubleword, at the offset that the subject's
address gives. The completion's data is left in the subject's value. DESIGN CHOICE, safe: log entry 56. -/
def execBar2Access (s : State) : Out :=
  let v := s.subject.vf
  let write := s.subject.access == .store
  let answer (t : State) (x : Word) : Out := .next (if write then t else { t with subject := { t.subject with value := x } })
  if !(s.hostAccepts v) then answer s (BitVec.allOnes 64)
  else if !(bitOf (s.vf v).wbase 0) then answer s (BitVec.allOnes 64)
  else
    let a := bitsOf (s.vf v).wbase 55 34 * 2 ^ 34 + s.subject.addr % 2 ^ 34
    let done (t : State) : State := t.updVf v fun f => { f with hostWaits := f.hostWaits.erase a }
    match s.hostAccess v a s.subject.size write s.subject.value with
    | .ok t x => answer (done t) x
    | .wait t p => .next ((t.askPull v p true (s.leadDie (s.partOfVf v))).updVf v fun f =>
        { f with hostWaits := if f.hostWaits.contains a then f.hostWaits else f.hostWaits ++ [a] })
    | .fault t c _ =>
      answer ((((done t).updVf v fun f => { f with hostFault := c }).hostInterrupt v 16).extEvent v (cause 0xB 0 3) 0) (BitVec.allOnes 64)

/-- A write of PF BAR 0 (R341, R347): the mailbox's request, its doorbell, and its done bit. DEDUCED, unsafe: log entry 57. -/
def State.pfWrite (s : State) (off : Nat) (w : Word) : State :=
  let b := s.mailbox
  if 0x10000 ≤ off ∧ off < 0x10040 then { s with mailbox := { b with req := SMap.put 0 b.req ((off - 0x10000) / 8) w } }
  else if off = 0x10040 then
    if b.busy || b.done then s
    else
      let dw (i : Nat) : Word := SMap.get 0 b.req i
      let r : Request :=
        { slot := none, vf := bitsOf (dw 0) 23 16, number := BitVec.ofNat 64 (bitsOf (dw 0) 7 0), args := (List.range 5).map fun i => dw (i + 1) }
      { s with mailbox := { b with busy := true }, requests := s.requests ++ [r] }
  else if off = 0x100C0 then { s with mailbox := { b with done := b.done && bitOf w 0 } }
  else s
/-- REGISTER_WRITE (R8): a write of the subject's value to a register that has no row of its own: a CSR (R16), the MSI-X table (R341), the
PF mailbox (R347), or, by firmware, the selvedge register of one of the 32 sections (R2, R221) or the translation root of one of the 8 dies
(R292), with which every ATB entry goes. Every other register or offset ignores it. -/
def execRegisterWrite (s : State) : Out :=
  let w := s.subject.value
  match s.subject.reg with
  | .csr a => s.csrStep a.toNat
  | .vfBar0 v off =>
    s.vfWrite v fun s =>
      if 0x3000 ≤ off ∧ off < 0x3110 then s.updVf v fun f => { f with msix := SMap.put 0 f.msix ((off - 0x3000) / 8) w } else s
  | .pfBar0 off => .next (s.pfWrite off w)
  | .selvedge sec => .next (if sec < 32 then { s with selvedge := SMap.put 0 s.selvedge sec (w.truncate 32 &&& 0xFF7F) } else s)
  | .trr d => .next (if d < 8 then (s.updDie d fun x => { x with trr := w &&& 0x000FFFFFFFFFE001 }).dropAtbs fun _ => true else s)

/-- The bytes that are not zero of a machine range, each with its address. -/
def State.cellBytes (s : State) (base len : Nat) : List Byte := (s.cellsIn base len).flatMap fun e => leBytes 8 e.1 ++ [e.2]
/-- The protection table of a VF (R288): its top table and the leaves that it names. -/
def State.protBytes (s : State) (v : Nat) : List Byte :=
  let top := s.protTable v
  s.cellBytes top 131072 ++ (List.range 16384).flatMap fun i =>
    let e := s.read64 (top + 8 * i)
    if bitOf e 0 then s.cellBytes (bitsOf e 51 16 * 65536) 65536 else []
/-- The state that SPDM measures (R350), block by block: the configuration table and the result of its acceptance (R346), the errata, the fence
map, and the ranges, protection table and features of a VF. -/
def State.measured (s : State) (v : Nat) : List Byte :=
  let f := s.vf v
  Config.measurement 1 ++ Config.measurement 2 ++ Config.ilyono ++ leBytes 1 s.ilyonoReason
    ++ (List.range 8).flatMap (fun i => bytesOfWords [SMap.get 0 s.errata i])
    ++ bytesOfWords (s.cores.filterMap fun e => if e.2.fenced then some (BitVec.ofNat 64 e.1) else none)
    ++ bytesOfWords (s.spares.map fun e => BitVec.ofNat 64 (e.1 * 2 ^ 32 + e.2))
    ++ bytesOfWords (f.ranges.flatMap fun e => [e.2.w0, e.2.w1, e.2.w2, e.2.w3])
    ++ s.protBytes v ++ bytesOfWords [zx f.feature]
/-- SPDM_REQUEST (R350, R391): the security unit of die 0, or its replica on die 7, answers the subject's bytes; the reply lies on the DOE
mailbox. -/
def execSpdmRequest (s : State) : Out :=
  .next (if s.securityDown.contains 0 && s.securityDown.contains 7 then s
    else { s with doe := Config.spdmReply (s.measured s.subject.vf) s.subject.bytes })

end Sys2Proof.Machine
end

