-- ==== Sys2Proof/Machine/Reliability.lean ====
section
/-! DEFINITION. Integrity, repair and bring-up (R386 to R396): the patrol scrubber, lost cores, planned fences, the firmware column's
re-election, fatal errors, bring-up with the acceptance of the Ilyono table (R346), throttling, and the warm reset. -/

namespace Sys2Proof.Machine

/-- FATAL_ERROR (R394, R396): the subject's cause, of class 0xF, on the subject's die. -/
def execFatalError (s : State) : Out :=
  .next (if s.subject.cause.toNat / 64 = 0xF then s.raiseFatal s.subject.cause s.subject.die else s)

/-- An uncorrectable error in a context that lies in a bobbin or a context area (R386): it is restored as a poisoned word of the structure it
belongs to. -/
def SavedCtx.foundError (x : SavedCtx) (kind c n a : Nat) : SavedCtx :=
  let core (f : CoreCtx → CoreCtx) : SavedCtx := { x with cores := SMap.put {} x.cores c (f (SMap.get {} x.cores c)) }
  let slot (f : Slot → Slot) : SavedCtx :=
    { x with slots := x.slots.map fun e => if e.1 = 16 * c + n ∧ e.2.life ≠ .free then (e.1, f e.2) else e }
  match kind with
  | 3 => core fun y => { y with spoison := SMap.put false y.spoison (a / 8) true }
  | 4 => slot fun m => { m with vpoison := SMap.put false m.vpoison (a % 256) true }
  | 5 => { x with bpoison := SMap.put false x.bpoison (32768 * c + a % 32768) true }
  | 6 => core fun y => { y with accPoison := SMap.put false y.accPoison a true, mstat := { y.mstat with psn := true } }
  | 7 => slot fun m => if a % 16 = 0 then m else { m with sh := { m.sh with xbad := m.sh.xbad ||| ((1 : BitVec 16) <<< (a % 16)) } }
  | 8 => core fun y => { y with qd := y.qd.zipIdx.map fun e => if e.2 = a then { e.1 with bad := true } else e.1 }
  | 9 =>
    let y : CoreCtx := SMap.get {} x.cores c
    match y.qk[a]? with
    | some k =>
      if k.op = 6 then x
      else
        let z := core fun y => { y with qk := y.qk.eraseIdx a, mstat := { y.mstat with qkp := true } }
        z.tlFell k.issuer none
    | none => x
  | 10 => core fun y => { y with qa := y.qa.zipIdx.map fun e => if e.2 = a then { e.1 with bad := true } else e.1 }
  | _ => x
/-- The cycles of 24 hours (R387). -/
def day : Nat := micros 86400000000
/-- A correctable error is counted in the error log of its die (R386), and a row that logs 8 in 24 hours is marked for repair (R387). -/
def Die.logError (d : Die) (row : Nat × Nat) (now : Nat) : Die :=
  let old := ((d.rows.find? fun e => e.1 == row).map (·.2)).getD []
  let hits := old.filter (fun t => decide (now < t + day)) ++ [now]
  { d with
    errors := d.errors + 1
    rows := (d.rows.filter fun e => e.1 != row) ++ [(row, hits)]
    repair := if 8 ≤ hits.length ∧ d.repair.contains row = false then d.repair ++ [row] else d.repair }
/-- What the patrol scrubber, or a check, finds in the structure that a code names (R386): an error that is corrected and counted in its
die's log, or a word that is poisoned. DESIGN CHOICE, safe: log entry 58. -/
def State.foundError (s : State) (kind : Nat) : State :=
  let c := s.subject.core
  let a := s.subject.addr
  match kind with
  | 1 => s.updDie s.subject.die fun d => d.logError (c, a) s.cycle.toNat
  | 2 => if machineExists a then s.setPoison a true else s
  | 3 => s.updCtx c fun x => { x with spoison := SMap.put false x.spoison (a / 8) true }
  | 4 => s.updSlot s.subjSlot fun m => if m.life = .free then m else { m with vpoison := SMap.put false m.vpoison (a % 256) true }
  | 5 => s.updCore c fun k => { k with bpoison := SMap.put false k.bpoison (a % 32768) true }
  | 6 => s.updCtx c fun x =>
      { x with
        accPoison := SMap.put false x.accPoison a true
        mstat := { x.mstat with psn := true } }
  | 7 => s.raiseFatal (cause 0xF 0 0) s.subject.die
  | 8 => s.updCtx c fun x =>
      { x with qd := x.qd.zipIdx.map fun e => if e.2 = a then { e.1 with bad := true } else e.1 }
  | 9 =>
    let v := (s.core c).ctx.vf
    let own := (s.homeState v (2 * (a / 8))).owner == some c || (s.homeState v (2 * (a / 8) + 1)).owner == some c
    match (if own then s.locate v (dieOf c) (a / 8 * 8) else none) with
    | some (_, ma, _) => s.setPoison ma true
    | none => s.updCore c fun k =>
        { k with l1bad := k.l1bad ++ [2 * (a / 8), 2 * (a / 8) + 1].filter fun wd => (SMap.get none k.l1 wd).isSome }
  | 10 => s.updSlot s.subjSlot fun m =>
      if m.life = .free ∨ a % 16 = 0 then m
      else { m with sh := { m.sh with xbad := m.sh.xbad ||| ((1 : BitVec 16) <<< (a % 16)) } }
  | 11 => s.updCtx c fun x => { x with qa := x.qa.zipIdx.map fun e => if e.2 = a then { e.1 with bad := true } else e.1 }
  | _ => s.updVf s.subject.vf fun f => { f with saved := f.saved.foundError (kind - 10) c (s.subject.slot % 16) a }
/-- PATROL_SCRUB (R387, R386): a protected word is read and rewritten, its value unchanged; the subject's item says what is found: 0 nothing,
1 a correctable error, in the subject's row of the subject's core, or of HBM where that is 4096, 2 an uncorrectable one in HBM or L2 data, 3 in a scratchpad, 4 in a vector register file, 5 in a B-SRAM, 6 in an
accumulator store, 7 in an L2 tag or home state, 8 a parity error of a row of QD (R186), 9 an uncorrectable error in the core store, 10 in an
integer register, 11 one in an entry of QA, which poisons what the entry enters; 13 to 17 one in a scratchpad, a vector register file, a B-SRAM, an
accumulator store and an integer register of the subject's VF's saved context, 18 to 20 in a row of its QD, a command of its QK and an entry of
its QA. A saved vector queue is empty (R131). -/
def execPatrolScrub (s : State) : Out := .next (s.foundError s.subject.item)
/-- HBM_ROW_SPARING (R389): a row marked for repair, the subject's of its die, is replaced at run time; programs see latency only. -/
def execHbmRowSparing (s : State) : Out :=
  let row := (4096, s.subject.addr)
  .next (s.updDie s.subject.die fun d => { d with rows := d.rows.filter fun e => e.1 != row, repair := d.repair.filter (· != row) })
/-- MESH_LINK_LOSS (R386): the mesh link between the positions of the subject's core and item is removed and routed around; a die bridge,
which the flag marks, is fatal, with the agent that the subject's size gives. -/
def execMeshLinkLoss (s : State) : Out :=
  if s.subject.flag then .next (s.raiseFatal (cause 0xF (s.subject.size % 8) 1) s.subject.die)
  else
    let l := (s.subject.core, s.subject.item)
    .next (if s.meshDown.contains l then s else { s with meshDown := s.meshDown ++ [l] })
/-- SECURITY_UNIT_LOSS (R391, R350) of the subject's die, 0 or 7: with both lost the part raises 0xF.0.2. -/
def execSecurityUnitLoss (s : State) : Out :=
  let d := s.subject.die
  if (d = 0 ∨ d = 7) ∧ s.securityDown.contains d = false then
    let t := { s with securityDown := s.securityDown ++ [d] }
    .next (if t.securityDown.contains 0 && t.securityDown.contains 7 then t.raiseFatal (cause 0xF 0 2) d else t)
  else .next s

/-- A shuttle is lost with its core (R99): a record of it is posted if trec.EN is 1, and nothing is signalled. -/
def State.loseShuttle (s : State) (k : Nat) : State :=
  let m := s.slot k
  let held := m.life != .free && m.life != .reserved && m.life != .sent
  let t := (s.dropWatches (.slot k)).freeSlotOf k
  let t : State :=
    { t with
      offers := t.offers.filter fun o => !(match o.issuer with | some (j, _) => j == k | none => false)
      cores := t.cores.map fun e => (e.1, { e.2 with ctx := { e.2.ctx with waiters := e.2.ctx.waiters.filter fun y => y.shid != k } }) }
  if held then t.recordLoss k m else t
/-- The queued commands of a lost matrix core are abandoned (R185): each issuer's TL falls, with a deferred fault. -/
def State.abandonQk (s : State) (c : Nat) : State :=
  ((s.core c).ctx.qk.filter fun q => q.op != 6 && q.issuer / 16 != c).foldl (fun t q =>
    (t.dropTl q.issuer).holdDeferred q.issuer
      { cause := cause 8 3 4, under := cause 8 3 1, tval := q.word, queue := 17, order := q.id }) s
/-- CORE_LOSS (R99, R218, R389): the subject's core is lost to an uncorrectable error. Its context and its buffered stores are gone, but for a
pending timer bit (R85); its registrations become Owner-lost, Queued frames that name it go elsewhere, the VF is given 0xD.0.3, as is each VF
that is not running and has saved shuttles there, and the core is treated as fenced from now on. DEDUCED, unsafe: log entry 62. -/
def execCoreLoss (s : State) : Out :=
  let c := s.subject.core
  if !(coreExists c) || s.isFenced c || s.fatal then .next s
  else
    let v := (s.core c).ctx.vf
    let t := (s.abandonQk c).signalWhere fun _ w => match w with
      | .fullEmpty a _ => windowCore a.toNat == c
      | .matrix | .queue _ => true
      | _ => false
    let t := ((List.range (slotCount c)).map fun i => c * 16 + i).foldl State.loseShuttle t
    let t := t.updCore c fun k => { lost := true, ctx := { vf := k.ctx.vf, sip := k.ctx.sip &&& 0x20 } }
    let t := { t with queued := t.queued.map (Frame.unnamed · c) }.loseOwned v fun o => o == c
    let p := t.partOfCore c
    let hit (v : Nat) : Bool := t.running v || (t.vf v).saved.slots.any fun e => e.1 / 16 == c && e.2.life != .free && e.2.life != .reserved
    .next (((t.part p).vfs.filter hit).foldl (fun t v => t.noticeVf p 3 v) t)

/-- The sections that a fence takes away, and the change that it stages for a partition (R390). -/
def FenceTarget.staged (s : State) (p : Nat) : FenceTarget → List Staged
  | .core c => if s.inPart p c then [.fenceCore c] else []
  | .section_ sec => if (s.part p).hasSection sec then [.fenceSection sec] else []
  | .die d =>
    let l := (s.partSections p).filter fun sec => sec / 4 == d
    if l.isEmpty then [] else l.map Staged.fenceSection ++ [.clearStacks d]
/-- A partition would keep no section (R390). -/
def FenceTarget.empties (s : State) (p : Nat) : FenceTarget → Bool
  | .core _ => false
  | .section_ sec => (s.partSections p).all fun x => x == sec
  | .die d => (s.partSections p).all fun x => x / 4 == d
/-- A fence that concerns no partition waits for no switch (R389, R390). -/
def FenceTarget.now (s : State) : FenceTarget → State
  | .core c => s.fenceNow 32 c false
  | .section_ sec => s.fenceCores sec
  | .die d => (s.clearStacks d).fenceDie d
/-- PLANNED_FENCE (R390) of the subject's target: 0xD.0.3 on every core of each affected partition, at least 1 ms before the switch that
applies it. A partition that would keep no section is evacuated first, to the fabric address, partition and mode of the subject (R410). -/
def execPlannedFence (s : State) : Out :=
  let f := s.subject.fence
  let one (t : State) (p : Nat) : State :=
    match f.staged s p with
    | [] => t
    | l =>
      let r : Request :=
        { slot := none, vf := 0, number := 0x0F
          args := [BitVec.ofNat 64 p, BitVec.ofNat 64 s.subject.addr, BitVec.ofNat 64 s.subject.item, s.subject.value, 0] }
      let leave := f.empties s p && !((s.part p).vfs.isEmpty)
      let u := (t.noticeAll p 3).updPart p fun x =>
        { x with
          staged := x.staged ++ l
          notBefore := s.cycle.toNat + micros 1000
          evac := if leave then some (s.subject.addr, s.subject.item, s.subject.value.toNat % 2) else x.evac }
      if leave then { u with longs := u.longs ++ [{ req := r }] } else u
  .next (if s.fatal then s
    else if (List.range 32).all fun p => (f.staged s p).isEmpty then f.now s
    else (List.range 32).foldl one s)

/-- FIRMWARE_REELECTION (R391): a heartbeat of the primary arrives, which the flag says, or is missed. After three are missed the standby with
the lowest role entry becomes primary and the failed core is treated as fenced, its shuttles are lost (R99), and it leaves the core map at the next
switch (R389, R209); with no standby left the part raises 0xF.0.3.
DESIGN CHOICE, unsafe: log entry 59. -/
def execFirmwareReelection (s : State) : Out :=
  if s.subject.flag then .next { s with heartbeats := 0 }
  else if s.heartbeats + 1 < 3 then .next { s with heartbeats := s.heartbeats + 1 }
  else
    let old := s.primary
    let rest := s.column.filter fun e => e.1 != old
    let mine := (s.slots.filter fun e => e.1 / 16 == old).map (·.1)
    let t := mine.foldl (fun t k => if (t.slot k).sh.mode = .m then t.freeSlotOf k else t.loseShuttle k) { s with heartbeats := 0 }
    let t := t.updCore old fun k => { k with lost := true }
    match rest.find? fun e => e.2 == 1 with
    | some e => .next { t with column := rest.map fun (x : Nat × Nat) => if x = e then (x.1, 0) else x }
    | none => .next ({ t with column := rest }.raiseFatal (cause 0xF 0 3) (dieOf old))

/-- CLOCK_THROTTLE (R396): the arithmetic clock runs lower by the subject's number of steps of 106.25 MHz, at most 4 (425 MHz). -/
def execClockThrottle (s : State) : Out := .next { s with throttle := min s.subject.item 4 }

/-- A little-endian field of a list of bytes. -/
def leField (l : List Byte) (o n : Nat) : Nat := (List.range n).foldl (fun a i => a + (l.getD (o + i) 0).toNat * 256 ^ i) 0
/-- The bytes from an offset to another are zero. -/
def zeroBytes (l : List Byte) (lo hi : Nat) : Bool := (List.range (hi - lo)).all fun i => l.getD (lo + i) 0 == 0
/-- The role entries of an Ilyono table (R346): core and role. -/
def ilyonoRoles (l : List Byte) : List (Nat × Nat) :=
  (List.range (leField l 6 2)).map fun i => (leField l (0x30 + 8 * i) 8 % 4096, leField l (0x30 + 8 * i) 8 / 4096)
/-- The form of an Ilyono table: magic, version, width, zero fields and roles (R346). -/
def ilyonoFormed (l : List Byte) : Bool :=
  let w := leField l 6 2
  let roles := ilyonoRoles l
  l.length == 1024 && leField l 0 4 == 0x494C594F && leField l 4 2 == 1 && decide (1 ≤ w) && decide (w ≤ 8)
    && zeroBytes l (0x30 + 8 * w) 0xB0 && zeroBytes l 0xF0 0x18E && zeroBytes l 0x200 0x400
    && roles.all (fun e => coreExists e.1 && classOf e.1 == .control && decide (e.2 < 5))
    && decide (((roles.filter fun e => e.2 == 0).length) = 1) && (decide (w < 2) || roles.any fun e => e.2 == 1)
/-- THE RESULT OF THE ACCEPTANCE of the Ilyono table (R346): 0 where it is accepted, else the reason: 1 its signature, 2 the device identity, 3 its
serial, 4 a role on a fenced core, 5 its form. The codes are a DESIGN CHOICE, safe: log entry 101. -/
def State.ilyonoResult (s : State) (l : List Byte) : Nat :=
  if !(Config.verifyConfiguration (Config.fixed 64 (Config.shake256 (l.take 0x18E))) ((l.drop 0x18E).take 114)) then 1
  else if (l.drop 0x10).take 32 ≠ Config.identity then 2
  else if leField l 8 8 < max s.fusedSerial.toNat Config.fusedSerial.toNat then 3
  else if (ilyonoRoles l).any (fun e => (s.core e.1).fenced) then 4
  else if !(ilyonoFormed l) then 5
  else 0
/-- The column without a valid table (R345): core 0 of clusters 0, 4, 8 and 12, the first of them primary. -/
def defaultColumn : List (Nat × Nat) := [(0, 0), (1024, 1), (2048, 1), (3072, 1)]
/-- The level-3 table of the model's firmware (R292). -/
def pageRoot : Nat := fwBase + 0x20000000
/-- What bring-up sets (R395): the fence and spare maps, the column and its selvedge bits, the erratum register, the fabric map, and the
translation roots. DESIGN CHOICE, unsafe: log entry 60. -/
def State.bringUp (s : State) : State :=
  let t := ((List.range 4096).filter fun c => coreExists c && Config.fencedAtBoot c).foldl (fun t c =>
    t.updCore c fun k => { k with fenced := true }) s
  let t : State :=
    { t with
      spares := (List.range 16).foldl (fun m i => SMap.put 0 m i (Config.sparesAtBoot i)) []
      windows := (List.range 8).foldl (fun m k =>
        SMap.put {} m k { extent := min (Config.windowExtent k) windowSize, primary := k,
                          alternate := if Config.windowAlternate k < 8 then some (Config.windowAlternate k) else none }) []
      dies := (List.range 8).foldl (fun m d =>
        SMap.put {} m d { (SMap.get {} m d : Die) with trr := BitVec.ofNat 64 (pageRoot + 1) }) t.dies }
  let l := Config.ilyono
  let t := { t with ilyonoReason := t.ilyonoResult l }
  let t := if t.ilyonoReason = 0 then
      { t with
        column := ilyonoRoles l
        errata := (List.range 8).foldl (fun m k => SMap.put 0 m k (BitVec.ofNat 64 (leField l (0xB0 + 8 * k) 8 % 131072))) []
        fusedSerial := BitVec.ofNat 64 (leField l 8 8), identityTrusted := true }
    else { t with column := defaultColumn, identityTrusted := false }
  let t : State := { t with selvedge := t.column.foldl (fun m e => SMap.put 0 m (sectionOf e.1) 0x20) t.selvedge }
  { t with ready := true }
/-- BRING_UP (R395): from power good, in order; a failure at any step that only the module can tell leaves READY at 0. -/
def execBringUp (s : State) : Out :=
  .next (if s.ready || s.fatal || !((List.range 7).all Config.bootStep) then s else s.bringUp)

/-- WARM_RESET (R394): the part leaves its out-of-service state and is brought up again. The dump, the bytes of memory, the fused serial and
the security unit's epochs survive; every key is new. DESIGN CHOICE, unsafe: log entry 61. -/
def execWarmReset (s : State) : Out :=
  .next
    { State.reset with
      mem := s.mem, poison := s.poison, fkey := s.fkey, pads := s.pads, dump := s.dump, fusedSerial := s.fusedSerial
      epoch := s.epoch, receiptSerial := s.receiptSerial, releaseEpochs := s.releaseEpochs
      vfs := s.vfs.map fun e => (e.1, { keyGen := e.2.keyGen + 1, resetEpoch := e.2.resetEpoch })
      fresh := s.fresh, eager := s.eager, agenda := .event .bringUp {} :: s.agenda }

end Sys2Proof.Machine
end

