-- ==== Sys2Proof/Machine/Fabric.lean ====
section
/-! DEFINITION. The links of the two fabrics (R398, R401, R411): the subject's item numbers the port. -/

namespace Sys2Proof.Machine

/-- Add a port to those whose link is down. -/
def portDown (l : List Nat) (k : Nat) : List Nat := if l.contains k then l else l ++ [k]
/-- CXL_LINK_DOWN (R398, R411): accesses of the windows that it carries go to their alternate port, or raise their cause. -/
def execCxlLinkDown (s : State) : Out := .next { s with cxlDown := portDown s.cxlDown (s.subject.item % 8) }
/-- CXL_LINK_UP (R398): the port carries its windows again. -/
def execCxlLinkUp (s : State) : Out := .next { s with cxlDown := s.cxlDown.erase (s.subject.item % 8) }
/-- UE_PORT_DOWN (R401, R411): traffic sprays over the remaining ports, and no status changes. -/
def execUePortDown (s : State) : Out := .next { s with ueDown := portDown s.ueDown (s.subject.item % 8) }
/-- UE_PORT_UP (R401). -/
def execUePortUp (s : State) : Out := .next { s with ueDown := s.ueDown.erase (s.subject.item % 8) }

end Sys2Proof.Machine
end

