-- ==== Sys2Proof/Machine/Float.lean ====
section
/-! DEFINITION. The Zfinx instructions (R69): FP32 in integer registers, flags accrued in `fflags`. -/

namespace Sys2Proof.Machine

/-- The FP32 operand of an integer register: bits [31:0] (R69). -/
def fpBits (v : Word) : Nat := v.toNat % 2 ^ 32
/-- An FP32 result as a register value: bits [63:32] equal to bit 31 (R69). -/
def fpWord (b : Nat) : Word := sx (BitVec.ofNat 32 b)
/-- Complete with a result and its flags. -/
def State.completeF (s : State) (rd : XReg) (v : Word) (f : FFlags) : State :=
  ((s.updSh fun sh => sh.accrue f).completeX rd v)
/-- A Zfinx instruction: the class, and the rounding mode at issue (R45, R69). -/
def State.zfinx (s : State) (i : Instr) (rm : Option (BitVec 3)) (f : State → Rm → Out) : Out :=
  match rm with
  | none => s.gate i none fun s => f s .rne
  | some r =>
    s.gate i (if (s.sh.rmField r).isNone then some (cause 0 0 0) else none) fun s => f s ((s.sh.rmField r).getD .rne)
/-- A rounded result of an operation. -/
def State.roundF (s : State) (rd : XReg) (rm : Rm) (p : Fp × FFlags) : Out :=
  let r := fp32.round rm p.1
  .next (s.completeF rd (fpWord r.1) (p.2 ||| r.2))
/-- The decoded operand of a register. -/
def State.f (s : State) (r : XReg) : Fp := fp32.decode (fpBits (s.x r))

/-- FADD_S (R69). -/
def execFaddS (rd rs1 rs2 : XReg) (rm : BitVec 3) (s : State) : Out :=
  s.zfinx (.faddS rd rs1 rs2 rm) (some rm) fun s m => s.roundF rd m (Fp.add m (s.f rs1) (s.f rs2))
/-- FSUB_S (R69). -/
def execFsubS (rd rs1 rs2 : XReg) (rm : BitVec 3) (s : State) : Out :=
  s.zfinx (.fsubS rd rs1 rs2 rm) (some rm) fun s m => s.roundF rd m (Fp.add m (s.f rs1) (s.f rs2).negate)
/-- FMUL_S (R69). -/
def execFmulS (rd rs1 rs2 : XReg) (rm : BitVec 3) (s : State) : Out :=
  s.zfinx (.fmulS rd rs1 rs2 rm) (some rm) fun s m => s.roundF rd m ((s.f rs1).mul (s.f rs2))
/-- FDIV_S (R69). -/
def execFdivS (rd rs1 rs2 : XReg) (rm : BitVec 3) (s : State) : Out :=
  s.zfinx (.fdivS rd rs1 rs2 rm) (some rm) fun s m => s.roundF rd m ((s.f rs1).div (s.f rs2))
/-- FSQRT_S (R69). -/
def execFsqrtS (rd rs1 : XReg) (rm : BitVec 3) (s : State) : Out :=
  s.zfinx (.fsqrtS rd rs1 rm) (some rm) fun s m => s.roundF rd m (s.f rs1).sqrt
/-- A sign injection (R69). -/
def State.signInject (s : State) (rd rs1 rs2 : XReg) (mode : Nat) : Out :=
  .next (s.completeX rd (fpWord (fp32.inject mode (fpBits (s.x rs1)) (fpBits (s.x rs2)))))
/-- FSGNJ_S (R69). -/
def execFsgnjS (rd rs1 rs2 : XReg) (s : State) : Out :=
  s.zfinx (.fsgnjS rd rs1 rs2) none fun s _ => s.signInject rd rs1 rs2 0
/-- FSGNJN_S (R69). -/
def execFsgnjnS (rd rs1 rs2 : XReg) (s : State) : Out :=
  s.zfinx (.fsgnjnS rd rs1 rs2) none fun s _ => s.signInject rd rs1 rs2 1
/-- FSGNJX_S (R69). -/
def execFsgnjxS (rd rs1 rs2 : XReg) (s : State) : Out :=
  s.zfinx (.fsgnjxS rd rs1 rs2) none fun s _ => s.signInject rd rs1 rs2 2
/-- A minimum or maximum (R69). -/
def State.minMaxF (s : State) (rd rs1 rs2 : XReg) (wantMax : Bool) : Out :=
  let r := fp32.minMax wantMax (fpBits (s.x rs1)) (fpBits (s.x rs2))
  .next (s.completeF rd (fpWord r.1) r.2)
/-- FMIN_S (R69). -/
def execFminS (rd rs1 rs2 : XReg) (s : State) : Out :=
  s.zfinx (.fminS rd rs1 rs2) none fun s _ => s.minMaxF rd rs1 rs2 false
/-- FMAX_S (R69). -/
def execFmaxS (rd rs1 rs2 : XReg) (s : State) : Out :=
  s.zfinx (.fmaxS rd rs1 rs2) none fun s _ => s.minMaxF rd rs1 rs2 true
/-- A comparison (R69). -/
def State.cmpF (s : State) (c : Cond) (rd rs1 rs2 : XReg) : Out :=
  let r := fcompare c (s.f rs1) (s.f rs2)
  .next (s.completeF rd (bw r.1) r.2)
/-- FEQ_S (R69). -/
def execFeqS (rd rs1 rs2 : XReg) (s : State) : Out := s.zfinx (.feqS rd rs1 rs2) none fun s _ => s.cmpF .eq rd rs1 rs2
/-- FLT_S (R69). -/
def execFltS (rd rs1 rs2 : XReg) (s : State) : Out := s.zfinx (.fltS rd rs1 rs2) none fun s _ => s.cmpF .lt rd rs1 rs2
/-- FLE_S (R69). -/
def execFleS (rd rs1 rs2 : XReg) (s : State) : Out := s.zfinx (.fleS rd rs1 rs2) none fun s _ => s.cmpF .le rd rs1 rs2
/-- FCLASS_S (R69, as published). -/
def execFclassS (rd rs1 : XReg) (s : State) : Out :=
  s.zfinx (.fclassS rd rs1) none fun s _ => .next (s.completeX rd (BitVec.ofNat 64 (2 ^ fp32.classBit (fpBits (s.x rs1)))))
/-- A conversion to a w-bit integer, as published: a NaN gives the largest value; the result is sign-extended from w bits. -/
def State.toIntF (s : State) (rd rs1 : XReg) (rm : Rm) (w : Nat) (signed : Bool) : Out :=
  let v := s.f rs1
  let r : EltOut := if v.isNan then { val := wrap (intMax w signed) w, flags := flagNV } else fpToInt rm w signed v
  .next (s.completeF rd (BitVec.ofInt 64 (sint r.val w)) r.flags)
/-- FCVT_W_S (R69). -/
def execFcvtWS (rd rs1 : XReg) (rm : BitVec 3) (s : State) : Out :=
  s.zfinx (.fcvtWS rd rs1 rm) (some rm) fun s m => s.toIntF rd rs1 m 32 true
/-- FCVT_WU_S (R69). -/
def execFcvtWuS (rd rs1 : XReg) (rm : BitVec 3) (s : State) : Out :=
  s.zfinx (.fcvtWuS rd rs1 rm) (some rm) fun s m => s.toIntF rd rs1 m 32 false
/-- FCVT_L_S (R69). -/
def execFcvtLS (rd rs1 : XReg) (rm : BitVec 3) (s : State) : Out :=
  s.zfinx (.fcvtLS rd rs1 rm) (some rm) fun s m => s.toIntF rd rs1 m 64 true
/-- FCVT_LU_S (R69). -/
def execFcvtLuS (rd rs1 : XReg) (rm : BitVec 3) (s : State) : Out :=
  s.zfinx (.fcvtLuS rd rs1 rm) (some rm) fun s m => s.toIntF rd rs1 m 64 false
/-- A conversion from an integer. -/
def State.fromIntF (s : State) (rd : XReg) (rm : Rm) (v : Int) : Out := s.roundF rd rm (ofSigned v 0 false, 0)
/-- FCVT_S_W (R69). -/
def execFcvtSW (rd rs1 : XReg) (rm : BitVec 3) (s : State) : Out :=
  s.zfinx (.fcvtSW rd rs1 rm) (some rm) fun s m => s.fromIntF rd m (lo32 (s.x rs1)).toInt
/-- FCVT_S_WU (R69). -/
def execFcvtSWu (rd rs1 : XReg) (rm : BitVec 3) (s : State) : Out :=
  s.zfinx (.fcvtSWu rd rs1 rm) (some rm) fun s m => s.fromIntF rd m (lo32 (s.x rs1)).toNat
/-- FCVT_S_L (R69). -/
def execFcvtSL (rd rs1 : XReg) (rm : BitVec 3) (s : State) : Out :=
  s.zfinx (.fcvtSL rd rs1 rm) (some rm) fun s m => s.fromIntF rd m (s.x rs1).toInt
/-- FCVT_S_LU (R69). -/
def execFcvtSLu (rd rs1 : XReg) (rm : BitVec 3) (s : State) : Out :=
  s.zfinx (.fcvtSLu rd rs1 rm) (some rm) fun s m => s.fromIntF rd m (s.x rs1).toNat
/-- FMADD_S (R69): rs1 * rs2 + rs3. -/
def execFmaddS (rd rs1 rs2 rs3 : XReg) (rm : BitVec 3) (s : State) : Out :=
  s.zfinx (.fmaddS rd rs1 rs2 rs3 rm) (some rm) fun s m => s.roundF rd m (Fp.fma m (s.f rs1) (s.f rs2) (s.f rs3))
/-- FMSUB_S (R69): rs1 * rs2 - rs3. -/
def execFmsubS (rd rs1 rs2 rs3 : XReg) (rm : BitVec 3) (s : State) : Out :=
  s.zfinx (.fmsubS rd rs1 rs2 rs3 rm) (some rm) fun s m => s.roundF rd m (Fp.fma m (s.f rs1) (s.f rs2) (s.f rs3).negate)
/-- FNMSUB_S (R69): -(rs1 * rs2) + rs3. -/
def execFnmsubS (rd rs1 rs2 rs3 : XReg) (rm : BitVec 3) (s : State) : Out :=
  s.zfinx (.fnmsubS rd rs1 rs2 rs3 rm) (some rm) fun s m => s.roundF rd m (Fp.fma m (s.f rs1).negate (s.f rs2) (s.f rs3))
/-- FNMADD_S (R69): -(rs1 * rs2) - rs3. -/
def execFnmaddS (rd rs1 rs2 rs3 : XReg) (rm : BitVec 3) (s : State) : Out :=
  s.zfinx (.fnmaddS rd rs1 rs2 rs3 rm) (some rm) fun s m =>
    s.roundF rd m (Fp.fma m (s.f rs1).negate (s.f rs2) (s.f rs3).negate)

end Sys2Proof.Machine
end

