-- ==== Sys2Proof/Machine/Dispatch.lean ====
section
/-! DEFINITION. The dispatch of every instruction and step of the opcode table to its meaning. -/

namespace Sys2Proof.Machine

/-- What an instruction or a step of the opcode table does: one arm per constructor. -/
def exec (i : Instr) (s : State) : Host.Outcome State Fault Refusal :=
  match i with
  | .lui rd imm => Sys2Proof.Machine.execLui rd imm s
  | .auipc rd imm => Sys2Proof.Machine.execAuipc rd imm s
  | .jal rd off => Sys2Proof.Machine.execJal rd off s
  | .jalr rd rs1 imm => Sys2Proof.Machine.execJalr rd rs1 imm s
  | .beq rs1 rs2 off => Sys2Proof.Machine.execBeq rs1 rs2 off s
  | .bne rs1 rs2 off => Sys2Proof.Machine.execBne rs1 rs2 off s
  | .blt rs1 rs2 off => Sys2Proof.Machine.execBlt rs1 rs2 off s
  | .bge rs1 rs2 off => Sys2Proof.Machine.execBge rs1 rs2 off s
  | .bltu rs1 rs2 off => Sys2Proof.Machine.execBltu rs1 rs2 off s
  | .bgeu rs1 rs2 off => Sys2Proof.Machine.execBgeu rs1 rs2 off s
  | .lb rd rs1 imm => Sys2Proof.Machine.execLb rd rs1 imm s
  | .lh rd rs1 imm => Sys2Proof.Machine.execLh rd rs1 imm s
  | .lw rd rs1 imm => Sys2Proof.Machine.execLw rd rs1 imm s
  | .ld rd rs1 imm => Sys2Proof.Machine.execLd rd rs1 imm s
  | .lbu rd rs1 imm => Sys2Proof.Machine.execLbu rd rs1 imm s
  | .lhu rd rs1 imm => Sys2Proof.Machine.execLhu rd rs1 imm s
  | .lwu rd rs1 imm => Sys2Proof.Machine.execLwu rd rs1 imm s
  | .sb rs1 rs2 imm => Sys2Proof.Machine.execSb rs1 rs2 imm s
  | .sh rs1 rs2 imm => Sys2Proof.Machine.execSh rs1 rs2 imm s
  | .sw rs1 rs2 imm => Sys2Proof.Machine.execSw rs1 rs2 imm s
  | .sd rs1 rs2 imm => Sys2Proof.Machine.execSd rs1 rs2 imm s
  | .addi rd rs1 imm => Sys2Proof.Machine.execAddi rd rs1 imm s
  | .slti rd rs1 imm => Sys2Proof.Machine.execSlti rd rs1 imm s
  | .sltiu rd rs1 imm => Sys2Proof.Machine.execSltiu rd rs1 imm s
  | .xori rd rs1 imm => Sys2Proof.Machine.execXori rd rs1 imm s
  | .ori rd rs1 imm => Sys2Proof.Machine.execOri rd rs1 imm s
  | .andi rd rs1 imm => Sys2Proof.Machine.execAndi rd rs1 imm s
  | .slli rd rs1 sh => Sys2Proof.Machine.execSlli rd rs1 sh s
  | .srli rd rs1 sh => Sys2Proof.Machine.execSrli rd rs1 sh s
  | .srai rd rs1 sh => Sys2Proof.Machine.execSrai rd rs1 sh s
  | .add rd rs1 rs2 => Sys2Proof.Machine.execAdd rd rs1 rs2 s
  | .sub rd rs1 rs2 => Sys2Proof.Machine.execSub rd rs1 rs2 s
  | .sll rd rs1 rs2 => Sys2Proof.Machine.execSll rd rs1 rs2 s
  | .slt rd rs1 rs2 => Sys2Proof.Machine.execSlt rd rs1 rs2 s
  | .sltu rd rs1 rs2 => Sys2Proof.Machine.execSltu rd rs1 rs2 s
  | .xor rd rs1 rs2 => Sys2Proof.Machine.execXor rd rs1 rs2 s
  | .srl rd rs1 rs2 => Sys2Proof.Machine.execSrl rd rs1 rs2 s
  | .sra rd rs1 rs2 => Sys2Proof.Machine.execSra rd rs1 rs2 s
  | .or rd rs1 rs2 => Sys2Proof.Machine.execOr rd rs1 rs2 s
  | .and rd rs1 rs2 => Sys2Proof.Machine.execAnd rd rs1 rs2 s
  | .addiw rd rs1 imm => Sys2Proof.Machine.execAddiw rd rs1 imm s
  | .slliw rd rs1 sh => Sys2Proof.Machine.execSlliw rd rs1 sh s
  | .srliw rd rs1 sh => Sys2Proof.Machine.execSrliw rd rs1 sh s
  | .sraiw rd rs1 sh => Sys2Proof.Machine.execSraiw rd rs1 sh s
  | .addw rd rs1 rs2 => Sys2Proof.Machine.execAddw rd rs1 rs2 s
  | .subw rd rs1 rs2 => Sys2Proof.Machine.execSubw rd rs1 rs2 s
  | .sllw rd rs1 rs2 => Sys2Proof.Machine.execSllw rd rs1 rs2 s
  | .srlw rd rs1 rs2 => Sys2Proof.Machine.execSrlw rd rs1 rs2 s
  | .sraw rd rs1 rs2 => Sys2Proof.Machine.execSraw rd rs1 rs2 s
  | .fence fm pred succ rs1 rd => Sys2Proof.Machine.execFence fm pred succ rs1 rd s
  | .fenceI imm rs1 rd => Sys2Proof.Machine.execFenceI imm rs1 rd s
  | .mul rd rs1 rs2 => Sys2Proof.Machine.execMul rd rs1 rs2 s
  | .mulh rd rs1 rs2 => Sys2Proof.Machine.execMulh rd rs1 rs2 s
  | .mulhsu rd rs1 rs2 => Sys2Proof.Machine.execMulhsu rd rs1 rs2 s
  | .mulhu rd rs1 rs2 => Sys2Proof.Machine.execMulhu rd rs1 rs2 s
  | .div rd rs1 rs2 => Sys2Proof.Machine.execDiv rd rs1 rs2 s
  | .divu rd rs1 rs2 => Sys2Proof.Machine.execDivu rd rs1 rs2 s
  | .rem rd rs1 rs2 => Sys2Proof.Machine.execRem rd rs1 rs2 s
  | .remu rd rs1 rs2 => Sys2Proof.Machine.execRemu rd rs1 rs2 s
  | .mulw rd rs1 rs2 => Sys2Proof.Machine.execMulw rd rs1 rs2 s
  | .divw rd rs1 rs2 => Sys2Proof.Machine.execDivw rd rs1 rs2 s
  | .divuw rd rs1 rs2 => Sys2Proof.Machine.execDivuw rd rs1 rs2 s
  | .remw rd rs1 rs2 => Sys2Proof.Machine.execRemw rd rs1 rs2 s
  | .remuw rd rs1 rs2 => Sys2Proof.Machine.execRemuw rd rs1 rs2 s
  | .csrrw rd rs1 csr => Sys2Proof.Machine.execCsrrw rd rs1 csr s
  | .csrrs rd rs1 csr => Sys2Proof.Machine.execCsrrs rd rs1 csr s
  | .csrrc rd rs1 csr => Sys2Proof.Machine.execCsrrc rd rs1 csr s
  | .csrrwi rd uimm csr => Sys2Proof.Machine.execCsrrwi rd uimm csr s
  | .csrrsi rd uimm csr => Sys2Proof.Machine.execCsrrsi rd uimm csr s
  | .csrrci rd uimm csr => Sys2Proof.Machine.execCsrrci rd uimm csr s
  | .faddS rd rs1 rs2 rm => Sys2Proof.Machine.execFaddS rd rs1 rs2 rm s
  | .fsubS rd rs1 rs2 rm => Sys2Proof.Machine.execFsubS rd rs1 rs2 rm s
  | .fmulS rd rs1 rs2 rm => Sys2Proof.Machine.execFmulS rd rs1 rs2 rm s
  | .fdivS rd rs1 rs2 rm => Sys2Proof.Machine.execFdivS rd rs1 rs2 rm s
  | .fsqrtS rd rs1 rm => Sys2Proof.Machine.execFsqrtS rd rs1 rm s
  | .fsgnjS rd rs1 rs2 => Sys2Proof.Machine.execFsgnjS rd rs1 rs2 s
  | .fsgnjnS rd rs1 rs2 => Sys2Proof.Machine.execFsgnjnS rd rs1 rs2 s
  | .fsgnjxS rd rs1 rs2 => Sys2Proof.Machine.execFsgnjxS rd rs1 rs2 s
  | .fminS rd rs1 rs2 => Sys2Proof.Machine.execFminS rd rs1 rs2 s
  | .fmaxS rd rs1 rs2 => Sys2Proof.Machine.execFmaxS rd rs1 rs2 s
  | .fcvtWS rd rs1 rm => Sys2Proof.Machine.execFcvtWS rd rs1 rm s
  | .fcvtWuS rd rs1 rm => Sys2Proof.Machine.execFcvtWuS rd rs1 rm s
  | .fcvtLS rd rs1 rm => Sys2Proof.Machine.execFcvtLS rd rs1 rm s
  | .fcvtLuS rd rs1 rm => Sys2Proof.Machine.execFcvtLuS rd rs1 rm s
  | .fcvtSW rd rs1 rm => Sys2Proof.Machine.execFcvtSW rd rs1 rm s
  | .fcvtSWu rd rs1 rm => Sys2Proof.Machine.execFcvtSWu rd rs1 rm s
  | .fcvtSL rd rs1 rm => Sys2Proof.Machine.execFcvtSL rd rs1 rm s
  | .fcvtSLu rd rs1 rm => Sys2Proof.Machine.execFcvtSLu rd rs1 rm s
  | .feqS rd rs1 rs2 => Sys2Proof.Machine.execFeqS rd rs1 rs2 s
  | .fltS rd rs1 rs2 => Sys2Proof.Machine.execFltS rd rs1 rs2 s
  | .fleS rd rs1 rs2 => Sys2Proof.Machine.execFleS rd rs1 rs2 s
  | .fclassS rd rs1 => Sys2Proof.Machine.execFclassS rd rs1 s
  | .fmaddS rd rs1 rs2 rs3 rm => Sys2Proof.Machine.execFmaddS rd rs1 rs2 rs3 rm s
  | .fmsubS rd rs1 rs2 rs3 rm => Sys2Proof.Machine.execFmsubS rd rs1 rs2 rs3 rm s
  | .fnmsubS rd rs1 rs2 rs3 rm => Sys2Proof.Machine.execFnmsubS rd rs1 rs2 rs3 rm s
  | .fnmaddS rd rs1 rs2 rs3 rm => Sys2Proof.Machine.execFnmaddS rd rs1 rs2 rs3 rm s
  | .shstart rd rs1 rs2 => Sys2Proof.Machine.execShstart rd rs1 rs2 s
  | .shmove rs1 => Sys2Proof.Machine.execShmove rs1 s
  | .shmoveHome rs1 => Sys2Proof.Machine.execShmoveHome rs1 s
  | .ipost ch rs1 => Sys2Proof.Machine.execIpost ch rs1 s
  | .iwait ch rs1 => Sys2Proof.Machine.execIwait ch rs1 s
  | .fenceSAcq sc => Sys2Proof.Machine.execFenceSAcq sc s
  | .fenceSRel sc => Sys2Proof.Machine.execFenceSRel sc s
  | .fenceSAr sc => Sys2Proof.Machine.execFenceSAr sc s
  | .fenceQ rs1 => Sys2Proof.Machine.execFenceQ rs1 s
  | .invR sc rs1 rs2 => Sys2Proof.Machine.execInvR sc rs1 rs2 s
  | .wbR sc rs1 rs2 => Sys2Proof.Machine.execWbR sc rs1 rs2 s
  | .ldAcqW sc rd rs1 => Sys2Proof.Machine.execLdAcqW sc rd rs1 s
  | .ldAcqD sc rd rs1 => Sys2Proof.Machine.execLdAcqD sc rd rs1 s
  | .stRelW sc rs1 rs2 => Sys2Proof.Machine.execStRelW sc rs1 rs2 s
  | .stRelD sc rs1 rs2 => Sys2Proof.Machine.execStRelD sc rs1 rs2 s
  | .tierHintHot rs1 rs2 => Sys2Proof.Machine.execTierHintHot rs1 rs2 s
  | .tierHintCold rs1 rs2 => Sys2Proof.Machine.execTierHintCold rs1 rs2 s
  | .ldfe rd rs1 => Sys2Proof.Machine.execLdfe rd rs1 s
  | .stfe rs1 rs2 => Sys2Proof.Machine.execStfe rs1 rs2 s
  | .ldff rd rs1 => Sys2Proof.Machine.execLdff rd rs1 s
  | .feSetFull rs1 => Sys2Proof.Machine.execFeSetFull rs1 s
  | .feSetEmpty rs1 => Sys2Proof.Machine.execFeSetEmpty rs1 s
  | .qpushQa vs rs1 rs2 => Sys2Proof.Machine.execQpushQa vs rs1 rs2 s
  | .qpushQk rd rs1 rs2 => Sys2Proof.Machine.execQpushQk rd rs1 rs2 s
  | .qpopQd vd rs1 => Sys2Proof.Machine.execQpopQd vd rs1 s
  | .qstatQa rd rs1 => Sys2Proof.Machine.execQstatQa rd rs1 s
  | .qstatQk rd rs1 => Sys2Proof.Machine.execQstatQk rd rs1 s
  | .qstatQd rd rs1 => Sys2Proof.Machine.execQstatQd rd rs1 s
  | .cpy ch rs1 rs2 => Sys2Proof.Machine.execCpy ch rs1 rs2 s
  | .cpy2d ch rs1 rs2 => Sys2Proof.Machine.execCpy2d ch rs1 rs2 s
  | .cpyB ch rs1 rs2 => Sys2Proof.Machine.execCpyB ch rs1 rs2 s
  | .collPostPkg rd rs1 => Sys2Proof.Machine.execCollPostPkg rd rs1 s
  | .collPostSys rd rs1 => Sys2Proof.Machine.execCollPostSys rd rs1 s
  | .collTest rd rs1 => Sys2Proof.Machine.execCollTest rd rs1 s
  | .amoAdd wd ord sc rd rs1 rs2 => Sys2Proof.Machine.execAmoAdd wd ord sc rd rs1 rs2 s
  | .amoAnd wd ord sc rd rs1 rs2 => Sys2Proof.Machine.execAmoAnd wd ord sc rd rs1 rs2 s
  | .amoOr wd ord sc rd rs1 rs2 => Sys2Proof.Machine.execAmoOr wd ord sc rd rs1 rs2 s
  | .amoXor wd ord sc rd rs1 rs2 => Sys2Proof.Machine.execAmoXor wd ord sc rd rs1 rs2 s
  | .amoMin wd ord sc rd rs1 rs2 => Sys2Proof.Machine.execAmoMin wd ord sc rd rs1 rs2 s
  | .amoMax wd ord sc rd rs1 rs2 => Sys2Proof.Machine.execAmoMax wd ord sc rd rs1 rs2 s
  | .amoMinu wd ord sc rd rs1 rs2 => Sys2Proof.Machine.execAmoMinu wd ord sc rd rs1 rs2 s
  | .amoMaxu wd ord sc rd rs1 rs2 => Sys2Proof.Machine.execAmoMaxu wd ord sc rd rs1 rs2 s
  | .amoSwap wd ord sc rd rs1 rs2 => Sys2Proof.Machine.execAmoSwap wd ord sc rd rs1 rs2 s
  | .cas wd ord sc rd rs1 rs2 => Sys2Proof.Machine.execCas wd ord sc rd rs1 rs2 s
  | .vld o v p vd rs1 => Sys2Proof.Machine.execVld o v p vd rs1 s
  | .vst o v p vd rs1 => Sys2Proof.Machine.execVst o v p vd rs1 s
  | .vlds o v vd rs1 rs2 => Sys2Proof.Machine.execVlds o v vd rs1 rs2 s
  | .vsts o v vd rs1 rs2 => Sys2Proof.Machine.execVsts o v vd rs1 rs2 s
  | .vldx o v vd rs1 vi => Sys2Proof.Machine.execVldx o v vd rs1 vi s
  | .vstx o v vd rs1 vi => Sys2Proof.Machine.execVstx o v vd rs1 vi s
  | .vld2 o v p vd rs1 rs2 => Sys2Proof.Machine.execVld2 o v p vd rs1 rs2 s
  | .vst2 o v p vd rs1 rs2 => Sys2Proof.Machine.execVst2 o v p vd rs1 rs2 s
  | .vamoAddClu o ord vd rs1 vi => Sys2Proof.Machine.execVamoAddClu o ord vd rs1 vi s
  | .vamoAndClu o ord vd rs1 vi => Sys2Proof.Machine.execVamoAndClu o ord vd rs1 vi s
  | .vamoOrClu o ord vd rs1 vi => Sys2Proof.Machine.execVamoOrClu o ord vd rs1 vi s
  | .vamoXorClu o ord vd rs1 vi => Sys2Proof.Machine.execVamoXorClu o ord vd rs1 vi s
  | .vamoMinClu o ord vd rs1 vi => Sys2Proof.Machine.execVamoMinClu o ord vd rs1 vi s
  | .vamoMaxClu o ord vd rs1 vi => Sys2Proof.Machine.execVamoMaxClu o ord vd rs1 vi s
  | .vamoSwapClu o ord vd rs1 vi => Sys2Proof.Machine.execVamoSwapClu o ord vd rs1 vi s
  | .vamoAddPkg o ord vd rs1 vi => Sys2Proof.Machine.execVamoAddPkg o ord vd rs1 vi s
  | .vamoAndPkg o ord vd rs1 vi => Sys2Proof.Machine.execVamoAndPkg o ord vd rs1 vi s
  | .vamoOrPkg o ord vd rs1 vi => Sys2Proof.Machine.execVamoOrPkg o ord vd rs1 vi s
  | .vamoXorPkg o ord vd rs1 vi => Sys2Proof.Machine.execVamoXorPkg o ord vd rs1 vi s
  | .vamoMinPkg o ord vd rs1 vi => Sys2Proof.Machine.execVamoMinPkg o ord vd rs1 vi s
  | .vamoMaxPkg o ord vd rs1 vi => Sys2Proof.Machine.execVamoMaxPkg o ord vd rs1 vi s
  | .vamoSwapPkg o ord vd rs1 vi => Sys2Proof.Machine.execVamoSwapPkg o ord vd rs1 vi s
  | .vsetl rd rs1 rows et => Sys2Proof.Machine.execVsetl rd rs1 rows et s
  | .vdepth rd lg => Sys2Proof.Machine.execVdepth rd lg s
  | .vstrip rd rs1 => Sys2Proof.Machine.execVstrip rd rs1 s
  | .vwait md va vb t => Sys2Proof.Machine.execVwait md va vb t s
  | .cwait ld st cp tl => Sys2Proof.Machine.execCwait ld st cp tl s
  | .barInit b rs1 => Sys2Proof.Machine.execBarInit b rs1 s
  | .barArr rd b => Sys2Proof.Machine.execBarArr rd b s
  | .barExp b rs1 => Sys2Proof.Machine.execBarExp b rs1 s
  | .barWait b rs1 => Sys2Proof.Machine.execBarWait b rs1 s
  | .barTest rd b => Sys2Proof.Machine.execBarTest rd b s
  | .vadd x vm vd vs1 vs2 => Sys2Proof.Machine.execVadd x vm vd vs1 vs2 s
  | .vsub x vm vd vs1 vs2 => Sys2Proof.Machine.execVsub x vm vd vs1 vs2 s
  | .vmul x vm vd vs1 vs2 => Sys2Proof.Machine.execVmul x vm vd vs1 vs2 s
  | .vmulh x vm vd vs1 vs2 => Sys2Proof.Machine.execVmulh x vm vd vs1 vs2 s
  | .vmacc x vm vd vs1 vs2 => Sys2Proof.Machine.execVmacc x vm vd vs1 vs2 s
  | .vmin x vm vd vs1 vs2 => Sys2Proof.Machine.execVmin x vm vd vs1 vs2 s
  | .vmax x vm vd vs1 vs2 => Sys2Proof.Machine.execVmax x vm vd vs1 vs2 s
  | .vminu x vm vd vs1 vs2 => Sys2Proof.Machine.execVminu x vm vd vs1 vs2 s
  | .vmaxu x vm vd vs1 vs2 => Sys2Proof.Machine.execVmaxu x vm vd vs1 vs2 s
  | .vand x vm vd vs1 vs2 => Sys2Proof.Machine.execVand x vm vd vs1 vs2 s
  | .vor x vm vd vs1 vs2 => Sys2Proof.Machine.execVor x vm vd vs1 vs2 s
  | .vxor x vm vd vs1 vs2 => Sys2Proof.Machine.execVxor x vm vd vs1 vs2 s
  | .vsll x vm vd vs1 vs2 => Sys2Proof.Machine.execVsll x vm vd vs1 vs2 s
  | .vsrl x vm vd vs1 vs2 => Sys2Proof.Machine.execVsrl x vm vd vs1 vs2 s
  | .vsra x vm vd vs1 vs2 => Sys2Proof.Machine.execVsra x vm vd vs1 vs2 s
  | .vclip x vm vd vs1 vs2 => Sys2Proof.Machine.execVclip x vm vd vs1 vs2 s
  | .vsadd x vm vd vs1 vs2 => Sys2Proof.Machine.execVsadd x vm vd vs1 vs2 s
  | .vssub x vm vd vs1 vs2 => Sys2Proof.Machine.execVssub x vm vd vs1 vs2 s
  | .vsaddu x vm vd vs1 vs2 => Sys2Proof.Machine.execVsaddu x vm vd vs1 vs2 s
  | .vssubu x vm vd vs1 vs2 => Sys2Proof.Machine.execVssubu x vm vd vs1 vs2 s
  | .vwadd x vm vd vs1 vs2 => Sys2Proof.Machine.execVwadd x vm vd vs1 vs2 s
  | .vwmul x vm vd vs1 vs2 => Sys2Proof.Machine.execVwmul x vm vd vs1 vs2 s
  | .vwmacc x vm vd vs1 vs2 => Sys2Proof.Machine.execVwmacc x vm vd vs1 vs2 s
  | .vnsr x vm vd vs1 vs2 => Sys2Proof.Machine.execVnsr x vm vd vs1 vs2 s
  | .vfadd x vm vd vs1 vs2 => Sys2Proof.Machine.execVfadd x vm vd vs1 vs2 s
  | .vfsub x vm vd vs1 vs2 => Sys2Proof.Machine.execVfsub x vm vd vs1 vs2 s
  | .vfmul x vm vd vs1 vs2 => Sys2Proof.Machine.execVfmul x vm vd vs1 vs2 s
  | .vfmacc x vm vd vs1 vs2 => Sys2Proof.Machine.execVfmacc x vm vd vs1 vs2 s
  | .vfnmacc x vm vd vs1 vs2 => Sys2Proof.Machine.execVfnmacc x vm vd vs1 vs2 s
  | .vfdiv x vm vd vs1 vs2 => Sys2Proof.Machine.execVfdiv x vm vd vs1 vs2 s
  | .vfsqrt x vm vd vs1 => Sys2Proof.Machine.execVfsqrt x vm vd vs1 s
  | .vfrece x vm vd vs1 => Sys2Proof.Machine.execVfrece x vm vd vs1 s
  | .vfrsqe x vm vd vs1 => Sys2Proof.Machine.execVfrsqe x vm vd vs1 s
  | .vfmin x vm vd vs1 vs2 => Sys2Proof.Machine.execVfmin x vm vd vs1 vs2 s
  | .vfmax x vm vd vs1 vs2 => Sys2Proof.Machine.execVfmax x vm vd vs1 vs2 s
  | .vfsgnj x vm vd vs1 vs2 => Sys2Proof.Machine.execVfsgnj x vm vd vs1 vs2 s
  | .vfclass x vm vd vs1 => Sys2Proof.Machine.execVfclass x vm vd vs1 s
  | .vcvt x vm src vd vs1 => Sys2Proof.Machine.execVcvt x vm src vd vs1 s
  | .vcvtb x vm vd vs1 vs2 => Sys2Proof.Machine.execVcvtb x vm vd vs1 vs2 s
  | .vdecb x vm vd vs1 vs2 => Sys2Proof.Machine.execVdecb x vm vd vs1 vs2 s
  | .vcmp c vm md vs1 vs2 => Sys2Proof.Machine.execVcmp c vm md vs1 vs2 s
  | .vfcmp c vm md vs1 vs2 => Sys2Proof.Machine.execVfcmp c vm md vs1 vs2 s
  | .vmlog op md ma mb => Sys2Proof.Machine.execVmlog op md ma mb s
  | .vpopc rd ma => Sys2Proof.Machine.execVpopc rd ma s
  | .vfirst rd ma => Sys2Proof.Machine.execVfirst rd ma s
  | .vmerge vm vd vs1 vs2 => Sys2Proof.Machine.execVmerge vm vd vs1 vs2 s
  | .vbcast vm vd rs1 => Sys2Proof.Machine.execVbcast vm vd rs1 s
  | .vmvsx vm vd rs1 => Sys2Proof.Machine.execVmvsx vm vd rs1 s
  | .vslup vm vd vs1 rs2 => Sys2Proof.Machine.execVslup vm vd vs1 rs2 s
  | .vsldn vm vd vs1 rs2 => Sys2Proof.Machine.execVsldn vm vd vs1 rs2 s
  | .vrgath vm vd vs1 vs2 => Sys2Proof.Machine.execVrgath vm vd vs1 vs2 s
  | .vcomp vm vd vs1 => Sys2Proof.Machine.execVcomp vm vd vs1 s
  | .vtrn vd vs1 => Sys2Proof.Machine.execVtrn vd vs1 s
  | .vmvxs rd vs1 => Sys2Proof.Machine.execVmvxs rd vs1 s
  | .vredsum vm vd vs1 vs2 => Sys2Proof.Machine.execVredsum vm vd vs1 vs2 s
  | .vredmax vm vd vs1 vs2 => Sys2Proof.Machine.execVredmax vm vd vs1 vs2 s
  | .vredmin vm vd vs1 vs2 => Sys2Proof.Machine.execVredmin vm vd vs1 vs2 s
  | .vredand vm vd vs1 vs2 => Sys2Proof.Machine.execVredand vm vd vs1 vs2 s
  | .vredor vm vd vs1 vs2 => Sys2Proof.Machine.execVredor vm vd vs1 vs2 s
  | .vfredo vm vd vs1 vs2 => Sys2Proof.Machine.execVfredo vm vd vs1 vs2 s
  | .vfredt vm vd vs1 vs2 => Sys2Proof.Machine.execVfredt vm vd vs1 vs2 s
  | .vfredmax vm vd vs1 vs2 => Sys2Proof.Machine.execVfredmax vm vd vs1 vs2 s
  | .vfredmin vm vd vs1 vs2 => Sys2Proof.Machine.execVfredmin vm vd vs1 vs2 s
  | .mrun fp tag rs1 => Sys2Proof.Machine.execMrun fp tag rs1 s
  | .mcfg fp tag rs1 rs2 => Sys2Proof.Machine.execMcfg fp tag rs1 rs2 s
  | .mzero rs1 rs2 => Sys2Proof.Machine.execMzero rs1 rs2 s
  | .mdrain tag rs1 => Sys2Proof.Machine.execMdrain tag rs1 s
  | .mcpyIn rs1 rs2 => Sys2Proof.Machine.execMcpyIn rs1 rs2 s
  | .mcpyOut rs1 rs2 => Sys2Proof.Machine.execMcpyOut rs1 rs2 s
  | .mstat rd => Sys2Proof.Machine.execMstat rd s
  | .illegalInstruction w => Sys2Proof.Machine.execIllegalInstruction w s
  | .ecall => Sys2Proof.Machine.execEcall s
  | .ebreak => Sys2Proof.Machine.execEbreak s
  | .sret => Sys2Proof.Machine.execSret s
  | .mret => Sys2Proof.Machine.execMret s
  | .wfi => Sys2Proof.Machine.execWfi s
  | .shexit => Sys2Proof.Machine.execShexit s
  | .shyield => Sys2Proof.Machine.execShyield s
  | .tswWrite => Sys2Proof.Machine.execTswWrite s
  | .vptrsWrite => Sys2Proof.Machine.execVptrsWrite s
  | .vresumeWrite => Sys2Proof.Machine.execVresumeWrite s
  | .tcauseWrite => Sys2Proof.Machine.execTcauseWrite s
  | .stvecWrite => Sys2Proof.Machine.execStvecWrite s
  | .trecWrite => Sys2Proof.Machine.execTrecWrite s
  | .sipWrite => Sys2Proof.Machine.execSipWrite s
  | .fcsrAccess => Sys2Proof.Machine.execFcsrAccess s
  | .cwpRead => Sys2Proof.Machine.execCwpRead s
  | .pmcWrite => Sys2Proof.Machine.execPmcWrite s
  | .pmcRead => Sys2Proof.Machine.execPmcRead s
  | .pmselWrite => Sys2Proof.Machine.execPmselWrite s
  | .registerWrite => Sys2Proof.Machine.execRegisterWrite s
  | .interruptEntry => Sys2Proof.Machine.execInterruptEntry s
  | .trapRecordPost => Sys2Proof.Machine.execTrapRecordPost s
  | .ownerLostRefusal => Sys2Proof.Machine.execOwnerLostRefusal s
  | .shuttleWake => Sys2Proof.Machine.execShuttleWake s
  | .waitLimitExpiry => Sys2Proof.Machine.execWaitLimitExpiry s
  | .framePack => Sys2Proof.Machine.execFramePack s
  | .frameCrcRetry => Sys2Proof.Machine.execFrameCrcRetry s
  | .frameArrival => Sys2Proof.Machine.execFrameArrival s
  | .queuedFrameDelivery => Sys2Proof.Machine.execQueuedFrameDelivery s
  | .frameDeliveryFailed => Sys2Proof.Machine.execFrameDeliveryFailed s
  | .mixWindowEnd => Sys2Proof.Machine.execMixWindowEnd s
  | .mixMigration => Sys2Proof.Machine.execMixMigration s
  | .exitRelease => Sys2Proof.Machine.execExitRelease s
  | .startEntryServed => Sys2Proof.Machine.execStartEntryServed s
  | .vectorUnitStart => Sys2Proof.Machine.execVectorUnitStart s
  | .vectorCompletion => Sys2Proof.Machine.execVectorCompletion s
  | .vectorQueueParityError => Sys2Proof.Machine.execVectorQueueParityError s
  | .depthGrantComplete => Sys2Proof.Machine.execDepthGrantComplete s
  | .qaEntryArrival => Sys2Proof.Machine.execQaEntryArrival s
  | .qkCommandArrival => Sys2Proof.Machine.execQkCommandArrival s
  | .arm => Sys2Proof.Machine.execArm s
  | .zero => Sys2Proof.Machine.execZero s
  | .drain => Sys2Proof.Machine.execDrain s
  | .drainRow => Sys2Proof.Machine.execDrainRow s
  | .bar => Sys2Proof.Machine.execBar s
  | .mcpy => Sys2Proof.Machine.execMcpy s
  | .qaConsume => Sys2Proof.Machine.execQaConsume s
  | .tlDecrement => Sys2Proof.Machine.execTlDecrement s
  | .qkParityError => Sys2Proof.Machine.execQkParityError s
  | .register => Sys2Proof.Machine.execRegister s
  | .registrationGrant => Sys2Proof.Machine.execRegistrationGrant s
  | .evict => Sys2Proof.Machine.execEvict s
  | .fill => Sys2Proof.Machine.execFill s
  | .homeRead => Sys2Proof.Machine.execHomeRead s
  | .watchWake => Sys2Proof.Machine.execWatchWake s
  | .ringPostApply => Sys2Proof.Machine.execRingPostApply s
  | .feRequestResend => Sys2Proof.Machine.execFeRequestResend s
  | .vwaitPoll => Sys2Proof.Machine.execVwaitPoll s
  | .vwaitTimeout => Sys2Proof.Machine.execVwaitTimeout s
  | .copyBlockDelivered => Sys2Proof.Machine.execCopyBlockDelivered s
  | .copyComplete => Sys2Proof.Machine.execCopyComplete s
  | .copyFault => Sys2Proof.Machine.execCopyFault s
  | .plbFill => Sys2Proof.Machine.execPlbFill s
  | .atbFill => Sys2Proof.Machine.execAtbFill s
  | .pagePull => Sys2Proof.Machine.execPagePull s
  | .pullFailed => Sys2Proof.Machine.execPullFailed s
  | .pageMoveDown => Sys2Proof.Machine.execPageMoveDown s
  | .backgroundPull => Sys2Proof.Machine.execBackgroundPull s
  | .pageRestore => Sys2Proof.Machine.execPageRestore s
  | .kick => Sys2Proof.Machine.execKick s
  | .ring => Sys2Proof.Machine.execRing s
  | .wbase => Sys2Proof.Machine.execWbase s
  | .bar2Access => Sys2Proof.Machine.execBar2Access s
  | .skein => Sys2Proof.Machine.execSkein s
  | .start => Sys2Proof.Machine.execStart s
  | .wait => Sys2Proof.Machine.execWait s
  | .signal => Sys2Proof.Machine.execSignal s
  | .fenceRecord => Sys2Proof.Machine.execFenceRecord s
  | .dependenceAwait => Sys2Proof.Machine.execDependenceAwait s
  | .residencyGatePass => Sys2Proof.Machine.execResidencyGatePass s
  | .waitQueueRearm => Sys2Proof.Machine.execWaitQueueRearm s
  | .signalWordPoll => Sys2Proof.Machine.execSignalWordPoll s
  | .preEmptionNotice => Sys2Proof.Machine.execPreEmptionNotice s
  | .bobbinRefill => Sys2Proof.Machine.execBobbinRefill s
  | .worldSwitch => Sys2Proof.Machine.execWorldSwitch s
  | .resumeGatePass => Sys2Proof.Machine.execResumeGatePass s
  | .timer => Sys2Proof.Machine.execTimer s
  | .timerDeadline => Sys2Proof.Machine.execTimerDeadline s
  | .vfInformation => Sys2Proof.Machine.execVfInformation s
  | .protection => Sys2Proof.Machine.execProtection s
  | .ownerLostClearing => Sys2Proof.Machine.execOwnerLostClearing s
  | .queueControl => Sys2Proof.Machine.execQueueControl s
  | .rangeInstallAndRemoval => Sys2Proof.Machine.execRangeInstallAndRemoval s
  | .scrub => Sys2Proof.Machine.execScrub s
  | .bindVf => Sys2Proof.Machine.execBindVf s
  | .unbindVf => Sys2Proof.Machine.execUnbindVf s
  | .homeMaskEntry => Sys2Proof.Machine.execHomeMaskEntry s
  | .scheduleEntry => Sys2Proof.Machine.execScheduleEntry s
  | .addSection => Sys2Proof.Machine.execAddSection s
  | .removeSection => Sys2Proof.Machine.execRemoveSection s
  | .readConfiguration => Sys2Proof.Machine.execReadConfiguration s
  | .tier => Sys2Proof.Machine.execTier s
  | .vfConfiguration => Sys2Proof.Machine.execVfConfiguration s
  | .logConfiguration => Sys2Proof.Machine.execLogConfiguration s
  | .pageTable => Sys2Proof.Machine.execPageTable s
  | .erratumEntry => Sys2Proof.Machine.execErratumEntry s
  | .dumpRead => Sys2Proof.Machine.execDumpRead s
  | .evacuate => Sys2Proof.Machine.execEvacuate s
  | .openForImport => Sys2Proof.Machine.execOpenForImport s
  | .collectiveGroup => Sys2Proof.Machine.execCollectiveGroup s
  | .interruptRouting => Sys2Proof.Machine.execInterruptRouting s
  | .unknownService => Sys2Proof.Machine.execUnknownService s
  | .serviceCompletion => Sys2Proof.Machine.execServiceCompletion s
  | .spdmRequest => Sys2Proof.Machine.execSpdmRequest s
  | .lockInterfaceRequest => Sys2Proof.Machine.execLockInterfaceRequest s
  | .stopInterface => Sys2Proof.Machine.execStopInterface s
  | .vfReset => Sys2Proof.Machine.execVfReset s
  | .logWindowEnd => Sys2Proof.Machine.execLogWindowEnd s
  | .patrolScrub => Sys2Proof.Machine.execPatrolScrub s
  | .firmwareReelection => Sys2Proof.Machine.execFirmwareReelection s
  | .coreLoss => Sys2Proof.Machine.execCoreLoss s
  | .plannedFence => Sys2Proof.Machine.execPlannedFence s
  | .fatalError => Sys2Proof.Machine.execFatalError s
  | .bringUp => Sys2Proof.Machine.execBringUp s
  | .clockThrottle => Sys2Proof.Machine.execClockThrottle s
  | .hbmRowSparing => Sys2Proof.Machine.execHbmRowSparing s
  | .cxlLinkDown => Sys2Proof.Machine.execCxlLinkDown s
  | .uePortDown => Sys2Proof.Machine.execUePortDown s
  | .collectiveComplete => Sys2Proof.Machine.execCollectiveComplete s
  | .atom => Sys2Proof.Machine.execAtom s
  | .collectiveAbort => Sys2Proof.Machine.execCollectiveAbort s
  | .peerResponseTimeout => Sys2Proof.Machine.execPeerResponseTimeout s
  | .startOffer => Sys2Proof.Machine.execStartOffer s
  | .startInterfaceRequest => Sys2Proof.Machine.execStartInterfaceRequest s
  | .cxlLinkUp => Sys2Proof.Machine.execCxlLinkUp s
  | .uePortUp => Sys2Proof.Machine.execUePortUp s
  | .meshLinkLoss => Sys2Proof.Machine.execMeshLinkLoss s
  | .securityUnitLoss => Sys2Proof.Machine.execSecurityUnitLoss s
  | .warmReset => Sys2Proof.Machine.execWarmReset s
  | .cycleCounterOverflow => Sys2Proof.Machine.execCycleCounterOverflow s
  | .partitionImport => Sys2Proof.Machine.execPartitionImport s
  | .evacuationTargetLost => Sys2Proof.Machine.execEvacuationTargetLost s

end Sys2Proof.Machine
end

