-- ==== Sys2Proof/Machine/Issue.lean ====
section
/-! DEFINITION. The issue of a shuttle's next word or pair (R34 to R45, R126, R413), the passing of time (R24, R68, R96, R357, R396), and
the interleaving of the package's agents. -/

namespace Sys2Proof.Machine

/-- The integer registers that an instruction names. -/
def xregsOf : Instr → List XReg
  | .lui a _ | .auipc a _ | .jal a _ | .csrrwi a _ _ | .csrrsi a _ _ | .csrrci a _ _ | .shmove a | .shmoveHome a
  | .ipost _ a | .iwait _ a | .fenceQ a | .feSetFull a | .feSetEmpty a | .qpopQd _ a | .vld _ _ _ _ a | .vst _ _ _ _ a
  | .vldx _ _ _ a _ | .vstx _ _ _ a _ | .vamoAddClu _ _ _ a _ | .vamoAndClu _ _ _ a _ | .vamoOrClu _ _ _ a _
  | .vamoXorClu _ _ _ a _ | .vamoMinClu _ _ _ a _ | .vamoMaxClu _ _ _ a _ | .vamoSwapClu _ _ _ a _ | .vamoAddPkg _ _ _ a _
  | .vamoAndPkg _ _ _ a _ | .vamoOrPkg _ _ _ a _ | .vamoXorPkg _ _ _ a _ | .vamoMinPkg _ _ _ a _ | .vamoMaxPkg _ _ _ a _
  | .vamoSwapPkg _ _ _ a _ | .vdepth a _ | .barInit _ a | .barArr a _ | .barExp _ a | .barWait _ a | .barTest a _
  | .vpopc a _ | .vfirst a _ | .vbcast _ _ a | .vmvsx _ _ a | .vslup _ _ _ a | .vsldn _ _ _ a | .vmvxs a _ | .mrun _ _ a
  | .mdrain _ a | .mstat a => [a]
  | .jalr a b _ | .beq a b _ | .bne a b _ | .blt a b _ | .bge a b _ | .bltu a b _ | .bgeu a b _ | .lb a b _ | .lh a b _
  | .lw a b _ | .ld a b _ | .lbu a b _ | .lhu a b _ | .lwu a b _ | .sb a b _ | .sh a b _ | .sw a b _ | .sd a b _
  | .addi a b _ | .slti a b _ | .sltiu a b _ | .xori a b _ | .ori a b _ | .andi a b _ | .slli a b _ | .srli a b _
  | .srai a b _ | .addiw a b _ | .slliw a b _ | .srliw a b _ | .sraiw a b _ | .csrrw a b _ | .csrrs a b _ | .csrrc a b _
  | .fsqrtS a b _ | .fcvtWS a b _ | .fcvtWuS a b _ | .fcvtLS a b _ | .fcvtLuS a b _ | .fcvtSW a b _ | .fcvtSWu a b _
  | .fcvtSL a b _ | .fcvtSLu a b _ | .fclassS a b | .invR _ a b | .wbR _ a b | .ldAcqW _ a b | .ldAcqD _ a b | .stRelW _ a b
  | .stRelD _ a b | .tierHintHot a b | .tierHintCold a b | .ldfe a b | .stfe a b | .ldff a b | .qpushQa _ a b | .qstatQa a b
  | .qstatQk a b | .qstatQd a b | .cpy _ a b | .cpy2d _ a b | .cpyB _ a b | .collPostPkg a b | .collPostSys a b
  | .collTest a b | .vlds _ _ _ a b | .vsts _ _ _ a b | .vld2 _ _ _ _ a b | .vst2 _ _ _ _ a b | .vsetl a b _ _ | .vstrip a b
  | .mcfg _ _ a b | .mzero a b | .mcpyIn a b | .mcpyOut a b => [a, b]
  | .add a b c | .sub a b c | .sll a b c | .slt a b c | .sltu a b c | .xor a b c | .srl a b c | .sra a b c | .or a b c
  | .and a b c | .addw a b c | .subw a b c | .sllw a b c | .srlw a b c | .sraw a b c | .mul a b c | .mulh a b c
  | .mulhsu a b c | .mulhu a b c | .div a b c | .divu a b c | .rem a b c | .remu a b c | .mulw a b c | .divw a b c
  | .divuw a b c | .remw a b c | .remuw a b c | .faddS a b c _ | .fsubS a b c _ | .fmulS a b c _ | .fdivS a b c _
  | .fsgnjS a b c | .fsgnjnS a b c | .fsgnjxS a b c | .fminS a b c | .fmaxS a b c | .feqS a b c | .fltS a b c | .fleS a b c
  | .shstart a b c | .qpushQk a b c | .amoAdd _ _ _ a b c | .amoAnd _ _ _ a b c | .amoOr _ _ _ a b c | .amoXor _ _ _ a b c
  | .amoMin _ _ _ a b c | .amoMax _ _ _ a b c | .amoMinu _ _ _ a b c | .amoMaxu _ _ _ a b c | .amoSwap _ _ _ a b c
  | .cas _ _ _ a b c => [a, b, c]
  | .fmaddS a b c d _ | .fmsubS a b c d _ | .fnmsubS a b c d _ | .fnmaddS a b c d _ => [a, b, c, d]
  | _ => []

/-- The word counts at offset 0xD0 [31:16] of the mix sample (R96). -/
def countsVector (i : Instr) : Bool :=
  match i with
  | .vsetl .. | .vdepth .. | .vstrip .. | .vwait .. | .qpushQa .. | .qpopQd .. => false
  | i => featureOf i == some 0
/-- One more issue in a mix sample: both counts saturate (R96). -/
def Mix.issue (x : Mix) (vector : Bool) : Mix :=
  let up (n : BitVec 16) : BitVec 16 := if n = 0xFFFF then n else n + 1
  { x with issued := up x.issued, vector := if vector then up x.vector else x.vector }
/-- The shuttle in focus issues an instruction (R96): one that waits at once, as a vector word for which the vector queue has no room (R127,
R128), has issued. DEDUCED, unsafe: log entry 54; DESIGN CHOICE, unsafe: log entry 98. -/
def State.markIssue (s : State) (i : Instr) : State :=
  s.updMe fun m => { m with completed := false, sh := { m.sh with mix := m.sh.mix.issue (countsVector i) } }
/-- The performance counter that a CSR instruction names (R357), and whether it writes it. -/
def pmcOf : Instr → Option (Nat × Bool)
  | .csrrw _ _ a | .csrrwi _ _ a => if isPmc a.toNat then some (a.toNat - 0x820, true) else none
  | .csrrs _ r a | .csrrc _ r a => if isPmc a.toNat then some (a.toNat - 0x820, r != 0) else none
  | .csrrsi _ u a | .csrrci _ u a => if isPmc a.toNat then some (a.toNat - 0x820, u != 0) else none
  | _ => none
/-- The instruction writes the first integer register that it names, and does not read it. -/
def writesFirstX : Instr → Bool
  | .lui .. | .auipc .. | .jal .. | .jalr .. | .csrrw .. | .csrrs .. | .csrrc .. | .csrrwi .. | .csrrsi .. | .csrrci .. | .lb .. | .lh ..
  | .lw .. | .ld .. | .lbu .. | .lhu .. | .lwu .. | .addi .. | .slti .. | .sltiu .. | .xori .. | .ori .. | .andi .. | .slli ..
  | .srli .. | .srai .. | .addiw .. | .slliw .. | .srliw .. | .sraiw .. | .add .. | .sub .. | .sll .. | .slt .. | .sltu .. | .xor ..
  | .srl .. | .sra .. | .or .. | .and .. | .addw .. | .subw .. | .sllw .. | .srlw .. | .sraw .. | .mul .. | .mulh .. | .mulhsu ..
  | .mulhu .. | .div .. | .divu .. | .rem .. | .remu .. | .mulw .. | .divw .. | .divuw .. | .remw .. | .remuw .. | .faddS ..
  | .fsubS .. | .fmulS .. | .fdivS .. | .fsqrtS .. | .fsgnjS .. | .fsgnjnS .. | .fsgnjxS .. | .fminS .. | .fmaxS .. | .feqS ..
  | .fltS .. | .fleS .. | .fclassS .. | .fcvtWS .. | .fcvtWuS .. | .fcvtLS .. | .fcvtLuS .. | .fcvtSW .. | .fcvtSWu .. | .fcvtSL ..
  | .fcvtSLu .. | .fmaddS .. | .fmsubS .. | .fnmsubS .. | .fnmaddS .. | .ldAcqW .. | .ldAcqD .. | .shstart .. | .ldfe .. | .ldff ..
  | .qstatQa .. | .qstatQk .. | .qstatQd .. | .collPostPkg .. | .collPostSys .. | .collTest .. | .amoAdd .. | .amoAnd .. | .amoOr ..
  | .amoXor .. | .amoMin .. | .amoMax .. | .amoMinu .. | .amoMaxu .. | .amoSwap .. | .vsetl .. | .vdepth .. | .vstrip .. | .barArr ..
  | .barTest .. | .vpopc .. | .vfirst .. | .vmvxs .. | .mstat .. => true
  | _ => false
/-- The integer registers that an instruction reads. -/
def xreadsOf (i : Instr) : List XReg :=
  match i with
  | .ecall => [10, 11, 12, 13, 14, 15]
  | i => if writesFirstX i then (xregsOf i).drop 1 else xregsOf i
/-- The issue of an instruction is counted, in the mode in which it issues (R358, R381). -/
def State.countIssue (s : State) (i : Instr) : State := (s.markIssue i).count s.myCore 0x002 (some s.sh.mode)
/-- THE OLD BEHAVIOUR OF AN ERRATUM (R17, R369): where the shuttle's `tsw` asks for it and the instruction has completed, the integer register
that it writes holds what the erratum in that entry made of the result; the spec names no erratum, and no instruction that one concerns.
DESIGN CHOICE, unsafe: log entry 99. -/
def State.oldBehaviour (s0 : State) (i : Instr) (s : State) : State :=
  if (bitsOf s0.sh.tsw 31 24 == 0) || !s.me.completed || !(writesFirstX i) then s
  else
    match xregsOf i with
    | [] => s
    | rd :: _ =>
      (List.range 8).foldl (fun t k =>
        if bitOf s0.sh.tsw (24 + k) then
          match Config.oldResult (bitsOf (SMap.get 0 s0.errata k) 15 0) s0.me.word (t.sh.getX rd) with
          | some v => t.updSh fun sh => sh.setX rd v
          | none => t
        else t) s
/-- The word is counted at its issue (R358, R381). A CSR instruction that reads a counter returns a count without its own issue, and one that
writes a counter sets the count that later events add to: its own issue may have wrapped the count before. -/
def State.performCounted (s : State) (i : Instr) : Out :=
  let c := s.myCore
  match pmcOf i with
  | none =>
    match exec i (s.countIssue i) with
    | .next u => .next (s.oldBehaviour i u)
    | o => o
  | some (k, writes) =>
    match exec i (s.markIssue i) with
    | .next u =>
      let n := u.count c 0x002 (some s.sh.mode)
      let own := ((s.countIssue i).core c).ctx.pmsel
      .next (s.oldBehaviour i (if writes && u.me.completed then
          n.updCtx c fun x =>
            { x with
              pmc := SMap.put 0 x.pmc k (SMap.get 0 (u.core c).ctx.pmc k)
              pmsel := SMap.put 0 x.pmsel k (SMap.get 0 own k) }
        else n))
    | o => o
/-- The instruction stops at decode for the mode, or for the CSR that it names, before its registers count (orders 5 and 8 of R45). -/
def State.decodeStops (s : State) : Instr → Bool
  | .sret | .wfi => s.sh.mode == .u
  | .mret => s.sh.mode != .m
  | .csrrw _ _ a | .csrrwi _ _ a => s.csrStops a.toNat true
  | .csrrs _ r a | .csrrc _ r a => s.csrStops a.toNat (r != 0)
  | .csrrsi _ u a | .csrrci _ u a => s.csrStops a.toNat (u != 0)
  | _ => false
/-- The instruction stops at decode for the value that it would write to a CSR (order 8 of R45). -/
def State.valueStops (s : State) : Instr → Bool
  | .csrrw _ r a => s.csrValueStops a.toNat (s.x r)
  | .csrrwi _ u a => s.csrValueStops a.toNat (zx u)
  | .csrrs _ r a => r != 0 && s.csrValueStops a.toNat (s.csrValue a.toNat ||| s.x r)
  | .csrrc _ r a => r != 0 && s.csrValueStops a.toNat (s.csrValue a.toNat &&& ~~~(s.x r))
  | .csrrsi _ u a => u != 0 && s.csrValueStops a.toNat (s.csrValue a.toNat ||| zx u)
  | .csrrci _ u a => u != 0 && s.csrValueStops a.toNat (s.csrValue a.toNat &&& ~~~(zx u))
  | _ => false
/-- The shuttle in focus performs an instruction that its core implements: one that a cause of orders 5 or 8 of R45 stops has not issued; one
that names an x register which a vector instruction has yet to write issues and waits for it (R127, R128), and one that reads an x register
whose word has failed its check raises 0xC.0.4 (R140, R386). -/
def State.perform (s : State) (i : Instr) : Out :=
  let late := s.me.vpending.filterMap fun e => vecXd e.instr
  if s.decodeStops i then exec i s
  else if (xregsOf i).any fun r => late.contains r then .next ((s.countIssue i).block .vector)
  else if s.sh.xbad ≠ 0 ∧ ((xreadsOf i).any fun r => s.sh.xbad.getLsbD r.val) = true then (s.countIssue i).raise (cause 0xC 0 4) 0
  else if s.valueStops i then exec i s
  else s.performCounted i

/-- Orders 2 to 6 of R45 for a word of a pair: the order and the cause. -/
def State.earlyCause (s : State) (w : BitVec 32) : Option (Nat × BitVec 10) :=
  match decodeWord w with
  | .reject .illegal => some (2, cause 0 0 0)
  | .reject .reservedLater => some (3, cause 0 0 1)
  | .reject .registerField => some (4, cause 0 0 5)
  | .instr i => if s.masked s.me.vf s.sh.mode i then some (6, cause 0 0 2) else none
/-- Orders 9 and 10 of R45 for a word of a pair, for a shuttle as it will stand. -/
def lateCause (sh : Shuttle) (w : BitVec 32) : Option (Nat × BitVec 10) :=
  let order (c : BitVec 10) : Nat × BitVec 10 := (if c = cause 0 1 0 then 9 else 10, c)
  match decodeWord w with
  | .reject _ => none
  | .instr i => match i with
    | .vsetl .. | .vdepth .. => none
    | .vstrip .. => if sh.vtype.isNone then some (order (cause 0 1 0)) else none
    | .vwait .. => if sh.vtype.isNone || decide (16 < sh.vlc.toNat) then some (order (cause 0 1 0)) else none
    | i => if featureOf i = some 0 then (vecLate i sh).map order else none
/-- The shuttle as slot B's decode finds it after a slot A word: a `vsetl` or `vstrip` there sets the lengths (R41). -/
def Shuttle.afterA (sh : Shuttle) (w : BitVec 32) : Shuttle :=
  match decodeWord w with
  | .instr (.vsetl _ rs1 rows et) =>
    { sh with
      vtype := some et
      vlr := BitVec.ofNat 4 (min rows.toNat sh.vdepth.toNat)
      vlc := BitVec.ofNat 10 (min (sh.getX rs1).toNat et.cols) }
  | .instr (.vstrip _ rs1) =>
    let (r, c) := stripLengths (sh.getX rs1).toNat sh.vdepth.toNat ((sh.vtype.getD .i8).cols)
    { sh with vlr := BitVec.ofNat 4 r, vlc := BitVec.ofNat 10 c }
  | _ => sh
/-- The lengths that a slot A word sets rest on a register that a vector instruction has yet to write (R128). -/
def Slot.lengthsPending (m : Slot) (a : BitVec 32) : Bool :=
  match decodeWord a with
  | .instr (.vsetl _ rs1 _ _) | .instr (.vstrip _ rs1) => m.vpending.any fun e => vecXd e.instr == some rs1
  | _ => false
/-- Of the causes of two words, the one reported: the lower order, slot A's first (R45); with the word concerned (R42). -/
def firstCause (a b : BitVec 32) : Option (Nat × BitVec 10) → Option (Nat × BitVec 10) → Option (BitVec 10 × BitVec 32)
  | some x, some y => if x.1 ≤ y.1 then some (x.2, a) else some (y.2, b)
  | some x, none => some (x.2, a)
  | none, some y => some (y.2, b)
  | none, none => none
/-- The cause of orders 1 to 6 of a pair, with the word concerned (R40, R42, R44, R45). DEDUCED, unsafe: log entry 55. Where slot A is one of
the words that R40 never pairs and slot B is no VA or MX word, two cases of R40 apply, with different words: slot B's is reported.
DESIGN CHOICE, unsafe: log entry 86. -/
def State.pairCause (s : State) (a b : BitVec 32) : Option (BitVec 10 × BitVec 32) :=
  if !(isVaMx b) then some (cause 0 0 4, b)
  else if isLoneOnly a then some (cause 0 0 4, a)
  else if (classesFor a b).isEmpty then some (cause 0 0 4, b)
  else firstCause a b (s.earlyCause a) (s.earlyCause b)
/-- Slot B of a pair follows slot A where slot A has completed on this core (R41, R42); nothing is taken between the two, even where slot B
waits (R84). -/
def State.thenB (s : State) (a b : BitVec 32) (pc : Word) : Out :=
  let m := s.me
  if m.completed && m.life == .ready && m.sh.pc == pc + 4 then
    match decodeWord b with
    | .instr j => (s.updMe fun m => { m with word := b, mate := a, half := true }).perform j
    | .reject _ => .next s
  else .next s
/-- A word that a cause of order 9 of R45 stops has not issued; one of order 10 is a cause at its issue. -/
def State.issueCause (s : State) (c : BitVec 10) (w : BitVec 32) : State :=
  if c = cause 0 1 0 then s
  else match decodeWord w with
    | .instr i => s.countIssue i
    | .reject _ => s
/-- ISSUE OF A PAIR (R40 to R45): decoded as a unit, then slot A, then slot B. -/
def State.issuePair (s0 : State) (a b : BitVec 32) : Out :=
  let s := s0.updMe fun m => { m with word := a, mate := b, completed := false }
  match s.pairCause a b with
  | some (c, w) => s.raise c (zx w)
  | none =>
    let cls := classOf s.myCore
    if !(implementsWord cls a && implementsWord cls b) then s.migrationTrap b
    else
      let pending := s.me.lengthsPending a
      match firstCause a b (lateCause s.sh a) (if pending then none else lateCause (s.sh.afterA a) b) with
      | some (c, w) => (s.issueCause c w).raise c (zx w)
      | none =>
        match decodeWord a with
        | .reject _ => .next s
        | .instr i =>
          if pending then .next ((s.countIssue i).block .vector)
          else match s.perform i with
            | .next t => if t.focus = s.focus then t.thenB a b s.sh.pc else .next t
            | o => o
/-- ISSUE OF A LONE WORD (R40, R45). A word that a decode cause or the migration trap stops has not issued (R96), in a pair or alone; the cause
of order 10 arises at issue. -/
def State.issueLone (s0 : State) (w mate : BitVec 32) : Out :=
  let s := s0.updMe fun m => { m with word := w, mate := mate, completed := false }
  match decodeWord w with
  | .reject _ => exec (.illegalInstruction w) s
  | .instr i =>
    if s.masked s.me.vf s.sh.mode i || !(implements (classOf s.myCore) i) then exec i s
    else if let some (_, c) := lateCause s.sh w then exec i (s.issueCause c w)
    else s.perform i
/-- Issue of the word in slot B of a fetch word (R40, R43). -/
def State.issueB (s : State) (w : BitVec 32) : Out :=
  let m := s.me
  let a := s.peek m.vf s.myCore m.sh.mode (m.sh.pc.toNat - 4)
  if isOpener w || (m.jumped && isOpener a) then s.raise (cause 0 0 4) (zx w)
  else s.issueLone w (if isOpener a && isVaMx w then a else 0)
/-- The shuttle in focus fetches a word, and goes on with it; a page pull that the fetch waits for is marked as the fetch's (R296). -/
def State.fetchThen (s : State) (va : Nat) (f : State → BitVec 32 → Out) : Out :=
  match s.fetchWord (s.who 0) va with
  | .wait t p => .next ((t.waitPull p).updMe fun m => { m with wait := m.wait.map fun w => { w with page := some p } })
  | r => r.run f
/-- Fetch at the shuttle's pc, and issue (R34). -/
def State.fetchIssue (s : State) : Out :=
  let pc := s.sh.pc.toNat
  s.fetchThen pc fun s a =>
    if pc % 8 = 0 then
      if isOpener a then s.fetchThen (pc + 4) fun s b => s.issuePair a b
      else s.issueLone a 0
    else s.issueB a

/-- An instruction whose step another agent has performed completes, without being fetched again (R247, R284); where it is slot A of a pair,
slot B follows. -/
def State.resume (s0 : State) : Out :=
  let s := s0.updMe fun m => { m with completed := false }
  match decodeWord s.me.word with
  | .reject _ => s.fetchIssue
  | .instr i =>
    match s.performCounted i with
    | .next t =>
      if t.focus = s.focus && isOpener s.me.word && !s.me.half then t.thenB s.me.word s.me.mate s.sh.pc else .next t
    | o => o

/-- A slot's core and shuttle are running: the core has not failed, and the VF is not switched out (R32, R391). -/
def State.slotRuns (s : State) (k : Nat) : Bool :=
  let m := s.slot k
  !m.parked && !s.fatal && !(s.core (k / 16)).lost && (m.sh.mode == .m || s.running m.vf)
/-- The shuttle of a slot may be selected to issue (R30, R126): it is Ready, not by a wake of this cycle (R127), or has been parked while it
Waited and issues its instruction again. -/
def State.issuable (s : State) (k : Nat) : Bool :=
  let m := s.slot k
  s.slotRuns k && ((m.life == .ready && m.wokeAt != some (s.coreCycle (k / 16))) || (m.life == .waiting && m.again))
/-- The slots of a vector core that its barrel may pick in this cycle of its clock, from P on (R126, R396): those whose shuttle is Ready and last issued four
cycles ago or earlier; none where the barrel has picked in this cycle. -/
def State.barrel (s : State) (c : Nat) : List Nat :=
  if (s.core c).turn = some s.arith then []
  else ((List.range 16).map fun j => c * 16 + ((s.core c).ptr + j) % 16).filter fun k =>
    s.issuable k && (match (s.slot k).lastIssue with
      | none => true
      | some t => decide (4 ≤ (s.arith - t).toNat))
/-- SELECTION by the barrel of a vector core (R126): the first that may be picked; a shuttle that has yielded is passed over (R73). -/
def State.barrelSelect (s : State) (c : Nat) : Option Nat := (s.barrel c).find? fun k => !(s.slot k).yielded
/-- The shuttles that have yielded and that a selection passes over, in this cycle (R73). -/
def State.barrelPassed (s : State) (c : Nat) : List Nat := (s.barrel c).takeWhile fun k => (s.slot k).yielded
/-- The issue logic of slot k's core may take the shuttle's next word now (R73, R125, R126): on a vector core the barrel picks it; on a matrix
core its turn has come, or the other slot's shuttle is not Ready; on a control core 16 cycles of the 1.7 GHz clock, 8 of `cycle`, have passed
since it yielded. -/
def State.selectable (s : State) (k : Nat) : Bool :=
  let c := k / 16
  match classOf c with
  | .vector => s.barrelSelect c == some k
  | .matrix => (s.core c).ptr % 2 == k % 2 || !(s.issuable (c * 16 + (k + 1) % 2))
  | .control => !(s.slot k).yielded || (match (s.slot k).lastIssue with
      | none => true
      | some t => decide (8 ≤ (s.cycle - t).toNat))
/-- The selection of slot k is made (R73, R125, R126): P stands behind it, and those passed over have been. -/
def State.select (s : State) (k : Nat) : State :=
  let c := k / 16
  let mark (t : State) : State := t.updSlot k fun m => { m with
    lastIssue := some (s.coreCycle c), yielded := false, again := false, life := if m.again then .ready else m.life }
  match classOf c with
  | .vector =>
    (mark ((s.barrelPassed c).foldl (fun t j => t.updSlot j fun m => { m with yielded := false }) s)).updCore c fun x =>
      { x with ptr := (k % 16 + 1) % 16, turn := some s.arith }
  | .matrix => (mark s).updCore c fun x => { x with ptr := (k + 1) % 2 }
  | .control => mark s
/-- The barrel of slot k's core finds only shuttles that have yielded, this one among them (R73). -/
def State.allYielded (s : State) (k : Nat) : Bool :=
  classOf (k / 16) == .vector && (s.barrelSelect (k / 16)).isNone && (s.barrelPassed (k / 16)).contains k
/-- Where only shuttles that have yielded could issue, all are passed over, and nothing issues in this cycle (R73). -/
def State.passOver (s : State) (k : Nat) : State :=
  let c := k / 16
  if s.allYielded k then
    ((s.barrelPassed c).foldl (fun t j => t.updSlot j fun m => { m with yielded := false }) s).updCore c fun x => { x with turn := some s.arith }
  else s
/-- The word at the pc of the shuttle in focus is `shyield`, at which an ordered mix migration takes effect (R73).
DEDUCED, unsafe: log entry 80. -/
def State.atYield (s : State) : Bool :=
  let w := s.peek s.me.vf s.myCore s.sh.mode s.sh.pc.toNat
  !(isOpener w) && decodeWord w == .instr .shyield
/-- What is due at the issue boundary of slot k before its next word (R413): a held trap, a refusal, an interrupt or an ordered mix
migration. Nothing is between the words of a pair but a trap of the second, nor before an instruction whose step has been made or that a
shuttle parked while it Waited issues again (R30). An interrupt that is pending is taken at the next boundary, also where R382 allows a later
one. DESIGN CHOICE, unsafe: log entry 98. -/
def State.boundaryDue (s : State) (k : Nat) : Bool :=
  let m := s.slot k
  m.doneValue.isNone && (m.heldTrap.isSome || (!m.half && !m.again && (!(m.refused.isEmpty) || s.interruptSlot (k / 16) == some k
    || (m.mixOrder.isSome && !({ s with focus := k } : State).atYield))))
/-- The next word of the shuttle in slot k issues, if the issue logic of its core selects it. -/
def State.issueWord (s : State) (k : Nat) : Out :=
  if s.selectable k then
    let t := s.select k
    if t.me.doneValue.isSome then t.resume else t.fetchIssue
  else .next (s.passOver k)
/-- THE ISSUE BOUNDARY of the shuttle in slot k (R413): a held trap, a refusal, an interrupt or an ordered mix migration comes first, one at
a time; then its next word issues. -/
def State.issue (s0 : State) (k : Nat) : Out :=
  if !(s0.issuable k) then .next s0
  else
    let s := { s0 with focus := k }
    let m := s.me
    if s.boundaryDue k then
      if m.heldTrap.isSome then .next (if m.vectorBusy then s.block .vector else s.takeHeldTrap k)
      else if !(m.refused.isEmpty) then .next (if m.vectorBusy then s.block .vector else s.trapRefused k)
      else if s.interruptSlot (k / 16) = some k then .next (s.takeInterrupt k)
      else .next (s.mixMigrate k)
    else s.issueWord k

/-- A wait goes on for n cycles. -/
def WaitInfo.count (w : WaitInfo) (n : Nat) : WaitInfo := { w with counted := w.counted + n }
/-- A slot's waits go on for n cycles (R24). -/
def Slot.count (m : Slot) (n : Nat) : Slot :=
  if m.parked || (m.life != .waiting && m.life != .packing) then
    { m with vq := m.vq.map fun e => { e with wait := if m.parked then e.wait else e.wait.map fun w => w.count n } }
  else
    { m with
      wait := m.wait.map fun w => w.count n
      vq := m.vq.map fun e => { e with wait := e.wait.map fun w => w.count n } }
/-- Cycles of the arithmetic clock in n nominal cycles from a cycle on, lowered by t of 8 steps (R396). -/
def arithCycles (from_ n t : Nat) : Nat := (from_ + n) * (8 - t) / 8 - from_ * (8 - t) / 8
/-- TIME PASSES: n nominal cycles, at most to the next multiple of 4,096, where a mix window ends (R96). Waits are counted (R24), and the
cycle counters of R358; the first-touch records of the cycles past are in the log (R356). DESIGN CHOICE, unsafe: log entry 4. -/
def State.tick (s : State) (n : Nat) : State :=
  let now := s.cycle.toNat
  let d := min n (4096 - now % 4096)
  let a := arithCycles now d s.throttle
  let t : State :=
    { s with
      cycle := s.cycle + BitVec.ofNat 64 d
      arith := s.arith + BitVec.ofNat 64 a
      slots := s.slots.map fun e => (e.1, e.2.count a)
      vfs := if d = 0 then s.vfs else s.vfs.map fun e => (e.1, e.2.flushLog) }
  let t := (s.cores.map (·.1)).foldl (fun t c => if t.running (t.core c).ctx.vf then t.countN c 0x001 a none else t) t
  let t := s.slots.foldl (fun t e =>
    if e.2.life == .waiting && !e.2.parked then t.countN (e.1 / 16) 0x00A a (some e.2.sh.mode) else t) t
  let t := (s.cores.map (·.1)).foldl State.wakeWfi t
  if t.cycle.toNat % 4096 = 0 && d != 0 then t.mixWindow else t

/-- A step that acts for the shuttle that its subject names, by a register access of its own. -/
def forShuttle (i : Instr) (u : Subject) : Bool :=
  match i with
  | .tswWrite | .vptrsWrite | .vresumeWrite | .tcauseWrite | .trecWrite | .sipWrite | .pmcWrite | .pmselWrite | .pmcRead
  | .fcsrAccess | .cwpRead => true
  | .registerWrite => (match u.reg with | .csr _ => true | _ => false)
  | _ => false
/-- The instruction has a word, and happens only by the issue of that word. -/
def hasWord (i : Instr) : Bool :=
  match i with
  | .illegalInstruction _ => true
  | i => (encodeFields true i).isSome
/-- One move of the interleaving (the model's own): an issue, a step of the opcode table that has no word, the passing of
time, or another setting or making of the open choices. DESIGN CHOICE, safe: log entry 11. -/
def State.act (s : State) : Move → Out
  | .issue k => s.issue k
  | .event i u =>
    let t := { s with subject := u }
    if hasWord i then .next s
    else if forShuttle i u then
      let k := u.core * 16 + u.slot % 16
      if s.issuable k && (s.slot k).life == .ready then exec i { t with focus := k } else .next s
    else exec i t
  | .tick n => .next (s.tick n)
  | .policy e => .next { s with eager := e }
  | .elements c => .next { s with elems := c }
  | .early k a d => .next (s.takeEarly k a d)
  | .earlyElt k i => .next (s.takeEarlyElt k i)
  | .peerStore a v m => .next (s.peerStore a v m)

/-- The steps that services make (R347): one that is not the head's changes nothing. -/
def serviceSteps : List Instr :=
  [.timer, .vfInformation, .protection, .ownerLostClearing, .queueControl, .rangeInstallAndRemoval, .scrub, .bindVf, .unbindVf,
   .homeMaskEntry, .scheduleEntry, .addSection, .removeSection, .readConfiguration, .tier, .vfConfiguration, .logConfiguration,
   .pageTable, .erratumEntry, .dumpRead, .evacuate, .openForImport, .collectiveGroup, .interruptRouting, .unknownService]
/-- A list of events by number. -/
def numbered (n : Nat) (i : Instr) : List Move := (List.range n).map fun k => .event i { item := k }
/-- The steps that a slot's shuttle may be due. -/
def slotMoves (k : Nat) : List Move :=
  let u : Subject := { core := k / 16, slot := k % 16 }
  [.event .shuttleWake u, .event .ownerLostRefusal u, .event .framePack u, .event .exitRelease u, .event .vectorUnitStart u, .event .vectorCompletion u,
   .event .depthGrantComplete u, .event .vwaitTimeout u, .event .waitLimitExpiry u]
/-- The steps that a core's queues and array may be due. -/
def coreMoves (s : State) (c : Nat) : List Move :=
  let u : Subject := { core := c }
  (if (s.core c).stale.isSome then [.event .stvecWrite u] else [])
    ++ (if (s.core c).sbuf.isEmpty then [] else [.event .register u])
    ++ (if classOf c = .matrix then
          [.event .tlDecrement u, .event .arm u, .event .zero u, .event .drain u, .event .drainRow u, .event .bar u, .event .mcpy u,
           .event .qaConsume u, .event .qaEntryArrival u, .event .qkCommandArrival u]
        else [])
/-- The steps that a section's copy channels and rings may be due. -/
def sectionMoves (n : Nat) : List Move :=
  (List.range 8).flatMap (fun c =>
    let u : Subject := { section_ := n, chan := c }
    [.event .copyBlockDelivered u, .event .copyComplete u, .event .copyFault u])
  ++ (List.range 4).map fun c => .event .ringPostApply { section_ := n, chan := c }
/-- The steps that a VF's queues, gates, timer and collectives may be due. -/
def vfMoves (s : State) (v : Nat) : List Move :=
  let f := s.vf v
  let u : Subject := { vf := v }
  let dies := s.partDies (s.partOfVf v)
  let queue (q d : Nat) : List Move :=
    let w : Subject := { vf := v, queue := q, die := d }
    .event .waitQueueRearm w ::
      (if s.dieTurn d == some (16 * v + q) then
        [.event .skein w, .event .start w, .event .wait w, .event .signal w, .event .fenceRecord w]
      else [])
  f.queues.flatMap (fun q => dies.flatMap fun d => queue q.1 d)
    ++ [.event .residencyGatePass u, .event .resumeGatePass u, .event .timerDeadline u, .event .logWindowEnd u]
    ++ f.coll.flatMap (fun e => [.event .collectiveComplete { vf := v, item := e.1 }, .event .atom { vf := v, item := e.1 }])
    ++ (if f.resetAt.isSome then [.event .vfReset u] else [])
/-- The moves that the package's engines may be due, where no interleaving is given (the model's own). -/
def State.engineMoves (s : State) : List Move :=
  (if s.requests.isEmpty then [] else serviceSteps.map fun i => .event i {})
    ++ (if s.records.isEmpty then [] else [.event .trapRecordPost {}])
    ++ numbered s.watches.length .watchWake
    ++ numbered s.pulls.length .pagePull
    ++ numbered s.frames.length .frameArrival
    ++ numbered (s.offers.length + s.heldStarts.length) .startOffer
    ++ ((s.awaits.zipIdx.filter fun a => !(s.watches.any fun w => w.who == .die a.1.die a.1.id)).map fun a =>
          .event .dependenceAwait { item := a.2 })
    ++ (if s.queued.isEmpty then [] else s.parts.flatMap fun p => (s.partCores p.1).map fun c => .event .queuedFrameDelivery { core := c })
    ++ s.starts.map (fun e => .event .startEntryServed { core := e.core })
    ++ s.cores.flatMap (fun e => coreMoves s e.1)
    ++ s.sections.flatMap (fun e => sectionMoves e.1)
    ++ s.slots.flatMap (fun e => slotMoves e.1)
    ++ s.vfs.flatMap (fun e => vfMoves s e.1)
    ++ s.parts.flatMap (fun e =>
          [.event .preEmptionNotice { part := e.1 }, .event .bobbinRefill { part := e.1 }, .event .worldSwitch { part := e.1 }])
    ++ numbered s.longs.length .serviceCompletion
    ++ s.vfs.map fun e => .event .backgroundPull { vf := e.1 }
/-- The shuttle that issues next where no interleaving is given: of those that their cores' issue logic selects or that something is due for,
round robin over the cores and over their slots. -/
def State.nextIssue (s : State) : Option Nat :=
  let ready := (s.slots.map (·.1)).filter fun k =>
    s.issuable k && (s.selectable k || s.boundaryDue k || s.allYielded k)
  match ready.find? fun k => decide (s.focus < k) with
  | some k => some k
  | none => ready.head?
/-- The first move of a list that changes the state. -/
def State.firstChange (s : State) : List Move → Option State
  | [] => none
  | m :: l => match s.act m with
    | .next t => if { t with subject := s.subject } = s then State.firstChange s l else some { t with subject := s.subject }
    | _ => State.firstChange s l
/-- THE INTERLEAVING WHERE NONE IS GIVEN (the model's own): shuttles and engines take turns, and time passes where neither can do anything.
A part out of service does nothing more (R394). DESIGN CHOICE, unsafe: log entry 2. -/
def State.auto (s : State) : Out :=
  if s.fatal then .fault .outOfService
  else match (if s.engines then none else s.nextIssue) with
  | some k => { s with engines := true }.issue k
  | none =>
    match s.firstChange s.engineMoves with
    | some t => .next { t with engines := false }
    | none => match s.nextIssue with
      | some k => s.issue k
      | none => .next (s.tick 1)

end Sys2Proof.Machine
end

