-- ==== Sys2Proof/Machine/Step.lean ====
section
/-! DEFINITION. One step of the package, and a state whose next step fetches and runs a given word. -/

namespace Sys2Proof.Machine

/-- ONE STEP: the next move of the interleaving that the state holds, or of the model's own where it holds none. -/
def step (s : State) : Host.Outcome State Fault Refusal :=
  match s.agenda with
  | m :: rest => { s with agenda := rest }.act m
  | [] => s.auto

/-- s with an instruction word where the next step fetches. The machine loads its programs itself: this stands for the load that the host and
firmware make. VF 0 runs on partition 0, which holds section 0; the page table and VF 0's range and protection entries map its addresses, with
every right, from machine address 0; a shuttle stands at DVA 0 in S mode on a core of section 0 whose class implements the word (in M mode on a
core of the firmware column for MRET), the word lies there, and nothing else is due. A word with L = 0 opens a pair, and runs only beside a
partner (R40): `vpopc x0, m1` is placed in slot B. `vtype` is one that the vector words placed accept.
DESIGN CHOICE, unsafe: log entry 5. -/
def State.withFetchWord (s : State) (_nbits w : Nat) : State :=
  let word : BitVec 32 := BitVec.ofNat 32 w
  let i := decodeWord word
  let mret := i == .instr .mret
  let opener := isOpener word
  let cls : CoreClass :=
    match i with
    | .instr i => if opener || implements .vector i then .vector else if implements .control i then .control else .matrix
    | .reject _ => .vector
  let c : Nat := match cls with | .control => (if mret then 0 else 1) | .vector => 4 | .matrix => 64
  let partner : Nat := if opener then (match encode true (.vpopc 0 1) with | some p => p.toNat | none => 0) else 0
  let top := s.protTable 0
  let leaf := fwBase + 0x4000000
  let root := fwBase + 0x20000000
  let vector (i : Instr) : Bool := featureOf i == some 0
  let suits (i : Instr) (e : EType) : Bool :=
    (!(vector i) || (vecLate i { vtype := some e }).isNone) && (!opener || (vecLate (.vpopc 0 1) { vtype := some e }).isNone)
  let vtype : Option EType := match i with
    | .instr i =>
      if opener || vector i then
        [EType.i8, .i16, .i32, .bf16, .f16, .f32, .t8, .t6, .ui8, .ui16, .ui32, .i2, .i4].find? (suits i)
      else none
    | .reject _ => none
  let sh : Shuttle := { mode := if mret then .m else .s, vtype := vtype }
  let t : State :=
    { s with
      agenda := [.issue (c * 16)], focus := c * 16, engines := false, fatal := false, ready := true
      slots := SMap.put {} s.slots (c * 16) { life := .ready, vf := 0, sh := sh }
      parts := SMap.put {} s.parts 0 { s.part 0 with sections := 1, vfs := [0], running := some 0 }
      vfs := SMap.put {} s.vfs 0
        { s.vf 0 with
          bound := some 0, feature := 0, gated := false
          ranges := SMap.put {} (s.vf 0).ranges 0
            { w0 := 0x8000000000000000, w1 := 0x0000001000000000, w2 := 0, w3 := 0xE00 } }
      dies := SMap.put {} s.dies 0 { s.die 0 with trr := BitVec.ofNat 64 (root + 1) }
      column := if mret then [(c, 0)] else s.column.filter fun e => e.1 != c }
  let t := t.updCore c fun k =>
    { k with ctx := { vf := 0 }, plb := [], atb := [], icache := [], iseen := [], l1 := [], l1bad := [], l1apart := [], sbuf := [], fenced := false, lost := false,
             ptr := 0, vptr := 0, turn := none, vstart := none, stale := none }
  let t := ((t.write64 top (BitVec.ofNat 64 (leaf + 1))).putByte leaf 0x0F)
  let t := t.write64 root (BitVec.ofNat 64 ((root + 0x2000) / 8192 * 1024 + 1))
  let t := t.write64 (root + 0x2000) (BitVec.ofNat 64 (c * 2 ^ 50 + 3))
  t.write64 0 (BitVec.ofNat 64 (w % 2 ^ 32 + partner * 2 ^ 32))

end Sys2Proof.Machine
end

