-- ==== Sys2Proof/Safety.lean ====
section
/-! DEFINITION. What counts as a safe run, in the terms that claims use: an outcome is a next state; the state keeps its canonical form; and
what it means that an instruction of one shuttle leaves the rest of the package as it was. -/

namespace Sys2Proof.Machine

/-- The outcome is a next state with a property: the machine neither stops nor refuses. -/
def Completes (o : Out) (p : State → Prop) : Prop := ∃ t, o = .next t ∧ p t

/-- The listed bytes of machine memory are in canonical form. -/
abbrev State.MemCanonical (s : State) : Prop := Memory.wf s.mem = true

/-- t differs from s in the slot in focus only; in particular every byte of memory reads as before. -/
def OnlySlot (s t : State) : Prop :=
  t = { s with slots := t.slots } ∧ (∀ k, k ≠ s.focus → t.slot k = s.slot k) ∧ ∀ a, t.byte a = s.byte a

/-- The failed checks of integer registers once rd has been written (R140): that of rd is over. -/
def State.badAfter (s : State) (rd : XReg) : BitVec 16 := (s.sh.setX rd 0).xbad

/-- The shuttle in focus differs from before only in its integer registers and its pc, and the instruction counts as done. -/
def OnlyXPc (s t : State) : Prop :=
  t.me = { s.me with
    sh := { s.sh with x := t.sh.x, xbad := t.sh.xbad, pc := t.sh.pc }, wait := none, earlier := none, completed := true, half := false, jumped := t.me.jumped }

/-- THE RESULT OF AN INSTRUCTION THAT WRITES ONE INTEGER REGISTER: the pc goes to the next word, rd reads as the value (x0 as zero), every
other register is unchanged, and so is everything else. -/
def WritesX (s : State) (rd : XReg) (v : Word) (t : State) : Prop :=
  OnlySlot s t ∧ OnlyXPc s t ∧ t.me.jumped = false ∧ t.sh.pc = s.sh.pc + 4 ∧ t.sh.xbad = s.badAfter rd
    ∧ (∀ r, t.x r = if r = rd ∧ rd ≠ 0 then v else s.x r)

/-- THE RESULT OF A CONTROL TRANSFER: the pc goes to the target, rd (where one is written) reads as the value, and nothing else changes. -/
def JumpsTo (s : State) (rd : XReg) (v target : Word) (t : State) : Prop :=
  OnlySlot s t ∧ OnlyXPc s t ∧ t.me.jumped = true ∧ t.sh.pc = target ∧ t.sh.xbad = s.badAfter rd ∧
    (∀ r, t.x r = if r = rd ∧ rd ≠ 0 then v else s.x r)

/-! The published RV64 results (R61, R69) as exact integer arithmetic, narrowed at the end: each register instruction with its value. -/

/-- A 32-bit result, sign-extended. -/
def result32 (t : Int) : Word := BitVec.ofInt 64 (t.bmod (2 ^ 32))
/-- The low 32 bits as a signed number. -/
def int32 (v : Word) : Int := v.toInt.bmod (2 ^ 32)
/-- The low 32 bits as an unsigned number. -/
def nat32 (v : Word) : Nat := v.toNat % 2 ^ 32

/-- The instructions on two integer registers. -/
def registerOps : List ((XReg → XReg → XReg → Instr) × (Word → Word → Word)) :=
  [ (.add, fun a b => BitVec.ofInt 64 (a.toInt + b.toInt)),
    (.sub, fun a b => BitVec.ofInt 64 (a.toInt - b.toInt)),
    (.sll, fun a b => BitVec.ofNat 64 (a.toNat * 2 ^ (b.toNat % 64))),
    (.slt, fun a b => if a.toInt < b.toInt then 1 else 0),
    (.sltu, fun a b => if a.toNat < b.toNat then 1 else 0),
    (.xor, fun a b => a ^^^ b),
    (.srl, fun a b => BitVec.ofNat 64 (a.toNat / 2 ^ (b.toNat % 64))),
    (.sra, fun a b => BitVec.ofInt 64 (a.toInt / 2 ^ (b.toNat % 64))),
    (.or, fun a b => a ||| b),
    (.and, fun a b => a &&& b),
    (.addw, fun a b => result32 (a.toInt + b.toInt)),
    (.subw, fun a b => result32 (a.toInt - b.toInt)),
    (.sllw, fun a b => result32 (nat32 a * 2 ^ (b.toNat % 32) : Nat)),
    (.srlw, fun a b => result32 (nat32 a / 2 ^ (b.toNat % 32) : Nat)),
    (.sraw, fun a b => result32 (int32 a / 2 ^ (b.toNat % 32))),
    (.mul, fun a b => BitVec.ofInt 64 (a.toInt * b.toInt)),
    (.mulh, fun a b => BitVec.ofInt 64 (a.toInt * b.toInt / 2 ^ 64)),
    (.mulhsu, fun a b => BitVec.ofInt 64 (a.toInt * b.toNat / 2 ^ 64)),
    (.mulhu, fun a b => BitVec.ofNat 64 (a.toNat * b.toNat / 2 ^ 64)),
    (.mulw, fun a b => result32 (a.toInt * b.toInt)) ]
/-- The divisions and remainders: by zero, all ones or the dividend; the overflow wraps to the dividend and to zero. -/
def divisionOps : List ((XReg → XReg → XReg → Instr) × (Word → Word → Word)) :=
  [ (.div, fun a b => if b = 0 then -1 else BitVec.ofInt 64 (a.toInt.tdiv b.toInt)),
    (.divu, fun a b => if b = 0 then -1 else BitVec.ofNat 64 (a.toNat / b.toNat)),
    (.rem, fun a b => if b = 0 then a else BitVec.ofInt 64 (a.toInt.tmod b.toInt)),
    (.remu, fun a b => if b = 0 then a else BitVec.ofNat 64 (a.toNat % b.toNat)),
    (.divw, fun a b => if nat32 b = 0 then -1 else result32 ((int32 a).tdiv (int32 b))),
    (.divuw, fun a b => if nat32 b = 0 then -1 else result32 (nat32 a / nat32 b : Nat)),
    (.remw, fun a b => if nat32 b = 0 then result32 a.toInt else result32 ((int32 a).tmod (int32 b))),
    (.remuw, fun a b => if nat32 b = 0 then result32 a.toInt else result32 (nat32 a % nat32 b : Nat)) ]
/-- The instructions on a register and a sign-extended 12-bit immediate. -/
def immediateOps : List ((XReg → XReg → BitVec 12 → Instr) × (Word → Int → Word)) :=
  [ (.addi, fun a i => BitVec.ofInt 64 (a.toInt + i)),
    (.slti, fun a i => if a.toInt < i then 1 else 0),
    (.sltiu, fun a i => if a.toNat < (BitVec.ofInt 64 i).toNat then 1 else 0),
    (.xori, fun a i => a ^^^ BitVec.ofInt 64 i),
    (.ori, fun a i => a ||| BitVec.ofInt 64 i),
    (.andi, fun a i => a &&& BitVec.ofInt 64 i),
    (.addiw, fun a i => result32 (a.toInt + i)) ]
/-- The shifts by an amount in the word, of 64 bits. -/
def shiftOps : List ((XReg → XReg → BitVec 6 → Instr) × (Word → Nat → Word)) :=
  [ (.slli, fun a n => BitVec.ofNat 64 (a.toNat * 2 ^ n)),
    (.srli, fun a n => BitVec.ofNat 64 (a.toNat / 2 ^ n)),
    (.srai, fun a n => BitVec.ofInt 64 (a.toInt / 2 ^ n)) ]
/-- The shifts by an amount in the word, of the low 32 bits. -/
def shiftOps32 : List ((XReg → XReg → BitVec 5 → Instr) × (Word → Nat → Word)) :=
  [ (.slliw, fun a n => result32 (nat32 a * 2 ^ n : Nat)),
    (.srliw, fun a n => result32 (nat32 a / 2 ^ n : Nat)),
    (.sraiw, fun a n => result32 (int32 a / 2 ^ n)) ]
/-- The conditional branches and when each is taken. -/
def branchOps : List ((XReg → XReg → BitVec 12 → Instr) × (Word → Word → Prop)) :=
  [ (.beq, fun a b => a = b), (.bne, fun a b => a ≠ b), (.blt, fun a b => a.toInt < b.toInt), (.bge, fun a b => b.toInt ≤ a.toInt),
    (.bltu, fun a b => a.toNat < b.toNat), (.bgeu, fun a b => b.toNat ≤ a.toNat) ]

/-- The number that n bytes make, little-endian (R7). -/
def littleEndian (f : Nat → Byte) : Nat → Nat
  | 0 => 0
  | n + 1 => littleEndian f n + (f n).toNat * 2 ^ (8 * n)
/-- The loads: bytes read, and the register value of the number they make (R63). -/
def loadOps : List ((XReg → XReg → BitVec 12 → Instr) × Nat × (Nat → Word)) :=
  [ (.lb, 1, fun v => BitVec.ofInt 64 ((v : Int).bmod (2 ^ 8))), (.lh, 2, fun v => BitVec.ofInt 64 ((v : Int).bmod (2 ^ 16))),
    (.lw, 4, fun v => BitVec.ofInt 64 ((v : Int).bmod (2 ^ 32))), (.ld, 8, fun v => BitVec.ofNat 64 v),
    (.lbu, 1, fun v => BitVec.ofNat 64 v), (.lhu, 2, fun v => BitVec.ofNat 64 v), (.lwu, 4, fun v => BitVec.ofNat 64 v) ]
/-- The stores and the bytes each writes (R63). -/
def storeOps : List ((XReg → XReg → BitVec 12 → Instr) × Nat) := [(.sb, 1), (.sh, 2), (.sw, 4), (.sd, 8)]

/-- The byte of a core's scratchpad at an offset (R205). -/
def State.scratchByte (s : State) (c off : Nat) : Byte := SMap.get 0 (s.core c).ctx.scratch off
/-- The shuttle in focus may use a window address (R204): the core exists in its partition, is neither fenced nor of the firmware column,
and the offset lies in the scratchpad. -/
abbrev State.WindowAllows (s : State) (a : Nat) : Prop :=
  s.sh.mode ≠ .m ∧ isWindow a = true ∧ s.windowTest (s.partOfVf s.me.vf) s.myCore 0 a = none
/-- No store of the core to the doubleword at an address is still on its way (R77, R228). -/
abbrev State.WindowSettled (s : State) (a : Nat) : Prop := ∀ e ∈ (s.core s.myCore).sbuf, e.block ≠ a / 8
/-- No watched range of the access log of the shuttle's VF holds the address (R355): an access to it counts nowhere. -/
abbrev State.Unlogged (s : State) (a : Nat) : Prop := ∀ e ∈ (s.vf s.me.vf).logRanges, ¬(e.2.base ≤ a ∧ a < e.2.limit)
/-- The state once an access of the shuttle in focus to an address has been counted in the watched ranges of its VF (R355), in which only the
access log of that VF differs. -/
def State.logged (s : State) (acc : Access) (a : Nat) : State := s.noteLog (s.who 0) acc a false
/-- A store has been left on its way: it is the youngest of its core's store buffer, and nothing else outside the slots differs. -/
def StoreLeft (s : State) (e : StoreEntry) (t : State) : Prop :=
  t = { s with slots := t.slots, cores := t.cores } ∧ (∀ b, t.byte b = s.byte b) ∧ (∀ d, d ≠ s.myCore → t.core d = s.core d) ∧
    t.core s.myCore = { s.core s.myCore with sbuf := (s.core s.myCore).sbuf ++ [e] }
/-- Every store in a core's buffer is one of a slot of the package (R8, R225). -/
abbrev State.BufferOfSlots (s : State) (c : Nat) : Prop := ∀ e ∈ (s.core c).sbuf, e.shid < 65536
/-- No vector atomic that has started holds a word until its element is performed (R157). -/
abbrev State.NoPins (s : State) : Prop := ∀ k e, (s.slot k).vrun = some e → e.pins = []
/-- No vector instruction of the thread is incomplete, no store of it is held back, and no load has been taken ahead (R78, R130, R228). -/
abbrev State.VectorIdle (s : State) : Prop := s.me.vq = [] ∧ s.me.vrun = none ∧ s.me.held = [] ∧ s.me.early = []
/-- A trap of the shuttle in focus posts no record (R86): its VF's `trec.EN` is 0. -/
abbrev State.NoRecord (s : State) : Prop := bitOf (s.vfRegs s.me.vf s.myCore).trec 0 = false

/-- The instruction in focus completes and changes nothing of any shuttle but the pc, which goes to the next word. -/
def StepsOn (s t : State) : Prop :=
  (∀ k, k ≠ s.focus → t.slot k = s.slot k) ∧
    t.me = { s.me with sh := { s.sh with pc := s.sh.pc + 4 }, wait := none, earlier := none, completed := true, half := false, jumped := false }
/-- A core with the event counters that it has in t (R357): what counting changes of it. -/
def State.counting (s t : State) (c : Nat) : Core :=
  { s.core c with ctx := { (s.core c).ctx with pmc := (t.core c).ctx.pmc, pmsel := (t.core c).ctx.pmsel } }
/-- Of machine state outside the slots, only the scratchpad of one core differs (R205: its bytes, and the poison that a write clears). -/
def OnlyScratch (s : State) (c : Nat) (t : State) : Prop :=
  t = { s with slots := t.slots, cores := t.cores } ∧ (∀ b, t.byte b = s.byte b) ∧ (∀ d, d ≠ c → t.core d = s.core d) ∧
    t.core c = { s.core c with
      ctx := { (s.core c).ctx with scratch := (t.core c).ctx.scratch, spoison := (t.core c).ctx.spoison } }

/-- The word may run here (R45, R123, R339): its feature is not masked for the VF, and the class of the core implements it. -/
abbrev State.MayRun (s : State) (i : Instr) : Prop :=
  s.masked s.me.vf s.sh.mode i = false ∧ implements (classOf s.myCore) i = true
/-- No store of the shuttle is on its way home, and none has been refused (R218, R229): a release finds nothing to wait for. -/
abbrev State.StoresHome (s : State) : Prop := (∀ e ∈ (s.core s.myCore).sbuf, e.shid ≠ s.focus) ∧ s.me.refused = []
/-- The section whose barrier, ring channel or copy channel is named belongs to the shuttle's partition (R250, R252). -/
abbrev State.Owns (s : State) (sec : Nat) : Prop := (s.part (s.partOfVf s.me.vf)).hasSection sec = true
/-- No deferred engine fault that a test selects is held for the shuttle (R259, R414). -/
abbrev State.NoDeferred (s : State) (p : Deferred → Bool) : Prop := ∀ d ∈ s.me.deferred, p d = false
/-- t differs from s in the slot in focus and in what cores hold, and every byte of memory reads as before. -/
def SlotsAndCores (s t : State) : Prop := t = { s with slots := t.slots, cores := t.cores } ∧ ∀ b, t.byte b = s.byte b
/-- t differs from s in slots, cores and the cluster state of sections, and every byte of memory reads as before. -/
def SlotsCoresSections (s t : State) : Prop :=
  t = { s with slots := t.slots, cores := t.cores, sections := t.sections } ∧ ∀ b, t.byte b = s.byte b
/-- The instruction completed with a register result, whatever it did elsewhere: rd reads as the value, every other register of the
shuttle in focus is unchanged, and its pc is the next word. -/
def Returns (s : State) (rd : XReg) (v : Word) (t : State) : Prop :=
  OnlyXPc s t ∧ t.me.jumped = false ∧ t.sh.pc = s.sh.pc + 4 ∧ t.sh.xbad = s.badAfter rd ∧ ∀ r, t.x r = if r = rd ∧ rd ≠ 0 then v else s.x r

/-- The scalar atomics on unsigned numbers of n bytes: what each stores, from the old value and the operand (R244). -/
def atomicOps : List ((Width → Order → Scope → XReg → XReg → XReg → Instr) × (Nat → Nat → Nat → Nat)) :=
  [ (.amoAdd, fun _ x y => x + y), (.amoAnd, fun _ x y => x &&& y), (.amoOr, fun _ x y => x ||| y), (.amoXor, fun _ x y => x ^^^ y),
    (.amoMin, fun n x y => if (x : Int).bmod (2 ^ (8 * n)) ≤ (y : Int).bmod (2 ^ (8 * n)) then x else y),
    (.amoMax, fun n x y => if (x : Int).bmod (2 ^ (8 * n)) ≤ (y : Int).bmod (2 ^ (8 * n)) then y else x),
    (.amoMinu, fun _ x y => min x y), (.amoMaxu, fun _ x y => max x y), (.amoSwap, fun _ _ y => y) ]
/-- Bytes of a width. -/
def bytesOf : Width → Nat
  | .w => 4 | .d => 8

/-- The FP32 result b as a register value (R69): bits [63:32] equal to bit 31. -/
def registerOfSingle (b : Nat) : Word := BitVec.ofInt 64 ((b : Int).bmod (2 ^ 32))
/-- The FP32 operand bits of a register (R69). -/
def singleOfRegister (v : Word) : Nat := v.toNat % 2 ^ 32
/-- THE RESULT OF A ZFINX INSTRUCTION (R69): rd is written, the flags accrue in `fflags`, the pc goes to the next word, and nothing else
changes. -/
def WritesF (s : State) (rd : XReg) (v : Word) (flags : FFlags) (t : State) : Prop :=
  OnlySlot s t ∧
    t.me = { s.me with
      sh := { s.sh with x := t.sh.x, xbad := s.badAfter rd, pc := s.sh.pc + 4, fcsr := s.sh.fcsr ||| flags.zeroExtend 8 }
      wait := none, earlier := none, completed := true, half := false, jumped := false } ∧
    ∀ r, t.x r = if r = rd ∧ rd ≠ 0 then v else s.x r
/-- The Zfinx arithmetic on two operands: the exact value and the flags before rounding (R69). -/
def singleOps : List ((XReg → XReg → XReg → BitVec 3 → Instr) × (Rm → Fp → Fp → Fp × FFlags)) :=
  [ (.faddS, fun m a b => Fp.add m a b), (.fsubS, fun m a b => Fp.add m a b.negate), (.fmulS, fun _ a b => a.mul b),
    (.fdivS, fun _ a b => a.div b) ]
/-- The fused operations: the exact value of plus or minus a product plus or minus an addend. -/
def fusedOps : List ((XReg → XReg → XReg → XReg → BitVec 3 → Instr) × (Rm → Fp → Fp → Fp → Fp × FFlags)) :=
  [ (.fmaddS, fun m a b c => Fp.fma m a b c), (.fmsubS, fun m a b c => Fp.fma m a b c.negate),
    (.fnmsubS, fun m a b c => Fp.fma m a.negate b c), (.fnmaddS, fun m a b c => Fp.fma m a.negate b c.negate) ]
/-- The conversions to an integer: width and signedness. -/
def toIntegerOps : List ((XReg → XReg → BitVec 3 → Instr) × Nat × Bool) :=
  [ (.fcvtWS, 32, true), (.fcvtWuS, 32, false), (.fcvtLS, 64, true), (.fcvtLuS, 64, false) ]
/-- The conversions from an integer: the number that the register holds. -/
def fromIntegerOps : List ((XReg → XReg → BitVec 3 → Instr) × (Word → Int)) :=
  [ (.fcvtSW, int32), (.fcvtSWu, fun v => nat32 v), (.fcvtSL, fun v => v.toInt), (.fcvtSLu, fun v => v.toNat) ]
/-- The sign injections: the sign that the result takes, from those of the operands (R69, as published). -/
def signOps : List ((XReg → XReg → XReg → Instr) × (Bool → Bool → Bool)) :=
  [ (.fsgnjS, fun _ b => b), (.fsgnjnS, fun _ b => !b), (.fsgnjxS, fun a b => a != b) ]

/-- CSRs that belong to the shuttle alone: address, value, and what a write of a value makes of the shuttle (R16, R22 to R25, R68). -/
def shuttleCsrs : List (BitVec 12 × (Shuttle → Word) × (Shuttle → Word → Shuttle)) :=
  [ (0x140, (·.sscratch), fun sh v => { sh with sscratch := v }), (0x141, (·.sepc), fun sh v => { sh with sepc := v &&& ~~~3 }),
    (0x142, (·.scause), fun sh v => { sh with scause := v }), (0x143, (·.stval), fun sh v => { sh with stval := v }),
    (0x5C0, fun sh => sh.tcause.zeroExtend 64, fun sh v => { sh with tcause := v.truncate 10 }),
    (0x805, fun sh => sh.vresume.zeroExtend 64, fun sh v => { sh with vresume := v.truncate 13 }),
    (0x807, fun sh => sh.wlimit.zeroExtend 64, fun sh v => { sh with wlimit := v.truncate 32 }) ]
/-- The six CSR instructions with a source value: whether one writes, and what it writes, from the old value (R61, as published). -/
def csrOps (rd : XReg) (rs1 : XReg) (u : BitVec 5) (csr : BitVec 12) (src : Word) : List (Instr × Bool × (Word → Word)) :=
  [ (.csrrw rd rs1 csr, true, fun _ => src), (.csrrs rd rs1 csr, decide (rs1 ≠ 0), fun o => o ||| src),
    (.csrrc rd rs1 csr, decide (rs1 ≠ 0), fun o => o &&& ~~~src),
    (.csrrwi rd u csr, true, fun _ => u.zeroExtend 64), (.csrrsi rd u csr, decide (u ≠ 0), fun o => o ||| u.zeroExtend 64),
    (.csrrci rd u csr, decide (u ≠ 0), fun o => o &&& ~~~(u.zeroExtend 64)) ]

/-- Word i of the 64-byte block at a window address: its 8 bytes, little-endian. -/
def State.windowWord (s : State) (a i : Nat) : Word :=
  BitVec.ofNat 64 (littleEndian (fun j => s.scratchByte (windowCore a) (windowOff a + 8 * i + j)) 8)
/-- The eight words of the block at a window address. -/
def State.windowBlock (s : State) (a : Nat) : List Word := (List.range 8).map (s.windowWord a)
/-- An aligned 64-byte block at a window address that the shuttle may use, with no poison in it, no store of the core to it on its way, and
outside the watched ranges of the access log: reading it has no other effect. -/
abbrev State.BlockReadable (s : State) (a : Nat) : Prop :=
  a % 64 = 0 ∧ s.WindowAllows a ∧ (∀ e ∈ (s.core s.myCore).sbuf, e.block / 8 ≠ a / 64) ∧
    ∀ i < 8, SMap.get false (s.core (windowCore a)).ctx.spoison (windowOff a / 8 + i) = false ∧ s.Unlogged (a + 8 * i)
/-- The register writes that a CSR-step or engine step makes outside the shuttle's own instruction stream leave pc and wait alone. -/
def OnlySh (s : State) (f : Shuttle → Shuttle) (t : State) : Prop := OnlySlot s t ∧ t.me = { s.me with sh := f s.me.sh }
/-- The slot that the subject of a step names. -/
def State.subjectSlot (s : State) : Nat := s.subject.core * 16 + s.subject.slot

/-- What the shuttle in focus holds on entry into its S handler (R80): its other registers are unchanged. -/
def HandlerSh (s : State) (c : BitVec 10) (scause tval : Word) (t : State) : Prop :=
  t.sh = { s.sh with
    pc := (s.vfRegs s.me.vf s.myCore).stvec &&& ~~~3, sepc := s.sh.pc &&& ~~~3, scause := scause, stval := tval, tcause := c
    spie := s.sh.sie, sie := false, spp := s.sh.mode != .u, mode := .s }
/-- AN ENTRY INTO THE S HANDLER (R80), with nothing else changed. -/
def EntersS (s : State) (c : BitVec 10) (scause tval : Word) (t : State) : Prop :=
  OnlySlot s t ∧ t.me.life = .ready ∧ t.me.vf = s.me.vf ∧ HandlerSh s c scause tval t
/-- AN ENTRY INTO THE M HANDLER (R100). -/
def EntersM (s : State) (c : BitVec 10) (mcause tval : Word) (t : State) : Prop :=
  OnlySlot s t ∧ t.me.life = .ready ∧ t.me.m.mepc = s.sh.pc ∧ t.me.m.mcause = mcause ∧ t.me.m.mtval = tval ∧
    t.me.m.mtvec = s.me.m.mtvec ∧
    t.sh = { s.sh with tcause := c, mode := .m, pc := s.me.m.mtvec &&& ~~~3 }

/-- Of machine state, only one core differs, by a function of what it held. -/
def OnlyCore (s : State) (c : Nat) (f : Core → Core) (t : State) : Prop :=
  t = { s with cores := t.cores } ∧ (∀ d, d ≠ c → t.core d = s.core d) ∧ t.core c = f (s.core c)
/-- Of machine state, only one VF differs, by a function of what it held. -/
def OnlyVf (s : State) (v : Nat) (f : Vf → Vf) (t : State) : Prop :=
  t = { s with vfs := t.vfs } ∧ (∀ w, w ≠ v → t.vf w = s.vf w) ∧ t.vf v = f (s.vf v)
/-- Of machine state, only one partition differs, by a function of what it held. -/
def OnlyPart (s : State) (p : Nat) (f : Partition → Partition) (t : State) : Prop :=
  t = { s with parts := t.parts } ∧ (∀ q, q ≠ p → t.part q = s.part q) ∧ t.part p = f (s.part p)
/-- Of machine state, only one slot differs, by a function of what it held. -/
def OnlySlotAt (s : State) (k : Nat) (f : Slot → Slot) (t : State) : Prop :=
  t = { s with slots := t.slots } ∧ (∀ j, j ≠ k → t.slot j = s.slot j) ∧ t.slot k = f (s.slot k)

/-- A vector instruction may be performed at once (R128, R146): it may run here, the thread's queue is empty, its decode checks pass, no row
is poisoned, its counters have room (R23), the vector unit acts at once, and it is this thread's turn (R129). -/
abbrev State.VectorReady (s : State) (i : Instr) : Prop :=
  s.MayRun i ∧ s.VectorIdle ∧ vecLate i s.sh = none ∧ s.me.vpoison = [] ∧ s.eager = true ∧
    s.unitPick s.myCore (some s.focus) = some s.focus ∧ s.countersFull s.focus i = false
/-- The element type and lengths are ones that `vsetl` can leave (R19, R20, R147). -/
abbrev State.VectorType (s : State) (e : EType) : Prop :=
  s.sh.vtype = some e ∧ s.sh.vlr.toNat ≤ 8 ∧ s.sh.vlc.toNat ≤ e.cols
/-- The number of elements: `vlr` times `vlc` (R133). -/
def State.elements (s : State) : Nat := s.sh.vlr.toNat * s.sh.vlc.toNat
/-- Element i of a vector register of the thread in focus, read at a width (R102, R133): row i / `vlc`, column i mod `vlc`. -/
def State.velt (s : State) (w : Nat) (v : VReg) (i : Nat) : Nat :=
  (SMap.get 0 s.me.vregs (8 * v.val + i / s.sh.vlc.toNat)).toNat / 2 ^ (w * (i % s.sh.vlc.toNat)) % 2 ^ w
/-- A bit of a mask register of the thread in focus (R134). -/
def State.mbit (s : State) (m : MReg) (i : Nat) : Bool := (SMap.get 0 s.me.masks m.val).getLsbD i
/-- The element is active (R133, R134): at or above the start index, below N, and its mask bit is set, `m0` or no mask meaning all. -/
abbrev State.ActiveElt (s : State) (m : MReg) (i : Nat) : Prop :=
  s.sh.vresume.toNat ≤ i ∧ i < s.elements ∧ (m = 0 ∨ s.mbit m i = true)
/-- A vector instruction has completed (R128, R145): its thread stands at the next word with `vresume` 0, no entry is left of it, and
nothing but slots and core counters differs. -/
def VectorDone (s t : State) : Prop :=
  SlotsAndCores s t ∧ (∀ k, k ≠ s.focus → t.slot k = s.slot k) ∧ t.sh.pc = s.sh.pc + 4 ∧ t.sh.vresume = 0 ∧ t.VectorIdle ∧
    t.sh.vtype = s.sh.vtype ∧ t.sh.vlr = s.sh.vlr ∧ t.sh.vlc = s.sh.vlc ∧ t.sh.mode = s.sh.mode
/-- The vector loads and stores of elements of n whole bytes, each pair with the address of element i (R150). -/
def State.vectorForms (s : State) (o v : Bool) (vd vi : VReg) (rs1 rs2 : XReg) (n : Nat) : List (Instr × Instr × (Nat → Word)) :=
  [ (.vld o v false vd rs1, .vst o v false vd rs1, fun i => s.x rs1 + BitVec.ofNat 64 (n * i)),
    (.vlds o v vd rs1 rs2, .vsts o v vd rs1 rs2, fun i => s.x rs1 + BitVec.ofNat 64 i * s.x rs2),
    (.vldx o v vd rs1 vi, .vstx o v vd rs1 vi, fun i => s.x rs1 + BitVec.ofInt 64 (((SMap.get 0 s.me.vregs
      (8 * ((vi.val + i % s.sh.vlc.toNat / 32) % 32) + i / s.sh.vlc.toNat)).toNat / 2 ^ (32 * (i % s.sh.vlc.toNat % 32)) : Int).bmod
        (2 ^ 32))),
    (.vld2 o v false vd rs1 rs2, .vst2 o v false vd rs1 rs2,
      fun i => s.x rs1 + BitVec.ofNat 64 (i / s.sh.vlc.toNat) * s.x rs2 + BitVec.ofNat 64 (n * (i % s.sh.vlc.toNat))) ]
/-- An element of n bytes lies aligned in a scratchpad that the thread may use, with no poison, with no store of the core to it on its way,
and outside the watched ranges of the access log: an access to it faults nowhere and leaves no other trace. -/
abbrev State.PlainElement (s : State) (n : Nat) (a : Word) : Prop :=
  a.toNat % n = 0 ∧ s.WindowAllows a.toNat ∧ s.WindowSettled a.toNat ∧ s.Unlogged a.toNat ∧
    SMap.get false (s.core (windowCore a.toNat)).ctx.spoison (windowOff a.toNat / 8) = false
/-- An access by the vector unit to an element of n bytes at an address faults with a cause (R141, R151, R286, R289): the address is not a
multiple of n; or else it is a window address that its test refuses, is reserved, or lies in a region whose protection refuses it. -/
def State.ElementFaults (s : State) (acc : Access) (n : Nat) (a : Word) (c : BitVec 10) : Prop :=
  if a.toNat % n ≠ 0 then c = cause 5 1 5
  else if isReservedVa a.toNat then c = pageFault 1 acc
  else if isWindow a.toNat then s.windowTest (s.partOfVf s.me.vf) s.myCore 1 a.toNat = some c
  else ∃ u, s.plbRights (s.vecWho s.focus s.sh) acc a.toNat = .fault u c a
/-- Every row of every other vector register is unchanged. -/
def OtherRows (s t : State) (v : VReg) : Prop :=
  ∀ j, j / 8 ≠ v.val → SMap.get 0 t.me.vregs j = SMap.get 0 s.me.vregs j
/-- Read by ext (R142): a w-bit element as a signed or unsigned number. -/
def extElt (w : Nat) (signed : Bool) (v : Nat) : Int := if signed then (v : Int).bmod (2 ^ w) else v
/-- The vector integer instructions (R158) on w-bit elements of a type with the signedness given, as exact arithmetic: the exact result
before it wraps. The saturating forms and the forms by minimum and maximum clamp or choose first. -/
def vectorOps : List ((Bool → MReg → VReg → VReg → VReg → Instr) × (Nat → Bool → Nat → Nat → Int)) :=
  let s (w v : Nat) : Int := extElt w true v
  let clamp (lo hi t : Int) : Int := max lo (min hi t)
  [ (.vadd, fun w g p q => extElt w g p + extElt w g q), (.vsub, fun w g p q => extElt w g p - extElt w g q),
    (.vmul, fun w g p q => extElt w g p * extElt w g q), (.vmulh, fun w g p q => extElt w g p * extElt w g q / 2 ^ w),
    (.vmin, fun w _ p q => min (s w p) (s w q)), (.vmax, fun w _ p q => max (s w p) (s w q)),
    (.vminu, fun _ _ p q => (min p q : Nat)), (.vmaxu, fun _ _ p q => (max p q : Nat)),
    (.vand, fun _ _ p q => (p &&& q : Nat)), (.vor, fun _ _ p q => (p ||| q : Nat)), (.vxor, fun _ _ p q => (p ^^^ q : Nat)),
    (.vsll, fun w _ p q => (p * 2 ^ (q % w) : Nat)), (.vsrl, fun w _ p q => (p / 2 ^ (q % w) : Nat)),
    (.vsra, fun w _ p q => s w p / 2 ^ (q % w)),
    (.vsadd, fun w _ p q => clamp (-2 ^ (w - 1)) (2 ^ (w - 1) - 1) (s w p + s w q)),
    (.vssub, fun w _ p q => clamp (-2 ^ (w - 1)) (2 ^ (w - 1) - 1) (s w p - s w q)),
    (.vsaddu, fun w _ p q => clamp 0 (2 ^ w - 1) (p + q)), (.vssubu, fun w _ p q => clamp 0 (2 ^ w - 1) (p - q)) ]

/-- A shuttle as its entry into the S handler leaves it (R80): the cause registers, the saved pc and status, S mode with SIE clear, and the pc
given; every other register is unchanged. -/
def handled (sh : Shuttle) (pc : Word) (c : BitVec 10) (scause tval epc : Word) : Shuttle :=
  { sh with
    pc := pc, sepc := epc &&& ~~~3, scause := scause, stval := tval, tcause := c
    spie := sh.sie, sie := false, spp := sh.mode != .u, mode := .s }
/-- The shuttle of a slot has entered its S handler. -/
def TrapsSlot (s : State) (k : Nat) (c : BitVec 10) (scause tval epc : Word) (t : State) : Prop :=
  (t.slot k).life = .ready ∧
    (t.slot k).sh = handled (s.slot k).sh ((s.vfRegs (s.slot k).vf (k / 16)).stvec &&& ~~~3) c scause tval epc
/-- A trap of the shuttle of a slot is taken in S mode and posts no record (R80, R86, R100). -/
abbrev State.PlainTrap (s : State) (k : Nat) : Prop :=
  (s.slot k).sh.mode ≠ .m ∧ bitOf (s.vfRegs (s.slot k).vf (k / 16)).trec 0 = false
/-- Nothing of the shuttle of a slot is outstanding (R94): no vector instruction, store, command, copy, deferred fault or refusal. -/
abbrev State.Settled (s : State) (k : Nat) : Prop :=
  (s.slot k).vq = [] ∧ (s.slot k).vrun = none ∧ (s.slot k).held = [] ∧ (s.slot k).tl = 0 ∧ (s.slot k).cp = 0 ∧ (s.slot k).deferred = [] ∧
    (s.slot k).refused = [] ∧ ∀ e ∈ (s.core (k / 16)).sbuf, e.shid ≠ k
/-- A shuttle has arrived in a slot with the state of its frame (R29): vector registers and masks are empty, depth and mix are the core's. -/
def Arrives (t : State) (k : Nat) (f : Frame) : Prop :=
  (t.slot k).life = .ready ∧ (t.slot k).vf = f.vf ∧ (t.slot k).vregs = [] ∧ (t.slot k).masks = [] ∧
    (t.slot k).sh = { f.sh with mix := (t.slot k).sh.mix, vdepth := (t.slot k).sh.vdepth, vlr := (t.slot k).sh.vlr }
/-- A start has taken a slot without a scratch grant (R31): pc, arguments, mode and VF as its block gives them, every other x register zero. -/
def Started (t : State) (k : Nat) (e : Start) : Prop :=
  (t.slot k).life = .ready ∧ (t.slot k).vf = e.vf ∧ (t.slot k).sh.pc = e.entry ∧
    (t.slot k).sh.mode = (if bitsOf e.control 31 30 = 1 then Mode.s else .u) ∧
    ∀ r : XReg, (t.slot k).sh.getX r = if r = 10 then e.arg0 else if r = 11 then e.arg1 else 0

/-- A frame has no key yet, or the one of the index given: an access under that index reads its bytes as they were written (R351). -/
abbrev State.KeyFits (s : State) (ma kidx : Nat) : Prop :=
  SMap.get 0 s.fkey (ma / 65536) = 0 ∨ SMap.get 0 s.fkey (ma / 65536) = s.keyId kidx

/-- Of machine state, only one queue of one VF differs, by a function of what it held. -/
def OnlyQueue (s : State) (v q : Nat) (f : HostQueue → HostQueue) (t : State) : Prop :=
  t = { s with vfs := t.vfs } ∧ (∀ w, w ≠ v → t.vf w = s.vf w) ∧ t.vf v = { s.vf v with queues := (t.vf v).queues } ∧
    ∀ p, (t.vf v).queue p = if p = q then f ((s.vf v).queue p) else (s.vf v).queue p
/-- A queue whose record a die has consumed (R302): the die's consumed index is one on, and it waits for nothing. -/
def consumedBy (d : Nat) (h : HostQueue) : HostQueue :=
  { h with consumed := SMap.put 0 h.consumed d (h.at_ d + 1), waits := SMap.put 0 h.waits d 0 }
/-- A die has had its turn with a queue: its round robin goes on from the next (R304). -/
def State.turned (s : State) (v q d : Nat) : State := s.updDie d fun x => { x with next := (16 * v + q + 1) % 4096 }
/-- The copy channels of sections, with no translation held (R291). -/
def channelsCleared (l : SMap SectionCtx) : SMap SectionCtx :=
  l.map fun e => (e.1, { e.2 with chans := e.2.chans.map fun c => (c.1, { c.2 with atb := [] }) })
/-- A die may consume from a queue, and it has read the record r of index k there, which passes the check (R304, R306); u is the state after
the read. -/
abbrev State.RecordRead (s u : State) (v q d k : Nat) (r : List Word) : Prop :=
  s.dieTurn d = some (16 * v + q) ∧ v < 256 ∧ q < 16 ∧ k = (((s.vf v).queue q).at_ d).toNat ∧
    s.dieRead (s.dieWho v d) (((s.vf v).queue q).base + 64 * (k % 2 ^ ((s.vf v).queue q).z)) 8 = .ok u r ∧ u.recordBad v k r = false
/-- A start can take its core's free slot j at once (R70, R311): the core is there and not fenced, nothing is ahead of it, no frame is on its way there (log entry 90), and it asks for no
scratch grant. -/
abbrev State.StartFits (s : State) (e : Start) (j : Nat) : Prop :=
  s.eager = true ∧ s.inPart (s.partOfVf e.vf) e.core = true ∧ s.isFenced e.core = false ∧ s.queued = [] ∧ s.starts = [] ∧
    (∀ f ∈ s.frames, f.dst ≠ e.core) ∧ s.freeSlot e.core = some j ∧ bitsOf e.control 14 4 = 0
/-- The host as the accessor of an access through BAR 2 (R343). -/
def State.hostWho (s : State) (v : Nat) : Who :=
  { vf := v, core := s.dieCore v (s.leadDie (s.partOfVf v)), mode := .s, agent := 3, buf := .none }
/-- A byte of the scratchpad of a core as the host finds it for a VF: of the saved context while the VF is switched out (R330, R343). -/
def State.hostByte (s : State) (v c o : Nat) : Byte := SMap.get 0 (s.windowCtx (s.hostWho v) c).scratch o
/-- A VF has been reset (R393): a new key, registers and events at reset, every queue Stopped, nothing that ran left, and its registrations
Owner-lost; no byte of memory is changed. -/
def WasReset (s : State) (v : Nat) (t : State) : Prop :=
  (t.vf v).keyGen = (s.vf v).keyGen + 1 ∧ (t.vf v).regs = {} ∧ (t.vf v).hasRun = false ∧ (t.vf v).ext = [] ∧ (t.vf v).deadline = none ∧
    (t.vf v).saved = {} ∧ (∀ q, ((t.vf v).queue q).state = .stopped) ∧ (∀ w ∈ t.watches, w.vf ≠ v) ∧ (∀ e ∈ t.starts, e.vf ≠ v) ∧
    (∀ f ∈ t.frames, f.vf ≠ v) ∧ (∀ wd c, wd < 2 ^ 56 → (s.homeState v wd).owner = some c → (t.homeState v wd).loser = some c) ∧
    ∀ b, t.byte b = s.byte b

/-- A request stands at the head of those that wait at firmware, with this number, from a caller of which no service is in progress; a
shuttle that called waits for the reply (R66, R347, R348). -/
abbrev State.Asks (s : State) (n : Nat) (r : Request) (rest : List Request) : Prop :=
  s.requests = r :: rest ∧ r.number.toNat = n ∧ (∀ l ∈ s.longs, l.req.sameCaller r = false) ∧
    ∀ k ∈ r.slot, s.running r.vf = true ∧ (s.slot k).vf = r.vf ∧ (s.slot k).wait.any (fun w => w.kind == .firmware) = true
/-- The reply to a request (R66, R347): the mailbox holds status and values with its done bit set, or the shuttle that called has them in a0
to a3 and stands at the next word; nothing else changes. -/
def Answered (u : State) (r : Request) (status : Nat) (vals : List Word) (t : State) : Prop :=
  t = { u with slots := t.slots, mailbox := t.mailbox } ∧
    (r.slot = none → (∀ k, t.slot k = u.slot k) ∧ t.mailbox.busy = false ∧ t.mailbox.done = true ∧
      ∀ i < 4, SMap.get 0 t.mailbox.reply i = (BitVec.ofNat 64 status :: vals).getD i 0) ∧
    ∀ k ∈ r.slot, t.mailbox = u.mailbox ∧ (∀ j, j ≠ k → t.slot j = u.slot j) ∧ (t.slot k).life = .ready ∧
      (t.slot k).sh.pc = (u.slot k).sh.pc + 4 ∧
      ∀ q : XReg, (t.slot k).sh.getX q = if q = 10 then BitVec.ofNat 64 status else if q = 11 then vals.getD 0 0
        else if q = 12 then vals.getD 1 0 else if q = 13 then vals.getD 2 0 else (u.slot k).sh.getX q
/-- A service has been performed and answered (R347, R348): u is the state that it makes, of which p holds. -/
def Served (i : Instr) (s : State) (r : Request) (status : Nat) (vals : List Word) (p : State → Prop) : Prop :=
  ∃ u t, exec i s = .next t ∧ p u ∧ Answered u r status vals t
/-- The notice of class 0xD is pending on every core of a partition that is not of the firmware column (R83, R325). -/
def Noticed (s : State) (p det : Nat) (t : State) : Prop :=
  ∀ c ∈ s.partCores p, s.inColumn c = false → bitOf (t.core c).ctx.sip 16 = true ∧ (t.core c).ctx.notice = det

/-! Vector elements beyond the integer ones of one width (R143, R159 to R161, R167, R169, R174). -/

/-- Element i of the register group at v of element width w of the thread in focus (R143): column j of row r lies in register v + j / C, at C
columns a register. -/
def State.gelt (s : State) (w : Nat) (v : VReg) (i : Nat) : Nat :=
  (SMap.get 0 s.me.vregs (8 * ((v.val + i % s.sh.vlc.toNat / (1024 / w)) % 32) + i / s.sh.vlc.toNat)).toNat /
    2 ^ (w * (i % s.sh.vlc.toNat % (1024 / w))) % 2 ^ w
/-- Every row outside the n registers from v on is unchanged. -/
def OutsideGroup (s t : State) (v : VReg) (n : Nat) : Prop :=
  ∀ j, (∀ m < n, j / 8 ≠ v.val + m) → SMap.get 0 t.me.vregs j = SMap.get 0 s.me.vregs j
/-- The widening instructions (R159): the exact result from the group element of vd and the elements of vs1 and vs2, before it wraps. -/
def vectorWideOps : List ((Bool → MReg → VReg → VReg → VReg → Instr) × (Int → Int → Int → Int)) :=
  [ (.vwadd, fun _ p q => p + q), (.vwmul, fun _ p q => p * q), (.vwmacc, fun d p q => d + p * q) ]
/-- A number clamped to the range of w bits (R101). -/
def clampTo (w : Nat) (signed : Bool) (t : Int) : Int :=
  if signed then max (-2 ^ (w - 1)) (min (2 ^ (w - 1) - 1) t) else max 0 (min (2 ^ w - 1) t)
/-- The narrowing instructions (R160): the result from the width, the signedness, the number and the shift, before it wraps. -/
def vectorNarrowOps : List ((Bool → MReg → VReg → VReg → VReg → Instr) × (Nat → Bool → Int → Nat → Int)) :=
  [ (.vnsr, fun _ _ t n => t / 2 ^ n),
    (.vclip, fun w g t n => clampTo w g ((t + (if 0 < n then 2 ^ (n - 1) else 0)) / 2 ^ n)) ]
/-- The FP instructions on elements (R117, R161): the exact value and the flags before the one rounding, from the elements of vd, vs1 and
vs2. -/
def vectorFpOps : List ((Bool → MReg → VReg → VReg → VReg → Instr) × (Rm → Fp → Fp → Fp → Fp × FFlags)) :=
  [ (.vfadd, fun m _ a b => Fp.add m a b), (.vfsub, fun m _ a b => Fp.add m a b.negate), (.vfmul, fun _ _ a b => a.mul b),
    (.vfdiv, fun _ _ a b => a.div b), (.vfmacc, fun m d a b => Fp.fma m a b d),
    (.vfnmacc, fun m d a b => Fp.fma m a.negate b d.negate) ]
/-- The conversion of one element by `vcvt` (R167), its flags apart: from a type and its bits to another type. Integers and values rounded to
integers are clamped; values are rounded once; tapered codes are decoded exactly, and encoded by their own rule. -/
def convertedTo (src dst : EType) (rm : Rm) (v : Nat) : Nat :=
  let fp : Fp := if src.isInt then ofSigned (extElt src.width src.isSigned v) 0 false
    else if src.isTap then decTap (src == .t6) v else src.fmt.decode v
  if dst.isInt then
    ((if src.isInt then clampTo dst.width dst.isSigned (extElt src.width src.isSigned v)
      else match fp with
        | .nan _ => 0
        | .inf neg => clampTo dst.width dst.isSigned (if neg then -2 ^ 64 else 2 ^ 64)
        | .fin neg m k => clampTo dst.width dst.isSigned (toInteger rm neg m k).1) % 2 ^ dst.width).toNat
  else if dst.isTap then (encTap (dst == .t6) fp).1
  else (dst.fmt.round rm fp).1

/-- One word of each family, field by field from the encoding tables of the spec (R34 to R39), with the instruction that it stands for. -/
def decodeSamples : List (BitVec 32 × Instr) :=
  [ (0b10101011110011011110#20 ++ 0b00011#5 ++ 0b0110111#7, .lui 3 0xABCDE),
    (0b0#1 ++ 0b0000000100#10 ++ 0b0#1 ++ 0b00000000#8 ++ 0b00011#5 ++ 0b1101111#7, .jal 3 4),
    (0b0#1 ++ 0b000000#6 ++ 0b01001#5 ++ 0b00101#5 ++ 0b000#3 ++ 0b1000#4 ++ 0b0#1 ++ 0b1100011#7, .beq 5 9 8),
    (0b100110100111#12 ++ 0b00101#5 ++ 0b011#3 ++ 0b00011#5 ++ 0b0000011#7, .ld 3 5 0x9A7),
    (0b0111111#7 ++ 0b01001#5 ++ 0b00101#5 ++ 0b011#3 ++ 0b00101#5 ++ 0b0100011#7, .sd 5 9 0x7E5),
    (0b010000#6 ++ 0b101011#6 ++ 0b00101#5 ++ 0b101#3 ++ 0b00011#5 ++ 0b0010011#7, .srai 3 5 0x2B),
    (0b0100000#7 ++ 0b01001#5 ++ 0b00101#5 ++ 0b000#3 ++ 0b00011#5 ++ 0b0110011#7, .sub 3 5 9),
    (0b0000001#7 ++ 0b01001#5 ++ 0b00101#5 ++ 0b000#3 ++ 0b00011#5 ++ 0b0111011#7, .mulw 3 5 9),
    (0b0000#4 ++ 0b0011#4 ++ 0b0011#4 ++ 0b00000#5 ++ 0b000#3 ++ 0b00000#5 ++ 0b0001111#7, .fence 0 3 3 0 0),
    (0b000100000101#12 ++ 0b00101#5 ++ 0b001#3 ++ 0b00011#5 ++ 0b1110011#7, .csrrw 3 5 0x105),
    (0b00111#5 ++ 0b00#2 ++ 0b01001#5 ++ 0b00101#5 ++ 0b001#3 ++ 0b00011#5 ++ 0b1000011#7, .fmaddS 3 5 9 7 1),
    (0b0000000#7 ++ 0b01001#5 ++ 0b00101#5 ++ 0b001#3 ++ 0b00011#5 ++ 0b1010011#7, .faddS 3 5 9 1),
    (0b1#1 ++ 0b000000#6 ++ 0b01001#5 ++ 0b00101#5 ++ 0b000#3 ++ 0b00011#5 ++ 0b0001011#7, .shstart 3 5 9),
    (0b1#1 ++ 0b0#1 ++ 0b1#1 ++ 0b10#2 ++ 0b10#2 ++ 0b01001#5 ++ 0b00101#5 ++ 0b011#3 ++ 0b00011#5 ++ 0b0001011#7, .amoAdd .d .rel .pkg 3 5 9),
    (0b1#1 ++ 0b000#3 ++ 0b1#1 ++ 0b0#1 ++ 0b1#1 ++ 0b00000#5 ++ 0b00101#5 ++ 0b000#3 ++ 0b01000#5 ++ 0b0101011#7, .vld true false true 8 5),
    (0b1#1 ++ 0b00000#5 ++ 0b101011#6 ++ 0b00101#5 ++ 0b101#3 ++ 0b00000#5 ++ 0b0101011#7, .barInit 0x2B 5),
    (0b000#3 ++ 0b1#1 ++ 0b010#3 ++ 0b01100#5 ++ 0b00100#5 ++ 0b000#3 ++ 0b01000#5 ++ 0b1011011#7, .vadd true 2 8 4 12),
    (0b0110#4 ++ 0b101#3 ++ 0b01001#5 ++ 0b00101#5 ++ 0b001#3 ++ 0b00000#5 ++ 0b1111011#7, .mcfg .i8i8 5 5 9) ]
/-- Words that are no instruction (R36, R38): all zeros, a reserved opcode, and an integer register field of 16. -/
def rejectSamples : List (BitVec 32 × Reject) :=
  [ (0, .illegal), (0b0000000000000000000000000#25 ++ 0b0011111#7, .reservedLater),
    (0b0000000#7 ++ 0b01001#5 ++ 0b00101#5 ++ 0b000#3 ++ 0b10000#5 ++ 0b0110011#7, .registerField) ]

end Sys2Proof.Machine
end

