-- ==== Sys2Proof/Certificates/Slice0/Obligations.lean ====
section
/-! DEFINITION. The statements for the provers: what each instruction and step does, what it leaves alone and where it completes; that decoding
undoes encoding; and that every step keeps memory in its canonical form. -/

open Sys2Proof Sys2Proof.Machine

/-- INTEGER INSTRUCTIONS (R61, R14): each register instruction completes on every operand (division by zero and signed overflow too), writes the
exact integer result, narrowed, to rd (nothing where rd is x0), and changes nothing else; so do the immediate ones, whose 12-bit immediate
is a signed number and shift amount an unsigned one, LUI, and AUIPC from the pc. -/
def Obligations.RegisterInstructionsWriteTheirResult : Prop :=
  (
    ∀ e ∈ registerOps, ∀ (rd rs1 rs2 : XReg) (s : State),
      ∃ t, exec (e.1 rd rs1 rs2) s = .next t ∧ WritesX s rd (e.2 (s.x rs1) (s.x rs2)) t) ∧
  (
    ∀ e ∈ divisionOps, ∀ (rd rs1 rs2 : XReg) (s : State),
      ∃ t, exec (e.1 rd rs1 rs2) s = .next t ∧ WritesX s rd (e.2 (s.x rs1) (s.x rs2)) t) ∧
  (
    (∀ e ∈ immediateOps, ∀ (rd rs1 : XReg) (imm : BitVec 12) (s : State),
      ∃ t, exec (e.1 rd rs1 imm) s = .next t ∧ WritesX s rd (e.2 (s.x rs1) imm.toInt) t) ∧
    (∀ e ∈ shiftOps, ∀ (rd rs1 : XReg) (n : BitVec 6) (s : State),
      ∃ t, exec (e.1 rd rs1 n) s = .next t ∧ WritesX s rd (e.2 (s.x rs1) n.toNat) t) ∧
    (∀ e ∈ shiftOps32, ∀ (rd rs1 : XReg) (n : BitVec 5) (s : State),
      ∃ t, exec (e.1 rd rs1 n) s = .next t ∧ WritesX s rd (e.2 (s.x rs1) n.toNat) t) ∧
    (∀ (rd : XReg) (imm : BitVec 20) (s : State),
      (∃ t, exec (.lui rd imm) s = .next t ∧ WritesX s rd (BitVec.ofInt 64 (imm.toInt * 4096)) t) ∧
      (∃ t, exec (.auipc rd imm) s = .next t ∧ WritesX s rd (s.sh.pc + BitVec.ofInt 64 (imm.toInt * 4096)) t)))

/-- WHERE THE INTEGER INSTRUCTIONS GO ON (R34, R61): a branch that is taken, JAL and JALR go to an aligned target, and JAL and JALR write the
next pc to rd; a branch not taken goes on to the next word; and so do, on every operand and in every state, LUI, AUIPC, the ALU instructions
on an immediate and on two registers, and the multiplications and divisions, which change nothing but rd and the pc. -/
def Obligations.AlignedControlTransfersComplete : Prop :=
  (∀ e ∈ branchOps, ∀ (rs1 rs2 : XReg) (off : BitVec 12) (s : State),
    (e.2 (s.x rs1) (s.x rs2) → (s.sh.pc + BitVec.ofInt 64 (off.toInt * 2)).toNat % 4 = 0 →
      ∃ t, exec (e.1 rs1 rs2 off) s = .next t ∧ JumpsTo s 0 0 (s.sh.pc + BitVec.ofInt 64 (off.toInt * 2)) t) ∧
    (¬ e.2 (s.x rs1) (s.x rs2) → ∃ t, exec (e.1 rs1 rs2 off) s = .next t ∧ WritesX s 0 0 t)) ∧
  (∀ (rd : XReg) (off : BitVec 20) (s : State), (s.sh.pc + BitVec.ofInt 64 (off.toInt * 2)).toNat % 4 = 0 →
    ∃ t, exec (.jal rd off) s = .next t ∧ JumpsTo s rd (s.sh.pc + 4) (s.sh.pc + BitVec.ofInt 64 (off.toInt * 2)) t) ∧
  (∀ (rd rs1 : XReg) (imm : BitVec 12) (s : State),
    (s.x rs1 + BitVec.ofInt 64 imm.toInt).toNat / 2 % 2 = 0 →
    ∃ t, exec (.jalr rd rs1 imm) s = .next t ∧
      JumpsTo s rd (s.sh.pc + 4) (BitVec.ofNat 64 ((s.x rs1 + BitVec.ofInt 64 imm.toInt).toNat / 2 * 2)) t) ∧
  (∀ (rd rs1 rs2 : XReg) (u : BitVec 20) (imm : BitVec 12) (n : BitVec 6) (m : BitVec 5) (s : State), ∀ i ∈ ([
      .lui rd u, .auipc rd u, .addi rd rs1 imm, .slti rd rs1 imm, .sltiu rd rs1 imm, .xori rd rs1 imm, .ori rd rs1 imm, .andi rd rs1 imm,
      .addiw rd rs1 imm, .slli rd rs1 n, .srli rd rs1 n, .srai rd rs1 n, .slliw rd rs1 m, .srliw rd rs1 m, .sraiw rd rs1 m,
      .add rd rs1 rs2, .sub rd rs1 rs2, .sll rd rs1 rs2, .slt rd rs1 rs2, .sltu rd rs1 rs2, .xor rd rs1 rs2, .srl rd rs1 rs2,
      .sra rd rs1 rs2, .or rd rs1 rs2, .and rd rs1 rs2, .addw rd rs1 rs2, .subw rd rs1 rs2, .sllw rd rs1 rs2, .srlw rd rs1 rs2,
      .sraw rd rs1 rs2, .mul rd rs1 rs2, .mulh rd rs1 rs2, .mulhsu rd rs1 rs2, .mulhu rd rs1 rs2, .mulw rd rs1 rs2, .div rd rs1 rs2,
      .divu rd rs1 rs2, .rem rd rs1 rs2, .remu rd rs1 rs2, .divw rd rs1 rs2, .divuw rd rs1 rs2, .remw rd rs1 rs2, .remuw rd rs1 rs2] : List Instr),
    ∃ t, exec i s = .next t ∧ WritesX s rd (t.x rd) t)

/-- ALIGNMENT (R34, R63): a jump or taken branch to an address that is no multiple of 4 raises 0x5.0.2 at the jump with the target in stval, and
writes no register; a scalar load or store that is not contained in one aligned 8 bytes raises 0x5.0.0 or 0x5.0.1 with its address in stval,
and has no other effect. That this comes before protection, translation and the test of address bits [63:56], whatever the address, is the
model's choice (log entry 13, DEDUCED). M mode is left out. -/
def Obligations.MisalignedTargetsAndCrossingAccessesTrap : Prop :=
  (
    ∀ (s : State), s.VectorIdle → s.sh.mode ≠ .m → s.NoRecord →
      (∀ e ∈ branchOps, ∀ (rs1 rs2 : XReg) (off : BitVec 12), e.2 (s.x rs1) (s.x rs2) →
        (s.sh.pc + BitVec.ofInt 64 (off.toInt * 2)).toNat % 4 ≠ 0 →
        ∃ t, exec (e.1 rs1 rs2 off) s = .next t ∧ EntersS s (cause 5 0 2) 0 (s.sh.pc + BitVec.ofInt 64 (off.toInt * 2)) t) ∧
      (∀ (rd : XReg) (off : BitVec 20), (s.sh.pc + BitVec.ofInt 64 (off.toInt * 2)).toNat % 4 ≠ 0 →
        ∃ t, exec (.jal rd off) s = .next t ∧ EntersS s (cause 5 0 2) 0 (s.sh.pc + BitVec.ofInt 64 (off.toInt * 2)) t) ∧
      (∀ (rd rs1 : XReg) (imm : BitVec 12), (s.x rs1 + BitVec.ofInt 64 imm.toInt).toNat / 2 % 2 ≠ 0 →
        ∃ t, exec (.jalr rd rs1 imm) s = .next t ∧
          EntersS s (cause 5 0 2) 0 (BitVec.ofNat 64 ((s.x rs1 + BitVec.ofInt 64 imm.toInt).toNat / 2 * 2)) t)) ∧
  (
    ∀ (s : State) (rs1 r : XReg) (imm : BitVec 12) (a : Word), a = s.x rs1 + BitVec.ofInt 64 imm.toInt →
      s.sh.mode ≠ .m → s.VectorIdle → s.NoRecord →
      (∀ e ∈ loadOps, 8 < a.toNat % 8 + e.2.1 → ∃ t, exec (e.1 r rs1 imm) s = .next t ∧ EntersS s (cause 5 0 0) 4 a t) ∧
      (∀ e ∈ storeOps, 8 < a.toNat % 8 + e.2 → ∃ t, exec (e.1 rs1 r imm) s = .next t ∧ EntersS s (cause 5 0 1) 6 a t))

/-- LOADS FROM A SCRATCHPAD WINDOW (R63, R204, R205): a load whose bytes lie in one aligned doubleword of a scratchpad that the shuttle may use,
with no poison there and no store of the core to it on its way, reads its bytes, little-endian, sign- or zero-extended. Nothing else changes
but the access log of the VF: where a watched range holds the address, its count of loads on the core's die rises by one (R355). -/
def Obligations.WindowLoadsReadTheirBytes : Prop :=
  ∀ e ∈ loadOps, ∀ (rd rs1 : XReg) (imm : BitVec 12) (s : State) (a : Nat), a = (s.x rs1 + BitVec.ofInt 64 imm.toInt).toNat →
    a % 8 + e.2.1 ≤ 8 → s.VectorIdle → s.WindowAllows a → s.WindowSettled a →
    SMap.get false (s.core (windowCore a)).ctx.spoison (windowOff a / 8) = false →
    ∃ t, exec (e.1 rd rs1 imm) s = .next t ∧
      WritesX (s.logged .load a) rd (e.2.2 (littleEndian (fun i => s.scratchByte (windowCore a) (windowOff a + i)) e.2.1)) t ∧
      (s.Unlogged a → s.logged .load a = s) ∧
      ∀ i r, (s.vf s.me.vf).logRanges = [(i, r)] → r.base ≤ a → a < r.limit →
        SMap.get 0 (SMap.get {} (t.vf s.me.vf).logRanges i : LogRange).counts (8 * dieOf s.myCore) =
          SMap.get 0 r.counts (8 * dieOf s.myCore) + 1

/-- STORES TO A SCRATCHPAD WINDOW (R63, R204, R205): the low bytes of rs2 go to the bytes addressed; every other byte of that scratchpad, every
other core, every register and every byte of memory is unchanged. Where stores are left on their way (R228), the store completes too: it is
the youngest of the core's store buffer, and every scratchpad is as it was. The access counts in the access log of the VF (R355). -/
def Obligations.WindowStoresWriteTheirBytes : Prop :=
  ∀ e ∈ storeOps, ∀ (rs1 rs2 : XReg) (imm : BitVec 12) (s : State) (a : Nat), a = (s.x rs1 + BitVec.ofInt 64 imm.toInt).toNat →
    a % 8 + e.2 ≤ 8 → s.VectorIdle → s.WindowAllows a → s.me.refused = [] →
    (s.eager = true → s.WindowSettled a → ∃ t, exec (e.1 rs1 rs2 imm) s = .next t ∧ StepsOn s t ∧
      OnlyScratch (s.logged .store a) (windowCore a) t ∧
      (∀ o, t.scratchByte (windowCore a) o =
        if windowOff a ≤ o ∧ o < windowOff a + e.2 then byteAt (s.x rs2) (o - windowOff a) else s.scratchByte (windowCore a) o)) ∧
    (s.eager = false → ∃ t, exec (e.1 rs1 rs2 imm) s = .next t ∧ StepsOn s t ∧
      StoreLeft (s.logged .store a) { shid := s.focus, block := a / 8, data := s.x rs2 <<< (8 * (a % 8)), mask := byteMask (a % 8) e.2
                                      addr := BitVec.ofNat 64 a, pol := 4 } t)

/-- ECALL AND EBREAK (R66, R80, R100): from U mode ECALL enters the S handler with 0xA.0.0, and EBREAK from U or S with 0xA.0.3 and its own
address; in M mode both enter the M handler. From S mode ECALL sends its request to firmware and Waits. -/
def Obligations.EnvironmentCallsEnterTheirHandler : Prop :=
  ∀ (s : State), s.VectorIdle →
    (s.sh.mode = .u → s.NoRecord → ∃ t, exec .ecall s = .next t ∧ EntersS s (cause 0xA 0 0) 8 0 t) ∧
    (s.sh.mode ≠ .m → s.NoRecord → ∃ t, exec .ebreak s = .next t ∧ EntersS s (cause 0xA 0 3) 3 s.sh.pc t) ∧
    (s.sh.mode = .m → ∃ t, exec .ecall s = .next t ∧ EntersM s (cause 0xA 0 2) 11 0 t) ∧
    (s.sh.mode = .m → ∃ t, exec .ebreak s = .next t ∧ EntersM s (cause 0xA 0 3) 3 s.sh.pc t) ∧
    (s.sh.mode = .s → (∀ r ∈ s.requests, r.slot ≠ some s.focus) → (∀ l ∈ s.longs, l.req.slot ≠ some s.focus) →
      ∃ t, exec .ecall s = .next t ∧ t.me.life = .waiting ∧ t.sh = s.sh ∧
        t.requests = s.requests ++ [{ slot := some s.focus, vf := s.me.vf, number := s.x 10,
                                      args := [s.x 11, s.x 12, s.x 13, s.x 14, s.x 15] }])

/-- RETURNS AND WFI (R67, R80, R100): SRET in S or M mode takes the mode from SPP, SIE from SPIE, the pc from sepc, and sets SPIE and clears
SPP; MRET in M mode takes the mode from MPP, MIE from MPIE and the pc from mepc; WFI completes while an enabled interrupt is pending. SRET
and WFI in U mode, and MRET outside M mode, raise 0x0.0.3 with the word in stval. Where MIE, MPIE and MPP lie in `mstatus` is that of the
published fields, which is the model's choice (log entry 8, PRESUMED). -/
def Obligations.ReturnsRestoreTheSavedState : Prop :=
  (
    ∀ (s : State), s.VectorIdle →
      (s.sh.mode ≠ .u → ∃ t, exec .sret s = .next t ∧ OnlySlot s t ∧ t.me.m = s.me.m ∧
        t.sh = { s.sh with mode := if s.sh.spp then .s else .u, sie := s.sh.spie, spie := true, spp := false, pc := s.sh.sepc }) ∧
      (s.sh.mode = .m → ∃ t, exec .mret s = .next t ∧ OnlySlot s t ∧
        t.sh = { s.sh with mode := if bitsOf s.me.m.mstatus 12 11 = 3 then .m else if bitsOf s.me.m.mstatus 12 11 = 1 then .s else .u
                           pc := s.me.m.mepc } ∧
        (∀ i < 64, bitOf t.me.m.mstatus i = if i = 3 then bitOf s.me.m.mstatus 7 else if i = 7 then true
          else if i = 11 ∨ i = 12 then false else bitOf s.me.m.mstatus i)) ∧
      (s.sh.mode ≠ .u → s.pendingOn s.myCore ≠ 0 → ∃ t, exec .wfi s = .next t ∧ WritesX s 0 0 t)) ∧
  (
    ∀ (s : State), s.VectorIdle → s.NoRecord →
      (s.sh.mode = .u → ∃ t, exec .sret s = .next t ∧ EntersS s (cause 0 0 3) 2 (s.me.word.zeroExtend 64) t) ∧
      (s.sh.mode = .u → ∃ t, exec .wfi s = .next t ∧ EntersS s (cause 0 0 3) 2 (s.me.word.zeroExtend 64) t) ∧
      (s.sh.mode ≠ .m → ∃ t, exec .mret s = .next t ∧ EntersS s (cause 0 0 3) 2 (s.me.word.zeroExtend 64) t))

/-- ACQUIRE LOADS AND RELEASE STORES IN A WINDOW (R216, R229, R239): an aligned `ld.acq` returns its bytes and then drops the core's Valid
copies, but for those of the words it has read, at cluster scope or wider; an aligned `st.rel` writes its bytes, or is left on its way
(R228). The access counts in the access log of the VF (R355). -/
def Obligations.AcquireAndReleaseAccessTheWindow : Prop :=
  ∀ (sc : Scope) (r rs1 : XReg) (s : State) (a : Nat), a = (s.x rs1).toNat → s.VectorIdle → s.WindowAllows a → s.WindowSettled a →
    (SMap.get false (s.core (windowCore a)).ctx.spoison (windowOff a / 8) = false →
      (a % 4 = 0 → ∃ t, exec (.ldAcqW sc r rs1) s = .next t ∧ SlotsAndCores (s.logged .load a) t ∧
        (t.core s.myCore).l1 = (s.core s.myCore).l1.filter (fun e => decide (sc = .core ∨ e.1 = a / 4)) ∧
        Returns s r (BitVec.ofInt 64 ((littleEndian (fun i => s.scratchByte (windowCore a) (windowOff a + i)) 4 : Int).bmod (2 ^ 32))) t) ∧
      (a % 8 = 0 → ∃ t, exec (.ldAcqD sc r rs1) s = .next t ∧ SlotsAndCores (s.logged .load a) t ∧
        (t.core s.myCore).l1 = (s.core s.myCore).l1.filter (fun e => decide (sc = .core ∨ e.1 / 2 = a / 8)) ∧
        Returns s r (BitVec.ofNat 64 (littleEndian (fun i => s.scratchByte (windowCore a) (windowOff a + i)) 8)) t)) ∧
    (s.StoresHome → s.eager = true → ∀ e ∈ [(Instr.stRelW, 4), (Instr.stRelD, 8)], a % e.2 = 0 →
      ∃ t, exec (e.1 sc rs1 r) s = .next t ∧ StepsOn s t ∧ OnlyScratch (s.logged .store a) (windowCore a) t ∧
        (∀ o, t.scratchByte (windowCore a) o =
          if windowOff a ≤ o ∧ o < windowOff a + e.2 then byteAt (s.x r) (o - windowOff a) else s.scratchByte (windowCore a) o)) ∧
    (s.StoresHome → s.eager = false → ∀ e ∈ [(Instr.stRelW, 4), (Instr.stRelD, 8)], a % e.2 = 0 →
      ∃ t, exec (e.1 sc rs1 r) s = .next t ∧ StepsOn s t ∧
        StoreLeft (s.logged .store a) { shid := s.focus, block := a / 8, data := s.x r <<< (8 * (a % 8)), mask := byteMask (a % 8) e.2
                                        addr := BitVec.ofNat 64 a, pol := 4 } t)

/-- SCALAR ATOMICS IN A WINDOW (R244, R245): rd receives the old value, sign-extended, and the bytes addressed receive the new one, in one step;
no other byte of any scratchpad and no byte of memory changes. The access counts in the access log of the VF (R355). -/
def Obligations.AtomicsReadModifyWriteTheWindow : Prop :=
  ∀ (wd : Width) (ord : Order) (sc : Scope) (rd rs1 rs2 : XReg) (s : State) (a old : Nat), a = (s.x rs1).toNat → s.VectorIdle →
    s.StoresHome → s.WindowAllows a → s.WindowSettled a → a % bytesOf wd = 0 →
    SMap.get false (s.core (windowCore a)).ctx.spoison (windowOff a / 8) = false →
    old = littleEndian (fun i => s.scratchByte (windowCore a) (windowOff a + i)) (bytesOf wd) →
    (∀ e ∈ atomicOps, ∃ t, exec (e.1 wd ord sc rd rs1 rs2) s = .next t ∧ SlotsAndCores (s.logged .atomic a) t ∧
      Returns s rd (BitVec.ofInt 64 ((old : Int).bmod (2 ^ (8 * bytesOf wd)))) t ∧
      (∀ c o, t.scratchByte c o = if c = windowCore a ∧ windowOff a ≤ o ∧ o < windowOff a + bytesOf wd then
        byteAt (BitVec.ofNat 64 (e.2 (bytesOf wd) old ((s.x rs2).toNat % 2 ^ (8 * bytesOf wd)))) (o - windowOff a)
        else s.scratchByte c o)) ∧
    (∃ t, exec (.cas wd ord sc rd rs1 rs2) s = .next t ∧ SlotsAndCores (s.logged .atomic a) t ∧
      Returns s rd (BitVec.ofInt 64 ((old : Int).bmod (2 ^ (8 * bytesOf wd)))) t ∧
      (∀ c o, t.scratchByte c o = if c = windowCore a ∧ windowOff a ≤ o ∧ o < windowOff a + bytesOf wd ∧
          old = (s.x rd).toNat % 2 ^ (8 * bytesOf wd) then byteAt (s.x rs2) (o - windowOff a) else s.scratchByte c o))

/-- CHECKED ACCESSES (R63, R289, R299): wherever a scalar load or store passes its checks, it completes, a load with the bytes that the access
found in the doubleword at its address; follow mode is off, no load has been taken ahead (R228), and a store finds room in its core's buffer
(R212). -/
def Obligations.CheckedLoadsAndStoresComplete : Prop :=
  ∀ (s : State), s.VectorIdle → s.StoresHome → bitOf s.sh.tsw 2 = false →
    (∀ e ∈ loadOps, ∀ (rd rs1 : XReg) (imm : BitVec 12) (a : Nat), a = (s.x rs1 + BitVec.ofInt 64 imm.toInt).toNat → a % 8 + e.2.1 ≤ 8 →
      ∀ u v, s.load (s.who 0) s.focus a (byteMask (a % 8) e.2.1) false (if a % e.2.1 = 0 then none else some (cause 5 0 0)) = .ok u v → u.me.early = [] →
      ∃ t, exec (e.1 rd rs1 imm) s = .next t ∧ WritesX u rd (e.2.2 (v.toNat / 2 ^ (8 * (a % 8)) % 2 ^ (8 * e.2.1))) t) ∧
    (∀ e ∈ storeOps, ∀ (rs1 rs2 : XReg) (imm : BitVec 12) (a : Nat), a = (s.x rs1 + BitVec.ofInt 64 imm.toInt).toNat → a % 8 + e.2 ≤ 8 →
      s.noRoom (s.who 0) (a / 8) (byteMask (a % 8) e.2) = false →
      ∀ u, s.store (s.who 0) s.focus a (s.x rs2 <<< (8 * (a % 8))) (byteMask (a % 8) e.2)
        (if a % e.2 = 0 then none else some (cause 5 0 1)) = .ok u () → u.me.early = [] →
      ∃ t, exec (e.1 rs1 rs2 imm) s = .next t ∧ WritesX u 0 0 t)

/-- LOADS AND STORES OF THE FIRMWARE COLUMN (R15, R300): in M mode an address is a machine address, checked by nothing but the machine address
map; that no table and no key applies there is the model's choice (log entry 7). -/
def Obligations.MachineModeAccessesMemory : Prop :=
  ∀ (s : State) (rs1 r : XReg) (imm : BitVec 12) (a : Nat), a = (s.x rs1 + BitVec.ofInt 64 imm.toInt).toNat →
    s.sh.mode = .m → s.VectorIdle → machineExists a = true →
    (∀ e ∈ loadOps, a % 8 + e.2.1 ≤ 8 →
      ∃ t, exec (e.1 r rs1 imm) s = .next t ∧ WritesX s r (e.2.2 (littleEndian (fun i => s.byte (a + i)) e.2.1)) t) ∧
    (∀ e ∈ storeOps, a % 8 + e.2 ≤ 8 →
      ∃ t, exec (e.1 rs1 r imm) s = .next t ∧ StepsOn s t ∧ t = { s with slots := t.slots, mem := t.mem } ∧
        (∀ b, t.byte b = if a ≤ b ∧ b < a + e.2 then byteAt (s.x r) (b - a) else s.byte b))

/-- FENCES (R65, R229, R240): with no store of the shuttle on its way, every `fence.s` completes; one with acquire ordering at cluster scope or
wider drops every Valid copy of the core, one at core scope none, and nothing else changes but the event counters. FENCE.I drops the
instruction-side copies of the current core and of no other. -/
def Obligations.FencesCompleteAndDiscard : Prop :=
  (
    ∀ (sc : Scope) (s : State), s.VectorIdle → s.StoresHome →
      (∃ t, exec (.fenceSRel sc) s = .next t ∧ WritesX s 0 0 t) ∧
      (∀ i ∈ [Instr.fenceSAcq sc, .fenceSAr sc], ∃ t, exec i s = .next t ∧ SlotsAndCores s t ∧ StepsOn s t ∧
        t.core s.myCore = { s.counting t s.myCore with
          l1 := if sc = .core then (s.core s.myCore).l1 else []
          l1apart := if sc = .core then (s.core s.myCore).l1apart else [] } ∧
        (sc = .core → t.core s.myCore = s.core s.myCore) ∧ ∀ c, c ≠ s.myCore → t.core c = s.core c)) ∧
  (
    ∀ (imm : BitVec 12) (rs1 rd : BitVec 5) (s : State), s.VectorIdle → s.StoresHome →
      ∃ t, exec (.fenceI imm rs1 rd) s = .next t ∧ SlotsAndCores s t ∧ StepsOn s t ∧
        t.core s.myCore = { s.core s.myCore with icache := [] } ∧ (∀ c, c ≠ s.myCore → t.core c = s.core c))

/-- FENCE (R64): if pred and succ both hold at least one of R and W it has exactly the effect of `fence.s.ar.clu`, whatever fm and the I and O
bits; otherwise it performs no ordering and completes as a no-op. -/
def Obligations.FenceIsTheClusterFence : Prop :=
  ∀ (fm pred succ : BitVec 4) (rs1 rd : BitVec 5) (s : State),
    if (pred.getLsbD 0 || pred.getLsbD 1) && (succ.getLsbD 0 || succ.getLsbD 1) then
      exec (.fence fm pred succ rs1 rd) s = exec (.fenceSAr .clu) s
    else ∃ t, exec (.fence fm pred succ rs1 rd) s = .next t ∧ WritesX s 0 0 t

/-- REGION MAINTENANCE (R242, R243): `inv.r` drops the core's Valid copies in the lines of its region and keeps the others; `wb.r` of a region
whose protection checks pass sends home every registration of its VF in those lines and leaves those outside; with no vector atomic under
way that holds such a word, no byte changes. -/
def Obligations.RegionInstructionsActOnTheirLines : Prop :=
  ∀ (sc : Scope) (rs1 rs2 : XReg) (s u : State) (b n : Nat), b = (s.x rs1).toNat → n = (s.x rs2).toNat → s.VectorIdle → s.StoresHome →
    n ≤ 2 ^ 36 → b + n ≤ 2 ^ 56 →
    (s.MayRun (.invR sc rs1 rs2) → ∃ t, exec (.invR sc rs1 rs2) s = .next t ∧ SlotsAndCores s t ∧ StepsOn s t ∧
      (∀ c, c ≠ s.myCore → t.core c = s.core c) ∧
      t.core s.myCore = { s.counting t s.myCore with l1 := (s.core s.myCore).l1.filter fun e =>
        !(decide (0 < n ∧ b / 512 ≤ e.1 * 4 / 512 ∧ e.1 * 4 / 512 ≤ (b + n - 1) / 512)) }) ∧
    (s.MayRun (.wbR sc rs1 rs2) → s.NoPins →
      (if s.sh.mode = .m ∨ n = 0 then Res.ok s () else s.plbRegions (s.who 0) b
        ((List.range ((b + n - 1) / 2 ^ 26 - b / 2 ^ 26 + 1)).map fun i => b / 2 ^ 26 + i)) = .ok u () →
      ∃ t, exec (.wbR sc rs1 rs2) s = .next t ∧ (∀ r, t.x r = s.x r) ∧ t.sh.pc = s.sh.pc + 4 ∧ (∀ a, t.byte a = s.byte a) ∧
        ∀ wd < 2 ^ 56, if 0 < n ∧ b / 512 ≤ wd * 4 / 512 ∧ wd * 4 / 512 ≤ (b + n - 1) / 512
          then ∀ c < 4096, (t.homeState s.me.vf wd).owner ≠ some c else t.homeState s.me.vf wd = s.homeState s.me.vf wd)

/-- FULL/EMPTY WORDS (R246, R247): on an aligned doubleword of a scratchpad with no request queued, `ldfe` and `ldff` of a full word return it
and `ldfe` leaves it empty; `stfe` of an empty word writes it and leaves it full; `fe.set` sets the bit; no byte of memory changes. Where
the condition does not hold, the request joins the queue of the scratchpad and the shuttle Waits, its pc and registers as they were. -/
def Obligations.FullEmptyWordsMoveBetweenStates : Prop :=
  (
    ∀ (r rs1 : XReg) (s : State) (a : Nat), a = (s.x rs1).toNat → s.VectorIdle → s.StoresHome → s.WindowAllows a → a % 8 = 0 →
      s.me.wait = none → s.Unlogged a → (s.core (windowCore a)).ctx.waiters = [] →
      (s.isFull (windowCore a) (windowOff a) = true → s.scratchPoisoned (windowCore a) (windowOff a) = false →
        (∃ t, exec (.ldfe r rs1) s = .next t ∧ SlotsAndCores s t ∧
          Returns s r (BitVec.ofNat 64 (littleEndian (fun i => s.scratchByte (windowCore a) (windowOff a + i)) 8)) t ∧
          t.isFull (windowCore a) (windowOff a) = false) ∧
        (∃ t, exec (.ldff r rs1) s = .next t ∧ SlotsAndCores s t ∧
          Returns s r (BitVec.ofNat 64 (littleEndian (fun i => s.scratchByte (windowCore a) (windowOff a + i)) 8)) t ∧
          t.isFull (windowCore a) (windowOff a) = true)) ∧
      (s.isFull (windowCore a) (windowOff a) = false →
        ∃ t, exec (.stfe rs1 r) s = .next t ∧ SlotsAndCores s t ∧ StepsOn s t ∧ t.isFull (windowCore a) (windowOff a) = true ∧
          (∀ i < 8, t.scratchByte (windowCore a) (windowOff a + i) = byteAt (s.x r) i)) ∧
      (∃ t, exec (.feSetFull rs1) s = .next t ∧ SlotsAndCores s t ∧ StepsOn s t ∧ t.isFull (windowCore a) (windowOff a) = true) ∧
      (∃ t, exec (.feSetEmpty rs1) s = .next t ∧ SlotsAndCores s t ∧ StepsOn s t ∧ t.isFull (windowCore a) (windowOff a) = false)) ∧
  (
    ∀ (r rs1 : XReg) (s : State) (a : Nat), a = (s.x rs1).toNat → s.VectorIdle → s.StoresHome → s.WindowAllows a → a % 8 = 0 →
      s.me.wait = none → (s.core (windowCore a)).ctx.waiters.length < 32 →
      (∀ w ∈ (s.core (windowCore a)).ctx.waiters, w.shid ≠ s.focus) →
      ∀ i ∈ [(Instr.ldfe r rs1, true), (.ldff r rs1, true), (.stfe rs1 r, false)], s.isFull (windowCore a) (windowOff a) = !i.2 →
        ∃ t, exec i.1 s = .next t ∧ SlotsAndCores s t ∧ (∀ k, k ≠ s.focus → t.slot k = s.slot k) ∧ t.sh = s.sh ∧ t.me.life = .waiting ∧
          (∀ c o, t.scratchByte c o = s.scratchByte c o ∧ t.isFull c o = s.isFull c o) ∧
          (t.core (windowCore a)).ctx.waiters =
            (s.core (windowCore a)).ctx.waiters ++ [{ off := windowOff a, shid := s.focus, wantsFull := i.2 }])

/-- BARRIERS AND RINGS (R75, R250, R251): `bar.init` sets the target and clears counts; `bar.arr` counts one arrival and returns the phase; the
arrival that meets the target with nothing pending flips the phase and clears the count; `bar.exp` adds to PEND; `bar.wait` completes, and
`bar.test` reports done, when the phase differs from the one expected; a barrier outside the partition raises 0x2.0.7, one not initialised
0x7.0.4. `ipost` of an iteration inside the window marks it, of the next one due advances C, below C does nothing, and with bit 63 sets C;
`iwait` completes once C has reached its count. -/
def Obligations.BarriersAndRingsCount : Prop :=
  (
    ∀ (b : BitVec 6) (r : XReg) (s : State) (sec : Nat) (x : Barrier), sec = barrierSection s.myCore b.toNat → s.Owns sec →
      x = (s.sec sec).barrier (b.toNat % 32) → s.VectorIdle → s.StoresHome →
      (s.MayRun (.barInit b r) → (s.x r).toNat < 65536 → ∃ t, exec (.barInit b r) s = .next t ∧ SlotsCoresSections s t ∧ StepsOn s t ∧
        (t.sec sec).barrier (b.toNat % 32) = { x with tgt := (s.x r).toNat, cnt := 0, pend := 0, init := decide (s.x r ≠ 0) }) ∧
      (x.init = true → x.cnt + 1 < x.tgt → ∃ t, exec (.barArr r b) s = .next t ∧ SlotsCoresSections s t ∧
        Returns s r (if x.ph then 1 else 0) t ∧ (t.sec sec).barrier (b.toNat % 32) = { x with cnt := x.cnt + 1 }) ∧
      (x.init = true → x.cnt + 1 = x.tgt → x.pend = 0 → ∃ t, exec (.barArr r b) s = .next t ∧
        (t.sec sec).barrier (b.toNat % 32) = { x with cnt := 0, ph := !x.ph } ∧ (∀ a, t.byte a = s.byte a) ∧ t.sh.pc = s.sh.pc + 4 ∧
        ∀ q, t.x q = if q = r ∧ r ≠ 0 then (if x.ph then 3 else 2) else s.x q) ∧
      (s.MayRun (.barExp b r) → x.init = true → x.pend + (s.x r).toNat < 2 ^ 36 → (x.cnt ≠ x.tgt ∨ x.pend + (s.x r).toNat ≠ 0) →
        ∃ t, exec (.barExp b r) s = .next t ∧ SlotsCoresSections s t ∧ StepsOn s t ∧
          (t.sec sec).barrier (b.toNat % 32) = { x with pend := x.pend + (s.x r).toNat }) ∧
      (x.init = true → x.ph ≠ (s.x r).getLsbD 0 → ∃ t, exec (.barWait b r) s = .next t ∧ SlotsAndCores s t ∧ Returns s 0 0 t) ∧
      (x.init = true → ∃ t, exec (.barTest r b) s = .next t ∧ SlotsAndCores s t ∧
        Returns s r ((if x.ph then 1 else 0) + (if x.ph ≠ (s.x r).getLsbD 0 then 2 else 0)) t)) ∧
  (
    ∀ (b : BitVec 6) (r : XReg) (s : State) (sec : Nat), sec = barrierSection s.myCore b.toNat → s.VectorIdle → s.StoresHome →
      s.sh.mode ≠ .m → s.NoRecord → ∀ i ∈ [Instr.barArr r b, .barWait b r, .barTest r b],
      (¬ s.Owns sec → ∃ t, exec i s = .next t ∧ EntersS s (cause 2 0 7) 24 (b.zeroExtend 64) t) ∧
      (s.Owns sec → ((s.sec sec).barrier (b.toNat % 32)).init = false →
        ∃ t, exec i s = .next t ∧ EntersS s (cause 7 0 4) 24 (b.zeroExtend 64) t)) ∧
  (
    ∀ (ch : BitVec 3) (r : XReg) (s : State) (sec : Nat) (x : RingChannel), sec = ringSection s.myCore ch.toNat → s.Owns sec →
      x = (s.sec sec).ringCh (ch.toNat % 4) → s.VectorIdle → s.StoresHome → s.posting s.focus = false →
      (s.eager = true → ∀ y : RingChannel,
        ((s.x r).getLsbD 63 = true ∧ y = { x with c := (s.x r).toNat % 2 ^ 63, w := 0 } ∨
         (s.x r).getLsbD 63 = false ∧ x.w = 0 ∧ (s.x r).toNat = x.c ∧ y = { x with c := x.c + 1 } ∨
         (s.x r).getLsbD 63 = false ∧ x.w.getLsbD 0 = false ∧ x.c < (s.x r).toNat ∧ (s.x r).toNat < x.c + 64 ∧
           y = { x with w := x.w ||| BitVec.ofNat 64 (2 ^ ((s.x r).toNat - x.c)) }) →
        ∃ t, exec (.ipost ch r) s = .next t ∧ (t.sec sec).ringCh (ch.toNat % 4) = y ∧ t.sh.pc = s.sh.pc + 4 ∧ (∀ q, t.x q = s.x q) ∧
          ∀ b, t.byte b = s.byte b) ∧
      (s.eager = false → ((s.x r).getLsbD 63 = true ∨ x.c ≤ (s.x r).toNat ∧ (s.x r).toNat < x.c + 64) →
        ∃ t, exec (.ipost ch r) s = .next t ∧ SlotsCoresSections s t ∧ StepsOn s t ∧
          (t.sec sec).ringCh (ch.toNat % 4) = { x with posts := x.posts ++ [(s.focus, s.x r)] }) ∧
      ((s.x r).getLsbD 63 = false → (s.x r).toNat < x.c → ∃ t, exec (.ipost ch r) s = .next t ∧ WritesX s 0 0 t) ∧
      ((s.x r).toNat % 2 ^ 63 ≤ x.c → ∃ t, exec (.iwait ch r) s = .next t ∧ SlotsAndCores s t ∧ Returns s 0 0 t))

/-- ZFINX ARITHMETIC (R69, R103 to R105): with a valid rounding mode, each operation rounds its exact value once, writes it with bits [63:32]
equal to bit 31, accrues its flags in `fflags`, and changes nothing else; rounding the value of a code that is no NaN gives the code back
with no flag. -/
def Obligations.ZfinxArithmeticRoundsOnce : Prop :=
  (
    ∀ (rd r1 r2 r3 : XReg) (rm : BitVec 3) (m : Rm) (s : State), s.sh.rmField rm = some m →
      (∀ e ∈ singleOps, s.MayRun (e.1 rd r1 r2 rm) → ∃ t, exec (e.1 rd r1 r2 rm) s = .next t ∧
        let p := e.2 m (fp32.decode (singleOfRegister (s.x r1))) (fp32.decode (singleOfRegister (s.x r2)))
        WritesF s rd (registerOfSingle (fp32.round m p.1).1) (p.2 ||| (fp32.round m p.1).2) t) ∧
      (s.MayRun (.fsqrtS rd r1 rm) → ∃ t, exec (.fsqrtS rd r1 rm) s = .next t ∧
        let p := (fp32.decode (singleOfRegister (s.x r1))).sqrt
        WritesF s rd (registerOfSingle (fp32.round m p.1).1) (p.2 ||| (fp32.round m p.1).2) t) ∧
      (∀ e ∈ fusedOps, s.MayRun (e.1 rd r1 r2 r3 rm) → ∃ t, exec (e.1 rd r1 r2 r3 rm) s = .next t ∧
        let p := e.2 m (fp32.decode (singleOfRegister (s.x r1))) (fp32.decode (singleOfRegister (s.x r2)))
          (fp32.decode (singleOfRegister (s.x r3)))
        WritesF s rd (registerOfSingle (fp32.round m p.1).1) (p.2 ||| (fp32.round m p.1).2) t)) ∧
  (
    ∀ f ∈ [fp32, fp16, bf16], ∀ (m : Rm) (b : Nat), b < 2 ^ f.width → (f.decode b).isNan = false → f.round m (f.decode b) = (b, 0))

/-- ZFINX COMPARISONS AND CONVERSIONS (R69, as published): sign injection copies the magnitude; minimum and maximum, comparison and class give
their results with their flags; to an integer, a NaN gives the largest value with NV; from an integer, the exact number is rounded once. -/
def Obligations.ZfinxComparisonsAndConversions : Prop :=
  (
    ∀ (rd r1 r2 : XReg) (s : State) (a b : Nat), a = singleOfRegister (s.x r1) → b = singleOfRegister (s.x r2) →
      (∀ e ∈ signOps, s.MayRun (e.1 rd r1 r2) → ∃ t, exec (e.1 rd r1 r2) s = .next t ∧
        WritesX s rd (registerOfSingle (a % 2 ^ 31 + (if e.2 (decide (2 ^ 31 ≤ a)) (decide (2 ^ 31 ≤ b)) then 2 ^ 31 else 0))) t) ∧
      (∀ e ∈ [(Instr.fminS, false), (Instr.fmaxS, true)], s.MayRun (e.1 rd r1 r2) → ∃ t, exec (e.1 rd r1 r2) s = .next t ∧
        WritesF s rd (registerOfSingle (fp32.minMax e.2 a b).1) (fp32.minMax e.2 a b).2 t) ∧
      (∀ e ∈ [(Instr.feqS, Cond.eq), (Instr.fltS, Cond.lt), (Instr.fleS, Cond.le)], s.MayRun (e.1 rd r1 r2) →
        ∃ t, exec (e.1 rd r1 r2) s = .next t ∧
        WritesF s rd (if (fcompare e.2 (fp32.decode a) (fp32.decode b)).1 then 1 else 0) (fcompare e.2 (fp32.decode a) (fp32.decode b)).2 t) ∧
      (s.MayRun (.fclassS rd r1) → ∃ t, exec (.fclassS rd r1) s = .next t ∧
        WritesX s rd (BitVec.ofNat 64 (2 ^ fp32.classBit a)) t)) ∧
  (
    ∀ (rd r1 : XReg) (rm : BitVec 3) (m : Rm) (s : State), s.sh.rmField rm = some m →
      (∀ e ∈ toIntegerOps, s.MayRun (e.1 rd r1 rm) → ∃ t, exec (e.1 rd r1 rm) s = .next t ∧
        let v := fp32.decode (singleOfRegister (s.x r1))
        if v.isNan then
          WritesF s rd (if e.2.2 then BitVec.ofNat 64 (2 ^ (e.2.1 - 1) - 1) else BitVec.ofInt 64 (-1)) flagNV t
        else WritesF s rd (BitVec.ofInt 64 (((fpToInt m e.2.1 e.2.2 v).val : Int).bmod (2 ^ e.2.1))) (fpToInt m e.2.1 e.2.2 v).flags t) ∧
      (∀ e ∈ fromIntegerOps, s.MayRun (e.1 rd r1 rm) → ∃ t, exec (e.1 rd r1 rm) s = .next t ∧
        let r := fp32.round m (ofSigned (e.2 (s.x r1)) 0 false)
        WritesF s rd (registerOfSingle r.1) r.2 t))

/-- CSR INSTRUCTIONS (R16, R45, R61, R68): on the shuttle's own CSRs in S mode each of the six returns the old value in rd and writes its new
value, except that a set or clear with rs1 = x0 or an immediate of 0 writes nothing. An address that is not implemented and a write to a
read-only CSR raise 0x0.0.6; a supervisor CSR in U mode raises 0x0.0.3; stval is the word, and no register is written. -/
def Obligations.CsrInstructionsReadAndWrite : Prop :=
  (
    ∀ c ∈ shuttleCsrs, ∀ (rd rs1 : XReg) (u : BitVec 5) (s : State), s.sh.mode = .s → s.VectorIdle →
      ∀ e ∈ csrOps rd rs1 u c.1 (s.x rs1), ∃ t, exec e.1 s = .next t ∧ OnlySlot s t ∧
        (∀ r, t.x r = if r = rd ∧ rd ≠ 0 then c.2.1 s.sh else s.x r) ∧
        t.me = { s.me with
          sh := { (if e.2.1 then c.2.2 s.sh (e.2.2 (c.2.1 s.sh)) else s.sh) with x := t.sh.x, xbad := s.badAfter rd, pc := s.sh.pc + 4 }
          wait := none, earlier := none, completed := true, half := false, jumped := false }) ∧
  (
    ∀ (rd rs1 : XReg) (csr : BitVec 12) (s : State), s.VectorIdle → s.NoRecord → s.sh.mode ≠ .m →
      (csrExists csr.toNat = false → ∀ u, ∀ e ∈ csrOps rd rs1 u csr (s.x rs1), ∃ t, exec e.1 s = .next t ∧
        EntersS s (cause 0 0 6) 2 (s.me.word.zeroExtend 64) t) ∧
      (s.sh.mode = .u → csr ∈ [0x100, 0x104, 0x105, 0x106, 0x140, 0x141, 0x142, 0x143, 0x144] → ∃ t, exec (.csrrs rd rs1 csr) s = .next t ∧
        EntersS s (cause 0 0 3) 2 (s.me.word.zeroExtend 64) t) ∧
      (csr ∈ [0x800, 0x801, 0x802, 0x803, 0x806, 0x808, 0x809] → ∃ t, exec (.csrrw rd rs1 csr) s = .next t ∧
        EntersS s (cause 0 0 6) 2 (s.me.word.zeroExtend 64) t))

/-- STVEC (R82): it is 0 at reset; a write sets BASE, and MODE only where the value written is 0 or 1, and raises no cause; every trap enters at
BASE x 4, but in vectored mode an interrupt with scause code n at BASE x 4 + 4n. -/
def Obligations.StvecFieldsAndEntry : Prop :=
  (∀ v, (State.reset.vf v).regs.stvec = 0) ∧
  (∀ (rs1 : XReg) (s : State), s.sh.mode = .s → s.VectorIdle → ∃ t, exec (.csrrw 0 rs1 0x105) s = .next t ∧ t.sh.pc = s.sh.pc + 4 ∧
    (t.vf s.me.vf).regs.stvec = (s.x rs1 &&& ~~~3) ||| (if (s.x rs1).toNat % 4 < 2 then s.x rs1 &&& 3 else (s.vf s.me.vf).regs.stvec &&& 3)) ∧
  (∀ (s : State) (k : Nat) (c under : BitVec 10) (scause tval epc : Word) (interrupt : Bool) (n : Nat),
    (s.slot k).sh.mode ≠ .m → bitOf (s.vfRegs (s.slot k).vf (k / 16)).trec 0 = false → n < 32 →
    bitsOf (s.vfRegs (s.slot k).vf (k / 16)).stvec 1 0 < 2 →
    (interrupt = true → scause = BitVec.ofNat 64 (2 ^ 63 + n)) →
    ((s.trapSlot k c scause tval epc interrupt under).slot k).sh.pc =
      (let stvec := (s.vfRegs (s.slot k).vf (k / 16)).stvec
       BitVec.ofNat 64 (bitsOf stvec 63 2 * 4 + (if interrupt && decide (bitsOf stvec 1 0 = 1) then 4 * n else 0))))

/-- THE DECODE GATE (R45, R91, R123, R338, R339): whatever the instruction, where the feature mask of the VF masks it, it raises 0x0.0.2 with
the word in stval and has no other effect; whatever the instruction but MRET, where the class of the core does not implement it and the
partition holds a core that does, the shuttle begins to pack with reason 1 and its own pc. -/
def Obligations.DecodeGateMasksOrMigrates : Prop :=
  (
    ∀ (i : Instr) (s : State), s.masked s.me.vf s.sh.mode i = true → s.VectorIdle → s.NoRecord → s.me.wait = none →
      ∃ t, exec i s = .next t ∧ EntersS s (cause 0 0 2) 24 (s.me.word.zeroExtend 64) t) ∧
  (
    ∀ (i : Instr) (s : State), i ≠ .mret → implements (classOf s.myCore) i = false → s.masked s.me.vf s.sh.mode i = false →
      implementsWord (classOf s.myCore) s.me.word = false → s.VectorIdle → s.sh.mode ≠ .m → s.me.wait = none → s.eager = false →
      s.eligible (s.partOfVf s.me.vf) (classesFor s.me.word 0) ≠ [] →
      ∃ t, exec i s = .next t ∧ OnlySlot s t ∧ t.me.life = .packing ∧
        t.me.pack = some { reason := 1, word := s.me.word, mate := 0, pc := s.sh.pc } ∧ (∀ r, t.x r = s.x r) ∧ t.sh.pc = s.sh.pc)

/-- PACING AND MOVES (R71, R73, R74): `shyield` goes on and asks to be passed over once; `cwait` completes when every counter is at or below its
limit, 31 placing no condition, and otherwise the shuttle Waits at the instruction; `shmove` to its own core completes, and to another core
of the partition that is not fenced the shuttle begins to pack with reason 2 for that core, its pc the next word; `shmove.home` of a window
address names the core of that scratchpad, which is the model's choice (log entry 23, DEDUCED). -/
def Obligations.ShuttlesPaceAndMove : Prop :=
  (
    ∀ (s : State),
      (s.me.mixOrder = none → ∃ t, exec .shyield s = .next t ∧ OnlySlot s t ∧ t.me.yielded = true ∧ (∀ r, t.x r = s.x r) ∧
        t.sh.pc = s.sh.pc + 4 ∧ t.me.life = s.me.life) ∧
      (s.NoDeferred (fun _ => true) → s.me.early = [] → ∀ (ld st cp tl : BitVec 5),
        let holds := (ld = 31 ∨ s.me.ld ≤ ld.toNat) ∧ (st = 31 ∨ s.stOf s.focus ≤ st.toNat) ∧ (cp = 31 ∨ s.me.cp ≤ cp.toNat) ∧
          (tl = 31 ∨ s.me.tl ≤ tl.toNat)
        (holds → ∃ t, exec (.cwait ld st cp tl) s = .next t ∧ WritesX s 0 0 t) ∧
        (¬ holds → ∃ t, exec (.cwait ld st cp tl) s = .next t ∧ OnlySlot s t ∧ t.sh = s.sh ∧ t.me.life = .waiting))) ∧
  (
    ∀ (rs1 : XReg) (s : State) (n : Nat), s.sh.mode ≠ .m → s.VectorIdle → s.inPart (s.partOfVf s.me.vf) n = true → n < 4096 →
      n % 256 < 192 → s.inColumn n = false → s.isFenced n = false →
      ∀ i, (i = Instr.shmove rs1 ∧ (s.x rs1).toNat = n) ∨
          (i = Instr.shmoveHome rs1 ∧ s.WindowAllows (s.x rs1).toNat ∧ windowCore (s.x rs1).toNat = n) →
        (n = s.myCore → ∃ t, exec i s = .next t ∧ WritesX s 0 0 t) ∧
        (n ≠ s.myCore → s.eager = false → ∃ t, exec i s = .next t ∧ OnlySlot s t ∧ t.me.life = .packing ∧
          t.me.pack = some { reason := 2, named := n, word := s.me.word, pc := s.sh.pc + 4, jumped := true } ∧ ∀ r, t.x r = s.x r))

/-- STARTS AND EXITS (R31, R70, R72): a start block that fails a check returns its code and starts nothing; one that passes, on a core with a
free slot, starts a shuttle of the same VF at its entry with its two arguments, in the slot that the core offers, and returns code 0 with
the core. `shexit` with no fault held and no signal word to check makes the shuttle Exiting; with nothing of it outstanding and no signal
words, the exit frees its slot with all that the slot holds. -/
def Obligations.ShuttlesStartAndExit : Prop :=
  (
    ∀ (rd rs1 rs2 : XReg) (s : State) (d : List Word), s.MayRun (.shstart rd rs1 rs2) → s.me.wait = none → s.VectorIdle → s.StoresHome →
      s.BlockReadable (s.x rs1).toNat → d = s.windowBlock (s.x rs1).toNat →
      (∀ code, s.startCheck (s.partOfVf s.me.vf) s.myCore d (s.x rs2) (s.sh.mode == .u) = .inl code →
        ∃ t, exec (.shstart rd rs1 rs2) s = .next t ∧
          WritesX s rd (BitVec.ofNat 64 code) t) ∧
      (∀ core, s.startCheck (s.partOfVf s.me.vf) s.myCore d (s.x rs2) (s.sh.mode == .u) = .inr core → s.eager = true →
        s.isFenced core = false → s.queued = [] → (∀ f ∈ s.frames, f.dst ≠ core) → s.starts = [] → ∀ k, s.freeSlot core = some k → core * 16 + k ≠ s.focus →
        bitsOf (d.getD 3 0) 14 4 = 0 →
        ∃ t, exec (.shstart rd rs1 rs2) s = .next t ∧ t.x rd = (if rd = 0 then 0 else BitVec.ofNat 64 (core * 65536)) ∧
          t.sh.pc = s.sh.pc + 4 ∧ (t.slot (core * 16 + k)).life = .ready ∧ (t.slot (core * 16 + k)).vf = s.me.vf ∧
          (t.slot (core * 16 + k)).sh.pc = d.getD 0 0 ∧ (t.slot (core * 16 + k)).sh.getX 10 = d.getD 1 0 ∧
          (t.slot (core * 16 + k)).sh.getX 11 = d.getD 2 0)) ∧
  (
    ∀ (s : State), s.eager = false →
      (s.VectorIdle → s.NoDeferred (fun _ => true) → s.me.task.successors = [] → s.me.task.completion = 0 →
        ∃ t, exec .shexit s = .next t ∧ OnlySlot s t ∧ t.me = { s.me with life := .exiting, wait := none }) ∧
      (∀ m, m = s.slot s.subjectSlot → m.life = .exiting → m.wait = none → m.deferred = [] → m.refused = [] → m.vq = [] → m.vrun = none →
        m.held = [] → m.tl = 0 → m.cp = 0 → m.task = {} → m.mixOrder = none → (∀ e ∈ (s.core (s.subjectSlot / 16)).sbuf, e.shid ≠ s.subjectSlot) →
        ∃ t, exec .exitRelease s = .next t ∧ t.slot s.subjectSlot = {} ∧ (∀ k, k ≠ s.subjectSlot → t.slot k = s.slot k) ∧
          ∀ b, t.byte b = s.byte b))

/-- TIER HINTS (R337): a hint on a region of a running VF whose protection checks pass is remembered with its VF, for the pages of the region
that the VF maps, and completes; an empty one only completes; a region that reaches into the window or past the address space raises
0x4.0.2. -/
def Obligations.TierHintsAreRemembered : Prop :=
  ∀ (rs1 rs2 : XReg) (s u : State) (a n : Nat), a = (s.x rs1).toNat → n = (s.x rs2).toNat → s.VectorIdle →
    ∀ e ∈ [(Instr.tierHintHot rs1 rs2, true), (Instr.tierHintCold rs1 rs2, false)], s.MayRun e.1 →
    (n ≤ 2 ^ 40 → a + n ≤ 2 ^ 56 → bitsOf (s.x rs1) 55 49 ≠ 0x7F →
      (n = 0 → ∃ t, exec e.1 s = .next t ∧ WritesX s 0 0 t) ∧
      (0 < n → s.sh.mode ≠ .m → ((s.vf s.me.vf).hints).length < 4096 →
        s.plbRegions (s.who 0) a ((List.range ((a + n - 1) / 2 ^ 26 - a / 2 ^ 26 + 1)).map fun i => a / 2 ^ 26 + i) = .ok u () →
        ∃ t h, exec e.1 s = .next t ∧ (t.vf s.me.vf).hints = (s.vf s.me.vf).hints ++ [h] ∧ h.hot = e.2 ∧
          (∀ p, h.holds p = true ↔
            a / 65536 ≤ p ∧ p ≤ (a + n - 1) / 65536 ∧ ∃ l ∈ s.leafPages s.me.vf, l.1 ≤ p ∧ p < l.1 + l.2) ∧
          t.sh.pc = s.sh.pc + 4 ∧ (∀ r, t.x r = s.x r) ∧ ∀ b, t.byte b = s.byte b)) ∧
    (s.sh.mode ≠ .m → s.NoRecord → (2 ^ 40 < n ∨ 2 ^ 56 < a + n ∨ bitsOf (s.x rs1) 55 49 = 0x7F) →
      ∃ t, exec e.1 s = .next t ∧ EntersS s (cause 4 0 2) 24 (s.x rs1) t)

/-- COPIES AND FENCE.Q (R233, R241, R252 to R254): a copy whose descriptor is valid joins the queue of its channel, the CP counter of its issuer
rises by one, and the instruction completes; with a barrier word of x0 no barrier is named. `fence.q` with an empty mask completes; with
room in every queue named, it completes after the release without waiting for the operations, which all stay; a reserved bit raises 0x8.3.0. -/
def Obligations.CopiesJoinTheirChannel : Prop :=
  (
    ∀ (ch : BitVec 4) (rs1 : XReg) (s : State) (sec cn : Nat) (d : List Word), (sec, cn) = channelOf s.myCore ch.toNat → s.Owns sec →
      s.NoDeferred (fun x => x.queue == ch.toNat) → s.VectorIdle → s.BlockReadable (s.x rs1).toNat → d = s.windowBlock (s.x rs1).toNat →
      s.me.cp < 255 → ((s.sec sec).chan cn).ops.length < 16 →
      ∀ e ∈ [(Instr.cpy ch rs1 0, CopyForm.lin), (Instr.cpy2d ch rs1 0, CopyForm.rect), (Instr.cpyB ch rs1 0, CopyForm.bsram)],
        s.MayRun e.1 → s.copyBad e.2 d = false →
        ∃ t c, exec e.1 s = .next t ∧ ((t.sec sec).chan cn).cmds = ((s.sec sec).chan cn).cmds ++ [c] ∧ c.form = e.2 ∧ c.desc = d ∧
          c.bar = none ∧ c.issuer = s.focus ∧ c.mode = s.sh.mode ∧ c.delivered = 0 ∧ t.me.cp = s.me.cp + 1 ∧
          t.sh.pc = s.sh.pc + 4 ∧ (∀ r, t.x r = s.x r) ∧ ∀ b, t.byte b = s.byte b) ∧
  (
    ∀ (rs1 : XReg) (s : State) (m : Word), m = s.x rs1 → s.VectorIdle → s.StoresHome → s.NoDeferred (fun d => d.queue == 17 || bitOf m d.queue) →
      (m = 0 → ∃ t, exec (.fenceQ rs1) s = .next t ∧ WritesX s 0 0 t) ∧
      (m ≠ 0 → bitsOf m 63 18 = 0 → (bitOf m 17 = true → classOf s.myCore = .matrix ∧ s.qkCount s.myCore < 8) →
        (bitOf m 16 = true → (s.vf s.me.vf).collCount < 256) → (∀ c ∈ maskChannels s.myCore m, s.Owns c.1 ∧ ((s.sec c.1).chan c.2).ops.length < 16) →
        ∃ t, exec (.fenceQ rs1) s = .next t ∧ t.sh.pc = s.sh.pc + 4 ∧ (∀ r, t.x r = s.x r) ∧ (∀ b, t.byte b = s.byte b) ∧
          ∀ c : Nat × Nat, ((t.sec c.1).chan c.2).ops = ((s.sec c.1).chan c.2).ops) ∧
      (s.sh.mode ≠ .m → s.NoRecord → bitsOf m 63 18 ≠ 0 → ∃ t, exec (.fenceQ rs1) s = .next t ∧ EntersS s (cause 8 3 0) 24 m t))

/-- COMMANDS TO A MATRIX CORE (R183, R185, R187): `qpush.qk` of a valid command to one matrix core with room puts it in that core's QK and
raises TL by one; each `qstat` returns occupancy and capacity. That OCC counts only the entries that have arrived is the model's choice (log
entry 75, DESIGN CHOICE). -/
def Obligations.QueueCommandsReachTheirCore : Prop :=
  ∀ (rd rs1 rs2 : XReg) (s : State) (c : Nat),
    (s.MayRun (.qpushQk rd rs1 rs2) → s.NoDeferred (fun d => d.queue == 17) → s.VectorIdle → s.eager = true →
      s.targets (s.partOfVf s.me.vf) s.myCore 0 s.me.masks (s.x rs1) = .inl [c] → s.commandBad c (s.x rs2) (s.x rd) = false →
      s.isFenced c = false → s.me.tl < 255 → s.qkCount c < 8 →
      ∃ t k, exec (.qpushQk rd rs1 rs2) s = .next t ∧ t.me.tl = s.me.tl + 1 ∧ t.sh.pc = s.sh.pc + 4 ∧
        (∀ r, t.x r = s.x r) ∧ (∀ b, t.byte b = s.byte b) ∧ (∀ d, d ≠ c → t.core d = s.core d) ∧
        (t.core c).ctx.qk = (s.core c).ctx.qk ++ [k] ∧ k.op = (s.x rs2).toNat % 16 ∧ k.operand = s.x rd ∧ k.issuer = s.focus) ∧
    (∀ e ∈ [(Instr.qstatQa rd rs1, 32, (s.core c).ctx.qa.length),
        (Instr.qstatQk rd rs1, 8, ((s.core c).ctx.qk.filter fun k => k.op != 6).length),
        (Instr.qstatQd rd rs1, 32, (s.core c).ctx.qd.length)],
      s.MayRun e.1 → s.coreTarget (s.partOfVf s.me.vf) s.myCore (s.x rs1).toNat none = .inl c →
      ∃ t, exec e.1 s = .next t ∧ WritesX s rd (BitVec.ofNat 64 (e.2.2 % 64 + 256 * e.2.1)) t)

/-- COLLECTIVE POSTS AND TESTS (R404 to R406): a valid descriptor is appended to the first free entry of the VF's queue, and rd receives its
handle; no store is released and no byte changes. A pending operation reports state 0 and stays; an ended one reports its state and frees
its entry; a handle that names no operation raises 0x8.5.5. -/
def Obligations.CollectivePostsAndTests : Prop :=
  (
    ∀ (rd rs1 : XReg) (s : State) (d : List Word) (k : Nat), s.VectorIdle → s.BlockReadable (s.x rs1).toNat →
      d = s.windowBlock (s.x rs1).toNat → k < 256 → ((s.vf s.me.vf).entry k).held = false →
      (∀ j < k, ((s.vf s.me.vf).entry j).held = true) →
      ∀ e ∈ [(Instr.collPostPkg rd rs1, false), (Instr.collPostSys rd rs1, true)], s.MayRun e.1 → (s.vf s.me.vf).collBad d e.2 = false →
        ∃ t, exec e.1 s = .next t ∧ Returns s rd (BitVec.ofNat 64 (((s.vf s.me.vf).entry k).posts % 65536 * 256 + k)) t ∧
          ((t.vf s.me.vf).entry k).held = true ∧ ((t.vf s.me.vf).entry k).desc = d ∧
          (let ended := (s.vf s.me.vf).collEnds.find? fun y => y.1 == collGroup d && y.2.1 == SMap.get 0 (s.vf s.me.vf).collPosts (collGroup d)
           (ended = none → ((t.vf s.me.vf).entry k).state = 0 ∧ ((t.vf s.me.vf).entry k).pending = true) ∧
           ∀ y, ended = some y → ((t.vf s.me.vf).entry k).state = y.2.2.1 ∧ ((t.vf s.me.vf).entry k).peer = y.2.2.2) ∧
          ((t.vf s.me.vf).entry k).posts = ((s.vf s.me.vf).entry k).posts + 1 ∧ (∀ b, t.byte b = s.byte b)) ∧
  (
    ∀ (rd rs1 : XReg) (s : State) (k : Nat) (e : CollEntry), k = bitsOf (s.x rs1) 7 0 → e = (s.vf s.me.vf).entry k → s.VectorIdle →
      s.MayRun (.collTest rd rs1) →
      (bitsOf (s.x rs1) 63 24 = 0 → e.held = true → (e.posts - 1) % 65536 = bitsOf (s.x rs1) 23 8 → e.cause = none →
        (e.state = 0 → ∃ t, exec (.collTest rd rs1) s = .next t ∧ WritesX s rd 0 t) ∧
        (e.state ≠ 0 → e.state < 16 → ∃ t, exec (.collTest rd rs1) s = .next t ∧ ((t.vf s.me.vf).entry k).held = false ∧
          ((t.vf s.me.vf).entry k).posts = e.posts ∧ t.sh.pc = s.sh.pc + 4 ∧
          (∀ r, t.x r = if r = rd ∧ rd ≠ 0 then
            BitVec.ofNat 64 (e.state + if e.state = 2 ∨ e.state = 6 then e.peer % 65536 * 65536 else 0) else s.x r) ∧
          ∀ b, t.byte b = s.byte b)) ∧
      (∀ c tv, s.sh.mode ≠ .m → s.NoRecord → bitsOf (s.x rs1) 63 24 = 0 → e.held = true → (e.posts - 1) % 65536 = bitsOf (s.x rs1) 23 8 →
        e.cause = some (c, tv) → ∃ t, exec (.collTest rd rs1) s = .next t ∧ ((t.vf s.me.vf).entry k).held = false ∧
          HandlerSh s (cause 8 5 4) 24 tv t ∧ ∀ b, t.byte b = s.byte b) ∧
      (s.sh.mode ≠ .m → s.NoRecord → (bitsOf (s.x rs1) 63 24 ≠ 0 ∨ e.held = false ∨ (e.posts - 1) % 65536 ≠ bitsOf (s.x rs1) 23 8) →
        ∃ t, exec (.collTest rd rs1) s = .next t ∧ EntersS s (cause 8 5 5) 24 (s.x rs1) t))

/-- MATRIX INSTRUCTIONS (R181, R194 to R199): with no cause held and room in QK, `mrun`, `mzero` and `mdrain` append their command and raise TL,
an `mzero` of no rows only completes, `mcfg` configures its slot, and `mcpy` appends and Waits; with a cause held, each of the six raises it
instead, the first of QKP, UT and BE; `mstat` returns the status, whatever its sticky bits, and clears them. -/
def Obligations.MatrixInstructionsAppendCommands : Prop :=
  ∀ (fp : FormatPair) (tag : BitVec 3) (r1 r2 rd : XReg) (s : State) (x : CoreCtx), x = (s.core s.myCore).ctx → s.VectorIdle →
    (s.MayRun (.mstat rd) → ∃ t, exec (.mstat rd) s = .next t ∧ SlotsAndCores s t ∧ Returns s rd x.status t ∧
      (t.core s.myCore).ctx = { x with mstat := { utag := x.mstat.utag } }) ∧
    (s.sh.mode ≠ .m → s.NoRecord → s.me.wait = none → ∀ i ∈ [Instr.mcfg fp tag r1 r2, .mrun fp tag r1, .mzero r1 r2, .mdrain tag r1, .mcpyIn r1 r2, .mcpyOut r1 r2],
      s.MayRun i →
      (x.mstat.qkp = true → ∃ t, exec i s = .next t ∧ EntersS s (cause 0xC 3 5) 24 0 t) ∧
      (x.mstat.qkp = false → x.mstat.ut = true → ∃ t, exec i s = .next t ∧ EntersS s (cause 9 2 6) 24 (s.me.word.zeroExtend 64) t) ∧
      (x.mstat.qkp = false → x.mstat.ut = false → x.mstat.be = true → ∃ t, exec i s = .next t ∧ EntersS s (cause 8 3 6) 24 x.status t)) ∧
    (x.mstat.qkp = false → x.mstat.ut = false → x.mstat.be = false → s.MayRun (.mzero r1 r2) → s.x r2 = 0 →
      zeroCheck (s.x r1).toNat (s.x r2).toNat = none → ∃ t, exec (.mzero r1 r2) s = .next t ∧ WritesX s 0 0 t) ∧
    (x.mstat.qkp = false → x.mstat.ut = false → x.mstat.be = false → s.me.tl < 255 → s.qkCount s.myCore < 8 → s.me.wait = none →
    (∀ e ∈ [(Instr.mrun fp tag r1, 0, tag.toNat, s.x r1, decide (armCheck (x.slotCfg tag.toNat) (some fp) (s.x r1).toNat = none)),
        (.mzero r1 r2, 1, 0, s.x r1 ||| (s.x r2 <<< 16), decide (s.x r2 ≠ 0 ∧ zeroCheck (s.x r1).toNat (s.x r2).toNat = none)),
        (.mdrain tag r1, 2, tag.toNat, s.x r1, decide (drainCheck (x.slotCfg tag.toNat) (s.x r1) = none))],
      s.MayRun e.1 → e.2.2.2.2 = true →
      ∃ t k, exec e.1 s = .next t ∧ (t.core s.myCore).ctx = { x with qk := x.qk ++ [k] } ∧ k.op = e.2.1 ∧ k.tag = e.2.2.1 ∧
        k.operand = e.2.2.2.1 ∧ k.issuer = s.focus ∧ t.me.tl = s.me.tl + 1 ∧ t.sh.pc = s.sh.pc + 4 ∧ (∀ r, t.x r = s.x r) ∧
        ∀ b, t.byte b = s.byte b) ∧
    (s.MayRun (.mcfg fp tag r1 r2) → (x.slotCfg tag.toNat).armed = false → s.qkNames s.myCore tag.toNat = false →
      s.mcfgCheck fp (s.x r1) (s.x r2) = none → ∃ t, exec (.mcfg fp tag r1 r2) s = .next t ∧ SlotsAndCores s t ∧ StepsOn s t ∧
        (t.core s.myCore).ctx.slotCfg tag.toNat = { configured := true, pair := fp, w0 := s.x r1, w1 := s.x r2 }) ∧
    (∀ e ∈ [(Instr.mcpyIn r1 r2, 4), (Instr.mcpyOut r1 r2, 5)], s.MayRun e.1 → (s.x r1).toNat % 256 = 0 →
      bitsOf (s.x r2) 63 26 = 0 → bitsOf (s.x r2) 15 9 = 0 → bitsOf (s.x r2) 25 16 ≠ 0 → bitsOf (s.x r2) 8 0 + bitsOf (s.x r2) 25 16 ≤ 512 →
      ∃ t k, exec e.1 s = .next t ∧ (t.core s.myCore).ctx = { x with qk := x.qk ++ [k] } ∧ k.op = e.2 ∧ k.addr = s.x r1 ∧
        k.operand = s.x r2 ∧ t.me.life = .waiting ∧ t.me.tl = s.me.tl + 1 ∧ t.sh = s.sh ∧ ∀ b, t.byte b = s.byte b))

/-- REGISTER-WRITE STEPS (R8, R17, R18, R21, R22, R25, R81, R83, R86, R106, R256, R357): each writes the subject's value into its CSR under the
CSR's own field rules, or reads the CSR into the subject's register, and moves no pc. -/
def Obligations.SystemRegisterSteps : Prop :=
  ∀ (s : State) (v : Word) (n c : Nat) (m : Nat), v = s.subject.value → n = s.subject.item % 8 → c = s.myCore → m = s.me.vf → s.VectorIdle →
    (s.sh.mode ≠ .u →
      (s.tswBad v = false → ∃ t, exec .tswWrite s = .next t ∧ OnlySh s (fun sh => { sh with tsw := v &&& tswMask, hops := 0 }) t) ∧
      (vptrsBad v = false → ∃ t, exec .vptrsWrite s = .next t ∧ OnlySh s (fun sh => { sh with vptrs := v.truncate 32 &&& 0x7F7F7F7F }) t) ∧
      (∃ t, exec .vresumeWrite s = .next t ∧ OnlySh s (fun sh => { sh with vresume := v.truncate 13 }) t) ∧
      (∃ t, exec .tcauseWrite s = .next t ∧ OnlySh s (fun sh => { sh with tcause := v.truncate 10 }) t) ∧
      (∃ t, exec .trecWrite s = .next t ∧ t = { s with vfs := t.vfs, cores := t.cores } ∧ (∀ w, w ≠ m → t.vf w = s.vf w) ∧
        t.vf m = { s.vf m with
          regs := { (s.vf m).regs with trec := (v &&& 0x00FFFFFFFFFFFF03) ||| ((s.vf m).regs.trec &&& ~~~v &&& 4) } }) ∧
      (∃ t, exec .sipWrite s = .next t ∧
        OnlyCore s c (fun k => { k with ctx := { k.ctx with sip := (k.ctx.sip &&& ~~~2) ||| (v &&& 2) } }) t) ∧
      (∃ t, exec .pmcWrite s = .next t ∧
        OnlyCore s c (fun k => { k with ctx := { k.ctx with pmc := SMap.put 0 k.ctx.pmc n (v.truncate 48) } }) t) ∧
      (∃ t, exec .pmselWrite s = .next t ∧ OnlyCore s c (fun k =>
        { k with ctx := { k.ctx with
            pmsel := SMap.put 0 k.ctx.pmsel n ((v.truncate 32 &&& 0xB0000FFF) |||
              ((SMap.get 0 k.ctx.pmsel n : BitVec 32) &&& ~~~(v.truncate 32) &&& 0x40000000)) } }) t)) ∧
    (∃ t, exec .fcsrAccess s = .next t ∧
      OnlySh s (fun sh => if s.subject.flag then { sh with fcsr := v.truncate 8 } else sh.setX s.subject.rd (sh.fcsr.zeroExtend 64)) t) ∧
    (∃ t, exec .pmcRead s = .next t ∧
      OnlySh s (fun sh => sh.setX s.subject.rd ((SMap.get 0 (s.core c).ctx.pmc n : BitVec 48).zeroExtend 64)) t) ∧
    (s.Owns (channelOf c (s.subject.item % 16)).1 → s.NoDeferred (fun d => d.queue == s.subject.item % 16) →
      ∃ t, exec .cwpRead s = .next t ∧ SlotsAndCores s t ∧ t.sh.pc = s.sh.pc ∧ (t.core c).l1 = [] ∧
        ∀ r, t.x r = if r = s.subject.rd ∧ r ≠ 0 then
          (match ((s.sec (channelOf c (s.subject.item % 16)).1).chan (channelOf c (s.subject.item % 16)).2) with
            | ch => match ch.ops with
              | [] => BitVec.ofNat 64 (2 ^ 63 + ch.seq.toNat * 2 ^ 40)
              | x :: _ => BitVec.ofNat 64 (ch.seq.toNat * 2 ^ 40 + x.counted % 2 ^ 36)) else s.x r) ∧
    (∃ t, exec .stvecWrite s = .next t ∧ OnlyCore s s.subject.core (fun k => { k with stale := none }) t ∧
      t.vfRegs m s.subject.core = (s.vf m).regs)

/-- VSETL, VDEPTH AND VSTRIP (R137, R147 to R149): the lengths that each sets, the value that it returns, and the pointers that `vstrip`
advances past the strip just processed; a depth is the largest one that was asked for and is free: units that it takes leave the core's L1,
at once, or while the shuttle Waits for them. -/
def Obligations.VectorConfigurationInstructions : Prop :=
  ∀ (rd rs1 : XReg) (rows : BitVec 4) (lg : BitVec 2) (e : EType) (s : State),
    (s.MayRun (.vsetl rd rs1 rows e) →
      ∃ t, exec (.vsetl rd rs1 rows e) s = .next t ∧ OnlySlot s t ∧ t.sh = { s.sh with
          x := t.sh.x, xbad := s.badAfter rd, pc := s.sh.pc + 4, vtype := some e, vlr := t.sh.vlr, vlc := t.sh.vlc } ∧
        t.sh.vlr.toNat = min rows.toNat s.sh.vdepth.toNat ∧ t.sh.vlc.toNat = min (s.x rs1).toNat e.cols ∧
        t.me = { s.me with sh := t.sh, wait := none, earlier := none, completed := true, half := false, jumped := false } ∧
        ∀ r, t.x r = if r = rd ∧ r ≠ 0 then BitVec.ofNat 64 (min (s.x rs1).toNat e.cols) else s.x r) ∧
    (s.MayRun (.vdepth rd lg) → s.VectorIdle → s.me.wait = none → s.eager = true → s.NoPins → 1 ≤ s.sh.vdepth.toNat →
      s.sh.vlr.toNat ≤ s.sh.vdepth.toNat → s.sh.vdepth.toNat ≤ 8 →
      ∃ t g, exec (.vdepth rd lg) s = .next t ∧ t = { s with slots := t.slots, cores := t.cores, home := t.home } ∧
        (∀ k, k ≠ s.focus → t.slot k = s.slot k) ∧ (∀ b, t.byte b = s.byte b) ∧ (g ≤ s.sh.vdepth.toNat → OnlySlot s t) ∧
        (∀ c, c ≠ s.myCore → t.core c = s.core c) ∧ t.core s.myCore = { s.core s.myCore with l1 := (t.core s.myCore).l1, plb := (t.core s.myCore).plb } ∧
        (∀ v wd, (s.homeState v wd).owner ≠ some s.myCore → t.homeState v wd = s.homeState v wd) ∧ t.sh = { s.sh with
          x := t.sh.x, xbad := s.badAfter rd, pc := s.sh.pc + 4, vdepth := BitVec.ofNat 4 g, vlr := t.sh.vlr } ∧
        g ∈ [1, 2, 4, 8] ∧ g ≤ 2 ^ lg.toNat ∧ (g = 1 ∨ g ≤ s.freeUnits s.myCore + s.sh.vdepth.toNat) ∧
        (∀ h ∈ [1, 2, 4, 8], h ≤ 2 ^ lg.toNat → h ≤ s.freeUnits s.myCore + s.sh.vdepth.toNat → h ≤ g) ∧
        t.sh.vlr.toNat = min s.sh.vlr.toNat g ∧ t.me.masks = s.me.masks ∧ (∀ j, j % 8 < g → SMap.get 0 t.me.vregs j = SMap.get 0 s.me.vregs j) ∧
        ∀ r, t.x r = if r = rd ∧ r ≠ 0 then BitVec.ofNat 64 g else s.x r) ∧
    (s.MayRun (.vdepth rd lg) → s.VectorIdle → s.me.wait = none → s.eager = false → s.NoPins →
      ∀ g, g = grantDepth (2 ^ lg.toNat) (s.freeUnits s.myCore) s.sh.vdepth.toNat → s.sh.vdepth.toNat < g →
        ∃ t, exec (.vdepth rd lg) s = .next t ∧ t.sh = s.sh ∧ t.me.life = .waiting ∧ (∀ b, t.byte b = s.byte b) ∧
          t.me.wait.map (·.kind) = some (.depth g)) ∧
    (s.MayRun (.vstrip rd rs1) → s.VectorIdle → s.sh.vtype = some e →
      ∀ m d C r c, m = (s.x rs1).toNat → d = s.sh.vdepth.toNat → C = e.cols →
        (d * C ≤ m ∧ r = d ∧ c = C ∨ m < d * C ∧ C ≤ m ∧ r = m / C ∧ c = C ∨ m < d * C ∧ m < C ∧ 0 < m ∧ r = 1 ∧ c = m ∨
          m < d * C ∧ m < C ∧ m = 0 ∧ r = 0 ∧ c = 0) →
        ∃ t, exec (.vstrip rd rs1) s = .next t ∧ OnlySlot s t ∧
          t.sh = { s.sh with x := t.sh.x, xbad := t.sh.xbad, pc := s.sh.pc + 4, vlr := BitVec.ofNat 4 r, vlc := BitVec.ofNat 10 c } ∧
          t.me = { s.me with sh := t.sh, wait := none, earlier := none, completed := true, half := false, jumped := false } ∧
          t.sh.vlr.toNat = r ∧ t.sh.vlc.toNat = c ∧
          ∀ q : XReg, t.x q = if q = 0 then 0 else if q = rd then BitVec.ofNat 64 (r * c) else
            (List.range 4).foldl (fun a k =>
              let f := s.sh.vptrs.toNat / 2 ^ (8 * k) % 128
              a + (if f % 16 = q.val then BitVec.ofNat 64 (s.elements * ptrBits (f / 16) / 8) else 0)) (s.x q))

/-- REGISTER-ONLY VECTOR INSTRUCTIONS COMPLETE (R127, R128, R145, R146): each whose decode checks pass writes what its element function gives:
vector registers, masks, accrued flags and an x register, with `vresume` 0 at the next word. -/
def Obligations.VectorRegisterInstructionsComplete : Prop :=
  ∀ (i : Instr) (f : VArgs → VEff) (s : State), vaEff i = some f → s.VectorReady i →
    ∃ t, exec i s = .next t ∧ VectorDone s t ∧ t.me.vregs = (f (s.me.vargs s.sh)).regs ∧ t.me.masks = (f (s.me.vargs s.sh)).masks ∧
      t.sh.fcsr = (s.sh.fcsr ||| (f (s.me.vargs s.sh)).flags.zeroExtend 8) ∧
      ∀ r, t.x r = match (f (s.me.vargs s.sh)).xw with
        | some (rd, v) => if r = rd ∧ r ≠ 0 then v else s.x r
        | none => s.x r

/-- VECTOR ELEMENTS (R133, R134, R142 to R144, R158 to R161, R167, R169): every active element is the exact result of the operation on the
elements as they stood, wrapped or clamped to its width (integers: of one width, widening to a group, narrowing from a group), or rounded
once with `frm` (floating point), the flags of the active elements accruing and X = 1 writing each element's exception bit; `vcvt` converts
each active element, and `vdecb` decodes each code under the scale of its block. Every other element, register and mask is unchanged (a mask
only where X is 0). That a register-only instruction starts at element `vresume.IDX` is the model's choice (log entry 20, DEDUCED from R22
and R146). -/
def Obligations.VectorElementsAreExact : Prop :=
  (
    ∀ (x : Bool) (vm : MReg) (vd vs1 vs2 : VReg) (e : EType) (s : State), s.VectorType e →
      ∀ op ∈ vectorOps, s.VectorReady (op.1 x vm vd vs1 vs2) →
        ∃ t, exec (op.1 x vm vd vs1 vs2) s = .next t ∧ VectorDone s t ∧ OtherRows s t vd ∧ (∀ r, t.x r = s.x r) ∧
          (x = false → t.me.masks = s.me.masks) ∧
          ∀ i, i < s.elements →
            (s.ActiveElt (if x then 0 else vm) i →
              (t.velt e.width vd i : Int) = op.2 e.width e.isSigned (s.velt e.width vs1 i) (s.velt e.width vs2 i) % 2 ^ e.width) ∧
            (¬ s.ActiveElt (if x then 0 else vm) i → t.velt e.width vd i = s.velt e.width vd i)) ∧
  (
    ∀ (x : Bool) (vm : MReg) (vd vs1 vs2 : VReg) (e : EType) (s : State), s.VectorType e →
      (∀ op ∈ vectorWideOps, wellFormed (op.1 x vm vd vs1 vs2) = true → s.VectorReady (op.1 x vm vd vs1 vs2) →
        ∃ t, exec (op.1 x vm vd vs1 vs2) s = .next t ∧ VectorDone s t ∧ OutsideGroup s t vd 2 ∧ (∀ r, t.x r = s.x r) ∧
          (x = false → t.me.masks = s.me.masks) ∧
          ∀ i, i < s.elements →
            (s.ActiveElt (if x then 0 else vm) i → (t.gelt (2 * e.width) vd i : Int) =
              op.2 (extElt (2 * e.width) e.isSigned (s.gelt (2 * e.width) vd i)) (extElt e.width e.isSigned (s.velt e.width vs1 i))
                (extElt e.width e.isSigned (s.velt e.width vs2 i)) % 2 ^ (2 * e.width)) ∧
            (¬ s.ActiveElt (if x then 0 else vm) i → t.gelt (2 * e.width) vd i = s.gelt (2 * e.width) vd i)) ∧
      (∀ op ∈ vectorNarrowOps, wellFormed (op.1 x vm vd vs1 vs2) = true → s.VectorReady (op.1 x vm vd vs1 vs2) →
        ∃ t, exec (op.1 x vm vd vs1 vs2) s = .next t ∧ VectorDone s t ∧ OtherRows s t vd ∧ (∀ r, t.x r = s.x r) ∧
          (x = false → t.me.masks = s.me.masks) ∧
          ∀ i, i < s.elements →
            (s.ActiveElt (if x then 0 else vm) i → (t.velt e.width vd i : Int) =
              op.2 e.width e.isSigned (extElt (2 * e.width) e.isSigned (s.gelt (2 * e.width) vs1 i)) (s.velt e.width vs2 i % (2 * e.width)) %
                2 ^ e.width) ∧
            (¬ s.ActiveElt (if x then 0 else vm) i → t.velt e.width vd i = s.velt e.width vd i))) ∧
  (
    ∀ (x : Bool) (vm : MReg) (vd vs1 vs2 : VReg) (e src : EType) (s : State), s.VectorType e →
      (∀ op ∈ vectorFpOps, s.VectorReady (op.1 x vm vd vs1 vs2) → ∀ (r : Nat → Fp × FFlags) (g : Nat → FFlags),
        (∀ i, r i = op.2 s.sh.rm (e.fmt.decode (s.velt e.width vd i)) (e.fmt.decode (s.velt e.width vs1 i)) (e.fmt.decode (s.velt e.width vs2 i))) →
        (∀ i, g i = (r i).2 ||| (e.fmt.round s.sh.rm (r i).1).2) →
        ∃ t, exec (op.1 x vm vd vs1 vs2) s = .next t ∧ VectorDone s t ∧ OtherRows s t vd ∧ (∀ q, t.x q = s.x q) ∧
          (x = false → t.me.masks = s.me.masks) ∧
          (∀ j < 8, t.sh.fcsr.getLsbD j = true ↔
            s.sh.fcsr.getLsbD j = true ∨ ∃ i, s.ActiveElt (if x then 0 else vm) i ∧ (g i).getLsbD j = true) ∧
          ∀ i, i < s.elements →
            (s.ActiveElt (if x then 0 else vm) i → t.velt e.width vd i = (e.fmt.round s.sh.rm (r i).1).1 % 2 ^ e.width ∧
              (x = true → (t.mbit vm i = true ↔ g i &&& 0x1E ≠ 0))) ∧
            (¬ s.ActiveElt (if x then 0 else vm) i → t.velt e.width vd i = s.velt e.width vd i)) ∧
      (s.VectorReady (.vcvt x vm src vd vs1) →
        ∃ t, exec (.vcvt x vm src vd vs1) s = .next t ∧ VectorDone s t ∧ OtherRows s t vd ∧ (∀ q, t.x q = s.x q) ∧
          (x = false → t.me.masks = s.me.masks) ∧
          ∀ i, i < s.elements →
            (s.ActiveElt (if x then 0 else vm) i →
              t.velt e.width vd i = convertedTo src e s.sh.rm (src.clean (s.velt src.width vs1 i)) % 2 ^ e.width) ∧
            (¬ s.ActiveElt (if x then 0 else vm) i → t.velt e.width vd i = s.velt e.width vd i)) ∧
      (wellFormed (.vdecb x vm vd vs1 vs2) = true → s.VectorReady (.vdecb x vm vd vs1 vs2) →
        ∃ t, exec (.vdecb x vm vd vs1 vs2) s = .next t ∧ VectorDone s t ∧ OutsideGroup s t vd 4 ∧ (∀ q, t.x q = s.x q) ∧
          (x = false → t.me.masks = s.me.masks) ∧
          ∀ i, i < s.elements → ∀ k c, k = (SMap.get 0 s.me.vregs (8 * vs2.val + i / s.sh.vlc.toNat)).toNat /
                2 ^ (8 * (i % s.sh.vlc.toNat / 16)) % 256 → c = decTap (e == .t6) (s.velt 8 vs1 i) →
            (s.ActiveElt (if x then 0 else vm) i → t.gelt 32 vd i =
              (if k = 255 ∨ c.isNan = true then 0x7FC00000 else (fp32.round .rne (c.scaleBy ((k : Int) - 127))).1 % 2 ^ 32)) ∧
            (¬ s.ActiveElt (if x then 0 else vm) i → t.gelt 32 vd i = s.gelt 32 vd i)))

/-- MASKS, MOVES AND REDUCTIONS (R118, R120, R134, R164 to R166, R170, R171, R173, R174): integer comparisons and mask logic write the bits of
active elements and clear those at and above N; counts and searches return numbers; slides, merges and gathers pick elements; integer
reductions wrap, and ordered sums and extremes of floating point combine in ascending order, to the initial value bit for bit where no
element is active (log entry 73, DESIGN CHOICE). That counts, searches, mask logic and reductions begin at element `vresume.IDX`, where R165
and R174 speak of all elements below N, is the model's choice (log entry 20, DEDUCED from R22 and R146). -/
def Obligations.VectorMasksMovesAndSums : Prop :=
  ∀ (vm md ma mb : MReg) (vd vs1 vs2 : VReg) (rd rs : XReg) (e : EType) (s : State), s.VectorType e →
    (∀ c ∈ [(Cond.eq, fun (p q : Int) => p = q), (.ne, fun p q => p ≠ q), (.lt, fun p q => p < q), (.le, fun p q => p ≤ q)],
      s.VectorReady (.vcmp c.1 vm md vs1 vs2) →
      ∃ t, exec (.vcmp c.1 vm md vs1 vs2) s = .next t ∧ VectorDone s t ∧ t.me.vregs = s.me.vregs ∧ (∀ r, t.x r = s.x r) ∧
        ∀ i < 4096, (s.ActiveElt vm i →
            (t.mbit md i = true ↔ c.2 (extElt e.width e.isSigned (s.velt e.width vs1 i)) (extElt e.width e.isSigned (s.velt e.width vs2 i)))) ∧
          (¬ s.ActiveElt vm i → t.mbit md i = (decide (i < s.elements) && s.mbit md i))) ∧
    (∀ o ∈ [(MaskOp.and, fun p q => p && q), (.or, fun p q => p || q), (.xor, fun p q => p != q), (.andn, fun p q => p && !q)],
      s.VectorReady (.vmlog o.1 md ma mb) →
      ∃ t, exec (.vmlog o.1 md ma mb) s = .next t ∧ VectorDone s t ∧ t.me.vregs = s.me.vregs ∧ (∀ r, t.x r = s.x r) ∧
        ∀ i < 4096, (s.ActiveElt 0 i → t.mbit md i = o.2 (s.mbit ma i) (s.mbit mb i)) ∧
          (¬ s.ActiveElt 0 i → t.mbit md i = (decide (i < s.elements) && s.mbit md i))) ∧
    (s.VectorReady (.vpopc rd ma) → ∃ t, exec (.vpopc rd ma) s = .next t ∧ VectorDone s t ∧ t.me.vregs = s.me.vregs ∧
      t.me.masks = s.me.masks ∧ ∀ r, t.x r = if r = rd ∧ r ≠ 0 then
        BitVec.ofNat 64 ((List.range s.elements).countP fun i => decide (s.sh.vresume.toNat ≤ i) && s.mbit ma i) else s.x r) ∧
    (s.VectorReady (.vfirst rd ma) → ∃ t, exec (.vfirst rd ma) s = .next t ∧ VectorDone s t ∧ t.me.vregs = s.me.vregs ∧
      t.me.masks = s.me.masks ∧ (∀ r, r ≠ rd → t.x r = s.x r) ∧
      (rd ≠ 0 → (∀ i, s.ActiveElt 0 i → s.mbit ma i = true → (∀ j < i, s.ActiveElt 0 j → s.mbit ma j = false) →
          t.x rd = BitVec.ofNat 64 i) ∧
        ((∀ i, s.ActiveElt 0 i → s.mbit ma i = false) → t.x rd = BitVec.allOnes 64))) ∧
    (∀ p ∈ [(Instr.vmerge vm vd vs1 vs2, (0 : MReg), fun i => e.clean (s.velt e.width (if s.mbit vm i then vs1 else vs2) i)),
        (.vbcast vm vd rs, vm, fun _ => e.clean (s.x rs).toNat),
        (.vslup vm vd vs1 rs, vm,
          fun i => if (s.x rs).toNat ≤ i then e.clean (s.velt e.width vs1 (i - (s.x rs).toNat)) else s.velt e.width vd i),
        (.vsldn vm vd vs1 rs, vm,
          fun i => if i + (s.x rs).toNat < s.elements then e.clean (s.velt e.width vs1 (i + (s.x rs).toNat)) else 0),
        (.vrgath vm vd vs1 vs2, vm, fun i => if e.clean (s.velt e.width vs2 i) < s.elements then
          e.clean (s.velt e.width vs1 (e.clean (s.velt e.width vs2 i))) else 0)],
      s.VectorReady p.1 →
      ∃ t, exec p.1 s = .next t ∧ VectorDone s t ∧ OtherRows s t vd ∧ t.me.masks = s.me.masks ∧ (∀ r, t.x r = s.x r) ∧
        ∀ i, i < s.elements → (s.ActiveElt p.2.1 i → t.velt e.width vd i = p.2.2 i) ∧
          (¬ s.ActiveElt p.2.1 i → t.velt e.width vd i = s.velt e.width vd i)) ∧
    (s.VectorReady (.vmvxs rd vs1) → ∃ t v, exec (.vmvxs rd vs1) s = .next t ∧ VectorDone s t ∧ t.me.vregs = s.me.vregs ∧
      v = e.clean ((SMap.get 0 s.me.vregs (8 * vs1.val)).toNat % 2 ^ e.width) ∧
      ∀ r, t.x r = if r = rd ∧ r ≠ 0 then BitVec.ofInt 64 (extElt e.width (e.isSigned || e.isFp) v) else s.x r) ∧
    (∀ p ∈ [(Instr.vredsum vm vd vs1 vs2, fun (a b : Int) => a + b), (.vredmax vm vd vs1 vs2, max), (.vredmin vm vd vs1 vs2, min)],
      s.VectorReady p.1 → ∃ t, exec p.1 s = .next t ∧ VectorDone s t ∧ OtherRows s t vd ∧ t.me.masks = s.me.masks ∧ (∀ r, t.x r = s.x r) ∧
        (∀ i, 0 < i → i < s.elements → t.velt e.width vd i = s.velt e.width vd i) ∧
        ((SMap.get 0 t.me.vregs (8 * vd.val)).toNat % 2 ^ e.width : Int) =
          (((List.range s.elements).filter fun i => decide (s.sh.vresume.toNat ≤ i) && (vm == 0 || s.mbit vm i)).map fun i =>
              extElt e.width e.isSigned (s.velt e.width vs1 i)).foldl p.2
            (extElt e.width e.isSigned ((SMap.get 0 s.me.vregs (8 * vs2.val)).toNat % 2 ^ e.width)) % 2 ^ e.width) ∧
    (∀ p ∈ [(Instr.vredand vm vd vs1 vs2, fun (a b : Nat) => a &&& b), (.vredor vm vd vs1 vs2, fun a b => a ||| b),
        (.vfredo vm vd vs1 vs2, fun a b => (e.fmt.round s.sh.rm (Fp.add s.sh.rm (e.fmt.decode a) (e.fmt.decode b)).1).1),
        (.vfredmax vm vd vs1 vs2, fun a b => (e.fmt.minMax true a b).1), (.vfredmin vm vd vs1 vs2, fun a b => (e.fmt.minMax false a b).1)],
      s.VectorReady p.1 → ∃ t, exec p.1 s = .next t ∧ VectorDone s t ∧ OtherRows s t vd ∧ t.me.masks = s.me.masks ∧ (∀ r, t.x r = s.x r) ∧
        (∀ i, 0 < i → i < s.elements → t.velt e.width vd i = s.velt e.width vd i) ∧
        (SMap.get 0 t.me.vregs (8 * vd.val)).toNat % 2 ^ e.width =
          (((List.range s.elements).filter fun i => decide (s.sh.vresume.toNat ≤ i) && (vm == 0 || s.mbit vm i)).map fun i =>
              s.velt e.width vs1 i).foldl p.2 ((SMap.get 0 s.me.vregs (8 * vs2.val)).toNat % 2 ^ e.width) % 2 ^ e.width)

/-- VECTOR MEMORY IN SCRATCHPADS (R150 to R157, R205): when the elements of a load or store with elements of whole bytes lie aligned in
scratchpads that the thread may use, the instruction completes: a load puts the bytes of each element in its place; a store writes the bytes
of each element, and no others, and of elements at one address the one performed last remains, with O = 1 the highest (R153). An atomic on
distinct words makes each f(old, d) and its element the old value; every other byte is unchanged. -/
def Obligations.VectorMemoryMovesElements : Prop :=
  (
    ∀ (o v : Bool) (vd vi : VReg) (rs1 rs2 : XReg) (e : EType) (s : State) (n : Nat), s.VectorType e → n * 8 = e.width → e ≠ .t6 →
      s.elems.batch = none → s.me.refused = [] → ∀ f ∈ s.vectorForms o v vd vi rs1 rs2 n,
        (∀ i, s.ActiveElt 0 i → s.PlainElement n (f.2.2 i)) →
        (s.VectorReady f.1 → ∃ t, exec f.1 s = .next t ∧ VectorDone s t ∧ OtherRows s t vd ∧ t.me.masks = s.me.masks ∧ (∀ r, t.x r = s.x r) ∧
          (∀ c b, t.scratchByte c b = s.scratchByte c b) ∧
          ∀ i, i < s.elements → (s.ActiveElt 0 i → t.velt e.width vd i = littleEndian (fun j =>
              s.scratchByte (windowCore (f.2.2 i).toNat) (windowOff (f.2.2 i).toNat + j)) n) ∧
            (¬ s.ActiveElt 0 i → t.velt e.width vd i = s.velt e.width vd i)) ∧
        (s.VectorReady f.2.1 → ∃ t, exec f.2.1 s = .next t ∧ VectorDone s t ∧ t.me.vregs = s.me.vregs ∧ t.me.masks = s.me.masks ∧
          (∀ r, t.x r = s.x r) ∧
          (∀ c b, (∀ i, s.ActiveElt 0 i → windowCore (f.2.2 i).toNat = c → b < windowOff (f.2.2 i).toNat ∨
            windowOff (f.2.2 i).toNat + n ≤ b) → t.scratchByte c b = s.scratchByte c b) ∧
          ∀ i, s.ActiveElt 0 i → ∃ k, s.ActiveElt 0 k ∧ f.2.2 k = f.2.2 i ∧
            (o = true → ∀ j, s.ActiveElt 0 j → f.2.2 j = f.2.2 i → j ≤ k) ∧
            littleEndian (fun j => t.scratchByte (windowCore (f.2.2 i).toNat) (windowOff (f.2.2 i).toNat + j)) n = s.velt e.width vd k)) ∧
  (
    ∀ (o : Bool) (ord : Order) (vd vi : VReg) (rs1 : XReg) (e : EType) (s : State) (a : Nat → Word), s.VectorType e → s.StoresHome →
      s.elems.batch = none → a = (fun i => s.x rs1 + BitVec.ofInt 64 ((s.velt 32 vi i : Int).bmod (2 ^ 32))) →
      (∀ i, s.ActiveElt 0 i → s.PlainElement 4 (a i)) →
      (∀ i j, s.ActiveElt 0 i → s.ActiveElt 0 j → a i = a j → i = j) →
      ∀ f ∈ [(Instr.vamoAddClu o ord vd rs1 vi, Instr.vamoAddPkg o ord vd rs1 vi, fun (x y : Nat) => x + y),
          (.vamoAndClu o ord vd rs1 vi, .vamoAndPkg o ord vd rs1 vi, fun x y => x &&& y),
          (.vamoOrClu o ord vd rs1 vi, .vamoOrPkg o ord vd rs1 vi, fun x y => x ||| y),
          (.vamoXorClu o ord vd rs1 vi, .vamoXorPkg o ord vd rs1 vi, fun x y => x ^^^ y),
          (.vamoMinClu o ord vd rs1 vi, .vamoMinPkg o ord vd rs1 vi,
            fun x y => if extElt 32 e.isSigned x ≤ extElt 32 e.isSigned y then x else y),
          (.vamoMaxClu o ord vd rs1 vi, .vamoMaxPkg o ord vd rs1 vi,
            fun x y => if extElt 32 e.isSigned x ≤ extElt 32 e.isSigned y then y else x),
          (.vamoSwapClu o ord vd rs1 vi, .vamoSwapPkg o ord vd rs1 vi, fun _ y => y)],
        ∀ i ∈ [f.1, f.2.1], s.VectorReady i →
          ∃ t, exec i s = .next t ∧ VectorDone s t ∧ OtherRows s t vd ∧ t.me.masks = s.me.masks ∧ (∀ r, t.x r = s.x r) ∧
            (∀ c b, (∀ i, s.ActiveElt 0 i → windowCore (a i).toNat = c → b < windowOff (a i).toNat ∨ windowOff (a i).toNat + 4 ≤ b) →
              t.scratchByte c b = s.scratchByte c b) ∧
            ∀ i, i < s.elements → (s.ActiveElt 0 i →
                t.velt 32 vd i = littleEndian (fun j => s.scratchByte (windowCore (a i).toNat) (windowOff (a i).toNat + j)) 4 ∧
                littleEndian (fun j => t.scratchByte (windowCore (a i).toNat) (windowOff (a i).toNat + j)) 4 =
                  f.2.2 (littleEndian (fun j => s.scratchByte (windowCore (a i).toNat) (windowOff (a i).toNat + j)) 4) (s.velt 32 vd i) % 2 ^ 32) ∧
              (¬ s.ActiveElt 0 i → t.velt 32 vd i = s.velt 32 vd i))

/-- PRECISE VECTOR FAULTS (R130, R141): where the elements of a load or store are performed in ascending order, which is so with O = 1, and with
O = 0 where none is chosen to come first (log entry 18), the first element whose access faults, because its address is not a multiple of its
width, because a window refuses it, because it is reserved or because its region's protection refuses it, raises that cause with its address
and leaves its index in `vresume`; the elements below it are performed, and nothing else is. That 0x5.1.5 comes before every other cause of
an element is the model's choice (log entry 13). -/
def Obligations.VectorFaultsArePrecise : Prop :=
  ∀ (o v : Bool) (vd vi : VReg) (rs1 rs2 : XReg) (e : EType) (s : State) (n i : Nat) (c : BitVec 10), s.VectorType e → n * 8 = e.width →
    s.sh.mode ≠ .m → s.NoRecord → s.me.refused = [] → s.elems.batch = none → (o = true ∨ s.elems.early = []) → s.ActiveElt 0 i →
    ∀ f ∈ s.vectorForms o v vd vi rs1 rs2 n, (∀ j < i, s.ActiveElt 0 j → s.PlainElement n (f.2.2 j)) →
      (s.VectorReady f.1 → s.ElementFaults .load n (f.2.2 i) c →
        ∃ t, exec f.1 s = .next t ∧ SlotsAndCores s t ∧ (∀ k, k ≠ s.focus → t.slot k = s.slot k) ∧ t.VectorIdle ∧
          t.sh = { handled s.sh ((s.vfRegs s.me.vf s.myCore).stvec &&& ~~~3) c (scauseOf c) (f.2.2 i) s.sh.pc with vresume := BitVec.ofNat 13 i } ∧
          OtherRows s t vd ∧ t.me.masks = s.me.masks ∧ (∀ d b, t.scratchByte d b = s.scratchByte d b) ∧
          ∀ j, j < s.elements → (s.ActiveElt 0 j ∧ j < i → t.velt e.width vd j = littleEndian (fun b =>
              s.scratchByte (windowCore (f.2.2 j).toNat) (windowOff (f.2.2 j).toNat + b)) n) ∧
            (¬ (s.ActiveElt 0 j ∧ j < i) → t.velt e.width vd j = s.velt e.width vd j)) ∧
      (s.VectorReady f.2.1 → s.ElementFaults .store n (f.2.2 i) c →
        ∃ t, exec f.2.1 s = .next t ∧ SlotsAndCores s t ∧ (∀ k, k ≠ s.focus → t.slot k = s.slot k) ∧ t.VectorIdle ∧
          t.sh = { handled s.sh ((s.vfRegs s.me.vf s.myCore).stvec &&& ~~~3) c (scauseOf c) (f.2.2 i) s.sh.pc with vresume := BitVec.ofNat 13 i } ∧
          t.me.vregs = s.me.vregs ∧ t.me.masks = s.me.masks ∧
          (∀ d b, (∀ j < i, s.ActiveElt 0 j → windowCore (f.2.2 j).toNat = d → b < windowOff (f.2.2 j).toNat ∨
            windowOff (f.2.2 j).toNat + n ≤ b) → t.scratchByte d b = s.scratchByte d b) ∧
          ∀ j < i, s.ActiveElt 0 j → (∀ k < i, s.ActiveElt 0 k → f.2.2 k = f.2.2 j → k ≤ j) →
            littleEndian (fun b => t.scratchByte (windowCore (f.2.2 j).toNat) (windowOff (f.2.2 j).toNat + b)) n = s.velt e.width vd j)

/-- STEPS OF THE VECTOR UNIT (R129, R130, R132, R137, R145): a start takes the oldest entry of the slot whose turn it is; a completion performs
it; a parity error rolls the thread back to the entry with no trap; a depth grant gives the thread that waits the depth granted at its
issue, and readies it. -/
def Obligations.VectorUnitSteps : Prop :=
  ∀ (s : State) (k : Nat) (m : Slot), k = s.subjectSlot → m = s.slot k →
    (∀ e rest, s.unitPick s.subject.core none = some k → m.vrun = none → m.vq = e :: rest → isQueueOp e.instr = false →
      ∃ t, exec .vectorUnitStart s = .next t ∧ SlotsAndCores s t ∧ (∀ j, j ≠ k → t.slot j = s.slot j) ∧
        t.slot k = { m with vq := rest, vrun := some e }) ∧
    (∀ e f, m.vrun = some e → m.vq = [] → m.held = [] → m.vpoison = [] → m.wait = none → vaEff e.instr = some f →
      ∃ t, exec .vectorCompletion s = .next t ∧ (∀ j, j ≠ k → t.slot j = s.slot j) ∧ t = { s with slots := t.slots } ∧
        (t.slot k).vregs = (f (m.vargs e.ck)).regs ∧ (t.slot k).masks = (f (m.vargs e.ck)).masks ∧ (t.slot k).vrun = none ∧
        (t.slot k).sh.pc = m.sh.pc ∧ (t.slot k).sh.fcsr = (m.sh.fcsr ||| (f (m.vargs e.ck)).flags.zeroExtend 8) ∧
        ∀ r, (t.slot k).sh.getX r = match (f (m.vargs e.ck)).xw with
          | some (rd, v) => if r = rd ∧ r ≠ 0 then v else m.sh.getX r
          | none => m.sh.getX r) ∧
    (∀ e, m.vq[s.subject.item]? = some e →
      ∃ t, exec .vectorQueueParityError s = .next t ∧ (∀ j, j ≠ k → t.slot j = s.slot j) ∧ SlotsAndCores s t ∧
        (t.slot k).sh.pc = e.ck.pc ∧ (∀ r, (t.slot k).sh.getX r = e.ck.getX r) ∧ (t.slot k).sh.scause = e.ck.scause ∧
        (t.slot k).sh.mode = e.ck.mode ∧ (t.slot k).sh.vresume = e.ck.vresume ∧ (t.slot k).vregs = m.vregs ∧
        (t.slot k).vq = m.vq.filter (fun x => decide (x.seq < e.seq))) ∧
    (∀ w d, m.wait = some w → w.kind = .depth d → d < 16 →
      ∃ t, exec .depthGrantComplete s = .next t ∧ (∀ j, j ≠ k → t.slot j = s.slot j) ∧ t = { s with slots := t.slots } ∧
        (t.slot k).sh.vdepth.toNat = d ∧ (t.slot k).sh.vlr.toNat = min m.sh.vlr.toNat d ∧ (t.slot k).life = .ready ∧
        (t.slot k).doneValue = some (BitVec.ofNat 64 d))

/-- QUEUES OF A MATRIX CORE FROM THE VECTOR SIDE (R184, R186, R249): `qpush.qa` puts its entry in the QA of the core that its target word names;
`qpop.qd` takes the oldest drained row; and a `vwait` whose flags, in scratchpads, are all met completes with an empty unmet set. -/
def Obligations.VectorQueueInstructionsComplete : Prop :=
  ∀ (vs vd va vb : VReg) (md : MReg) (rs1 rs2 : XReg) (tm : BitVec 3) (c : Nat) (s : State),
    (s.VectorReady (.qpushQa vs rs1 rs2) → s.targets (s.partOfVf s.me.vf) s.myCore 1 s.me.masks (s.x rs1) = .inl [c] →
      s.isFenced c = false → s.qaCount c < 32 → ∀ e, s.sh.vtype = some e → entryWordBad (s.x rs2) e.width = false →
      ∃ t q, exec (.qpushQa vs rs1 rs2) s = .next t ∧ VectorDone s t ∧ t.me.vregs = s.me.vregs ∧ (∀ r, t.x r = s.x r) ∧
        (t.core c).ctx.qa = (s.core c).ctx.qa ++ [q] ∧ q.w = e.width ∧ q.tag = (s.x rs2).toNat % 8 ∧
        (bitsOf (s.x rs2) 5 3 < s.sh.vdepth.toNat → q.val.toNat =
          (SMap.get 0 s.me.vregs (8 * vs.val + bitsOf (s.x rs2) 5 3)).toNat / 2 ^ (64 * e.width * bitsOf (s.x rs2) 8 6) % 2 ^ (64 * e.width))) ∧
    (s.VectorReady (.qpopQd vd rs1) → s.coreTarget (s.partOfVf s.me.vf) s.myCore (s.x rs1).toNat (some 1) = .inl c →
      ∀ y rest, (s.core c).ctx.qd = y :: rest → y.bad = false → y.poison = 0 → y.w ∈ [8, 16, 32] → (∀ j < 64, (y.vals.getD j 0).toNat < 2 ^ y.w) →
      ∃ t, exec (.qpopQd vd rs1) s = .next t ∧ VectorDone s t ∧ (∀ r, t.x r = s.x r) ∧ (t.core c).ctx.qd = rest ∧
        ∀ j < 64, (SMap.get 0 t.me.vregs (8 * (if y.w = 32 ∧ 32 ≤ j then (vd.val + 1) % 32 else vd.val))).toNat /
          2 ^ (y.w * (if y.w = 32 then j % 32 else j)) % 2 ^ y.w = (y.vals.getD j 0).toNat) ∧
    (s.MayRun (.vwait md va vb tm) → s.VectorIdle → s.sh.vtype.isSome = true → s.sh.vlc.toNat ≤ 16 → s.me.wait = none →
      (∀ i < s.elements, s.velt 64 va i % 8 = 0 ∧ s.WindowAllows (s.velt 64 va i) ∧ s.WindowSettled (s.velt 64 va i) ∧
        SMap.get false (s.core (windowCore (s.velt 64 va i))).ctx.spoison (windowOff (s.velt 64 va i) / 8) = false ∧
        s.Unlogged (s.velt 64 va i) ∧
        s.velt 64 vb i ≤ littleEndian (fun j => s.scratchByte (windowCore (s.velt 64 va i)) (windowOff (s.velt 64 va i) + j)) 8) →
      ∃ t, exec (.vwait md va vb tm) s = .next t ∧ t = { s with slots := t.slots, cores := t.cores, watches := t.watches } ∧
        (∀ k, k ≠ s.focus → t.slot k = s.slot k) ∧ t.sh = { s.sh with pc := s.sh.pc + 4, vresume := 0 } ∧ t.me.vregs = s.me.vregs ∧
        (∀ i, t.mbit md i = false) ∧ (∀ m : MReg, m ≠ md → ∀ i, t.mbit m i = s.mbit m i))

/-- INTERRUPTS, HELD TRAPS AND WAITS (R36, R83, R84, R87, R127, R218, R260): a reject of the decoder traps with its word; an interrupt that is
due enters the handler with its number and leaves its source as the rules say; a refusal that is due, at an issue boundary or while the
shuttle waits at a barrier, traps with its store's address; a wake readies; an expired wait of `cwait` traps and one of WFI completes; the
head of the waiting records is posted, or dropped where the ring is full. That refusals are taken one by one, and that a shuttle Waiting at
a barrier leaves its wait for one, is the model's choice (log entry 65, DEDUCED), and so is that `trec` is read when the record is posted
(log entry 69, DESIGN CHOICE). -/
def Obligations.TrapStepsEnterTheirHandler : Prop :=
  ∀ (s : State) (k : Nat) (m : Slot), k = s.subjSlot → m = s.slot k →
    (∀ w c, (decodeWord w = .reject .illegal ∧ c = cause 0 0 0 ∨ decodeWord w = .reject .reservedLater ∧ c = cause 0 0 1 ∨
        decodeWord w = .reject .registerField ∧ c = cause 0 0 5) → s.VectorIdle → s.sh.mode ≠ .m → s.NoRecord →
      ∃ t, exec (.illegalInstruction w) s = .next t ∧ EntersS s c 2 (w.zeroExtend 64) t) ∧
    (∀ j n cs tv, s.interruptSlot s.subject.core = some j → firstInterrupt (s.pendingOn s.subject.core) = some n → s.PlainTrap j →
      (s.slot j).vq = [] → (s.slot j).vrun = none →
      (n = 16 ∧ cs = cause 0xD 0 (s.core s.subject.core).ctx.notice ∧ tv = 0 ∨ n = 1 ∧ cs = cause 0xB 0 1 ∧ tv = 0 ∨
        n = 5 ∧ cs = cause 0xB 0 4 ∧ tv = 0 ∨ n = 13 ∧ cs = cause 0xB 0 2 ∧ tv = 0) →
      ∃ t, exec .interruptEntry s = .next t ∧ (∀ i, i ≠ j → t.slot i = s.slot i) ∧ t = { s with slots := t.slots, cores := t.cores } ∧
        (t.slot j).life = .ready ∧
        (t.slot j).sh = handled (s.slot j).sh
          (((s.vfRegs (s.slot j).vf (j / 16)).stvec &&& ~~~3) +
            (if bitOf (s.vfRegs (s.slot j).vf (j / 16)).stvec 0 then 4 * BitVec.ofNat 64 n else 0))
          cs (BitVec.ofNat 64 (2 ^ 63 + n)) tv (s.slot j).sh.pc ∧
        (∀ c, (t.core c).ctx.sip = if c = s.subject.core ∧ n = 16 then (s.core c).ctx.sip &&& ~~~0x10000 else (s.core c).ctx.sip)) ∧
    (∀ r rest u, s.records = r :: rest → r.claim = none → bitOf (s.vf r.vf).regs.trec 0 = true →
      (s.claimRecord r = .ok u none → exec .trapRecordPost s = .next { u with records := rest }) ∧
      (∀ p v, s.claimRecord r = .ok u (some p) → ({ u with records := { r with claim := some p } :: rest } : State).fillRecord r p = .ok v () →
        exec .trapRecordPost s = .next { v with records := v.records.tail })) ∧
    (∀ r rest p v, s.records = r :: rest → r.claim = some p → s.fillRecord r p = .ok v () →
      exec .trapRecordPost s = .next { v with records := v.records.tail }) ∧
    (∀ r rest, m.refused = r :: rest → (m.life = .ready ∧ m.half = false ∧ m.doneValue = none ∨
        m.life = .waiting ∧ ∃ w sec b, m.wait = some w ∧ w.kind = .barrier sec b) →
      m.parked = false → m.vq = [] → m.vrun = none → m.heldTrap = none → s.PlainTrap k →
      ∃ t, exec .ownerLostRefusal s = .next t ∧ (∀ i, i ≠ k → t.slot i = s.slot i) ∧ t = { s with slots := t.slots } ∧
        TrapsSlot s k r.cause (scauseOf r.cause) r.addr m.sh.pc t ∧ (t.slot k).refused = rest) ∧
    (m.life = .waiting → m.woken = true →
      ∃ t, exec .shuttleWake s = .next t ∧ OnlySlotAt s k (fun m => { m with life := .ready, woken := false, wokeAt := some (s.coreCycle (k / 16)) }) t) ∧
    (∀ w, m.wait = some w → m.life = .waiting → m.parked = false → m.again = false → m.woken = false → m.vq = [] → m.vrun = none → m.deferred = [] → w.bound ≠ 0 →
      w.bound ≤ w.counted →
      (w.kind = .wfi → ∃ t, exec .waitLimitExpiry s = .next t ∧ (∀ i, i ≠ k → t.slot i = s.slot i) ∧ (t.slot k).life = .ready ∧
        (t.slot k).wait = none ∧ (t.slot k).sh = { m.sh with pc := m.sh.pc + 4 }) ∧
      (w.kind = .cwait → s.PlainTrap k → ∃ t, exec .waitLimitExpiry s = .next t ∧ (∀ i, i ≠ k → t.slot i = s.slot i) ∧
        t = { s with slots := t.slots } ∧ TrapsSlot s k (cause 7 0 0) 24 (s.cwctrOf k) m.sh.pc t))

/-- MIGRATION STEPS (R28, R29, R93, R94, R96, R99): packing makes one frame with the state of its shuttle and leaves the slot until it is
acknowledged; a resend only counts; an arriving or delivered frame fills a free slot; a delivery that has failed for good traps at its
sender, and the slot that was kept for it is free again. -/
def Obligations.FramesCarryTheirShuttle : Prop :=
  ∀ (s : State) (k : Nat) (m : Slot), k = s.subjSlot → m = s.slot k →
    (∀ i n, s.eager = false → m.life = .packing → m.pack = some i → s.Settled k → i.reason = 2 → i.slotShid = none → i.named = n → n ≠ 0xFFF →
      (s.freeSlot n).isSome = true → s.isFenced n = false → (∀ q ∈ s.queued, q.named ≠ n) → s.posting k = false → bitOf (s.vfRegs m.vf (k / 16)).trec 0 = false →
      ∃ t f, exec .framePack s = .next t ∧ t.frames = s.frames ++ [f] ∧ f.vf = m.vf ∧ f.src = k ∧ f.dst = n ∧ f.reason = 2 ∧
        f.gen = s.genOf m.vf ∧ f.sh = { m.sh with pc := i.pc, migs := if m.sh.migs = 0xFFFF then 0xFFFF else m.sh.migs + 1 } ∧
        (t.slot k).life = .sent ∧ (∀ j, j ≠ k → t.slot j = s.slot j) ∧ ∀ b, t.byte b = s.byte b) ∧
    (∀ f, s.frames[s.subject.item]? = some f → f.retries < 16 →
      ∃ t, exec .frameCrcRetry s = .next t ∧ t = { s with frames := t.frames } ∧
        t.frames = s.frames.set s.subject.item { f with retries := f.retries + 1 }) ∧
    (∀ f j, s.frames[s.subject.item]? = some f → f.gen = s.genOf f.vf → f.reason ≠ 3 → f.reason ≠ 4 → s.queued = [] → s.NoPins → f.trapOnArrival = none → s.isFenced f.dst = false →
      f.classes.contains (classOf f.dst) = true → s.freeSlot f.dst = some j → s.inPart f.part f.dst = true → s.inColumn f.dst = false →
      (s.slot f.src).life = .sent →
      ∃ t, exec .frameArrival s = .next t ∧ t.frames = s.frames.erase f ∧ Arrives t (f.dst * 16 + j) f ∧ t.slot f.src = {} ∧
        (∀ i, i ≠ f.src → i ≠ f.dst * 16 + j → t.slot i = s.slot i) ∧ (t.core f.dst).l1 = [] ∧ ∀ b, t.byte b = s.byte b) ∧
    (∀ c f rest j, c = s.subject.core → s.queued = f :: rest → s.isFenced c = false → s.freeSlot c = some j → f.part = s.partOfCore c →
      s.running f.vf = true → f.named = c → f.trapOnArrival = none → s.NoPins →
      ∃ t, exec .queuedFrameDelivery s = .next t ∧ t.queued = rest ∧ Arrives t (c * 16 + j) f ∧
        (∀ i, i ≠ c * 16 + j → t.slot i = s.slot i) ∧ ∀ b, t.byte b = s.byte b) ∧
    (∀ f, s.frames[s.subject.item]? = some f → 16 ≤ f.retries → s.isFenced (f.src / 16) = false → (s.slot f.src).life = .sent →
      f.sh.mode ≠ .m → bitOf (s.vfRegs (s.slot f.src).vf (f.src / 16)).trec 0 = false →
      ∃ t, exec .frameDeliveryFailed s = .next t ∧ t.frames = s.frames.erase f ∧ (t.slot f.src).life = .ready ∧
        (t.slot f.src).sh = handled f.sh ((s.vfRegs (s.slot f.src).vf (f.src / 16)).stvec &&& ~~~3) (cause 1 7 3) 24
          (BitVec.ofNat 64 f.dst) f.sh.pc ∧
        ∀ i, i ≠ f.src → t.slot i = if s.heldFor f = some i then {} else s.slot i)

/-- MIX SAMPLES AND STARTS (R31, R70, R96, R311): at the end of a window every sample is judged and cleared; an ordered mix migration packs with
reason 3; a start entry, or an offer that meets a free slot for which no frame is on its way (log entry 90), takes it. -/
def Obligations.MixWindowsAndStarts : Prop :=
  ∀ (s : State) (k : Nat) (m : Slot), k = s.subjSlot → m = s.slot k →
    (s.cycle.toNat % 4096 = 0 → (∀ j, bitOf (s.slot j).sh.tsw 1 = false) →
      ∃ t, exec .mixWindowEnd s = .next t ∧ (∀ b, t.byte b = s.byte b) ∧
        ∀ j, ∃ low, t.slot j = { s.slot j with
            sh := { (s.slot j).sh with mix := { issued := 0, vector := 0, low := low, traps := 0 } } } ∧
          (8 ≤ (s.slot j).sh.mix.traps.toNat → low = 0) ∧
          ((s.slot j).sh.mix.traps.toNat < 8 →
            ((s.slot j).sh.mix.issued.toNat < 256 → low = (s.slot j).sh.mix.low) ∧
            (256 ≤ (s.slot j).sh.mix.issued.toNat →
              (4 * (s.slot j).sh.mix.vector.toNat < (s.slot j).sh.mix.issued.toNat → low.toNat = min ((s.slot j).sh.mix.low.toNat + 1) 4) ∧
              ((s.slot j).sh.mix.issued.toNat ≤ 4 * (s.slot j).sh.mix.vector.toNat → low = 0)))) ∧
    (∀ r, m.mixOrder = some r → m.life = .ready → m.parked = false → m.half = false → m.refused = [] → m.heldTrap = none → m.doneValue = none →
      s.interruptSlot (k / 16) ≠ some k → m.vq = [] → m.vrun = none → s.eager = false →
      ∃ t, exec .mixMigration s = .next t ∧ (∀ j, j ≠ k → t.slot j = s.slot j) ∧ (t.slot k).life = .packing ∧ (t.slot k).mixOrder = none ∧
        (t.slot k).pack = some { reason := 3, named := r / 16, pc := m.sh.pc, slotShid := some r, jumped := m.jumped } ∧ (t.slot k).sh = m.sh) ∧
    (∀ c e j, c = s.subject.core → s.starts = [e] → e.core = c → s.isFenced c = false → s.freeSlot c = some j → s.running e.vf = true →
      s.queued = [] → s.NoPins → bitsOf e.control 14 4 = 0 →
      ∃ t, exec .startEntryServed s = .next t ∧ t.starts = [] ∧ Started t (c * 16 + j) e ∧
        (∀ i, i ≠ c * 16 + j → t.slot i = s.slot i) ∧ ∀ b, t.byte b = s.byte b) ∧
    (∀ o rest q rd j, s.offers = o :: rest → s.subject.item = 0 → o.issuer = some (q, rd) → s.isFenced o.core = false → s.queued = [] →
      s.starts = [] → (s.subject.flag = true ∨ ∀ f ∈ s.frames, f.dst ≠ o.core) → s.NoPins → s.freeSlot o.core = some j → bitsOf o.control 14 4 = 0 → q ≠ o.core * 16 + j →
      ∃ t, exec .startOffer s = .next t ∧ t.offers = rest ∧ Started t (o.core * 16 + j) o ∧ (t.slot q).life = .ready ∧
        (t.slot q).doneValue = some (BitVec.ofNat 64 (o.core * 65536)) ∧
        ∀ i, i ≠ q → i ≠ o.core * 16 + j → t.slot i = s.slot i)

/-- STEPS OF THE COMMAND UNIT (R182, R184, R185, R188, R192, R195, R198, R200, R250): what each makes of the queues, slots, accumulators and
status of its core, and that the TL of a completed command's issuer falls by one. That the TL of a command that fails parity falls too is
the model's choice (log entry 25, DEDUCED). -/
def Obligations.CommandUnitSteps : Prop :=
  ∀ (s : State) (c : Nat) (x : CoreCtx) (k : QkCmd) (rest : List QkCmd), c = s.subject.core → x = (s.core c).ctx → s.eager = true →
    (x.qk = k :: rest → (∀ y ∈ rest, y.op ≠ 6) →
      (k.op = 0 → (x.slotCfg k.tag).armed = false →
        ∃ t, exec .arm s = .next t ∧ (t.core c).ctx.qk = rest ∧ (t.core c).ctx.slotCfg k.tag = { x.slotCfg k.tag with
            armed := true, e := 0, rows := k.operand.toNat, remaining := k.operand.toNat * (x.slotCfg k.tag).kch, issuer := k.issuer
            order := x.armOrder, id := k.id, word := k.word } ∧
          (∀ g, g ≠ k.tag → (t.core c).ctx.slotCfg g = x.slotCfg g) ∧ (t.core c).ctx.acc = x.acc ∧ ∀ b, t.byte b = s.byte b) ∧
      (k.op = 1 → x.overlapsArmed (bitsOf k.operand 8 0) (bitsOf k.operand 25 16) = false →
        ∃ t, exec .zero s = .next t ∧ (t.core c).ctx.qk = rest ∧ (t.slot k.issuer).tl = (s.slot k.issuer).tl - 1 ∧
          (∀ r n, n < 64 → SMap.get 0 (t.core c).ctx.acc (64 * r + n) =
            if bitsOf k.operand 8 0 ≤ r ∧ r < bitsOf k.operand 8 0 + bitsOf k.operand 25 16 then 0 else SMap.get 0 x.acc (64 * r + n)) ∧
          ∀ b, t.byte b = s.byte b) ∧
      (∀ n, k.op = 2 → k.taken = false → k.progress = 0 → (x.slotCfg k.tag).armed = false → n = bitsOf k.operand 25 16 → 0 < n →
        x.qd.length + n ≤ 32 →
        ∃ t ys, exec .drain s = .next t ∧ (t.core c).ctx.qk = rest ∧ (t.slot k.issuer).tl = (s.slot k.issuer).tl - 1 ∧
          (t.core c).ctx.qd = x.qd ++ ys ∧ ys.length = n ∧
          ((x.slotCfg k.tag).dfmt = 0 → ∀ i y, ys[i]? = some y → y.w = 32 ∧ y.vals = (List.range 64).map fun j =>
            SMap.get 0 x.acc (64 * ((x.slotCfg k.tag).abase + bitsOf k.operand 8 0 + i) + j))) ∧
      (k.op = 2 → k.taken = true → k.progress + 1 < bitsOf k.operand 25 16 → x.qd.length < 32 →
        ∃ t y, exec .drainRow s = .next t ∧ (t.core c).ctx.qk = { k with progress := k.progress + 1 } :: rest ∧
          (t.core c).ctx.qd = x.qd ++ [y] ∧ t.slots = s.slots ∧
          ((x.slotCfg k.tag).dfmt = 0 → y.vals = (List.range 64).map fun j =>
            SMap.get 0 x.acc (64 * ((x.slotCfg k.tag).abase + bitsOf k.operand 8 0 + k.progress) + j))) ∧
      (∀ sec b y, k.op = 3 → x.anyArmed = false → (s.core c).sbuf = [] → b = bitsOf k.operand 5 0 → sec = barrierSection c b →
        (s.part (s.partOfCore c)).hasSection sec = true → y = (s.sec sec).barrier (b % 32) → y.arriveCause = none →
        ∃ t, exec .bar s = .next t ∧ (t.core c).ctx.qk = rest ∧ (t.slot k.issuer).tl = (s.slot k.issuer).tl - 1 ∧
          (t.sec sec).barrier (b % 32) =
            if y.cnt + 1 = y.tgt ∧ y.pend = 0 then { y with cnt := 0, ph := !y.ph } else { y with cnt := y.cnt + 1 }) ∧
      (k.op < 4 → ∃ t, exec .qkParityError s = .next t ∧ (t.core c).ctx.qk = rest ∧ (t.core c).ctx.mstat = { x.mstat with qkp := true } ∧
        (t.slot k.issuer).tl = (s.slot k.issuer).tl - 1 ∧ (t.core c).ctx.acc = x.acc ∧ ∀ b, t.byte b = s.byte b)) ∧
    (∀ i l, x.tlDone = i :: l → ∃ t, exec .tlDecrement s = .next t ∧ (t.slot i).tl = (s.slot i).tl - 1 ∧ (t.core c).ctx.tlDone = l ∧
      ∀ j, j ≠ i → t.slot j = s.slot j) ∧
    (∀ p l y, s.pushes = p :: l → p.targets = [c] → s.isFenced c = false →
      (p.qa = some y → p.qk = none → ∃ t, exec .qaEntryArrival s = .next t ∧ t.pushes = l ∧
        (t.core c).ctx = { x with qa := x.qa ++ [y] } ∧ (∀ d, d ≠ c → t.core d = s.core d) ∧ t.slots = s.slots) ∧
      (p.qa = none → p.qk = some k → ∃ t, exec .qkCommandArrival s = .next t ∧ t.pushes = l ∧
        (t.core c).ctx = { x with qk := x.qk ++ [k] } ∧ (∀ d, d ≠ c → t.core d = s.core d) ∧ t.slots = s.slots))

/-- THE ARRAY AND TRANSFERS (R189 to R191, R197): the head entry of QA for an armed slot updates the 64 accumulator elements of its row with the
chunk of B that the slot calls for, and no others; a transfer whose rows have all moved, and whose stores are performed (R233), readies its
shuttle with TL one less. -/
def Obligations.ArrayConsumesEntries : Prop :=
  ∀ (s : State) (c : Nat) (x : CoreCtx), c = s.subject.core → x = (s.core c).ctx → s.eager = true →
    (∀ e rest g h row, x.qa = e :: rest → g = x.slotCfg e.tag → g.configured = true → g.armed = true →
      (∀ t < 8, (x.slotCfg t).armed = true → (x.slotCfg t).scratchSource = false) → 1 < g.remaining → 0 < g.rows → x.accPoison = [] →
      (s.core c).bpoison = [] → h = (s.core c).readChunk e.tag (g.e / g.rows) g → (s.core c).chunk = none → row = g.abase + g.e % g.rows →
      ∃ t, exec .qaConsume s = .next t ∧ (t.core c).ctx.qa = rest ∧ (t.core c).chunk = some h ∧
        (t.core c).ctx.slotCfg e.tag = { g with e := g.e + 1, remaining := g.remaining - 1 } ∧
        (∀ n < 64, SMap.get 0 (t.core c).ctx.acc (64 * row + n) =
          (columnUpdate g.pair e.val.toNat
            ((SMap.get 0 h.rows (2 * n) : BitVec 512).toNat + (SMap.get 0 h.rows (2 * n + 1) : BitVec 512).toNat * 2 ^ 512)
            e.scl (SMap.get 0 h.scales n) (SMap.get 0 x.acc (64 * row + n))).1) ∧
        (∀ j, j / 64 ≠ row → SMap.get 0 (t.core c).ctx.acc j = SMap.get 0 x.acc j) ∧ t.slots = s.slots ∧ ∀ b, t.byte b = s.byte b) ∧
    (∀ k rest u r, x.qk = k :: rest → (∀ y ∈ rest, y.op ≠ 6) → (k.op = 4 ∨ k.op = 5) → k.taken = true → k.progress = 0 →
      (s.updHead c fun k => { k with taken := true }).mcpyRows { vf := (s.slot k.issuer).vf, core := c, mode := (s.slot k.issuer).sh.mode, agent := 2 } c k (bitsOf k.operand 25 16) 0 =
        .ok u () → r = u.releaseSlot k.issuer →
      ∃ t, exec .mcpy s = .next t ∧ (t.slot k.issuer).life = .ready ∧ (t.slot k.issuer).doneValue = some 0 ∧
        (t.slot k.issuer).tl = (r.slot k.issuer).tl - 1 ∧ (t.core c).ctx.acc = (r.core c).ctx.acc ∧ ∀ b, t.byte b = r.byte b)

/-- STEPS OF HOMES, CACHES AND WALKERS (R206, R212, R214, R215, R217, R225, R287, R291, R299): a store that registers writes its bytes, and no
others, and its core owns the words, where it did not own them all; an eviction, of a line or a word, that the selvedge lets through gives
them up and keeps the bytes; a fill leaves a copy of the bytes; a wake readies its watcher; no vector atomic under way holds a word. -/
def Obligations.HomesAndCachesStep : Prop :=
  ∀ (s : State) (c v : Nat), c = s.subject.core →
    (∀ e, (s.core c).sbuf = [e] → e.pol = 0 → e.vseq = 0 → v = (s.slot e.shid).vf → s.storeRefusal v e.block e.ma e.agent e.mask = none →
      s.routeCause v c e.slice e.block e.agent e.mask = none → (s.slot e.shid).refused = [] → s.ownsAll c v (wordsOf e.block e.mask) = false →
      s.KeyFits e.ma e.kidx → s.watches = [] → s.NoPins →
      ∀ i ∈ [Instr.register, .registrationGrant], (i = .register → s.subject.item = 0) →
        (i = .registrationGrant → e.touches (s.subject.addr / 8) (halfOf (s.subject.addr / 4)) = true) →
        ∃ t, exec i s = .next t ∧ (t.core c).sbuf = [] ∧
          (∀ j, (∀ w ∈ (s.slot j).wait, w.kind ≠ .storeBuffer) → t.slot j = s.slot j) ∧
          (∀ b, t.byte b = if e.ma ≤ b ∧ b < e.ma + 8 ∧ e.mask.getLsbD (b - e.ma) = true then byteAt e.data (b - e.ma) else s.byte b) ∧
          ∀ wd ∈ wordsOf e.block e.mask, t.homeState v wd = .registered c (e.ma + 4 * (wd % 2)) e.kidx) ∧
    (v = (s.core c).ctx.vf → s.subject.flag = false → s.passes v c (s.lineSlice c v (s.subject.addr / 512)) = true → s.NoPins →
      ∃ t, exec .evict s = .next t ∧ (∀ b, t.byte b = s.byte b) ∧ t.slots = s.slots ∧
        ∀ wd < 2 ^ 56,
          (wd / 128 = s.subject.addr / 512 ∧ (s.subject.size = 0 ∨ wd = s.subject.addr / 4) →
            (t.homeState v wd).owner ≠ some c ∧ SMap.get none (t.core c).l1 wd = none) ∧
          (¬ (wd / 128 = s.subject.addr / 512 ∧ (s.subject.size = 0 ∨ wd = s.subject.addr / 4)) → t.homeState v wd = s.homeState v wd ∧
            SMap.get none (t.core c).l1 wd = SMap.get none (s.core c).l1 wd)) ∧
    (∀ a e lv at_ ma r, v = (s.core c).ctx.vf → a = s.subject.addr / 4 * 4 →
      s.quiet c a (if s.subject.flag then .fetch else .load) = some (e, lv, at_, ma, r) → ptePol e = 0 → s.KeyFits ma r.kidx →
      (s.homeState v (a / 4)).owner ≠ some c → s.isLost v (a / 4) = false → s.poisoned ma = false → s.poisoned (ma / 8 * 8) = false →
      ∃ t, exec .fill s = .next t ∧ t.slots = s.slots ∧ (∀ b, t.byte b = s.byte b) ∧ (∀ d, d ≠ c → t.core d = s.core d) ∧
        (s.subject.flag = true → SMap.get none (t.core c).icache (a / 4) = some (s.read32 ma)) ∧
        (s.subject.flag = false → SMap.get none (t.core c).l1 (a / 4) = some (s.read32 (ma / 8 * 8 + 4 * (a / 4 % 2))))) ∧
    (∀ a e lv at_ ma r g b, v = (s.core c).ctx.vf → a = s.subject.addr / 8 * 8 → s.quiet c a .load = some (e, lv, at_, ma, r) →
      ptePol e = 0 → s.KeyFits ma r.kidx → g = grainBytes e → b = ma / g * g + a % g / 8 * 8 → s.poisoned b = false →
      ∃ t, exec .homeRead s = .next t ∧ t.slots = s.slots ∧ (∀ x, t.byte x = s.byte x) ∧ (∀ v wd, t.homeState v wd = s.homeState v wd) ∧
        ∀ j < 2, (s.homeState v (a / 4 + j)).owner ≠ some c → s.isLost v (a / 4 + j) = false →
          SMap.get none (t.core c).l1 (a / 4 + j) = some (s.read32 (b + 4 * j))) ∧
    (∀ e, v = (s.core c).ctx.vf → classOf c = .control → s.plbWalk v (s.subject.addr / 2 ^ 26) = some e →
      (s.quietBy c s.subject.addr s.subject.access (some e)).isSome = true →
      (∀ p ∈ (s.core c).plb, p.vf ≠ v ∨ p.region ≠ s.subject.addr / 2 ^ 26) →
      ∃ t, exec .plbFill s = .next t ∧ OnlyCore s c (fun k => { k with plb := (e :: k.plb).take 64 }) t) ∧
    (∀ e lv at_ ma r, v = (s.core c).ctx.vf → s.quiet c s.subject.addr s.subject.access = some (e, lv, at_, ma, r) →
      ∃ t l, exec .atbFill s = .next t ∧ OnlyCore s c (fun k => { k with atb := ({ vf := v, page := s.subject.addr / 65536, leaf := e, leafAt := at_, level := lv, xwr := r.rights, kidx := r.kidx } : AtbEntry) :: l }) t ∧ l.length < 128) ∧
    (∀ w k, s.watches[s.subject.item]? = some w → w.fired = true → w.who = .slot k → (s.slot k).life = .waiting → s.passes w.vf w.slice (k / 16) = true → s.eager = true →
      (∀ x ∈ s.watches, x.fired = true → x.slice = w.slice → x.who = w.who → x = w ∨ w.sent < x.sent) →
      ∃ t, exec .watchWake s = .next t ∧ t.watches = s.watches.erase w ∧ (t.slot k).life = .ready ∧ (∀ j, j ≠ k → t.slot j = s.slot j) ∧
        ∀ b, t.byte b = s.byte b)

/-- STEPS OF SCRATCHPADS, RINGS AND COPY CHANNELS (R75, R247, R249, R255 to R259): an applied post moves its channel; resends, polls and
timeouts ready their shuttle; a delivered block of a copy of 8 bytes between windows is at its destination, holding what the source reads at
its delivery, which is the model's choice (log entry 66, DEDUCED); a finished or faulting operation leaves, with CP one less. -/
def Obligations.RingsPollsAndCopiesStep : Prop :=
  ∀ (s : State) (k sec ch : Nat), k = s.subjectSlot → sec = s.subject.section_ → ch = s.subject.chan →
    (∀ r p l, r = (s.sec sec).ringCh (ch % 4) → r.posts = p :: l → bitOf p.2 63 = false → r.w = 0 → p.2.toNat ≤ r.c →
      s.subject.item = 0 → (∀ x ∈ r.last, x.1 = s.arith → x.2 ≤ p.1 / 16) →
      ∃ t, exec .ringPostApply s = .next t ∧
        (t.sec sec).ringCh (ch % 4) = { c := if p.2.toNat = r.c then r.c + 1 else r.c, w := 0, posts := l, last := some (s.arith, p.1 / 16) } ∧ ∀ b, t.byte b = s.byte b) ∧
    (∀ w, (s.slot k).wait = some w → (s.slot k).life = .waiting → s.eager = true →
      (∀ a, w.kind = .fullEmpty a false → ∃ t, exec .feRequestResend s = .next t ∧
        OnlySlotAt s k (fun m => m.wake (s.coreCycle (k / 16))) t) ∧
      (∀ n u, w.kind = .vwait n u → (∃ t, exec .vwaitPoll s = .next t ∧ OnlySlotAt s k (fun m => m.wake (s.coreCycle (k / 16))) t) ∧
        (2 ^ (10 + 2 * n) ≤ w.counted → (s.slot k).parked = false → (s.slot k).again = false →
          ∃ t, exec .vwaitTimeout s = .next t ∧ OnlySlotAt s k (fun m => m.wake (s.coreCycle (k / 16))) t))) ∧
    (∀ c, s.copyHead sec ch = some c → c.failed = none →
      (∀ src dst, c.form = .lin → c.delivered = 0 → c.bytes = 8 → c.bar = none → src = (c.desc.getD 0 0).toNat → dst = (c.desc.getD 1 0).toNat →
        src % 8 = 0 → dst % 8 = 0 → isWindow src = true → isWindow dst = true → s.windowTest (s.partOfVf (c.who s sec ch).vf) (c.issuer / 16) 4 src = none →
        s.windowTest (s.partOfVf (c.who s sec ch).vf) (c.issuer / 16) 4 dst = none →
        (∀ e ∈ (s.core (c.issuer / 16)).sbuf, e.shid ≠ 65536) →
        SMap.get false (s.core (windowCore src)).ctx.spoison (windowOff src / 8) = false →
        ∃ t, exec .copyBlockDelivered s = .next t ∧ t.slots = s.slots ∧ (∀ b, t.byte b = s.byte b) ∧
          (∀ j < 8, t.scratchByte (windowCore dst) (windowOff dst + j) = s.scratchByte (windowCore src) (windowOff src + j)) ∧
          (∀ d o, (d ≠ windowCore dst ∨ o < windowOff dst ∨ windowOff dst + 8 ≤ o) → t.scratchByte d o = s.scratchByte d o) ∧
          t.copyHead sec ch = some { c with delivered := 8, counted := c.counted + 8, waits := none }) ∧
      (c.units ≤ c.delivered → ∃ t, exec .copyComplete s = .next t ∧ ((t.sec sec).chan ch).ops = ((s.sec sec).chan ch).ops.tail ∧
        ((t.sec sec).chan ch).seq = ((s.sec sec).chan ch).seq + 1 ∧ (t.slot c.issuer).cp = (s.slot c.issuer).cp - 1 ∧
        ∀ b, t.byte b = s.byte b) ∧
      (∀ src cs, c.form = .lin → c.delivered = 0 → 0 < c.bytes → src = (c.desc.getD 0 0).toNat → isWindow src = true →
        s.windowTest (s.partOfVf (s.slot c.issuer).vf) (c.issuer / 16) 4 src = some cs → (s.slot c.issuer).life ≠ .free →
        ∃ t, exec .copyFault s = .next t ∧ ((t.sec sec).chan ch).ops = ((s.sec sec).chan ch).ops.tail ∧
          (t.slot c.issuer).cp = (s.slot c.issuer).cp - 1 ∧
          (t.slot c.issuer).deferred = (s.slot c.issuer).deferred ++
            [{ cause := cause 8 4 4, under := cs, tval := c.desc.getD 0 0, queue := 8 * (sec % 2) + ch, order := c.order }] ∧
          ∀ b, t.byte b = s.byte b))

/-- THE HOST'S REGISTERS (R8, R302, R305, R341 to R344, R347): a register write whose source the VF accepts sets its register, and no others;
KICK exposes records, or laps the queue; RING is taken only while the queue is Stopped; a write from another source changes nothing. -/
def Obligations.HostWritesSetTheirRegisters : Prop :=
  ∀ (s : State) (v q : Nat) (h : HostQueue) (w : BitVec 32), v = s.subject.vf → q = s.subject.queue % 16 → h = (s.vf v).queue q →
    w = s.subject.value.truncate 32 →
    (s.hostAccepts v = false → ∀ i ∈ [Instr.kick, .ring, .wbase], exec i s = .next s) ∧
    (s.hostAccepts v = true →
      (h.state ≠ .lapped → (w - s.readIndex v q).toNat ≤ 2 ^ h.z →
        ∃ t, exec .kick s = .next t ∧ OnlyQueue s v q (fun g => { g with kick := w, widx := if 1 ≤ (w - g.widx).toNat ∧
          (w - g.widx).toNat ≤ 2 ^ g.z then w else g.widx }) t) ∧
      (h.state ≠ .lapped → 2 ^ h.z < (w - s.readIndex v q).toNat →
        ∃ t, exec .kick s = .next t ∧ (∀ b, t.byte b = s.byte b) ∧ (∃ e ∈ (t.vf v).ext, e.cause = cause 0xE 3 0 ∧ e.queue = q) ∧
          (t.vf v).queue q = { h with kick := w, state := .lapped, cause := cause 0xE 3 0, stopAt := none }) ∧
      (∃ t, exec .ring s = .next t ∧ OnlyQueue s v q (fun g =>
        if g.state = .stopped ∧ 6 ≤ s.subject.value.toNat % 32 ∧ s.subject.value.toNat % 32 ≤ 16 then
          { g with ring := s.subject.value &&& 0x00FFFFFFFFFFF01F }
        else g) t) ∧
      (∃ t, exec .wbase s = .next t ∧ OnlyVf s v (fun f => { f with wbase := s.subject.value &&& 0x00FFFFFC00000001 }) t)) ∧
    (∀ u off, s.subject.reg = .vfBar0 u off → s.hostAccepts u = true → 0x3000 ≤ off → off < 0x3110 →
      ∃ t, exec .registerWrite s = .next t ∧
        OnlyVf s u (fun f => { f with msix := SMap.put 0 f.msix ((off - 0x3000) / 8) s.subject.value }) t) ∧
    (∀ i < 8, s.subject.reg = .pfBar0 (0x10000 + 8 * i) →
      ∃ t, exec .registerWrite s = .next t ∧ t = { s with mailbox := { s.mailbox with req := t.mailbox.req } } ∧
        ∀ j, SMap.get 0 t.mailbox.req j = if j = i then s.subject.value else SMap.get 0 s.mailbox.req j) ∧
    (s.subject.reg = .pfBar0 0x10040 → s.mailbox.busy = false → s.mailbox.done = false →
      ∃ t r, exec .registerWrite s = .next t ∧ t = { s with mailbox := { s.mailbox with busy := true }, requests := s.requests ++ [r] } ∧
        r.slot = none ∧ r.number.toNat = (SMap.get 0 s.mailbox.req 0 : Word).toNat % 256 ∧
        r.vf = (SMap.get 0 s.mailbox.req 0 : Word).toNat / 65536 % 256 ∧
        r.args = (List.range 5).map fun i => (SMap.get 0 s.mailbox.req (i + 1) : Word)) ∧
    (∀ k, s.subject.reg = .selvedge k → ∃ t, exec .registerWrite s = .next t ∧ t = { s with selvedge := t.selvedge } ∧
      ∀ j, SMap.get 0 t.selvedge j = if j = k ∧ k < 32 then s.subject.value.truncate 32 &&& 0xFF7F else SMap.get 0 s.selvedge j) ∧
    (∀ d, s.subject.reg = .trr d →
      (8 ≤ d → exec .registerWrite s = .next s) ∧
      (d < 8 → ∃ t, exec .registerWrite s = .next t ∧
        t = { s with dies := t.dies, cores := t.cores, sections := t.sections, vfs := t.vfs } ∧
        (∀ e, t.die e = if e = d then { s.die d with trr := s.subject.value &&& 0x000FFFFFFFFFE001 } else s.die e) ∧
        (∀ c, t.core c = { s.core c with atb := [] }) ∧ t.sections = channelsCleared s.sections ∧
        ∀ w, t.vf w = { s.vf w with
          collAtb := [], saved := { (s.vf w).saved with sections := channelsCleared (s.vf w).saved.sections } }))

/-- BAR 2, SPDM AND TDISP (R343, R344, R350, R393): an access through BAR 2 to a scratchpad window reads or writes the bytes there, or in the
saved context of a VF that is switched out; one that is not accepted, or with WBASE disabled, reads as all ones; SPDM leaves its reply;
TDISP moves the interface; a reset takes all that the VF had. That a reset also clears the registers, pending events and timer of the VF is
the model's choice (log entry 47, DEDUCED). Accesses through BAR 2 to pages are left out. -/
def Obligations.HostRequestsActOnTheVf : Prop :=
  ∀ (s : State) (v : Nat), v = s.subject.vf →
    (∀ a, a = bitsOf (s.vf v).wbase 55 34 * 2 ^ 34 + s.subject.addr % 2 ^ 34 → s.hostAccepts v = true → bitOf (s.vf v).wbase 0 = true →
      isWindow a = true → isReservedVa a = false → (∀ x, s.windowCause (s.hostWho v) x a = none) → a % 8 + s.subject.size ≤ 8 →
      (s.subject.access = .load → SMap.get false (s.windowCtx (s.hostWho v) (windowCore a)).spoison (windowOff a / 8) = false →
        s.BufferOfSlots (s.dieCore v (s.leadDie (s.partOfVf v))) → (∀ e ∈ (s.vf v).logRanges, ¬(e.2.base ≤ a ∧ a < e.2.limit)) →
        ∃ t, exec .bar2Access s = .next t ∧ t = { s with subject := { s.subject with value := t.subject.value }, vfs := t.vfs } ∧
          (∀ w, t.vf w = if w = v then { s.vf v with hostWaits := (s.vf v).hostWaits.erase a } else s.vf w) ∧
          ∀ i < 8, byteAt t.subject.value i = if i < s.subject.size then s.hostByte v (windowCore a) (windowOff a + i) else 0) ∧
      (s.subject.access = .store →
        ∃ t, exec .bar2Access s = .next t ∧ t.slots = s.slots ∧ (∀ b, t.byte b = s.byte b) ∧
          ∀ c o, t.hostByte v c o = if c = windowCore a ∧ windowOff a ≤ o ∧ o < windowOff a + s.subject.size then
            byteAt s.subject.value (o - windowOff a) else s.hostByte v c o)) ∧
    (s.hostAccepts v = false ∨ bitOf (s.vf v).wbase 0 = false → s.subject.access = .load →
      exec .bar2Access s = .next { s with subject := { s.subject with value := BitVec.allOnes 64 } }) ∧
    (s.securityDown.contains 0 = false ∨ s.securityDown.contains 7 = false →
      ∃ t, exec .spdmRequest s = .next t ∧ t = { s with doe := Config.spdmReply (s.measured v) s.subject.bytes }) ∧
    ((s.vf v).tdi = .unlocked → ∃ t, exec .lockInterfaceRequest s = .next t ∧ OnlyVf s v (fun f => { f with tdi := .locked }) t) ∧
    ((s.vf v).tdi = .locked → ∃ t, exec .startInterfaceRequest s = .next t ∧ OnlyVf s v (fun f => { f with tdi := .run }) t) ∧
    (∃ t, exec .stopInterface s = .next t ∧ WasReset s v t ∧ (t.vf v).tdi = .unlocked) ∧
    ((s.vf v).resetAt = none → s.subject.flag = false → ∃ t, exec .vfReset s = .next t ∧ WasReset s v t ∧ (t.vf v).tdi = (s.vf v).tdi) ∧
    ((s.vf v).resetAt = none → s.subject.flag = true → s.subject.size ≤ 1000 → s.running v = false →
      ∃ t, exec .vfReset s = .next t ∧ OnlyVf s v (fun f => { f with resetAt := some (s.cycle.toNat + 850 * s.subject.size) }) t)

/-- DIE SCHEDULERS (R302 to R319): a die that reads a good record acts on it and consumes it: START starts its shuttle on the core that the
record places it on, if the die owns that core; SKEIN takes the tasks that the die owns; WAIT goes on once the word meets its condition and
else waits; SIGNAL writes its word once every die has come so far; FENCE holds the die until then. A task starts when its counter is at or
below zero, once its gate has passed; a parked queue is armed again when the page is there; a waiting queue looks at its word again. -/
def Obligations.DiesConsumeTheirRecords : Prop :=
  (
    ∀ (s u : State) (v q d k : Nat) (r : List Word), v = s.subject.vf → q = s.subject.queue → d = s.subject.die →
      (s.dieHeld v q d = true → q < 16 → ∀ i ∈ [Instr.signal, .fenceRecord], exec i s = .next s) ∧ (s.RecordRead u v q d k r →
      (recKind r = 5 → u.allThrough v q (((u.vf v).queue q).at_ d) = true →
        ∃ t, exec .fenceRecord s = .next t ∧ OnlyQueue (u.turned v q d) v q (consumedBy d) t) ∧
      (recKind r = 4 → u.leadDie (u.partOfVf v) ≠ d → ∃ t, exec .signal s = .next t ∧ OnlyQueue (u.turned v q d) v q (consumedBy d) t) ∧
      (∀ a, recKind r = 4 → u.leadDie (u.partOfVf v) = d → u.allThrough v q (((u.vf v).queue q).at_ d) = true → a = (r.getD 1 0).toNat →
        isWindow a = true → isReservedVa a = false → u.windowTest (u.partOfVf v) (u.dieCore v d) 3 a = none →
        bitOf (r.getD 0 0) 8 = false →
        ∃ t, exec .signal s = .next t ∧ t.slots = u.slots ∧ (t.vf v).queue q = consumedBy d ((u.vf v).queue q) ∧
          (bitOf (r.getD 0 0) 9 = true → q < 17 → (t.vf v).msixPending.getLsbD q = true) ∧ (∀ b, t.byte b = u.byte b) ∧
          ∀ c o, t.scratchByte c o = if c = windowCore a ∧ windowOff a ≤ o ∧ o < windowOff a + 8 then
            byteAt (r.getD 2 0) (o - windowOff a) else u.scratchByte c o) ∧
      (∀ a x, recKind r = 3 → a = (r.getD 1 0).toNat → isWindow a = true → isReservedVa a = false →
        u.windowTest (u.partOfVf v) (u.dieCore v d) 3 a = none → u.BufferOfSlots (u.dieCore v d) →
        SMap.get false (u.core (windowCore a)).ctx.spoison (windowOff a / 8) = false → u.locate v d a = none →
        x = BitVec.ofNat 64 (littleEndian (fun j => u.scratchByte (windowCore a) (windowOff a + j)) 8) &&& r.getD 3 0 →
        ∃ t, exec .wait s = .next t ∧ t.slots = u.slots ∧ (∀ b, t.byte b = u.byte b) ∧
          (t.vf v).queue q =
            if (if bitOf (r.getD 0 0) 8 = true then (r.getD 2 0).toNat ≤ x.toNat else x = r.getD 2 0) then consumedBy d ((u.vf v).queue q)
            else ((u.vf v).queue q).setDie d .waiting) ∧
      (∀ c j e, recKind r = 2 → u.startTarget (u.partOfVf v) r k = some c → u.ownerDie (u.partOfVf v) c = d → bitsOf (r.getD 5 0) 8 0 = 0 →
        e.vf = v → e.core = c → e.entry = r.getD 1 0 → e.arg0 = r.getD 2 0 → e.arg1 = r.getD 3 0 → e.control = r.getD 4 0 → u.StartFits e j → u.NoPins →
        (∀ a ∈ u.awaits, a.vf ≠ v ∨ a.due = false) →
        ∃ t, exec .start s = .next t ∧ Started t (c * 16 + j) e ∧ (∀ i, i ≠ c * 16 + j → t.slot i = u.slot i) ∧ (∀ b, t.byte b = u.byte b) ∧
          ((t.vf v).queue q).at_ d = ((u.vf v).queue q).at_ d + 1 ∧
          (((u.vf v).queue q).resets * 2 ^ 32 + k, d) ∈ ((t.vf v).queue q).open_) ∧
      (∀ x y table own, recKind r = 1 → u.readTable (u.dieWho v d) (r.getD 1 0).toNat (r.getD 2 0).toNat = .ok x table →
        table.any (x.taskBad v d r) = false → x.ownTasks v d r table 0 = .ok y own → (∀ o ∈ own, o.1 ≠ 0) →
        (∀ a ∈ y.awaits, a.vf ≠ v ∨ a.due = false) →
        ∃ t, exec .skein s = .next t ∧ t.slots = y.slots ∧ (∀ b, t.byte b = y.byte b) ∧
          ((t.vf v).queue q).at_ d = ((y.vf v).queue q).at_ d + 1 ∧
          ((t.vf v).queue q).open_ = ((y.vf v).queue q).open_ ++ own.map (fun _ => (((y.vf v).queue q).resets * 2 ^ 32 + k, d)) ∧
          t.awaits.map (fun a => (a.vf, a.counter, a.start.core, a.start.entry, a.queue, a.index, a.die)) =
            y.awaits.map (fun a => (a.vf, a.counter, a.start.core, a.start.entry, a.queue, a.index, a.die)) ++
              own.map fun o => (v, o.1, o.2.core, o.2.entry, q, k, d)))) ∧
  (
    ∀ (s : State) (v q : Nat) (a : Await) (j : Nat), v = s.subject.vf → q = s.subject.queue →
      (s.awaits = [a] → a.vf = v → s.running v = true → s.StartFits a.start j → s.NoPins → a.start.vf = v →
        (∀ w, a.due = false → a.waits = none → s.BufferOfSlots (s.dieCore v a.die) → s.subject.item = 0 → w = a.counter.toNat → isWindow w = true → isReservedVa w = false →
          s.windowTest (s.partOfVf v) (s.dieCore v a.die) 3 w = none → SMap.get false (s.core (windowCore w)).ctx.spoison (windowOff w / 8) = false →
          w % 8 = 0 → s.locate v a.die w = none →
          (0 < (s.windowWord w 0).toInt → ∃ t, exec .dependenceAwait s = .next t ∧ t.awaits = [a] ∧ t.slots = s.slots) ∧
          ((s.windowWord w 0).toInt ≤ 0 → a.rt = 0 → ∃ t, exec .dependenceAwait s = .next t ∧ t.awaits = [] ∧
            Started t (a.start.core * 16 + j) a.start ∧ (∀ i, i ≠ a.start.core * 16 + j → t.slot i = s.slot i) ∧ ∀ b, t.byte b = s.byte b)) ∧
        (a.due = true → s.fractionReaches v a.rt = true → ∃ t, exec .residencyGatePass s = .next t ∧ t.awaits = [] ∧
          Started t (a.start.core * 16 + j) a.start ∧ (∀ i, i ≠ a.start.core * 16 + j → t.slot i = s.slot i) ∧ ∀ b, t.byte b = s.byte b) ∧
        (a.due = true → a.rt ≠ 0 → s.fractionReaches v a.rt = false → exec .residencyGatePass s = .next s)) ∧
      (∀ (x d : Nat), d = s.subject.die → ((s.vf v).queue q).onDie d = .parked → SMap.get 0 ((s.vf v).queue q).waits d = x → x ≠ 0 →
        s.isResident ((x - 1) / 65536) = true →
        ∃ t, exec .waitQueueRearm s = .next t ∧
          OnlyQueue s v q (fun h => { h.setDie d .running with waits := SMap.put 0 h.waits d 0 }) t) ∧
      (∀ d, d = s.subject.die → ((s.vf v).queue q).onDie d = .waiting →
        ∃ t, exec .signalWordPoll s = .next t ∧ OnlyQueue s v q (fun h => h.setDie d .running) t))

/-- SERVICES FOR SUPERVISOR AND HOST (R85, R219, R288, R290, R305, R347, R348, R369): the timer, information, protection, clearing, queue
control, erratum and routing services do their work on the VF that asks and answer with status 0; an unassigned number answers 5. That an
index reset forgets the open records and drops the gated tasks is the model's choice (log entry 48, DEDUCED). -/
def Obligations.SupervisorServicesAnswer : Prop :=
  ∀ (s s' : State) (r : Request) (rest : List Request) (v : Nat), s' = { s with requests := rest } → v = r.vf →
    (s.Asks 0x01 r rest → r.slot.isSome = true →
      Served .timer s r 0 [] fun u => (u.vf v).deadline = (if r.a 1 = BitVec.allOnes 64 then none else some (r.a 1)) ∧
        (s.running v = true → bitOf (u.core (s.vf v).intCore).ctx.sip 5 = false) ∧ (∀ w, w ≠ v → u.vf w = s.vf w) ∧ ∀ b, u.byte b = s.byte b) ∧
    (s.Asks 0x02 r rest → r.slot.isSome = true →
      Served .vfInformation s r 0
        [ BitVec.ofNat 64 ((s.vf v).feature.toNat * 2 ^ 32 + v * 2 ^ 24 + s.partOfVf v % 32 * 2 ^ 16 + (s.vf v).index * 256),
          (s.part (s.partOfVf v)).gen.zeroExtend 64, (s.vf v).hostFault.zeroExtend 64 ] fun u => u = s') ∧
    (∀ base n region top, s.Asks 0x03 r rest → base = (r.a 1).toNat → n = (r.a 2).toNat → region = base / 2 ^ 26 → base % 2 ^ 26 = 0 →
      region + n ≤ 2 ^ 30 → (r.a 3).toNat < 256 → (r.slot = none → (s.vf v).tdi.bound = false) →
      top = s.read64 (s.protTable v + 8 * (region / 65536)) →
      Served .protection s r 0 [] fun u =>
        (∀ c, ∀ e ∈ (u.core c).plb, ¬(e.vf = v ∧ region ≤ e.region ∧ e.region < region + n)) ∧
          (n = 1 → bitOf top 0 = true → ∀ b, u.byte b =
            if b = bitsOf top 51 16 * 65536 + region % 65536 then (r.a 3).truncate 8 &&& 0x1F else s.byte b)) ∧
    (∀ wd e ma k c m, s.Asks 0x04 r rest → r.slot.isSome = true → wd < 2 ^ 54 → (r.a 1).toNat = 4 * wd → r.a 2 = 4 →
      SMap.wf .unregistered s.home = true → s.homeState v wd = .ownerLost c m → s.locate v 0 (4 * wd) = some (e, ma, k) → s.KeyFits ma k.kidx →
      Served .ownerLostClearing s r 0 [] fun u => u.homeState v wd = .unregistered ∧
        (∀ w j, w ≠ v ∨ j ≠ wd → j < 2 ^ 56 → u.homeState w j = s.homeState w j) ∧
        ∀ b, u.byte b = if ma / 8 * 8 + 4 * (wd % 2) ≤ b ∧ b < ma / 8 * 8 + 4 * (wd % 2) + 4 then 0 else s.byte b) ∧
    (∀ q x, s.Asks 0x05 r rest → q = (r.a 1).toNat → q < 16 → (r.a 2).toNat < 2 ^ 32 → x = (r.a 2).truncate 32 →
      ((∃ d ∈ s.partDies (s.partOfVf v), s.dieBusy v q d = true) → exec .queueControl s = .next s) ∧
      ((∀ d ∈ s.partDies (s.partOfVf v), s.dieBusy v q d = false) → (s.vf v).tdi = .error → Served .queueControl s r 4 [] fun u => u = s') ∧
      ((∀ d ∈ s.partDies (s.partOfVf v), s.dieBusy v q d = false) → (s.vf v).tdi ≠ .error →
        Served .queueControl s r 0 [] fun u => ((u.vf v).queue q).widx = x ∧ ((u.vf v).queue q).kick = x ∧
          ((u.vf v).queue q).state = .running ∧ ((u.vf v).queue q).dies = [] ∧ ((u.vf v).queue q).open_ = [] ∧
          (∀ d ∈ s.partDies (s.partOfVf v), ((u.vf v).queue q).at_ d = x) ∧ (∀ p, p ≠ q → (u.vf v).queue p = (s.vf v).queue p) ∧
          u.awaits = s.awaits.filter (fun a => !(a.vf == v && a.queue == q && s.recordGated a)) ∧ ∀ b, u.byte b = s.byte b)) ∧
    (s.Asks 0x0D r rest → (r.a 1).toNat < 8 → Served .erratumEntry s r 0 [SMap.get 0 s.errata (r.a 1).toNat] fun u => u = s') ∧
    (∀ w c, s.Asks 0x12 r rest → w = (r.a 1).toNat → c = (r.a 2).toNat → w < 256 → (r.slot.isSome = true → w = v) →
      (r.slot = none → (s.vf w).tdi.bound = false) → s.tenantCore (s.partOfVf w) c = true → s.isFenced c = false →
      Served .interruptRouting s r 0 [BitVec.ofNat 64 (s.vf w).intCore] fun u => OnlyVf s' w (fun f => { f with intCoreNext := some c }) u) ∧
    (∀ n, s.Asks n r rest → n = 0 ∨ 0x12 < n → Served .unknownService s r 5 [] fun u => u = s')

/-- SERVICES FOR THE HOST'S PF (R293, R295, R334, R338, R347, R352 to R356, R394, R402, R410): a range entry is installed or removed; a scrub
leaves zero bytes and a receipt, and the receipt of a context is one that the security unit admits; allowance, features, log, page table,
dump, evacuation, import and groups are set as asked. Machine addresses and the form of a scrub descriptor (log entry 44), the refusals of a
scrub (log entry 45) and the log configuration indices 16 and 17 (log entry 46) are the model's choices. -/
def Obligations.PfServicesAnswer : Prop :=
  ∀ (s s' : State) (r : Request) (rest : List Request) (v : Nat), s' = { s with requests := rest } → v = (r.a 1).toNat → r.slot = none →
    (v < 256 → (s.vf v).tdi.bound = false →
      (∀ i e, s.Asks 0x06 r rest → i = (r.a 2).toNat → i < 48 → argBad (r.a 3) 4 = false →
        e = (RangeEntry.mk (s.argWord (r.a 3) 0) (s.argWord (r.a 3) 1) (s.argWord (r.a 3) 2) (s.argWord (r.a 3) 3)).masked →
        (e.valid = false → (SMap.get {} (s.vf v).ranges i : RangeEntry).valid = true →
          Served .rangeInstallAndRemoval s r 0 [] fun u => SMap.get {} (u.vf v).ranges i = {} ∧
            (∀ j, j ≠ i → SMap.get {} (u.vf v).ranges j = SMap.get {} (s.vf v).ranges j) ∧ u.epoch = s.epoch + 1 ∧
            (∀ c, ∀ x ∈ (u.core c).atb, x.vf ≠ v) ∧ ∀ b, u.byte b = s.byte b) ∧
        (e.valid = true → e.formed = true → e.kidx = v ∨ e.kidx = 256 → (SMap.get {} (s.vf v).ranges i : RangeEntry).valid = false →
          (∀ x ∈ (s.vf v).ranges, x.1 ≠ i → x.2.valid = true → e.limit ≤ x.2.base ∨ x.2.limit ≤ e.base) → s.rangeLies e = true →
          ∃ st, Served .rangeInstallAndRemoval s r st [] fun u =>
            (s'.installOk e (r.a 4).toNat = true → st = 0 ∧ SMap.get {} (u.vf v).ranges i = e ∧
              (∀ j, j ≠ i → SMap.get {} (u.vf v).ranges j = SMap.get {} (s.vf v).ranges j) ∧ u.epoch = s.epoch + 1 ∧
              ∀ b, u.byte b = s.byte b) ∧
            (s'.installOk e (r.a 4).toNat = false → st = 1 ∧ u = s'))) ∧
      (∀ w0 w1, s.Asks 0x09 r rest → w0 = r.a 2 → w1 = r.a 3 &&& 0x101FF → bitsOf w1 8 0 ≤ 256 →
        (s.updVf v fun f => { f with tier0Next := some w0 }).allowSum ≤ 0xBC0000 →
        Served .tier s r 0 [0xBC0000] fun u => OnlyVf s' v (fun f =>
          { f with tier0 := BitVec.ofNat 64 (f.tier0.toNat / 2 ^ 32 * 2 ^ 32 + w0.toNat % 2 ^ 32), tier0Next := some w0, tier1 := w1 }) u) ∧
      (s.Asks 0x0A r rest →
        Served .vfConfiguration s r 0 [] fun u => OnlyVf s' v (fun f => { f with featureNext := some ((r.a 2).truncate 32 &&& 0xFF) }) u) ∧
      (∀ g n ranks, s.Asks 0x11 r rest → g = (r.a 2).toNat → n = (r.a 4).toNat → g < 64 → 2 ≤ n → n ≤ 1024 → argBad (r.a 3) (2 * n) = false →
        ranks = ((List.range n).map fun i =>
          ((s.argWord (r.a 3) (2 * i)).toNat % 2 ^ 48, (s.argWord (r.a 3) (2 * i + 1)).toNat % 256)) →
        (∀ e ∈ (s.vf v).coll, e.2.held = false) →
        ∃ st, Served .collectiveGroup s r st [] fun u =>
          (ranks.count (Config.fabricAddress, v) = 1 → st = 0 ∧ ((u.vf v).group g).ranks = ranks ∧
            ranks[((u.vf v).group g).own]? = some (Config.fabricAddress, v) ∧ SMap.get 0 (u.vf v).collPosts g = 0) ∧
          (ranks.count (Config.fabricAddress, v) ≠ 1 → st = 2 ∧ u = s'))) ∧
    (∀ d, s.Asks 0x07 r rest → d = r.a 2 → argBad d 33 = false →
      (r.a 1 = 1 → s.subject.flag = false → 1 ≤ (s.argWord d 0).toNat → (s.argWord d 0).toNat ≤ 16 →
        (∀ e ∈ s.scrubRanges d, e.1 % 65536 = 0 ∧ e.2 % 65536 = 0 ∧ s.framesExist e.1 e.2 = true ∧
          ∀ w ∈ s.vfs, ∀ x ∈ w.2.ranges, x.2.valid = true → x.2.mbase + (x.2.limit - x.2.base) ≤ e.1 ∨ e.1 + e.2 ≤ x.2.mbase) →
        Served .scrub s r 0 [BitVec.ofNat 64 (512 * (s.receiptSerial % 128))] fun u => u.epoch = s.epoch + 1 ∧
          u.receiptSerial = s.receiptSerial + 1 ∧ ∀ e ∈ s.scrubRanges d, ∀ b, e.1 ≤ b → b < e.1 + e.2 → u.byte b = 0) ∧
      (∀ w mask, r.a 1 = 2 → w = (s.argWord d 0).toNat → mask = (s.argWord d 1).toNat → w < 256 → mask < 128 → s.running w = false →
        (s.vf w).hasRun = false → (s.vf w).resetEpoch < 2 ^ 64 → s.receiptSerial + 1 < 2 ^ 64 →
        (s.subject.flag = false → Served .scrub s r 0 [BitVec.ofNat 64 (512 * (s.receiptSerial % 128))] fun u =>
          (mask.testBit 6 = true → (u.vf w).saved = {}) ∧ (∀ e ∈ u.l2, e.vf ≠ w) ∧
          (∀ c, mask.testBit 1 = true → bitOf (s.argWord d 2) (sectionOf c) = true → sectionOf c < 32 →
            (SMap.get {} (u.vf w).saved.cores c : CoreCtx).scratch = []) ∧
          u.contextReceipt w (BitVec.ofNat 64 (s.receiptSerial + 1)) = true) ∧
        (s.subject.flag = true → Served .scrub s r 1 [] fun u => u.receiptSerial = s.receiptSerial ∧ ∀ b, u.byte b = s.byte b))) ∧
    (s.Asks 0x0B r rest → v < 256 → r.a 2 = 16 →
      Served .logConfiguration s r 0 [] fun u => u = { s' with logSelect := some v } ∧ u.pfLogWindow = (s.vf v).logRing.flatten) ∧
    (s.Asks 0x0B r rest → v < 256 → (r.a 2).toNat < 16 → (r.a 3).toNat % 65536 = 0 → (r.a 4).toNat % 65536 = 0 → (r.a 4).toNat ≤ 2 ^ 56 →
      1 ≤ (r.a 5).toNat → (r.a 5).toNat ≤ 1000 →
      Served .logConfiguration s r 0 [] fun u => (u.vf v).logWindow = (r.a 5).toNat ∧ (u.vf v).logStart = s.cycle.toNat ∧
        SMap.get {} (u.vf v).logRanges (r.a 2).toNat = { base := (r.a 3).toNat, limit := (r.a 4).toNat } ∧ ∀ b, u.byte b = s.byte b) ∧
    (∀ t i, s.Asks 0x0C r rest → t = (r.a 1).toNat → i = (r.a 2).toNat → t % 8192 = 0 → i < 1024 → inFwArea t = true →
      Served .pageTable s r 0 [] fun u => (∀ c, (u.core c).atb = []) ∧
        ∀ b, u.byte b = if t + 8 * i ≤ b ∧ b < t + 8 * i + 8 then byteAt (r.a 3) (b - (t + 8 * i)) else s.byte b) ∧
    (∀ o, s.Asks 0x0E r rest → o = (r.a 1).toNat → o % 65536 = 0 → o < 2 ^ 30 →
      (∀ l, s.dump = some l → Served .dumpRead s r 0 [] fun u => u = { s' with logSelect := none, logWindow := u.logWindow } ∧
        u.logWindow.length = 8192 ∧ ∀ i < 8192, ∀ j < 8, byteAt (u.logWindow.getD i 0) j = l.getD (o + 8 * i + j) 0) ∧
      (s.dump = none → Served .dumpRead s r 1 [] fun u => u = s')) ∧
    (s.Asks 0x0F r rest → v < 32 → (r.a 3).toNat < 32 → (r.a 4).toNat < 2 → (r.a 2).toNat < 2 ^ 48 →
      (∃ w ∈ (s.part v).vfs, (s.vf w).tdi.bound = true) → Served .evacuate s r 4 [] fun u => u = s') ∧
    (s.Asks 0x0F r rest → v < 32 → (r.a 3).toNat < 32 → (r.a 4).toNat < 2 → (r.a 2).toNat < 2 ^ 48 → (s.part v).vfs ≠ [] →
      (s.part v).evac = none → (∀ w ∈ (s.part v).vfs, (s.vf w).tdi.bound = false) →
      Served .evacuate s r 3 [] fun u => (u.part v).evac = some ((r.a 2).toNat, (r.a 3).toNat, (r.a 4).toNat) ∧
        (u.part v).notBefore = s.cycle.toNat + 850000 ∧ u.longs = s.longs ++ [{ req := r }] ∧ (∀ b, u.byte b = s.byte b) ∧
        ((∃ w ∈ (s.part v).vfs, s.running w = true) → Noticed s v 2 u)) ∧
    (s.Asks 0x10 r rest → v < 32 → (r.a 2).toNat < 2 ^ 48 → (s.part v).sections ≠ 0 → (s.part v).vfs = [] → (s.part v).staged = [] →
      Served .openForImport s r 0 [] fun u => OnlyPart s' v (fun x => { x with importFrom := some (r.a 2).toNat }) u)

/-- PARTITION SERVICES (R209, R322 to R324, R349, R354): sub-functions of service 0x08. A change that a bound partition must wait for is staged
for its next switch; a binding needs a receipt of a scrub of the VF's context. That the unbinding of a VF that has run clears its registers
is the model's choice (log entry 47, DEDUCED). -/
def Obligations.PartitionServicesAnswer : Prop :=
  ∀ (s s' : State) (r : Request) (rest : List Request) (n : Nat), s' = { s with requests := rest } → n = (r.a 1).toNat → r.slot = none →
    s.Asks 0x08 r rest →
    (∀ v p, n = 0 → v = (r.a 2).toNat → p = (r.a 3).toNat → v < 256 → p < 32 → (s.vf v).tdi.bound = false → s.identityTrusted = true →
      (s.vf v).bound = none → s.stagedBind v = false → (s.part p).vfs.length + (s.part p).staged.length < 64 → (s.part p).sections ≠ 0 →
      (s.part p).importFrom = none →
      ∃ st l, Served .bindVf s r st l fun u =>
        (s.contextReceipt v (r.a 4) = true → st = 0 ∧ l = [BitVec.ofNat 64 (s.indexFor p)] ∧ (u.vf v).index = s.indexFor p ∧
          ((s.part p).vfs = [] → (u.vf v).bound = some p ∧ (u.part p).vfs = [v] ∧ (u.vf v).intCore = s.defaultIntCore p) ∧
          ((s.part p).vfs ≠ [] → OnlyPart { s' with vfs := u.vfs } p (fun x => { x with staged := x.staged ++ [.bind v] }) u)) ∧
        (s.contextReceipt v (r.a 4) = false → st = 1 ∧ l = [] ∧ u = s')) ∧
    (∀ v p, n = 1 → v = (r.a 2).toNat → v < 256 → (s.vf v).tdi.bound = false → (s.vf v).bound = some p →
      Served .unbindVf s r 0 [] fun u => ((s.vf v).hasRun = true → (u.vf v).hasRun = false ∧ (u.vf v).regs = {}) ∧
        (s.running v = false → (u.vf v).bound = none ∧ (u.part p).vfs = (s.part p).vfs.erase v ∧ (s.vf v).keyGen < (u.vf v).keyGen) ∧
        (s.running v = true → (u.part p).staged = (s.part p).staged ++ [.unbind v]) ∧ ∀ b, u.byte b = s.byte b) ∧
    (∀ p i, n = 2 → p = (r.a 2).toNat → i = (r.a 3).toNat → p < 32 → i < 16 → (r.a 4).toNat < 2 ^ 32 →
      Served .homeMaskEntry s r 0 [(SMap.get 0 (s.part p).masks i : BitVec 32).zeroExtend 64] fun u =>
        OnlyPart s' p (fun x => { x with staged := x.staged ++ [.homeMask i ((r.a 4).truncate 32)] }) u) ∧
    (∀ p i l, n = 3 → p = (r.a 2).toNat → i = (r.a 3).toNat → p < 32 → i < 64 →
      l = ((List.range (i + 1)).map fun k => if k = i then r.a 4 else (SMap.get 0 (s.part p).stagedEntries k : Word)) →
      (r.a 5 = 0 → Served .scheduleEntry s r 0 [] fun u =>
        OnlyPart s' p (fun x => { x with stagedEntries := SMap.put 0 x.stagedEntries i (r.a 4) }) u) ∧
      (r.a 5 = 1 → l.all (schedOk (s.part p).vfs) = true → Served .scheduleEntry s r 0 [] fun u =>
        OnlyPart s' p (fun x => { x with stagedEntries := [], scheduleNext := some l }) u) ∧
      (r.a 5 = 1 → l.all (schedOk (s.part p).vfs) = false → Served .scheduleEntry s r 1 [] fun u =>
        OnlyPart s' p (fun x => { x with stagedEntries := [] }) u)) ∧
    (∀ p k, n = 4 → p = (r.a 2).toNat → k = (r.a 3).toNat → p < 32 → k < 32 → s.partOfSection k = 32 →
      (∀ x ∈ s.parts, Staged.addSection k ∉ x.2.staged) → s.identityTrusted = true →
      Served .addSection s r 0 [] fun u => (∀ b, u.byte b = s.byte b) ∧
        ((s.part p).vfs = [] → (u.part p).sections = (s.part p).sections ||| BitVec.ofNat 32 (2 ^ k)) ∧
        ((s.part p).vfs ≠ [] → OnlyPart s' p (fun x => { x with staged := x.staged ++ [.addSection k] }) u)) ∧
    (∀ p k, n = 5 → p = (r.a 2).toNat → k = (r.a 3).toNat → p < 32 → k < 32 → (s.part p).hasSection k = true →
      (∀ v ∈ (s.part p).vfs, s.quiescent v = true) →
      ((s.part p).vfs ≠ [] → (∀ j < 32, (s.part p).hasSection j = true → j = k) → Served .removeSection s r 1 [] fun u => u = s') ∧
      ((s.part p).vfs = [] ∨ (∃ j < 32, (s.part p).hasSection j = true ∧ j ≠ k ∧ Staged.removeSection j ∉ (s.part p).staged) →
        Served .removeSection s r 0 [] fun u => (∀ b, u.byte b = s.byte b) ∧
        ((s.part p).vfs = [] → (u.part p).sections = (s.part p).sections &&& ~~~(BitVec.ofNat 32 (2 ^ k))) ∧
        ((s.part p).vfs ≠ [] → OnlyPart s' p (fun x => { x with staged := x.staged ++ [.removeSection k] }) u))) ∧
    (∀ p, n = 6 → p = (r.a 2).toNat → p < 32 →
      Served .readConfiguration s r 0
        [(s.part p).sections.zeroExtend 64, (s.part p).gen.zeroExtend 64, BitVec.ofNat 64 (s.part p).vfs.length] fun u => u = s')

/-- EVACUATION AND IMPORT (R348, R410, R411): at the end of the switch that halts an evacuated partition its VFs leave it, and with everything
sent the evacuation ends and answers at the next call; one whose target is lost before that fails with status 1; what arrives at the target
is bytes and VFs, which are bound under fresh keys in a new generation. -/
def Obligations.EvacuationsEndAndArrive : Prop :=
  ∀ (s : State) (p : Nat),
    (∀ l e, s.longs[s.subject.item]? = some l → p = (l.req.a 1).toNat → l.reply = none → (s.part p).evac = some e →
      (s.part p).leaving = [] → (s.part p).running = none →
      ∃ t, exec .serviceCompletion s = .next t ∧
        (e.2.2 = 0 → (t.part p).evac = none ∧ t.longs[s.subject.item]? = some { l with reply := some [0] }) ∧ t.requests = s.requests ∧ ∀ v ∈ (s.part p).vfs, (s.vf v).bound = some p → (s.part p).vfs.Nodup → (t.vf v).bound = none) ∧
    (p = s.subject.part → (s.part p).evac.isSome = true → (s.part p).leaving = [] →
      ∃ t, exec .evacuationTargetLost s = .next t ∧ (t.part p).evac = none ∧ t = { s with parts := t.parts, longs := t.longs } ∧
        (∀ q, q ≠ p → t.part q = s.part q) ∧ ∀ (i : Nat) (x : LongService), s.longs[i]? = some x → x.req.number = 0x0F → (x.req.a 1).toNat = p → x.reply = none →
          t.longs[i]? = some { x with reply := some [1] }) ∧
    (p = s.subject.part → (s.part p).importFrom.isSome = true →
      (s.subject.images = [] → (∀ i < s.subject.bytes.length, s.KeyFits (s.subject.addr + i) s.subject.vf) →
        ∃ t, exec .partitionImport s = .next t ∧ t = { s with mem := t.mem, fkey := t.fkey } ∧
        ∀ b, t.byte b = if s.subject.addr ≤ b then s.subject.bytes.getD (b - s.subject.addr) (s.byte b) else s.byte b) ∧
      (∀ im, s.subject.images = [im] → (s.vf im.vf).bound = none →
        ∃ t, exec .partitionImport s = .next t ∧ (t.vf im.vf).bound = some p ∧ (t.vf im.vf).keyGen = (s.vf im.vf).keyGen + 1 ∧
          (t.vf im.vf).regs = im.regs ∧ (t.vf im.vf).queues = im.queues ∧ (t.vf im.vf).recorded = im.recorded ∧ (t.part p).gen = (s.part p).gen + 1 ∧
          (t.part p).vfs = (s.part p).vfs ++ [im.vf] ∧ (t.part p).importFrom = none))

/-- SLICES AND SWITCHES (R83, R324, R325, R327, R329 to R331, R355): the notice reaches every core; the incoming context is in its bobbin; a
world switch puts the next VF on its partition under a new generation, and what ran before is in its saved context; the resume gate frees
its shuttles; the timer and the log window end on time. -/
def Obligations.PartitionsSwitchOnTime : Prop :=
  ∀ (s : State) (p : Nat) (x : Partition), p = s.subject.part → x = s.part p →
    (∀ v e, x.running = some v → x.schedule[x.pos]? = some e → bitsOf e 27 18 ≠ 0 → x.noticed = false → 1 < x.vfs.length →
      x.sliceStart + 850 * (bitsOf e 47 28 - bitsOf e 27 18) ≤ s.cycle.toNat →
      ∃ t, exec .preEmptionNotice s = .next t ∧ Noticed s p 0 t ∧ t.part p = { x with noticed := true } ∧
        (∀ q, q ≠ p → t.part q = s.part q) ∧ ∀ b, t.byte b = s.byte b) ∧
    (∀ e i n v, x.schedule[x.pos]? = some e → x.next x.vfs = some (i, n) → v = bitsOf n 63 56 → x.running ≠ some v →
      x.sliceStart + 850 * bitsOf e 47 28 ≤ s.cycle.toNat + 85000 * bitsOf n 17 8 →
      ∃ t, exec .bobbinRefill s = .next t ∧ t = { s with cores := t.cores } ∧
        ∀ c ∈ s.partCores p, if (s.vf v).index = 0 then (t.core c).bobbin0 = some v else (t.core c).bobbin1 = some v) ∧
    (∀ v sv, s.fatal = false → x.sections ≠ 0 → x.running = none → x.vfs = [v] → x.schedule = [] → x.scheduleNext = none → x.staged = [] →
      x.evac = none → x.gen ≠ 0xFFFF → (∀ e ∈ s.cores, e.2.lost = false) → (∀ e ∈ s.slots, s.tenantSlot p e.1 = false) → sv = (s.vf v).saved → sv.queued = [] → SMap.wf {} sv.slots = true →
      ∃ t, exec .worldSwitch s = .next t ∧ (t.part p).running = some v ∧ (t.part p).gen = x.gen + 1 ∧ (t.part p).sliceStart = s.cycle.toNat ∧
        (t.vf v).saved = {} ∧ (t.vf v).hasRun = true ∧ (∀ b, t.byte b = s.byte b) ∧
        (∀ e ∈ sv.slots, (t.slot e.1).parked = true ∧ (t.slot e.1).sh = e.2.sh ∧ (t.slot e.1).vregs = e.2.vregs)) ∧
    (∀ v w e, s.fatal = false → x.sections ≠ 0 → x.running = some v → x.vfs = [v, w] → v ≠ w → x.schedule = [e, BitVec.ofNat 64 (w * 2 ^ 56)] →
      x.pos = 0 → w < 256 → bitsOf e 63 56 = v → x.scheduleNext = none → x.staged = [] → x.evac = none → x.gen ≠ 0xFFFF → x.shared = true →
      x.sliceStart + 850 * bitsOf e 47 28 ≤ s.cycle.toNat → s.slots = [] → s.frames = [] → s.pushes = [] → s.cores = [] → s.queued = [] →
      s.offers = [] → (s.vf w).saved.queued = [] →
      ∃ t, exec .worldSwitch s = .next t ∧ (t.part p).running = some w ∧ (t.part p).gen = x.gen + 1 ∧ (t.part p).pos = 1 ∧
        (t.vf v).lastRunEnd = s.cycle.toNat ∧ (t.vf w).saved = {} ∧ ∀ wd, wd < 2 ^ 56 → (t.homeState v wd).owner = none) ∧
    (∀ v w e, s.fatal = false → x.sections ≠ 0 → x.running = some v → x.vfs = [v, w] → v ≠ w → x.schedule = [e, BitVec.ofNat 64 (w * 2 ^ 56)] →
      x.pos = 0 → w < 256 → bitsOf e 63 56 = v → x.scheduleNext = none → x.staged = [] → x.evac = none → x.gen ≠ 0xFFFF → x.shared = true →
      x.sliceStart + 850 * bitsOf e 47 28 ≤ s.cycle.toNat → s.frames = [] → s.pushes = [] → s.queued = [] → s.offers = [] → (s.vf w).saved = {} →
      SMap.wf {} s.slots = true → SMap.wf {} s.cores = true → SMap.wf {} s.sections = true → (∀ y ∈ s.cores, y.2.sbuf = [] ∧ y.2.lost = false) →
      (∀ y ∈ s.slots, s.tenantCore p (y.1 / 16) = true ∧ y.2.life = .ready ∧ y.2.vq = [] ∧ y.2.vrun = none ∧ y.2.held = [] ∧ y.2.half = false ∧
        y.2.doneValue = none) →
      ∃ t, exec .worldSwitch s = .next t ∧ (t.part p).running = some w ∧
        (∀ y ∈ s.slots, t.slot y.1 = {} ∧ SMap.get {} (t.vf v).saved.slots y.1 = y.2.halted) ∧
        (∀ c, s.tenantCore p c = true → SMap.get {} (t.vf v).saved.cores c = (s.core c).ctx ∧ (t.core c).ctx = { vf := w }) ∧
        (∀ k, x.hasSection k = true → SMap.get {} (t.vf v).saved.sections k = SMap.get {} s.sections k) ∧
        (∀ y ∈ s.cores, s.tenantCore p y.1 = true → ∀ r ∈ y.2.bsram, (y.1 * 32768 + r.1, r.2) ∈ (t.vf v).saved.bsram) ∧
        ∀ b, t.byte b = s.byte b) ∧
    (∀ v, v = s.subject.vf → s.running v = true → (s.vf v).gated = true → s.fractionReaches v (s.vf v).rr = true →
      ∃ t, exec .resumeGatePass s = .next t ∧ t = { s with slots := t.slots, vfs := t.vfs } ∧ (t.vf v).gated = false ∧
        ∀ k, t.slot k = if (s.slot k).vf = v then { s.slot k with parked := false } else s.slot k) ∧
    (∀ v d, v = s.subject.vf → (s.vf v).deadline = some d → d.toNat ≤ (s.timeOn (dieOf (s.vf v).intCore)).toNat → s.running v = true →
      ∃ t, exec .timerDeadline s = .next t ∧ bitOf (t.core (s.vf v).intCore).ctx.sip 5 = true ∧ t.vfs = s.vfs ∧
        (∀ c, c ≠ (s.vf v).intCore → t.core c = s.core c) ∧ ∀ b, t.byte b = s.byte b) ∧
    (∀ v i g, v = s.subject.vf → (s.vf v).logWindow ≠ 0 → (s.vf v).logStart + 850 * (1000 * (s.vf v).logWindow) ≤ s.cycle.toNat →
      (s.vf v).logRanges = [(i, g)] → (s.vf v).logDropped = 0 → (s.vf v).logPend = [] → (s.vf v).logRing.length < 1024 →
      ∃ t rec_, exec .logWindowEnd s = .next t ∧ (t.vf v).logRing = (s.vf v).logRing ++ [rec_] ∧ (t.vf v).logSeq = (s.vf v).logSeq + 1 ∧
        (t.vf v).logRanges = [(i, { g with counts := [], touched := [] })] ∧ (t.vf v).logStart = s.cycle.toNat ∧
        ∀ w, w ≠ v → t.vf w = s.vf w)

/-- PAGES BETWEEN TIERS (R294, R296 to R298, R335, R336, R392, R411): a pull brings the page's bytes to its HBM frame and its leaf there, a
background pull once the VF runs or is next and behind the demand pulls of its slice; a page whose source cannot be read is lost, and its
waiters trap; one whose data came poisoned stays, and its waiters trap (DEDUCED: log entry 84); a page moves down with its bytes; a clean
copy restores a poisoned page. -/
def Obligations.PagesMoveBetweenTiers : Prop :=
  ∀ (s : State) (v page at_ : Nat) (e : Word), s.pageLeaf page = some (e, at_) → s.remotePage v page = false → s.MemCanonical → SMap.wf false s.poison = true →
    (∀ far ipa rf rn, s.rangeOf v far = some rf → s.rangeOf v ipa = some rn → rf.machine far % 65536 = 0 → rn.machine ipa % 65536 = 0 →
      rf.machine far ≠ rn.machine ipa → at_ / 65536 ≠ rn.machine ipa / 65536 → (at_ + 7) / 65536 ≠ rn.machine ipa / 65536 →
      ipa % 65536 = 0 → ipa < 2 ^ 56 → s.farUp (rf.machine far) = true → s.sickFrame (rf.machine far / 65536) = false →
      (pteTier e = 1 → far = pteAddr e * 65536 → s.frameFor v rf.w3 = some (s, ipa) →
        ∀ i ∈ [Instr.pagePull, .backgroundPull],
          (i = .pagePull → ∃ q, s.pulls[s.subject.item]? = some q ∧ q.vf = v ∧ q.page = page ∧ (q.demand = true ∨ s.demandAhead q.die = false)) →
          (i = .backgroundPull → s.subject.vf = v ∧ (s.vf v).recorded = [page] ∧ s.demandAhead s.subject.die = false ∧
            (s.running v = true ∨ (s.part (s.partOfVf v)).soon s.cycle.toNat = some v)) →
          ∃ t, exec i s = .next t ∧ (∀ q ∈ t.pulls, q.vf ≠ v ∨ q.page ≠ page) ∧ pteTier (t.read64 at_) = 0 ∧
            pteAddr (t.read64 at_) * 65536 = ipa ∧ (∀ c, ∀ a ∈ (t.core c).atb, a.page ≠ page) ∧
            (s.KeyFits (rf.machine far) rf.kidx → ∀ b < 65536, (rn.machine ipa + b < at_ ∨ at_ + 8 ≤ rn.machine ipa + b) →
              t.byte (rn.machine ipa + b) = s.byte (rf.machine far + b))) ∧
      (∀ n, s.clean[s.subject.item]? = some (v, page, far) → ipa = pteAddr e * 65536 → inHbm rn.mbase = true → bitOf e 4 = false → n < 8192 →
        s.poisoned (rn.machine ipa + 8 * n) = true →
        ∃ t, exec .pageRestore s = .next t ∧ pteTier (t.read64 at_) = 0 ∧ t.poisoned (rn.machine ipa + 8 * n) = false ∧
          (s.KeyFits (rf.machine far) rf.kidx → ∀ b < 65536, (rn.machine ipa + b < at_ ∨ at_ + 8 ≤ rn.machine ipa + b) →
            t.byte (rn.machine ipa + b) = s.byte (rf.machine far + b)))) ∧
    (∀ q k va, s.pulls[s.subject.item]? = some q → q.vf = v → q.page = page → va / 65536 = page → s.slots = [(k, s.slot k)] →
      (s.slot k).vf = v → (s.slot k).life = .waiting → (s.slot k).vrun = none → (s.slot k).vq = [] →
      (∀ i, decodeWord (s.slot k).word = .instr i → memCounters i = (false, false)) → (s.slot k).wait = some { kind := .pull va } →
      s.PlainTrap k → s.sections = [] → (s.vf v).queues = [] → s.awaits = [] → (s.vf v).coll = [] →
      (s.vf v).hostWaits = [] → s.records = [] → (∀ e ∈ s.cores, e.2.ctx.qk = []) →
      ∃ t, exec .pullFailed s = .next t ∧ (∀ q ∈ t.pulls, q.vf ≠ v ∨ q.page ≠ page) ∧
        (s.subject.flag = false → pteTier (t.read64 at_) = 3 ∧ TrapsSlot s k (cause 4 0 0) 24 (BitVec.ofNat 64 va) (s.slot k).sh.pc t) ∧
        (s.subject.flag = true → pteTier (t.read64 at_) = pteTier e ∧
          TrapsSlot s k (cause 0xC 6 6) 24 (BitVec.ofNat 64 va) (s.slot k).sh.pc t)) ∧
    (∀ ipa r far rf, v = s.subject.vf → page = s.subject.item → s.running v = false → (s.vf v).pin = false → s.NoPins →
      ipa = pteAddr e * 65536 → s.rangeOf v ipa = some r →
      pteTier e = 0 → inHbm r.mbase = true → r.kidx ≠ 256 → s.freeIpa v true r.w3 = some far → s.rangeOf v far = some rf →
      s.farFrames v < (s.vf v).quota → s.farUp (rf.machine far) = true → far % 65536 = 0 → far < 2 ^ 56 →
      ∃ t, exec .pageMoveDown s = .next t ∧ pteTier (t.read64 at_) = 1 ∧ pteAddr (t.read64 at_) * 65536 = far ∧
        (∀ c, ∀ a ∈ (t.core c).atb, a.page ≠ page) ∧ (∀ k, t.slot k = { s.slot k with held := (t.slot k).held }) ∧
        (r.machine ipa % 65536 = 0 → rf.machine far % 65536 = 0 → r.machine ipa ≠ rf.machine far → at_ / 65536 ≠ r.machine ipa / 65536 →
          (at_ + 7) / 65536 ≠ r.machine ipa / 65536 → s.KeyFits (r.machine ipa) r.kidx →
          ∀ b < 65536, (rf.machine far + b < at_ ∨ at_ + 8 ≤ rf.machine far + b) → t.byte (rf.machine far + b) = s.byte (r.machine ipa + b)))

/-- ERRORS, REPAIR AND LINKS (R99, R218, R358, R386 to R391, R394 to R396, R398, R401): what a scrub finds is corrected and counted, or poisons
its word, in a saved context too; a lost core leaves nothing and its words are Owner-lost; a planned fence is announced and staged, or made
at once where it concerns no partition; a fatal error halts the part with its dump; bring-up and the warm reset make it ready again with its
bytes; links go down and come up. The model's choices here: where firmware keeps its tables (log entry 43), how heartbeats are counted (59),
what bring-up also sets (60), what a warm reset keeps (61), what core loss wakes (62), the structures' error log (67), READY falling as
FATAL rises (97) and the form of the dump (101). -/
def Obligations.ReliabilityStepsAct : Prop :=
  ∀ (s : State) (c a : Nat), c = s.subject.core → a = s.subject.addr →
    (s.subject.item = 0 → exec .patrolScrub s = .next s) ∧
    (s.subject.item = 1 → ∃ t, exec .patrolScrub s = .next t ∧ t = { s with dies := t.dies } ∧ (∀ d, d ≠ s.subject.die → t.die d = s.die d) ∧
      (t.die s.subject.die).errors = (s.die s.subject.die).errors + 1 ∧
      ((∀ hits, ((c, a), hits) ∈ (s.die s.subject.die).rows → hits.length ≤ 6) → (t.die s.subject.die).repair = (s.die s.subject.die).repair) ∧
      (∀ hits, (s.die s.subject.die).rows = [((c, a), hits)] → 7 ≤ hits.length → (∀ h ∈ hits, s.cycle.toNat < h + 850 * 86400000000) →
        (c, a) ∈ (t.die s.subject.die).repair)) ∧
    (s.subject.item = 2 → machineExists a = true → ∃ t, exec .patrolScrub s = .next t ∧ t.poisoned a = true ∧ t = { s with poison := t.poison } ∧
      ∀ b, b / 8 ≠ a / 8 → t.poisoned b = s.poisoned b) ∧
    (s.subject.item = 6 → ∃ t, exec .patrolScrub s = .next t ∧ SMap.get false (t.core c).ctx.accPoison a = true ∧
      (t.core c).ctx.mstat = { (s.core c).ctx.mstat with psn := true }) ∧
    (s.subject.item = 10 → a % 16 ≠ 0 → (s.slot s.subjSlot).life ≠ .free → ∃ t, exec .patrolScrub s = .next t ∧ OnlySlotAt s s.subjSlot
      (fun m => { m with sh := { m.sh with xbad := (t.slot s.subjSlot).sh.xbad } }) t ∧
      ∀ i, (t.slot s.subjSlot).sh.xbad.getLsbD i = ((s.slot s.subjSlot).sh.xbad.getLsbD i || decide (i = a % 16))) ∧
    (s.subject.item = 15 → ∃ t, exec .patrolScrub s = .next t ∧ SMap.get false (t.vf s.subject.vf).saved.bpoison (32768 * c + a % 32768) = true ∧
      (∀ v, v ≠ s.subject.vf → t.vf v = s.vf v) ∧ t = { s with vfs := t.vfs }) ∧
    (∃ t, exec .hbmRowSparing s = .next t ∧ t = { s with dies := t.dies } ∧ (4096, a) ∉ (t.die s.subject.die).repair ∧
      ∀ r, r ≠ (4096, a) → (r ∈ (t.die s.subject.die).repair ↔ r ∈ (s.die s.subject.die).repair)) ∧
    (s.subject.flag = false → ∃ t, exec .meshLinkLoss s = .next t ∧ t = { s with meshDown := t.meshDown } ∧ (c, s.subject.item) ∈ t.meshDown) ∧
    (∀ i f, s.fatal = false →
      (i = Instr.meshLinkLoss ∧ s.subject.flag = true ∧ f = cause 0xF (s.subject.size % 8) 1 ∨
        i = Instr.fatalError ∧ s.subject.cause.toNat / 64 = 0xF ∧ f = s.subject.cause ∨
        i = Instr.patrolScrub ∧ s.subject.item = 7 ∧ f = cause 0xF 0 0) →
      ∃ l, exec i s = .next
          { s with
            fatal := true, ready := false, pfVector := true, dump := some l, mem := (s.putBytes 0xBFC0000000 (encryptedDump l)).mem } ∧
        leField l 0 4 = 0x5A444D50 ∧ leField l 4 2 = 1 ∧ leField l 8 8 = (f.toNat + s.subject.die * 4096) % 2 ^ 64 ∧
        leField l 16 8 = (s.timeOn s.subject.die).toNat ∧ leField l 24 8 = s.epoch % 2 ^ 64) ∧
    ((s.subject.die = 0 ∨ s.subject.die = 7) → s.securityDown = [] →
      exec .securityUnitLoss s = .next { s with securityDown := [s.subject.die] }) ∧
    (∀ v, v = (s.core c).ctx.vf → coreExists c = true → s.isFenced c = false → s.fatal = false → s.frames = [] →
      (∀ i < 16, bitOf (s.vfRegs (s.slot (c * 16 + i)).vf c).trec 0 = false) → (s.core c).ctx.qk = [] →
      ∃ t, exec .coreLoss s = .next t ∧ t.isFenced c = true ∧ (t.core c).sbuf = [] ∧ (t.core c).l1 = [] ∧
        (∀ i < slotCount c, (t.slot (c * 16 + i)).life = .free) ∧ (∀ b, t.byte b = s.byte b) ∧
        ((∃ w ∈ (s.part (s.partOfCore c)).vfs, s.running w = true) → Noticed s (s.partOfCore c) 3 t) ∧
        ∀ wd < 2 ^ 56, (s.homeState v wd).owner = some c → (t.homeState v wd).loser = some c) ∧
    (∀ p x, s.fatal = false → s.subject.fence = .core x → p < 32 → s.inPart p x = true →
      ∃ t, exec .plannedFence s = .next t ∧ (t.part p).staged = (s.part p).staged ++ [.fenceCore x] ∧
        (t.part p).notBefore = s.cycle.toNat + 850000 ∧ (∀ b, t.byte b = s.byte b) ∧
        ((∃ v ∈ (s.part p).vfs, s.running v = true) → Noticed s p 3 t)) ∧
    (∀ x, s.fatal = false → s.subject.fence = .core x → (∀ p < 32, s.inPart p x = false) → (SMap.get 0 s.spares (clusterOf x) : Nat) = 0 →
      (s.part 32).vfs = [] →
      exec .plannedFence s = .next (s.updCore x fun _ => { fenced := true })) ∧
    (s.subject.flag = true → exec .firmwareReelection s = .next { s with heartbeats := 0 }) ∧
    (s.subject.flag = false → s.heartbeats < 2 → exec .firmwareReelection s = .next { s with heartbeats := s.heartbeats + 1 }) ∧
    (∀ old new rest, s.subject.flag = false → 2 ≤ s.heartbeats → s.column = (old, 0) :: (new, 1) :: rest → old ≠ new →
      (∀ e ∈ rest, e.1 ≠ old ∧ e.2 ≠ 0 ∧ e ≠ (new, 1)) →
      ∃ t, exec .firmwareReelection s = .next t ∧ t.primary = new ∧ t.isFenced old = true ∧ t.column = (new, 0) :: rest ∧
        ∀ k, k / 16 = old → (t.slot k).life = .free) ∧
    (exec .clockThrottle s = .next { s with throttle := min s.subject.item 4 }) ∧
    (s.ready = false → s.fatal = false → ∃ t, exec .bringUp s = .next t ∧ t.ready = (List.range 7).all Config.bootStep ∧
      t.mem = s.mem ∧ t.slots = s.slots ∧ t.vfs = s.vfs ∧ t.parts = s.parts ∧
      (t.ready = true → ∀ d < 8, (t.die d).trr = BitVec.ofNat 64 (pageRoot + 1)) ∧
      (t.ready = true → ∀ n, (t.core n).fenced = ((s.core n).fenced || (decide (n < 4096) && coreExists n && Config.fencedAtBoot n)))) ∧
    (∃ t, exec .warmReset s = .next t ∧ t.fatal = false ∧ t.ready = false ∧ t.dump = s.dump ∧ t.slots = [] ∧ t.parts = [] ∧
      (∀ b, t.byte b = s.byte b) ∧ t.epoch = s.epoch ∧ t.fusedSerial = s.fusedSerial ∧ t.agenda = .event .bringUp {} :: s.agenda) ∧
    (∃ t, exec .cxlLinkDown s = .next t ∧ t = { s with cxlDown := t.cxlDown } ∧ s.subject.item % 8 ∈ t.cxlDown) ∧
    (s.cxlDown.Nodup → ∃ t, exec .cxlLinkUp s = .next t ∧ t = { s with cxlDown := t.cxlDown } ∧ s.subject.item % 8 ∉ t.cxlDown) ∧
    (∃ t, exec .uePortDown s = .next t ∧ t = { s with ueDown := t.ueDown } ∧ s.subject.item % 8 ∈ t.ueDown) ∧
    (s.ueDown.Nodup → ∃ t, exec .uePortUp s = .next t ∧ t = { s with ueDown := t.ueDown } ∧ s.subject.item % 8 ∉ t.ueDown) ∧
    (∀ i code, i = s.subject.item % 8 → code = (SMap.get 0 (s.core c).ctx.pmsel i : BitVec 32).toNat % 4096 → code = 0x001 ∨ code = 0x00A →
      SMap.get 0 (s.core c).ctx.pmc i = (0xFFFFFFFFFFFF : BitVec 48) → s.running (s.core c).ctx.vf = true →
      ∃ t, exec .cycleCounterOverflow s = .next t ∧ SMap.get 0 (t.core c).ctx.pmc i = 0 ∧
        (SMap.get 0 (t.core c).ctx.pmsel i : BitVec 32).getLsbD 30 = true ∧ (∀ d, d ≠ c → t.core d = s.core d) ∧ ∀ b, t.byte b = s.byte b)

/-- THE COLLECTIVE ENGINE (R402 to R404, R406, R408, R409, R411): an operation that every rank has posted reduces integers to their sum in rank
order, writes each rank's result at its destination and ends with STATE 1; an ATOM does so with the old value; an abort or a silent peer
ends it. That data are read at completion (log entry 66) and that an ATOM is one step at rank 0 (log entry 26) is the model's choice
(DEDUCED). -/
def Obligations.CollectivesEndAtEveryRank : Prop :=
  (∀ (d : List Word) (e : EType) (free rank i n : Nat) (data : List (List Nat)), collOp d = 1 → collRop d = 0 → etypeOf (collType d) = some e →
    e.isInt = true → n = (d.getD 3 0).toNat → i < n → data ≠ [] → (∀ l ∈ data, l.length = n ∧ ∀ x ∈ l, x < 2 ^ e.width) →
    (resultAt d free rank data)[i]? = some ((data.map fun l => l.getD i 0).sum % 2 ^ e.width)) ∧
  (∀ (d : List Word) (old : Word), (collRop d = 0 → atomValue d old = some (old + d.getD 5 0)) ∧
    (collRop d = 5 → atomValue d old = some (d.getD 5 0)) ∧
    (collRop d = 6 → atomValue d old = if old = d.getD 6 0 then some (d.getD 5 0) else none)) ∧
  ∀ (s : State) (v k : Nat) (e : CollEntry) (g : CollGroup), v = s.subject.vf → k = s.subject.item → e = (s.vf v).entry k →
    g = (s.vf v).group (collGroup e.desc) → e.pending = true →
    e.joint = none →
    (∀ r u w data, (s.vf v).opFirst e = true → g.locals = [(r, v)] → (s.vf v).findOp (collGroup e.desc) e.opnum = some (k, e) →
      s.gather g (collGroup e.desc) e.opnum e.desc s.subject.peers (List.range g.ranks.length) = .all u data →
      (u.vf v).findOp (collGroup e.desc) e.opnum = some (k, e) →
      (collOp e.desc ≠ 5 → s.subject.flag = false →
        ({ u with fresh := u.fresh + (e.desc.getD 3 0).toNat * g.ranks.length * g.ranks.length }).writeElts (e.who v) (e.desc.getD 2 0) (collWidth e.desc)
          (resultAt e.desc u.fresh r data) 0 = .ok w () →
        (w.vf v).entry k = e →
        ∃ t, exec .collectiveComplete s = .next t ∧ ((t.vf v).entry k).state = 1 ∧ ((t.vf v).entry k).held = true ∧
          ∀ b, t.byte b = w.byte b) ∧
      (∀ a0 v0, collOp e.desc = 5 → s.subject.flag = false → g.ranks.head? = some (a0, v0) → a0 ≠ Config.fabricAddress →
        u.writeElts (e.who v) (e.desc.getD 2 0) 8 [s.subject.value.toNat] 0 = .ok w () →
        (w.vf v).entry k = e →
        ∃ t, exec .atom s = .next t ∧ ((t.vf v).entry k).state = 1 ∧ ∀ b, t.byte b = w.byte b) ∧
      (∀ x old, collOp e.desc = 5 → s.subject.flag = false → g.ranks.head? = some (Config.fabricAddress, v) →
        u.engineAtomic (e.who v) (e.desc.getD 1 0).toNat (atomValue e.desc) = .ok x old →
        (x.vf v).findOp (collGroup e.desc) e.opnum = some (k, e) →
        x.writeElts (e.who v) (e.desc.getD 2 0) 8 [old.toNat] 0 = .ok w () → (w.vf v).entry k = e →
        ∃ t, exec .atom s = .next t ∧ ((t.vf v).entry k).state = 1 ∧ ∀ b, t.byte b = w.byte b)) ∧
    (s.subject.flag = false → ∃ t, exec .collectiveAbort s = .next t ∧ ((t.vf v).entry k).state = 2 ∧ ((t.vf v).entry k).peer = s.subject.size ∧
      ∀ b, t.byte b = s.byte b) ∧
    (∀ r v0, g.ranks[r]? = some (s.subject.addr, v0) → s.subject.addr ≠ Config.fabricAddress →
      (∀ j < r, ∀ a w, g.ranks[j]? = some (a, w) → a ≠ s.subject.addr) →
      ∃ t, exec .peerResponseTimeout s = .next t ∧ ((t.vf v).entry k).state = 6 ∧ ((t.vf v).entry k).peer = r ∧ ∀ b, t.byte b = s.byte b)

/-- A STEP RUNS THE DECODED INSTRUCTION (R34, R40, R45, R96, R126, R413): where a shuttle is due to issue, its core's issue logic selects it,
nothing comes before its word, and the word fetched at its pc stands alone in slot A and decodes to i, the step is `exec` of i at the state
after the fetch, in which only the word and mix sample of the shuttle and the counters of its core differ, where `tsw` asks for the old
behaviour of no erratum. A word that no cause of decode stops counts in the mix sample, and as event 0x002 in the counters of its core that
select that event and its mode (R96, R358; log entry 54, DEDUCED: a word that goes on to wait has issued). A shuttle that its core does not
select does not issue. The word fetched in M mode is the one at that machine address (log entry 7, PRESUMED). A step without a word is
`exec` of it on its subject, or for the shuttle that the subject names. With no interleaving given, the next shuttle issues (log entry 2,
DESIGN CHOICE). -/
def Obligations.StepRunsTheDecodedInstruction : Prop :=
  (∀ (s r s' u : State) (k : Nat) (rest : List Move) (i : Instr) (w : BitVec 32), s.agenda = .issue k :: rest →
    r = { s with agenda := rest, focus := k } → s' = r.select k → r.issuable k = true → (r.slot k).doneValue = none →
    r.boundaryDue k = false → r.selectable k = true → s'.fetchWord (s'.who 0) s'.sh.pc.toNat = .ok u w → u.focus = k → decodeWord w = .instr i → s'.sh.pc.toNat % 8 = 0 → isOpener w = false →
    (∀ e ∈ u.me.vpending, ∀ r ∈ xregsOf i, vecXd e.instr ≠ some r) → u.sh.xbad = 0 → pmcOf i = none → bitsOf u.sh.tsw 31 24 = 0 →
    ∃ v, step s = exec i v ∧ (u.MayRun i → u.decodeStops i = false → u.valueStops i = false → lateCause u.sh w = none →
        v.sh.mix = u.sh.mix.issue (countsVector i) ∧
        ∀ j < 8, ∀ sel : BitVec 32, SMap.get 0 (u.core (k / 16)).ctx.pmsel j = sel →
          SMap.get 0 (v.core (k / 16)).ctx.pmc j = SMap.get 0 (u.core (k / 16)).ctx.pmc j +
            (if sel.toNat % 4096 = 0x002 ∧ (u.sh.mode = .u ∧ sel.getLsbD 29 = true ∨ u.sh.mode = .s ∧ sel.getLsbD 28 = true) then 1 else 0)) ∧
      v = { u with slots := v.slots, cores := v.cores } ∧ (∀ j, j ≠ k → v.slot j = u.slot j) ∧ v.me.word = w ∧
      v.sh = { u.sh with mix := v.sh.mix } ∧ v.me.vq = u.me.vq ∧ ∀ b, v.byte b = u.byte b) ∧
  (∀ (s r : State) (k : Nat) (rest : List Move), s.agenda = .issue k :: rest → r = { s with agenda := rest, focus := k } →
    r.boundaryDue k = false → r.selectable k = false → ∃ t, step s = .next t ∧ (r.issuable k = false → t = { s with agenda := rest }) ∧ (∀ j, (t.slot j).sh = (s.slot j).sh) ∧
      ∀ b, t.byte b = s.byte b) ∧
  (∀ (s : State) (w : Who) (a : Nat), w.mode = .m → machineExists a = true → a % 4 = 0 → s.fetchWord w a = .ok s (s.read32 a)) ∧
  (∀ (s : State) (i : Instr) (u : Subject) (rest : List Move), s.agenda = .event i u :: rest → hasWord i = false → forShuttle i u = false →
    step s = exec i { s with agenda := rest, subject := u }) ∧
  (∀ (s : State) (i : Instr) (u : Subject) (rest : List Move) (k : Nat), s.agenda = .event i u :: rest → hasWord i = false → forShuttle i u = true →
    k = u.core * 16 + u.slot % 16 → s.issuable k = true → (s.slot k).life = .ready → step s = exec i { s with agenda := rest, subject := u, focus := k }) ∧
  (∀ (s : State) (k : Nat), s.agenda = [] → s.fatal = false → s.engines = false → s.nextIssue = some k →
    step s = step { s with engines := true, agenda := [.issue k] })

/-- WORDS DECODE AS THE ENCODING TABLES GIVE THEM (R34 to R39): one word of each family, written out field by field from the tables, decodes to
the instruction that it stands for; a reserved opcode and a reserved function code are rejected. -/
def Obligations.WordsDecodeAsTheTablesEncodeThem : Prop :=
  (∀ e ∈ decodeSamples, decodeWord e.1 = .instr e.2) ∧ (∀ e ∈ rejectSamples, decodeWord e.1 = .reject e.2)

/-- DECODING UNDOES ENCODING (R34 to R39): the word of every well-formed instruction that has a word, with every operand at every value that its
encoding admits and either value of the L bit where it has one, decodes to that instruction: no bit of an encoding is dropped. -/
def Obligations.EncodedInstructionsDecodeBack : Prop :=
  ∀ (l : Bool) (i : Instr) (w : BitVec 32), wellFormed i = true → encode l i = some w → decodeWord w = .instr i

/-- MEMORY KEEPS ITS CANONICAL FORM: from every state whose listed bytes rise strictly in address with no zero listed, whatever step is next and
whatever the interleaving, the next state has that form, so that equal memories are equal data. -/
def Obligations.StepsKeepMemoryCanonical : Prop :=
  ∀ s t : State, s.MemCanonical → step s = .next t → t.MemCanonical

/-- RESET (R82, R321, R395): at power good the memory lists nothing and has its canonical form, no partition holds a section, no VF is bound, no
core holds a shuttle, the part is not READY, nothing is fatal and cycle and epoch are 0; the first thing to happen is bring-up. The
registers whose reset value the spec does not give are at the model's own values (log entry 6). That unlisted bytes read as zero is the
model's choice too (log entry 1, DESIGN CHOICE). -/
def Obligations.ResetIsPowerGood : Prop :=
  State.reset.MemCanonical ∧ (∀ b, State.reset.byte b = 0) ∧ (∀ p, (State.reset.part p).sections = 0 ∧ (State.reset.part p).running = none) ∧
    (∀ v, (State.reset.vf v).bound = none ∧ (State.reset.vf v).regs.stvec = 0) ∧ (∀ k, (State.reset.slot k).life = .free) ∧
    State.reset.ready = false ∧ State.reset.fatal = false ∧ State.reset.cycle = 0 ∧ State.reset.epoch = 0 ∧
    ∃ t, step State.reset = exec .bringUp t ∧ t = { State.reset with agenda := [] }
end

