-- ==== Sys2Proof/Laws/Sparse.lean ====
section
/-! SUPPORT. The laws of sparse maps: what a read gives after a write, and that a write keeps the canonical form. -/

namespace Sys2Proof.Machine

variable {α : Type}

/-- An erased key reads as the default. -/
theorem SMap.get_erase_self (d : α) (m : SMap α) (k : Nat) : SMap.get d (SMap.erase m k) k = d := by
  induction m with
  | nil => rfl
  | cons e m ih =>
    obtain ⟨k', v⟩ := e
    by_cases h : k' = k <;> simp [SMap.erase, SMap.get, h, ih]

/-- Erasing a key leaves the others. -/
theorem SMap.get_erase_of_ne (d : α) (m : SMap α) {k j : Nat} (h : j ≠ k) : SMap.get d (SMap.erase m k) j = SMap.get d m j := by
  induction m with
  | nil => rfl
  | cons e m ih =>
    obtain ⟨k', v⟩ := e
    by_cases hk : k' = k
    · subst hk; simp [SMap.erase, SMap.get, ih, Ne.symm h]
    · simp only [SMap.erase, if_neg hk, SMap.get, ih]

/-- An inserted key reads as its value. -/
theorem SMap.get_insert_self (d : α) (m : SMap α) (k : Nat) (v : α) : SMap.get d (SMap.insert m k v) k = v := by
  induction m with
  | nil => simp [SMap.insert, SMap.get]
  | cons e m ih =>
    obtain ⟨k', w⟩ := e
    unfold SMap.insert
    split
    · simp [SMap.get]
    · split
      · simp [SMap.get]
      · simp [SMap.get, ih, Ne.symm ‹¬k = k'›]

/-- Inserting a key leaves the others. -/
theorem SMap.get_insert_of_ne (d : α) (m : SMap α) {k j : Nat} (v : α) (h : j ≠ k) :
    SMap.get d (SMap.insert m k v) j = SMap.get d m j := by
  induction m with
  | nil => simp [SMap.insert, SMap.get, Ne.symm h]
  | cons e m ih =>
    obtain ⟨k', w⟩ := e
    unfold SMap.insert
    split
    · subst k'; simp [SMap.get, Ne.symm h]
    · split
      · simp [SMap.get, Ne.symm h]
      · by_cases hj : k' = j <;> simp [SMap.get, ih, hj]

/-- What holds of the default and of every listed value holds of whatever a key reads as. -/
theorem SMap.get_forall {d : α} {m : SMap α} {p : α → Prop} (h0 : p d) (h : ∀ e ∈ m, p e.2) (k : Nat) : p (SMap.get d m k) := by
  induction m with
  | nil => exact h0
  | cons e m ih =>
    obtain ⟨j, v⟩ := e
    unfold SMap.get
    split
    · exact h (j, v) (by simp)
    · exact ih fun e he => h e (by simp [he])

variable [DecidableEq α]

/-- A written key reads as what was written. -/
@[simp] theorem SMap.get_put_self (d : α) (m : SMap α) (k : Nat) (v : α) : SMap.get d (SMap.put d m k v) k = v := by
  unfold SMap.put
  split
  · subst v; exact SMap.get_erase_self d m k
  · exact SMap.get_insert_self d m k v

/-- Writing a key leaves the others. -/
theorem SMap.get_put_of_ne (d : α) (m : SMap α) {k j : Nat} (v : α) (h : j ≠ k) : SMap.get d (SMap.put d m k v) j = SMap.get d m j := by
  unfold SMap.put
  split
  · exact SMap.get_erase_of_ne d m h
  · exact SMap.get_insert_of_ne d m v h

/-- What any key reads as after a write. -/
theorem SMap.get_put (d : α) (m : SMap α) (k j : Nat) (v : α) : SMap.get d (SMap.put d m k v) j = if j = k then v else SMap.get d m j := by
  split
  · subst j; simp
  · exact SMap.get_put_of_ne d m v ‹_›

/-- A canonical map is canonical from any lower bound. -/
theorem SMap.wfFrom_mono (d : α) {m : SMap α} {a b : Nat} (h : a ≤ b) (w : SMap.wfFrom d b m = true) : SMap.wfFrom d a m = true := by
  cases m with
  | nil => rfl
  | cons e m =>
    simp only [SMap.wfFrom, Bool.and_eq_true, decide_eq_true_eq] at *
    exact ⟨⟨Nat.le_trans h w.1.1, w.1.2⟩, w.2⟩

/-- Erasing keeps the canonical form. -/
theorem SMap.wfFrom_erase (d : α) (m : SMap α) (k a : Nat) (w : SMap.wfFrom d a m = true) : SMap.wfFrom d a (SMap.erase m k) = true := by
  induction m generalizing a with
  | nil => rfl
  | cons e m ih =>
    simp only [SMap.wfFrom, Bool.and_eq_true, decide_eq_true_eq] at w
    simp only [SMap.erase]
    split
    · exact SMap.wfFrom_mono d (by omega) (ih _ w.2)
    · simp only [SMap.wfFrom, Bool.and_eq_true, decide_eq_true_eq]
      exact ⟨w.1, ih _ w.2⟩

/-- Inserting a value that is not the default keeps the canonical form. -/
theorem SMap.wfFrom_insert (d : α) (m : SMap α) (k : Nat) {v : α} (hv : v ≠ d) (a : Nat) (ha : a ≤ k) (w : SMap.wfFrom d a m = true) :
    SMap.wfFrom d a (SMap.insert m k v) = true := by
  induction m generalizing a with
  | nil => simp [SMap.insert, SMap.wfFrom, ha, hv]
  | cons e m ih =>
    obtain ⟨k', u⟩ := e
    simp only [SMap.wfFrom, Bool.and_eq_true, decide_eq_true_eq] at w
    unfold SMap.insert
    split
    · subst k'; simp [SMap.wfFrom, ha, hv, w.2]
    · split
      · simp only [SMap.wfFrom, Bool.and_eq_true, decide_eq_true_eq]
        exact ⟨⟨ha, hv⟩, ⟨by omega, w.1.2⟩, w.2⟩
      · simp only [SMap.wfFrom, Bool.and_eq_true, decide_eq_true_eq]
        exact ⟨w.1, ih _ (by omega) w.2⟩

/-- A write keeps the canonical form. -/
theorem SMap.wf_put {d : α} {m : SMap α} (w : SMap.wf d m = true) (k : Nat) (v : α) : SMap.wf d (SMap.put d m k v) = true := by
  unfold SMap.put
  split
  · exact SMap.wfFrom_erase d m k 0 w
  · exact SMap.wfFrom_insert d m k ‹_› 0 (Nat.zero_le k) w

/-- Dropping entries keeps the canonical form. -/
theorem SMap.wf_filter {d : α} {m : SMap α} (w : SMap.wf d m = true) (p : Nat × α → Bool) : SMap.wf d (m.filter p) = true := by
  unfold SMap.wf at *
  revert w
  generalize 0 = a
  induction m generalizing a with
  | nil => intro; rfl
  | cons e m ih =>
    intro w
    simp only [SMap.wfFrom, Bool.and_eq_true, decide_eq_true_eq] at w
    simp only [List.filter_cons]
    split
    · simp only [SMap.wfFrom, Bool.and_eq_true, decide_eq_true_eq]
      exact ⟨w.1, ih _ w.2⟩
    · exact SMap.wfFrom_mono d (by omega) (ih _ w.2)

end Sys2Proof.Machine
end

