-- ==== Sys2Proof/Laws/State.lean ====
section
/-! SUPPORT. What each update of the state leaves alone: one lemma per field and update, true by the definition, so that no proof unfolds a
record update; and what reading back the part just written gives. -/

namespace Sys2Proof.Machine

/-! `State.setSlot` changes `slots` only. -/
@[simp] theorem State.setSlot_mem (s : State) (k : Nat) (v : Slot) : (s.setSlot k v).mem = s.mem := rfl
@[simp] theorem State.setSlot_poison (s : State) (k : Nat) (v : Slot) : (s.setSlot k v).poison = s.poison := rfl
@[simp] theorem State.setSlot_fkey (s : State) (k : Nat) (v : Slot) : (s.setSlot k v).fkey = s.fkey := rfl
@[simp] theorem State.setSlot_pads (s : State) (k : Nat) (v : Slot) : (s.setSlot k v).pads = s.pads := rfl
@[simp] theorem State.setSlot_home (s : State) (k : Nat) (v : Slot) : (s.setSlot k v).home = s.home := rfl
@[simp] theorem State.setSlot_l2 (s : State) (k : Nat) (v : Slot) : (s.setSlot k v).l2 = s.l2 := rfl
@[simp] theorem State.setSlot_watches (s : State) (k : Nat) (v : Slot) : (s.setSlot k v).watches = s.watches := rfl
@[simp] theorem State.setSlot_cores (s : State) (k : Nat) (v : Slot) : (s.setSlot k v).cores = s.cores := rfl
@[simp] theorem State.setSlot_sections (s : State) (k : Nat) (v : Slot) : (s.setSlot k v).sections = s.sections := rfl
@[simp] theorem State.setSlot_vfs (s : State) (k : Nat) (v : Slot) : (s.setSlot k v).vfs = s.vfs := rfl
@[simp] theorem State.setSlot_parts (s : State) (k : Nat) (v : Slot) : (s.setSlot k v).parts = s.parts := rfl
@[simp] theorem State.setSlot_dies (s : State) (k : Nat) (v : Slot) : (s.setSlot k v).dies = s.dies := rfl
@[simp] theorem State.setSlot_selvedge (s : State) (k : Nat) (v : Slot) : (s.setSlot k v).selvedge = s.selvedge := rfl
@[simp] theorem State.setSlot_frames (s : State) (k : Nat) (v : Slot) : (s.setSlot k v).frames = s.frames := rfl
@[simp] theorem State.setSlot_queued (s : State) (k : Nat) (v : Slot) : (s.setSlot k v).queued = s.queued := rfl
@[simp] theorem State.setSlot_offers (s : State) (k : Nat) (v : Slot) : (s.setSlot k v).offers = s.offers := rfl
@[simp] theorem State.setSlot_starts (s : State) (k : Nat) (v : Slot) : (s.setSlot k v).starts = s.starts := rfl
@[simp] theorem State.setSlot_heldStarts (s : State) (k : Nat) (v : Slot) : (s.setSlot k v).heldStarts = s.heldStarts := rfl
@[simp] theorem State.setSlot_pushes (s : State) (k : Nat) (v : Slot) : (s.setSlot k v).pushes = s.pushes := rfl
@[simp] theorem State.setSlot_records (s : State) (k : Nat) (v : Slot) : (s.setSlot k v).records = s.records := rfl
@[simp] theorem State.setSlot_awaits (s : State) (k : Nat) (v : Slot) : (s.setSlot k v).awaits = s.awaits := rfl
@[simp] theorem State.setSlot_pulls (s : State) (k : Nat) (v : Slot) : (s.setSlot k v).pulls = s.pulls := rfl
@[simp] theorem State.setSlot_clean (s : State) (k : Nat) (v : Slot) : (s.setSlot k v).clean = s.clean := rfl
@[simp] theorem State.setSlot_requests (s : State) (k : Nat) (v : Slot) : (s.setSlot k v).requests = s.requests := rfl
@[simp] theorem State.setSlot_longs (s : State) (k : Nat) (v : Slot) : (s.setSlot k v).longs = s.longs := rfl
@[simp] theorem State.setSlot_mailbox (s : State) (k : Nat) (v : Slot) : (s.setSlot k v).mailbox = s.mailbox := rfl
@[simp] theorem State.setSlot_epoch (s : State) (k : Nat) (v : Slot) : (s.setSlot k v).epoch = s.epoch := rfl
@[simp] theorem State.setSlot_receiptSerial (s : State) (k : Nat) (v : Slot) : (s.setSlot k v).receiptSerial = s.receiptSerial := rfl
@[simp] theorem State.setSlot_releaseEpochs (s : State) (k : Nat) (v : Slot) : (s.setSlot k v).releaseEpochs = s.releaseEpochs := rfl
@[simp] theorem State.setSlot_frameVfs (s : State) (k : Nat) (v : Slot) : (s.setSlot k v).frameVfs = s.frameVfs := rfl
@[simp] theorem State.setSlot_windows (s : State) (k : Nat) (v : Slot) : (s.setSlot k v).windows = s.windows := rfl
@[simp] theorem State.setSlot_cxlDown (s : State) (k : Nat) (v : Slot) : (s.setSlot k v).cxlDown = s.cxlDown := rfl
@[simp] theorem State.setSlot_ueDown (s : State) (k : Nat) (v : Slot) : (s.setSlot k v).ueDown = s.ueDown := rfl
@[simp] theorem State.setSlot_meshDown (s : State) (k : Nat) (v : Slot) : (s.setSlot k v).meshDown = s.meshDown := rfl
@[simp] theorem State.setSlot_column (s : State) (k : Nat) (v : Slot) : (s.setSlot k v).column = s.column := rfl
@[simp] theorem State.setSlot_heartbeats (s : State) (k : Nat) (v : Slot) : (s.setSlot k v).heartbeats = s.heartbeats := rfl
@[simp] theorem State.setSlot_errata (s : State) (k : Nat) (v : Slot) : (s.setSlot k v).errata = s.errata := rfl
@[simp] theorem State.setSlot_fusedSerial (s : State) (k : Nat) (v : Slot) : (s.setSlot k v).fusedSerial = s.fusedSerial := rfl
@[simp] theorem State.setSlot_identityTrusted (s : State) (k : Nat) (v : Slot) : (s.setSlot k v).identityTrusted = s.identityTrusted := rfl
@[simp] theorem State.setSlot_ilyonoReason (s : State) (k : Nat) (v : Slot) : (s.setSlot k v).ilyonoReason = s.ilyonoReason := rfl
@[simp] theorem State.setSlot_securityDown (s : State) (k : Nat) (v : Slot) : (s.setSlot k v).securityDown = s.securityDown := rfl
@[simp] theorem State.setSlot_ready (s : State) (k : Nat) (v : Slot) : (s.setSlot k v).ready = s.ready := rfl
@[simp] theorem State.setSlot_fatal (s : State) (k : Nat) (v : Slot) : (s.setSlot k v).fatal = s.fatal := rfl
@[simp] theorem State.setSlot_pfVector (s : State) (k : Nat) (v : Slot) : (s.setSlot k v).pfVector = s.pfVector := rfl
@[simp] theorem State.setSlot_dump (s : State) (k : Nat) (v : Slot) : (s.setSlot k v).dump = s.dump := rfl
@[simp] theorem State.setSlot_logSelect (s : State) (k : Nat) (v : Slot) : (s.setSlot k v).logSelect = s.logSelect := rfl
@[simp] theorem State.setSlot_logWindow (s : State) (k : Nat) (v : Slot) : (s.setSlot k v).logWindow = s.logWindow := rfl
@[simp] theorem State.setSlot_throttle (s : State) (k : Nat) (v : Slot) : (s.setSlot k v).throttle = s.throttle := rfl
@[simp] theorem State.setSlot_fwLeaves (s : State) (k : Nat) (v : Slot) : (s.setSlot k v).fwLeaves = s.fwLeaves := rfl
@[simp] theorem State.setSlot_spares (s : State) (k : Nat) (v : Slot) : (s.setSlot k v).spares = s.spares := rfl
@[simp] theorem State.setSlot_doe (s : State) (k : Nat) (v : Slot) : (s.setSlot k v).doe = s.doe := rfl
@[simp] theorem State.setSlot_cycle (s : State) (k : Nat) (v : Slot) : (s.setSlot k v).cycle = s.cycle := rfl
@[simp] theorem State.setSlot_arith (s : State) (k : Nat) (v : Slot) : (s.setSlot k v).arith = s.arith := rfl
@[simp] theorem State.setSlot_order (s : State) (k : Nat) (v : Slot) : (s.setSlot k v).order = s.order := rfl
@[simp] theorem State.setSlot_agenda (s : State) (k : Nat) (v : Slot) : (s.setSlot k v).agenda = s.agenda := rfl
@[simp] theorem State.setSlot_focus (s : State) (k : Nat) (v : Slot) : (s.setSlot k v).focus = s.focus := rfl
@[simp] theorem State.setSlot_subject (s : State) (k : Nat) (v : Slot) : (s.setSlot k v).subject = s.subject := rfl
@[simp] theorem State.setSlot_eager (s : State) (k : Nat) (v : Slot) : (s.setSlot k v).eager = s.eager := rfl
@[simp] theorem State.setSlot_elems (s : State) (k : Nat) (v : Slot) : (s.setSlot k v).elems = s.elems := rfl
@[simp] theorem State.setSlot_engines (s : State) (k : Nat) (v : Slot) : (s.setSlot k v).engines = s.engines := rfl
@[simp] theorem State.setSlot_fresh (s : State) (k : Nat) (v : Slot) : (s.setSlot k v).fresh = s.fresh := rfl
/-! `State.updSlot` changes `slots` only. -/
@[simp] theorem State.updSlot_mem (s : State) (k : Nat) (f : Slot → Slot) : (s.updSlot k f).mem = s.mem := rfl
@[simp] theorem State.updSlot_poison (s : State) (k : Nat) (f : Slot → Slot) : (s.updSlot k f).poison = s.poison := rfl
@[simp] theorem State.updSlot_fkey (s : State) (k : Nat) (f : Slot → Slot) : (s.updSlot k f).fkey = s.fkey := rfl
@[simp] theorem State.updSlot_pads (s : State) (k : Nat) (f : Slot → Slot) : (s.updSlot k f).pads = s.pads := rfl
@[simp] theorem State.updSlot_home (s : State) (k : Nat) (f : Slot → Slot) : (s.updSlot k f).home = s.home := rfl
@[simp] theorem State.updSlot_l2 (s : State) (k : Nat) (f : Slot → Slot) : (s.updSlot k f).l2 = s.l2 := rfl
@[simp] theorem State.updSlot_watches (s : State) (k : Nat) (f : Slot → Slot) : (s.updSlot k f).watches = s.watches := rfl
@[simp] theorem State.updSlot_cores (s : State) (k : Nat) (f : Slot → Slot) : (s.updSlot k f).cores = s.cores := rfl
@[simp] theorem State.updSlot_sections (s : State) (k : Nat) (f : Slot → Slot) : (s.updSlot k f).sections = s.sections := rfl
@[simp] theorem State.updSlot_vfs (s : State) (k : Nat) (f : Slot → Slot) : (s.updSlot k f).vfs = s.vfs := rfl
@[simp] theorem State.updSlot_parts (s : State) (k : Nat) (f : Slot → Slot) : (s.updSlot k f).parts = s.parts := rfl
@[simp] theorem State.updSlot_dies (s : State) (k : Nat) (f : Slot → Slot) : (s.updSlot k f).dies = s.dies := rfl
@[simp] theorem State.updSlot_selvedge (s : State) (k : Nat) (f : Slot → Slot) : (s.updSlot k f).selvedge = s.selvedge := rfl
@[simp] theorem State.updSlot_frames (s : State) (k : Nat) (f : Slot → Slot) : (s.updSlot k f).frames = s.frames := rfl
@[simp] theorem State.updSlot_queued (s : State) (k : Nat) (f : Slot → Slot) : (s.updSlot k f).queued = s.queued := rfl
@[simp] theorem State.updSlot_offers (s : State) (k : Nat) (f : Slot → Slot) : (s.updSlot k f).offers = s.offers := rfl
@[simp] theorem State.updSlot_starts (s : State) (k : Nat) (f : Slot → Slot) : (s.updSlot k f).starts = s.starts := rfl
@[simp] theorem State.updSlot_heldStarts (s : State) (k : Nat) (f : Slot → Slot) : (s.updSlot k f).heldStarts = s.heldStarts := rfl
@[simp] theorem State.updSlot_pushes (s : State) (k : Nat) (f : Slot → Slot) : (s.updSlot k f).pushes = s.pushes := rfl
@[simp] theorem State.updSlot_records (s : State) (k : Nat) (f : Slot → Slot) : (s.updSlot k f).records = s.records := rfl
@[simp] theorem State.updSlot_awaits (s : State) (k : Nat) (f : Slot → Slot) : (s.updSlot k f).awaits = s.awaits := rfl
@[simp] theorem State.updSlot_pulls (s : State) (k : Nat) (f : Slot → Slot) : (s.updSlot k f).pulls = s.pulls := rfl
@[simp] theorem State.updSlot_clean (s : State) (k : Nat) (f : Slot → Slot) : (s.updSlot k f).clean = s.clean := rfl
@[simp] theorem State.updSlot_requests (s : State) (k : Nat) (f : Slot → Slot) : (s.updSlot k f).requests = s.requests := rfl
@[simp] theorem State.updSlot_longs (s : State) (k : Nat) (f : Slot → Slot) : (s.updSlot k f).longs = s.longs := rfl
@[simp] theorem State.updSlot_mailbox (s : State) (k : Nat) (f : Slot → Slot) : (s.updSlot k f).mailbox = s.mailbox := rfl
@[simp] theorem State.updSlot_epoch (s : State) (k : Nat) (f : Slot → Slot) : (s.updSlot k f).epoch = s.epoch := rfl
@[simp] theorem State.updSlot_receiptSerial (s : State) (k : Nat) (f : Slot → Slot) : (s.updSlot k f).receiptSerial = s.receiptSerial := rfl
@[simp] theorem State.updSlot_releaseEpochs (s : State) (k : Nat) (f : Slot → Slot) : (s.updSlot k f).releaseEpochs = s.releaseEpochs := rfl
@[simp] theorem State.updSlot_frameVfs (s : State) (k : Nat) (f : Slot → Slot) : (s.updSlot k f).frameVfs = s.frameVfs := rfl
@[simp] theorem State.updSlot_windows (s : State) (k : Nat) (f : Slot → Slot) : (s.updSlot k f).windows = s.windows := rfl
@[simp] theorem State.updSlot_cxlDown (s : State) (k : Nat) (f : Slot → Slot) : (s.updSlot k f).cxlDown = s.cxlDown := rfl
@[simp] theorem State.updSlot_ueDown (s : State) (k : Nat) (f : Slot → Slot) : (s.updSlot k f).ueDown = s.ueDown := rfl
@[simp] theorem State.updSlot_meshDown (s : State) (k : Nat) (f : Slot → Slot) : (s.updSlot k f).meshDown = s.meshDown := rfl
@[simp] theorem State.updSlot_column (s : State) (k : Nat) (f : Slot → Slot) : (s.updSlot k f).column = s.column := rfl
@[simp] theorem State.updSlot_heartbeats (s : State) (k : Nat) (f : Slot → Slot) : (s.updSlot k f).heartbeats = s.heartbeats := rfl
@[simp] theorem State.updSlot_errata (s : State) (k : Nat) (f : Slot → Slot) : (s.updSlot k f).errata = s.errata := rfl
@[simp] theorem State.updSlot_fusedSerial (s : State) (k : Nat) (f : Slot → Slot) : (s.updSlot k f).fusedSerial = s.fusedSerial := rfl
@[simp] theorem State.updSlot_identityTrusted (s : State) (k : Nat) (f : Slot → Slot) : (s.updSlot k f).identityTrusted = s.identityTrusted := rfl
@[simp] theorem State.updSlot_ilyonoReason (s : State) (k : Nat) (f : Slot → Slot) : (s.updSlot k f).ilyonoReason = s.ilyonoReason := rfl
@[simp] theorem State.updSlot_securityDown (s : State) (k : Nat) (f : Slot → Slot) : (s.updSlot k f).securityDown = s.securityDown := rfl
@[simp] theorem State.updSlot_ready (s : State) (k : Nat) (f : Slot → Slot) : (s.updSlot k f).ready = s.ready := rfl
@[simp] theorem State.updSlot_fatal (s : State) (k : Nat) (f : Slot → Slot) : (s.updSlot k f).fatal = s.fatal := rfl
@[simp] theorem State.updSlot_pfVector (s : State) (k : Nat) (f : Slot → Slot) : (s.updSlot k f).pfVector = s.pfVector := rfl
@[simp] theorem State.updSlot_dump (s : State) (k : Nat) (f : Slot → Slot) : (s.updSlot k f).dump = s.dump := rfl
@[simp] theorem State.updSlot_logSelect (s : State) (k : Nat) (f : Slot → Slot) : (s.updSlot k f).logSelect = s.logSelect := rfl
@[simp] theorem State.updSlot_logWindow (s : State) (k : Nat) (f : Slot → Slot) : (s.updSlot k f).logWindow = s.logWindow := rfl
@[simp] theorem State.updSlot_throttle (s : State) (k : Nat) (f : Slot → Slot) : (s.updSlot k f).throttle = s.throttle := rfl
@[simp] theorem State.updSlot_fwLeaves (s : State) (k : Nat) (f : Slot → Slot) : (s.updSlot k f).fwLeaves = s.fwLeaves := rfl
@[simp] theorem State.updSlot_spares (s : State) (k : Nat) (f : Slot → Slot) : (s.updSlot k f).spares = s.spares := rfl
@[simp] theorem State.updSlot_doe (s : State) (k : Nat) (f : Slot → Slot) : (s.updSlot k f).doe = s.doe := rfl
@[simp] theorem State.updSlot_cycle (s : State) (k : Nat) (f : Slot → Slot) : (s.updSlot k f).cycle = s.cycle := rfl
@[simp] theorem State.updSlot_arith (s : State) (k : Nat) (f : Slot → Slot) : (s.updSlot k f).arith = s.arith := rfl
@[simp] theorem State.updSlot_order (s : State) (k : Nat) (f : Slot → Slot) : (s.updSlot k f).order = s.order := rfl
@[simp] theorem State.updSlot_agenda (s : State) (k : Nat) (f : Slot → Slot) : (s.updSlot k f).agenda = s.agenda := rfl
@[simp] theorem State.updSlot_focus (s : State) (k : Nat) (f : Slot → Slot) : (s.updSlot k f).focus = s.focus := rfl
@[simp] theorem State.updSlot_subject (s : State) (k : Nat) (f : Slot → Slot) : (s.updSlot k f).subject = s.subject := rfl
@[simp] theorem State.updSlot_eager (s : State) (k : Nat) (f : Slot → Slot) : (s.updSlot k f).eager = s.eager := rfl
@[simp] theorem State.updSlot_elems (s : State) (k : Nat) (f : Slot → Slot) : (s.updSlot k f).elems = s.elems := rfl
@[simp] theorem State.updSlot_engines (s : State) (k : Nat) (f : Slot → Slot) : (s.updSlot k f).engines = s.engines := rfl
@[simp] theorem State.updSlot_fresh (s : State) (k : Nat) (f : Slot → Slot) : (s.updSlot k f).fresh = s.fresh := rfl
/-! `State.updMe` changes `slots` only. -/
@[simp] theorem State.updMe_mem (s : State) (f : Slot → Slot) : (s.updMe f).mem = s.mem := rfl
@[simp] theorem State.updMe_poison (s : State) (f : Slot → Slot) : (s.updMe f).poison = s.poison := rfl
@[simp] theorem State.updMe_fkey (s : State) (f : Slot → Slot) : (s.updMe f).fkey = s.fkey := rfl
@[simp] theorem State.updMe_pads (s : State) (f : Slot → Slot) : (s.updMe f).pads = s.pads := rfl
@[simp] theorem State.updMe_home (s : State) (f : Slot → Slot) : (s.updMe f).home = s.home := rfl
@[simp] theorem State.updMe_l2 (s : State) (f : Slot → Slot) : (s.updMe f).l2 = s.l2 := rfl
@[simp] theorem State.updMe_watches (s : State) (f : Slot → Slot) : (s.updMe f).watches = s.watches := rfl
@[simp] theorem State.updMe_cores (s : State) (f : Slot → Slot) : (s.updMe f).cores = s.cores := rfl
@[simp] theorem State.updMe_sections (s : State) (f : Slot → Slot) : (s.updMe f).sections = s.sections := rfl
@[simp] theorem State.updMe_vfs (s : State) (f : Slot → Slot) : (s.updMe f).vfs = s.vfs := rfl
@[simp] theorem State.updMe_parts (s : State) (f : Slot → Slot) : (s.updMe f).parts = s.parts := rfl
@[simp] theorem State.updMe_dies (s : State) (f : Slot → Slot) : (s.updMe f).dies = s.dies := rfl
@[simp] theorem State.updMe_selvedge (s : State) (f : Slot → Slot) : (s.updMe f).selvedge = s.selvedge := rfl
@[simp] theorem State.updMe_frames (s : State) (f : Slot → Slot) : (s.updMe f).frames = s.frames := rfl
@[simp] theorem State.updMe_queued (s : State) (f : Slot → Slot) : (s.updMe f).queued = s.queued := rfl
@[simp] theorem State.updMe_offers (s : State) (f : Slot → Slot) : (s.updMe f).offers = s.offers := rfl
@[simp] theorem State.updMe_starts (s : State) (f : Slot → Slot) : (s.updMe f).starts = s.starts := rfl
@[simp] theorem State.updMe_heldStarts (s : State) (f : Slot → Slot) : (s.updMe f).heldStarts = s.heldStarts := rfl
@[simp] theorem State.updMe_pushes (s : State) (f : Slot → Slot) : (s.updMe f).pushes = s.pushes := rfl
@[simp] theorem State.updMe_records (s : State) (f : Slot → Slot) : (s.updMe f).records = s.records := rfl
@[simp] theorem State.updMe_awaits (s : State) (f : Slot → Slot) : (s.updMe f).awaits = s.awaits := rfl
@[simp] theorem State.updMe_pulls (s : State) (f : Slot → Slot) : (s.updMe f).pulls = s.pulls := rfl
@[simp] theorem State.updMe_clean (s : State) (f : Slot → Slot) : (s.updMe f).clean = s.clean := rfl
@[simp] theorem State.updMe_requests (s : State) (f : Slot → Slot) : (s.updMe f).requests = s.requests := rfl
@[simp] theorem State.updMe_longs (s : State) (f : Slot → Slot) : (s.updMe f).longs = s.longs := rfl
@[simp] theorem State.updMe_mailbox (s : State) (f : Slot → Slot) : (s.updMe f).mailbox = s.mailbox := rfl
@[simp] theorem State.updMe_epoch (s : State) (f : Slot → Slot) : (s.updMe f).epoch = s.epoch := rfl
@[simp] theorem State.updMe_receiptSerial (s : State) (f : Slot → Slot) : (s.updMe f).receiptSerial = s.receiptSerial := rfl
@[simp] theorem State.updMe_releaseEpochs (s : State) (f : Slot → Slot) : (s.updMe f).releaseEpochs = s.releaseEpochs := rfl
@[simp] theorem State.updMe_frameVfs (s : State) (f : Slot → Slot) : (s.updMe f).frameVfs = s.frameVfs := rfl
@[simp] theorem State.updMe_windows (s : State) (f : Slot → Slot) : (s.updMe f).windows = s.windows := rfl
@[simp] theorem State.updMe_cxlDown (s : State) (f : Slot → Slot) : (s.updMe f).cxlDown = s.cxlDown := rfl
@[simp] theorem State.updMe_ueDown (s : State) (f : Slot → Slot) : (s.updMe f).ueDown = s.ueDown := rfl
@[simp] theorem State.updMe_meshDown (s : State) (f : Slot → Slot) : (s.updMe f).meshDown = s.meshDown := rfl
@[simp] theorem State.updMe_column (s : State) (f : Slot → Slot) : (s.updMe f).column = s.column := rfl
@[simp] theorem State.updMe_heartbeats (s : State) (f : Slot → Slot) : (s.updMe f).heartbeats = s.heartbeats := rfl
@[simp] theorem State.updMe_errata (s : State) (f : Slot → Slot) : (s.updMe f).errata = s.errata := rfl
@[simp] theorem State.updMe_fusedSerial (s : State) (f : Slot → Slot) : (s.updMe f).fusedSerial = s.fusedSerial := rfl
@[simp] theorem State.updMe_identityTrusted (s : State) (f : Slot → Slot) : (s.updMe f).identityTrusted = s.identityTrusted := rfl
@[simp] theorem State.updMe_ilyonoReason (s : State) (f : Slot → Slot) : (s.updMe f).ilyonoReason = s.ilyonoReason := rfl
@[simp] theorem State.updMe_securityDown (s : State) (f : Slot → Slot) : (s.updMe f).securityDown = s.securityDown := rfl
@[simp] theorem State.updMe_ready (s : State) (f : Slot → Slot) : (s.updMe f).ready = s.ready := rfl
@[simp] theorem State.updMe_fatal (s : State) (f : Slot → Slot) : (s.updMe f).fatal = s.fatal := rfl
@[simp] theorem State.updMe_pfVector (s : State) (f : Slot → Slot) : (s.updMe f).pfVector = s.pfVector := rfl
@[simp] theorem State.updMe_dump (s : State) (f : Slot → Slot) : (s.updMe f).dump = s.dump := rfl
@[simp] theorem State.updMe_logSelect (s : State) (f : Slot → Slot) : (s.updMe f).logSelect = s.logSelect := rfl
@[simp] theorem State.updMe_logWindow (s : State) (f : Slot → Slot) : (s.updMe f).logWindow = s.logWindow := rfl
@[simp] theorem State.updMe_throttle (s : State) (f : Slot → Slot) : (s.updMe f).throttle = s.throttle := rfl
@[simp] theorem State.updMe_fwLeaves (s : State) (f : Slot → Slot) : (s.updMe f).fwLeaves = s.fwLeaves := rfl
@[simp] theorem State.updMe_spares (s : State) (f : Slot → Slot) : (s.updMe f).spares = s.spares := rfl
@[simp] theorem State.updMe_doe (s : State) (f : Slot → Slot) : (s.updMe f).doe = s.doe := rfl
@[simp] theorem State.updMe_cycle (s : State) (f : Slot → Slot) : (s.updMe f).cycle = s.cycle := rfl
@[simp] theorem State.updMe_arith (s : State) (f : Slot → Slot) : (s.updMe f).arith = s.arith := rfl
@[simp] theorem State.updMe_order (s : State) (f : Slot → Slot) : (s.updMe f).order = s.order := rfl
@[simp] theorem State.updMe_agenda (s : State) (f : Slot → Slot) : (s.updMe f).agenda = s.agenda := rfl
@[simp] theorem State.updMe_focus (s : State) (f : Slot → Slot) : (s.updMe f).focus = s.focus := rfl
@[simp] theorem State.updMe_subject (s : State) (f : Slot → Slot) : (s.updMe f).subject = s.subject := rfl
@[simp] theorem State.updMe_eager (s : State) (f : Slot → Slot) : (s.updMe f).eager = s.eager := rfl
@[simp] theorem State.updMe_elems (s : State) (f : Slot → Slot) : (s.updMe f).elems = s.elems := rfl
@[simp] theorem State.updMe_engines (s : State) (f : Slot → Slot) : (s.updMe f).engines = s.engines := rfl
@[simp] theorem State.updMe_fresh (s : State) (f : Slot → Slot) : (s.updMe f).fresh = s.fresh := rfl
/-! `State.updSh` changes `slots` only. -/
@[simp] theorem State.updSh_mem (s : State) (f : Shuttle → Shuttle) : (s.updSh f).mem = s.mem := rfl
@[simp] theorem State.updSh_poison (s : State) (f : Shuttle → Shuttle) : (s.updSh f).poison = s.poison := rfl
@[simp] theorem State.updSh_fkey (s : State) (f : Shuttle → Shuttle) : (s.updSh f).fkey = s.fkey := rfl
@[simp] theorem State.updSh_pads (s : State) (f : Shuttle → Shuttle) : (s.updSh f).pads = s.pads := rfl
@[simp] theorem State.updSh_home (s : State) (f : Shuttle → Shuttle) : (s.updSh f).home = s.home := rfl
@[simp] theorem State.updSh_l2 (s : State) (f : Shuttle → Shuttle) : (s.updSh f).l2 = s.l2 := rfl
@[simp] theorem State.updSh_watches (s : State) (f : Shuttle → Shuttle) : (s.updSh f).watches = s.watches := rfl
@[simp] theorem State.updSh_cores (s : State) (f : Shuttle → Shuttle) : (s.updSh f).cores = s.cores := rfl
@[simp] theorem State.updSh_sections (s : State) (f : Shuttle → Shuttle) : (s.updSh f).sections = s.sections := rfl
@[simp] theorem State.updSh_vfs (s : State) (f : Shuttle → Shuttle) : (s.updSh f).vfs = s.vfs := rfl
@[simp] theorem State.updSh_parts (s : State) (f : Shuttle → Shuttle) : (s.updSh f).parts = s.parts := rfl
@[simp] theorem State.updSh_dies (s : State) (f : Shuttle → Shuttle) : (s.updSh f).dies = s.dies := rfl
@[simp] theorem State.updSh_selvedge (s : State) (f : Shuttle → Shuttle) : (s.updSh f).selvedge = s.selvedge := rfl
@[simp] theorem State.updSh_frames (s : State) (f : Shuttle → Shuttle) : (s.updSh f).frames = s.frames := rfl
@[simp] theorem State.updSh_queued (s : State) (f : Shuttle → Shuttle) : (s.updSh f).queued = s.queued := rfl
@[simp] theorem State.updSh_offers (s : State) (f : Shuttle → Shuttle) : (s.updSh f).offers = s.offers := rfl
@[simp] theorem State.updSh_starts (s : State) (f : Shuttle → Shuttle) : (s.updSh f).starts = s.starts := rfl
@[simp] theorem State.updSh_heldStarts (s : State) (f : Shuttle → Shuttle) : (s.updSh f).heldStarts = s.heldStarts := rfl
@[simp] theorem State.updSh_pushes (s : State) (f : Shuttle → Shuttle) : (s.updSh f).pushes = s.pushes := rfl
@[simp] theorem State.updSh_records (s : State) (f : Shuttle → Shuttle) : (s.updSh f).records = s.records := rfl
@[simp] theorem State.updSh_awaits (s : State) (f : Shuttle → Shuttle) : (s.updSh f).awaits = s.awaits := rfl
@[simp] theorem State.updSh_pulls (s : State) (f : Shuttle → Shuttle) : (s.updSh f).pulls = s.pulls := rfl
@[simp] theorem State.updSh_clean (s : State) (f : Shuttle → Shuttle) : (s.updSh f).clean = s.clean := rfl
@[simp] theorem State.updSh_requests (s : State) (f : Shuttle → Shuttle) : (s.updSh f).requests = s.requests := rfl
@[simp] theorem State.updSh_longs (s : State) (f : Shuttle → Shuttle) : (s.updSh f).longs = s.longs := rfl
@[simp] theorem State.updSh_mailbox (s : State) (f : Shuttle → Shuttle) : (s.updSh f).mailbox = s.mailbox := rfl
@[simp] theorem State.updSh_epoch (s : State) (f : Shuttle → Shuttle) : (s.updSh f).epoch = s.epoch := rfl
@[simp] theorem State.updSh_receiptSerial (s : State) (f : Shuttle → Shuttle) : (s.updSh f).receiptSerial = s.receiptSerial := rfl
@[simp] theorem State.updSh_releaseEpochs (s : State) (f : Shuttle → Shuttle) : (s.updSh f).releaseEpochs = s.releaseEpochs := rfl
@[simp] theorem State.updSh_frameVfs (s : State) (f : Shuttle → Shuttle) : (s.updSh f).frameVfs = s.frameVfs := rfl
@[simp] theorem State.updSh_windows (s : State) (f : Shuttle → Shuttle) : (s.updSh f).windows = s.windows := rfl
@[simp] theorem State.updSh_cxlDown (s : State) (f : Shuttle → Shuttle) : (s.updSh f).cxlDown = s.cxlDown := rfl
@[simp] theorem State.updSh_ueDown (s : State) (f : Shuttle → Shuttle) : (s.updSh f).ueDown = s.ueDown := rfl
@[simp] theorem State.updSh_meshDown (s : State) (f : Shuttle → Shuttle) : (s.updSh f).meshDown = s.meshDown := rfl
@[simp] theorem State.updSh_column (s : State) (f : Shuttle → Shuttle) : (s.updSh f).column = s.column := rfl
@[simp] theorem State.updSh_heartbeats (s : State) (f : Shuttle → Shuttle) : (s.updSh f).heartbeats = s.heartbeats := rfl
@[simp] theorem State.updSh_errata (s : State) (f : Shuttle → Shuttle) : (s.updSh f).errata = s.errata := rfl
@[simp] theorem State.updSh_fusedSerial (s : State) (f : Shuttle → Shuttle) : (s.updSh f).fusedSerial = s.fusedSerial := rfl
@[simp] theorem State.updSh_identityTrusted (s : State) (f : Shuttle → Shuttle) : (s.updSh f).identityTrusted = s.identityTrusted := rfl
@[simp] theorem State.updSh_ilyonoReason (s : State) (f : Shuttle → Shuttle) : (s.updSh f).ilyonoReason = s.ilyonoReason := rfl
@[simp] theorem State.updSh_securityDown (s : State) (f : Shuttle → Shuttle) : (s.updSh f).securityDown = s.securityDown := rfl
@[simp] theorem State.updSh_ready (s : State) (f : Shuttle → Shuttle) : (s.updSh f).ready = s.ready := rfl
@[simp] theorem State.updSh_fatal (s : State) (f : Shuttle → Shuttle) : (s.updSh f).fatal = s.fatal := rfl
@[simp] theorem State.updSh_pfVector (s : State) (f : Shuttle → Shuttle) : (s.updSh f).pfVector = s.pfVector := rfl
@[simp] theorem State.updSh_dump (s : State) (f : Shuttle → Shuttle) : (s.updSh f).dump = s.dump := rfl
@[simp] theorem State.updSh_logSelect (s : State) (f : Shuttle → Shuttle) : (s.updSh f).logSelect = s.logSelect := rfl
@[simp] theorem State.updSh_logWindow (s : State) (f : Shuttle → Shuttle) : (s.updSh f).logWindow = s.logWindow := rfl
@[simp] theorem State.updSh_throttle (s : State) (f : Shuttle → Shuttle) : (s.updSh f).throttle = s.throttle := rfl
@[simp] theorem State.updSh_fwLeaves (s : State) (f : Shuttle → Shuttle) : (s.updSh f).fwLeaves = s.fwLeaves := rfl
@[simp] theorem State.updSh_spares (s : State) (f : Shuttle → Shuttle) : (s.updSh f).spares = s.spares := rfl
@[simp] theorem State.updSh_doe (s : State) (f : Shuttle → Shuttle) : (s.updSh f).doe = s.doe := rfl
@[simp] theorem State.updSh_cycle (s : State) (f : Shuttle → Shuttle) : (s.updSh f).cycle = s.cycle := rfl
@[simp] theorem State.updSh_arith (s : State) (f : Shuttle → Shuttle) : (s.updSh f).arith = s.arith := rfl
@[simp] theorem State.updSh_order (s : State) (f : Shuttle → Shuttle) : (s.updSh f).order = s.order := rfl
@[simp] theorem State.updSh_agenda (s : State) (f : Shuttle → Shuttle) : (s.updSh f).agenda = s.agenda := rfl
@[simp] theorem State.updSh_focus (s : State) (f : Shuttle → Shuttle) : (s.updSh f).focus = s.focus := rfl
@[simp] theorem State.updSh_subject (s : State) (f : Shuttle → Shuttle) : (s.updSh f).subject = s.subject := rfl
@[simp] theorem State.updSh_eager (s : State) (f : Shuttle → Shuttle) : (s.updSh f).eager = s.eager := rfl
@[simp] theorem State.updSh_elems (s : State) (f : Shuttle → Shuttle) : (s.updSh f).elems = s.elems := rfl
@[simp] theorem State.updSh_engines (s : State) (f : Shuttle → Shuttle) : (s.updSh f).engines = s.engines := rfl
@[simp] theorem State.updSh_fresh (s : State) (f : Shuttle → Shuttle) : (s.updSh f).fresh = s.fresh := rfl
/-! `State.setX` changes `slots` only. -/
@[simp] theorem State.setX_mem (s : State) (r : XReg) (v : Word) : (s.setX r v).mem = s.mem := rfl
@[simp] theorem State.setX_poison (s : State) (r : XReg) (v : Word) : (s.setX r v).poison = s.poison := rfl
@[simp] theorem State.setX_fkey (s : State) (r : XReg) (v : Word) : (s.setX r v).fkey = s.fkey := rfl
@[simp] theorem State.setX_pads (s : State) (r : XReg) (v : Word) : (s.setX r v).pads = s.pads := rfl
@[simp] theorem State.setX_home (s : State) (r : XReg) (v : Word) : (s.setX r v).home = s.home := rfl
@[simp] theorem State.setX_l2 (s : State) (r : XReg) (v : Word) : (s.setX r v).l2 = s.l2 := rfl
@[simp] theorem State.setX_watches (s : State) (r : XReg) (v : Word) : (s.setX r v).watches = s.watches := rfl
@[simp] theorem State.setX_cores (s : State) (r : XReg) (v : Word) : (s.setX r v).cores = s.cores := rfl
@[simp] theorem State.setX_sections (s : State) (r : XReg) (v : Word) : (s.setX r v).sections = s.sections := rfl
@[simp] theorem State.setX_vfs (s : State) (r : XReg) (v : Word) : (s.setX r v).vfs = s.vfs := rfl
@[simp] theorem State.setX_parts (s : State) (r : XReg) (v : Word) : (s.setX r v).parts = s.parts := rfl
@[simp] theorem State.setX_dies (s : State) (r : XReg) (v : Word) : (s.setX r v).dies = s.dies := rfl
@[simp] theorem State.setX_selvedge (s : State) (r : XReg) (v : Word) : (s.setX r v).selvedge = s.selvedge := rfl
@[simp] theorem State.setX_frames (s : State) (r : XReg) (v : Word) : (s.setX r v).frames = s.frames := rfl
@[simp] theorem State.setX_queued (s : State) (r : XReg) (v : Word) : (s.setX r v).queued = s.queued := rfl
@[simp] theorem State.setX_offers (s : State) (r : XReg) (v : Word) : (s.setX r v).offers = s.offers := rfl
@[simp] theorem State.setX_starts (s : State) (r : XReg) (v : Word) : (s.setX r v).starts = s.starts := rfl
@[simp] theorem State.setX_heldStarts (s : State) (r : XReg) (v : Word) : (s.setX r v).heldStarts = s.heldStarts := rfl
@[simp] theorem State.setX_pushes (s : State) (r : XReg) (v : Word) : (s.setX r v).pushes = s.pushes := rfl
@[simp] theorem State.setX_records (s : State) (r : XReg) (v : Word) : (s.setX r v).records = s.records := rfl
@[simp] theorem State.setX_awaits (s : State) (r : XReg) (v : Word) : (s.setX r v).awaits = s.awaits := rfl
@[simp] theorem State.setX_pulls (s : State) (r : XReg) (v : Word) : (s.setX r v).pulls = s.pulls := rfl
@[simp] theorem State.setX_clean (s : State) (r : XReg) (v : Word) : (s.setX r v).clean = s.clean := rfl
@[simp] theorem State.setX_requests (s : State) (r : XReg) (v : Word) : (s.setX r v).requests = s.requests := rfl
@[simp] theorem State.setX_longs (s : State) (r : XReg) (v : Word) : (s.setX r v).longs = s.longs := rfl
@[simp] theorem State.setX_mailbox (s : State) (r : XReg) (v : Word) : (s.setX r v).mailbox = s.mailbox := rfl
@[simp] theorem State.setX_epoch (s : State) (r : XReg) (v : Word) : (s.setX r v).epoch = s.epoch := rfl
@[simp] theorem State.setX_receiptSerial (s : State) (r : XReg) (v : Word) : (s.setX r v).receiptSerial = s.receiptSerial := rfl
@[simp] theorem State.setX_releaseEpochs (s : State) (r : XReg) (v : Word) : (s.setX r v).releaseEpochs = s.releaseEpochs := rfl
@[simp] theorem State.setX_frameVfs (s : State) (r : XReg) (v : Word) : (s.setX r v).frameVfs = s.frameVfs := rfl
@[simp] theorem State.setX_windows (s : State) (r : XReg) (v : Word) : (s.setX r v).windows = s.windows := rfl
@[simp] theorem State.setX_cxlDown (s : State) (r : XReg) (v : Word) : (s.setX r v).cxlDown = s.cxlDown := rfl
@[simp] theorem State.setX_ueDown (s : State) (r : XReg) (v : Word) : (s.setX r v).ueDown = s.ueDown := rfl
@[simp] theorem State.setX_meshDown (s : State) (r : XReg) (v : Word) : (s.setX r v).meshDown = s.meshDown := rfl
@[simp] theorem State.setX_column (s : State) (r : XReg) (v : Word) : (s.setX r v).column = s.column := rfl
@[simp] theorem State.setX_heartbeats (s : State) (r : XReg) (v : Word) : (s.setX r v).heartbeats = s.heartbeats := rfl
@[simp] theorem State.setX_errata (s : State) (r : XReg) (v : Word) : (s.setX r v).errata = s.errata := rfl
@[simp] theorem State.setX_fusedSerial (s : State) (r : XReg) (v : Word) : (s.setX r v).fusedSerial = s.fusedSerial := rfl
@[simp] theorem State.setX_identityTrusted (s : State) (r : XReg) (v : Word) : (s.setX r v).identityTrusted = s.identityTrusted := rfl
@[simp] theorem State.setX_ilyonoReason (s : State) (r : XReg) (v : Word) : (s.setX r v).ilyonoReason = s.ilyonoReason := rfl
@[simp] theorem State.setX_securityDown (s : State) (r : XReg) (v : Word) : (s.setX r v).securityDown = s.securityDown := rfl
@[simp] theorem State.setX_ready (s : State) (r : XReg) (v : Word) : (s.setX r v).ready = s.ready := rfl
@[simp] theorem State.setX_fatal (s : State) (r : XReg) (v : Word) : (s.setX r v).fatal = s.fatal := rfl
@[simp] theorem State.setX_pfVector (s : State) (r : XReg) (v : Word) : (s.setX r v).pfVector = s.pfVector := rfl
@[simp] theorem State.setX_dump (s : State) (r : XReg) (v : Word) : (s.setX r v).dump = s.dump := rfl
@[simp] theorem State.setX_logSelect (s : State) (r : XReg) (v : Word) : (s.setX r v).logSelect = s.logSelect := rfl
@[simp] theorem State.setX_logWindow (s : State) (r : XReg) (v : Word) : (s.setX r v).logWindow = s.logWindow := rfl
@[simp] theorem State.setX_throttle (s : State) (r : XReg) (v : Word) : (s.setX r v).throttle = s.throttle := rfl
@[simp] theorem State.setX_fwLeaves (s : State) (r : XReg) (v : Word) : (s.setX r v).fwLeaves = s.fwLeaves := rfl
@[simp] theorem State.setX_spares (s : State) (r : XReg) (v : Word) : (s.setX r v).spares = s.spares := rfl
@[simp] theorem State.setX_doe (s : State) (r : XReg) (v : Word) : (s.setX r v).doe = s.doe := rfl
@[simp] theorem State.setX_cycle (s : State) (r : XReg) (v : Word) : (s.setX r v).cycle = s.cycle := rfl
@[simp] theorem State.setX_arith (s : State) (r : XReg) (v : Word) : (s.setX r v).arith = s.arith := rfl
@[simp] theorem State.setX_order (s : State) (r : XReg) (v : Word) : (s.setX r v).order = s.order := rfl
@[simp] theorem State.setX_agenda (s : State) (r : XReg) (v : Word) : (s.setX r v).agenda = s.agenda := rfl
@[simp] theorem State.setX_focus (s : State) (r : XReg) (v : Word) : (s.setX r v).focus = s.focus := rfl
@[simp] theorem State.setX_subject (s : State) (r : XReg) (v : Word) : (s.setX r v).subject = s.subject := rfl
@[simp] theorem State.setX_eager (s : State) (r : XReg) (v : Word) : (s.setX r v).eager = s.eager := rfl
@[simp] theorem State.setX_elems (s : State) (r : XReg) (v : Word) : (s.setX r v).elems = s.elems := rfl
@[simp] theorem State.setX_engines (s : State) (r : XReg) (v : Word) : (s.setX r v).engines = s.engines := rfl
@[simp] theorem State.setX_fresh (s : State) (r : XReg) (v : Word) : (s.setX r v).fresh = s.fresh := rfl
/-! `State.complete` changes `slots` only. -/
@[simp] theorem State.complete_mem (s : State) : (s.complete).mem = s.mem := rfl
@[simp] theorem State.complete_poison (s : State) : (s.complete).poison = s.poison := rfl
@[simp] theorem State.complete_fkey (s : State) : (s.complete).fkey = s.fkey := rfl
@[simp] theorem State.complete_pads (s : State) : (s.complete).pads = s.pads := rfl
@[simp] theorem State.complete_home (s : State) : (s.complete).home = s.home := rfl
@[simp] theorem State.complete_l2 (s : State) : (s.complete).l2 = s.l2 := rfl
@[simp] theorem State.complete_watches (s : State) : (s.complete).watches = s.watches := rfl
@[simp] theorem State.complete_cores (s : State) : (s.complete).cores = s.cores := rfl
@[simp] theorem State.complete_sections (s : State) : (s.complete).sections = s.sections := rfl
@[simp] theorem State.complete_vfs (s : State) : (s.complete).vfs = s.vfs := rfl
@[simp] theorem State.complete_parts (s : State) : (s.complete).parts = s.parts := rfl
@[simp] theorem State.complete_dies (s : State) : (s.complete).dies = s.dies := rfl
@[simp] theorem State.complete_selvedge (s : State) : (s.complete).selvedge = s.selvedge := rfl
@[simp] theorem State.complete_frames (s : State) : (s.complete).frames = s.frames := rfl
@[simp] theorem State.complete_queued (s : State) : (s.complete).queued = s.queued := rfl
@[simp] theorem State.complete_offers (s : State) : (s.complete).offers = s.offers := rfl
@[simp] theorem State.complete_starts (s : State) : (s.complete).starts = s.starts := rfl
@[simp] theorem State.complete_heldStarts (s : State) : (s.complete).heldStarts = s.heldStarts := rfl
@[simp] theorem State.complete_pushes (s : State) : (s.complete).pushes = s.pushes := rfl
@[simp] theorem State.complete_records (s : State) : (s.complete).records = s.records := rfl
@[simp] theorem State.complete_awaits (s : State) : (s.complete).awaits = s.awaits := rfl
@[simp] theorem State.complete_pulls (s : State) : (s.complete).pulls = s.pulls := rfl
@[simp] theorem State.complete_clean (s : State) : (s.complete).clean = s.clean := rfl
@[simp] theorem State.complete_requests (s : State) : (s.complete).requests = s.requests := rfl
@[simp] theorem State.complete_longs (s : State) : (s.complete).longs = s.longs := rfl
@[simp] theorem State.complete_mailbox (s : State) : (s.complete).mailbox = s.mailbox := rfl
@[simp] theorem State.complete_epoch (s : State) : (s.complete).epoch = s.epoch := rfl
@[simp] theorem State.complete_receiptSerial (s : State) : (s.complete).receiptSerial = s.receiptSerial := rfl
@[simp] theorem State.complete_releaseEpochs (s : State) : (s.complete).releaseEpochs = s.releaseEpochs := rfl
@[simp] theorem State.complete_frameVfs (s : State) : (s.complete).frameVfs = s.frameVfs := rfl
@[simp] theorem State.complete_windows (s : State) : (s.complete).windows = s.windows := rfl
@[simp] theorem State.complete_cxlDown (s : State) : (s.complete).cxlDown = s.cxlDown := rfl
@[simp] theorem State.complete_ueDown (s : State) : (s.complete).ueDown = s.ueDown := rfl
@[simp] theorem State.complete_meshDown (s : State) : (s.complete).meshDown = s.meshDown := rfl
@[simp] theorem State.complete_column (s : State) : (s.complete).column = s.column := rfl
@[simp] theorem State.complete_heartbeats (s : State) : (s.complete).heartbeats = s.heartbeats := rfl
@[simp] theorem State.complete_errata (s : State) : (s.complete).errata = s.errata := rfl
@[simp] theorem State.complete_fusedSerial (s : State) : (s.complete).fusedSerial = s.fusedSerial := rfl
@[simp] theorem State.complete_identityTrusted (s : State) : (s.complete).identityTrusted = s.identityTrusted := rfl
@[simp] theorem State.complete_ilyonoReason (s : State) : (s.complete).ilyonoReason = s.ilyonoReason := rfl
@[simp] theorem State.complete_securityDown (s : State) : (s.complete).securityDown = s.securityDown := rfl
@[simp] theorem State.complete_ready (s : State) : (s.complete).ready = s.ready := rfl
@[simp] theorem State.complete_fatal (s : State) : (s.complete).fatal = s.fatal := rfl
@[simp] theorem State.complete_pfVector (s : State) : (s.complete).pfVector = s.pfVector := rfl
@[simp] theorem State.complete_dump (s : State) : (s.complete).dump = s.dump := rfl
@[simp] theorem State.complete_logSelect (s : State) : (s.complete).logSelect = s.logSelect := rfl
@[simp] theorem State.complete_logWindow (s : State) : (s.complete).logWindow = s.logWindow := rfl
@[simp] theorem State.complete_throttle (s : State) : (s.complete).throttle = s.throttle := rfl
@[simp] theorem State.complete_fwLeaves (s : State) : (s.complete).fwLeaves = s.fwLeaves := rfl
@[simp] theorem State.complete_spares (s : State) : (s.complete).spares = s.spares := rfl
@[simp] theorem State.complete_doe (s : State) : (s.complete).doe = s.doe := rfl
@[simp] theorem State.complete_cycle (s : State) : (s.complete).cycle = s.cycle := rfl
@[simp] theorem State.complete_arith (s : State) : (s.complete).arith = s.arith := rfl
@[simp] theorem State.complete_order (s : State) : (s.complete).order = s.order := rfl
@[simp] theorem State.complete_agenda (s : State) : (s.complete).agenda = s.agenda := rfl
@[simp] theorem State.complete_focus (s : State) : (s.complete).focus = s.focus := rfl
@[simp] theorem State.complete_subject (s : State) : (s.complete).subject = s.subject := rfl
@[simp] theorem State.complete_eager (s : State) : (s.complete).eager = s.eager := rfl
@[simp] theorem State.complete_elems (s : State) : (s.complete).elems = s.elems := rfl
@[simp] theorem State.complete_engines (s : State) : (s.complete).engines = s.engines := rfl
@[simp] theorem State.complete_fresh (s : State) : (s.complete).fresh = s.fresh := rfl
/-! `State.completeX` changes `slots` only. -/
@[simp] theorem State.completeX_mem (s : State) (r : XReg) (v : Word) : (s.completeX r v).mem = s.mem := rfl
@[simp] theorem State.completeX_poison (s : State) (r : XReg) (v : Word) : (s.completeX r v).poison = s.poison := rfl
@[simp] theorem State.completeX_fkey (s : State) (r : XReg) (v : Word) : (s.completeX r v).fkey = s.fkey := rfl
@[simp] theorem State.completeX_pads (s : State) (r : XReg) (v : Word) : (s.completeX r v).pads = s.pads := rfl
@[simp] theorem State.completeX_home (s : State) (r : XReg) (v : Word) : (s.completeX r v).home = s.home := rfl
@[simp] theorem State.completeX_l2 (s : State) (r : XReg) (v : Word) : (s.completeX r v).l2 = s.l2 := rfl
@[simp] theorem State.completeX_watches (s : State) (r : XReg) (v : Word) : (s.completeX r v).watches = s.watches := rfl
@[simp] theorem State.completeX_cores (s : State) (r : XReg) (v : Word) : (s.completeX r v).cores = s.cores := rfl
@[simp] theorem State.completeX_sections (s : State) (r : XReg) (v : Word) : (s.completeX r v).sections = s.sections := rfl
@[simp] theorem State.completeX_vfs (s : State) (r : XReg) (v : Word) : (s.completeX r v).vfs = s.vfs := rfl
@[simp] theorem State.completeX_parts (s : State) (r : XReg) (v : Word) : (s.completeX r v).parts = s.parts := rfl
@[simp] theorem State.completeX_dies (s : State) (r : XReg) (v : Word) : (s.completeX r v).dies = s.dies := rfl
@[simp] theorem State.completeX_selvedge (s : State) (r : XReg) (v : Word) : (s.completeX r v).selvedge = s.selvedge := rfl
@[simp] theorem State.completeX_frames (s : State) (r : XReg) (v : Word) : (s.completeX r v).frames = s.frames := rfl
@[simp] theorem State.completeX_queued (s : State) (r : XReg) (v : Word) : (s.completeX r v).queued = s.queued := rfl
@[simp] theorem State.completeX_offers (s : State) (r : XReg) (v : Word) : (s.completeX r v).offers = s.offers := rfl
@[simp] theorem State.completeX_starts (s : State) (r : XReg) (v : Word) : (s.completeX r v).starts = s.starts := rfl
@[simp] theorem State.completeX_heldStarts (s : State) (r : XReg) (v : Word) : (s.completeX r v).heldStarts = s.heldStarts := rfl
@[simp] theorem State.completeX_pushes (s : State) (r : XReg) (v : Word) : (s.completeX r v).pushes = s.pushes := rfl
@[simp] theorem State.completeX_records (s : State) (r : XReg) (v : Word) : (s.completeX r v).records = s.records := rfl
@[simp] theorem State.completeX_awaits (s : State) (r : XReg) (v : Word) : (s.completeX r v).awaits = s.awaits := rfl
@[simp] theorem State.completeX_pulls (s : State) (r : XReg) (v : Word) : (s.completeX r v).pulls = s.pulls := rfl
@[simp] theorem State.completeX_clean (s : State) (r : XReg) (v : Word) : (s.completeX r v).clean = s.clean := rfl
@[simp] theorem State.completeX_requests (s : State) (r : XReg) (v : Word) : (s.completeX r v).requests = s.requests := rfl
@[simp] theorem State.completeX_longs (s : State) (r : XReg) (v : Word) : (s.completeX r v).longs = s.longs := rfl
@[simp] theorem State.completeX_mailbox (s : State) (r : XReg) (v : Word) : (s.completeX r v).mailbox = s.mailbox := rfl
@[simp] theorem State.completeX_epoch (s : State) (r : XReg) (v : Word) : (s.completeX r v).epoch = s.epoch := rfl
@[simp] theorem State.completeX_receiptSerial (s : State) (r : XReg) (v : Word) : (s.completeX r v).receiptSerial = s.receiptSerial := rfl
@[simp] theorem State.completeX_releaseEpochs (s : State) (r : XReg) (v : Word) : (s.completeX r v).releaseEpochs = s.releaseEpochs := rfl
@[simp] theorem State.completeX_frameVfs (s : State) (r : XReg) (v : Word) : (s.completeX r v).frameVfs = s.frameVfs := rfl
@[simp] theorem State.completeX_windows (s : State) (r : XReg) (v : Word) : (s.completeX r v).windows = s.windows := rfl
@[simp] theorem State.completeX_cxlDown (s : State) (r : XReg) (v : Word) : (s.completeX r v).cxlDown = s.cxlDown := rfl
@[simp] theorem State.completeX_ueDown (s : State) (r : XReg) (v : Word) : (s.completeX r v).ueDown = s.ueDown := rfl
@[simp] theorem State.completeX_meshDown (s : State) (r : XReg) (v : Word) : (s.completeX r v).meshDown = s.meshDown := rfl
@[simp] theorem State.completeX_column (s : State) (r : XReg) (v : Word) : (s.completeX r v).column = s.column := rfl
@[simp] theorem State.completeX_heartbeats (s : State) (r : XReg) (v : Word) : (s.completeX r v).heartbeats = s.heartbeats := rfl
@[simp] theorem State.completeX_errata (s : State) (r : XReg) (v : Word) : (s.completeX r v).errata = s.errata := rfl
@[simp] theorem State.completeX_fusedSerial (s : State) (r : XReg) (v : Word) : (s.completeX r v).fusedSerial = s.fusedSerial := rfl
@[simp] theorem State.completeX_identityTrusted (s : State) (r : XReg) (v : Word) : (s.completeX r v).identityTrusted = s.identityTrusted := rfl
@[simp] theorem State.completeX_ilyonoReason (s : State) (r : XReg) (v : Word) : (s.completeX r v).ilyonoReason = s.ilyonoReason := rfl
@[simp] theorem State.completeX_securityDown (s : State) (r : XReg) (v : Word) : (s.completeX r v).securityDown = s.securityDown := rfl
@[simp] theorem State.completeX_ready (s : State) (r : XReg) (v : Word) : (s.completeX r v).ready = s.ready := rfl
@[simp] theorem State.completeX_fatal (s : State) (r : XReg) (v : Word) : (s.completeX r v).fatal = s.fatal := rfl
@[simp] theorem State.completeX_pfVector (s : State) (r : XReg) (v : Word) : (s.completeX r v).pfVector = s.pfVector := rfl
@[simp] theorem State.completeX_dump (s : State) (r : XReg) (v : Word) : (s.completeX r v).dump = s.dump := rfl
@[simp] theorem State.completeX_logSelect (s : State) (r : XReg) (v : Word) : (s.completeX r v).logSelect = s.logSelect := rfl
@[simp] theorem State.completeX_logWindow (s : State) (r : XReg) (v : Word) : (s.completeX r v).logWindow = s.logWindow := rfl
@[simp] theorem State.completeX_throttle (s : State) (r : XReg) (v : Word) : (s.completeX r v).throttle = s.throttle := rfl
@[simp] theorem State.completeX_fwLeaves (s : State) (r : XReg) (v : Word) : (s.completeX r v).fwLeaves = s.fwLeaves := rfl
@[simp] theorem State.completeX_spares (s : State) (r : XReg) (v : Word) : (s.completeX r v).spares = s.spares := rfl
@[simp] theorem State.completeX_doe (s : State) (r : XReg) (v : Word) : (s.completeX r v).doe = s.doe := rfl
@[simp] theorem State.completeX_cycle (s : State) (r : XReg) (v : Word) : (s.completeX r v).cycle = s.cycle := rfl
@[simp] theorem State.completeX_arith (s : State) (r : XReg) (v : Word) : (s.completeX r v).arith = s.arith := rfl
@[simp] theorem State.completeX_order (s : State) (r : XReg) (v : Word) : (s.completeX r v).order = s.order := rfl
@[simp] theorem State.completeX_agenda (s : State) (r : XReg) (v : Word) : (s.completeX r v).agenda = s.agenda := rfl
@[simp] theorem State.completeX_focus (s : State) (r : XReg) (v : Word) : (s.completeX r v).focus = s.focus := rfl
@[simp] theorem State.completeX_subject (s : State) (r : XReg) (v : Word) : (s.completeX r v).subject = s.subject := rfl
@[simp] theorem State.completeX_eager (s : State) (r : XReg) (v : Word) : (s.completeX r v).eager = s.eager := rfl
@[simp] theorem State.completeX_elems (s : State) (r : XReg) (v : Word) : (s.completeX r v).elems = s.elems := rfl
@[simp] theorem State.completeX_engines (s : State) (r : XReg) (v : Word) : (s.completeX r v).engines = s.engines := rfl
@[simp] theorem State.completeX_fresh (s : State) (r : XReg) (v : Word) : (s.completeX r v).fresh = s.fresh := rfl
/-! `State.block` changes `slots` only. -/
@[simp] theorem State.block_mem (s : State) (k : WaitKind) : (s.block k).mem = s.mem := rfl
@[simp] theorem State.block_poison (s : State) (k : WaitKind) : (s.block k).poison = s.poison := rfl
@[simp] theorem State.block_fkey (s : State) (k : WaitKind) : (s.block k).fkey = s.fkey := rfl
@[simp] theorem State.block_pads (s : State) (k : WaitKind) : (s.block k).pads = s.pads := rfl
@[simp] theorem State.block_home (s : State) (k : WaitKind) : (s.block k).home = s.home := rfl
@[simp] theorem State.block_l2 (s : State) (k : WaitKind) : (s.block k).l2 = s.l2 := rfl
@[simp] theorem State.block_watches (s : State) (k : WaitKind) : (s.block k).watches = s.watches := rfl
@[simp] theorem State.block_cores (s : State) (k : WaitKind) : (s.block k).cores = s.cores := rfl
@[simp] theorem State.block_sections (s : State) (k : WaitKind) : (s.block k).sections = s.sections := rfl
@[simp] theorem State.block_vfs (s : State) (k : WaitKind) : (s.block k).vfs = s.vfs := rfl
@[simp] theorem State.block_parts (s : State) (k : WaitKind) : (s.block k).parts = s.parts := rfl
@[simp] theorem State.block_dies (s : State) (k : WaitKind) : (s.block k).dies = s.dies := rfl
@[simp] theorem State.block_selvedge (s : State) (k : WaitKind) : (s.block k).selvedge = s.selvedge := rfl
@[simp] theorem State.block_frames (s : State) (k : WaitKind) : (s.block k).frames = s.frames := rfl
@[simp] theorem State.block_queued (s : State) (k : WaitKind) : (s.block k).queued = s.queued := rfl
@[simp] theorem State.block_offers (s : State) (k : WaitKind) : (s.block k).offers = s.offers := rfl
@[simp] theorem State.block_starts (s : State) (k : WaitKind) : (s.block k).starts = s.starts := rfl
@[simp] theorem State.block_heldStarts (s : State) (k : WaitKind) : (s.block k).heldStarts = s.heldStarts := rfl
@[simp] theorem State.block_pushes (s : State) (k : WaitKind) : (s.block k).pushes = s.pushes := rfl
@[simp] theorem State.block_records (s : State) (k : WaitKind) : (s.block k).records = s.records := rfl
@[simp] theorem State.block_awaits (s : State) (k : WaitKind) : (s.block k).awaits = s.awaits := rfl
@[simp] theorem State.block_pulls (s : State) (k : WaitKind) : (s.block k).pulls = s.pulls := rfl
@[simp] theorem State.block_clean (s : State) (k : WaitKind) : (s.block k).clean = s.clean := rfl
@[simp] theorem State.block_requests (s : State) (k : WaitKind) : (s.block k).requests = s.requests := rfl
@[simp] theorem State.block_longs (s : State) (k : WaitKind) : (s.block k).longs = s.longs := rfl
@[simp] theorem State.block_mailbox (s : State) (k : WaitKind) : (s.block k).mailbox = s.mailbox := rfl
@[simp] theorem State.block_epoch (s : State) (k : WaitKind) : (s.block k).epoch = s.epoch := rfl
@[simp] theorem State.block_receiptSerial (s : State) (k : WaitKind) : (s.block k).receiptSerial = s.receiptSerial := rfl
@[simp] theorem State.block_releaseEpochs (s : State) (k : WaitKind) : (s.block k).releaseEpochs = s.releaseEpochs := rfl
@[simp] theorem State.block_frameVfs (s : State) (k : WaitKind) : (s.block k).frameVfs = s.frameVfs := rfl
@[simp] theorem State.block_windows (s : State) (k : WaitKind) : (s.block k).windows = s.windows := rfl
@[simp] theorem State.block_cxlDown (s : State) (k : WaitKind) : (s.block k).cxlDown = s.cxlDown := rfl
@[simp] theorem State.block_ueDown (s : State) (k : WaitKind) : (s.block k).ueDown = s.ueDown := rfl
@[simp] theorem State.block_meshDown (s : State) (k : WaitKind) : (s.block k).meshDown = s.meshDown := rfl
@[simp] theorem State.block_column (s : State) (k : WaitKind) : (s.block k).column = s.column := rfl
@[simp] theorem State.block_heartbeats (s : State) (k : WaitKind) : (s.block k).heartbeats = s.heartbeats := rfl
@[simp] theorem State.block_errata (s : State) (k : WaitKind) : (s.block k).errata = s.errata := rfl
@[simp] theorem State.block_fusedSerial (s : State) (k : WaitKind) : (s.block k).fusedSerial = s.fusedSerial := rfl
@[simp] theorem State.block_identityTrusted (s : State) (k : WaitKind) : (s.block k).identityTrusted = s.identityTrusted := rfl
@[simp] theorem State.block_ilyonoReason (s : State) (k : WaitKind) : (s.block k).ilyonoReason = s.ilyonoReason := rfl
@[simp] theorem State.block_securityDown (s : State) (k : WaitKind) : (s.block k).securityDown = s.securityDown := rfl
@[simp] theorem State.block_ready (s : State) (k : WaitKind) : (s.block k).ready = s.ready := rfl
@[simp] theorem State.block_fatal (s : State) (k : WaitKind) : (s.block k).fatal = s.fatal := rfl
@[simp] theorem State.block_pfVector (s : State) (k : WaitKind) : (s.block k).pfVector = s.pfVector := rfl
@[simp] theorem State.block_dump (s : State) (k : WaitKind) : (s.block k).dump = s.dump := rfl
@[simp] theorem State.block_logSelect (s : State) (k : WaitKind) : (s.block k).logSelect = s.logSelect := rfl
@[simp] theorem State.block_logWindow (s : State) (k : WaitKind) : (s.block k).logWindow = s.logWindow := rfl
@[simp] theorem State.block_throttle (s : State) (k : WaitKind) : (s.block k).throttle = s.throttle := rfl
@[simp] theorem State.block_fwLeaves (s : State) (k : WaitKind) : (s.block k).fwLeaves = s.fwLeaves := rfl
@[simp] theorem State.block_spares (s : State) (k : WaitKind) : (s.block k).spares = s.spares := rfl
@[simp] theorem State.block_doe (s : State) (k : WaitKind) : (s.block k).doe = s.doe := rfl
@[simp] theorem State.block_cycle (s : State) (k : WaitKind) : (s.block k).cycle = s.cycle := rfl
@[simp] theorem State.block_arith (s : State) (k : WaitKind) : (s.block k).arith = s.arith := rfl
@[simp] theorem State.block_order (s : State) (k : WaitKind) : (s.block k).order = s.order := rfl
@[simp] theorem State.block_agenda (s : State) (k : WaitKind) : (s.block k).agenda = s.agenda := rfl
@[simp] theorem State.block_focus (s : State) (k : WaitKind) : (s.block k).focus = s.focus := rfl
@[simp] theorem State.block_subject (s : State) (k : WaitKind) : (s.block k).subject = s.subject := rfl
@[simp] theorem State.block_eager (s : State) (k : WaitKind) : (s.block k).eager = s.eager := rfl
@[simp] theorem State.block_elems (s : State) (k : WaitKind) : (s.block k).elems = s.elems := rfl
@[simp] theorem State.block_engines (s : State) (k : WaitKind) : (s.block k).engines = s.engines := rfl
@[simp] theorem State.block_fresh (s : State) (k : WaitKind) : (s.block k).fresh = s.fresh := rfl
/-! `State.setCore` changes `cores` only. -/
@[simp] theorem State.setCore_mem (s : State) (c : Nat) (v : Core) : (s.setCore c v).mem = s.mem := rfl
@[simp] theorem State.setCore_poison (s : State) (c : Nat) (v : Core) : (s.setCore c v).poison = s.poison := rfl
@[simp] theorem State.setCore_fkey (s : State) (c : Nat) (v : Core) : (s.setCore c v).fkey = s.fkey := rfl
@[simp] theorem State.setCore_pads (s : State) (c : Nat) (v : Core) : (s.setCore c v).pads = s.pads := rfl
@[simp] theorem State.setCore_home (s : State) (c : Nat) (v : Core) : (s.setCore c v).home = s.home := rfl
@[simp] theorem State.setCore_l2 (s : State) (c : Nat) (v : Core) : (s.setCore c v).l2 = s.l2 := rfl
@[simp] theorem State.setCore_watches (s : State) (c : Nat) (v : Core) : (s.setCore c v).watches = s.watches := rfl
@[simp] theorem State.setCore_slots (s : State) (c : Nat) (v : Core) : (s.setCore c v).slots = s.slots := rfl
@[simp] theorem State.setCore_sections (s : State) (c : Nat) (v : Core) : (s.setCore c v).sections = s.sections := rfl
@[simp] theorem State.setCore_vfs (s : State) (c : Nat) (v : Core) : (s.setCore c v).vfs = s.vfs := rfl
@[simp] theorem State.setCore_parts (s : State) (c : Nat) (v : Core) : (s.setCore c v).parts = s.parts := rfl
@[simp] theorem State.setCore_dies (s : State) (c : Nat) (v : Core) : (s.setCore c v).dies = s.dies := rfl
@[simp] theorem State.setCore_selvedge (s : State) (c : Nat) (v : Core) : (s.setCore c v).selvedge = s.selvedge := rfl
@[simp] theorem State.setCore_frames (s : State) (c : Nat) (v : Core) : (s.setCore c v).frames = s.frames := rfl
@[simp] theorem State.setCore_queued (s : State) (c : Nat) (v : Core) : (s.setCore c v).queued = s.queued := rfl
@[simp] theorem State.setCore_offers (s : State) (c : Nat) (v : Core) : (s.setCore c v).offers = s.offers := rfl
@[simp] theorem State.setCore_starts (s : State) (c : Nat) (v : Core) : (s.setCore c v).starts = s.starts := rfl
@[simp] theorem State.setCore_heldStarts (s : State) (c : Nat) (v : Core) : (s.setCore c v).heldStarts = s.heldStarts := rfl
@[simp] theorem State.setCore_pushes (s : State) (c : Nat) (v : Core) : (s.setCore c v).pushes = s.pushes := rfl
@[simp] theorem State.setCore_records (s : State) (c : Nat) (v : Core) : (s.setCore c v).records = s.records := rfl
@[simp] theorem State.setCore_awaits (s : State) (c : Nat) (v : Core) : (s.setCore c v).awaits = s.awaits := rfl
@[simp] theorem State.setCore_pulls (s : State) (c : Nat) (v : Core) : (s.setCore c v).pulls = s.pulls := rfl
@[simp] theorem State.setCore_clean (s : State) (c : Nat) (v : Core) : (s.setCore c v).clean = s.clean := rfl
@[simp] theorem State.setCore_requests (s : State) (c : Nat) (v : Core) : (s.setCore c v).requests = s.requests := rfl
@[simp] theorem State.setCore_longs (s : State) (c : Nat) (v : Core) : (s.setCore c v).longs = s.longs := rfl
@[simp] theorem State.setCore_mailbox (s : State) (c : Nat) (v : Core) : (s.setCore c v).mailbox = s.mailbox := rfl
@[simp] theorem State.setCore_epoch (s : State) (c : Nat) (v : Core) : (s.setCore c v).epoch = s.epoch := rfl
@[simp] theorem State.setCore_receiptSerial (s : State) (c : Nat) (v : Core) : (s.setCore c v).receiptSerial = s.receiptSerial := rfl
@[simp] theorem State.setCore_releaseEpochs (s : State) (c : Nat) (v : Core) : (s.setCore c v).releaseEpochs = s.releaseEpochs := rfl
@[simp] theorem State.setCore_frameVfs (s : State) (c : Nat) (v : Core) : (s.setCore c v).frameVfs = s.frameVfs := rfl
@[simp] theorem State.setCore_windows (s : State) (c : Nat) (v : Core) : (s.setCore c v).windows = s.windows := rfl
@[simp] theorem State.setCore_cxlDown (s : State) (c : Nat) (v : Core) : (s.setCore c v).cxlDown = s.cxlDown := rfl
@[simp] theorem State.setCore_ueDown (s : State) (c : Nat) (v : Core) : (s.setCore c v).ueDown = s.ueDown := rfl
@[simp] theorem State.setCore_meshDown (s : State) (c : Nat) (v : Core) : (s.setCore c v).meshDown = s.meshDown := rfl
@[simp] theorem State.setCore_column (s : State) (c : Nat) (v : Core) : (s.setCore c v).column = s.column := rfl
@[simp] theorem State.setCore_heartbeats (s : State) (c : Nat) (v : Core) : (s.setCore c v).heartbeats = s.heartbeats := rfl
@[simp] theorem State.setCore_errata (s : State) (c : Nat) (v : Core) : (s.setCore c v).errata = s.errata := rfl
@[simp] theorem State.setCore_fusedSerial (s : State) (c : Nat) (v : Core) : (s.setCore c v).fusedSerial = s.fusedSerial := rfl
@[simp] theorem State.setCore_identityTrusted (s : State) (c : Nat) (v : Core) : (s.setCore c v).identityTrusted = s.identityTrusted := rfl
@[simp] theorem State.setCore_ilyonoReason (s : State) (c : Nat) (v : Core) : (s.setCore c v).ilyonoReason = s.ilyonoReason := rfl
@[simp] theorem State.setCore_securityDown (s : State) (c : Nat) (v : Core) : (s.setCore c v).securityDown = s.securityDown := rfl
@[simp] theorem State.setCore_ready (s : State) (c : Nat) (v : Core) : (s.setCore c v).ready = s.ready := rfl
@[simp] theorem State.setCore_fatal (s : State) (c : Nat) (v : Core) : (s.setCore c v).fatal = s.fatal := rfl
@[simp] theorem State.setCore_pfVector (s : State) (c : Nat) (v : Core) : (s.setCore c v).pfVector = s.pfVector := rfl
@[simp] theorem State.setCore_dump (s : State) (c : Nat) (v : Core) : (s.setCore c v).dump = s.dump := rfl
@[simp] theorem State.setCore_logSelect (s : State) (c : Nat) (v : Core) : (s.setCore c v).logSelect = s.logSelect := rfl
@[simp] theorem State.setCore_logWindow (s : State) (c : Nat) (v : Core) : (s.setCore c v).logWindow = s.logWindow := rfl
@[simp] theorem State.setCore_throttle (s : State) (c : Nat) (v : Core) : (s.setCore c v).throttle = s.throttle := rfl
@[simp] theorem State.setCore_fwLeaves (s : State) (c : Nat) (v : Core) : (s.setCore c v).fwLeaves = s.fwLeaves := rfl
@[simp] theorem State.setCore_spares (s : State) (c : Nat) (v : Core) : (s.setCore c v).spares = s.spares := rfl
@[simp] theorem State.setCore_doe (s : State) (c : Nat) (v : Core) : (s.setCore c v).doe = s.doe := rfl
@[simp] theorem State.setCore_cycle (s : State) (c : Nat) (v : Core) : (s.setCore c v).cycle = s.cycle := rfl
@[simp] theorem State.setCore_arith (s : State) (c : Nat) (v : Core) : (s.setCore c v).arith = s.arith := rfl
@[simp] theorem State.setCore_order (s : State) (c : Nat) (v : Core) : (s.setCore c v).order = s.order := rfl
@[simp] theorem State.setCore_agenda (s : State) (c : Nat) (v : Core) : (s.setCore c v).agenda = s.agenda := rfl
@[simp] theorem State.setCore_focus (s : State) (c : Nat) (v : Core) : (s.setCore c v).focus = s.focus := rfl
@[simp] theorem State.setCore_subject (s : State) (c : Nat) (v : Core) : (s.setCore c v).subject = s.subject := rfl
@[simp] theorem State.setCore_eager (s : State) (c : Nat) (v : Core) : (s.setCore c v).eager = s.eager := rfl
@[simp] theorem State.setCore_elems (s : State) (c : Nat) (v : Core) : (s.setCore c v).elems = s.elems := rfl
@[simp] theorem State.setCore_engines (s : State) (c : Nat) (v : Core) : (s.setCore c v).engines = s.engines := rfl
@[simp] theorem State.setCore_fresh (s : State) (c : Nat) (v : Core) : (s.setCore c v).fresh = s.fresh := rfl
/-! `State.updCore` changes `cores` only. -/
@[simp] theorem State.updCore_mem (s : State) (c : Nat) (f : Core → Core) : (s.updCore c f).mem = s.mem := rfl
@[simp] theorem State.updCore_poison (s : State) (c : Nat) (f : Core → Core) : (s.updCore c f).poison = s.poison := rfl
@[simp] theorem State.updCore_fkey (s : State) (c : Nat) (f : Core → Core) : (s.updCore c f).fkey = s.fkey := rfl
@[simp] theorem State.updCore_pads (s : State) (c : Nat) (f : Core → Core) : (s.updCore c f).pads = s.pads := rfl
@[simp] theorem State.updCore_home (s : State) (c : Nat) (f : Core → Core) : (s.updCore c f).home = s.home := rfl
@[simp] theorem State.updCore_l2 (s : State) (c : Nat) (f : Core → Core) : (s.updCore c f).l2 = s.l2 := rfl
@[simp] theorem State.updCore_watches (s : State) (c : Nat) (f : Core → Core) : (s.updCore c f).watches = s.watches := rfl
@[simp] theorem State.updCore_slots (s : State) (c : Nat) (f : Core → Core) : (s.updCore c f).slots = s.slots := rfl
@[simp] theorem State.updCore_sections (s : State) (c : Nat) (f : Core → Core) : (s.updCore c f).sections = s.sections := rfl
@[simp] theorem State.updCore_vfs (s : State) (c : Nat) (f : Core → Core) : (s.updCore c f).vfs = s.vfs := rfl
@[simp] theorem State.updCore_parts (s : State) (c : Nat) (f : Core → Core) : (s.updCore c f).parts = s.parts := rfl
@[simp] theorem State.updCore_dies (s : State) (c : Nat) (f : Core → Core) : (s.updCore c f).dies = s.dies := rfl
@[simp] theorem State.updCore_selvedge (s : State) (c : Nat) (f : Core → Core) : (s.updCore c f).selvedge = s.selvedge := rfl
@[simp] theorem State.updCore_frames (s : State) (c : Nat) (f : Core → Core) : (s.updCore c f).frames = s.frames := rfl
@[simp] theorem State.updCore_queued (s : State) (c : Nat) (f : Core → Core) : (s.updCore c f).queued = s.queued := rfl
@[simp] theorem State.updCore_offers (s : State) (c : Nat) (f : Core → Core) : (s.updCore c f).offers = s.offers := rfl
@[simp] theorem State.updCore_starts (s : State) (c : Nat) (f : Core → Core) : (s.updCore c f).starts = s.starts := rfl
@[simp] theorem State.updCore_heldStarts (s : State) (c : Nat) (f : Core → Core) : (s.updCore c f).heldStarts = s.heldStarts := rfl
@[simp] theorem State.updCore_pushes (s : State) (c : Nat) (f : Core → Core) : (s.updCore c f).pushes = s.pushes := rfl
@[simp] theorem State.updCore_records (s : State) (c : Nat) (f : Core → Core) : (s.updCore c f).records = s.records := rfl
@[simp] theorem State.updCore_awaits (s : State) (c : Nat) (f : Core → Core) : (s.updCore c f).awaits = s.awaits := rfl
@[simp] theorem State.updCore_pulls (s : State) (c : Nat) (f : Core → Core) : (s.updCore c f).pulls = s.pulls := rfl
@[simp] theorem State.updCore_clean (s : State) (c : Nat) (f : Core → Core) : (s.updCore c f).clean = s.clean := rfl
@[simp] theorem State.updCore_requests (s : State) (c : Nat) (f : Core → Core) : (s.updCore c f).requests = s.requests := rfl
@[simp] theorem State.updCore_longs (s : State) (c : Nat) (f : Core → Core) : (s.updCore c f).longs = s.longs := rfl
@[simp] theorem State.updCore_mailbox (s : State) (c : Nat) (f : Core → Core) : (s.updCore c f).mailbox = s.mailbox := rfl
@[simp] theorem State.updCore_epoch (s : State) (c : Nat) (f : Core → Core) : (s.updCore c f).epoch = s.epoch := rfl
@[simp] theorem State.updCore_receiptSerial (s : State) (c : Nat) (f : Core → Core) : (s.updCore c f).receiptSerial = s.receiptSerial := rfl
@[simp] theorem State.updCore_releaseEpochs (s : State) (c : Nat) (f : Core → Core) : (s.updCore c f).releaseEpochs = s.releaseEpochs := rfl
@[simp] theorem State.updCore_frameVfs (s : State) (c : Nat) (f : Core → Core) : (s.updCore c f).frameVfs = s.frameVfs := rfl
@[simp] theorem State.updCore_windows (s : State) (c : Nat) (f : Core → Core) : (s.updCore c f).windows = s.windows := rfl
@[simp] theorem State.updCore_cxlDown (s : State) (c : Nat) (f : Core → Core) : (s.updCore c f).cxlDown = s.cxlDown := rfl
@[simp] theorem State.updCore_ueDown (s : State) (c : Nat) (f : Core → Core) : (s.updCore c f).ueDown = s.ueDown := rfl
@[simp] theorem State.updCore_meshDown (s : State) (c : Nat) (f : Core → Core) : (s.updCore c f).meshDown = s.meshDown := rfl
@[simp] theorem State.updCore_column (s : State) (c : Nat) (f : Core → Core) : (s.updCore c f).column = s.column := rfl
@[simp] theorem State.updCore_heartbeats (s : State) (c : Nat) (f : Core → Core) : (s.updCore c f).heartbeats = s.heartbeats := rfl
@[simp] theorem State.updCore_errata (s : State) (c : Nat) (f : Core → Core) : (s.updCore c f).errata = s.errata := rfl
@[simp] theorem State.updCore_fusedSerial (s : State) (c : Nat) (f : Core → Core) : (s.updCore c f).fusedSerial = s.fusedSerial := rfl
@[simp] theorem State.updCore_identityTrusted (s : State) (c : Nat) (f : Core → Core) : (s.updCore c f).identityTrusted = s.identityTrusted := rfl
@[simp] theorem State.updCore_ilyonoReason (s : State) (c : Nat) (f : Core → Core) : (s.updCore c f).ilyonoReason = s.ilyonoReason := rfl
@[simp] theorem State.updCore_securityDown (s : State) (c : Nat) (f : Core → Core) : (s.updCore c f).securityDown = s.securityDown := rfl
@[simp] theorem State.updCore_ready (s : State) (c : Nat) (f : Core → Core) : (s.updCore c f).ready = s.ready := rfl
@[simp] theorem State.updCore_fatal (s : State) (c : Nat) (f : Core → Core) : (s.updCore c f).fatal = s.fatal := rfl
@[simp] theorem State.updCore_pfVector (s : State) (c : Nat) (f : Core → Core) : (s.updCore c f).pfVector = s.pfVector := rfl
@[simp] theorem State.updCore_dump (s : State) (c : Nat) (f : Core → Core) : (s.updCore c f).dump = s.dump := rfl
@[simp] theorem State.updCore_logSelect (s : State) (c : Nat) (f : Core → Core) : (s.updCore c f).logSelect = s.logSelect := rfl
@[simp] theorem State.updCore_logWindow (s : State) (c : Nat) (f : Core → Core) : (s.updCore c f).logWindow = s.logWindow := rfl
@[simp] theorem State.updCore_throttle (s : State) (c : Nat) (f : Core → Core) : (s.updCore c f).throttle = s.throttle := rfl
@[simp] theorem State.updCore_fwLeaves (s : State) (c : Nat) (f : Core → Core) : (s.updCore c f).fwLeaves = s.fwLeaves := rfl
@[simp] theorem State.updCore_spares (s : State) (c : Nat) (f : Core → Core) : (s.updCore c f).spares = s.spares := rfl
@[simp] theorem State.updCore_doe (s : State) (c : Nat) (f : Core → Core) : (s.updCore c f).doe = s.doe := rfl
@[simp] theorem State.updCore_cycle (s : State) (c : Nat) (f : Core → Core) : (s.updCore c f).cycle = s.cycle := rfl
@[simp] theorem State.updCore_arith (s : State) (c : Nat) (f : Core → Core) : (s.updCore c f).arith = s.arith := rfl
@[simp] theorem State.updCore_order (s : State) (c : Nat) (f : Core → Core) : (s.updCore c f).order = s.order := rfl
@[simp] theorem State.updCore_agenda (s : State) (c : Nat) (f : Core → Core) : (s.updCore c f).agenda = s.agenda := rfl
@[simp] theorem State.updCore_focus (s : State) (c : Nat) (f : Core → Core) : (s.updCore c f).focus = s.focus := rfl
@[simp] theorem State.updCore_subject (s : State) (c : Nat) (f : Core → Core) : (s.updCore c f).subject = s.subject := rfl
@[simp] theorem State.updCore_eager (s : State) (c : Nat) (f : Core → Core) : (s.updCore c f).eager = s.eager := rfl
@[simp] theorem State.updCore_elems (s : State) (c : Nat) (f : Core → Core) : (s.updCore c f).elems = s.elems := rfl
@[simp] theorem State.updCore_engines (s : State) (c : Nat) (f : Core → Core) : (s.updCore c f).engines = s.engines := rfl
@[simp] theorem State.updCore_fresh (s : State) (c : Nat) (f : Core → Core) : (s.updCore c f).fresh = s.fresh := rfl
/-! `State.updCtx` changes `cores` only. -/
@[simp] theorem State.updCtx_mem (s : State) (c : Nat) (f : CoreCtx → CoreCtx) : (s.updCtx c f).mem = s.mem := rfl
@[simp] theorem State.updCtx_poison (s : State) (c : Nat) (f : CoreCtx → CoreCtx) : (s.updCtx c f).poison = s.poison := rfl
@[simp] theorem State.updCtx_fkey (s : State) (c : Nat) (f : CoreCtx → CoreCtx) : (s.updCtx c f).fkey = s.fkey := rfl
@[simp] theorem State.updCtx_pads (s : State) (c : Nat) (f : CoreCtx → CoreCtx) : (s.updCtx c f).pads = s.pads := rfl
@[simp] theorem State.updCtx_home (s : State) (c : Nat) (f : CoreCtx → CoreCtx) : (s.updCtx c f).home = s.home := rfl
@[simp] theorem State.updCtx_l2 (s : State) (c : Nat) (f : CoreCtx → CoreCtx) : (s.updCtx c f).l2 = s.l2 := rfl
@[simp] theorem State.updCtx_watches (s : State) (c : Nat) (f : CoreCtx → CoreCtx) : (s.updCtx c f).watches = s.watches := rfl
@[simp] theorem State.updCtx_slots (s : State) (c : Nat) (f : CoreCtx → CoreCtx) : (s.updCtx c f).slots = s.slots := rfl
@[simp] theorem State.updCtx_sections (s : State) (c : Nat) (f : CoreCtx → CoreCtx) : (s.updCtx c f).sections = s.sections := rfl
@[simp] theorem State.updCtx_vfs (s : State) (c : Nat) (f : CoreCtx → CoreCtx) : (s.updCtx c f).vfs = s.vfs := rfl
@[simp] theorem State.updCtx_parts (s : State) (c : Nat) (f : CoreCtx → CoreCtx) : (s.updCtx c f).parts = s.parts := rfl
@[simp] theorem State.updCtx_dies (s : State) (c : Nat) (f : CoreCtx → CoreCtx) : (s.updCtx c f).dies = s.dies := rfl
@[simp] theorem State.updCtx_selvedge (s : State) (c : Nat) (f : CoreCtx → CoreCtx) : (s.updCtx c f).selvedge = s.selvedge := rfl
@[simp] theorem State.updCtx_frames (s : State) (c : Nat) (f : CoreCtx → CoreCtx) : (s.updCtx c f).frames = s.frames := rfl
@[simp] theorem State.updCtx_queued (s : State) (c : Nat) (f : CoreCtx → CoreCtx) : (s.updCtx c f).queued = s.queued := rfl
@[simp] theorem State.updCtx_offers (s : State) (c : Nat) (f : CoreCtx → CoreCtx) : (s.updCtx c f).offers = s.offers := rfl
@[simp] theorem State.updCtx_starts (s : State) (c : Nat) (f : CoreCtx → CoreCtx) : (s.updCtx c f).starts = s.starts := rfl
@[simp] theorem State.updCtx_heldStarts (s : State) (c : Nat) (f : CoreCtx → CoreCtx) : (s.updCtx c f).heldStarts = s.heldStarts := rfl
@[simp] theorem State.updCtx_pushes (s : State) (c : Nat) (f : CoreCtx → CoreCtx) : (s.updCtx c f).pushes = s.pushes := rfl
@[simp] theorem State.updCtx_records (s : State) (c : Nat) (f : CoreCtx → CoreCtx) : (s.updCtx c f).records = s.records := rfl
@[simp] theorem State.updCtx_awaits (s : State) (c : Nat) (f : CoreCtx → CoreCtx) : (s.updCtx c f).awaits = s.awaits := rfl
@[simp] theorem State.updCtx_pulls (s : State) (c : Nat) (f : CoreCtx → CoreCtx) : (s.updCtx c f).pulls = s.pulls := rfl
@[simp] theorem State.updCtx_clean (s : State) (c : Nat) (f : CoreCtx → CoreCtx) : (s.updCtx c f).clean = s.clean := rfl
@[simp] theorem State.updCtx_requests (s : State) (c : Nat) (f : CoreCtx → CoreCtx) : (s.updCtx c f).requests = s.requests := rfl
@[simp] theorem State.updCtx_longs (s : State) (c : Nat) (f : CoreCtx → CoreCtx) : (s.updCtx c f).longs = s.longs := rfl
@[simp] theorem State.updCtx_mailbox (s : State) (c : Nat) (f : CoreCtx → CoreCtx) : (s.updCtx c f).mailbox = s.mailbox := rfl
@[simp] theorem State.updCtx_epoch (s : State) (c : Nat) (f : CoreCtx → CoreCtx) : (s.updCtx c f).epoch = s.epoch := rfl
@[simp] theorem State.updCtx_receiptSerial (s : State) (c : Nat) (f : CoreCtx → CoreCtx) : (s.updCtx c f).receiptSerial = s.receiptSerial := rfl
@[simp] theorem State.updCtx_releaseEpochs (s : State) (c : Nat) (f : CoreCtx → CoreCtx) : (s.updCtx c f).releaseEpochs = s.releaseEpochs := rfl
@[simp] theorem State.updCtx_frameVfs (s : State) (c : Nat) (f : CoreCtx → CoreCtx) : (s.updCtx c f).frameVfs = s.frameVfs := rfl
@[simp] theorem State.updCtx_windows (s : State) (c : Nat) (f : CoreCtx → CoreCtx) : (s.updCtx c f).windows = s.windows := rfl
@[simp] theorem State.updCtx_cxlDown (s : State) (c : Nat) (f : CoreCtx → CoreCtx) : (s.updCtx c f).cxlDown = s.cxlDown := rfl
@[simp] theorem State.updCtx_ueDown (s : State) (c : Nat) (f : CoreCtx → CoreCtx) : (s.updCtx c f).ueDown = s.ueDown := rfl
@[simp] theorem State.updCtx_meshDown (s : State) (c : Nat) (f : CoreCtx → CoreCtx) : (s.updCtx c f).meshDown = s.meshDown := rfl
@[simp] theorem State.updCtx_column (s : State) (c : Nat) (f : CoreCtx → CoreCtx) : (s.updCtx c f).column = s.column := rfl
@[simp] theorem State.updCtx_heartbeats (s : State) (c : Nat) (f : CoreCtx → CoreCtx) : (s.updCtx c f).heartbeats = s.heartbeats := rfl
@[simp] theorem State.updCtx_errata (s : State) (c : Nat) (f : CoreCtx → CoreCtx) : (s.updCtx c f).errata = s.errata := rfl
@[simp] theorem State.updCtx_fusedSerial (s : State) (c : Nat) (f : CoreCtx → CoreCtx) : (s.updCtx c f).fusedSerial = s.fusedSerial := rfl
@[simp] theorem State.updCtx_identityTrusted (s : State) (c : Nat) (f : CoreCtx → CoreCtx) : (s.updCtx c f).identityTrusted = s.identityTrusted := rfl
@[simp] theorem State.updCtx_ilyonoReason (s : State) (c : Nat) (f : CoreCtx → CoreCtx) : (s.updCtx c f).ilyonoReason = s.ilyonoReason := rfl
@[simp] theorem State.updCtx_securityDown (s : State) (c : Nat) (f : CoreCtx → CoreCtx) : (s.updCtx c f).securityDown = s.securityDown := rfl
@[simp] theorem State.updCtx_ready (s : State) (c : Nat) (f : CoreCtx → CoreCtx) : (s.updCtx c f).ready = s.ready := rfl
@[simp] theorem State.updCtx_fatal (s : State) (c : Nat) (f : CoreCtx → CoreCtx) : (s.updCtx c f).fatal = s.fatal := rfl
@[simp] theorem State.updCtx_pfVector (s : State) (c : Nat) (f : CoreCtx → CoreCtx) : (s.updCtx c f).pfVector = s.pfVector := rfl
@[simp] theorem State.updCtx_dump (s : State) (c : Nat) (f : CoreCtx → CoreCtx) : (s.updCtx c f).dump = s.dump := rfl
@[simp] theorem State.updCtx_logSelect (s : State) (c : Nat) (f : CoreCtx → CoreCtx) : (s.updCtx c f).logSelect = s.logSelect := rfl
@[simp] theorem State.updCtx_logWindow (s : State) (c : Nat) (f : CoreCtx → CoreCtx) : (s.updCtx c f).logWindow = s.logWindow := rfl
@[simp] theorem State.updCtx_throttle (s : State) (c : Nat) (f : CoreCtx → CoreCtx) : (s.updCtx c f).throttle = s.throttle := rfl
@[simp] theorem State.updCtx_fwLeaves (s : State) (c : Nat) (f : CoreCtx → CoreCtx) : (s.updCtx c f).fwLeaves = s.fwLeaves := rfl
@[simp] theorem State.updCtx_spares (s : State) (c : Nat) (f : CoreCtx → CoreCtx) : (s.updCtx c f).spares = s.spares := rfl
@[simp] theorem State.updCtx_doe (s : State) (c : Nat) (f : CoreCtx → CoreCtx) : (s.updCtx c f).doe = s.doe := rfl
@[simp] theorem State.updCtx_cycle (s : State) (c : Nat) (f : CoreCtx → CoreCtx) : (s.updCtx c f).cycle = s.cycle := rfl
@[simp] theorem State.updCtx_arith (s : State) (c : Nat) (f : CoreCtx → CoreCtx) : (s.updCtx c f).arith = s.arith := rfl
@[simp] theorem State.updCtx_order (s : State) (c : Nat) (f : CoreCtx → CoreCtx) : (s.updCtx c f).order = s.order := rfl
@[simp] theorem State.updCtx_agenda (s : State) (c : Nat) (f : CoreCtx → CoreCtx) : (s.updCtx c f).agenda = s.agenda := rfl
@[simp] theorem State.updCtx_focus (s : State) (c : Nat) (f : CoreCtx → CoreCtx) : (s.updCtx c f).focus = s.focus := rfl
@[simp] theorem State.updCtx_subject (s : State) (c : Nat) (f : CoreCtx → CoreCtx) : (s.updCtx c f).subject = s.subject := rfl
@[simp] theorem State.updCtx_eager (s : State) (c : Nat) (f : CoreCtx → CoreCtx) : (s.updCtx c f).eager = s.eager := rfl
@[simp] theorem State.updCtx_elems (s : State) (c : Nat) (f : CoreCtx → CoreCtx) : (s.updCtx c f).elems = s.elems := rfl
@[simp] theorem State.updCtx_engines (s : State) (c : Nat) (f : CoreCtx → CoreCtx) : (s.updCtx c f).engines = s.engines := rfl
@[simp] theorem State.updCtx_fresh (s : State) (c : Nat) (f : CoreCtx → CoreCtx) : (s.updCtx c f).fresh = s.fresh := rfl
/-! `State.updSec` changes `sections` only. -/
@[simp] theorem State.updSec_mem (s : State) (n : Nat) (f : SectionCtx → SectionCtx) : (s.updSec n f).mem = s.mem := rfl
@[simp] theorem State.updSec_poison (s : State) (n : Nat) (f : SectionCtx → SectionCtx) : (s.updSec n f).poison = s.poison := rfl
@[simp] theorem State.updSec_fkey (s : State) (n : Nat) (f : SectionCtx → SectionCtx) : (s.updSec n f).fkey = s.fkey := rfl
@[simp] theorem State.updSec_pads (s : State) (n : Nat) (f : SectionCtx → SectionCtx) : (s.updSec n f).pads = s.pads := rfl
@[simp] theorem State.updSec_home (s : State) (n : Nat) (f : SectionCtx → SectionCtx) : (s.updSec n f).home = s.home := rfl
@[simp] theorem State.updSec_l2 (s : State) (n : Nat) (f : SectionCtx → SectionCtx) : (s.updSec n f).l2 = s.l2 := rfl
@[simp] theorem State.updSec_watches (s : State) (n : Nat) (f : SectionCtx → SectionCtx) : (s.updSec n f).watches = s.watches := rfl
@[simp] theorem State.updSec_slots (s : State) (n : Nat) (f : SectionCtx → SectionCtx) : (s.updSec n f).slots = s.slots := rfl
@[simp] theorem State.updSec_cores (s : State) (n : Nat) (f : SectionCtx → SectionCtx) : (s.updSec n f).cores = s.cores := rfl
@[simp] theorem State.updSec_vfs (s : State) (n : Nat) (f : SectionCtx → SectionCtx) : (s.updSec n f).vfs = s.vfs := rfl
@[simp] theorem State.updSec_parts (s : State) (n : Nat) (f : SectionCtx → SectionCtx) : (s.updSec n f).parts = s.parts := rfl
@[simp] theorem State.updSec_dies (s : State) (n : Nat) (f : SectionCtx → SectionCtx) : (s.updSec n f).dies = s.dies := rfl
@[simp] theorem State.updSec_selvedge (s : State) (n : Nat) (f : SectionCtx → SectionCtx) : (s.updSec n f).selvedge = s.selvedge := rfl
@[simp] theorem State.updSec_frames (s : State) (n : Nat) (f : SectionCtx → SectionCtx) : (s.updSec n f).frames = s.frames := rfl
@[simp] theorem State.updSec_queued (s : State) (n : Nat) (f : SectionCtx → SectionCtx) : (s.updSec n f).queued = s.queued := rfl
@[simp] theorem State.updSec_offers (s : State) (n : Nat) (f : SectionCtx → SectionCtx) : (s.updSec n f).offers = s.offers := rfl
@[simp] theorem State.updSec_starts (s : State) (n : Nat) (f : SectionCtx → SectionCtx) : (s.updSec n f).starts = s.starts := rfl
@[simp] theorem State.updSec_heldStarts (s : State) (n : Nat) (f : SectionCtx → SectionCtx) : (s.updSec n f).heldStarts = s.heldStarts := rfl
@[simp] theorem State.updSec_pushes (s : State) (n : Nat) (f : SectionCtx → SectionCtx) : (s.updSec n f).pushes = s.pushes := rfl
@[simp] theorem State.updSec_records (s : State) (n : Nat) (f : SectionCtx → SectionCtx) : (s.updSec n f).records = s.records := rfl
@[simp] theorem State.updSec_awaits (s : State) (n : Nat) (f : SectionCtx → SectionCtx) : (s.updSec n f).awaits = s.awaits := rfl
@[simp] theorem State.updSec_pulls (s : State) (n : Nat) (f : SectionCtx → SectionCtx) : (s.updSec n f).pulls = s.pulls := rfl
@[simp] theorem State.updSec_clean (s : State) (n : Nat) (f : SectionCtx → SectionCtx) : (s.updSec n f).clean = s.clean := rfl
@[simp] theorem State.updSec_requests (s : State) (n : Nat) (f : SectionCtx → SectionCtx) : (s.updSec n f).requests = s.requests := rfl
@[simp] theorem State.updSec_longs (s : State) (n : Nat) (f : SectionCtx → SectionCtx) : (s.updSec n f).longs = s.longs := rfl
@[simp] theorem State.updSec_mailbox (s : State) (n : Nat) (f : SectionCtx → SectionCtx) : (s.updSec n f).mailbox = s.mailbox := rfl
@[simp] theorem State.updSec_epoch (s : State) (n : Nat) (f : SectionCtx → SectionCtx) : (s.updSec n f).epoch = s.epoch := rfl
@[simp] theorem State.updSec_receiptSerial (s : State) (n : Nat) (f : SectionCtx → SectionCtx) : (s.updSec n f).receiptSerial = s.receiptSerial := rfl
@[simp] theorem State.updSec_releaseEpochs (s : State) (n : Nat) (f : SectionCtx → SectionCtx) : (s.updSec n f).releaseEpochs = s.releaseEpochs := rfl
@[simp] theorem State.updSec_frameVfs (s : State) (n : Nat) (f : SectionCtx → SectionCtx) : (s.updSec n f).frameVfs = s.frameVfs := rfl
@[simp] theorem State.updSec_windows (s : State) (n : Nat) (f : SectionCtx → SectionCtx) : (s.updSec n f).windows = s.windows := rfl
@[simp] theorem State.updSec_cxlDown (s : State) (n : Nat) (f : SectionCtx → SectionCtx) : (s.updSec n f).cxlDown = s.cxlDown := rfl
@[simp] theorem State.updSec_ueDown (s : State) (n : Nat) (f : SectionCtx → SectionCtx) : (s.updSec n f).ueDown = s.ueDown := rfl
@[simp] theorem State.updSec_meshDown (s : State) (n : Nat) (f : SectionCtx → SectionCtx) : (s.updSec n f).meshDown = s.meshDown := rfl
@[simp] theorem State.updSec_column (s : State) (n : Nat) (f : SectionCtx → SectionCtx) : (s.updSec n f).column = s.column := rfl
@[simp] theorem State.updSec_heartbeats (s : State) (n : Nat) (f : SectionCtx → SectionCtx) : (s.updSec n f).heartbeats = s.heartbeats := rfl
@[simp] theorem State.updSec_errata (s : State) (n : Nat) (f : SectionCtx → SectionCtx) : (s.updSec n f).errata = s.errata := rfl
@[simp] theorem State.updSec_fusedSerial (s : State) (n : Nat) (f : SectionCtx → SectionCtx) : (s.updSec n f).fusedSerial = s.fusedSerial := rfl
@[simp] theorem State.updSec_identityTrusted (s : State) (n : Nat) (f : SectionCtx → SectionCtx) : (s.updSec n f).identityTrusted = s.identityTrusted := rfl
@[simp] theorem State.updSec_ilyonoReason (s : State) (n : Nat) (f : SectionCtx → SectionCtx) : (s.updSec n f).ilyonoReason = s.ilyonoReason := rfl
@[simp] theorem State.updSec_securityDown (s : State) (n : Nat) (f : SectionCtx → SectionCtx) : (s.updSec n f).securityDown = s.securityDown := rfl
@[simp] theorem State.updSec_ready (s : State) (n : Nat) (f : SectionCtx → SectionCtx) : (s.updSec n f).ready = s.ready := rfl
@[simp] theorem State.updSec_fatal (s : State) (n : Nat) (f : SectionCtx → SectionCtx) : (s.updSec n f).fatal = s.fatal := rfl
@[simp] theorem State.updSec_pfVector (s : State) (n : Nat) (f : SectionCtx → SectionCtx) : (s.updSec n f).pfVector = s.pfVector := rfl
@[simp] theorem State.updSec_dump (s : State) (n : Nat) (f : SectionCtx → SectionCtx) : (s.updSec n f).dump = s.dump := rfl
@[simp] theorem State.updSec_logSelect (s : State) (n : Nat) (f : SectionCtx → SectionCtx) : (s.updSec n f).logSelect = s.logSelect := rfl
@[simp] theorem State.updSec_logWindow (s : State) (n : Nat) (f : SectionCtx → SectionCtx) : (s.updSec n f).logWindow = s.logWindow := rfl
@[simp] theorem State.updSec_throttle (s : State) (n : Nat) (f : SectionCtx → SectionCtx) : (s.updSec n f).throttle = s.throttle := rfl
@[simp] theorem State.updSec_fwLeaves (s : State) (n : Nat) (f : SectionCtx → SectionCtx) : (s.updSec n f).fwLeaves = s.fwLeaves := rfl
@[simp] theorem State.updSec_spares (s : State) (n : Nat) (f : SectionCtx → SectionCtx) : (s.updSec n f).spares = s.spares := rfl
@[simp] theorem State.updSec_doe (s : State) (n : Nat) (f : SectionCtx → SectionCtx) : (s.updSec n f).doe = s.doe := rfl
@[simp] theorem State.updSec_cycle (s : State) (n : Nat) (f : SectionCtx → SectionCtx) : (s.updSec n f).cycle = s.cycle := rfl
@[simp] theorem State.updSec_arith (s : State) (n : Nat) (f : SectionCtx → SectionCtx) : (s.updSec n f).arith = s.arith := rfl
@[simp] theorem State.updSec_order (s : State) (n : Nat) (f : SectionCtx → SectionCtx) : (s.updSec n f).order = s.order := rfl
@[simp] theorem State.updSec_agenda (s : State) (n : Nat) (f : SectionCtx → SectionCtx) : (s.updSec n f).agenda = s.agenda := rfl
@[simp] theorem State.updSec_focus (s : State) (n : Nat) (f : SectionCtx → SectionCtx) : (s.updSec n f).focus = s.focus := rfl
@[simp] theorem State.updSec_subject (s : State) (n : Nat) (f : SectionCtx → SectionCtx) : (s.updSec n f).subject = s.subject := rfl
@[simp] theorem State.updSec_eager (s : State) (n : Nat) (f : SectionCtx → SectionCtx) : (s.updSec n f).eager = s.eager := rfl
@[simp] theorem State.updSec_elems (s : State) (n : Nat) (f : SectionCtx → SectionCtx) : (s.updSec n f).elems = s.elems := rfl
@[simp] theorem State.updSec_engines (s : State) (n : Nat) (f : SectionCtx → SectionCtx) : (s.updSec n f).engines = s.engines := rfl
@[simp] theorem State.updSec_fresh (s : State) (n : Nat) (f : SectionCtx → SectionCtx) : (s.updSec n f).fresh = s.fresh := rfl
/-! `State.updVf` changes `vfs` only. -/
@[simp] theorem State.updVf_mem (s : State) (n : Nat) (f : Vf → Vf) : (s.updVf n f).mem = s.mem := rfl
@[simp] theorem State.updVf_poison (s : State) (n : Nat) (f : Vf → Vf) : (s.updVf n f).poison = s.poison := rfl
@[simp] theorem State.updVf_fkey (s : State) (n : Nat) (f : Vf → Vf) : (s.updVf n f).fkey = s.fkey := rfl
@[simp] theorem State.updVf_pads (s : State) (n : Nat) (f : Vf → Vf) : (s.updVf n f).pads = s.pads := rfl
@[simp] theorem State.updVf_home (s : State) (n : Nat) (f : Vf → Vf) : (s.updVf n f).home = s.home := rfl
@[simp] theorem State.updVf_l2 (s : State) (n : Nat) (f : Vf → Vf) : (s.updVf n f).l2 = s.l2 := rfl
@[simp] theorem State.updVf_watches (s : State) (n : Nat) (f : Vf → Vf) : (s.updVf n f).watches = s.watches := rfl
@[simp] theorem State.updVf_slots (s : State) (n : Nat) (f : Vf → Vf) : (s.updVf n f).slots = s.slots := rfl
@[simp] theorem State.updVf_cores (s : State) (n : Nat) (f : Vf → Vf) : (s.updVf n f).cores = s.cores := rfl
@[simp] theorem State.updVf_sections (s : State) (n : Nat) (f : Vf → Vf) : (s.updVf n f).sections = s.sections := rfl
@[simp] theorem State.updVf_parts (s : State) (n : Nat) (f : Vf → Vf) : (s.updVf n f).parts = s.parts := rfl
@[simp] theorem State.updVf_dies (s : State) (n : Nat) (f : Vf → Vf) : (s.updVf n f).dies = s.dies := rfl
@[simp] theorem State.updVf_selvedge (s : State) (n : Nat) (f : Vf → Vf) : (s.updVf n f).selvedge = s.selvedge := rfl
@[simp] theorem State.updVf_frames (s : State) (n : Nat) (f : Vf → Vf) : (s.updVf n f).frames = s.frames := rfl
@[simp] theorem State.updVf_queued (s : State) (n : Nat) (f : Vf → Vf) : (s.updVf n f).queued = s.queued := rfl
@[simp] theorem State.updVf_offers (s : State) (n : Nat) (f : Vf → Vf) : (s.updVf n f).offers = s.offers := rfl
@[simp] theorem State.updVf_starts (s : State) (n : Nat) (f : Vf → Vf) : (s.updVf n f).starts = s.starts := rfl
@[simp] theorem State.updVf_heldStarts (s : State) (n : Nat) (f : Vf → Vf) : (s.updVf n f).heldStarts = s.heldStarts := rfl
@[simp] theorem State.updVf_pushes (s : State) (n : Nat) (f : Vf → Vf) : (s.updVf n f).pushes = s.pushes := rfl
@[simp] theorem State.updVf_records (s : State) (n : Nat) (f : Vf → Vf) : (s.updVf n f).records = s.records := rfl
@[simp] theorem State.updVf_awaits (s : State) (n : Nat) (f : Vf → Vf) : (s.updVf n f).awaits = s.awaits := rfl
@[simp] theorem State.updVf_pulls (s : State) (n : Nat) (f : Vf → Vf) : (s.updVf n f).pulls = s.pulls := rfl
@[simp] theorem State.updVf_clean (s : State) (n : Nat) (f : Vf → Vf) : (s.updVf n f).clean = s.clean := rfl
@[simp] theorem State.updVf_requests (s : State) (n : Nat) (f : Vf → Vf) : (s.updVf n f).requests = s.requests := rfl
@[simp] theorem State.updVf_longs (s : State) (n : Nat) (f : Vf → Vf) : (s.updVf n f).longs = s.longs := rfl
@[simp] theorem State.updVf_mailbox (s : State) (n : Nat) (f : Vf → Vf) : (s.updVf n f).mailbox = s.mailbox := rfl
@[simp] theorem State.updVf_epoch (s : State) (n : Nat) (f : Vf → Vf) : (s.updVf n f).epoch = s.epoch := rfl
@[simp] theorem State.updVf_receiptSerial (s : State) (n : Nat) (f : Vf → Vf) : (s.updVf n f).receiptSerial = s.receiptSerial := rfl
@[simp] theorem State.updVf_releaseEpochs (s : State) (n : Nat) (f : Vf → Vf) : (s.updVf n f).releaseEpochs = s.releaseEpochs := rfl
@[simp] theorem State.updVf_frameVfs (s : State) (n : Nat) (f : Vf → Vf) : (s.updVf n f).frameVfs = s.frameVfs := rfl
@[simp] theorem State.updVf_windows (s : State) (n : Nat) (f : Vf → Vf) : (s.updVf n f).windows = s.windows := rfl
@[simp] theorem State.updVf_cxlDown (s : State) (n : Nat) (f : Vf → Vf) : (s.updVf n f).cxlDown = s.cxlDown := rfl
@[simp] theorem State.updVf_ueDown (s : State) (n : Nat) (f : Vf → Vf) : (s.updVf n f).ueDown = s.ueDown := rfl
@[simp] theorem State.updVf_meshDown (s : State) (n : Nat) (f : Vf → Vf) : (s.updVf n f).meshDown = s.meshDown := rfl
@[simp] theorem State.updVf_column (s : State) (n : Nat) (f : Vf → Vf) : (s.updVf n f).column = s.column := rfl
@[simp] theorem State.updVf_heartbeats (s : State) (n : Nat) (f : Vf → Vf) : (s.updVf n f).heartbeats = s.heartbeats := rfl
@[simp] theorem State.updVf_errata (s : State) (n : Nat) (f : Vf → Vf) : (s.updVf n f).errata = s.errata := rfl
@[simp] theorem State.updVf_fusedSerial (s : State) (n : Nat) (f : Vf → Vf) : (s.updVf n f).fusedSerial = s.fusedSerial := rfl
@[simp] theorem State.updVf_identityTrusted (s : State) (n : Nat) (f : Vf → Vf) : (s.updVf n f).identityTrusted = s.identityTrusted := rfl
@[simp] theorem State.updVf_ilyonoReason (s : State) (n : Nat) (f : Vf → Vf) : (s.updVf n f).ilyonoReason = s.ilyonoReason := rfl
@[simp] theorem State.updVf_securityDown (s : State) (n : Nat) (f : Vf → Vf) : (s.updVf n f).securityDown = s.securityDown := rfl
@[simp] theorem State.updVf_ready (s : State) (n : Nat) (f : Vf → Vf) : (s.updVf n f).ready = s.ready := rfl
@[simp] theorem State.updVf_fatal (s : State) (n : Nat) (f : Vf → Vf) : (s.updVf n f).fatal = s.fatal := rfl
@[simp] theorem State.updVf_pfVector (s : State) (n : Nat) (f : Vf → Vf) : (s.updVf n f).pfVector = s.pfVector := rfl
@[simp] theorem State.updVf_dump (s : State) (n : Nat) (f : Vf → Vf) : (s.updVf n f).dump = s.dump := rfl
@[simp] theorem State.updVf_logSelect (s : State) (n : Nat) (f : Vf → Vf) : (s.updVf n f).logSelect = s.logSelect := rfl
@[simp] theorem State.updVf_logWindow (s : State) (n : Nat) (f : Vf → Vf) : (s.updVf n f).logWindow = s.logWindow := rfl
@[simp] theorem State.updVf_throttle (s : State) (n : Nat) (f : Vf → Vf) : (s.updVf n f).throttle = s.throttle := rfl
@[simp] theorem State.updVf_fwLeaves (s : State) (n : Nat) (f : Vf → Vf) : (s.updVf n f).fwLeaves = s.fwLeaves := rfl
@[simp] theorem State.updVf_spares (s : State) (n : Nat) (f : Vf → Vf) : (s.updVf n f).spares = s.spares := rfl
@[simp] theorem State.updVf_doe (s : State) (n : Nat) (f : Vf → Vf) : (s.updVf n f).doe = s.doe := rfl
@[simp] theorem State.updVf_cycle (s : State) (n : Nat) (f : Vf → Vf) : (s.updVf n f).cycle = s.cycle := rfl
@[simp] theorem State.updVf_arith (s : State) (n : Nat) (f : Vf → Vf) : (s.updVf n f).arith = s.arith := rfl
@[simp] theorem State.updVf_order (s : State) (n : Nat) (f : Vf → Vf) : (s.updVf n f).order = s.order := rfl
@[simp] theorem State.updVf_agenda (s : State) (n : Nat) (f : Vf → Vf) : (s.updVf n f).agenda = s.agenda := rfl
@[simp] theorem State.updVf_focus (s : State) (n : Nat) (f : Vf → Vf) : (s.updVf n f).focus = s.focus := rfl
@[simp] theorem State.updVf_subject (s : State) (n : Nat) (f : Vf → Vf) : (s.updVf n f).subject = s.subject := rfl
@[simp] theorem State.updVf_eager (s : State) (n : Nat) (f : Vf → Vf) : (s.updVf n f).eager = s.eager := rfl
@[simp] theorem State.updVf_elems (s : State) (n : Nat) (f : Vf → Vf) : (s.updVf n f).elems = s.elems := rfl
@[simp] theorem State.updVf_engines (s : State) (n : Nat) (f : Vf → Vf) : (s.updVf n f).engines = s.engines := rfl
@[simp] theorem State.updVf_fresh (s : State) (n : Nat) (f : Vf → Vf) : (s.updVf n f).fresh = s.fresh := rfl
/-! `State.updPart` changes `parts` only. -/
@[simp] theorem State.updPart_mem (s : State) (n : Nat) (f : Partition → Partition) : (s.updPart n f).mem = s.mem := rfl
@[simp] theorem State.updPart_poison (s : State) (n : Nat) (f : Partition → Partition) : (s.updPart n f).poison = s.poison := rfl
@[simp] theorem State.updPart_fkey (s : State) (n : Nat) (f : Partition → Partition) : (s.updPart n f).fkey = s.fkey := rfl
@[simp] theorem State.updPart_pads (s : State) (n : Nat) (f : Partition → Partition) : (s.updPart n f).pads = s.pads := rfl
@[simp] theorem State.updPart_home (s : State) (n : Nat) (f : Partition → Partition) : (s.updPart n f).home = s.home := rfl
@[simp] theorem State.updPart_l2 (s : State) (n : Nat) (f : Partition → Partition) : (s.updPart n f).l2 = s.l2 := rfl
@[simp] theorem State.updPart_watches (s : State) (n : Nat) (f : Partition → Partition) : (s.updPart n f).watches = s.watches := rfl
@[simp] theorem State.updPart_slots (s : State) (n : Nat) (f : Partition → Partition) : (s.updPart n f).slots = s.slots := rfl
@[simp] theorem State.updPart_cores (s : State) (n : Nat) (f : Partition → Partition) : (s.updPart n f).cores = s.cores := rfl
@[simp] theorem State.updPart_sections (s : State) (n : Nat) (f : Partition → Partition) : (s.updPart n f).sections = s.sections := rfl
@[simp] theorem State.updPart_vfs (s : State) (n : Nat) (f : Partition → Partition) : (s.updPart n f).vfs = s.vfs := rfl
@[simp] theorem State.updPart_dies (s : State) (n : Nat) (f : Partition → Partition) : (s.updPart n f).dies = s.dies := rfl
@[simp] theorem State.updPart_selvedge (s : State) (n : Nat) (f : Partition → Partition) : (s.updPart n f).selvedge = s.selvedge := rfl
@[simp] theorem State.updPart_frames (s : State) (n : Nat) (f : Partition → Partition) : (s.updPart n f).frames = s.frames := rfl
@[simp] theorem State.updPart_queued (s : State) (n : Nat) (f : Partition → Partition) : (s.updPart n f).queued = s.queued := rfl
@[simp] theorem State.updPart_offers (s : State) (n : Nat) (f : Partition → Partition) : (s.updPart n f).offers = s.offers := rfl
@[simp] theorem State.updPart_starts (s : State) (n : Nat) (f : Partition → Partition) : (s.updPart n f).starts = s.starts := rfl
@[simp] theorem State.updPart_heldStarts (s : State) (n : Nat) (f : Partition → Partition) : (s.updPart n f).heldStarts = s.heldStarts := rfl
@[simp] theorem State.updPart_pushes (s : State) (n : Nat) (f : Partition → Partition) : (s.updPart n f).pushes = s.pushes := rfl
@[simp] theorem State.updPart_records (s : State) (n : Nat) (f : Partition → Partition) : (s.updPart n f).records = s.records := rfl
@[simp] theorem State.updPart_awaits (s : State) (n : Nat) (f : Partition → Partition) : (s.updPart n f).awaits = s.awaits := rfl
@[simp] theorem State.updPart_pulls (s : State) (n : Nat) (f : Partition → Partition) : (s.updPart n f).pulls = s.pulls := rfl
@[simp] theorem State.updPart_clean (s : State) (n : Nat) (f : Partition → Partition) : (s.updPart n f).clean = s.clean := rfl
@[simp] theorem State.updPart_requests (s : State) (n : Nat) (f : Partition → Partition) : (s.updPart n f).requests = s.requests := rfl
@[simp] theorem State.updPart_longs (s : State) (n : Nat) (f : Partition → Partition) : (s.updPart n f).longs = s.longs := rfl
@[simp] theorem State.updPart_mailbox (s : State) (n : Nat) (f : Partition → Partition) : (s.updPart n f).mailbox = s.mailbox := rfl
@[simp] theorem State.updPart_epoch (s : State) (n : Nat) (f : Partition → Partition) : (s.updPart n f).epoch = s.epoch := rfl
@[simp] theorem State.updPart_receiptSerial (s : State) (n : Nat) (f : Partition → Partition) : (s.updPart n f).receiptSerial = s.receiptSerial := rfl
@[simp] theorem State.updPart_releaseEpochs (s : State) (n : Nat) (f : Partition → Partition) : (s.updPart n f).releaseEpochs = s.releaseEpochs := rfl
@[simp] theorem State.updPart_frameVfs (s : State) (n : Nat) (f : Partition → Partition) : (s.updPart n f).frameVfs = s.frameVfs := rfl
@[simp] theorem State.updPart_windows (s : State) (n : Nat) (f : Partition → Partition) : (s.updPart n f).windows = s.windows := rfl
@[simp] theorem State.updPart_cxlDown (s : State) (n : Nat) (f : Partition → Partition) : (s.updPart n f).cxlDown = s.cxlDown := rfl
@[simp] theorem State.updPart_ueDown (s : State) (n : Nat) (f : Partition → Partition) : (s.updPart n f).ueDown = s.ueDown := rfl
@[simp] theorem State.updPart_meshDown (s : State) (n : Nat) (f : Partition → Partition) : (s.updPart n f).meshDown = s.meshDown := rfl
@[simp] theorem State.updPart_column (s : State) (n : Nat) (f : Partition → Partition) : (s.updPart n f).column = s.column := rfl
@[simp] theorem State.updPart_heartbeats (s : State) (n : Nat) (f : Partition → Partition) : (s.updPart n f).heartbeats = s.heartbeats := rfl
@[simp] theorem State.updPart_errata (s : State) (n : Nat) (f : Partition → Partition) : (s.updPart n f).errata = s.errata := rfl
@[simp] theorem State.updPart_fusedSerial (s : State) (n : Nat) (f : Partition → Partition) : (s.updPart n f).fusedSerial = s.fusedSerial := rfl
@[simp] theorem State.updPart_identityTrusted (s : State) (n : Nat) (f : Partition → Partition) : (s.updPart n f).identityTrusted = s.identityTrusted := rfl
@[simp] theorem State.updPart_ilyonoReason (s : State) (n : Nat) (f : Partition → Partition) : (s.updPart n f).ilyonoReason = s.ilyonoReason := rfl
@[simp] theorem State.updPart_securityDown (s : State) (n : Nat) (f : Partition → Partition) : (s.updPart n f).securityDown = s.securityDown := rfl
@[simp] theorem State.updPart_ready (s : State) (n : Nat) (f : Partition → Partition) : (s.updPart n f).ready = s.ready := rfl
@[simp] theorem State.updPart_fatal (s : State) (n : Nat) (f : Partition → Partition) : (s.updPart n f).fatal = s.fatal := rfl
@[simp] theorem State.updPart_pfVector (s : State) (n : Nat) (f : Partition → Partition) : (s.updPart n f).pfVector = s.pfVector := rfl
@[simp] theorem State.updPart_dump (s : State) (n : Nat) (f : Partition → Partition) : (s.updPart n f).dump = s.dump := rfl
@[simp] theorem State.updPart_logSelect (s : State) (n : Nat) (f : Partition → Partition) : (s.updPart n f).logSelect = s.logSelect := rfl
@[simp] theorem State.updPart_logWindow (s : State) (n : Nat) (f : Partition → Partition) : (s.updPart n f).logWindow = s.logWindow := rfl
@[simp] theorem State.updPart_throttle (s : State) (n : Nat) (f : Partition → Partition) : (s.updPart n f).throttle = s.throttle := rfl
@[simp] theorem State.updPart_fwLeaves (s : State) (n : Nat) (f : Partition → Partition) : (s.updPart n f).fwLeaves = s.fwLeaves := rfl
@[simp] theorem State.updPart_spares (s : State) (n : Nat) (f : Partition → Partition) : (s.updPart n f).spares = s.spares := rfl
@[simp] theorem State.updPart_doe (s : State) (n : Nat) (f : Partition → Partition) : (s.updPart n f).doe = s.doe := rfl
@[simp] theorem State.updPart_cycle (s : State) (n : Nat) (f : Partition → Partition) : (s.updPart n f).cycle = s.cycle := rfl
@[simp] theorem State.updPart_arith (s : State) (n : Nat) (f : Partition → Partition) : (s.updPart n f).arith = s.arith := rfl
@[simp] theorem State.updPart_order (s : State) (n : Nat) (f : Partition → Partition) : (s.updPart n f).order = s.order := rfl
@[simp] theorem State.updPart_agenda (s : State) (n : Nat) (f : Partition → Partition) : (s.updPart n f).agenda = s.agenda := rfl
@[simp] theorem State.updPart_focus (s : State) (n : Nat) (f : Partition → Partition) : (s.updPart n f).focus = s.focus := rfl
@[simp] theorem State.updPart_subject (s : State) (n : Nat) (f : Partition → Partition) : (s.updPart n f).subject = s.subject := rfl
@[simp] theorem State.updPart_eager (s : State) (n : Nat) (f : Partition → Partition) : (s.updPart n f).eager = s.eager := rfl
@[simp] theorem State.updPart_elems (s : State) (n : Nat) (f : Partition → Partition) : (s.updPart n f).elems = s.elems := rfl
@[simp] theorem State.updPart_engines (s : State) (n : Nat) (f : Partition → Partition) : (s.updPart n f).engines = s.engines := rfl
@[simp] theorem State.updPart_fresh (s : State) (n : Nat) (f : Partition → Partition) : (s.updPart n f).fresh = s.fresh := rfl
/-! `State.updDie` changes `dies` only. -/
@[simp] theorem State.updDie_mem (s : State) (n : Nat) (f : Die → Die) : (s.updDie n f).mem = s.mem := rfl
@[simp] theorem State.updDie_poison (s : State) (n : Nat) (f : Die → Die) : (s.updDie n f).poison = s.poison := rfl
@[simp] theorem State.updDie_fkey (s : State) (n : Nat) (f : Die → Die) : (s.updDie n f).fkey = s.fkey := rfl
@[simp] theorem State.updDie_pads (s : State) (n : Nat) (f : Die → Die) : (s.updDie n f).pads = s.pads := rfl
@[simp] theorem State.updDie_home (s : State) (n : Nat) (f : Die → Die) : (s.updDie n f).home = s.home := rfl
@[simp] theorem State.updDie_l2 (s : State) (n : Nat) (f : Die → Die) : (s.updDie n f).l2 = s.l2 := rfl
@[simp] theorem State.updDie_watches (s : State) (n : Nat) (f : Die → Die) : (s.updDie n f).watches = s.watches := rfl
@[simp] theorem State.updDie_slots (s : State) (n : Nat) (f : Die → Die) : (s.updDie n f).slots = s.slots := rfl
@[simp] theorem State.updDie_cores (s : State) (n : Nat) (f : Die → Die) : (s.updDie n f).cores = s.cores := rfl
@[simp] theorem State.updDie_sections (s : State) (n : Nat) (f : Die → Die) : (s.updDie n f).sections = s.sections := rfl
@[simp] theorem State.updDie_vfs (s : State) (n : Nat) (f : Die → Die) : (s.updDie n f).vfs = s.vfs := rfl
@[simp] theorem State.updDie_parts (s : State) (n : Nat) (f : Die → Die) : (s.updDie n f).parts = s.parts := rfl
@[simp] theorem State.updDie_selvedge (s : State) (n : Nat) (f : Die → Die) : (s.updDie n f).selvedge = s.selvedge := rfl
@[simp] theorem State.updDie_frames (s : State) (n : Nat) (f : Die → Die) : (s.updDie n f).frames = s.frames := rfl
@[simp] theorem State.updDie_queued (s : State) (n : Nat) (f : Die → Die) : (s.updDie n f).queued = s.queued := rfl
@[simp] theorem State.updDie_offers (s : State) (n : Nat) (f : Die → Die) : (s.updDie n f).offers = s.offers := rfl
@[simp] theorem State.updDie_starts (s : State) (n : Nat) (f : Die → Die) : (s.updDie n f).starts = s.starts := rfl
@[simp] theorem State.updDie_heldStarts (s : State) (n : Nat) (f : Die → Die) : (s.updDie n f).heldStarts = s.heldStarts := rfl
@[simp] theorem State.updDie_pushes (s : State) (n : Nat) (f : Die → Die) : (s.updDie n f).pushes = s.pushes := rfl
@[simp] theorem State.updDie_records (s : State) (n : Nat) (f : Die → Die) : (s.updDie n f).records = s.records := rfl
@[simp] theorem State.updDie_awaits (s : State) (n : Nat) (f : Die → Die) : (s.updDie n f).awaits = s.awaits := rfl
@[simp] theorem State.updDie_pulls (s : State) (n : Nat) (f : Die → Die) : (s.updDie n f).pulls = s.pulls := rfl
@[simp] theorem State.updDie_clean (s : State) (n : Nat) (f : Die → Die) : (s.updDie n f).clean = s.clean := rfl
@[simp] theorem State.updDie_requests (s : State) (n : Nat) (f : Die → Die) : (s.updDie n f).requests = s.requests := rfl
@[simp] theorem State.updDie_longs (s : State) (n : Nat) (f : Die → Die) : (s.updDie n f).longs = s.longs := rfl
@[simp] theorem State.updDie_mailbox (s : State) (n : Nat) (f : Die → Die) : (s.updDie n f).mailbox = s.mailbox := rfl
@[simp] theorem State.updDie_epoch (s : State) (n : Nat) (f : Die → Die) : (s.updDie n f).epoch = s.epoch := rfl
@[simp] theorem State.updDie_receiptSerial (s : State) (n : Nat) (f : Die → Die) : (s.updDie n f).receiptSerial = s.receiptSerial := rfl
@[simp] theorem State.updDie_releaseEpochs (s : State) (n : Nat) (f : Die → Die) : (s.updDie n f).releaseEpochs = s.releaseEpochs := rfl
@[simp] theorem State.updDie_frameVfs (s : State) (n : Nat) (f : Die → Die) : (s.updDie n f).frameVfs = s.frameVfs := rfl
@[simp] theorem State.updDie_windows (s : State) (n : Nat) (f : Die → Die) : (s.updDie n f).windows = s.windows := rfl
@[simp] theorem State.updDie_cxlDown (s : State) (n : Nat) (f : Die → Die) : (s.updDie n f).cxlDown = s.cxlDown := rfl
@[simp] theorem State.updDie_ueDown (s : State) (n : Nat) (f : Die → Die) : (s.updDie n f).ueDown = s.ueDown := rfl
@[simp] theorem State.updDie_meshDown (s : State) (n : Nat) (f : Die → Die) : (s.updDie n f).meshDown = s.meshDown := rfl
@[simp] theorem State.updDie_column (s : State) (n : Nat) (f : Die → Die) : (s.updDie n f).column = s.column := rfl
@[simp] theorem State.updDie_heartbeats (s : State) (n : Nat) (f : Die → Die) : (s.updDie n f).heartbeats = s.heartbeats := rfl
@[simp] theorem State.updDie_errata (s : State) (n : Nat) (f : Die → Die) : (s.updDie n f).errata = s.errata := rfl
@[simp] theorem State.updDie_fusedSerial (s : State) (n : Nat) (f : Die → Die) : (s.updDie n f).fusedSerial = s.fusedSerial := rfl
@[simp] theorem State.updDie_identityTrusted (s : State) (n : Nat) (f : Die → Die) : (s.updDie n f).identityTrusted = s.identityTrusted := rfl
@[simp] theorem State.updDie_ilyonoReason (s : State) (n : Nat) (f : Die → Die) : (s.updDie n f).ilyonoReason = s.ilyonoReason := rfl
@[simp] theorem State.updDie_securityDown (s : State) (n : Nat) (f : Die → Die) : (s.updDie n f).securityDown = s.securityDown := rfl
@[simp] theorem State.updDie_ready (s : State) (n : Nat) (f : Die → Die) : (s.updDie n f).ready = s.ready := rfl
@[simp] theorem State.updDie_fatal (s : State) (n : Nat) (f : Die → Die) : (s.updDie n f).fatal = s.fatal := rfl
@[simp] theorem State.updDie_pfVector (s : State) (n : Nat) (f : Die → Die) : (s.updDie n f).pfVector = s.pfVector := rfl
@[simp] theorem State.updDie_dump (s : State) (n : Nat) (f : Die → Die) : (s.updDie n f).dump = s.dump := rfl
@[simp] theorem State.updDie_logSelect (s : State) (n : Nat) (f : Die → Die) : (s.updDie n f).logSelect = s.logSelect := rfl
@[simp] theorem State.updDie_logWindow (s : State) (n : Nat) (f : Die → Die) : (s.updDie n f).logWindow = s.logWindow := rfl
@[simp] theorem State.updDie_throttle (s : State) (n : Nat) (f : Die → Die) : (s.updDie n f).throttle = s.throttle := rfl
@[simp] theorem State.updDie_fwLeaves (s : State) (n : Nat) (f : Die → Die) : (s.updDie n f).fwLeaves = s.fwLeaves := rfl
@[simp] theorem State.updDie_spares (s : State) (n : Nat) (f : Die → Die) : (s.updDie n f).spares = s.spares := rfl
@[simp] theorem State.updDie_doe (s : State) (n : Nat) (f : Die → Die) : (s.updDie n f).doe = s.doe := rfl
@[simp] theorem State.updDie_cycle (s : State) (n : Nat) (f : Die → Die) : (s.updDie n f).cycle = s.cycle := rfl
@[simp] theorem State.updDie_arith (s : State) (n : Nat) (f : Die → Die) : (s.updDie n f).arith = s.arith := rfl
@[simp] theorem State.updDie_order (s : State) (n : Nat) (f : Die → Die) : (s.updDie n f).order = s.order := rfl
@[simp] theorem State.updDie_agenda (s : State) (n : Nat) (f : Die → Die) : (s.updDie n f).agenda = s.agenda := rfl
@[simp] theorem State.updDie_focus (s : State) (n : Nat) (f : Die → Die) : (s.updDie n f).focus = s.focus := rfl
@[simp] theorem State.updDie_subject (s : State) (n : Nat) (f : Die → Die) : (s.updDie n f).subject = s.subject := rfl
@[simp] theorem State.updDie_eager (s : State) (n : Nat) (f : Die → Die) : (s.updDie n f).eager = s.eager := rfl
@[simp] theorem State.updDie_elems (s : State) (n : Nat) (f : Die → Die) : (s.updDie n f).elems = s.elems := rfl
@[simp] theorem State.updDie_engines (s : State) (n : Nat) (f : Die → Die) : (s.updDie n f).engines = s.engines := rfl
@[simp] theorem State.updDie_fresh (s : State) (n : Nat) (f : Die → Die) : (s.updDie n f).fresh = s.fresh := rfl
/-! `State.putByte` changes `mem` only. -/
@[simp] theorem State.putByte_poison (s : State) (a : Nat) (v : Byte) : (s.putByte a v).poison = s.poison := rfl
@[simp] theorem State.putByte_fkey (s : State) (a : Nat) (v : Byte) : (s.putByte a v).fkey = s.fkey := rfl
@[simp] theorem State.putByte_pads (s : State) (a : Nat) (v : Byte) : (s.putByte a v).pads = s.pads := rfl
@[simp] theorem State.putByte_home (s : State) (a : Nat) (v : Byte) : (s.putByte a v).home = s.home := rfl
@[simp] theorem State.putByte_l2 (s : State) (a : Nat) (v : Byte) : (s.putByte a v).l2 = s.l2 := rfl
@[simp] theorem State.putByte_watches (s : State) (a : Nat) (v : Byte) : (s.putByte a v).watches = s.watches := rfl
@[simp] theorem State.putByte_slots (s : State) (a : Nat) (v : Byte) : (s.putByte a v).slots = s.slots := rfl
@[simp] theorem State.putByte_cores (s : State) (a : Nat) (v : Byte) : (s.putByte a v).cores = s.cores := rfl
@[simp] theorem State.putByte_sections (s : State) (a : Nat) (v : Byte) : (s.putByte a v).sections = s.sections := rfl
@[simp] theorem State.putByte_vfs (s : State) (a : Nat) (v : Byte) : (s.putByte a v).vfs = s.vfs := rfl
@[simp] theorem State.putByte_parts (s : State) (a : Nat) (v : Byte) : (s.putByte a v).parts = s.parts := rfl
@[simp] theorem State.putByte_dies (s : State) (a : Nat) (v : Byte) : (s.putByte a v).dies = s.dies := rfl
@[simp] theorem State.putByte_selvedge (s : State) (a : Nat) (v : Byte) : (s.putByte a v).selvedge = s.selvedge := rfl
@[simp] theorem State.putByte_frames (s : State) (a : Nat) (v : Byte) : (s.putByte a v).frames = s.frames := rfl
@[simp] theorem State.putByte_queued (s : State) (a : Nat) (v : Byte) : (s.putByte a v).queued = s.queued := rfl
@[simp] theorem State.putByte_offers (s : State) (a : Nat) (v : Byte) : (s.putByte a v).offers = s.offers := rfl
@[simp] theorem State.putByte_starts (s : State) (a : Nat) (v : Byte) : (s.putByte a v).starts = s.starts := rfl
@[simp] theorem State.putByte_heldStarts (s : State) (a : Nat) (v : Byte) : (s.putByte a v).heldStarts = s.heldStarts := rfl
@[simp] theorem State.putByte_pushes (s : State) (a : Nat) (v : Byte) : (s.putByte a v).pushes = s.pushes := rfl
@[simp] theorem State.putByte_records (s : State) (a : Nat) (v : Byte) : (s.putByte a v).records = s.records := rfl
@[simp] theorem State.putByte_awaits (s : State) (a : Nat) (v : Byte) : (s.putByte a v).awaits = s.awaits := rfl
@[simp] theorem State.putByte_pulls (s : State) (a : Nat) (v : Byte) : (s.putByte a v).pulls = s.pulls := rfl
@[simp] theorem State.putByte_clean (s : State) (a : Nat) (v : Byte) : (s.putByte a v).clean = s.clean := rfl
@[simp] theorem State.putByte_requests (s : State) (a : Nat) (v : Byte) : (s.putByte a v).requests = s.requests := rfl
@[simp] theorem State.putByte_longs (s : State) (a : Nat) (v : Byte) : (s.putByte a v).longs = s.longs := rfl
@[simp] theorem State.putByte_mailbox (s : State) (a : Nat) (v : Byte) : (s.putByte a v).mailbox = s.mailbox := rfl
@[simp] theorem State.putByte_epoch (s : State) (a : Nat) (v : Byte) : (s.putByte a v).epoch = s.epoch := rfl
@[simp] theorem State.putByte_receiptSerial (s : State) (a : Nat) (v : Byte) : (s.putByte a v).receiptSerial = s.receiptSerial := rfl
@[simp] theorem State.putByte_releaseEpochs (s : State) (a : Nat) (v : Byte) : (s.putByte a v).releaseEpochs = s.releaseEpochs := rfl
@[simp] theorem State.putByte_frameVfs (s : State) (a : Nat) (v : Byte) : (s.putByte a v).frameVfs = s.frameVfs := rfl
@[simp] theorem State.putByte_windows (s : State) (a : Nat) (v : Byte) : (s.putByte a v).windows = s.windows := rfl
@[simp] theorem State.putByte_cxlDown (s : State) (a : Nat) (v : Byte) : (s.putByte a v).cxlDown = s.cxlDown := rfl
@[simp] theorem State.putByte_ueDown (s : State) (a : Nat) (v : Byte) : (s.putByte a v).ueDown = s.ueDown := rfl
@[simp] theorem State.putByte_meshDown (s : State) (a : Nat) (v : Byte) : (s.putByte a v).meshDown = s.meshDown := rfl
@[simp] theorem State.putByte_column (s : State) (a : Nat) (v : Byte) : (s.putByte a v).column = s.column := rfl
@[simp] theorem State.putByte_heartbeats (s : State) (a : Nat) (v : Byte) : (s.putByte a v).heartbeats = s.heartbeats := rfl
@[simp] theorem State.putByte_errata (s : State) (a : Nat) (v : Byte) : (s.putByte a v).errata = s.errata := rfl
@[simp] theorem State.putByte_fusedSerial (s : State) (a : Nat) (v : Byte) : (s.putByte a v).fusedSerial = s.fusedSerial := rfl
@[simp] theorem State.putByte_identityTrusted (s : State) (a : Nat) (v : Byte) : (s.putByte a v).identityTrusted = s.identityTrusted := rfl
@[simp] theorem State.putByte_ilyonoReason (s : State) (a : Nat) (v : Byte) : (s.putByte a v).ilyonoReason = s.ilyonoReason := rfl
@[simp] theorem State.putByte_securityDown (s : State) (a : Nat) (v : Byte) : (s.putByte a v).securityDown = s.securityDown := rfl
@[simp] theorem State.putByte_ready (s : State) (a : Nat) (v : Byte) : (s.putByte a v).ready = s.ready := rfl
@[simp] theorem State.putByte_fatal (s : State) (a : Nat) (v : Byte) : (s.putByte a v).fatal = s.fatal := rfl
@[simp] theorem State.putByte_pfVector (s : State) (a : Nat) (v : Byte) : (s.putByte a v).pfVector = s.pfVector := rfl
@[simp] theorem State.putByte_dump (s : State) (a : Nat) (v : Byte) : (s.putByte a v).dump = s.dump := rfl
@[simp] theorem State.putByte_logSelect (s : State) (a : Nat) (v : Byte) : (s.putByte a v).logSelect = s.logSelect := rfl
@[simp] theorem State.putByte_logWindow (s : State) (a : Nat) (v : Byte) : (s.putByte a v).logWindow = s.logWindow := rfl
@[simp] theorem State.putByte_throttle (s : State) (a : Nat) (v : Byte) : (s.putByte a v).throttle = s.throttle := rfl
@[simp] theorem State.putByte_fwLeaves (s : State) (a : Nat) (v : Byte) : (s.putByte a v).fwLeaves = s.fwLeaves := rfl
@[simp] theorem State.putByte_spares (s : State) (a : Nat) (v : Byte) : (s.putByte a v).spares = s.spares := rfl
@[simp] theorem State.putByte_doe (s : State) (a : Nat) (v : Byte) : (s.putByte a v).doe = s.doe := rfl
@[simp] theorem State.putByte_cycle (s : State) (a : Nat) (v : Byte) : (s.putByte a v).cycle = s.cycle := rfl
@[simp] theorem State.putByte_arith (s : State) (a : Nat) (v : Byte) : (s.putByte a v).arith = s.arith := rfl
@[simp] theorem State.putByte_order (s : State) (a : Nat) (v : Byte) : (s.putByte a v).order = s.order := rfl
@[simp] theorem State.putByte_agenda (s : State) (a : Nat) (v : Byte) : (s.putByte a v).agenda = s.agenda := rfl
@[simp] theorem State.putByte_focus (s : State) (a : Nat) (v : Byte) : (s.putByte a v).focus = s.focus := rfl
@[simp] theorem State.putByte_subject (s : State) (a : Nat) (v : Byte) : (s.putByte a v).subject = s.subject := rfl
@[simp] theorem State.putByte_eager (s : State) (a : Nat) (v : Byte) : (s.putByte a v).eager = s.eager := rfl
@[simp] theorem State.putByte_elems (s : State) (a : Nat) (v : Byte) : (s.putByte a v).elems = s.elems := rfl
@[simp] theorem State.putByte_engines (s : State) (a : Nat) (v : Byte) : (s.putByte a v).engines = s.engines := rfl
@[simp] theorem State.putByte_fresh (s : State) (a : Nat) (v : Byte) : (s.putByte a v).fresh = s.fresh := rfl
/-! `State.setPoison` changes `poison` only. -/
@[simp] theorem State.setPoison_mem (s : State) (a : Nat) (b : Bool) : (s.setPoison a b).mem = s.mem := rfl
@[simp] theorem State.setPoison_fkey (s : State) (a : Nat) (b : Bool) : (s.setPoison a b).fkey = s.fkey := rfl
@[simp] theorem State.setPoison_pads (s : State) (a : Nat) (b : Bool) : (s.setPoison a b).pads = s.pads := rfl
@[simp] theorem State.setPoison_home (s : State) (a : Nat) (b : Bool) : (s.setPoison a b).home = s.home := rfl
@[simp] theorem State.setPoison_l2 (s : State) (a : Nat) (b : Bool) : (s.setPoison a b).l2 = s.l2 := rfl
@[simp] theorem State.setPoison_watches (s : State) (a : Nat) (b : Bool) : (s.setPoison a b).watches = s.watches := rfl
@[simp] theorem State.setPoison_slots (s : State) (a : Nat) (b : Bool) : (s.setPoison a b).slots = s.slots := rfl
@[simp] theorem State.setPoison_cores (s : State) (a : Nat) (b : Bool) : (s.setPoison a b).cores = s.cores := rfl
@[simp] theorem State.setPoison_sections (s : State) (a : Nat) (b : Bool) : (s.setPoison a b).sections = s.sections := rfl
@[simp] theorem State.setPoison_vfs (s : State) (a : Nat) (b : Bool) : (s.setPoison a b).vfs = s.vfs := rfl
@[simp] theorem State.setPoison_parts (s : State) (a : Nat) (b : Bool) : (s.setPoison a b).parts = s.parts := rfl
@[simp] theorem State.setPoison_dies (s : State) (a : Nat) (b : Bool) : (s.setPoison a b).dies = s.dies := rfl
@[simp] theorem State.setPoison_selvedge (s : State) (a : Nat) (b : Bool) : (s.setPoison a b).selvedge = s.selvedge := rfl
@[simp] theorem State.setPoison_frames (s : State) (a : Nat) (b : Bool) : (s.setPoison a b).frames = s.frames := rfl
@[simp] theorem State.setPoison_queued (s : State) (a : Nat) (b : Bool) : (s.setPoison a b).queued = s.queued := rfl
@[simp] theorem State.setPoison_offers (s : State) (a : Nat) (b : Bool) : (s.setPoison a b).offers = s.offers := rfl
@[simp] theorem State.setPoison_starts (s : State) (a : Nat) (b : Bool) : (s.setPoison a b).starts = s.starts := rfl
@[simp] theorem State.setPoison_heldStarts (s : State) (a : Nat) (b : Bool) : (s.setPoison a b).heldStarts = s.heldStarts := rfl
@[simp] theorem State.setPoison_pushes (s : State) (a : Nat) (b : Bool) : (s.setPoison a b).pushes = s.pushes := rfl
@[simp] theorem State.setPoison_records (s : State) (a : Nat) (b : Bool) : (s.setPoison a b).records = s.records := rfl
@[simp] theorem State.setPoison_awaits (s : State) (a : Nat) (b : Bool) : (s.setPoison a b).awaits = s.awaits := rfl
@[simp] theorem State.setPoison_pulls (s : State) (a : Nat) (b : Bool) : (s.setPoison a b).pulls = s.pulls := rfl
@[simp] theorem State.setPoison_clean (s : State) (a : Nat) (b : Bool) : (s.setPoison a b).clean = s.clean := rfl
@[simp] theorem State.setPoison_requests (s : State) (a : Nat) (b : Bool) : (s.setPoison a b).requests = s.requests := rfl
@[simp] theorem State.setPoison_longs (s : State) (a : Nat) (b : Bool) : (s.setPoison a b).longs = s.longs := rfl
@[simp] theorem State.setPoison_mailbox (s : State) (a : Nat) (b : Bool) : (s.setPoison a b).mailbox = s.mailbox := rfl
@[simp] theorem State.setPoison_epoch (s : State) (a : Nat) (b : Bool) : (s.setPoison a b).epoch = s.epoch := rfl
@[simp] theorem State.setPoison_receiptSerial (s : State) (a : Nat) (b : Bool) : (s.setPoison a b).receiptSerial = s.receiptSerial := rfl
@[simp] theorem State.setPoison_releaseEpochs (s : State) (a : Nat) (b : Bool) : (s.setPoison a b).releaseEpochs = s.releaseEpochs := rfl
@[simp] theorem State.setPoison_frameVfs (s : State) (a : Nat) (b : Bool) : (s.setPoison a b).frameVfs = s.frameVfs := rfl
@[simp] theorem State.setPoison_windows (s : State) (a : Nat) (b : Bool) : (s.setPoison a b).windows = s.windows := rfl
@[simp] theorem State.setPoison_cxlDown (s : State) (a : Nat) (b : Bool) : (s.setPoison a b).cxlDown = s.cxlDown := rfl
@[simp] theorem State.setPoison_ueDown (s : State) (a : Nat) (b : Bool) : (s.setPoison a b).ueDown = s.ueDown := rfl
@[simp] theorem State.setPoison_meshDown (s : State) (a : Nat) (b : Bool) : (s.setPoison a b).meshDown = s.meshDown := rfl
@[simp] theorem State.setPoison_column (s : State) (a : Nat) (b : Bool) : (s.setPoison a b).column = s.column := rfl
@[simp] theorem State.setPoison_heartbeats (s : State) (a : Nat) (b : Bool) : (s.setPoison a b).heartbeats = s.heartbeats := rfl
@[simp] theorem State.setPoison_errata (s : State) (a : Nat) (b : Bool) : (s.setPoison a b).errata = s.errata := rfl
@[simp] theorem State.setPoison_fusedSerial (s : State) (a : Nat) (b : Bool) : (s.setPoison a b).fusedSerial = s.fusedSerial := rfl
@[simp] theorem State.setPoison_identityTrusted (s : State) (a : Nat) (b : Bool) : (s.setPoison a b).identityTrusted = s.identityTrusted := rfl
@[simp] theorem State.setPoison_ilyonoReason (s : State) (a : Nat) (b : Bool) : (s.setPoison a b).ilyonoReason = s.ilyonoReason := rfl
@[simp] theorem State.setPoison_securityDown (s : State) (a : Nat) (b : Bool) : (s.setPoison a b).securityDown = s.securityDown := rfl
@[simp] theorem State.setPoison_ready (s : State) (a : Nat) (b : Bool) : (s.setPoison a b).ready = s.ready := rfl
@[simp] theorem State.setPoison_fatal (s : State) (a : Nat) (b : Bool) : (s.setPoison a b).fatal = s.fatal := rfl
@[simp] theorem State.setPoison_pfVector (s : State) (a : Nat) (b : Bool) : (s.setPoison a b).pfVector = s.pfVector := rfl
@[simp] theorem State.setPoison_dump (s : State) (a : Nat) (b : Bool) : (s.setPoison a b).dump = s.dump := rfl
@[simp] theorem State.setPoison_logSelect (s : State) (a : Nat) (b : Bool) : (s.setPoison a b).logSelect = s.logSelect := rfl
@[simp] theorem State.setPoison_logWindow (s : State) (a : Nat) (b : Bool) : (s.setPoison a b).logWindow = s.logWindow := rfl
@[simp] theorem State.setPoison_throttle (s : State) (a : Nat) (b : Bool) : (s.setPoison a b).throttle = s.throttle := rfl
@[simp] theorem State.setPoison_fwLeaves (s : State) (a : Nat) (b : Bool) : (s.setPoison a b).fwLeaves = s.fwLeaves := rfl
@[simp] theorem State.setPoison_spares (s : State) (a : Nat) (b : Bool) : (s.setPoison a b).spares = s.spares := rfl
@[simp] theorem State.setPoison_doe (s : State) (a : Nat) (b : Bool) : (s.setPoison a b).doe = s.doe := rfl
@[simp] theorem State.setPoison_cycle (s : State) (a : Nat) (b : Bool) : (s.setPoison a b).cycle = s.cycle := rfl
@[simp] theorem State.setPoison_arith (s : State) (a : Nat) (b : Bool) : (s.setPoison a b).arith = s.arith := rfl
@[simp] theorem State.setPoison_order (s : State) (a : Nat) (b : Bool) : (s.setPoison a b).order = s.order := rfl
@[simp] theorem State.setPoison_agenda (s : State) (a : Nat) (b : Bool) : (s.setPoison a b).agenda = s.agenda := rfl
@[simp] theorem State.setPoison_focus (s : State) (a : Nat) (b : Bool) : (s.setPoison a b).focus = s.focus := rfl
@[simp] theorem State.setPoison_subject (s : State) (a : Nat) (b : Bool) : (s.setPoison a b).subject = s.subject := rfl
@[simp] theorem State.setPoison_eager (s : State) (a : Nat) (b : Bool) : (s.setPoison a b).eager = s.eager := rfl
@[simp] theorem State.setPoison_elems (s : State) (a : Nat) (b : Bool) : (s.setPoison a b).elems = s.elems := rfl
@[simp] theorem State.setPoison_engines (s : State) (a : Nat) (b : Bool) : (s.setPoison a b).engines = s.engines := rfl
@[simp] theorem State.setPoison_fresh (s : State) (a : Nat) (b : Bool) : (s.setPoison a b).fresh = s.fresh := rfl
/-! `State.bump` changes `order` only. -/
@[simp] theorem State.bump_mem (s : State) : (s.bump).mem = s.mem := rfl
@[simp] theorem State.bump_poison (s : State) : (s.bump).poison = s.poison := rfl
@[simp] theorem State.bump_fkey (s : State) : (s.bump).fkey = s.fkey := rfl
@[simp] theorem State.bump_pads (s : State) : (s.bump).pads = s.pads := rfl
@[simp] theorem State.bump_home (s : State) : (s.bump).home = s.home := rfl
@[simp] theorem State.bump_l2 (s : State) : (s.bump).l2 = s.l2 := rfl
@[simp] theorem State.bump_watches (s : State) : (s.bump).watches = s.watches := rfl
@[simp] theorem State.bump_slots (s : State) : (s.bump).slots = s.slots := rfl
@[simp] theorem State.bump_cores (s : State) : (s.bump).cores = s.cores := rfl
@[simp] theorem State.bump_sections (s : State) : (s.bump).sections = s.sections := rfl
@[simp] theorem State.bump_vfs (s : State) : (s.bump).vfs = s.vfs := rfl
@[simp] theorem State.bump_parts (s : State) : (s.bump).parts = s.parts := rfl
@[simp] theorem State.bump_dies (s : State) : (s.bump).dies = s.dies := rfl
@[simp] theorem State.bump_selvedge (s : State) : (s.bump).selvedge = s.selvedge := rfl
@[simp] theorem State.bump_frames (s : State) : (s.bump).frames = s.frames := rfl
@[simp] theorem State.bump_queued (s : State) : (s.bump).queued = s.queued := rfl
@[simp] theorem State.bump_offers (s : State) : (s.bump).offers = s.offers := rfl
@[simp] theorem State.bump_starts (s : State) : (s.bump).starts = s.starts := rfl
@[simp] theorem State.bump_heldStarts (s : State) : (s.bump).heldStarts = s.heldStarts := rfl
@[simp] theorem State.bump_pushes (s : State) : (s.bump).pushes = s.pushes := rfl
@[simp] theorem State.bump_records (s : State) : (s.bump).records = s.records := rfl
@[simp] theorem State.bump_awaits (s : State) : (s.bump).awaits = s.awaits := rfl
@[simp] theorem State.bump_pulls (s : State) : (s.bump).pulls = s.pulls := rfl
@[simp] theorem State.bump_clean (s : State) : (s.bump).clean = s.clean := rfl
@[simp] theorem State.bump_requests (s : State) : (s.bump).requests = s.requests := rfl
@[simp] theorem State.bump_longs (s : State) : (s.bump).longs = s.longs := rfl
@[simp] theorem State.bump_mailbox (s : State) : (s.bump).mailbox = s.mailbox := rfl
@[simp] theorem State.bump_epoch (s : State) : (s.bump).epoch = s.epoch := rfl
@[simp] theorem State.bump_receiptSerial (s : State) : (s.bump).receiptSerial = s.receiptSerial := rfl
@[simp] theorem State.bump_releaseEpochs (s : State) : (s.bump).releaseEpochs = s.releaseEpochs := rfl
@[simp] theorem State.bump_frameVfs (s : State) : (s.bump).frameVfs = s.frameVfs := rfl
@[simp] theorem State.bump_windows (s : State) : (s.bump).windows = s.windows := rfl
@[simp] theorem State.bump_cxlDown (s : State) : (s.bump).cxlDown = s.cxlDown := rfl
@[simp] theorem State.bump_ueDown (s : State) : (s.bump).ueDown = s.ueDown := rfl
@[simp] theorem State.bump_meshDown (s : State) : (s.bump).meshDown = s.meshDown := rfl
@[simp] theorem State.bump_column (s : State) : (s.bump).column = s.column := rfl
@[simp] theorem State.bump_heartbeats (s : State) : (s.bump).heartbeats = s.heartbeats := rfl
@[simp] theorem State.bump_errata (s : State) : (s.bump).errata = s.errata := rfl
@[simp] theorem State.bump_fusedSerial (s : State) : (s.bump).fusedSerial = s.fusedSerial := rfl
@[simp] theorem State.bump_identityTrusted (s : State) : (s.bump).identityTrusted = s.identityTrusted := rfl
@[simp] theorem State.bump_ilyonoReason (s : State) : (s.bump).ilyonoReason = s.ilyonoReason := rfl
@[simp] theorem State.bump_securityDown (s : State) : (s.bump).securityDown = s.securityDown := rfl
@[simp] theorem State.bump_ready (s : State) : (s.bump).ready = s.ready := rfl
@[simp] theorem State.bump_fatal (s : State) : (s.bump).fatal = s.fatal := rfl
@[simp] theorem State.bump_pfVector (s : State) : (s.bump).pfVector = s.pfVector := rfl
@[simp] theorem State.bump_dump (s : State) : (s.bump).dump = s.dump := rfl
@[simp] theorem State.bump_logSelect (s : State) : (s.bump).logSelect = s.logSelect := rfl
@[simp] theorem State.bump_logWindow (s : State) : (s.bump).logWindow = s.logWindow := rfl
@[simp] theorem State.bump_throttle (s : State) : (s.bump).throttle = s.throttle := rfl
@[simp] theorem State.bump_fwLeaves (s : State) : (s.bump).fwLeaves = s.fwLeaves := rfl
@[simp] theorem State.bump_spares (s : State) : (s.bump).spares = s.spares := rfl
@[simp] theorem State.bump_doe (s : State) : (s.bump).doe = s.doe := rfl
@[simp] theorem State.bump_cycle (s : State) : (s.bump).cycle = s.cycle := rfl
@[simp] theorem State.bump_arith (s : State) : (s.bump).arith = s.arith := rfl
@[simp] theorem State.bump_agenda (s : State) : (s.bump).agenda = s.agenda := rfl
@[simp] theorem State.bump_focus (s : State) : (s.bump).focus = s.focus := rfl
@[simp] theorem State.bump_subject (s : State) : (s.bump).subject = s.subject := rfl
@[simp] theorem State.bump_eager (s : State) : (s.bump).eager = s.eager := rfl
@[simp] theorem State.bump_elems (s : State) : (s.bump).elems = s.elems := rfl
@[simp] theorem State.bump_engines (s : State) : (s.bump).engines = s.engines := rfl
@[simp] theorem State.bump_fresh (s : State) : (s.bump).fresh = s.fresh := rfl

end Sys2Proof.Machine
end

