-- ==== Sys2Proof/Laws/Memory.lean ====
section
/-! SUPPORT. The laws of machine memory: a byte just written reads back, a write leaves every other byte alone, and every operation that
writes memory keeps its canonical form. -/

namespace Sys2Proof.Machine

/-- The pad of a byte does not depend on the bytes written. -/
@[simp] theorem State.putByte_padAt (s : State) (a b : Nat) (v : Byte) : (s.putByte a v).padAt b = s.padAt b := rfl

/-- Read after write of one byte. -/
theorem State.byte_putByte (s : State) (a b : Nat) (v : Byte) : (s.putByte a v).byte b = if b = a then v else s.byte b := by
  have h : (s.putByte a v).byte b = SMap.get 0 (SMap.put 0 s.mem a (v ^^^ s.padAt a)) b ^^^ s.padAt b := rfl
  rw [h, SMap.get_put]
  split
  · subst b; rw [BitVec.xor_assoc, BitVec.xor_self, BitVec.xor_zero]
  · rfl

/-- Read after write of a run of masked bytes. -/
theorem State.byte_writeList (l : List Nat) (a b : Nat) (v : Word) (m : BitVec 8) (s : State) (hl : l.Nodup) :
    (l.foldl (fun t i => if m.getLsbD i then t.putByte (a + i) (byteAt v i) else t) s).byte b
      = if a ≤ b ∧ b - a ∈ l ∧ m.getLsbD (b - a) = true then byteAt v (b - a) else s.byte b := by
  induction l generalizing s with
  | nil => simp
  | cons i l ih =>
    simp only [List.nodup_cons] at hl
    rw [List.foldl_cons, ih _ hl.2]
    by_cases hb : a ≤ b ∧ b - a ∈ l ∧ m.getLsbD (b - a) = true
    · rw [if_pos hb, if_pos ⟨hb.1, List.mem_cons_of_mem _ hb.2.1, hb.2.2⟩]
    · rw [if_neg hb]
      by_cases hm : m.getLsbD i = true
      · rw [if_pos hm, State.byte_putByte]
        by_cases he : b = a + i
        · subst he
          rw [if_pos rfl, if_pos ⟨Nat.le_add_right a i, by simp, by simpa using hm⟩]
          congr 1; omega
        · rw [if_neg he, if_neg]
          rintro ⟨h1, h2, h3⟩
          rcases List.mem_cons.1 h2 with h | h
          · omega
          · exact hb ⟨h1, h, h3⟩
      · rw [if_neg hm, if_neg]
        rintro ⟨h1, h2, h3⟩
        rcases List.mem_cons.1 h2 with h | h
        · rw [h] at h3; exact hm h3
        · exact hb ⟨h1, h, h3⟩

/-- Read after a masked write of 8 bytes: the bytes whose mask bit is set are the new ones, every other byte is as before. -/
theorem State.byte_writeMask (s : State) (a b : Nat) (v : Word) (m : BitVec 8) :
    (s.writeMask a v m).byte b = if a ≤ b ∧ b < a + 8 ∧ m.getLsbD (b - a) = true then byteAt v (b - a) else s.byte b := by
  rw [State.writeMask, State.byte_writeList _ _ _ _ _ _ List.nodup_range]
  congr 1
  simp only [List.mem_range, eq_iff_iff]
  constructor <;> rintro ⟨h1, h2, h3⟩ <;> exact ⟨h1, by omega, h3⟩

/-- A masked write leaves the pads alone. -/
theorem State.writeMask_pads (s : State) (a : Nat) (v : Word) (m : BitVec 8) : (s.writeMask a v m).pads = s.pads := by
  unfold State.writeMask
  generalize List.range 8 = l
  induction l generalizing s with
  | nil => rfl
  | cons i l ih => rw [List.foldl_cons, ih]; split <;> rfl

/-- Bytes outside the 8 bytes of a masked write are as before. -/
theorem State.byte_writeMask_outside (s : State) (a b : Nat) (v : Word) (m : BitVec 8) (h : b < a ∨ a + 8 ≤ b) :
    (s.writeMask a v m).byte b = s.byte b := by
  rw [State.byte_writeMask, if_neg]; omega

/-- Writing a byte keeps the canonical form. -/
theorem State.putByte_wf {s : State} (w : Memory.wf s.mem = true) (a : Nat) (v : Byte) : Memory.wf (s.putByte a v).mem = true :=
  SMap.wf_put w a _

/-- A masked write keeps the canonical form. -/
theorem State.writeMask_wf {s : State} (w : Memory.wf s.mem = true) (a : Nat) (v : Word) (m : BitVec 8) :
    Memory.wf (s.writeMask a v m).mem = true := by
  unfold State.writeMask
  generalize List.range 8 = l
  induction l generalizing s with
  | nil => exact w
  | cons i l ih =>
    rw [List.foldl_cons]
    apply ih
    split
    · exact State.putByte_wf w _ _
    · exact w

/-- Writing a word keeps the canonical form. -/
theorem State.write64_wf {s : State} (w : Memory.wf s.mem = true) (a : Nat) (v : Word) : Memory.wf (s.write64 a v).mem = true :=
  State.writeMask_wf w a v _

/-- Copying units keeps the canonical form. -/
theorem State.copyUnits_wf {s : State} (w : Memory.wf s.mem = true) (src dst n : Nat) : Memory.wf (s.copyUnits src dst n).mem = true := by
  induction n with
  | zero => exact w
  | succ k ih => exact State.write64_wf ih _ _

/-- Choosing a key leaves the listed bytes alone. -/
@[simp] theorem State.useKey_mem (s : State) (a k : Nat) : (s.useKey a k).mem = s.mem := by
  unfold State.useKey
  dsimp only
  split <;> rfl
/-- Reading under a key leaves the listed bytes, the keys and the pads alone: at most a free value has been used. -/
theorem State.readKey_only (s : State) (a k : Nat) : (s.readKey a k).1 = { s with fresh := (s.readKey a k).1.fresh } := by
  unfold State.readKey
  split <;> rfl
/-- Under the key that a frame was last written under, a read finds its bytes. -/
theorem State.readKey_own {s : State} {a k : Nat} (h : s.foreign a k = false) : s.readKey a k = (s, s.read64 a) := by
  unfold State.readKey
  simp [h]
/-- Writing bytes keeps the canonical form. -/
theorem State.putBytes_wf {s : State} (w : Memory.wf s.mem = true) (a : Nat) (l : List Byte) : Memory.wf (s.putBytes a l).mem = true := by
  have h : ∀ (l : List (Byte × Nat)) (s : State), Memory.wf s.mem = true →
      Memory.wf (l.foldl (fun t e => t.putByte (a + e.2) e.1) s).mem = true := by
    intro l
    induction l with
    | nil => exact fun _ h => h
    | cons e l ih => exact fun s h => ih _ (State.putByte_wf h _ _)
  exact h _ _ w
/-- Re-encryption leaves the listed bytes alone. -/
@[simp] theorem State.rekey_mem (s : State) (old new : Nat) : (s.rekey old new).mem = s.mem := rfl

/-- Zeroing a frame keeps the canonical form. -/
theorem State.zeroFrame_wf {s : State} (w : Memory.wf s.mem = true) (fr k : Nat) : Memory.wf (s.zeroFrame fr k).mem = true :=
  SMap.wf_filter w _

/-- A zeroed frame's listed bytes are gone. -/
theorem State.zeroFrame_mem (s : State) (fr k : Nat) : (s.zeroFrame fr k).mem = s.mem.filter fun e => decide (e.1 / 65536 ≠ fr) := rfl

/-- Moving a frame keeps the canonical form. -/
theorem State.moveFrame_wf {s : State} (w : Memory.wf s.mem = true) (src dst x k : Nat) : Memory.wf (s.moveFrame src dst x k).mem = true := by
  have h : ∀ (l : List Host.Cell) (m : Memory), Memory.wf m = true →
      Memory.wf (l.foldl (fun m e => SMap.put 0 m (dst * 65536 + e.1 % 65536) e.2) m) = true := by
    intro l
    induction l with
    | nil => exact fun m h => h
    | cons e l ih => exact fun m h => ih _ (SMap.wf_put h _ _)
  exact h _ _ (State.zeroFrame_wf w dst k)

/-- Memory after reset is canonical. -/
theorem State.reset_mem_wf : Memory.wf State.reset.mem = true := rfl

end Sys2Proof.Machine
end

