-- ==== Sys2Proof/Laws/Ops.lean ====
section
/-! SUPPORT. What the shared operations do, once each: writing and reading a register, completing an instruction, jumping, entering a
handler, waiting, and going on after an access. -/

namespace Sys2Proof.Machine

/-- Reading back the slot just written. -/
@[simp] theorem State.slot_setSlot_self (s : State) (k : Nat) (v : Slot) : (s.setSlot k v).slot k = v := SMap.get_put_self _ _ _ _
/-- Another slot reads as before. -/
theorem State.slot_setSlot_of_ne (s : State) {k j : Nat} (v : Slot) (h : j ≠ k) : (s.setSlot k v).slot j = s.slot j :=
  SMap.get_put_of_ne _ _ _ h
/-- The slot in focus after a change of it. -/
@[simp] theorem State.me_updMe (s : State) (f : Slot → Slot) : (s.updMe f).me = f s.me := SMap.get_put_self _ _ _ _
/-- The shuttle in focus after a change of the slot. -/
@[simp] theorem State.sh_updMe (s : State) (f : Slot → Slot) : (s.updMe f).sh = (f s.me).sh := by simp [State.sh]
/-- The shuttle in focus after a change of it. -/
@[simp] theorem State.sh_updSh (s : State) (f : Shuttle → Shuttle) : (s.updSh f).sh = f s.sh := by simp [State.updSh, State.sh]
/-- The slot in focus after a change of the shuttle. -/
@[simp] theorem State.me_updSh (s : State) (f : Shuttle → Shuttle) : (s.updSh f).me = { s.me with sh := f s.me.sh } := by
  simp [State.updSh]
/-- Another slot after a change of the one in focus. -/
theorem State.slot_updMe_of_ne (s : State) (f : Slot → Slot) {k : Nat} (h : k ≠ s.focus) : (s.updMe f).slot k = s.slot k :=
  SMap.get_put_of_ne _ _ _ h
/-- Reading a register after a write of one. -/
theorem Shuttle.getX_setX (sh : Shuttle) (r q : XReg) (v : Word) :
    (sh.setX r v).getX q = if q = r ∧ r ≠ 0 then v else sh.getX q := by
  unfold Shuttle.setX Shuttle.getX
  by_cases hr : r = 0
  · subst hr; simp
  · by_cases hq : q = 0
    · subst hq
      have : ¬ (0 : XReg) = r := fun h => hr h.symm
      simp [hr, this]
    · by_cases h : q = r
      · subst h; simp [hr]
      · have : q.val ≠ r.val := fun e => h (Fin.ext e)
        simp [hr, hq, h, SMap.get_put_of_ne _ _ _ this]
/-- A write of a register changes nothing but the registers and their failed checks. -/
theorem Shuttle.setX_only (sh : Shuttle) (r : XReg) (v : Word) :
    sh.setX r v = { sh with x := (sh.setX r v).x, xbad := (sh.setX r v).xbad } := by
  unfold Shuttle.setX; split <;> rfl
/-- The failed checks after a register write do not depend on the value written. -/
theorem Shuttle.setX_xbad (sh : Shuttle) (r : XReg) (v w : Word) : (sh.setX r v).xbad = (sh.setX r w).xbad := by
  unfold Shuttle.setX; split <;> rfl
/-- A register write leaves the pc. -/
@[simp] theorem Shuttle.setX_pc (sh : Shuttle) (r : XReg) (v : Word) : (sh.setX r v).pc = sh.pc := by unfold Shuttle.setX; split <;> rfl
/-- A change of the slot in focus is a change of the slots only. -/
theorem State.updMe_onlySlot (s : State) (f : Slot → Slot) : OnlySlot s (s.updMe f) :=
  ⟨rfl, fun _ h => s.slot_updMe_of_ne f h, fun _ => rfl⟩
/-- Two changes of the slot in focus are one. -/
theorem OnlySlot.trans {s t u : State} (h : OnlySlot s t) (g : OnlySlot t u) : OnlySlot s u := by
  obtain ⟨a, b, c⟩ := h
  obtain ⟨d, e, f⟩ := g
  have hf : t.focus = s.focus := by rw [a]
  refine ⟨?_, fun k hk => ?_, fun x => ?_⟩
  · rw [d, a]
  · rw [e k (by rwa [hf]), b k hk]
  · rw [f, c]
/-- COMPLETING WITH A RESULT writes rd, goes to the next word, and changes nothing else. -/
theorem State.completeX_writes (s : State) (rd : XReg) (v : Word) : WritesX s rd v (s.completeX rd v) := by
  have h1 : OnlySlot s (s.completeX rd v) := by
    unfold State.completeX State.complete State.setX State.updSh
    exact (s.updMe_onlySlot _).trans (State.updMe_onlySlot _ _)
  have h2 : (s.completeX rd v).me = { s.me with
      sh := { s.me.sh.setX rd v with pc := s.me.sh.pc + 4 }, wait := none, earlier := none, completed := true, half := false, jumped := false } := by
    simp [State.completeX, State.complete, State.setX, Slot.completeAt]
  refine ⟨h1, ?_, ?_, ?_, ?_, ?_⟩
  · unfold OnlyXPc State.sh
    rw [h2, Shuttle.setX_only]
  · rw [h2]
  · unfold State.sh; rw [h2]
  · unfold State.badAfter State.sh; rw [h2]; exact Shuttle.setX_xbad _ _ _ _
  · intro r
    unfold State.x State.sh
    rw [h2]
    exact Shuttle.getX_setX s.me.sh rd r v
/-- Completing goes to the next word and changes nothing else of a shuttle. -/
theorem State.complete_stepsOn (s : State) : StepsOn s s.complete :=
  ⟨fun _ h => s.slot_updMe_of_ne _ h, by simp [State.complete, Slot.completeAt, State.sh]⟩
/-- Completing writes no register. -/
theorem State.complete_writes (s : State) : WritesX s 0 0 s.complete := by
  have h : s.complete.me = { s.me with sh := { s.sh with pc := s.sh.pc + 4 }, wait := none, earlier := none, completed := true, half := false, jumped := false } :=
    s.complete_stepsOn.2
  refine ⟨s.updMe_onlySlot _, ?_, ?_, ?_, ?_, ?_⟩
  · unfold OnlyXPc State.sh; rw [h]; rfl
  · rw [h]
  · rw [State.sh, h]
  · rw [State.badAfter, State.sh, h]; rfl
  · intro r
    simp only [State.x, State.sh, h, ne_eq, not_true_eq_false, and_false, if_false]
    rfl
/-- A jump to an aligned target, with a register write. -/
theorem State.jump_aligned (s : State) (target v : Word) (rd : XReg) (h : target.toNat % 4 = 0) :
    ∃ t, s.jump target (fun t => t.setX rd v) = .next t ∧ JumpsTo s rd v target t := by
  refine ⟨_, if_neg (by simp [h]), ?_⟩
  have hm : ((s.setX rd v).updMe fun m => { m.completeAt target with jumped := true }).me = { s.me with
      sh := { s.me.sh.setX rd v with pc := target }, wait := none, earlier := none, completed := true, half := false, jumped := true } := by
    simp [State.setX, Slot.completeAt]
  refine ⟨?_, ?_, ?_, ?_, ?_, ?_⟩
  · unfold State.setX State.updSh
    exact (s.updMe_onlySlot _).trans (State.updMe_onlySlot _ _)
  · unfold OnlyXPc State.sh
    rw [hm, Shuttle.setX_only]
  · rw [hm]
  · rw [State.sh, hm]
  · unfold State.badAfter State.sh; rw [hm]; exact Shuttle.setX_xbad _ _ _ _
  · intro r
    unfold State.x State.sh
    rw [hm]
    exact Shuttle.getX_setX s.me.sh rd r v
/-- A jump to an aligned target that writes no register. -/
theorem State.jump_aligned_plain (s : State) (target : Word) (h : target.toNat % 4 = 0) :
    ∃ t, s.jump target (fun t => t) = .next t ∧ JumpsTo s 0 0 target t := by
  refine ⟨_, if_neg (by simp [h]), ?_⟩
  have hm : (s.updMe fun m => { m.completeAt target with jumped := true }).me = { s.me with
      sh := { s.me.sh with pc := target }, wait := none, earlier := none, completed := true, half := false, jumped := true } := by
    simp [Slot.completeAt]
  refine ⟨s.updMe_onlySlot _, ?_, ?_, ?_, ?_, ?_⟩
  · unfold OnlyXPc State.sh; rw [hm]
  · rw [hm]
  · rw [State.sh, hm]
  · rw [State.badAfter, State.sh, hm]; rfl
  · intro r
    simp only [State.x, State.sh, hm, ne_eq, not_true_eq_false, and_false, if_false]
    rfl
/-- No older vector instruction is incomplete. -/
theorem State.VectorIdle.busy {s : State} (h : s.VectorIdle) : s.me.vectorBusy = false := by
  simp [Slot.vectorBusy, h.1, h.2.1]
/-- An effect that R130 may hold back is not held back. -/
theorem State.VectorIdle.afterVector {s : State} (h : s.VectorIdle) (f : State → Out) : s.afterVector f = f s := by
  simp [State.afterVector, h.busy]
/-- TAKING A TRAP with no record (R80): the shuttle in focus enters its S handler, and nothing else changes. -/
theorem State.takeTrap_entersS {s : State} (hm : s.sh.mode ≠ .m) (hr : s.NoRecord) (c : BitVec 10) (tv : Word) :
    EntersS s c (scauseOf c) tv (s.takeTrap c tv) := by
  have e : s.takeTrap c tv = s.setSlot s.focus
      (s.me.enterS c (scauseOf c) tv s.sh.pc (s.vfRegs s.me.vf (s.focus / 16)).stvec false) := by
    unfold State.takeTrap State.trapSlot
    have h1 : (s.slot s.focus).sh.mode ≠ .m := hm
    have h2 : bitOf (s.vfRegs (s.slot s.focus).vf (s.focus / 16)).trec 0 = false := hr
    simp only [h1, if_false, h2, Bool.false_eq_true]
    rfl
  rw [e]
  have hme : (s.setSlot s.focus
      (s.me.enterS c (scauseOf c) tv s.sh.pc (s.vfRegs s.me.vf (s.focus / 16)).stvec false)).me =
      s.me.enterS c (scauseOf c) tv s.sh.pc (s.vfRegs s.me.vf (s.focus / 16)).stvec false := s.slot_setSlot_self s.focus _
  refine ⟨s.updMe_onlySlot fun _ => _, ?_, ?_, ?_⟩
  · rw [hme]; rfl
  · rw [hme]; rfl
  · unfold HandlerSh; rw [State.sh, hme]; rfl
/-- TAKING A TRAP IN M MODE (R100). -/
theorem State.takeTrap_entersM {s : State} (hm : s.sh.mode = .m) (c : BitVec 10) (tv : Word) :
    EntersM s c (scauseOf c) tv (s.takeTrap c tv) := by
  have e : s.takeTrap c tv = s.setSlot s.focus (s.me.enterM c (scauseOf c) tv s.sh.pc false) := by
    unfold State.takeTrap State.trapSlot
    have h1 : (s.slot s.focus).sh.mode = .m := hm
    simp only [h1, if_true]
    rfl
  rw [e]
  have hme : (s.setSlot s.focus (s.me.enterM c (scauseOf c) tv s.sh.pc false)).me = s.me.enterM c (scauseOf c) tv s.sh.pc false :=
    s.slot_setSlot_self s.focus _
  refine ⟨s.updMe_onlySlot fun _ => _, ?_, ?_, ?_, ?_, ?_, ?_⟩ <;> first | (rw [hme]; rfl) | (rw [State.sh, hme]; rfl)
/-- Raising a cause with no record, outside M mode. -/
theorem State.raise_entersS {s : State} (hv : s.VectorIdle) (hm : s.sh.mode ≠ .m) (hr : s.NoRecord) (c : BitVec 10) (tv : Word) :
    ∃ t, s.raise c tv = .next t ∧ EntersS s c (scauseOf c) tv t :=
  ⟨_, by simp [State.raise, hv.busy], State.takeTrap_entersS hm hr c tv⟩
/-- Raising a cause in M mode. -/
theorem State.raise_entersM {s : State} (hv : s.VectorIdle) (hm : s.sh.mode = .m) (c : BitVec 10) (tv : Word) :
    ∃ t, s.raise c tv = .next t ∧ EntersM s c (scauseOf c) tv t :=
  ⟨_, by simp [State.raise, hv.busy], State.takeTrap_entersM hm c tv⟩
/-- Going on after a good access. -/
@[simp] theorem Res.run_ok {α : Type} (s : State) (a : α) (f : State → α → Out) : (Res.ok s a).run f = f s a := rfl
/-- Going on after a good access to another. -/
@[simp] theorem Res.bind_ok {α β : Type} (s : State) (a : α) (f : State → α → Res β) : (Res.ok s a).bind f = f s a := rfl
/-- A faulting access raises its cause. -/
@[simp] theorem Res.run_fault {α : Type} (s : State) (c : BitVec 10) (tv : Word) (f : State → α → Out) :
    (Res.fault s c tv : Res α).run f = s.raise c tv := rfl
/-- An access that waits for a page blocks. -/
@[simp] theorem Res.run_wait {α : Type} (s : State) (p : Nat) (f : State → α → Out) :
    (Res.wait s p : Res α).run f = .next (s.waitPull p) := rfl

end Sys2Proof.Machine
end

