-- ==== Sys2Proof/Laws/Pages.lean ====
section
/-! SUPPORT. The leaves of a page table found by way of the bytes that memory lists, and not entry by entry: the same list, quicker to compute. -/

namespace Sys2Proof.Machine

/-- A key that no entry lists reads as the default. -/
theorem SMap.get_unlisted {α : Type} {d : α} {m : SMap α} {k : Nat} (h : ∀ e ∈ m, e.1 ≠ k) : SMap.get d m k = d := by
  induction m with
  | nil => rfl
  | cons e m ih =>
    obtain ⟨j, v⟩ := e
    have hj : j ≠ k := h (j, v) (by simp)
    simp only [SMap.get, if_neg hj]
    exact ih fun e he => h e (by simp [he])

/-- Some byte of a doubleword is listed. -/
def State.listed8 (s : State) (a : Nat) : Bool := s.mem.any fun c => Nat.ble a c.1 && Nat.ble (c.1 + 1) (a + 8)

/-- A doubleword of which no byte is listed reads as 0 where no pad is in place. -/
theorem State.read64_eq_zero {s : State} {a : Nat} (hp : s.pads = []) (h : s.listed8 a = false) : s.read64 a = 0 := by
  have hb : ∀ i < 8, s.byte (a + i) = 0 := by
    intro i hi
    have hm : ∀ e ∈ s.mem, e.1 ≠ a + i := by
      intro e he hk
      simp only [State.listed8, List.any_eq_false, Bool.and_eq_true, Nat.ble_eq] at h
      exact h e he ⟨by omega, by omega⟩
    unfold State.byte State.padAt
    rw [SMap.get_unlisted hm, hp]
    simp [SMap.get]
  unfold State.read64 wordOf8
  simp only [hb _ (by decide : 7 < 8), hb _ (by decide : 6 < 8), hb _ (by decide : 5 < 8), hb _ (by decide : 4 < 8), hb _ (by decide : 3 < 8),
    hb _ (by decide : 2 < 8), hb _ (by decide : 1 < 8), hb _ (by decide : 0 < 8)]
  rfl

/-- The entries of a table of which some byte is listed. -/
def State.listedEntries (s : State) (t : Nat) : List Nat := (List.range 1024).filter fun i => s.listed8 (t + 8 * i)
/-- The leaves below a table, by its listed entries. -/
def State.leavesListed (s : State) : Nat → Nat → Nat → List (Nat × Word × Nat × Nat)
  | 0, t, va =>
    (s.listedEntries t).filterMap fun i =>
      let e := s.read64 (t + 8 * i)
      if bitOf e 0 && bitOf e 1 && leafOk e 0 then some (va + i * 65536, e, 0, t + 8 * i) else none
  | lv + 1, t, va =>
    (s.listedEntries t).flatMap fun i =>
      let e := s.read64 (t + 8 * i)
      let a := va + i * 2 ^ (16 + 10 * (lv + 1))
      if !(bitOf e 0) then []
      else if bitOf e 1 then (if leafOk e (lv + 1) then [(a, e, lv + 1, t + 8 * i)] else [])
      else State.leavesListed s lv (pteAddr e * 8192) a

/-- Entries that give nothing can be left out. -/
theorem filterMap_filter_of {α β : Type} (f : α → Option β) (p : α → Bool) (l : List α) (h : ∀ x, p x = false → f x = none) :
    (l.filter p).filterMap f = l.filterMap f := by
  induction l with
  | nil => rfl
  | cons x l ih =>
    cases hx : p x
    · simp [hx, ih, h]
    · rw [List.filter_cons_of_pos hx, List.filterMap_cons, List.filterMap_cons, ih]
/-- Entries that give nothing can be left out. -/
theorem flatMap_filter_of {α β : Type} (f : α → List β) (p : α → Bool) (l : List α) (h : ∀ x, p x = false → f x = []) :
    (l.filter p).flatMap f = l.flatMap f := by
  induction l with
  | nil => rfl
  | cons x l ih => cases hx : p x <;> simp [hx, ih, h]

/-- Both ways give the same leaves. -/
theorem State.leavesListed_eq {s : State} (hp : s.pads = []) (lv t va : Nat) : s.leavesListed lv t va = s.leavesAt lv t va := by
  induction lv generalizing t va with
  | zero =>
    unfold State.leavesListed State.leavesAt
    exact filterMap_filter_of _ _ _ fun i hi => by simp [State.read64_eq_zero hp hi, bitOf]
  | succ lv ih =>
    unfold State.leavesListed State.leavesAt
    simp only [ih]
    exact flatMap_filter_of _ _ _ fun i hi => by simp [State.read64_eq_zero hp hi, bitOf]
/-- Every leaf of the page table, by the listed entries. -/
theorem State.leaves_eq {s : State} (hp : s.pads = []) :
    s.leaves = if bitOf (s.die 0).trr 0 then s.leavesListed 3 (bitsOf (s.die 0).trr 51 13 * 8192) 0 else [] := by
  simp only [State.leavesListed_eq hp, State.leaves]

end Sys2Proof.Machine
end

