-- ==== Sys2Proof/Laws/PerInstr.lean ====
section
/-! SUPPORT. The per-instruction family FieldsFit: every field that the encoder writes fits the bit range that R37 gives it, so
that a packed word loses nothing. One lemma per constructor; a step that no word names has no encoding. -/

namespace Sys2Proof.Laws

/-- The six fields lie in their ranges [6:0], [11:7], [14:12], [19:15], [24:20], [31:25] (R37). -/
def FieldsFit.Bounded (f : WordFields) : Prop :=
  f.op < 128 ∧ f.rd < 32 ∧ f.f3 < 8 ∧ f.rs1 < 32 ∧ f.rs2 < 32 ∧ f.f7 < 128

/-- Whatever fields the encoder gives an instruction fit. -/
def FieldsFit.Statement (i : Instr) : Prop := ∀ l f, encodeFields l i = some f → FieldsFit.Bounded f

/-- A one-bit field is below 2. -/
theorem FieldsFit.bit_lt (b : Bool) : lb b < 2 := by cases b <;> decide
/-- A scope code is below 4. -/
theorem FieldsFit.scope_lt (c : Scope) : c.code < 4 := by cases c <;> decide
/-- An ordering code is below 4. -/
theorem FieldsFit.order_lt (c : Order) : c.code < 4 := by cases c <;> decide
/-- A width code is below 2. -/
theorem FieldsFit.width_lt (c : Width) : c.code < 2 := by cases c <;> decide
/-- An element-type code is below 16. -/
theorem FieldsFit.etype_lt (c : EType) : c.code < 16 := by cases c <;> decide
/-- A condition code is below 4. -/
theorem FieldsFit.cond_lt (c : Cond) : c.code < 4 := by cases c <;> decide
/-- A mask-operation code is below 4. -/
theorem FieldsFit.maskOp_lt (c : MaskOp) : c.code < 4 := by cases c <;> decide
/-- A format-pair code is below 16. -/
theorem FieldsFit.pair_lt (c : FormatPair) : c.code < 16 := by cases c <;> decide

theorem FieldsFit.lui (rd : XReg) (imm : BitVec 20) : FieldsFit.Statement (.lui rd imm) := by
  rintro l f ⟨⟩
  simp only [FieldsFit.Bounded]
  have := rd.isLt
  have := imm.isLt
  omega
theorem FieldsFit.auipc (rd : XReg) (imm : BitVec 20) : FieldsFit.Statement (.auipc rd imm) := by
  rintro l f ⟨⟩
  simp only [FieldsFit.Bounded]
  have := rd.isLt
  have := imm.isLt
  omega
theorem FieldsFit.jal (rd : XReg) (off : BitVec 20) : FieldsFit.Statement (.jal rd off) := by
  rintro l f ⟨⟩
  simp only [FieldsFit.Bounded]
  have := rd.isLt
  have := off.isLt
  omega
theorem FieldsFit.jalr (rd rs1 : XReg) (imm : BitVec 12) : FieldsFit.Statement (.jalr rd rs1 imm) := by
  rintro l f ⟨⟩
  simp only [FieldsFit.Bounded]
  have := rd.isLt
  have := rs1.isLt
  have := imm.isLt
  omega
theorem FieldsFit.beq (rs1 rs2 : XReg) (off : BitVec 12) : FieldsFit.Statement (.beq rs1 rs2 off) := by
  rintro l f ⟨⟩
  simp only [FieldsFit.Bounded]
  have := rs1.isLt
  have := rs2.isLt
  have := off.isLt
  omega
theorem FieldsFit.bne (rs1 rs2 : XReg) (off : BitVec 12) : FieldsFit.Statement (.bne rs1 rs2 off) := by
  rintro l f ⟨⟩
  simp only [FieldsFit.Bounded]
  have := rs1.isLt
  have := rs2.isLt
  have := off.isLt
  omega
theorem FieldsFit.blt (rs1 rs2 : XReg) (off : BitVec 12) : FieldsFit.Statement (.blt rs1 rs2 off) := by
  rintro l f ⟨⟩
  simp only [FieldsFit.Bounded]
  have := rs1.isLt
  have := rs2.isLt
  have := off.isLt
  omega
theorem FieldsFit.bge (rs1 rs2 : XReg) (off : BitVec 12) : FieldsFit.Statement (.bge rs1 rs2 off) := by
  rintro l f ⟨⟩
  simp only [FieldsFit.Bounded]
  have := rs1.isLt
  have := rs2.isLt
  have := off.isLt
  omega
theorem FieldsFit.bltu (rs1 rs2 : XReg) (off : BitVec 12) : FieldsFit.Statement (.bltu rs1 rs2 off) := by
  rintro l f ⟨⟩
  simp only [FieldsFit.Bounded]
  have := rs1.isLt
  have := rs2.isLt
  have := off.isLt
  omega
theorem FieldsFit.bgeu (rs1 rs2 : XReg) (off : BitVec 12) : FieldsFit.Statement (.bgeu rs1 rs2 off) := by
  rintro l f ⟨⟩
  simp only [FieldsFit.Bounded]
  have := rs1.isLt
  have := rs2.isLt
  have := off.isLt
  omega
theorem FieldsFit.lb (rd rs1 : XReg) (imm : BitVec 12) : FieldsFit.Statement (.lb rd rs1 imm) := by
  rintro l f ⟨⟩
  simp only [FieldsFit.Bounded]
  have := rd.isLt
  have := rs1.isLt
  have := imm.isLt
  omega
theorem FieldsFit.lh (rd rs1 : XReg) (imm : BitVec 12) : FieldsFit.Statement (.lh rd rs1 imm) := by
  rintro l f ⟨⟩
  simp only [FieldsFit.Bounded]
  have := rd.isLt
  have := rs1.isLt
  have := imm.isLt
  omega
theorem FieldsFit.lw (rd rs1 : XReg) (imm : BitVec 12) : FieldsFit.Statement (.lw rd rs1 imm) := by
  rintro l f ⟨⟩
  simp only [FieldsFit.Bounded]
  have := rd.isLt
  have := rs1.isLt
  have := imm.isLt
  omega
theorem FieldsFit.ld (rd rs1 : XReg) (imm : BitVec 12) : FieldsFit.Statement (.ld rd rs1 imm) := by
  rintro l f ⟨⟩
  simp only [FieldsFit.Bounded]
  have := rd.isLt
  have := rs1.isLt
  have := imm.isLt
  omega
theorem FieldsFit.lbu (rd rs1 : XReg) (imm : BitVec 12) : FieldsFit.Statement (.lbu rd rs1 imm) := by
  rintro l f ⟨⟩
  simp only [FieldsFit.Bounded]
  have := rd.isLt
  have := rs1.isLt
  have := imm.isLt
  omega
theorem FieldsFit.lhu (rd rs1 : XReg) (imm : BitVec 12) : FieldsFit.Statement (.lhu rd rs1 imm) := by
  rintro l f ⟨⟩
  simp only [FieldsFit.Bounded]
  have := rd.isLt
  have := rs1.isLt
  have := imm.isLt
  omega
theorem FieldsFit.lwu (rd rs1 : XReg) (imm : BitVec 12) : FieldsFit.Statement (.lwu rd rs1 imm) := by
  rintro l f ⟨⟩
  simp only [FieldsFit.Bounded]
  have := rd.isLt
  have := rs1.isLt
  have := imm.isLt
  omega
theorem FieldsFit.sb (rs1 rs2 : XReg) (imm : BitVec 12) : FieldsFit.Statement (.sb rs1 rs2 imm) := by
  rintro l f ⟨⟩
  simp only [FieldsFit.Bounded]
  have := rs1.isLt
  have := rs2.isLt
  have := imm.isLt
  omega
theorem FieldsFit.sh (rs1 rs2 : XReg) (imm : BitVec 12) : FieldsFit.Statement (.sh rs1 rs2 imm) := by
  rintro l f ⟨⟩
  simp only [FieldsFit.Bounded]
  have := rs1.isLt
  have := rs2.isLt
  have := imm.isLt
  omega
theorem FieldsFit.sw (rs1 rs2 : XReg) (imm : BitVec 12) : FieldsFit.Statement (.sw rs1 rs2 imm) := by
  rintro l f ⟨⟩
  simp only [FieldsFit.Bounded]
  have := rs1.isLt
  have := rs2.isLt
  have := imm.isLt
  omega
theorem FieldsFit.sd (rs1 rs2 : XReg) (imm : BitVec 12) : FieldsFit.Statement (.sd rs1 rs2 imm) := by
  rintro l f ⟨⟩
  simp only [FieldsFit.Bounded]
  have := rs1.isLt
  have := rs2.isLt
  have := imm.isLt
  omega
theorem FieldsFit.addi (rd rs1 : XReg) (imm : BitVec 12) : FieldsFit.Statement (.addi rd rs1 imm) := by
  rintro l f ⟨⟩
  simp only [FieldsFit.Bounded]
  have := rd.isLt
  have := rs1.isLt
  have := imm.isLt
  omega
theorem FieldsFit.slti (rd rs1 : XReg) (imm : BitVec 12) : FieldsFit.Statement (.slti rd rs1 imm) := by
  rintro l f ⟨⟩
  simp only [FieldsFit.Bounded]
  have := rd.isLt
  have := rs1.isLt
  have := imm.isLt
  omega
theorem FieldsFit.sltiu (rd rs1 : XReg) (imm : BitVec 12) : FieldsFit.Statement (.sltiu rd rs1 imm) := by
  rintro l f ⟨⟩
  simp only [FieldsFit.Bounded]
  have := rd.isLt
  have := rs1.isLt
  have := imm.isLt
  omega
theorem FieldsFit.xori (rd rs1 : XReg) (imm : BitVec 12) : FieldsFit.Statement (.xori rd rs1 imm) := by
  rintro l f ⟨⟩
  simp only [FieldsFit.Bounded]
  have := rd.isLt
  have := rs1.isLt
  have := imm.isLt
  omega
theorem FieldsFit.ori (rd rs1 : XReg) (imm : BitVec 12) : FieldsFit.Statement (.ori rd rs1 imm) := by
  rintro l f ⟨⟩
  simp only [FieldsFit.Bounded]
  have := rd.isLt
  have := rs1.isLt
  have := imm.isLt
  omega
theorem FieldsFit.andi (rd rs1 : XReg) (imm : BitVec 12) : FieldsFit.Statement (.andi rd rs1 imm) := by
  rintro l f ⟨⟩
  simp only [FieldsFit.Bounded]
  have := rd.isLt
  have := rs1.isLt
  have := imm.isLt
  omega
theorem FieldsFit.slli (rd rs1 : XReg) (sh : BitVec 6) : FieldsFit.Statement (.slli rd rs1 sh) := by
  rintro l f ⟨⟩
  simp only [FieldsFit.Bounded]
  have := rd.isLt
  have := rs1.isLt
  have := sh.isLt
  omega
theorem FieldsFit.srli (rd rs1 : XReg) (sh : BitVec 6) : FieldsFit.Statement (.srli rd rs1 sh) := by
  rintro l f ⟨⟩
  simp only [FieldsFit.Bounded]
  have := rd.isLt
  have := rs1.isLt
  have := sh.isLt
  omega
theorem FieldsFit.srai (rd rs1 : XReg) (sh : BitVec 6) : FieldsFit.Statement (.srai rd rs1 sh) := by
  rintro l f ⟨⟩
  simp only [FieldsFit.Bounded]
  have := rd.isLt
  have := rs1.isLt
  have := sh.isLt
  omega
theorem FieldsFit.add (rd rs1 rs2 : XReg) : FieldsFit.Statement (.add rd rs1 rs2) := by
  rintro l f ⟨⟩
  simp only [FieldsFit.Bounded]
  have := rd.isLt
  have := rs1.isLt
  have := rs2.isLt
  omega
theorem FieldsFit.sub (rd rs1 rs2 : XReg) : FieldsFit.Statement (.sub rd rs1 rs2) := by
  rintro l f ⟨⟩
  simp only [FieldsFit.Bounded]
  have := rd.isLt
  have := rs1.isLt
  have := rs2.isLt
  omega
theorem FieldsFit.sll (rd rs1 rs2 : XReg) : FieldsFit.Statement (.sll rd rs1 rs2) := by
  rintro l f ⟨⟩
  simp only [FieldsFit.Bounded]
  have := rd.isLt
  have := rs1.isLt
  have := rs2.isLt
  omega
theorem FieldsFit.slt (rd rs1 rs2 : XReg) : FieldsFit.Statement (.slt rd rs1 rs2) := by
  rintro l f ⟨⟩
  simp only [FieldsFit.Bounded]
  have := rd.isLt
  have := rs1.isLt
  have := rs2.isLt
  omega
theorem FieldsFit.sltu (rd rs1 rs2 : XReg) : FieldsFit.Statement (.sltu rd rs1 rs2) := by
  rintro l f ⟨⟩
  simp only [FieldsFit.Bounded]
  have := rd.isLt
  have := rs1.isLt
  have := rs2.isLt
  omega
theorem FieldsFit.xor (rd rs1 rs2 : XReg) : FieldsFit.Statement (.xor rd rs1 rs2) := by
  rintro l f ⟨⟩
  simp only [FieldsFit.Bounded]
  have := rd.isLt
  have := rs1.isLt
  have := rs2.isLt
  omega
theorem FieldsFit.srl (rd rs1 rs2 : XReg) : FieldsFit.Statement (.srl rd rs1 rs2) := by
  rintro l f ⟨⟩
  simp only [FieldsFit.Bounded]
  have := rd.isLt
  have := rs1.isLt
  have := rs2.isLt
  omega
theorem FieldsFit.sra (rd rs1 rs2 : XReg) : FieldsFit.Statement (.sra rd rs1 rs2) := by
  rintro l f ⟨⟩
  simp only [FieldsFit.Bounded]
  have := rd.isLt
  have := rs1.isLt
  have := rs2.isLt
  omega
theorem FieldsFit.or (rd rs1 rs2 : XReg) : FieldsFit.Statement (.or rd rs1 rs2) := by
  rintro l f ⟨⟩
  simp only [FieldsFit.Bounded]
  have := rd.isLt
  have := rs1.isLt
  have := rs2.isLt
  omega
theorem FieldsFit.and (rd rs1 rs2 : XReg) : FieldsFit.Statement (.and rd rs1 rs2) := by
  rintro l f ⟨⟩
  simp only [FieldsFit.Bounded]
  have := rd.isLt
  have := rs1.isLt
  have := rs2.isLt
  omega
theorem FieldsFit.addiw (rd rs1 : XReg) (imm : BitVec 12) : FieldsFit.Statement (.addiw rd rs1 imm) := by
  rintro l f ⟨⟩
  simp only [FieldsFit.Bounded]
  have := rd.isLt
  have := rs1.isLt
  have := imm.isLt
  omega
theorem FieldsFit.slliw (rd rs1 : XReg) (sh : BitVec 5) : FieldsFit.Statement (.slliw rd rs1 sh) := by
  rintro l f ⟨⟩
  simp only [FieldsFit.Bounded]
  have := rd.isLt
  have := rs1.isLt
  have := sh.isLt
  omega
theorem FieldsFit.srliw (rd rs1 : XReg) (sh : BitVec 5) : FieldsFit.Statement (.srliw rd rs1 sh) := by
  rintro l f ⟨⟩
  simp only [FieldsFit.Bounded]
  have := rd.isLt
  have := rs1.isLt
  have := sh.isLt
  omega
theorem FieldsFit.sraiw (rd rs1 : XReg) (sh : BitVec 5) : FieldsFit.Statement (.sraiw rd rs1 sh) := by
  rintro l f ⟨⟩
  simp only [FieldsFit.Bounded]
  have := rd.isLt
  have := rs1.isLt
  have := sh.isLt
  omega
theorem FieldsFit.addw (rd rs1 rs2 : XReg) : FieldsFit.Statement (.addw rd rs1 rs2) := by
  rintro l f ⟨⟩
  simp only [FieldsFit.Bounded]
  have := rd.isLt
  have := rs1.isLt
  have := rs2.isLt
  omega
theorem FieldsFit.subw (rd rs1 rs2 : XReg) : FieldsFit.Statement (.subw rd rs1 rs2) := by
  rintro l f ⟨⟩
  simp only [FieldsFit.Bounded]
  have := rd.isLt
  have := rs1.isLt
  have := rs2.isLt
  omega
theorem FieldsFit.sllw (rd rs1 rs2 : XReg) : FieldsFit.Statement (.sllw rd rs1 rs2) := by
  rintro l f ⟨⟩
  simp only [FieldsFit.Bounded]
  have := rd.isLt
  have := rs1.isLt
  have := rs2.isLt
  omega
theorem FieldsFit.srlw (rd rs1 rs2 : XReg) : FieldsFit.Statement (.srlw rd rs1 rs2) := by
  rintro l f ⟨⟩
  simp only [FieldsFit.Bounded]
  have := rd.isLt
  have := rs1.isLt
  have := rs2.isLt
  omega
theorem FieldsFit.sraw (rd rs1 rs2 : XReg) : FieldsFit.Statement (.sraw rd rs1 rs2) := by
  rintro l f ⟨⟩
  simp only [FieldsFit.Bounded]
  have := rd.isLt
  have := rs1.isLt
  have := rs2.isLt
  omega
theorem FieldsFit.fence (fm pred succ : BitVec 4) (rs1 rd : BitVec 5) : FieldsFit.Statement (.fence fm pred succ rs1 rd) := by
  rintro l f ⟨⟩
  simp only [FieldsFit.Bounded]
  have := fm.isLt
  have := pred.isLt
  have := succ.isLt
  have := rs1.isLt
  have := rd.isLt
  omega
theorem FieldsFit.fenceI (imm : BitVec 12) (rs1 rd : BitVec 5) : FieldsFit.Statement (.fenceI imm rs1 rd) := by
  rintro l f ⟨⟩
  simp only [FieldsFit.Bounded]
  have := imm.isLt
  have := rs1.isLt
  have := rd.isLt
  omega
theorem FieldsFit.mul (rd rs1 rs2 : XReg) : FieldsFit.Statement (.mul rd rs1 rs2) := by
  rintro l f ⟨⟩
  simp only [FieldsFit.Bounded]
  have := rd.isLt
  have := rs1.isLt
  have := rs2.isLt
  omega
theorem FieldsFit.mulh (rd rs1 rs2 : XReg) : FieldsFit.Statement (.mulh rd rs1 rs2) := by
  rintro l f ⟨⟩
  simp only [FieldsFit.Bounded]
  have := rd.isLt
  have := rs1.isLt
  have := rs2.isLt
  omega
theorem FieldsFit.mulhsu (rd rs1 rs2 : XReg) : FieldsFit.Statement (.mulhsu rd rs1 rs2) := by
  rintro l f ⟨⟩
  simp only [FieldsFit.Bounded]
  have := rd.isLt
  have := rs1.isLt
  have := rs2.isLt
  omega
theorem FieldsFit.mulhu (rd rs1 rs2 : XReg) : FieldsFit.Statement (.mulhu rd rs1 rs2) := by
  rintro l f ⟨⟩
  simp only [FieldsFit.Bounded]
  have := rd.isLt
  have := rs1.isLt
  have := rs2.isLt
  omega
theorem FieldsFit.div (rd rs1 rs2 : XReg) : FieldsFit.Statement (.div rd rs1 rs2) := by
  rintro l f ⟨⟩
  simp only [FieldsFit.Bounded]
  have := rd.isLt
  have := rs1.isLt
  have := rs2.isLt
  omega
theorem FieldsFit.divu (rd rs1 rs2 : XReg) : FieldsFit.Statement (.divu rd rs1 rs2) := by
  rintro l f ⟨⟩
  simp only [FieldsFit.Bounded]
  have := rd.isLt
  have := rs1.isLt
  have := rs2.isLt
  omega
theorem FieldsFit.rem (rd rs1 rs2 : XReg) : FieldsFit.Statement (.rem rd rs1 rs2) := by
  rintro l f ⟨⟩
  simp only [FieldsFit.Bounded]
  have := rd.isLt
  have := rs1.isLt
  have := rs2.isLt
  omega
theorem FieldsFit.remu (rd rs1 rs2 : XReg) : FieldsFit.Statement (.remu rd rs1 rs2) := by
  rintro l f ⟨⟩
  simp only [FieldsFit.Bounded]
  have := rd.isLt
  have := rs1.isLt
  have := rs2.isLt
  omega
theorem FieldsFit.mulw (rd rs1 rs2 : XReg) : FieldsFit.Statement (.mulw rd rs1 rs2) := by
  rintro l f ⟨⟩
  simp only [FieldsFit.Bounded]
  have := rd.isLt
  have := rs1.isLt
  have := rs2.isLt
  omega
theorem FieldsFit.divw (rd rs1 rs2 : XReg) : FieldsFit.Statement (.divw rd rs1 rs2) := by
  rintro l f ⟨⟩
  simp only [FieldsFit.Bounded]
  have := rd.isLt
  have := rs1.isLt
  have := rs2.isLt
  omega
theorem FieldsFit.divuw (rd rs1 rs2 : XReg) : FieldsFit.Statement (.divuw rd rs1 rs2) := by
  rintro l f ⟨⟩
  simp only [FieldsFit.Bounded]
  have := rd.isLt
  have := rs1.isLt
  have := rs2.isLt
  omega
theorem FieldsFit.remw (rd rs1 rs2 : XReg) : FieldsFit.Statement (.remw rd rs1 rs2) := by
  rintro l f ⟨⟩
  simp only [FieldsFit.Bounded]
  have := rd.isLt
  have := rs1.isLt
  have := rs2.isLt
  omega
theorem FieldsFit.remuw (rd rs1 rs2 : XReg) : FieldsFit.Statement (.remuw rd rs1 rs2) := by
  rintro l f ⟨⟩
  simp only [FieldsFit.Bounded]
  have := rd.isLt
  have := rs1.isLt
  have := rs2.isLt
  omega
theorem FieldsFit.csrrw (rd rs1 : XReg) (csr : BitVec 12) : FieldsFit.Statement (.csrrw rd rs1 csr) := by
  rintro l f ⟨⟩
  simp only [FieldsFit.Bounded]
  have := rd.isLt
  have := rs1.isLt
  have := csr.isLt
  omega
theorem FieldsFit.csrrs (rd rs1 : XReg) (csr : BitVec 12) : FieldsFit.Statement (.csrrs rd rs1 csr) := by
  rintro l f ⟨⟩
  simp only [FieldsFit.Bounded]
  have := rd.isLt
  have := rs1.isLt
  have := csr.isLt
  omega
theorem FieldsFit.csrrc (rd rs1 : XReg) (csr : BitVec 12) : FieldsFit.Statement (.csrrc rd rs1 csr) := by
  rintro l f ⟨⟩
  simp only [FieldsFit.Bounded]
  have := rd.isLt
  have := rs1.isLt
  have := csr.isLt
  omega
theorem FieldsFit.csrrwi (rd : XReg) (uimm : BitVec 5) (csr : BitVec 12) : FieldsFit.Statement (.csrrwi rd uimm csr) := by
  rintro l f ⟨⟩
  simp only [FieldsFit.Bounded]
  have := rd.isLt
  have := uimm.isLt
  have := csr.isLt
  omega
theorem FieldsFit.csrrsi (rd : XReg) (uimm : BitVec 5) (csr : BitVec 12) : FieldsFit.Statement (.csrrsi rd uimm csr) := by
  rintro l f ⟨⟩
  simp only [FieldsFit.Bounded]
  have := rd.isLt
  have := uimm.isLt
  have := csr.isLt
  omega
theorem FieldsFit.csrrci (rd : XReg) (uimm : BitVec 5) (csr : BitVec 12) : FieldsFit.Statement (.csrrci rd uimm csr) := by
  rintro l f ⟨⟩
  simp only [FieldsFit.Bounded]
  have := rd.isLt
  have := uimm.isLt
  have := csr.isLt
  omega
theorem FieldsFit.faddS (rd rs1 rs2 : XReg) (rm : BitVec 3) : FieldsFit.Statement (.faddS rd rs1 rs2 rm) := by
  rintro l f ⟨⟩
  simp only [FieldsFit.Bounded]
  have := rd.isLt
  have := rs1.isLt
  have := rs2.isLt
  have := rm.isLt
  omega
theorem FieldsFit.fsubS (rd rs1 rs2 : XReg) (rm : BitVec 3) : FieldsFit.Statement (.fsubS rd rs1 rs2 rm) := by
  rintro l f ⟨⟩
  simp only [FieldsFit.Bounded]
  have := rd.isLt
  have := rs1.isLt
  have := rs2.isLt
  have := rm.isLt
  omega
theorem FieldsFit.fmulS (rd rs1 rs2 : XReg) (rm : BitVec 3) : FieldsFit.Statement (.fmulS rd rs1 rs2 rm) := by
  rintro l f ⟨⟩
  simp only [FieldsFit.Bounded]
  have := rd.isLt
  have := rs1.isLt
  have := rs2.isLt
  have := rm.isLt
  omega
theorem FieldsFit.fdivS (rd rs1 rs2 : XReg) (rm : BitVec 3) : FieldsFit.Statement (.fdivS rd rs1 rs2 rm) := by
  rintro l f ⟨⟩
  simp only [FieldsFit.Bounded]
  have := rd.isLt
  have := rs1.isLt
  have := rs2.isLt
  have := rm.isLt
  omega
theorem FieldsFit.fsqrtS (rd rs1 : XReg) (rm : BitVec 3) : FieldsFit.Statement (.fsqrtS rd rs1 rm) := by
  rintro l f ⟨⟩
  simp only [FieldsFit.Bounded]
  have := rd.isLt
  have := rs1.isLt
  have := rm.isLt
  omega
theorem FieldsFit.fsgnjS (rd rs1 rs2 : XReg) : FieldsFit.Statement (.fsgnjS rd rs1 rs2) := by
  rintro l f ⟨⟩
  simp only [FieldsFit.Bounded]
  have := rd.isLt
  have := rs1.isLt
  have := rs2.isLt
  omega
theorem FieldsFit.fsgnjnS (rd rs1 rs2 : XReg) : FieldsFit.Statement (.fsgnjnS rd rs1 rs2) := by
  rintro l f ⟨⟩
  simp only [FieldsFit.Bounded]
  have := rd.isLt
  have := rs1.isLt
  have := rs2.isLt
  omega
theorem FieldsFit.fsgnjxS (rd rs1 rs2 : XReg) : FieldsFit.Statement (.fsgnjxS rd rs1 rs2) := by
  rintro l f ⟨⟩
  simp only [FieldsFit.Bounded]
  have := rd.isLt
  have := rs1.isLt
  have := rs2.isLt
  omega
theorem FieldsFit.fminS (rd rs1 rs2 : XReg) : FieldsFit.Statement (.fminS rd rs1 rs2) := by
  rintro l f ⟨⟩
  simp only [FieldsFit.Bounded]
  have := rd.isLt
  have := rs1.isLt
  have := rs2.isLt
  omega
theorem FieldsFit.fmaxS (rd rs1 rs2 : XReg) : FieldsFit.Statement (.fmaxS rd rs1 rs2) := by
  rintro l f ⟨⟩
  simp only [FieldsFit.Bounded]
  have := rd.isLt
  have := rs1.isLt
  have := rs2.isLt
  omega
theorem FieldsFit.fcvtWS (rd rs1 : XReg) (rm : BitVec 3) : FieldsFit.Statement (.fcvtWS rd rs1 rm) := by
  rintro l f ⟨⟩
  simp only [FieldsFit.Bounded]
  have := rd.isLt
  have := rs1.isLt
  have := rm.isLt
  omega
theorem FieldsFit.fcvtWuS (rd rs1 : XReg) (rm : BitVec 3) : FieldsFit.Statement (.fcvtWuS rd rs1 rm) := by
  rintro l f ⟨⟩
  simp only [FieldsFit.Bounded]
  have := rd.isLt
  have := rs1.isLt
  have := rm.isLt
  omega
theorem FieldsFit.fcvtLS (rd rs1 : XReg) (rm : BitVec 3) : FieldsFit.Statement (.fcvtLS rd rs1 rm) := by
  rintro l f ⟨⟩
  simp only [FieldsFit.Bounded]
  have := rd.isLt
  have := rs1.isLt
  have := rm.isLt
  omega
theorem FieldsFit.fcvtLuS (rd rs1 : XReg) (rm : BitVec 3) : FieldsFit.Statement (.fcvtLuS rd rs1 rm) := by
  rintro l f ⟨⟩
  simp only [FieldsFit.Bounded]
  have := rd.isLt
  have := rs1.isLt
  have := rm.isLt
  omega
theorem FieldsFit.fcvtSW (rd rs1 : XReg) (rm : BitVec 3) : FieldsFit.Statement (.fcvtSW rd rs1 rm) := by
  rintro l f ⟨⟩
  simp only [FieldsFit.Bounded]
  have := rd.isLt
  have := rs1.isLt
  have := rm.isLt
  omega
theorem FieldsFit.fcvtSWu (rd rs1 : XReg) (rm : BitVec 3) : FieldsFit.Statement (.fcvtSWu rd rs1 rm) := by
  rintro l f ⟨⟩
  simp only [FieldsFit.Bounded]
  have := rd.isLt
  have := rs1.isLt
  have := rm.isLt
  omega
theorem FieldsFit.fcvtSL (rd rs1 : XReg) (rm : BitVec 3) : FieldsFit.Statement (.fcvtSL rd rs1 rm) := by
  rintro l f ⟨⟩
  simp only [FieldsFit.Bounded]
  have := rd.isLt
  have := rs1.isLt
  have := rm.isLt
  omega
theorem FieldsFit.fcvtSLu (rd rs1 : XReg) (rm : BitVec 3) : FieldsFit.Statement (.fcvtSLu rd rs1 rm) := by
  rintro l f ⟨⟩
  simp only [FieldsFit.Bounded]
  have := rd.isLt
  have := rs1.isLt
  have := rm.isLt
  omega
theorem FieldsFit.feqS (rd rs1 rs2 : XReg) : FieldsFit.Statement (.feqS rd rs1 rs2) := by
  rintro l f ⟨⟩
  simp only [FieldsFit.Bounded]
  have := rd.isLt
  have := rs1.isLt
  have := rs2.isLt
  omega
theorem FieldsFit.fltS (rd rs1 rs2 : XReg) : FieldsFit.Statement (.fltS rd rs1 rs2) := by
  rintro l f ⟨⟩
  simp only [FieldsFit.Bounded]
  have := rd.isLt
  have := rs1.isLt
  have := rs2.isLt
  omega
theorem FieldsFit.fleS (rd rs1 rs2 : XReg) : FieldsFit.Statement (.fleS rd rs1 rs2) := by
  rintro l f ⟨⟩
  simp only [FieldsFit.Bounded]
  have := rd.isLt
  have := rs1.isLt
  have := rs2.isLt
  omega
theorem FieldsFit.fclassS (rd rs1 : XReg) : FieldsFit.Statement (.fclassS rd rs1) := by
  rintro l f ⟨⟩
  simp only [FieldsFit.Bounded]
  have := rd.isLt
  have := rs1.isLt
  omega
theorem FieldsFit.fmaddS (rd rs1 rs2 rs3 : XReg) (rm : BitVec 3) : FieldsFit.Statement (.fmaddS rd rs1 rs2 rs3 rm) := by
  rintro l f ⟨⟩
  simp only [FieldsFit.Bounded]
  have := rd.isLt
  have := rs1.isLt
  have := rs2.isLt
  have := rs3.isLt
  have := rm.isLt
  omega
theorem FieldsFit.fmsubS (rd rs1 rs2 rs3 : XReg) (rm : BitVec 3) : FieldsFit.Statement (.fmsubS rd rs1 rs2 rs3 rm) := by
  rintro l f ⟨⟩
  simp only [FieldsFit.Bounded]
  have := rd.isLt
  have := rs1.isLt
  have := rs2.isLt
  have := rs3.isLt
  have := rm.isLt
  omega
theorem FieldsFit.fnmsubS (rd rs1 rs2 rs3 : XReg) (rm : BitVec 3) : FieldsFit.Statement (.fnmsubS rd rs1 rs2 rs3 rm) := by
  rintro l f ⟨⟩
  simp only [FieldsFit.Bounded]
  have := rd.isLt
  have := rs1.isLt
  have := rs2.isLt
  have := rs3.isLt
  have := rm.isLt
  omega
theorem FieldsFit.fnmaddS (rd rs1 rs2 rs3 : XReg) (rm : BitVec 3) : FieldsFit.Statement (.fnmaddS rd rs1 rs2 rs3 rm) := by
  rintro l f ⟨⟩
  simp only [FieldsFit.Bounded]
  have := rd.isLt
  have := rs1.isLt
  have := rs2.isLt
  have := rs3.isLt
  have := rm.isLt
  omega
theorem FieldsFit.shstart (rd rs1 rs2 : XReg) : FieldsFit.Statement (.shstart rd rs1 rs2) := by
  rintro l f ⟨⟩
  simp only [FieldsFit.Bounded]
  have := rd.isLt
  have := rs1.isLt
  have := rs2.isLt
  have := FieldsFit.bit_lt l
  omega
theorem FieldsFit.shmove (rs1 : XReg) : FieldsFit.Statement (.shmove rs1) := by
  rintro l f ⟨⟩
  simp only [FieldsFit.Bounded]
  have := rs1.isLt
  have := FieldsFit.bit_lt l
  omega
theorem FieldsFit.shmoveHome (rs1 : XReg) : FieldsFit.Statement (.shmoveHome rs1) := by
  rintro l f ⟨⟩
  simp only [FieldsFit.Bounded]
  have := rs1.isLt
  have := FieldsFit.bit_lt l
  omega
theorem FieldsFit.ipost (ch : BitVec 3) (rs1 : XReg) : FieldsFit.Statement (.ipost ch rs1) := by
  rintro l f ⟨⟩
  simp only [FieldsFit.Bounded]
  have := ch.isLt
  have := rs1.isLt
  have := FieldsFit.bit_lt l
  omega
theorem FieldsFit.iwait (ch : BitVec 3) (rs1 : XReg) : FieldsFit.Statement (.iwait ch rs1) := by
  rintro l f ⟨⟩
  simp only [FieldsFit.Bounded]
  have := ch.isLt
  have := rs1.isLt
  have := FieldsFit.bit_lt l
  omega
theorem FieldsFit.fenceSAcq (sc : Scope) : FieldsFit.Statement (.fenceSAcq sc) := by
  rintro l f ⟨⟩
  simp only [FieldsFit.Bounded]
  have := FieldsFit.scope_lt sc
  have := FieldsFit.bit_lt l
  omega
theorem FieldsFit.fenceSRel (sc : Scope) : FieldsFit.Statement (.fenceSRel sc) := by
  rintro l f ⟨⟩
  simp only [FieldsFit.Bounded]
  have := FieldsFit.scope_lt sc
  have := FieldsFit.bit_lt l
  omega
theorem FieldsFit.fenceSAr (sc : Scope) : FieldsFit.Statement (.fenceSAr sc) := by
  rintro l f ⟨⟩
  simp only [FieldsFit.Bounded]
  have := FieldsFit.scope_lt sc
  have := FieldsFit.bit_lt l
  omega
theorem FieldsFit.fenceQ (rs1 : XReg) : FieldsFit.Statement (.fenceQ rs1) := by
  rintro l f ⟨⟩
  simp only [FieldsFit.Bounded]
  have := rs1.isLt
  have := FieldsFit.bit_lt l
  omega
theorem FieldsFit.invR (sc : Scope) (rs1 rs2 : XReg) : FieldsFit.Statement (.invR sc rs1 rs2) := by
  rintro l f ⟨⟩
  simp only [FieldsFit.Bounded]
  have := FieldsFit.scope_lt sc
  have := rs1.isLt
  have := rs2.isLt
  have := FieldsFit.bit_lt l
  omega
theorem FieldsFit.wbR (sc : Scope) (rs1 rs2 : XReg) : FieldsFit.Statement (.wbR sc rs1 rs2) := by
  rintro l f ⟨⟩
  simp only [FieldsFit.Bounded]
  have := FieldsFit.scope_lt sc
  have := rs1.isLt
  have := rs2.isLt
  have := FieldsFit.bit_lt l
  omega
theorem FieldsFit.ldAcqW (sc : Scope) (rd rs1 : XReg) : FieldsFit.Statement (.ldAcqW sc rd rs1) := by
  rintro l f ⟨⟩
  simp only [FieldsFit.Bounded]
  have := FieldsFit.scope_lt sc
  have := rd.isLt
  have := rs1.isLt
  have := FieldsFit.bit_lt l
  omega
theorem FieldsFit.ldAcqD (sc : Scope) (rd rs1 : XReg) : FieldsFit.Statement (.ldAcqD sc rd rs1) := by
  rintro l f ⟨⟩
  simp only [FieldsFit.Bounded]
  have := FieldsFit.scope_lt sc
  have := rd.isLt
  have := rs1.isLt
  have := FieldsFit.bit_lt l
  omega
theorem FieldsFit.stRelW (sc : Scope) (rs1 rs2 : XReg) : FieldsFit.Statement (.stRelW sc rs1 rs2) := by
  rintro l f ⟨⟩
  simp only [FieldsFit.Bounded]
  have := FieldsFit.scope_lt sc
  have := rs1.isLt
  have := rs2.isLt
  have := FieldsFit.bit_lt l
  omega
theorem FieldsFit.stRelD (sc : Scope) (rs1 rs2 : XReg) : FieldsFit.Statement (.stRelD sc rs1 rs2) := by
  rintro l f ⟨⟩
  simp only [FieldsFit.Bounded]
  have := FieldsFit.scope_lt sc
  have := rs1.isLt
  have := rs2.isLt
  have := FieldsFit.bit_lt l
  omega
theorem FieldsFit.tierHintHot (rs1 rs2 : XReg) : FieldsFit.Statement (.tierHintHot rs1 rs2) := by
  rintro l f ⟨⟩
  simp only [FieldsFit.Bounded]
  have := rs1.isLt
  have := rs2.isLt
  have := FieldsFit.bit_lt l
  omega
theorem FieldsFit.tierHintCold (rs1 rs2 : XReg) : FieldsFit.Statement (.tierHintCold rs1 rs2) := by
  rintro l f ⟨⟩
  simp only [FieldsFit.Bounded]
  have := rs1.isLt
  have := rs2.isLt
  have := FieldsFit.bit_lt l
  omega
theorem FieldsFit.ldfe (rd rs1 : XReg) : FieldsFit.Statement (.ldfe rd rs1) := by
  rintro l f ⟨⟩
  simp only [FieldsFit.Bounded]
  have := rd.isLt
  have := rs1.isLt
  have := FieldsFit.bit_lt l
  omega
theorem FieldsFit.stfe (rs1 rs2 : XReg) : FieldsFit.Statement (.stfe rs1 rs2) := by
  rintro l f ⟨⟩
  simp only [FieldsFit.Bounded]
  have := rs1.isLt
  have := rs2.isLt
  have := FieldsFit.bit_lt l
  omega
theorem FieldsFit.ldff (rd rs1 : XReg) : FieldsFit.Statement (.ldff rd rs1) := by
  rintro l f ⟨⟩
  simp only [FieldsFit.Bounded]
  have := rd.isLt
  have := rs1.isLt
  have := FieldsFit.bit_lt l
  omega
theorem FieldsFit.feSetFull (rs1 : XReg) : FieldsFit.Statement (.feSetFull rs1) := by
  rintro l f ⟨⟩
  simp only [FieldsFit.Bounded]
  have := rs1.isLt
  have := FieldsFit.bit_lt l
  omega
theorem FieldsFit.feSetEmpty (rs1 : XReg) : FieldsFit.Statement (.feSetEmpty rs1) := by
  rintro l f ⟨⟩
  simp only [FieldsFit.Bounded]
  have := rs1.isLt
  have := FieldsFit.bit_lt l
  omega
theorem FieldsFit.qpushQa (vs : VReg) (rs1 rs2 : XReg) : FieldsFit.Statement (.qpushQa vs rs1 rs2) := by
  rintro l f ⟨⟩
  simp only [FieldsFit.Bounded]
  have := vs.isLt
  have := rs1.isLt
  have := rs2.isLt
  have := FieldsFit.bit_lt l
  omega
theorem FieldsFit.qpushQk (rd rs1 rs2 : XReg) : FieldsFit.Statement (.qpushQk rd rs1 rs2) := by
  rintro l f ⟨⟩
  simp only [FieldsFit.Bounded]
  have := rd.isLt
  have := rs1.isLt
  have := rs2.isLt
  have := FieldsFit.bit_lt l
  omega
theorem FieldsFit.qpopQd (vd : VReg) (rs1 : XReg) : FieldsFit.Statement (.qpopQd vd rs1) := by
  rintro l f ⟨⟩
  simp only [FieldsFit.Bounded]
  have := vd.isLt
  have := rs1.isLt
  have := FieldsFit.bit_lt l
  omega
theorem FieldsFit.qstatQa (rd rs1 : XReg) : FieldsFit.Statement (.qstatQa rd rs1) := by
  rintro l f ⟨⟩
  simp only [FieldsFit.Bounded]
  have := rd.isLt
  have := rs1.isLt
  have := FieldsFit.bit_lt l
  omega
theorem FieldsFit.qstatQk (rd rs1 : XReg) : FieldsFit.Statement (.qstatQk rd rs1) := by
  rintro l f ⟨⟩
  simp only [FieldsFit.Bounded]
  have := rd.isLt
  have := rs1.isLt
  have := FieldsFit.bit_lt l
  omega
theorem FieldsFit.qstatQd (rd rs1 : XReg) : FieldsFit.Statement (.qstatQd rd rs1) := by
  rintro l f ⟨⟩
  simp only [FieldsFit.Bounded]
  have := rd.isLt
  have := rs1.isLt
  have := FieldsFit.bit_lt l
  omega
theorem FieldsFit.cpy (ch : BitVec 4) (rs1 rs2 : XReg) : FieldsFit.Statement (.cpy ch rs1 rs2) := by
  rintro l f ⟨⟩
  simp only [FieldsFit.Bounded]
  have := ch.isLt
  have := rs1.isLt
  have := rs2.isLt
  have := FieldsFit.bit_lt l
  omega
theorem FieldsFit.cpy2d (ch : BitVec 4) (rs1 rs2 : XReg) : FieldsFit.Statement (.cpy2d ch rs1 rs2) := by
  rintro l f ⟨⟩
  simp only [FieldsFit.Bounded]
  have := ch.isLt
  have := rs1.isLt
  have := rs2.isLt
  have := FieldsFit.bit_lt l
  omega
theorem FieldsFit.cpyB (ch : BitVec 4) (rs1 rs2 : XReg) : FieldsFit.Statement (.cpyB ch rs1 rs2) := by
  rintro l f ⟨⟩
  simp only [FieldsFit.Bounded]
  have := ch.isLt
  have := rs1.isLt
  have := rs2.isLt
  have := FieldsFit.bit_lt l
  omega
theorem FieldsFit.collPostPkg (rd rs1 : XReg) : FieldsFit.Statement (.collPostPkg rd rs1) := by
  rintro l f ⟨⟩
  simp only [FieldsFit.Bounded]
  have := rd.isLt
  have := rs1.isLt
  have := FieldsFit.bit_lt l
  omega
theorem FieldsFit.collPostSys (rd rs1 : XReg) : FieldsFit.Statement (.collPostSys rd rs1) := by
  rintro l f ⟨⟩
  simp only [FieldsFit.Bounded]
  have := rd.isLt
  have := rs1.isLt
  have := FieldsFit.bit_lt l
  omega
theorem FieldsFit.collTest (rd rs1 : XReg) : FieldsFit.Statement (.collTest rd rs1) := by
  rintro l f ⟨⟩
  simp only [FieldsFit.Bounded]
  have := rd.isLt
  have := rs1.isLt
  have := FieldsFit.bit_lt l
  omega
theorem FieldsFit.amoAdd (wd : Width) (ord : Order) (sc : Scope) (rd rs1 rs2 : XReg) : FieldsFit.Statement (.amoAdd wd ord sc rd rs1 rs2) := by
  rintro l f ⟨⟩
  simp only [FieldsFit.Bounded]
  have := FieldsFit.width_lt wd
  have := FieldsFit.order_lt ord
  have := FieldsFit.scope_lt sc
  have := rd.isLt
  have := rs1.isLt
  have := rs2.isLt
  have := FieldsFit.bit_lt l
  omega
theorem FieldsFit.amoAnd (wd : Width) (ord : Order) (sc : Scope) (rd rs1 rs2 : XReg) : FieldsFit.Statement (.amoAnd wd ord sc rd rs1 rs2) := by
  rintro l f ⟨⟩
  simp only [FieldsFit.Bounded]
  have := FieldsFit.width_lt wd
  have := FieldsFit.order_lt ord
  have := FieldsFit.scope_lt sc
  have := rd.isLt
  have := rs1.isLt
  have := rs2.isLt
  have := FieldsFit.bit_lt l
  omega
theorem FieldsFit.amoOr (wd : Width) (ord : Order) (sc : Scope) (rd rs1 rs2 : XReg) : FieldsFit.Statement (.amoOr wd ord sc rd rs1 rs2) := by
  rintro l f ⟨⟩
  simp only [FieldsFit.Bounded]
  have := FieldsFit.width_lt wd
  have := FieldsFit.order_lt ord
  have := FieldsFit.scope_lt sc
  have := rd.isLt
  have := rs1.isLt
  have := rs2.isLt
  have := FieldsFit.bit_lt l
  omega
theorem FieldsFit.amoXor (wd : Width) (ord : Order) (sc : Scope) (rd rs1 rs2 : XReg) : FieldsFit.Statement (.amoXor wd ord sc rd rs1 rs2) := by
  rintro l f ⟨⟩
  simp only [FieldsFit.Bounded]
  have := FieldsFit.width_lt wd
  have := FieldsFit.order_lt ord
  have := FieldsFit.scope_lt sc
  have := rd.isLt
  have := rs1.isLt
  have := rs2.isLt
  have := FieldsFit.bit_lt l
  omega
theorem FieldsFit.amoMin (wd : Width) (ord : Order) (sc : Scope) (rd rs1 rs2 : XReg) : FieldsFit.Statement (.amoMin wd ord sc rd rs1 rs2) := by
  rintro l f ⟨⟩
  simp only [FieldsFit.Bounded]
  have := FieldsFit.width_lt wd
  have := FieldsFit.order_lt ord
  have := FieldsFit.scope_lt sc
  have := rd.isLt
  have := rs1.isLt
  have := rs2.isLt
  have := FieldsFit.bit_lt l
  omega
theorem FieldsFit.amoMax (wd : Width) (ord : Order) (sc : Scope) (rd rs1 rs2 : XReg) : FieldsFit.Statement (.amoMax wd ord sc rd rs1 rs2) := by
  rintro l f ⟨⟩
  simp only [FieldsFit.Bounded]
  have := FieldsFit.width_lt wd
  have := FieldsFit.order_lt ord
  have := FieldsFit.scope_lt sc
  have := rd.isLt
  have := rs1.isLt
  have := rs2.isLt
  have := FieldsFit.bit_lt l
  omega
theorem FieldsFit.amoMinu (wd : Width) (ord : Order) (sc : Scope) (rd rs1 rs2 : XReg) : FieldsFit.Statement (.amoMinu wd ord sc rd rs1 rs2) := by
  rintro l f ⟨⟩
  simp only [FieldsFit.Bounded]
  have := FieldsFit.width_lt wd
  have := FieldsFit.order_lt ord
  have := FieldsFit.scope_lt sc
  have := rd.isLt
  have := rs1.isLt
  have := rs2.isLt
  have := FieldsFit.bit_lt l
  omega
theorem FieldsFit.amoMaxu (wd : Width) (ord : Order) (sc : Scope) (rd rs1 rs2 : XReg) : FieldsFit.Statement (.amoMaxu wd ord sc rd rs1 rs2) := by
  rintro l f ⟨⟩
  simp only [FieldsFit.Bounded]
  have := FieldsFit.width_lt wd
  have := FieldsFit.order_lt ord
  have := FieldsFit.scope_lt sc
  have := rd.isLt
  have := rs1.isLt
  have := rs2.isLt
  have := FieldsFit.bit_lt l
  omega
theorem FieldsFit.amoSwap (wd : Width) (ord : Order) (sc : Scope) (rd rs1 rs2 : XReg) : FieldsFit.Statement (.amoSwap wd ord sc rd rs1 rs2) := by
  rintro l f ⟨⟩
  simp only [FieldsFit.Bounded]
  have := FieldsFit.width_lt wd
  have := FieldsFit.order_lt ord
  have := FieldsFit.scope_lt sc
  have := rd.isLt
  have := rs1.isLt
  have := rs2.isLt
  have := FieldsFit.bit_lt l
  omega
theorem FieldsFit.cas (wd : Width) (ord : Order) (sc : Scope) (rd rs1 rs2 : XReg) : FieldsFit.Statement (.cas wd ord sc rd rs1 rs2) := by
  rintro l f ⟨⟩
  simp only [FieldsFit.Bounded]
  have := FieldsFit.width_lt wd
  have := FieldsFit.order_lt ord
  have := FieldsFit.scope_lt sc
  have := rd.isLt
  have := rs1.isLt
  have := rs2.isLt
  have := FieldsFit.bit_lt l
  omega
theorem FieldsFit.vld (o v p : Bool) (vd : VReg) (rs1 : XReg) : FieldsFit.Statement (.vld o v p vd rs1) := by
  rintro l f ⟨⟩
  simp only [FieldsFit.Bounded]
  have := FieldsFit.bit_lt o
  have := FieldsFit.bit_lt v
  have := FieldsFit.bit_lt p
  have := vd.isLt
  have := rs1.isLt
  have := FieldsFit.bit_lt l
  omega
theorem FieldsFit.vst (o v p : Bool) (vd : VReg) (rs1 : XReg) : FieldsFit.Statement (.vst o v p vd rs1) := by
  rintro l f ⟨⟩
  simp only [FieldsFit.Bounded]
  have := FieldsFit.bit_lt o
  have := FieldsFit.bit_lt v
  have := FieldsFit.bit_lt p
  have := vd.isLt
  have := rs1.isLt
  have := FieldsFit.bit_lt l
  omega
theorem FieldsFit.vlds (o v : Bool) (vd : VReg) (rs1 rs2 : XReg) : FieldsFit.Statement (.vlds o v vd rs1 rs2) := by
  rintro l f ⟨⟩
  simp only [FieldsFit.Bounded]
  have := FieldsFit.bit_lt o
  have := FieldsFit.bit_lt v
  have := vd.isLt
  have := rs1.isLt
  have := rs2.isLt
  have := FieldsFit.bit_lt l
  omega
theorem FieldsFit.vsts (o v : Bool) (vd : VReg) (rs1 rs2 : XReg) : FieldsFit.Statement (.vsts o v vd rs1 rs2) := by
  rintro l f ⟨⟩
  simp only [FieldsFit.Bounded]
  have := FieldsFit.bit_lt o
  have := FieldsFit.bit_lt v
  have := vd.isLt
  have := rs1.isLt
  have := rs2.isLt
  have := FieldsFit.bit_lt l
  omega
theorem FieldsFit.vldx (o v : Bool) (vd : VReg) (rs1 : XReg) (vi : VReg) : FieldsFit.Statement (.vldx o v vd rs1 vi) := by
  rintro l f ⟨⟩
  simp only [FieldsFit.Bounded]
  have := FieldsFit.bit_lt o
  have := FieldsFit.bit_lt v
  have := vd.isLt
  have := rs1.isLt
  have := vi.isLt
  have := FieldsFit.bit_lt l
  omega
theorem FieldsFit.vstx (o v : Bool) (vd : VReg) (rs1 : XReg) (vi : VReg) : FieldsFit.Statement (.vstx o v vd rs1 vi) := by
  rintro l f ⟨⟩
  simp only [FieldsFit.Bounded]
  have := FieldsFit.bit_lt o
  have := FieldsFit.bit_lt v
  have := vd.isLt
  have := rs1.isLt
  have := vi.isLt
  have := FieldsFit.bit_lt l
  omega
theorem FieldsFit.vld2 (o v p : Bool) (vd : VReg) (rs1 rs2 : XReg) : FieldsFit.Statement (.vld2 o v p vd rs1 rs2) := by
  rintro l f ⟨⟩
  simp only [FieldsFit.Bounded]
  have := FieldsFit.bit_lt o
  have := FieldsFit.bit_lt v
  have := FieldsFit.bit_lt p
  have := vd.isLt
  have := rs1.isLt
  have := rs2.isLt
  have := FieldsFit.bit_lt l
  omega
theorem FieldsFit.vst2 (o v p : Bool) (vd : VReg) (rs1 rs2 : XReg) : FieldsFit.Statement (.vst2 o v p vd rs1 rs2) := by
  rintro l f ⟨⟩
  simp only [FieldsFit.Bounded]
  have := FieldsFit.bit_lt o
  have := FieldsFit.bit_lt v
  have := FieldsFit.bit_lt p
  have := vd.isLt
  have := rs1.isLt
  have := rs2.isLt
  have := FieldsFit.bit_lt l
  omega
theorem FieldsFit.vamoAddClu (o : Bool) (ord : Order) (vd : VReg) (rs1 : XReg) (vi : VReg) : FieldsFit.Statement (.vamoAddClu o ord vd rs1 vi) := by
  rintro l f ⟨⟩
  simp only [FieldsFit.Bounded]
  have := FieldsFit.bit_lt o
  have := FieldsFit.order_lt ord
  have := vd.isLt
  have := rs1.isLt
  have := vi.isLt
  have := FieldsFit.bit_lt l
  omega
theorem FieldsFit.vamoAndClu (o : Bool) (ord : Order) (vd : VReg) (rs1 : XReg) (vi : VReg) : FieldsFit.Statement (.vamoAndClu o ord vd rs1 vi) := by
  rintro l f ⟨⟩
  simp only [FieldsFit.Bounded]
  have := FieldsFit.bit_lt o
  have := FieldsFit.order_lt ord
  have := vd.isLt
  have := rs1.isLt
  have := vi.isLt
  have := FieldsFit.bit_lt l
  omega
theorem FieldsFit.vamoOrClu (o : Bool) (ord : Order) (vd : VReg) (rs1 : XReg) (vi : VReg) : FieldsFit.Statement (.vamoOrClu o ord vd rs1 vi) := by
  rintro l f ⟨⟩
  simp only [FieldsFit.Bounded]
  have := FieldsFit.bit_lt o
  have := FieldsFit.order_lt ord
  have := vd.isLt
  have := rs1.isLt
  have := vi.isLt
  have := FieldsFit.bit_lt l
  omega
theorem FieldsFit.vamoXorClu (o : Bool) (ord : Order) (vd : VReg) (rs1 : XReg) (vi : VReg) : FieldsFit.Statement (.vamoXorClu o ord vd rs1 vi) := by
  rintro l f ⟨⟩
  simp only [FieldsFit.Bounded]
  have := FieldsFit.bit_lt o
  have := FieldsFit.order_lt ord
  have := vd.isLt
  have := rs1.isLt
  have := vi.isLt
  have := FieldsFit.bit_lt l
  omega
theorem FieldsFit.vamoMinClu (o : Bool) (ord : Order) (vd : VReg) (rs1 : XReg) (vi : VReg) : FieldsFit.Statement (.vamoMinClu o ord vd rs1 vi) := by
  rintro l f ⟨⟩
  simp only [FieldsFit.Bounded]
  have := FieldsFit.bit_lt o
  have := FieldsFit.order_lt ord
  have := vd.isLt
  have := rs1.isLt
  have := vi.isLt
  have := FieldsFit.bit_lt l
  omega
theorem FieldsFit.vamoMaxClu (o : Bool) (ord : Order) (vd : VReg) (rs1 : XReg) (vi : VReg) : FieldsFit.Statement (.vamoMaxClu o ord vd rs1 vi) := by
  rintro l f ⟨⟩
  simp only [FieldsFit.Bounded]
  have := FieldsFit.bit_lt o
  have := FieldsFit.order_lt ord
  have := vd.isLt
  have := rs1.isLt
  have := vi.isLt
  have := FieldsFit.bit_lt l
  omega
theorem FieldsFit.vamoSwapClu (o : Bool) (ord : Order) (vd : VReg) (rs1 : XReg) (vi : VReg) : FieldsFit.Statement (.vamoSwapClu o ord vd rs1 vi) := by
  rintro l f ⟨⟩
  simp only [FieldsFit.Bounded]
  have := FieldsFit.bit_lt o
  have := FieldsFit.order_lt ord
  have := vd.isLt
  have := rs1.isLt
  have := vi.isLt
  have := FieldsFit.bit_lt l
  omega
theorem FieldsFit.vamoAddPkg (o : Bool) (ord : Order) (vd : VReg) (rs1 : XReg) (vi : VReg) : FieldsFit.Statement (.vamoAddPkg o ord vd rs1 vi) := by
  rintro l f ⟨⟩
  simp only [FieldsFit.Bounded]
  have := FieldsFit.bit_lt o
  have := FieldsFit.order_lt ord
  have := vd.isLt
  have := rs1.isLt
  have := vi.isLt
  have := FieldsFit.bit_lt l
  omega
theorem FieldsFit.vamoAndPkg (o : Bool) (ord : Order) (vd : VReg) (rs1 : XReg) (vi : VReg) : FieldsFit.Statement (.vamoAndPkg o ord vd rs1 vi) := by
  rintro l f ⟨⟩
  simp only [FieldsFit.Bounded]
  have := FieldsFit.bit_lt o
  have := FieldsFit.order_lt ord
  have := vd.isLt
  have := rs1.isLt
  have := vi.isLt
  have := FieldsFit.bit_lt l
  omega
theorem FieldsFit.vamoOrPkg (o : Bool) (ord : Order) (vd : VReg) (rs1 : XReg) (vi : VReg) : FieldsFit.Statement (.vamoOrPkg o ord vd rs1 vi) := by
  rintro l f ⟨⟩
  simp only [FieldsFit.Bounded]
  have := FieldsFit.bit_lt o
  have := FieldsFit.order_lt ord
  have := vd.isLt
  have := rs1.isLt
  have := vi.isLt
  have := FieldsFit.bit_lt l
  omega
theorem FieldsFit.vamoXorPkg (o : Bool) (ord : Order) (vd : VReg) (rs1 : XReg) (vi : VReg) : FieldsFit.Statement (.vamoXorPkg o ord vd rs1 vi) := by
  rintro l f ⟨⟩
  simp only [FieldsFit.Bounded]
  have := FieldsFit.bit_lt o
  have := FieldsFit.order_lt ord
  have := vd.isLt
  have := rs1.isLt
  have := vi.isLt
  have := FieldsFit.bit_lt l
  omega
theorem FieldsFit.vamoMinPkg (o : Bool) (ord : Order) (vd : VReg) (rs1 : XReg) (vi : VReg) : FieldsFit.Statement (.vamoMinPkg o ord vd rs1 vi) := by
  rintro l f ⟨⟩
  simp only [FieldsFit.Bounded]
  have := FieldsFit.bit_lt o
  have := FieldsFit.order_lt ord
  have := vd.isLt
  have := rs1.isLt
  have := vi.isLt
  have := FieldsFit.bit_lt l
  omega
theorem FieldsFit.vamoMaxPkg (o : Bool) (ord : Order) (vd : VReg) (rs1 : XReg) (vi : VReg) : FieldsFit.Statement (.vamoMaxPkg o ord vd rs1 vi) := by
  rintro l f ⟨⟩
  simp only [FieldsFit.Bounded]
  have := FieldsFit.bit_lt o
  have := FieldsFit.order_lt ord
  have := vd.isLt
  have := rs1.isLt
  have := vi.isLt
  have := FieldsFit.bit_lt l
  omega
theorem FieldsFit.vamoSwapPkg (o : Bool) (ord : Order) (vd : VReg) (rs1 : XReg) (vi : VReg) : FieldsFit.Statement (.vamoSwapPkg o ord vd rs1 vi) := by
  rintro l f ⟨⟩
  simp only [FieldsFit.Bounded]
  have := FieldsFit.bit_lt o
  have := FieldsFit.order_lt ord
  have := vd.isLt
  have := rs1.isLt
  have := vi.isLt
  have := FieldsFit.bit_lt l
  omega
theorem FieldsFit.vsetl (rd rs1 : XReg) (rows : BitVec 4) (et : EType) : FieldsFit.Statement (.vsetl rd rs1 rows et) := by
  rintro l f ⟨⟩
  simp only [FieldsFit.Bounded]
  have := rd.isLt
  have := rs1.isLt
  have := rows.isLt
  have := FieldsFit.etype_lt et
  have := FieldsFit.bit_lt l
  omega
theorem FieldsFit.vdepth (rd : XReg) (lg : BitVec 2) : FieldsFit.Statement (.vdepth rd lg) := by
  rintro l f ⟨⟩
  simp only [FieldsFit.Bounded]
  have := rd.isLt
  have := lg.isLt
  have := FieldsFit.bit_lt l
  omega
theorem FieldsFit.vstrip (rd rs1 : XReg) : FieldsFit.Statement (.vstrip rd rs1) := by
  rintro l f ⟨⟩
  simp only [FieldsFit.Bounded]
  have := rd.isLt
  have := rs1.isLt
  have := FieldsFit.bit_lt l
  omega
theorem FieldsFit.vwait (md : MReg) (va vb : VReg) (t : BitVec 3) : FieldsFit.Statement (.vwait md va vb t) := by
  rintro l f ⟨⟩
  simp only [FieldsFit.Bounded]
  have := md.isLt
  have := va.isLt
  have := vb.isLt
  have := t.isLt
  have := FieldsFit.bit_lt l
  omega
theorem FieldsFit.cwait (ld st cp tl : BitVec 5) : FieldsFit.Statement (.cwait ld st cp tl) := by
  rintro l f ⟨⟩
  simp only [FieldsFit.Bounded]
  have := ld.isLt
  have := st.isLt
  have := cp.isLt
  have := tl.isLt
  have := FieldsFit.bit_lt l
  omega
theorem FieldsFit.barInit (b : BitVec 6) (rs1 : XReg) : FieldsFit.Statement (.barInit b rs1) := by
  rintro l f ⟨⟩
  simp only [FieldsFit.Bounded]
  have := b.isLt
  have := rs1.isLt
  have := FieldsFit.bit_lt l
  omega
theorem FieldsFit.barArr (rd : XReg) (b : BitVec 6) : FieldsFit.Statement (.barArr rd b) := by
  rintro l f ⟨⟩
  simp only [FieldsFit.Bounded]
  have := rd.isLt
  have := b.isLt
  have := FieldsFit.bit_lt l
  omega
theorem FieldsFit.barExp (b : BitVec 6) (rs1 : XReg) : FieldsFit.Statement (.barExp b rs1) := by
  rintro l f ⟨⟩
  simp only [FieldsFit.Bounded]
  have := b.isLt
  have := rs1.isLt
  have := FieldsFit.bit_lt l
  omega
theorem FieldsFit.barWait (b : BitVec 6) (rs1 : XReg) : FieldsFit.Statement (.barWait b rs1) := by
  rintro l f ⟨⟩
  simp only [FieldsFit.Bounded]
  have := b.isLt
  have := rs1.isLt
  have := FieldsFit.bit_lt l
  omega
theorem FieldsFit.barTest (rd : XReg) (b : BitVec 6) : FieldsFit.Statement (.barTest rd b) := by
  rintro l f ⟨⟩
  simp only [FieldsFit.Bounded]
  have := rd.isLt
  have := b.isLt
  have := FieldsFit.bit_lt l
  omega
theorem FieldsFit.vadd (x : Bool) (vm : MReg) (vd vs1 vs2 : VReg) : FieldsFit.Statement (.vadd x vm vd vs1 vs2) := by
  rintro l f ⟨⟩
  simp only [FieldsFit.Bounded]
  have := FieldsFit.bit_lt x
  have := vm.isLt
  have := vd.isLt
  have := vs1.isLt
  have := vs2.isLt
  omega
theorem FieldsFit.vsub (x : Bool) (vm : MReg) (vd vs1 vs2 : VReg) : FieldsFit.Statement (.vsub x vm vd vs1 vs2) := by
  rintro l f ⟨⟩
  simp only [FieldsFit.Bounded]
  have := FieldsFit.bit_lt x
  have := vm.isLt
  have := vd.isLt
  have := vs1.isLt
  have := vs2.isLt
  omega
theorem FieldsFit.vmul (x : Bool) (vm : MReg) (vd vs1 vs2 : VReg) : FieldsFit.Statement (.vmul x vm vd vs1 vs2) := by
  rintro l f ⟨⟩
  simp only [FieldsFit.Bounded]
  have := FieldsFit.bit_lt x
  have := vm.isLt
  have := vd.isLt
  have := vs1.isLt
  have := vs2.isLt
  omega
theorem FieldsFit.vmulh (x : Bool) (vm : MReg) (vd vs1 vs2 : VReg) : FieldsFit.Statement (.vmulh x vm vd vs1 vs2) := by
  rintro l f ⟨⟩
  simp only [FieldsFit.Bounded]
  have := FieldsFit.bit_lt x
  have := vm.isLt
  have := vd.isLt
  have := vs1.isLt
  have := vs2.isLt
  omega
theorem FieldsFit.vmacc (x : Bool) (vm : MReg) (vd vs1 vs2 : VReg) : FieldsFit.Statement (.vmacc x vm vd vs1 vs2) := by
  rintro l f ⟨⟩
  simp only [FieldsFit.Bounded]
  have := FieldsFit.bit_lt x
  have := vm.isLt
  have := vd.isLt
  have := vs1.isLt
  have := vs2.isLt
  omega
theorem FieldsFit.vmin (x : Bool) (vm : MReg) (vd vs1 vs2 : VReg) : FieldsFit.Statement (.vmin x vm vd vs1 vs2) := by
  rintro l f ⟨⟩
  simp only [FieldsFit.Bounded]
  have := FieldsFit.bit_lt x
  have := vm.isLt
  have := vd.isLt
  have := vs1.isLt
  have := vs2.isLt
  omega
theorem FieldsFit.vmax (x : Bool) (vm : MReg) (vd vs1 vs2 : VReg) : FieldsFit.Statement (.vmax x vm vd vs1 vs2) := by
  rintro l f ⟨⟩
  simp only [FieldsFit.Bounded]
  have := FieldsFit.bit_lt x
  have := vm.isLt
  have := vd.isLt
  have := vs1.isLt
  have := vs2.isLt
  omega
theorem FieldsFit.vminu (x : Bool) (vm : MReg) (vd vs1 vs2 : VReg) : FieldsFit.Statement (.vminu x vm vd vs1 vs2) := by
  rintro l f ⟨⟩
  simp only [FieldsFit.Bounded]
  have := FieldsFit.bit_lt x
  have := vm.isLt
  have := vd.isLt
  have := vs1.isLt
  have := vs2.isLt
  omega
theorem FieldsFit.vmaxu (x : Bool) (vm : MReg) (vd vs1 vs2 : VReg) : FieldsFit.Statement (.vmaxu x vm vd vs1 vs2) := by
  rintro l f ⟨⟩
  simp only [FieldsFit.Bounded]
  have := FieldsFit.bit_lt x
  have := vm.isLt
  have := vd.isLt
  have := vs1.isLt
  have := vs2.isLt
  omega
theorem FieldsFit.vand (x : Bool) (vm : MReg) (vd vs1 vs2 : VReg) : FieldsFit.Statement (.vand x vm vd vs1 vs2) := by
  rintro l f ⟨⟩
  simp only [FieldsFit.Bounded]
  have := FieldsFit.bit_lt x
  have := vm.isLt
  have := vd.isLt
  have := vs1.isLt
  have := vs2.isLt
  omega
theorem FieldsFit.vor (x : Bool) (vm : MReg) (vd vs1 vs2 : VReg) : FieldsFit.Statement (.vor x vm vd vs1 vs2) := by
  rintro l f ⟨⟩
  simp only [FieldsFit.Bounded]
  have := FieldsFit.bit_lt x
  have := vm.isLt
  have := vd.isLt
  have := vs1.isLt
  have := vs2.isLt
  omega
theorem FieldsFit.vxor (x : Bool) (vm : MReg) (vd vs1 vs2 : VReg) : FieldsFit.Statement (.vxor x vm vd vs1 vs2) := by
  rintro l f ⟨⟩
  simp only [FieldsFit.Bounded]
  have := FieldsFit.bit_lt x
  have := vm.isLt
  have := vd.isLt
  have := vs1.isLt
  have := vs2.isLt
  omega
theorem FieldsFit.vsll (x : Bool) (vm : MReg) (vd vs1 vs2 : VReg) : FieldsFit.Statement (.vsll x vm vd vs1 vs2) := by
  rintro l f ⟨⟩
  simp only [FieldsFit.Bounded]
  have := FieldsFit.bit_lt x
  have := vm.isLt
  have := vd.isLt
  have := vs1.isLt
  have := vs2.isLt
  omega
theorem FieldsFit.vsrl (x : Bool) (vm : MReg) (vd vs1 vs2 : VReg) : FieldsFit.Statement (.vsrl x vm vd vs1 vs2) := by
  rintro l f ⟨⟩
  simp only [FieldsFit.Bounded]
  have := FieldsFit.bit_lt x
  have := vm.isLt
  have := vd.isLt
  have := vs1.isLt
  have := vs2.isLt
  omega
theorem FieldsFit.vsra (x : Bool) (vm : MReg) (vd vs1 vs2 : VReg) : FieldsFit.Statement (.vsra x vm vd vs1 vs2) := by
  rintro l f ⟨⟩
  simp only [FieldsFit.Bounded]
  have := FieldsFit.bit_lt x
  have := vm.isLt
  have := vd.isLt
  have := vs1.isLt
  have := vs2.isLt
  omega
theorem FieldsFit.vclip (x : Bool) (vm : MReg) (vd vs1 vs2 : VReg) : FieldsFit.Statement (.vclip x vm vd vs1 vs2) := by
  rintro l f ⟨⟩
  simp only [FieldsFit.Bounded]
  have := FieldsFit.bit_lt x
  have := vm.isLt
  have := vd.isLt
  have := vs1.isLt
  have := vs2.isLt
  omega
theorem FieldsFit.vsadd (x : Bool) (vm : MReg) (vd vs1 vs2 : VReg) : FieldsFit.Statement (.vsadd x vm vd vs1 vs2) := by
  rintro l f ⟨⟩
  simp only [FieldsFit.Bounded]
  have := FieldsFit.bit_lt x
  have := vm.isLt
  have := vd.isLt
  have := vs1.isLt
  have := vs2.isLt
  omega
theorem FieldsFit.vssub (x : Bool) (vm : MReg) (vd vs1 vs2 : VReg) : FieldsFit.Statement (.vssub x vm vd vs1 vs2) := by
  rintro l f ⟨⟩
  simp only [FieldsFit.Bounded]
  have := FieldsFit.bit_lt x
  have := vm.isLt
  have := vd.isLt
  have := vs1.isLt
  have := vs2.isLt
  omega
theorem FieldsFit.vsaddu (x : Bool) (vm : MReg) (vd vs1 vs2 : VReg) : FieldsFit.Statement (.vsaddu x vm vd vs1 vs2) := by
  rintro l f ⟨⟩
  simp only [FieldsFit.Bounded]
  have := FieldsFit.bit_lt x
  have := vm.isLt
  have := vd.isLt
  have := vs1.isLt
  have := vs2.isLt
  omega
theorem FieldsFit.vssubu (x : Bool) (vm : MReg) (vd vs1 vs2 : VReg) : FieldsFit.Statement (.vssubu x vm vd vs1 vs2) := by
  rintro l f ⟨⟩
  simp only [FieldsFit.Bounded]
  have := FieldsFit.bit_lt x
  have := vm.isLt
  have := vd.isLt
  have := vs1.isLt
  have := vs2.isLt
  omega
theorem FieldsFit.vwadd (x : Bool) (vm : MReg) (vd vs1 vs2 : VReg) : FieldsFit.Statement (.vwadd x vm vd vs1 vs2) := by
  rintro l f ⟨⟩
  simp only [FieldsFit.Bounded]
  have := FieldsFit.bit_lt x
  have := vm.isLt
  have := vd.isLt
  have := vs1.isLt
  have := vs2.isLt
  omega
theorem FieldsFit.vwmul (x : Bool) (vm : MReg) (vd vs1 vs2 : VReg) : FieldsFit.Statement (.vwmul x vm vd vs1 vs2) := by
  rintro l f ⟨⟩
  simp only [FieldsFit.Bounded]
  have := FieldsFit.bit_lt x
  have := vm.isLt
  have := vd.isLt
  have := vs1.isLt
  have := vs2.isLt
  omega
theorem FieldsFit.vwmacc (x : Bool) (vm : MReg) (vd vs1 vs2 : VReg) : FieldsFit.Statement (.vwmacc x vm vd vs1 vs2) := by
  rintro l f ⟨⟩
  simp only [FieldsFit.Bounded]
  have := FieldsFit.bit_lt x
  have := vm.isLt
  have := vd.isLt
  have := vs1.isLt
  have := vs2.isLt
  omega
theorem FieldsFit.vnsr (x : Bool) (vm : MReg) (vd vs1 vs2 : VReg) : FieldsFit.Statement (.vnsr x vm vd vs1 vs2) := by
  rintro l f ⟨⟩
  simp only [FieldsFit.Bounded]
  have := FieldsFit.bit_lt x
  have := vm.isLt
  have := vd.isLt
  have := vs1.isLt
  have := vs2.isLt
  omega
theorem FieldsFit.vfadd (x : Bool) (vm : MReg) (vd vs1 vs2 : VReg) : FieldsFit.Statement (.vfadd x vm vd vs1 vs2) := by
  rintro l f ⟨⟩
  simp only [FieldsFit.Bounded]
  have := FieldsFit.bit_lt x
  have := vm.isLt
  have := vd.isLt
  have := vs1.isLt
  have := vs2.isLt
  omega
theorem FieldsFit.vfsub (x : Bool) (vm : MReg) (vd vs1 vs2 : VReg) : FieldsFit.Statement (.vfsub x vm vd vs1 vs2) := by
  rintro l f ⟨⟩
  simp only [FieldsFit.Bounded]
  have := FieldsFit.bit_lt x
  have := vm.isLt
  have := vd.isLt
  have := vs1.isLt
  have := vs2.isLt
  omega
theorem FieldsFit.vfmul (x : Bool) (vm : MReg) (vd vs1 vs2 : VReg) : FieldsFit.Statement (.vfmul x vm vd vs1 vs2) := by
  rintro l f ⟨⟩
  simp only [FieldsFit.Bounded]
  have := FieldsFit.bit_lt x
  have := vm.isLt
  have := vd.isLt
  have := vs1.isLt
  have := vs2.isLt
  omega
theorem FieldsFit.vfmacc (x : Bool) (vm : MReg) (vd vs1 vs2 : VReg) : FieldsFit.Statement (.vfmacc x vm vd vs1 vs2) := by
  rintro l f ⟨⟩
  simp only [FieldsFit.Bounded]
  have := FieldsFit.bit_lt x
  have := vm.isLt
  have := vd.isLt
  have := vs1.isLt
  have := vs2.isLt
  omega
theorem FieldsFit.vfnmacc (x : Bool) (vm : MReg) (vd vs1 vs2 : VReg) : FieldsFit.Statement (.vfnmacc x vm vd vs1 vs2) := by
  rintro l f ⟨⟩
  simp only [FieldsFit.Bounded]
  have := FieldsFit.bit_lt x
  have := vm.isLt
  have := vd.isLt
  have := vs1.isLt
  have := vs2.isLt
  omega
theorem FieldsFit.vfdiv (x : Bool) (vm : MReg) (vd vs1 vs2 : VReg) : FieldsFit.Statement (.vfdiv x vm vd vs1 vs2) := by
  rintro l f ⟨⟩
  simp only [FieldsFit.Bounded]
  have := FieldsFit.bit_lt x
  have := vm.isLt
  have := vd.isLt
  have := vs1.isLt
  have := vs2.isLt
  omega
theorem FieldsFit.vfsqrt (x : Bool) (vm : MReg) (vd vs1 : VReg) : FieldsFit.Statement (.vfsqrt x vm vd vs1) := by
  rintro l f ⟨⟩
  simp only [FieldsFit.Bounded]
  have := FieldsFit.bit_lt x
  have := vm.isLt
  have := vd.isLt
  have := vs1.isLt
  omega
theorem FieldsFit.vfrece (x : Bool) (vm : MReg) (vd vs1 : VReg) : FieldsFit.Statement (.vfrece x vm vd vs1) := by
  rintro l f ⟨⟩
  simp only [FieldsFit.Bounded]
  have := FieldsFit.bit_lt x
  have := vm.isLt
  have := vd.isLt
  have := vs1.isLt
  omega
theorem FieldsFit.vfrsqe (x : Bool) (vm : MReg) (vd vs1 : VReg) : FieldsFit.Statement (.vfrsqe x vm vd vs1) := by
  rintro l f ⟨⟩
  simp only [FieldsFit.Bounded]
  have := FieldsFit.bit_lt x
  have := vm.isLt
  have := vd.isLt
  have := vs1.isLt
  omega
theorem FieldsFit.vfmin (x : Bool) (vm : MReg) (vd vs1 vs2 : VReg) : FieldsFit.Statement (.vfmin x vm vd vs1 vs2) := by
  rintro l f ⟨⟩
  simp only [FieldsFit.Bounded]
  have := FieldsFit.bit_lt x
  have := vm.isLt
  have := vd.isLt
  have := vs1.isLt
  have := vs2.isLt
  omega
theorem FieldsFit.vfmax (x : Bool) (vm : MReg) (vd vs1 vs2 : VReg) : FieldsFit.Statement (.vfmax x vm vd vs1 vs2) := by
  rintro l f ⟨⟩
  simp only [FieldsFit.Bounded]
  have := FieldsFit.bit_lt x
  have := vm.isLt
  have := vd.isLt
  have := vs1.isLt
  have := vs2.isLt
  omega
theorem FieldsFit.vfsgnj (x : Bool) (vm : MReg) (vd vs1 vs2 : VReg) : FieldsFit.Statement (.vfsgnj x vm vd vs1 vs2) := by
  rintro l f ⟨⟩
  simp only [FieldsFit.Bounded]
  have := FieldsFit.bit_lt x
  have := vm.isLt
  have := vd.isLt
  have := vs1.isLt
  have := vs2.isLt
  omega
theorem FieldsFit.vfclass (x : Bool) (vm : MReg) (vd vs1 : VReg) : FieldsFit.Statement (.vfclass x vm vd vs1) := by
  rintro l f ⟨⟩
  simp only [FieldsFit.Bounded]
  have := FieldsFit.bit_lt x
  have := vm.isLt
  have := vd.isLt
  have := vs1.isLt
  omega
theorem FieldsFit.vcvt (x : Bool) (vm : MReg) (src : EType) (vd vs1 : VReg) : FieldsFit.Statement (.vcvt x vm src vd vs1) := by
  rintro l f ⟨⟩
  simp only [FieldsFit.Bounded]
  have := FieldsFit.bit_lt x
  have := vm.isLt
  have := FieldsFit.etype_lt src
  have := vd.isLt
  have := vs1.isLt
  omega
theorem FieldsFit.vcvtb (x : Bool) (vm : MReg) (vd vs1 vs2 : VReg) : FieldsFit.Statement (.vcvtb x vm vd vs1 vs2) := by
  rintro l f ⟨⟩
  simp only [FieldsFit.Bounded]
  have := FieldsFit.bit_lt x
  have := vm.isLt
  have := vd.isLt
  have := vs1.isLt
  have := vs2.isLt
  omega
theorem FieldsFit.vdecb (x : Bool) (vm : MReg) (vd vs1 vs2 : VReg) : FieldsFit.Statement (.vdecb x vm vd vs1 vs2) := by
  rintro l f ⟨⟩
  simp only [FieldsFit.Bounded]
  have := FieldsFit.bit_lt x
  have := vm.isLt
  have := vd.isLt
  have := vs1.isLt
  have := vs2.isLt
  omega
theorem FieldsFit.vcmp (c : Cond) (vm md : MReg) (vs1 vs2 : VReg) : FieldsFit.Statement (.vcmp c vm md vs1 vs2) := by
  rintro l f ⟨⟩
  simp only [FieldsFit.Bounded]
  have := FieldsFit.cond_lt c
  have := vm.isLt
  have := md.isLt
  have := vs1.isLt
  have := vs2.isLt
  omega
theorem FieldsFit.vfcmp (c : Cond) (vm md : MReg) (vs1 vs2 : VReg) : FieldsFit.Statement (.vfcmp c vm md vs1 vs2) := by
  rintro l f ⟨⟩
  simp only [FieldsFit.Bounded]
  have := FieldsFit.cond_lt c
  have := vm.isLt
  have := md.isLt
  have := vs1.isLt
  have := vs2.isLt
  omega
theorem FieldsFit.vmlog (op : MaskOp) (md ma mb : MReg) : FieldsFit.Statement (.vmlog op md ma mb) := by
  rintro l f ⟨⟩
  simp only [FieldsFit.Bounded]
  have := FieldsFit.maskOp_lt op
  have := md.isLt
  have := ma.isLt
  have := mb.isLt
  omega
theorem FieldsFit.vpopc (rd : XReg) (ma : MReg) : FieldsFit.Statement (.vpopc rd ma) := by
  rintro l f ⟨⟩
  simp only [FieldsFit.Bounded]
  have := rd.isLt
  have := ma.isLt
  omega
theorem FieldsFit.vfirst (rd : XReg) (ma : MReg) : FieldsFit.Statement (.vfirst rd ma) := by
  rintro l f ⟨⟩
  simp only [FieldsFit.Bounded]
  have := rd.isLt
  have := ma.isLt
  omega
theorem FieldsFit.vmerge (vm : MReg) (vd vs1 vs2 : VReg) : FieldsFit.Statement (.vmerge vm vd vs1 vs2) := by
  rintro l f ⟨⟩
  simp only [FieldsFit.Bounded]
  have := vm.isLt
  have := vd.isLt
  have := vs1.isLt
  have := vs2.isLt
  omega
theorem FieldsFit.vbcast (vm : MReg) (vd : VReg) (rs1 : XReg) : FieldsFit.Statement (.vbcast vm vd rs1) := by
  rintro l f ⟨⟩
  simp only [FieldsFit.Bounded]
  have := vm.isLt
  have := vd.isLt
  have := rs1.isLt
  omega
theorem FieldsFit.vmvsx (vm : MReg) (vd : VReg) (rs1 : XReg) : FieldsFit.Statement (.vmvsx vm vd rs1) := by
  rintro l f ⟨⟩
  simp only [FieldsFit.Bounded]
  have := vm.isLt
  have := vd.isLt
  have := rs1.isLt
  omega
theorem FieldsFit.vslup (vm : MReg) (vd vs1 : VReg) (rs2 : XReg) : FieldsFit.Statement (.vslup vm vd vs1 rs2) := by
  rintro l f ⟨⟩
  simp only [FieldsFit.Bounded]
  have := vm.isLt
  have := vd.isLt
  have := vs1.isLt
  have := rs2.isLt
  omega
theorem FieldsFit.vsldn (vm : MReg) (vd vs1 : VReg) (rs2 : XReg) : FieldsFit.Statement (.vsldn vm vd vs1 rs2) := by
  rintro l f ⟨⟩
  simp only [FieldsFit.Bounded]
  have := vm.isLt
  have := vd.isLt
  have := vs1.isLt
  have := rs2.isLt
  omega
theorem FieldsFit.vrgath (vm : MReg) (vd vs1 vs2 : VReg) : FieldsFit.Statement (.vrgath vm vd vs1 vs2) := by
  rintro l f ⟨⟩
  simp only [FieldsFit.Bounded]
  have := vm.isLt
  have := vd.isLt
  have := vs1.isLt
  have := vs2.isLt
  omega
theorem FieldsFit.vcomp (vm : MReg) (vd vs1 : VReg) : FieldsFit.Statement (.vcomp vm vd vs1) := by
  rintro l f ⟨⟩
  simp only [FieldsFit.Bounded]
  have := vm.isLt
  have := vd.isLt
  have := vs1.isLt
  omega
theorem FieldsFit.vtrn (vd vs1 : VReg) : FieldsFit.Statement (.vtrn vd vs1) := by
  rintro l f ⟨⟩
  simp only [FieldsFit.Bounded]
  have := vd.isLt
  have := vs1.isLt
  omega
theorem FieldsFit.vmvxs (rd : XReg) (vs1 : VReg) : FieldsFit.Statement (.vmvxs rd vs1) := by
  rintro l f ⟨⟩
  simp only [FieldsFit.Bounded]
  have := rd.isLt
  have := vs1.isLt
  omega
theorem FieldsFit.vredsum (vm : MReg) (vd vs1 vs2 : VReg) : FieldsFit.Statement (.vredsum vm vd vs1 vs2) := by
  rintro l f ⟨⟩
  simp only [FieldsFit.Bounded]
  have := vm.isLt
  have := vd.isLt
  have := vs1.isLt
  have := vs2.isLt
  omega
theorem FieldsFit.vredmax (vm : MReg) (vd vs1 vs2 : VReg) : FieldsFit.Statement (.vredmax vm vd vs1 vs2) := by
  rintro l f ⟨⟩
  simp only [FieldsFit.Bounded]
  have := vm.isLt
  have := vd.isLt
  have := vs1.isLt
  have := vs2.isLt
  omega
theorem FieldsFit.vredmin (vm : MReg) (vd vs1 vs2 : VReg) : FieldsFit.Statement (.vredmin vm vd vs1 vs2) := by
  rintro l f ⟨⟩
  simp only [FieldsFit.Bounded]
  have := vm.isLt
  have := vd.isLt
  have := vs1.isLt
  have := vs2.isLt
  omega
theorem FieldsFit.vredand (vm : MReg) (vd vs1 vs2 : VReg) : FieldsFit.Statement (.vredand vm vd vs1 vs2) := by
  rintro l f ⟨⟩
  simp only [FieldsFit.Bounded]
  have := vm.isLt
  have := vd.isLt
  have := vs1.isLt
  have := vs2.isLt
  omega
theorem FieldsFit.vredor (vm : MReg) (vd vs1 vs2 : VReg) : FieldsFit.Statement (.vredor vm vd vs1 vs2) := by
  rintro l f ⟨⟩
  simp only [FieldsFit.Bounded]
  have := vm.isLt
  have := vd.isLt
  have := vs1.isLt
  have := vs2.isLt
  omega
theorem FieldsFit.vfredo (vm : MReg) (vd vs1 vs2 : VReg) : FieldsFit.Statement (.vfredo vm vd vs1 vs2) := by
  rintro l f ⟨⟩
  simp only [FieldsFit.Bounded]
  have := vm.isLt
  have := vd.isLt
  have := vs1.isLt
  have := vs2.isLt
  omega
theorem FieldsFit.vfredt (vm : MReg) (vd vs1 vs2 : VReg) : FieldsFit.Statement (.vfredt vm vd vs1 vs2) := by
  rintro l f ⟨⟩
  simp only [FieldsFit.Bounded]
  have := vm.isLt
  have := vd.isLt
  have := vs1.isLt
  have := vs2.isLt
  omega
theorem FieldsFit.vfredmax (vm : MReg) (vd vs1 vs2 : VReg) : FieldsFit.Statement (.vfredmax vm vd vs1 vs2) := by
  rintro l f ⟨⟩
  simp only [FieldsFit.Bounded]
  have := vm.isLt
  have := vd.isLt
  have := vs1.isLt
  have := vs2.isLt
  omega
theorem FieldsFit.vfredmin (vm : MReg) (vd vs1 vs2 : VReg) : FieldsFit.Statement (.vfredmin vm vd vs1 vs2) := by
  rintro l f ⟨⟩
  simp only [FieldsFit.Bounded]
  have := vm.isLt
  have := vd.isLt
  have := vs1.isLt
  have := vs2.isLt
  omega
theorem FieldsFit.mrun (fp : FormatPair) (tag : BitVec 3) (rs1 : XReg) : FieldsFit.Statement (.mrun fp tag rs1) := by
  rintro l f ⟨⟩
  simp only [FieldsFit.Bounded]
  have := FieldsFit.pair_lt fp
  have := tag.isLt
  have := rs1.isLt
  omega
theorem FieldsFit.mcfg (fp : FormatPair) (tag : BitVec 3) (rs1 rs2 : XReg) : FieldsFit.Statement (.mcfg fp tag rs1 rs2) := by
  rintro l f ⟨⟩
  simp only [FieldsFit.Bounded]
  have := FieldsFit.pair_lt fp
  have := tag.isLt
  have := rs1.isLt
  have := rs2.isLt
  omega
theorem FieldsFit.mzero (rs1 rs2 : XReg) : FieldsFit.Statement (.mzero rs1 rs2) := by
  rintro l f ⟨⟩
  simp only [FieldsFit.Bounded]
  have := rs1.isLt
  have := rs2.isLt
  omega
theorem FieldsFit.mdrain (tag : BitVec 3) (rs1 : XReg) : FieldsFit.Statement (.mdrain tag rs1) := by
  rintro l f ⟨⟩
  simp only [FieldsFit.Bounded]
  have := tag.isLt
  have := rs1.isLt
  omega
theorem FieldsFit.mcpyIn (rs1 rs2 : XReg) : FieldsFit.Statement (.mcpyIn rs1 rs2) := by
  rintro l f ⟨⟩
  simp only [FieldsFit.Bounded]
  have := rs1.isLt
  have := rs2.isLt
  omega
theorem FieldsFit.mcpyOut (rs1 rs2 : XReg) : FieldsFit.Statement (.mcpyOut rs1 rs2) := by
  rintro l f ⟨⟩
  simp only [FieldsFit.Bounded]
  have := rs1.isLt
  have := rs2.isLt
  omega
theorem FieldsFit.mstat (rd : XReg) : FieldsFit.Statement (.mstat rd) := by
  rintro l f ⟨⟩
  simp only [FieldsFit.Bounded]
  have := rd.isLt
  omega
theorem FieldsFit.illegalInstruction (w : BitVec 32) : FieldsFit.Statement (.illegalInstruction w) := by rintro l f ⟨⟩
theorem FieldsFit.ecall : FieldsFit.Statement .ecall := by
  rintro l f ⟨⟩
  simp only [FieldsFit.Bounded]
  omega
theorem FieldsFit.ebreak : FieldsFit.Statement .ebreak := by
  rintro l f ⟨⟩
  simp only [FieldsFit.Bounded]
  omega
theorem FieldsFit.sret : FieldsFit.Statement .sret := by
  rintro l f ⟨⟩
  simp only [FieldsFit.Bounded]
  omega
theorem FieldsFit.mret : FieldsFit.Statement .mret := by
  rintro l f ⟨⟩
  simp only [FieldsFit.Bounded]
  omega
theorem FieldsFit.wfi : FieldsFit.Statement .wfi := by
  rintro l f ⟨⟩
  simp only [FieldsFit.Bounded]
  omega
theorem FieldsFit.shexit : FieldsFit.Statement .shexit := by
  rintro l f ⟨⟩
  simp only [FieldsFit.Bounded]
  have := FieldsFit.bit_lt l
  omega
theorem FieldsFit.shyield : FieldsFit.Statement .shyield := by
  rintro l f ⟨⟩
  simp only [FieldsFit.Bounded]
  have := FieldsFit.bit_lt l
  omega
theorem FieldsFit.tswWrite : FieldsFit.Statement .tswWrite := by rintro l f ⟨⟩
theorem FieldsFit.vptrsWrite : FieldsFit.Statement .vptrsWrite := by rintro l f ⟨⟩
theorem FieldsFit.vresumeWrite : FieldsFit.Statement .vresumeWrite := by rintro l f ⟨⟩
theorem FieldsFit.tcauseWrite : FieldsFit.Statement .tcauseWrite := by rintro l f ⟨⟩
theorem FieldsFit.stvecWrite : FieldsFit.Statement .stvecWrite := by rintro l f ⟨⟩
theorem FieldsFit.trecWrite : FieldsFit.Statement .trecWrite := by rintro l f ⟨⟩
theorem FieldsFit.sipWrite : FieldsFit.Statement .sipWrite := by rintro l f ⟨⟩
theorem FieldsFit.fcsrAccess : FieldsFit.Statement .fcsrAccess := by rintro l f ⟨⟩
theorem FieldsFit.cwpRead : FieldsFit.Statement .cwpRead := by rintro l f ⟨⟩
theorem FieldsFit.pmcWrite : FieldsFit.Statement .pmcWrite := by rintro l f ⟨⟩
theorem FieldsFit.pmcRead : FieldsFit.Statement .pmcRead := by rintro l f ⟨⟩
theorem FieldsFit.pmselWrite : FieldsFit.Statement .pmselWrite := by rintro l f ⟨⟩
theorem FieldsFit.registerWrite : FieldsFit.Statement .registerWrite := by rintro l f ⟨⟩
theorem FieldsFit.interruptEntry : FieldsFit.Statement .interruptEntry := by rintro l f ⟨⟩
theorem FieldsFit.trapRecordPost : FieldsFit.Statement .trapRecordPost := by rintro l f ⟨⟩
theorem FieldsFit.ownerLostRefusal : FieldsFit.Statement .ownerLostRefusal := by rintro l f ⟨⟩
theorem FieldsFit.shuttleWake : FieldsFit.Statement .shuttleWake := by rintro l f ⟨⟩
theorem FieldsFit.waitLimitExpiry : FieldsFit.Statement .waitLimitExpiry := by rintro l f ⟨⟩
theorem FieldsFit.framePack : FieldsFit.Statement .framePack := by rintro l f ⟨⟩
theorem FieldsFit.frameCrcRetry : FieldsFit.Statement .frameCrcRetry := by rintro l f ⟨⟩
theorem FieldsFit.frameArrival : FieldsFit.Statement .frameArrival := by rintro l f ⟨⟩
theorem FieldsFit.queuedFrameDelivery : FieldsFit.Statement .queuedFrameDelivery := by rintro l f ⟨⟩
theorem FieldsFit.frameDeliveryFailed : FieldsFit.Statement .frameDeliveryFailed := by rintro l f ⟨⟩
theorem FieldsFit.mixWindowEnd : FieldsFit.Statement .mixWindowEnd := by rintro l f ⟨⟩
theorem FieldsFit.mixMigration : FieldsFit.Statement .mixMigration := by rintro l f ⟨⟩
theorem FieldsFit.exitRelease : FieldsFit.Statement .exitRelease := by rintro l f ⟨⟩
theorem FieldsFit.startEntryServed : FieldsFit.Statement .startEntryServed := by rintro l f ⟨⟩
theorem FieldsFit.vectorUnitStart : FieldsFit.Statement .vectorUnitStart := by rintro l f ⟨⟩
theorem FieldsFit.vectorCompletion : FieldsFit.Statement .vectorCompletion := by rintro l f ⟨⟩
theorem FieldsFit.vectorQueueParityError : FieldsFit.Statement .vectorQueueParityError := by rintro l f ⟨⟩
theorem FieldsFit.depthGrantComplete : FieldsFit.Statement .depthGrantComplete := by rintro l f ⟨⟩
theorem FieldsFit.qaEntryArrival : FieldsFit.Statement .qaEntryArrival := by rintro l f ⟨⟩
theorem FieldsFit.qkCommandArrival : FieldsFit.Statement .qkCommandArrival := by rintro l f ⟨⟩
theorem FieldsFit.arm : FieldsFit.Statement .arm := by rintro l f ⟨⟩
theorem FieldsFit.zero : FieldsFit.Statement .zero := by rintro l f ⟨⟩
theorem FieldsFit.drain : FieldsFit.Statement .drain := by rintro l f ⟨⟩
theorem FieldsFit.drainRow : FieldsFit.Statement .drainRow := by rintro l f ⟨⟩
theorem FieldsFit.bar : FieldsFit.Statement .bar := by rintro l f ⟨⟩
theorem FieldsFit.mcpy : FieldsFit.Statement .mcpy := by rintro l f ⟨⟩
theorem FieldsFit.qaConsume : FieldsFit.Statement .qaConsume := by rintro l f ⟨⟩
theorem FieldsFit.tlDecrement : FieldsFit.Statement .tlDecrement := by rintro l f ⟨⟩
theorem FieldsFit.qkParityError : FieldsFit.Statement .qkParityError := by rintro l f ⟨⟩
theorem FieldsFit.register : FieldsFit.Statement .register := by rintro l f ⟨⟩
theorem FieldsFit.registrationGrant : FieldsFit.Statement .registrationGrant := by rintro l f ⟨⟩
theorem FieldsFit.evict : FieldsFit.Statement .evict := by rintro l f ⟨⟩
theorem FieldsFit.fill : FieldsFit.Statement .fill := by rintro l f ⟨⟩
theorem FieldsFit.homeRead : FieldsFit.Statement .homeRead := by rintro l f ⟨⟩
theorem FieldsFit.watchWake : FieldsFit.Statement .watchWake := by rintro l f ⟨⟩
theorem FieldsFit.ringPostApply : FieldsFit.Statement .ringPostApply := by rintro l f ⟨⟩
theorem FieldsFit.feRequestResend : FieldsFit.Statement .feRequestResend := by rintro l f ⟨⟩
theorem FieldsFit.vwaitPoll : FieldsFit.Statement .vwaitPoll := by rintro l f ⟨⟩
theorem FieldsFit.vwaitTimeout : FieldsFit.Statement .vwaitTimeout := by rintro l f ⟨⟩
theorem FieldsFit.copyBlockDelivered : FieldsFit.Statement .copyBlockDelivered := by rintro l f ⟨⟩
theorem FieldsFit.copyComplete : FieldsFit.Statement .copyComplete := by rintro l f ⟨⟩
theorem FieldsFit.copyFault : FieldsFit.Statement .copyFault := by rintro l f ⟨⟩
theorem FieldsFit.plbFill : FieldsFit.Statement .plbFill := by rintro l f ⟨⟩
theorem FieldsFit.atbFill : FieldsFit.Statement .atbFill := by rintro l f ⟨⟩
theorem FieldsFit.pagePull : FieldsFit.Statement .pagePull := by rintro l f ⟨⟩
theorem FieldsFit.pullFailed : FieldsFit.Statement .pullFailed := by rintro l f ⟨⟩
theorem FieldsFit.pageMoveDown : FieldsFit.Statement .pageMoveDown := by rintro l f ⟨⟩
theorem FieldsFit.backgroundPull : FieldsFit.Statement .backgroundPull := by rintro l f ⟨⟩
theorem FieldsFit.pageRestore : FieldsFit.Statement .pageRestore := by rintro l f ⟨⟩
theorem FieldsFit.kick : FieldsFit.Statement .kick := by rintro l f ⟨⟩
theorem FieldsFit.ring : FieldsFit.Statement .ring := by rintro l f ⟨⟩
theorem FieldsFit.wbase : FieldsFit.Statement .wbase := by rintro l f ⟨⟩
theorem FieldsFit.bar2Access : FieldsFit.Statement .bar2Access := by rintro l f ⟨⟩
theorem FieldsFit.skein : FieldsFit.Statement .skein := by rintro l f ⟨⟩
theorem FieldsFit.start : FieldsFit.Statement .start := by rintro l f ⟨⟩
theorem FieldsFit.wait : FieldsFit.Statement .wait := by rintro l f ⟨⟩
theorem FieldsFit.signal : FieldsFit.Statement .signal := by rintro l f ⟨⟩
theorem FieldsFit.fenceRecord : FieldsFit.Statement .fenceRecord := by rintro l f ⟨⟩
theorem FieldsFit.dependenceAwait : FieldsFit.Statement .dependenceAwait := by rintro l f ⟨⟩
theorem FieldsFit.residencyGatePass : FieldsFit.Statement .residencyGatePass := by rintro l f ⟨⟩
theorem FieldsFit.waitQueueRearm : FieldsFit.Statement .waitQueueRearm := by rintro l f ⟨⟩
theorem FieldsFit.signalWordPoll : FieldsFit.Statement .signalWordPoll := by rintro l f ⟨⟩
theorem FieldsFit.preEmptionNotice : FieldsFit.Statement .preEmptionNotice := by rintro l f ⟨⟩
theorem FieldsFit.bobbinRefill : FieldsFit.Statement .bobbinRefill := by rintro l f ⟨⟩
theorem FieldsFit.worldSwitch : FieldsFit.Statement .worldSwitch := by rintro l f ⟨⟩
theorem FieldsFit.resumeGatePass : FieldsFit.Statement .resumeGatePass := by rintro l f ⟨⟩
theorem FieldsFit.timer : FieldsFit.Statement .timer := by rintro l f ⟨⟩
theorem FieldsFit.timerDeadline : FieldsFit.Statement .timerDeadline := by rintro l f ⟨⟩
theorem FieldsFit.vfInformation : FieldsFit.Statement .vfInformation := by rintro l f ⟨⟩
theorem FieldsFit.protection : FieldsFit.Statement .protection := by rintro l f ⟨⟩
theorem FieldsFit.ownerLostClearing : FieldsFit.Statement .ownerLostClearing := by rintro l f ⟨⟩
theorem FieldsFit.queueControl : FieldsFit.Statement .queueControl := by rintro l f ⟨⟩
theorem FieldsFit.rangeInstallAndRemoval : FieldsFit.Statement .rangeInstallAndRemoval := by rintro l f ⟨⟩
theorem FieldsFit.scrub : FieldsFit.Statement .scrub := by rintro l f ⟨⟩
theorem FieldsFit.bindVf : FieldsFit.Statement .bindVf := by rintro l f ⟨⟩
theorem FieldsFit.unbindVf : FieldsFit.Statement .unbindVf := by rintro l f ⟨⟩
theorem FieldsFit.homeMaskEntry : FieldsFit.Statement .homeMaskEntry := by rintro l f ⟨⟩
theorem FieldsFit.scheduleEntry : FieldsFit.Statement .scheduleEntry := by rintro l f ⟨⟩
theorem FieldsFit.addSection : FieldsFit.Statement .addSection := by rintro l f ⟨⟩
theorem FieldsFit.removeSection : FieldsFit.Statement .removeSection := by rintro l f ⟨⟩
theorem FieldsFit.readConfiguration : FieldsFit.Statement .readConfiguration := by rintro l f ⟨⟩
theorem FieldsFit.tier : FieldsFit.Statement .tier := by rintro l f ⟨⟩
theorem FieldsFit.vfConfiguration : FieldsFit.Statement .vfConfiguration := by rintro l f ⟨⟩
theorem FieldsFit.logConfiguration : FieldsFit.Statement .logConfiguration := by rintro l f ⟨⟩
theorem FieldsFit.pageTable : FieldsFit.Statement .pageTable := by rintro l f ⟨⟩
theorem FieldsFit.erratumEntry : FieldsFit.Statement .erratumEntry := by rintro l f ⟨⟩
theorem FieldsFit.dumpRead : FieldsFit.Statement .dumpRead := by rintro l f ⟨⟩
theorem FieldsFit.evacuate : FieldsFit.Statement .evacuate := by rintro l f ⟨⟩
theorem FieldsFit.openForImport : FieldsFit.Statement .openForImport := by rintro l f ⟨⟩
theorem FieldsFit.collectiveGroup : FieldsFit.Statement .collectiveGroup := by rintro l f ⟨⟩
theorem FieldsFit.interruptRouting : FieldsFit.Statement .interruptRouting := by rintro l f ⟨⟩
theorem FieldsFit.unknownService : FieldsFit.Statement .unknownService := by rintro l f ⟨⟩
theorem FieldsFit.serviceCompletion : FieldsFit.Statement .serviceCompletion := by rintro l f ⟨⟩
theorem FieldsFit.spdmRequest : FieldsFit.Statement .spdmRequest := by rintro l f ⟨⟩
theorem FieldsFit.lockInterfaceRequest : FieldsFit.Statement .lockInterfaceRequest := by rintro l f ⟨⟩
theorem FieldsFit.stopInterface : FieldsFit.Statement .stopInterface := by rintro l f ⟨⟩
theorem FieldsFit.vfReset : FieldsFit.Statement .vfReset := by rintro l f ⟨⟩
theorem FieldsFit.logWindowEnd : FieldsFit.Statement .logWindowEnd := by rintro l f ⟨⟩
theorem FieldsFit.patrolScrub : FieldsFit.Statement .patrolScrub := by rintro l f ⟨⟩
theorem FieldsFit.firmwareReelection : FieldsFit.Statement .firmwareReelection := by rintro l f ⟨⟩
theorem FieldsFit.coreLoss : FieldsFit.Statement .coreLoss := by rintro l f ⟨⟩
theorem FieldsFit.plannedFence : FieldsFit.Statement .plannedFence := by rintro l f ⟨⟩
theorem FieldsFit.fatalError : FieldsFit.Statement .fatalError := by rintro l f ⟨⟩
theorem FieldsFit.bringUp : FieldsFit.Statement .bringUp := by rintro l f ⟨⟩
theorem FieldsFit.clockThrottle : FieldsFit.Statement .clockThrottle := by rintro l f ⟨⟩
theorem FieldsFit.hbmRowSparing : FieldsFit.Statement .hbmRowSparing := by rintro l f ⟨⟩
theorem FieldsFit.cxlLinkDown : FieldsFit.Statement .cxlLinkDown := by rintro l f ⟨⟩
theorem FieldsFit.uePortDown : FieldsFit.Statement .uePortDown := by rintro l f ⟨⟩
theorem FieldsFit.collectiveComplete : FieldsFit.Statement .collectiveComplete := by rintro l f ⟨⟩
theorem FieldsFit.atom : FieldsFit.Statement .atom := by rintro l f ⟨⟩
theorem FieldsFit.collectiveAbort : FieldsFit.Statement .collectiveAbort := by rintro l f ⟨⟩
theorem FieldsFit.peerResponseTimeout : FieldsFit.Statement .peerResponseTimeout := by rintro l f ⟨⟩
theorem FieldsFit.startOffer : FieldsFit.Statement .startOffer := by rintro l f ⟨⟩
theorem FieldsFit.startInterfaceRequest : FieldsFit.Statement .startInterfaceRequest := by rintro l f ⟨⟩
theorem FieldsFit.cxlLinkUp : FieldsFit.Statement .cxlLinkUp := by rintro l f ⟨⟩
theorem FieldsFit.uePortUp : FieldsFit.Statement .uePortUp := by rintro l f ⟨⟩
theorem FieldsFit.meshLinkLoss : FieldsFit.Statement .meshLinkLoss := by rintro l f ⟨⟩
theorem FieldsFit.securityUnitLoss : FieldsFit.Statement .securityUnitLoss := by rintro l f ⟨⟩
theorem FieldsFit.warmReset : FieldsFit.Statement .warmReset := by rintro l f ⟨⟩
theorem FieldsFit.cycleCounterOverflow : FieldsFit.Statement .cycleCounterOverflow := by rintro l f ⟨⟩
theorem FieldsFit.partitionImport : FieldsFit.Statement .partitionImport := by rintro l f ⟨⟩
theorem FieldsFit.evacuationTargetLost : FieldsFit.Statement .evacuationTargetLost := by rintro l f ⟨⟩

end Sys2Proof.Laws
end

