-- ==== Sys2Proof/Machine/Loader.lean ====
section
/-! DEFINITION. Code objects (R360 to R372, R375): what the rules on loading fix of an object's header, relocations, kernel notes, linkage and
Obaiso lists, as pure functions. No step of the package reads an object: its loader is software, which stores what these functions give. -/

namespace Sys2Proof.Machine

/-- The header fields of an ELF64 file that R360 fixes. -/
structure ElfHeader where
  cls : Nat
  data : Nat
  version : Nat
  type : Nat
  machine : Nat
  flags : Nat
  entry : Nat
  deriving DecidableEq, Repr
/-- The load error of a header on a part of a generation (R360, R372): ELFCLASS64, ELFDATA2LSB, EV_CURRENT and ET_DYN have the values of the
ELF standard. PRESUMED, safe: log entry 85. -/
def ElfHeader.error (h : ElfHeader) (part : Nat) : Option Nat :=
  if h.cls ≠ 2 ∨ h.data ≠ 1 ∨ h.version ≠ 1 ∨ h.type ≠ 3 ∨ h.machine ≠ 0xA7D3 ∨ h.entry ≠ 0 ∨ 2 < h.flags then some 1
  else if part < h.flags then some 2
  else none

/-- The relocation types of R362. -/
inductive Reloc where
  | none | abs64 | hi20 | lo12I | lo12S | pcrelHi20 | pcrelLo12I | branch | jal | link
  deriving DecidableEq, Repr
/-- The relocation of a type number; none is load error 3 (R362). -/
def relocOf : Nat → Option Reloc
  | 0 => some .none | 1 => some .abs64 | 2 => some .hi20 | 3 => some .lo12I | 4 => some .lo12S | 5 => some .pcrelHi20
  | 6 => some .pcrelLo12I | 7 => some .branch | 8 => some .jal | 9 => some .link | _ => Option.none
/-- A field of a word takes the low bits of a value: n bits of it from bit `from_` on go to bit `to_`. -/
def putField (w : Nat) (v : Int) (from_ n to_ : Nat) : Nat :=
  let x := (v / (2 ^ from_ : Nat) % (2 ^ n : Nat)).toNat
  w - w / 2 ^ to_ % 2 ^ n * 2 ^ to_ + x * 2 ^ to_
/-- A value lies in the signed 32-bit range. -/
def signed32 (v : Int) : Bool := decide (-2147483648 ≤ v) && decide (v < 2147483648)
/-- The relocated field (R362): `v` is S + A, P the field's address, Q the address of the AUIPC that the symbol labels, `entry` the initial value
of a linkage entry, `w` the field as assembled. None is load error 3. -/
def Reloc.apply (r : Reloc) (v p q : Int) (entry w : Nat) : Option Nat :=
  match r with
  | .none => some w
  | .abs64 => some (v % (2 ^ 64 : Nat)).toNat
  | .hi20 => if signed32 v then some (putField w (v + 0x800) 12 20 12) else Option.none
  | .lo12I => some (putField w v 0 12 20)
  | .lo12S => some (putField (putField w v 0 5 7) v 5 7 25)
  | .pcrelHi20 => if signed32 (v - p) then some (putField w (v - p + 0x800) 12 20 12) else Option.none
  | .pcrelLo12I => some (putField w (v - q) 0 12 20)
  | .branch =>
    let d := v - p
    if d % 4 = 0 ∧ -4096 ≤ d ∧ d ≤ 4092 then
      some (putField (putField (putField (putField w d 11 1 7) d 1 4 8) d 5 6 25) d 12 1 31)
    else Option.none
  | .jal =>
    let d := v - p
    if d % 4 = 0 ∧ -1048576 ≤ d ∧ d ≤ 1048572 then
      some (putField (putField (putField (putField w d 12 8 12) d 11 1 20) d 1 10 21) d 20 1 31)
    else Option.none
  | .link => some entry

/-- A kernel control block (R363), as the 64 bytes of its descriptor give it. -/
structure Kernel where
  entry : Nat
  classes : Nat
  regs : Nat
  scratch : Nat
  depth : Nat
  rt : Nat
  features : Nat
  flags : Nat
  errata : List Nat
  name : Nat
  deriving DecidableEq, Repr
/-- The fields of a descriptor (R363). -/
def Kernel.ofNote (l : List Byte) : Kernel :=
  { entry := leField l 0 8, classes := leField l 8 4, regs := leField l 0xC 2, scratch := leField l 0x10 4, depth := leField l 0x14 1
    rt := leField l 0x16 2, features := leField l 0x18 4, flags := leField l 0x1C 4
    errata := (List.range 4).map fun i => leField l (0x20 + 2 * i) 2, name := leField l 0x28 8 }
/-- Nonzero entries come first (R363). -/
def zerosLast (l : List Nat) : Bool := (l.dropWhile (· != 0)).all (· == 0)
/-- A descriptor is malformed: load error 4 (R363). -/
def noteBad (l : List Byte) (text : Nat) : Bool :=
  let k := Kernel.ofNote l
  l.length != 64 || decide (k.entry % 4 ≠ 0) || decide (text ≤ k.entry) || decide (8 ≤ k.classes) || decide (k.regs % 2 ≠ 0)
    || decide (262144 < k.scratch) || decide (3 < k.depth) || decide (256 < k.rt) || decide (256 ≤ k.features) || decide (2 ≤ k.flags)
    || !(zerosLast k.errata) || !(zeroBytes l 0xE 0x10) || !(zeroBytes l 0x15 0x16) || !(zeroBytes l 0x30 0x40)
/-- The entry of the erratum-emulation register that reproduces an erratum (R369). -/
def State.erratumEntry (s : State) (id : Nat) : Option Nat :=
  (List.range 8).find? fun k =>
    let e : Word := SMap.get 0 s.errata k
    bitOf e 16 && bitsOf e 15 0 == id
/-- tsw.EE of the starts of a kernel (R369): a bit for every erratum that it relies on; none is load error 6. -/
def State.kernelEE (s : State) (k : Kernel) : Option Nat :=
  (k.errata.filter (· != 0)).foldl (fun r id => match r, s.erratumEntry id with
    | some n, some i => some (n ||| 2 ^ i)
    | _, _ => none) (some 0)
/-- The control word of a kernel's starts (R365, R70): EE, MODE, SCRATCH and DEPTH. -/
def Kernel.control (k : Kernel) (ee mode : Nat) : Word :=
  BitVec.ofNat 64 (ee % 256 * 2 ^ 56 + mode * 2 ^ 30 + (k.scratch + 255) / 256 * 16 + k.depth * 4)
/-- The START record of a kernel (R307, R365), `text` being where its `.text` lies and `rt` a threshold that the caller supplies. -/
def Kernel.startRecord (k : Kernel) (ee mode text target gen prio seed : Nat) (arg0 arg1 completion : Word) (rt : Option Nat) : List Word :=
  [BitVec.ofNat 64 (2 + target % 16384 * 2 ^ 16 + gen % 65536 * 2 ^ 32), BitVec.ofNat 64 (text + k.entry), arg0, arg1, k.control ee mode,
    BitVec.ofNat 64 (rt.getD k.rt + prio * 2 ^ 16), completion, BitVec.ofNat 64 seed]
/-- The start block of a kernel (R70, R365). -/
def Kernel.startBlock (k : Kernel) (ee mode text : Nat) (arg0 arg1 completion : Word) : List Word :=
  [BitVec.ofNat 64 (text + k.entry), arg0, arg1, k.control ee mode, completion, 0, 0, 0]

/-- The words of stub k (R366), which lies at `at_`. -/
def stubWords (k at_ resolver : Nat) : List (Option (BitVec 32)) :=
  [encode true (.addi 7 0 (BitVec.ofNat 12 k)), encode true (.jal 0 (BitVec.ofInt 20 (((resolver : Int) - (at_ + 4)) / 2)))]
/-- The initial value of linkage entry k (R366): the stub's address under lazy binding, else the target's. -/
def linkValue (lazy : Bool) (stubs k target : Nat) : Nat := if lazy then stubs + 8 * k else target
/-- The words of the resolver (R367, R375). -/
def resolverWords : List (Option (BitVec 32)) :=
  [encode true (.auipc 6 0), encode true (.slli 7 7 3), encode true (.add 7 7 6), encode true (.ld 6 6 32), encode true (.add 6 6 7),
    encode true (.ld 7 7 40), encode true (.stRelD .pkg 6 7), encode true (.jalr 0 7 0)]
/-- What follows them in the resolver block at R (R375): the distance of `.zlink`, and the target of every entry. -/
def resolverData (r zlink : Nat) (targets : List Nat) : List Word :=
  BitVec.ofInt 64 ((zlink : Int) - r) :: targets.map (BitVec.ofNat 64)

/-- An operation of an Obaiso list (R370): the result type 15 means mask. -/
structure ObOp where
  code : Nat
  type : Nat
  zero : Nat
  dist : List Nat
  imm : Word
  deriving DecidableEq, Repr
/-- The operation in 16 bytes (R370). -/
def ObOp.ofBytes (l : List Byte) : ObOp :=
  { code := leField l 0 1, type := leField l 1 1 % 16, zero := leField l 1 1 / 16, dist := (List.range 3).map fun i => leField l (2 + 2 * i) 2
    imm := BitVec.ofNat 64 (leField l 8 8) }
/-- The operand distances that an opcode uses (R370); none is load error 7. -/
def obArity : Nat → Option Nat
  | 0x01 | 0x02 => some 0
  | 0x03 | 0x0B => some 1
  | 0x04 | 0x05 | 0x06 | 0x07 | 0x09 | 0x0A | 0x0C => some 2
  | 0x08 | 0x0D => some 3
  | _ => none
/-- The operand types of an operation are as it requires (R370), given the types of its operands: an address is of any element type.
DESIGN CHOICE, safe: log entry 87. -/
def ObOp.typed (o : ObOp) (ts : List Nat) : Bool :=
  let elem (t : Nat) : Bool := decide (t ≤ 10)
  match o.code, ts with
  | 0x01, _ => elem o.type && decide (o.imm.toNat % 8 = 0)
  | 0x02, _ => elem o.type
  | 0x03, [a] => elem o.type && elem a
  | 0x04, [a, t] => elem o.type && elem a && t == o.type
  | 0x0B, [t] => elem o.type && elem t
  | 0x0C, [t, u] => o.type == 15 && elem t && t == u
  | 0x0D, [m, t, u] => elem o.type && m == 15 && t == o.type && u == o.type
  | _, l => elem o.type && l.all (· == o.type)
/-- The type of an operation's result, 14 where it has none (R370). -/
def ObOp.result (o : ObOp) : Nat := if o.code = 4 then 14 else o.type
/-- Operation n of a list is malformed (R370). -/
def obBad (ops : List ObOp) (n : Nat) (o : ObOp) : Bool :=
  match obArity o.code with
  | none => true
  | some k =>
    let ds := o.dist.take k
    o.zero != 0 || ds.any (fun d => d == 0 || decide (n < d)) || !(o.typed (ds.map fun d => ((ops[n - d]?).map ObOp.result).getD 14))
/-- The operations of a list, and NOFF: none where the list is malformed, load error 7 (R370). -/
def obaisoList (l : List Byte) : Option (List ObOp × Nat) :=
  let n := leField l 6 2
  let ops := (List.range n).map fun i => ObOp.ofBytes ((l.drop (16 + 16 * i)).take 16)
  if leField l 0 4 ≠ 0x4F424149 ∨ leField l 4 2 ≠ 1 ∨ n = 0 ∨ 4096 < n ∨ l.length < 16 + 16 * n ∨
      ops.zipIdx.any (fun o => obBad ops o.2 o.1) = true then none
  else some (ops, leField l 8 8)
/-- A binary operation on two elements of a type (R370), with RNE (R117) and the rules of R158 and R161. -/
def obBinary (e : EType) (code a b : Nat) : Nat :=
  let fp (p : Fp × FFlags) : Nat := (e.fmt.round .rne p.1).1
  match code with
  | 0x05 => if e.isFp then fp (Fp.add .rne (e.fmt.decode a) (e.fmt.decode b)) else (a + b) % 2 ^ e.width
  | 0x06 => if e.isFp then fp (Fp.add .rne (e.fmt.decode a) (e.fmt.decode b).negate) else wrap ((a : Int) - b) e.width
  | 0x07 => if e.isFp then fp ((e.fmt.decode a).mul (e.fmt.decode b)) else a * b % 2 ^ e.width
  | 0x09 => if e.isFp then (e.fmt.minMax false a b).1 else if e.ext b < e.ext a then b else a
  | 0x0A => if e.isFp then (e.fmt.minMax true a b).1 else if e.ext a < e.ext b then b else a
  | _ => if (if e.isFp then (fcompare .lt (e.fmt.decode a) (e.fmt.decode b)).1 else decide (e.ext a < e.ext b)) then 1 else 0
/-- The value of an operation for element i (R370), from its operands as (type, value), the doublewords of the parameter block and memory:
`load a n` is the n-bit value at an address. A STORE has no result. -/
def ObOp.value (o : ObOp) (param : Nat → Nat) (load : Nat → Nat → Nat) (i : Nat) (xs : List (Nat × Nat)) : Nat :=
  let e := (etypeOf o.type).getD .i8
  match o.code, xs with
  | 0x01, _ => param o.imm.toNat
  | 0x02, _ => o.imm.toNat % 2 ^ e.width
  | 0x03, [a] => load (a.2 + i * e.width / 8) e.width
  | 0x08, [a, b, c] =>
    let x (p : Nat × Nat) : Nat := p.2 % 2 ^ e.width
    if e.isFp then (e.fmt.round .rne (Fp.fma .rne (e.fmt.decode (x a)) (e.fmt.decode (x b)) (e.fmt.decode (x c))).1).1
    else (x a * x b + x c) % 2 ^ e.width
  | 0x0B, [a] => let src := (etypeOf a.1).getD .i8; (convert src e .rne (a.2 % 2 ^ src.width)).val
  | 0x0D, [m, a, b] => (if m.2 = 1 then a.2 else b.2) % 2 ^ e.width
  | _, [a, b] => let t := (etypeOf a.1).getD .i8; obBinary t o.code (a.2 % 2 ^ t.width) (b.2 % 2 ^ t.width)
  | _, _ => 0
/-- The evaluation of a list in order for element i (R370, R371): the results, latest first, and the stores as address, width in bits and
value. -/
def obEval (param : Nat → Nat) (load : Nat → Nat → Nat) (i : Nat) : List ObOp → List (Nat × Nat) → List (Nat × Nat × Nat) →
    List (Nat × Nat) × List (Nat × Nat × Nat)
  | [], rs, st => (rs, st)
  | o :: l, rs, st =>
    let xs := (o.dist.take ((obArity o.code).getD 0)).map fun d => rs.getD (d - 1) (0, 0)
    let w := ((etypeOf o.type).getD .i8).width
    let stores := match o.code, xs with
      | 0x04, [a, b] => [(a.2 + i * w / 8, w, b.2 % 2 ^ w)]
      | _, _ => []
    obEval param load i l ((o.type, o.value param load i xs) :: rs) (st ++ stores)

/-- The load errors of an object for a VF (R372): its header, its relocations as types with the outcome of `Reloc.apply`, its notes against the
size of `.text`, its Obaiso lists, and its number of linkage entries. An object with any is refused. -/
def State.loadErrors (s : State) (v part : Nat) (h : ElfHeader) (relocs : List (Option Nat)) (notes : List (List Byte)) (text : Nat)
    (lists : List (List Byte)) (links : Nat) : List Nat :=
  let ks := notes.map Kernel.ofNote
  let error (b : Bool) (n : Nat) : List Nat := if b then [n] else []
  (h.error part).toList ++ error (relocs.any Option.isNone) 3 ++ error (notes.any fun l => noteBad l text) 4
    ++ error (ks.any fun k => BitVec.ofNat 32 k.features &&& (s.vf v).feature != 0) 5 ++ error (ks.any fun k => (s.kernelEE k).isNone) 6
    ++ error (lists.any fun l => (obaisoList l).isNone) 7 ++ error (decide (2048 < links)) 8

end Sys2Proof.Machine
end

