-- ==== Sys2Proof/Tests/Slice0.lean ====
section
/-! SUPPORT. Tests: an ill-formed term for every check of `wellFormed`; a word of every instruction that has one, built from the `match` value
and the field places of the opcode table; single steps with results worked out by hand from the spec; and for every statement with hypotheses,
clause by clause, a state and operands that meet them together. -/

open Sys2Proof Sys2Proof.Machine
namespace Sys2Proof.Tests
set_option Elab.async false
set_option linter.unusedVariables false

/-- Each of these breaks exactly one check. -/
theorem test_illFormed : ∀ i ∈ ([
    .faddS 3 5 9 5, .fsubS 3 5 9 6, .fmulS 3 5 9 5, .fdivS 3 5 9 6, .fsqrtS 3 5 5, .fcvtWS 3 5 6, .fcvtWuS 3 5 5, .fcvtLS 3 5 6,
    .fcvtLuS 3 5 5, .fcvtSW 3 5 6, .fcvtSWu 3 5 5, .fcvtSL 3 5 6, .fcvtSLu 3 5 5, .fmaddS 3 5 9 7 6, .fmsubS 3 5 9 7 5, .fnmsubS 3 5 9 7 6,
    .fnmaddS 3 5 9 7 5, .invR .core 5 9, .wbR .core 5 9, .vsetl 3 5 0 .i8, .vsetl 3 5 9 .i8, .vwait 0 1 2 3, .vadd true 0 1 2 3,
    .vclip true 0 1 2 3, .vclip false 0 1 3 2, .vwadd false 0 1 2 3, .vwmul false 0 3 2 4, .vwmacc false 0 5 2 4, .vnsr false 0 2 3 4,
    .vcvtb false 0 9 2 3, .vcvtb false 0 9 4 9, .vdecb false 0 6 2 3, .vcmp .eq 0 0 1 2, .vfcmp .lt 0 0 1 2, .vmlog .and 0 1 2,
    .vmlog .or 1 0 2, .vmlog .xor 1 2 0, .vpopc 3 0, .vfirst 3 0, .vmerge 0 1 2 3, .vcomp 0 1 2] : List Instr), wellFormed i = false := by decide
/-- Their neighbours pass. -/
theorem test_wellFormed : ∀ i ∈ ([
    .faddS 3 5 9 7, .fmaddS 3 5 9 7 4, .invR .clu 5 9, .wbR .pkg 5 9, .vsetl 3 5 1 .i8, .vsetl 3 5 8 .i8, .vwait 1 1 2 3, .vadd true 1 1 2 3,
    .vadd false 0 1 2 3, .vclip false 0 1 2 3, .vwadd false 0 2 2 3, .vnsr false 0 3 2 4, .vcvtb false 0 9 4 3, .vdecb false 0 8 2 3,
    .vcmp .eq 0 1 1 2, .vmlog .and 1 2 3, .vpopc 3 1, .vmerge 1 1 2 3, .vcomp 7 1 2] : List Instr), wellFormed i = true := by decide

/-- Words of LUI to FNMADD_S, from `match` and field places of the opcode table. -/
theorem test_decode_upper_jump_fma_fence : ∀ e ∈ ([
    (0xABCDE1B7, .lui 3 0xabcde), (0xABCDE197, .auipc 3 0xabcde), (0x008001EF, .jal 3 4), (0x9A7281E7, .jalr 3 5 0x9a7),
    (0x666A8A8F, .fence 0x6 0x6 0x6 0x15 0x15), (0x9A7A9A8F, .fenceI 0x9a7 0x15 0x15), (0x389291C3, .fmaddS 3 5 9 7 0x1),
    (0x389291C7, .fmsubS 3 5 9 7 0x1), (0x389291CB, .fnmsubS 3 5 9 7 0x1), (0x389291CF, .fnmaddS 3 5 9 7 0x1)] : List (BitVec 32 × Instr)), decodeWord e.1 = .instr e.2 := by decide

/-- Words of BEQ to BGEU, from `match` and field places of the opcode table. -/
theorem test_decode_branch : ∀ e ∈ ([
    (0x00928863, .beq 5 9 8), (0x00929863, .bne 5 9 8), (0x0092C863, .blt 5 9 8), (0x0092D863, .bge 5 9 8), (0x0092E863, .bltu 5 9 8),
    (0x0092F863, .bgeu 5 9 8)] : List (BitVec 32 × Instr)), decodeWord e.1 = .instr e.2 := by decide

/-- Words of LB to LWU, from `match` and field places of the opcode table. -/
theorem test_decode_load : ∀ e ∈ ([
    (0x9A728183, .lb 3 5 0x9a7), (0x9A729183, .lh 3 5 0x9a7), (0x9A72A183, .lw 3 5 0x9a7), (0x9A72B183, .ld 3 5 0x9a7),
    (0x9A72C183, .lbu 3 5 0x9a7), (0x9A72D183, .lhu 3 5 0x9a7), (0x9A72E183, .lwu 3 5 0x9a7)] : List (BitVec 32 × Instr)), decodeWord e.1 = .instr e.2 := by decide

/-- Words of SB to SD, from `match` and field places of the opcode table. -/
theorem test_decode_store : ∀ e ∈ ([
    (0x7E9282A3, .sb 5 9 0x7E5), (0x7E9292A3, .sh 5 9 0x7E5), (0x7E92A2A3, .sw 5 9 0x7E5), (0x7E92B2A3, .sd 5 9 0x7E5)] : List (BitVec 32 × Instr)), decodeWord e.1 = .instr e.2 := by decide

/-- Words of ADDI to SRAI, from `match` and field places of the opcode table. -/
theorem test_decode_op_imm : ∀ e ∈ ([
    (0x9A728193, .addi 3 5 0x9a7), (0x9A72A193, .slti 3 5 0x9a7), (0x9A72B193, .sltiu 3 5 0x9a7), (0x9A72C193, .xori 3 5 0x9a7),
    (0x9A72E193, .ori 3 5 0x9a7), (0x9A72F193, .andi 3 5 0x9a7), (0x02B29193, .slli 3 5 0x2b), (0x02B2D193, .srli 3 5 0x2b),
    (0x42B2D193, .srai 3 5 0x2b)] : List (BitVec 32 × Instr)), decodeWord e.1 = .instr e.2 := by decide

/-- Words of ADD to REMU, from `match` and field places of the opcode table. -/
theorem test_decode_op : ∀ e ∈ ([
    (0x009281B3, .add 3 5 9), (0x409281B3, .sub 3 5 9), (0x009291B3, .sll 3 5 9), (0x0092A1B3, .slt 3 5 9), (0x0092B1B3, .sltu 3 5 9),
    (0x0092C1B3, .xor 3 5 9), (0x0092D1B3, .srl 3 5 9), (0x4092D1B3, .sra 3 5 9), (0x0092E1B3, .or 3 5 9), (0x0092F1B3, .and 3 5 9),
    (0x029281B3, .mul 3 5 9), (0x029291B3, .mulh 3 5 9), (0x0292A1B3, .mulhsu 3 5 9), (0x0292B1B3, .mulhu 3 5 9), (0x0292C1B3, .div 3 5 9),
    (0x0292D1B3, .divu 3 5 9), (0x0292E1B3, .rem 3 5 9), (0x0292F1B3, .remu 3 5 9)] : List (BitVec 32 × Instr)), decodeWord e.1 = .instr e.2 := by decide

/-- Words of ADDIW to SRAIW, from `match` and field places of the opcode table. -/
theorem test_decode_op_imm_32 : ∀ e ∈ ([
    (0x9A72819B, .addiw 3 5 0x9a7), (0x0152919B, .slliw 3 5 0x15), (0x0152D19B, .srliw 3 5 0x15), (0x4152D19B, .sraiw 3 5 0x15)] : List (BitVec 32 × Instr)), decodeWord e.1 = .instr e.2 := by decide

/-- Words of ADDW to REMUW, from `match` and field places of the opcode table. -/
theorem test_decode_op_32 : ∀ e ∈ ([
    (0x009281BB, .addw 3 5 9), (0x409281BB, .subw 3 5 9), (0x009291BB, .sllw 3 5 9), (0x0092D1BB, .srlw 3 5 9), (0x4092D1BB, .sraw 3 5 9),
    (0x029281BB, .mulw 3 5 9), (0x0292C1BB, .divw 3 5 9), (0x0292D1BB, .divuw 3 5 9), (0x0292E1BB, .remw 3 5 9), (0x0292F1BB, .remuw 3 5 9)] : List (BitVec 32 × Instr)), decodeWord e.1 = .instr e.2 := by decide

/-- Words of ECALL to WFI, from `match` and field places of the opcode table. -/
theorem test_decode_system : ∀ e ∈ ([
    (0x00000073, .ecall), (0x00100073, .ebreak), (0x9A7291F3, .csrrw 3 5 0x9a7), (0x9A72A1F3, .csrrs 3 5 0x9a7),
    (0x9A72B1F3, .csrrc 3 5 0x9a7), (0x9A7AD1F3, .csrrwi 3 0x15 0x9a7), (0x9A7AE1F3, .csrrsi 3 0x15 0x9a7),
    (0x9A7AF1F3, .csrrci 3 0x15 0x9a7), (0x10200073, .sret), (0x30200073, .mret), (0x10500073, .wfi)] : List (BitVec 32 × Instr)), decodeWord e.1 = .instr e.2 := by decide

/-- Words of FADD_S to FCLASS_S, from `match` and field places of the opcode table. -/
theorem test_decode_op_fp : ∀ e ∈ ([
    (0x009291D3, .faddS 3 5 9 0x1), (0x089291D3, .fsubS 3 5 9 0x1), (0x109291D3, .fmulS 3 5 9 0x1), (0x189291D3, .fdivS 3 5 9 0x1),
    (0x580291D3, .fsqrtS 3 5 0x1), (0x209281D3, .fsgnjS 3 5 9), (0x209291D3, .fsgnjnS 3 5 9), (0x2092A1D3, .fsgnjxS 3 5 9),
    (0x289281D3, .fminS 3 5 9), (0x289291D3, .fmaxS 3 5 9), (0xC00291D3, .fcvtWS 3 5 0x1), (0xC01291D3, .fcvtWuS 3 5 0x1),
    (0xC02291D3, .fcvtLS 3 5 0x1), (0xC03291D3, .fcvtLuS 3 5 0x1), (0xD00291D3, .fcvtSW 3 5 0x1), (0xD01291D3, .fcvtSWu 3 5 0x1),
    (0xD02291D3, .fcvtSL 3 5 0x1), (0xD03291D3, .fcvtSLu 3 5 0x1), (0xA092A1D3, .feqS 3 5 9), (0xA09291D3, .fltS 3 5 9),
    (0xA09281D3, .fleS 3 5 9), (0xE00291D3, .fclassS 3 5)] : List (BitVec 32 × Instr)), decodeWord e.1 = .instr e.2 := by decide

/-- Words of SHSTART to FE_SET_EMPTY, from `match` and field places of the opcode table. -/
theorem test_decode_sx_1 : ∀ e ∈ ([
    (0x8092818B, .shstart 3 5 9), (0x8802800B, .shmove 5), (0x8812800B, .shmoveHome 5), (0x9000000B, .shexit), (0x9800000B, .shyield),
    (0xA052800B, .ipost 0x5 5), (0xA852800B, .iwait 0x5 5), (0xB410000B, .fenceSAcq .pkg), (0xB420000B, .fenceSRel .pkg),
    (0xB430000B, .fenceSAr .pkg), (0xB802800B, .fenceQ 5), (0xC492800B, .invR .pkg 5 9), (0xCC92800B, .wbR .pkg 5 9),
    (0xD402818B, .ldAcqW .pkg 3 5), (0xDC02818B, .ldAcqD .pkg 3 5), (0xE492800B, .stRelW .pkg 5 9), (0xEC92800B, .stRelD .pkg 5 9),
    (0xF092800B, .tierHintHot 5 9), (0xF292800B, .tierHintCold 5 9), (0x8002918B, .ldfe 3 5), (0x8892900B, .stfe 5 9),
    (0x9002918B, .ldff 3 5), (0x9812900B, .feSetFull 5), (0x9802900B, .feSetEmpty 5)] : List (BitVec 32 × Instr)), decodeWord e.1 = .instr e.2 := by decide

/-- Words of QPUSH_QA to CAS, from `match` and field places of the opcode table. -/
theorem test_decode_sx_2 : ∀ e ∈ ([
    (0x8092AA0B, .qpushQa 20 5 9), (0x8292A18B, .qpushQk 3 5 9), (0x8C02A40B, .qpopQd 8 5), (0x9002A18B, .qstatQa 3 5),
    (0x9202A18B, .qstatQk 3 5), (0x9402A18B, .qstatQd 3 5), (0x9892A30B, .cpy 0x6 5 9), (0xA092A30B, .cpy2d 0x6 5 9),
    (0xA892A30B, .cpyB 0x6 5 9), (0xB402A18B, .collPostPkg 3 5), (0xB602A18B, .collPostSys 3 5), (0xB802A18B, .collTest 3 5),
    (0xB492B18B, .amoAdd .d .rel .pkg 3 5 9), (0xF492B18B, .amoAnd .d .rel .pkg 3 5 9), (0xB492C18B, .amoOr .d .rel .pkg 3 5 9),
    (0xF492C18B, .amoXor .d .rel .pkg 3 5 9), (0xB492D18B, .amoMin .d .rel .pkg 3 5 9), (0xF492D18B, .amoMax .d .rel .pkg 3 5 9),
    (0xB492E18B, .amoMinu .d .rel .pkg 3 5 9), (0xF492E18B, .amoMaxu .d .rel .pkg 3 5 9), (0xB492F18B, .amoSwap .d .rel .pkg 3 5 9),
    (0xF492F18B, .cas .d .rel .pkg 3 5 9)] : List (BitVec 32 × Instr)), decodeWord e.1 = .instr e.2 := by decide

/-- Words of VLD to VDEPTH, from `match` and field places of the opcode table. -/
theorem test_decode_si_1 : ∀ e ∈ ([
    (0x8A02842B, .vld true false true 8 5), (0x9A02842B, .vst true false true 8 5), (0xA892842B, .vlds true false 8 5 9),
    (0xB892842B, .vsts true false 8 5 9), (0xC902842B, .vldx true false 8 5 16), (0xD902842B, .vstx true false 8 5 16),
    (0xEA92842B, .vld2 true false true 8 5 9), (0xFA92842B, .vst2 true false true 8 5 9), (0x8D02942B, .vamoAddClu true .rel 8 5 16),
    (0x9D02942B, .vamoAndClu true .rel 8 5 16), (0xAD02942B, .vamoOrClu true .rel 8 5 16), (0xBD02942B, .vamoXorClu true .rel 8 5 16),
    (0xCD02942B, .vamoMinClu true .rel 8 5 16), (0xDD02942B, .vamoMaxClu true .rel 8 5 16), (0xED02942B, .vamoSwapClu true .rel 8 5 16),
    (0x8D02A42B, .vamoAddPkg true .rel 8 5 16), (0x9D02A42B, .vamoAndPkg true .rel 8 5 16), (0xAD02A42B, .vamoOrPkg true .rel 8 5 16),
    (0xBD02A42B, .vamoXorPkg true .rel 8 5 16), (0xCD02A42B, .vamoMinPkg true .rel 8 5 16), (0xDD02A42B, .vamoMaxPkg true .rel 8 5 16),
    (0xED02A42B, .vamoSwapPkg true .rel 8 5 16), (0x8642B1AB, .vsetl 3 5 0x6 .i32), (0x902031AB, .vdepth 3 0x2)] : List (BitVec 32 × Instr)), decodeWord e.1 = .instr e.2 := by decide

/-- Words of VSTRIP to BAR_TEST, from `match` and field places of the opcode table. -/
theorem test_decode_si_2 : ∀ e ∈ ([
    (0xA002B1AB, .vstrip 3 5), (0xBAB532AB, .vwait 5 10 11 0x5), (0xAB5ACAAB, .cwait 0x15 0x15 0x15 0x15), (0x82B2D02B, .barInit 0x2b 5),
    (0x8AB051AB, .barArr 3 0x2b), (0x92B2D02B, .barExp 0x2b 5), (0x9AB2D02B, .barWait 0x2b 5), (0xA2B051AB, .barTest 3 0x2b)] : List (BitVec 32 × Instr)), decodeWord e.1 = .instr e.2 := by decide

/-- Words of VADD to VNSR, from `match` and field places of the opcode table. -/
theorem test_decode_va_1 : ∀ e ∈ ([
    (0x14C2045B, .vadd true 2 8 4 12), (0x34C2045B, .vsub true 2 8 4 12), (0x54C2045B, .vmul true 2 8 4 12),
    (0x74C2045B, .vmulh true 2 8 4 12), (0x94C2045B, .vmacc true 2 8 4 12), (0xB4C2045B, .vmin true 2 8 4 12),
    (0xD4C2045B, .vmax true 2 8 4 12), (0xF4C2045B, .vminu true 2 8 4 12), (0x14C2145B, .vmaxu true 2 8 4 12),
    (0x34C2145B, .vand true 2 8 4 12), (0x54C2145B, .vor true 2 8 4 12), (0x74C2145B, .vxor true 2 8 4 12),
    (0x94C2145B, .vsll true 2 8 4 12), (0xB4C2145B, .vsrl true 2 8 4 12), (0xD4C2145B, .vsra true 2 8 4 12),
    (0xF4C2145B, .vclip true 2 8 4 12), (0x14C2245B, .vsadd true 2 8 4 12), (0x34C2245B, .vssub true 2 8 4 12),
    (0x54C2245B, .vsaddu true 2 8 4 12), (0x74C2245B, .vssubu true 2 8 4 12), (0x94C2245B, .vwadd true 2 8 4 12),
    (0xB4C2245B, .vwmul true 2 8 4 12), (0xD4C2245B, .vwmacc true 2 8 4 12), (0xF4C2245B, .vnsr true 2 8 4 12)] : List (BitVec 32 × Instr)), decodeWord e.1 = .instr e.2 := by decide

/-- Words of VFADD to VMVSX, from `match` and field places of the opcode table. -/
theorem test_decode_va_2 : ∀ e ∈ ([
    (0x14C2345B, .vfadd true 2 8 4 12), (0x34C2345B, .vfsub true 2 8 4 12), (0x54C2345B, .vfmul true 2 8 4 12),
    (0x74C2345B, .vfmacc true 2 8 4 12), (0x94C2345B, .vfnmacc true 2 8 4 12), (0xB4C2345B, .vfdiv true 2 8 4 12),
    (0xD402345B, .vfsqrt true 2 8 4), (0xF402345B, .vfrece true 2 8 4), (0x1402445B, .vfrsqe true 2 8 4),
    (0x34C2445B, .vfmin true 2 8 4 12), (0x54C2445B, .vfmax true 2 8 4 12), (0x74C2445B, .vfsgnj true 2 8 4 12),
    (0x9402445B, .vfclass true 2 8 4), (0xB442445B, .vcvt true 2 .i32 8 4), (0xD4C2445B, .vcvtb true 2 8 4 12),
    (0xF4C2445B, .vdecb true 2 8 4 12), (0x04C25ADB, .vcmp .lt 2 5 4 12), (0x24C25ADB, .vfcmp .lt 2 5 4 12),
    (0x40735EDB, .vmlog .andn 5 6 7), (0x600351DB, .vpopc 3 6), (0x800351DB, .vfirst 3 6), (0xA4C2545B, .vmerge 2 8 4 12),
    (0xC402D45B, .vbcast 2 8 5), (0xE402D45B, .vmvsx 2 8 5)] : List (BitVec 32 × Instr)), decodeWord e.1 = .instr e.2 := by decide

/-- Words of VSLUP to VFREDMIN, from `match` and field places of the opcode table. -/
theorem test_decode_va_3 : ∀ e ∈ ([
    (0x0492645B, .vslup 2 8 4 9), (0x2492645B, .vsldn 2 8 4 9), (0x44C2645B, .vrgath 2 8 4 12), (0x6402645B, .vcomp 2 8 4),
    (0x8002645B, .vtrn 8 4), (0xA00261DB, .vmvxs 3 4), (0xC4C2645B, .vredsum 2 8 4 12), (0xE4C2645B, .vredmax 2 8 4 12),
    (0x04C2745B, .vredmin 2 8 4 12), (0x24C2745B, .vredand 2 8 4 12), (0x44C2745B, .vredor 2 8 4 12), (0x64C2745B, .vfredo 2 8 4 12),
    (0x84C2745B, .vfredt 2 8 4 12), (0xA4C2745B, .vfredmax 2 8 4 12), (0xC4C2745B, .vfredmin 2 8 4 12)] : List (BitVec 32 × Instr)), decodeWord e.1 = .instr e.2 := by decide

/-- Words of MRUN to MSTAT, from `match` and field places of the opcode table. -/
theorem test_decode_mx : ∀ e ∈ ([
    (0x6A02807B, .mrun .i8i8 0x5 5), (0x6A92907B, .mcfg .i8i8 0x5 5 9), (0x0092A07B, .mzero 5 9), (0x0A02B07B, .mdrain 0x5 5),
    (0x0092C07B, .mcpyIn 5 9), (0x0092D07B, .mcpyOut 5 9), (0x000061FB, .mstat 3)] : List (BitVec 32 × Instr)), decodeWord e.1 = .instr e.2 := by decide

/-- The address of a byte of a scratchpad (R204). -/
def win (c o : Nat) : Nat := 0xFE000000000000 + c / 256 * 2 ^ 32 + c % 256 * 2 ^ 20 + o
/-- The same as a register value. -/
def winw (c o : Nat) : Word := BitVec.ofNat 64 (win c o)
/-- A package of one partition with every section, in which VF 3 runs. -/
def pkg : State :=
  { parts := [(0, { sections := 0xFFFFFFFF, vfs := [3], running := some 3 })], vfs := [(3, { bound := some 0 })], ready := true }
/-- A shuttle of VF 3 with x registers given, ready at 0x1000. -/
def shuttle (mode : Mode) (xs : SMap Word) : Slot := { life := .ready, vf := 3, sh := { pc := 0x1000, x := xs, mode := mode } }
/-- The package with one shuttle, in slot 0 of a core. -/
def on (c : Nat) (mode : Mode) (xs : SMap Word) : State := { pkg with focus := c * 16, slots := [(c * 16, shuttle mode xs)] }
/-- The context of a core of it changed. -/
def ctxOf (s : State) (c : Nat) (f : CoreCtx → CoreCtx) : State := s.updCore c fun k => { k with ctx := f { k.ctx with vf := 3, units := 64 } }
/-- The state and the value of an access that passes. -/
def stateOf {α : Type} (r : Res α) (d : State) : State := match r with | .ok s _ => s | _ => d
/-- The value of an access that passes. -/
def valueOf {α : Type} (r : Res α) (d : α) : α := match r with | .ok _ a => a | _ => d
/-- Two pages of the tables: addresses 0x10000 and 0x20000 lie at the same machine addresses, homed at core 5, under VF 3's own key; the
region may be read, written and fetched from by U mode (p = 0x1F) or by S mode (0x0F). -/
def mapped (s : State) (p : Byte) (tier : Nat := 0) : State :=
  let leaf (n : Nat) : Word := BitVec.ofNat 64 (tier * 2 ^ 62 + 5 * 2 ^ 50 + n * 1024 + 3)
  let t : State := [(0x100000, 0x102000 / 8 + 1), (0x102000, 0x104000 / 8 + 1), (0x104000, 0x106000 / 8 + 1), (0x106008, leaf 1), (0x106010, leaf 2),
    (0xBC01060000, 0xBC05000001)].foldl (fun t e => t.write64 e.1 e.2) s
  let r : RangeEntry := { w0 := 0x8000000000000000, w1 := 0x1000000, w2 := 0, w3 := 0xE03 }
  ((t.putByte 0xBC05000000 p).updVf 3 fun v => { v with ranges := [(0, r)] }).updDie 0 fun d => { d with trr := 0x100001 }
/-- The bytes of words from an offset, those that are not zero. -/
def cells (o : Nat) (ws : List Word) : SMap Byte :=
  ((List.range (8 * ws.length)).map fun i => (o + i, byteAt (ws.getD (i / 8) 0) (i % 8))).filter fun e => e.2 != 0
/-- Eight words at an offset of a core's scratchpad. -/
def block (s : State) (c o : Nat) (ws : List Word) : State := ctxOf s c fun k => { k with scratch := cells o ws }
/-- A thread of vector core 5 with an element type and lengths, vector rows and mask registers. -/
def von (e : EType) (vlr vlc : Nat) (rows : SMap (BitVec 1024)) (masks : SMap (BitVec 4096)) (xs : SMap Word) : State :=
  (ctxOf (on 5 .u xs) 5 fun k => k).updMe fun m =>
    { m with
      vregs := rows, masks := masks
      sh := { m.sh with vtype := some e, vlr := BitVec.ofNat 4 vlr, vlc := BitVec.ofNat 10 vlc, vdepth := 8 } }
/-- A passed access, by its state and value. -/
theorem eq_okOf {α : Type} {r : Res α} (d : State) (a : α) (h : (match r with | .ok _ _ => true | _ => false) = true) :
    r = .ok (stateOf r d) (valueOf r a) := by
  cases r <;> simp_all [stateOf, valueOf]
/-- No vector instruction has started in any slot. -/
theorem noPins_of {s : State} (h : (s.slots.all fun e => e.2.vrun.isNone) = true) (k : Nat) (e : VEntry) (he : (s.slot k).vrun = some e) :
    e.pins = [] := by
  have hn : ∀ p ∈ s.slots, p.2.vrun = none := fun p hp => by simpa using List.all_eq_true.1 h p hp
  have hk : (s.slot k).vrun = none := SMap.get_forall (p := fun m : Slot => m.vrun = none) rfl hn k
  simp [he] at hk

/-- The next state of an outcome. -/
def outcome (o : Host.Outcome State Fault Refusal) : State := match o with | .next t => t | _ => {}
/-- The state after an instruction of the shuttle in slot 80. -/
def after (i : Instr) (s : State) : State := outcome (exec i s)

/-- 2^64 - 1 and 2 add to 1 (R61). -/
theorem test_add_wraps : (after (.add 3 5 9) (on 5 .u [(5, 0xFFFFFFFFFFFFFFFF), (9, 2)])).x 3 = 1 := by decide +kernel
/-- A source that is the destination is read first, and the 32-bit result is sign-extended (R61). -/
theorem test_addw_extends : (after (.addw 5 5 5) (on 5 .u [(5, 0x40000000)])).x 5 = 0xFFFFFFFF80000000 := by decide +kernel
/-- An arithmetic shift fills with the sign of bit 31 (R61). -/
theorem test_sraw_fills : (after (.sraw 3 5 9) (on 5 .u [(5, 0x80000000), (9, 36)])).x 3 = 0xFFFFFFFFF8000000 := by decide +kernel
/-- The high half of -1 times 2^64 - 1, signed by unsigned, is -1 (R61). -/
theorem test_mulhsu_high : (after (.mulhsu 3 5 9) (on 5 .u [(5, 0xFFFFFFFFFFFFFFFF), (9, 0xFFFFFFFFFFFFFFFF)])).x 3 = 0xFFFFFFFFFFFFFFFF := by
  decide +kernel
/-- The quotient of the most negative number and -1 is that number, and no trap (R62). -/
theorem test_div_overflows : (after (.div 3 5 9) (on 5 .u [(5, 0x8000000000000000), (9, 0xFFFFFFFFFFFFFFFF)])).x 3 = 0x8000000000000000 := by
  decide +kernel
/-- The remainder by zero is the dividend (R62). -/
theorem test_rem_byZero : (after (.rem 3 5 9) (on 5 .u [(5, 0xFFFFFFFFFFFFFFF9)])).x 3 = 0xFFFFFFFFFFFFFFF9 := by decide +kernel
/-- x0 discards a write (R13). -/
theorem test_x0_discards : (after (.addi 0 5 1) (on 5 .u [(5, 7)])).x 0 = 0 := by decide +kernel
/-- A link register that is the base: the target is computed first (R61). -/
theorem test_jalr_link : (after (.jalr 5 5 4) (on 5 .u [(5, 0x2000)])).x 5 = 0x1004 ∧
    (after (.jalr 5 5 4) (on 5 .u [(5, 0x2000)])).sh.pc = 0x2004 := by decide +kernel
/-- A byte with its top bit set is sign-extended (R63). -/
theorem test_lb_extends : (after (.lb 3 5 1) (block (on 5 .u [(5, winw 5 0x40)]) 5 0x40 [0x8000])).x 3 = 0xFFFFFFFFFFFFFF80 := by decide +kernel
/-- A halfword is stored low byte first, and its neighbours stay (R7, R63). -/
theorem test_sh_bytes :
    let t := after (.sh 5 9 2) (block (on 5 .u [(5, winw 5 0x40), (9, 0xABCD)]) 5 0x40 [0x1111111111111111])
    t.scratchByte 5 0x42 = 0xCD ∧ t.scratchByte 5 0x43 = 0xAB ∧ t.scratchByte 5 0x44 = 0x11 ∧ t.scratchByte 5 0x41 = 0x11 := by decide +kernel
/-- 1 and 2^-24 add to 1, to nearest even, inexactly (R69). -/
theorem test_fadd_rounds :
    let t := after (.faddS 3 5 9 0) (on 5 .u [(5, 0x3F800000), (9, 0x33800000)])
    t.x 3 = 0x3F800000 ∧ t.sh.fcsr = 1 := by decide +kernel
/-- 1 divided by 0 is infinity and raises DZ (R69). -/
theorem test_fdiv_byZero :
    let t := after (.fdivS 3 5 9 0) (on 5 .u [(5, 0x3F800000)])
    t.x 3 = 0x7F800000 ∧ t.sh.fcsr = 8 := by decide +kernel
/-- An ECALL from U mode saves its pc, enters S mode and clears SIE (R67, R80). -/
theorem test_ecall_enters :
    let t := after .ecall ((on 5 .u []).updSh fun h => { h with sie := true })
    t.sh.sepc = 0x1000 ∧ t.sh.scause = 8 ∧ t.sh.mode = .s ∧ t.sh.sie = false ∧ t.sh.spie = true := by decide +kernel
/-- An element of 8 bits wraps (R158). -/
theorem test_vadd_wraps :
    SMap.get 0 (after (.vadd false 0 1 2 3) (von .i8 1 2 [(16, 0x80FF), (24, 0x8003)] [] [])).me.vregs 8 = 0x0002 := by decide +kernel
/-- Bits [25:16] of an operand name two rows, and both are cleared (R188). -/
theorem test_zero_rows :
    let x : CoreCtx := { vf := 3, qk := [{ op := 1, operand := 0x20003, issuer := 1120 }], acc := [(191, 1), (192, 1), (319, 1), (320, 1)] }
    let t := outcome (exec .zero { pkg with cores := [(70, { ctx := x })], subject := { core := 70 } })
    SMap.get 0 (t.core 70).ctx.acc 191 = 1 ∧ SMap.get 0 (t.core 70).ctx.acc 192 = 0 ∧ SMap.get 0 (t.core 70).ctx.acc 319 = 0 ∧
      SMap.get 0 (t.core 70).ctx.acc 320 = 1 := by decide +kernel
/-- The example after R157: two elements on one word. With O = 1 the old values are 10, 11, 20. -/
def twoOnOne (early : List Nat) : State :=
  { ((mapped (von .i32 1 3 [(64, 0x000000010000000100000001), (72, 0x000000040000000000000000)] [] [(10, 0x10000)]) 0x1F).write64 0x10000
      0x000000140000000A) with elems := { early := early } }
/-- The example after R157, with O = 1. -/
theorem test_vamo_inOrder :
    let t := after (.vamoAddClu true .none 8 10 9) (twoOnOne [1])
    SMap.get 0 t.me.vregs 64 = 0x000000140000000B0000000A ∧ t.read64 0x10000 = 0x000000150000000C := by decide +kernel
/-- The example after R157, with O = 0 and the second element first. -/
theorem test_vamo_otherOrder :
    let t := after (.vamoAddClu false .none 8 10 9) (twoOnOne [1])
    SMap.get 0 t.me.vregs 64 = 0x000000140000000A0000000B ∧ t.read64 0x10000 = 0x000000150000000C := by decide +kernel
/-- A load with V = 1 may take an element from a later store that is still held (R78). -/
theorem test_vld_ahead :
    let s := (block (von .i32 1 2 [] [] [(10, winw 5 0x40)]) 5 0x40 [0x0000000200000001]).updMe fun m =>
      { m with
        vrun := some { seq := 1, instr := .vld false true false 8 10, ck := m.sh, word := 0, mate := 0 }
        held := [{ after := 1, entry := { shid := 80, block := win 5 0x40 / 8, data := 0x0000000700000007, mask := 0xFF, addr := winw 5 0x40 } }] }
    SMap.get 0 (outcome (exec .vectorCompletion { s with subject := { core := 5 }, elems := { ahead := [1] } })).me.vregs 64 =
      0x0000000700000001 := by decide +kernel
/-- x5 has failed its check: a read of it raises 0xC.0.4, and a write ends it (R140). -/
def failed : State := (on 5 .u [(5, 7), (9, 8)]).updSh fun h => { h with xbad := 0x20 }
/-- A read of the word that has failed its check traps and writes no register. -/
theorem test_register_check :
    let t := outcome (failed.perform (.addi 3 5 1))
    t.sh.tcause = cause 0xC 0 4 ∧ t.sh.mode = .s ∧ t.x 3 = 0 := by decide +kernel
/-- A write of it that reads another register completes, and the word is sound. -/
theorem test_register_written :
    let t := outcome (failed.perform (.addi 5 9 1))
    t.x 5 = 9 ∧ t.sh.xbad = 0 := by decide +kernel
/-- A load that hits a Valid copy which has failed its check raises 0xC.0.4 with its address in stval (R140). -/
theorem test_core_store_check :
    let t := after (.lw 3 5 0) ((mapped (on 5 .u [(5, 0x10000)]) 0x1F).updCore 5 fun k => { k with l1 := [(0x4000, some 7)], l1bad := [0x4000] })
    t.sh.tcause = cause 0xC 0 4 ∧ t.sh.stval = 0x10000 := by decide +kernel
/-- The example after R127 at cycles 3 and 4, with A in slot 0, B Waiting in slot 1 and C in slot 5: nothing issues, then A. -/
def barrel (cycle : Word) : State :=
  { (on 5 .u []).updCore 5 (fun k => { k with ptr := 6 }) with
      cycle := cycle, arith := cycle
      slots := [(80, { shuttle .u [] with lastIssue := some 0 }), (81, { shuttle .u [] with life := .waiting, lastIssue := some 1 }),
        (85, { shuttle .u [] with lastIssue := some 2 })] }
/-- A slot rests four cycles between its issues. -/
theorem test_barrel_rests : (barrel 3).barrelSelect 5 = none ∧ (barrel 4).barrelSelect 5 = some 80 := by decide +kernel
/-- With P = 1, C issues before A where both have rested. -/
theorem test_barrel_order : ({ (barrel 6).updCore 5 (fun k => { k with ptr := 1 }) with
    slots := ((barrel 6).updSlot 80 fun m => { m with lastIssue := some 2 }).slots } : State).barrelSelect 5 = some 85 := by decide +kernel
/-- The descriptor of `axpy` as the example after R365 gives it. -/
def axpyNote : List Byte :=
  [0, 0, 0, 0, 0, 0, 0, 0, 2, 0, 0, 0, 0xE0, 0x3C, 0, 0, 0, 0, 0, 0, 2, 0, 0, 0, 1, 0, 0, 0] ++ List.replicate 36 0
/-- Its control word (R365). -/
theorem test_kernel_note : noteBad axpyNote 4 = false ∧ (Kernel.ofNote axpyNote).control 0 0 = 8 := by decide
/-- The relocated words at `pa` and the words of stub 0 of R376. -/
theorem test_relocations :
    Reloc.pcrelHi20.apply 0x300010000 0x300000004 0 0 0x317 = some 0x00010317 ∧
    Reloc.pcrelLo12I.apply 0x300010000 0x300000008 0x300000004 0 0x33303 = some 0xFFC33303 ∧
    Reloc.jal.apply 0x300030000 0x300020004 0 0 0x6F = some 0x7FD0F06F ∧
    stubWords 0 0x300020000 0x300030000 = [some 0x00000393, some 0x7FD0F06F] ∧
    resolverWords.drop 6 = [some 0xEC73000B, some 0x00038067] ∧
    resolverData 0x300030000 0x300010000 [0x300100000] = [0xFFFFFFFFFFFE0000, 0x300100000] := by decide
/-- A list that stores twice each INT32 element over itself, for element 2 of the value 5 at 0x100 (R370). -/
theorem test_obaiso :
    let ops : List ObOp := [⟨1, 4, 0, [0, 0, 0], 8⟩, ⟨3, 4, 0, [1, 0, 0], 0⟩, ⟨5, 4, 0, [1, 1, 0], 0⟩, ⟨4, 4, 0, [3, 1, 0], 0⟩]
    ops.zipIdx.all (fun o => !(obBad ops o.2 o.1)) = true ∧
    (obEval (fun p => if p = 8 then 0x100 else 0) (fun a _ => if a = 0x108 then 5 else 0) 2 ops [] []).2 = [(0x108, 32, 10)] := by decide
theorem witness_RegisterInstructionsWriteTheirResult_register :
    ∃ (s : State) (rs1 rs2 : XReg), (∃ e ∈ registerOps, e.1 7 rs1 rs2 = .add 7 rs1 rs2) ∧ (∃ e ∈ registerOps, e.1 7 rs1 rs2 = .mulw 7 rs1 rs2) :=
  ⟨on 5 .u [(5, 7), (6, 9)], 5, 6, by decide +kernel⟩

theorem witness_RegisterInstructionsWriteTheirResult_division :
    ∃ (s : State) (rs1 rs2 : XReg), (∃ e ∈ divisionOps, e.1 7 rs1 rs2 = .div 7 rs1 rs2) ∧ (∃ e ∈ divisionOps, e.1 7 rs1 rs2 = .remuw 7 rs1 rs2) :=
  ⟨on 5 .u [(5, 0x8000000000000000), (6, 0xFFFFFFFFFFFFFFFF)], 5, 6, by decide +kernel⟩

theorem witness_RegisterInstructionsWriteTheirResult_immediate :
    ∃ (s : State) (rs1 : XReg) (imm : BitVec 12), (∃ e ∈ immediateOps, e.1 7 rs1 imm = .addi 7 rs1 imm) ∧ (∃ e ∈ immediateOps, e.1 7 rs1 imm = .addiw 7 rs1 imm) :=
  ⟨on 5 .u [(5, 7)], 5, 0x800, by decide +kernel⟩

theorem witness_RegisterInstructionsWriteTheirResult_shift :
    ∃ (s : State) (rs1 : XReg) (n : BitVec 6) (m : BitVec 5), (∃ e ∈ shiftOps, e.1 7 rs1 n = .slli 7 rs1 n) ∧ (∃ e ∈ shiftOps32, e.1 7 rs1 m = .sraiw 7 rs1 m) :=
  ⟨on 5 .u [(5, 0x8000000080000001)], 5, 63, 31, by decide +kernel⟩

theorem witness_AlignedControlTransfersComplete_onward :
    ∃ (s : State) (rd : XReg) (i : Instr), i ∈ ([.lui rd 1, .addi rd 5 0xFFF, .slli rd 5 63, .slliw rd 5 31, .add rd 5 6, .div rd 5 6] : List Instr) :=
  ⟨on 5 .u [(5, 7), (6, 9)], 7, .add 7 5 6, by decide +kernel⟩

theorem witness_AlignedControlTransfersComplete_taken :
    ∃ (s : State) (rs1 rs2 : XReg) (off : BitVec 12), s.x rs1 = s.x rs2 ∧ (s.sh.pc + BitVec.ofInt 64 (off.toInt * 2)).toNat % 4 = 0 :=
  ⟨on 5 .u [(5, 7), (6, 7)], 5, 6, 0x802, by decide +kernel⟩

theorem witness_AlignedControlTransfersComplete_notTaken :
    ∃ (s : State) (rs1 rs2 : XReg), ¬ s.x rs1 = s.x rs2 :=
  ⟨on 5 .u [(5, 7), (6, 8)], 5, 6, by decide +kernel⟩

theorem witness_AlignedControlTransfersComplete_jal :
    ∃ (s : State) (off : BitVec 20), (s.sh.pc + BitVec.ofInt 64 (off.toInt * 2)).toNat % 4 = 0 :=
  ⟨on 5 .u [], 0x80000, by decide +kernel⟩

theorem witness_AlignedControlTransfersComplete_jalr :
    ∃ (s : State) (rs1 : XReg) (imm : BitVec 12), (s.x rs1 + BitVec.ofInt 64 imm.toInt).toNat / 2 % 2 = 0 :=
  ⟨on 5 .u [(5, 1)], 5, 0xFFF, by decide +kernel⟩

theorem witness_MisalignedTargetsAndCrossingAccessesTrap_branch :
    ∃ (s : State) (rs1 rs2 : XReg) (off : BitVec 12), s.VectorIdle ∧ s.sh.mode ≠ .m ∧ s.NoRecord ∧ s.x rs1 = s.x rs2 ∧ (s.sh.pc + BitVec.ofInt 64 (off.toInt * 2)).toNat % 4 ≠ 0 :=
  ⟨on 5 .u [(5, 7), (6, 7)], 5, 6, 1, by decide +kernel⟩

theorem witness_MisalignedTargetsAndCrossingAccessesTrap_jal :
    ∃ (s : State) (off : BitVec 20), s.VectorIdle ∧ s.sh.mode ≠ .m ∧ s.NoRecord ∧ (s.sh.pc + BitVec.ofInt 64 (off.toInt * 2)).toNat % 4 ≠ 0 :=
  ⟨on 5 .s [], 1, by decide +kernel⟩

theorem witness_MisalignedTargetsAndCrossingAccessesTrap_jalr :
    ∃ (s : State) (rs1 : XReg) (imm : BitVec 12), s.VectorIdle ∧ s.sh.mode ≠ .m ∧ s.NoRecord ∧ (s.x rs1 + BitVec.ofInt 64 imm.toInt).toNat / 2 % 2 ≠ 0 :=
  ⟨on 5 .u [(5, 3)], 5, 0, by decide +kernel⟩

theorem witness_MisalignedTargetsAndCrossingAccessesTrap_crossing :
    ∃ (s : State) (rs1 : XReg) (imm : BitVec 12) (a : Word), a = s.x rs1 + BitVec.ofInt 64 imm.toInt ∧ s.sh.mode ≠ .m ∧ s.VectorIdle ∧ s.NoRecord ∧ (∃ e ∈ loadOps, 8 < a.toNat % 8 + e.2.1) ∧
      (∃ e ∈ storeOps, 8 < a.toNat % 8 + e.2) :=
  ⟨on 5 .u [(5, 7)], 5, 0, 7, by decide +kernel⟩

theorem witness_WindowLoadsReadTheirBytes :
    ∃ (s : State) (rs1 : XReg) (imm : BitVec 12) (a i : Nat) (r : LogRange), a = (s.x rs1 + BitVec.ofInt 64 imm.toInt).toNat ∧ (∀ e ∈ loadOps, e.2.1 < 4 → a % 8 + e.2.1 ≤ 8) ∧ s.VectorIdle ∧ s.WindowAllows a ∧ s.WindowSettled a ∧
    SMap.get false (s.core (windowCore a)).ctx.spoison (windowOff a / 8) = false ∧
    (s.vf s.me.vf).logRanges = [(i, r)] ∧ r.base ≤ a ∧ a < r.limit :=
  ⟨(ctxOf (on 5 .u [(5, winw 6 0x3FFFC)]) 6 fun k => { k with scratch := [(0x3FFF9, 0x11), (0x3FFFB, 0x83), (0x3FFFC, 0x84), (0x3FFFD, 0xFE)] }).updVf 3 fun v => { v with logRanges := [(7, { base := win 6 0x3FFF9, limit := win 6 0x3FFFA, counts := [(0, 6)] })] }, 5, 0xFFD, win 6 0x3FFF9, 7, { base := win 6 0x3FFF9, limit := win 6 0x3FFFA, counts := [(0, 6)] }, by decide +kernel⟩

theorem witness_WindowStoresWriteTheirBytes :
    ∃ (s : State) (rs1 rs2 : XReg) (imm : BitVec 12) (a : Nat), a = (s.x rs1 + BitVec.ofInt 64 imm.toInt).toNat ∧ (∀ e ∈ storeOps, a % 8 + e.2 ≤ 8) ∧ s.VectorIdle ∧ s.WindowAllows a ∧ s.me.refused = [] ∧ s.eager = true ∧ s.WindowSettled a :=
  ⟨ctxOf (on 5 .u [(5, winw 5 0x10), (6, 0x8877665544332211)]) 5 fun k => { k with scratch := [(0x10, 0x11), (0x14, 0x83), (0x18, 0x84)], spoison := [(2, true)] }, 5, 6, 0, win 5 0x10, by decide +kernel⟩

theorem witness_EnvironmentCallsEnterTheirHandler_user :
    ∃ (s : State), s.VectorIdle ∧ s.sh.mode = .u ∧ s.NoRecord :=
  ⟨on 5 .u [], by decide +kernel⟩

theorem witness_EnvironmentCallsEnterTheirHandler_machine :
    ∃ (s : State), s.VectorIdle ∧ s.sh.mode = .m :=
  ⟨on 1 .m [], by decide +kernel⟩

theorem witness_EnvironmentCallsEnterTheirHandler_supervisor :
    ∃ (s : State), s.VectorIdle ∧ s.sh.mode = .s ∧ (∀ r ∈ s.requests, r.slot ≠ some s.focus) ∧ (∀ l ∈ s.longs, l.req.slot ≠ some s.focus) :=
  ⟨{ on 5 .s [(10, 2), (11, 4)] with requests := [{ slot := some 3, vf := 3, number := 1, args := [] }], longs := [{ req := { slot := none, vf := 3, number := 1, args := [] } }] }, by decide +kernel⟩

theorem witness_ReturnsRestoreTheSavedState_sret :
    ∃ (s : State), s.VectorIdle ∧ s.sh.mode ≠ .u :=
  ⟨(on 5 .s []).updMe fun m => { m with sh := { m.sh with sepc := 0x2000, spie := true } }, by decide +kernel⟩

theorem witness_ReturnsRestoreTheSavedState_mret :
    ∃ (s : State), s.VectorIdle ∧ s.sh.mode = .m :=
  ⟨(on 1 .m []).updMe fun m => { m with m := { m.m with mepc := 0x2002, mstatus := 0xFF80 } }, by decide +kernel⟩

theorem witness_ReturnsRestoreTheSavedState_wfi :
    ∃ (s : State), s.VectorIdle ∧ s.sh.mode ≠ .u ∧ s.pendingOn s.myCore ≠ 0 :=
  ⟨ctxOf (on 5 .s []) 5 fun k => { k with sie := 2, sip := 2 }, by decide +kernel⟩

theorem witness_ReturnsRestoreTheSavedState_user :
    ∃ (s : State), s.VectorIdle ∧ s.NoRecord ∧ s.sh.mode = .u :=
  ⟨on 5 .u [], by decide +kernel⟩

theorem witness_ReturnsRestoreTheSavedState_mretInS :
    ∃ (s : State), s.VectorIdle ∧ s.NoRecord ∧ s.sh.mode ≠ .m :=
  ⟨on 5 .s [], by decide +kernel⟩

theorem witness_WindowStoresWriteTheirBytes_left :
    ∃ (s : State) (rs1 rs2 : XReg) (imm : BitVec 12) (a : Nat), a = (s.x rs1 + BitVec.ofInt 64 imm.toInt).toNat ∧ (∀ e ∈ storeOps, e.2 = 8 ∨ a % 8 + e.2 ≤ 8) ∧ s.VectorIdle ∧ s.WindowAllows a ∧ s.me.refused = [] ∧ s.eager = false :=
  ⟨{ ctxOf (on 5 .u [(5, winw 5 0x10), (6, 0x8877665544332211)]) 5 fun k => { k with scratch := [(0x10, 0x11)] } with eager := false }, 5, 6, 0, win 5 0x10, by decide +kernel⟩

theorem witness_MachineModeAccessesMemory :
    ∃ (s : State) (rs1 r : XReg) (imm : BitVec 12) (a : Nat), a = (s.x rs1 + BitVec.ofInt 64 imm.toInt).toNat ∧ s.sh.mode = .m ∧ s.VectorIdle ∧ machineExists a = true :=
  ⟨(((on 1 .m [(5, 0x10000), (6, 0x1122334455667788)]).putByte 0x10008 0x83).putByte 0x1000B 0x91).putByte 0x1000F 0xFF, 5, 6, 8, 0x10008, by decide +kernel⟩

theorem witness_AcquireAndReleaseAccessTheWindow :
    ∃ (sc : Scope) (rs1 : XReg) (s : State) (a : Nat), a = (s.x rs1).toNat ∧ s.VectorIdle ∧ s.WindowAllows a ∧ s.WindowSettled a ∧
    SMap.get false (s.core (windowCore a)).ctx.spoison (windowOff a / 8) = false ∧ s.StoresHome ∧ s.eager = true ∧ a % 8 = 0 :=
  ⟨.clu, 5, { (ctxOf (on 5 .u [(5, winw 6 0x3FFF8), (7, 0xFEDCBA9876543210)]) 6 fun k => { k with scratch := [(0x3FFF8, 0x11), (0x3FFFB, 0x83)] }).updCore 5 fun k => { k with l1 := [(5, some 1)] } with fresh := 1 }, win 6 0x3FFF8, by decide +kernel⟩

theorem witness_AtomicsReadModifyWriteTheWindow :
    ∃ (wd : Width) (rs1 : XReg) (s : State) (a old : Nat), a = (s.x rs1).toNat ∧ s.VectorIdle ∧ s.StoresHome ∧ s.WindowAllows a ∧ s.WindowSettled a ∧ a % bytesOf wd = 0 ∧
    SMap.get false (s.core (windowCore a)).ctx.spoison (windowOff a / 8) = false ∧
    old = littleEndian (fun i => s.scratchByte (windowCore a) (windowOff a + i)) (bytesOf wd) :=
  ⟨.w, 5, ctxOf (on 5 .u [(5, winw 6 0x3FFFC), (6, 0x80000001), (7, 0xFFFFFFFF83000011)]) 6 fun k => { k with scratch := [(0x3FFF8, 0x44), (0x3FFFC, 0x11), (0x3FFFF, 0x83)] }, win 6 0x3FFFC, 0x83000011, by decide +kernel⟩
/-- A shuttle that may load from address 0x10008, where 0x83 stands. -/
def loader : State := mapped ((on 5 .u [(5, 0x10000), (6, 0x1122334455667788)]).putByte 0x10008 0x83) 0x1F

theorem witness_CheckedLoadsAndStoresComplete_load :
    ∃ (s u : State) (rs1 : XReg) (imm : BitVec 12) (a : Nat) (v : Word), s.VectorIdle ∧ s.StoresHome ∧ bitOf s.sh.tsw 2 = false ∧ a = (s.x rs1 + BitVec.ofInt 64 imm.toInt).toNat ∧ a % 8 + 8 ≤ 8 ∧
    s.load (s.who 0) s.focus a (byteMask (a % 8) 8) false (if a % 8 = 0 then none else some (cause 5 0 0)) = .ok u v ∧ u.me.early = [] :=
  ⟨loader, stateOf (loader.load (loader.who 0) loader.focus 0x10008 (byteMask 0 8) false none) loader, 5, 8, 0x10008, 0x83, by decide +kernel⟩

theorem witness_CheckedLoadsAndStoresComplete_store :
    ∃ (s u : State) (rs1 rs2 : XReg) (imm : BitVec 12) (a : Nat), s.VectorIdle ∧ s.StoresHome ∧ bitOf s.sh.tsw 2 = false ∧ a = (s.x rs1 + BitVec.ofInt 64 imm.toInt).toNat ∧ a % 8 + 2 ≤ 8 ∧ s.noRoom (s.who 0) (a / 8) (byteMask (a % 8) 2) = false ∧
    s.store (s.who 0) s.focus a (s.x rs2 <<< (8 * (a % 8))) (byteMask (a % 8) 2) (if a % 2 = 0 then none else some (cause 5 0 1)) = .ok u () ∧ u.me.early = [] :=
  ⟨loader, stateOf (loader.store (loader.who 0) loader.focus 0x1000E (loader.x 6 <<< 48) (byteMask 6 2) none) loader, 5, 6, 14, 0x1000E, by decide +kernel⟩

theorem witness_FencesCompleteAndDiscard :
    ∃ (s : State), s.VectorIdle ∧ s.StoresHome :=
  ⟨{ (on 5 .u []).updCore 5 fun k => { k with l1 := [(5, some 1)], l1apart := [5], icache := [(5, some 1)], sbuf := [{ shid := 81, block := 1, data := 0, mask := 1, addr := 8 }] } with fresh := 0 }, by decide +kernel⟩

theorem witness_FenceIsTheClusterFence :
    ∃ (s : State), s.VectorIdle :=
  ⟨{ (on 5 .u []).updCore 5 fun k => { k with l1 := [(5, some 1)] } with fresh := 0 }, by decide +kernel⟩

theorem witness_RegionInstructionsActOnTheirLines_inv :
    ∃ (sc : Scope) (rs1 rs2 : XReg) (s : State) (b n : Nat), b = (s.x rs1).toNat ∧ n = (s.x rs2).toNat ∧ s.VectorIdle ∧ s.StoresHome ∧ n ≤ 2 ^ 36 ∧ b + n ≤ 2 ^ 56 ∧ s.MayRun (.invR sc rs1 rs2) :=
  ⟨.pkg, 5, 6, { (on 5 .u [(5, 0x101FF), (6, 2)]).updCore 5 fun k => { k with l1 := [(0x403F, some 1), (0x4040, some 2), (0x4080, some 2), (0x4100, some 2)] } with fresh := 0 }, 0x101FF, 2, by decide +kernel⟩
/-- A shuttle that may read the region at 0x10000, where its core owns two words. -/
def owner : State := { mapped (on 5 .u [(5, 0x10000), (6, 0x40)]) 0x1F with home := [(3 * 2 ^ 56 + 0x4000, .registered 5 0x10000 3), (3 * 2 ^ 56 + 0x4080, .registered 5 0x10200 3)] }

theorem witness_RegionInstructionsActOnTheirLines_wb :
    ∃ (sc : Scope) (rs1 rs2 : XReg) (s u : State) (b n : Nat), b = (s.x rs1).toNat ∧ n = (s.x rs2).toNat ∧ s.VectorIdle ∧ s.StoresHome ∧ n ≤ 2 ^ 36 ∧ b + n ≤ 2 ^ 56 ∧ s.MayRun (.wbR sc rs1 rs2) ∧ s.NoPins ∧
      (if s.sh.mode = .m ∨ n = 0 then Res.ok s () else s.plbRegions (s.who 0) b
        ((List.range ((b + n - 1) / 2 ^ 26 - b / 2 ^ 26 + 1)).map fun i => b / 2 ^ 26 + i)) = .ok u () :=
  ⟨.pkg, 5, 6, owner, stateOf (owner.plbRegions (owner.who 0) 0x10000 [0]) owner, 0x10000, 0x40, by
    refine ⟨?_, ?_, ?_, ?_, ?_, ?_, ?_, ?_, ?_⟩ <;> first | exact noPins_of (by decide +kernel) | decide +kernel⟩

theorem witness_FullEmptyWordsMoveBetweenStates_full :
    ∃ (rs1 : XReg) (s : State) (a : Nat), a = (s.x rs1).toNat ∧ s.VectorIdle ∧ s.StoresHome ∧ s.WindowAllows a ∧ a % 8 = 0 ∧ s.me.wait = none ∧ s.Unlogged a ∧
      (s.core (windowCore a)).ctx.waiters = [] ∧ s.isFull (windowCore a) (windowOff a) = true ∧ s.scratchPoisoned (windowCore a) (windowOff a) = false :=
  ⟨5, ctxOf (on 5 .u [(5, winw 6 0x3FFF8), (7, 0xFEDCBA9876543210)]) 6 fun k => { k with scratch := [(0x3FFF8, 0x11)], full := [(0x7FFF, true)] }, win 6 0x3FFF8, by decide +kernel⟩

theorem witness_FullEmptyWordsMoveBetweenStates_empty :
    ∃ (rs1 : XReg) (s : State) (a : Nat), a = (s.x rs1).toNat ∧ s.VectorIdle ∧ s.StoresHome ∧ s.WindowAllows a ∧ a % 8 = 0 ∧ s.me.wait = none ∧ s.Unlogged a ∧
      (s.core (windowCore a)).ctx.waiters = [] ∧ s.isFull (windowCore a) (windowOff a) = false :=
  ⟨5, ctxOf (on 5 .u [(5, winw 5 0), (7, 0xFEDCBA9876543210)]) 5 fun k => k, win 5 0, by decide +kernel⟩

theorem witness_FullEmptyWordsMoveBetweenStates_waits :
    ∃ (rs1 : XReg) (s : State) (a : Nat) (full : Bool), a = (s.x rs1).toNat ∧ s.VectorIdle ∧ s.StoresHome ∧ s.WindowAllows a ∧ a % 8 = 0 ∧ s.me.wait = none ∧
      s.isFull (windowCore a) (windowOff a) = !full ∧ (s.core (windowCore a)).ctx.waiters.length < 32 ∧
      (∀ w ∈ (s.core (windowCore a)).ctx.waiters, w.shid ≠ s.focus) :=
  ⟨5, ctxOf (on 5 .u [(5, winw 5 8)]) 5 fun k => { k with waiters := (List.range 31).map fun n => { off := 16, shid := n, wantsFull := true } }, win 5 8, true, by decide +kernel⟩

theorem witness_FullEmptyWordsMoveBetweenStates_stfeWaits :
    ∃ (rs1 : XReg) (s : State) (a : Nat) (full : Bool), a = (s.x rs1).toNat ∧ s.VectorIdle ∧ s.StoresHome ∧ s.WindowAllows a ∧ a % 8 = 0 ∧ s.me.wait = none ∧
      s.isFull (windowCore a) (windowOff a) = !full ∧ (s.core (windowCore a)).ctx.waiters.length < 32 ∧
      (∀ w ∈ (s.core (windowCore a)).ctx.waiters, w.shid ≠ s.focus) :=
  ⟨5, ctxOf (on 5 .u [(5, winw 5 8)]) 5 fun k => { k with full := [(1, true)], waiters := (List.range 31).map fun n => { off := 16, shid := n, wantsFull := true } }, win 5 8, false, by decide +kernel⟩

theorem witness_BarriersAndRingsCount_init :
    ∃ (b : BitVec 6) (r : XReg) (s : State) (sec : Nat), sec = barrierSection s.myCore b.toNat ∧ s.Owns sec ∧ s.VectorIdle ∧ s.StoresHome ∧ s.MayRun (.barInit b r) ∧ (s.x r).toNat < 65536 :=
  ⟨63, 5, on 5 .u [(5, 0xFFFF)], 1, by decide +kernel⟩

theorem witness_BarriersAndRingsCount_arrive :
    ∃ (b : BitVec 6) (s : State) (sec : Nat) (x : Barrier), sec = barrierSection s.myCore b.toNat ∧ s.Owns sec ∧ x = (s.sec sec).barrier (b.toNat % 32) ∧ s.VectorIdle ∧ s.StoresHome ∧ x.init = true ∧
      x.cnt + 1 < x.tgt :=
  ⟨33, { on 5 .u [] with sections := [(1, { vf := 3, barriers := [(1, { tgt := 3, cnt := 1, ph := true, init := true })] })] }, 1, { tgt := 3, cnt := 1, ph := true, init := true }, by decide +kernel⟩

theorem witness_BarriersAndRingsCount_complete :
    ∃ (b : BitVec 6) (s : State) (sec : Nat) (x : Barrier), sec = barrierSection s.myCore b.toNat ∧ s.Owns sec ∧ x = (s.sec sec).barrier (b.toNat % 32) ∧ s.VectorIdle ∧ s.StoresHome ∧ x.init = true ∧
      x.cnt + 1 = x.tgt ∧ x.pend = 0 :=
  ⟨0, { on 5 .u [] with sections := [(0, { vf := 3, barriers := [(0, { tgt := 1, init := true })] })] }, 0, { tgt := 1, init := true }, by decide +kernel⟩

theorem witness_BarriersAndRingsCount_expect :
    ∃ (b : BitVec 6) (r : XReg) (s : State) (sec : Nat) (x : Barrier), sec = barrierSection s.myCore b.toNat ∧ s.Owns sec ∧ x = (s.sec sec).barrier (b.toNat % 32) ∧ s.VectorIdle ∧ s.StoresHome ∧
      s.MayRun (.barExp b r) ∧ x.init = true ∧ x.pend + (s.x r).toNat < 2 ^ 36 ∧ (x.cnt ≠ x.tgt ∨ x.pend + (s.x r).toNat ≠ 0) :=
  ⟨0, 5, { on 5 .u [(5, 0xFFFFFFFFF)] with sections := [(0, { vf := 3, barriers := [(0, { tgt := 1, init := true })] })] }, 0, { tgt := 1, init := true }, by decide +kernel⟩

theorem witness_BarriersAndRingsCount_wait :
    ∃ (b : BitVec 6) (r : XReg) (s : State) (sec : Nat) (x : Barrier), sec = barrierSection s.myCore b.toNat ∧ s.Owns sec ∧ x = (s.sec sec).barrier (b.toNat % 32) ∧ s.VectorIdle ∧ s.StoresHome ∧
      x.init = true ∧ x.ph ≠ (s.x r).getLsbD 0 :=
  ⟨0, 5, { on 5 .u [(5, 2)] with sections := [(0, { vf := 3, barriers := [(0, { tgt := 1, ph := true, init := true })] })] }, 0, { tgt := 1, ph := true, init := true }, by decide +kernel⟩

theorem witness_BarriersAndRingsCount_foreign :
    ∃ (b : BitVec 6) (s : State) (sec : Nat), sec = barrierSection s.myCore b.toNat ∧ s.VectorIdle ∧ s.StoresHome ∧ s.sh.mode ≠ .m ∧ s.NoRecord ∧ ¬ s.Owns sec :=
  ⟨32, { on 5 .u [(5, 2)] with parts := [(0, { sections := 1, vfs := [3], running := some 3 })] }, 1, by decide +kernel⟩

theorem witness_BarriersAndRingsCount_uninitialised :
    ∃ (b : BitVec 6) (s : State) (sec : Nat), sec = barrierSection s.myCore b.toNat ∧ s.VectorIdle ∧ s.StoresHome ∧ s.sh.mode ≠ .m ∧ s.NoRecord ∧ s.Owns sec ∧
      ((s.sec sec).barrier (b.toNat % 32)).init = false :=
  ⟨31, on 5 .u [(5, 2)], 0, by decide +kernel⟩

theorem witness_BarriersAndRingsCount_ringSet :
    ∃ (ch : BitVec 3) (r : XReg) (s : State) (sec : Nat) (x y : RingChannel), sec = ringSection s.myCore ch.toNat ∧ s.Owns sec ∧ x = (s.sec sec).ringCh (ch.toNat % 4) ∧ s.VectorIdle ∧ s.StoresHome ∧ s.posting s.focus = false ∧ s.eager = true ∧
      (s.x r).getLsbD 63 = true ∧ y = { x with c := (s.x r).toNat % 2 ^ 63, w := 0 } :=
  ⟨7, 5, { on 5 .u [(5, 0x8000000000000007)] with sections := [(1, { vf := 3, ring := [(3, { c := 4, w := 2 })] })] }, 1, { c := 4, w := 2 }, { c := 7 }, by decide +kernel⟩

theorem witness_BarriersAndRingsCount_ringNext :
    ∃ (ch : BitVec 3) (r : XReg) (s : State) (sec : Nat) (x y : RingChannel), sec = ringSection s.myCore ch.toNat ∧ s.Owns sec ∧ x = (s.sec sec).ringCh (ch.toNat % 4) ∧ s.VectorIdle ∧ s.StoresHome ∧ s.posting s.focus = false ∧ s.eager = true ∧
      (s.x r).getLsbD 63 = false ∧ x.w = 0 ∧ (s.x r).toNat = x.c ∧ y = { x with c := x.c + 1 } :=
  ⟨3, 5, { on 5 .u [(5, 4)] with sections := [(0, { vf := 3, ring := [(3, { c := 4 })] })] }, 0, { c := 4 }, { c := 5 }, by decide +kernel⟩

theorem witness_BarriersAndRingsCount_ringMark :
    ∃ (ch : BitVec 3) (r : XReg) (s : State) (sec : Nat) (x y : RingChannel), sec = ringSection s.myCore ch.toNat ∧ s.Owns sec ∧ x = (s.sec sec).ringCh (ch.toNat % 4) ∧ s.VectorIdle ∧ s.StoresHome ∧ s.posting s.focus = false ∧ s.eager = true ∧
      (s.x r).getLsbD 63 = false ∧ x.w.getLsbD 0 = false ∧ x.c < (s.x r).toNat ∧ (s.x r).toNat < x.c + 64 ∧
           y = { x with w := x.w ||| BitVec.ofNat 64 (2 ^ ((s.x r).toNat - x.c)) } :=
  ⟨3, 5, { on 5 .u [(5, 67)] with sections := [(0, { vf := 3, ring := [(3, { c := 4, w := 4 })] })] }, 0, { c := 4, w := 4 }, { c := 4, w := 0x8000000000000004 }, by decide +kernel⟩

theorem witness_BarriersAndRingsCount_ringBelow :
    ∃ (ch : BitVec 3) (r : XReg) (s : State) (sec : Nat) (x : RingChannel), sec = ringSection s.myCore ch.toNat ∧ s.Owns sec ∧ x = (s.sec sec).ringCh (ch.toNat % 4) ∧ s.VectorIdle ∧ s.StoresHome ∧ s.posting s.focus = false ∧
      (s.x r).getLsbD 63 = false ∧ (s.x r).toNat < x.c ∧ (s.x r).toNat % 2 ^ 63 ≤ x.c :=
  ⟨3, 5, { on 5 .u [(5, 3)] with sections := [(0, { vf := 3, ring := [(3, { c := 4, w := 4 })] })] }, 0, { c := 4, w := 4 }, by decide +kernel⟩

theorem witness_AcquireAndReleaseAccessTheWindow_left :
    ∃ (sc : Scope) (rs1 : XReg) (s : State) (a : Nat), a = (s.x rs1).toNat ∧ s.VectorIdle ∧ s.WindowAllows a ∧ s.WindowSettled a ∧ s.StoresHome ∧ s.eager = false ∧ a % 8 = 0 :=
  ⟨.clu, 5, { (ctxOf (on 5 .u [(5, winw 6 0x3FFF8), (7, 0xFEDCBA9876543210)]) 6 fun k => { k with scratch := [(0x3FFF8, 0x11), (0x3FFFB, 0x83)] }) with eager := false }, win 6 0x3FFF8, by decide +kernel⟩

theorem witness_BarriersAndRingsCount_ringLeft :
    ∃ (ch : BitVec 3) (r : XReg) (s : State) (sec : Nat) (x : RingChannel), sec = ringSection s.myCore ch.toNat ∧ s.Owns sec ∧ x = (s.sec sec).ringCh (ch.toNat % 4) ∧ s.VectorIdle ∧ s.StoresHome ∧ s.posting s.focus = false ∧ s.eager = false ∧
      ((s.x r).getLsbD 63 = true ∨ x.c ≤ (s.x r).toNat ∧ (s.x r).toNat < x.c + 64) :=
  ⟨3, 5, { on 5 .u [(5, 67)] with sections := [(0, { vf := 3, ring := [(3, { c := 4, w := 4, posts := [(7, 5)] })] })], eager := false }, 0, { c := 4, w := 4, posts := [(7, 5)] }, by decide +kernel⟩

theorem witness_ZfinxArithmeticRoundsOnce :
    ∃ (r1 r2 r3 : XReg) (rm : BitVec 3) (m : Rm) (s : State), s.sh.rmField rm = some m ∧ (∀ e ∈ singleOps, s.MayRun (e.1 0 r1 r2 rm)) ∧ s.MayRun (.fsqrtS 0 r1 rm) ∧ (∀ e ∈ fusedOps, s.MayRun (e.1 0 r1 r2 r3 rm)) :=
  ⟨5, 6, 7, 7, .rmm, (on 5 .u [(5, 0x3F800001), (6, 0xFFFFFFFFBFC00003), (7, 0x33333333)]).updSh fun sh => { sh with fcsr := 0x80 }, by decide +kernel⟩

theorem witness_ZfinxArithmeticRoundsOnce_codes :
    ∃ (b : Nat), ∀ f ∈ [fp32], b < 2 ^ f.width ∧ (f.decode b).isNan = false :=
  ⟨0xFF800000, by decide +kernel⟩

theorem witness_ZfinxComparisonsAndConversions :
    ∃ (r1 r2 : XReg) (s : State) (a b : Nat), a = singleOfRegister (s.x r1) ∧ b = singleOfRegister (s.x r2) ∧ (∀ e ∈ signOps, s.MayRun (e.1 0 r1 r2)) ∧ s.MayRun (.fminS 0 r1 r2) ∧
      s.MayRun (.fmaxS 0 r1 r2) ∧ s.MayRun (.feqS 0 r1 r2) ∧ s.MayRun (.fltS 0 r1 r2) ∧ s.MayRun (.fleS 0 r1 r2) ∧ s.MayRun (.fclassS 0 r1) :=
  ⟨5, 6, on 5 .u [(5, 0xFFFFFFFF80000000), (6, 0)], 0x80000000, 0, by decide +kernel⟩

theorem witness_ZfinxComparisonsAndConversions_convert :
    ∃ (r1 : XReg) (rm : BitVec 3) (m : Rm) (s : State), s.sh.rmField rm = some m ∧ (∀ e ∈ toIntegerOps, s.MayRun (e.1 0 r1 rm)) ∧ (∀ e ∈ fromIntegerOps, s.MayRun (e.1 0 r1 rm)) :=
  ⟨5, 0, .rne, on 5 .u [(5, 0xFFFFFFFFFF800000)], by decide +kernel⟩

theorem witness_CsrInstructionsReadAndWrite_own :
    ∃ (s : State), s.sh.mode = .s ∧ s.VectorIdle :=
  ⟨(on 5 .s [(5, 0xFFFFFFFFFFFFFFFF)]).updSh fun sh => { sh with sscratch := 5, sepc := 8, stval := 0x7FFFF }, by decide +kernel⟩

theorem witness_CsrInstructionsReadAndWrite_missing :
    ∃ (csr : BitVec 12) (s : State), s.VectorIdle ∧ s.NoRecord ∧ s.sh.mode ≠ .m ∧ csrExists csr.toNat = false :=
  ⟨0x7C0, on 5 .s [], by decide +kernel⟩

theorem witness_CsrInstructionsReadAndWrite_user :
    ∃ (csr : BitVec 12) (s : State), s.VectorIdle ∧ s.NoRecord ∧ s.sh.mode ≠ .m ∧ s.sh.mode = .u ∧ csr ∈ [0x100, 0x104, 0x105, 0x106, 0x140, 0x141, 0x142, 0x143, 0x144] :=
  ⟨0x105, on 5 .u [], by decide +kernel⟩

theorem witness_CsrInstructionsReadAndWrite_readOnly :
    ∃ (csr : BitVec 12) (s : State), s.VectorIdle ∧ s.NoRecord ∧ s.sh.mode ≠ .m ∧ csr ∈ [0x800, 0x801, 0x802, 0x803, 0x806, 0x808, 0x809] :=
  ⟨0x800, on 5 .s [], by decide +kernel⟩

theorem witness_StvecFieldsAndEntry_write :
    ∃ (rs1 : XReg) (s : State), s.sh.mode = .s ∧ s.VectorIdle :=
  ⟨5, on 5 .s [(5, 0xFFFFFFFFFFFFFFFE)], by decide +kernel⟩

theorem witness_StvecFieldsAndEntry_entry :
    ∃ (s : State) (k : Nat) (scause : Word) (interrupt : Bool) (n : Nat), (s.slot k).sh.mode ≠ .m ∧ bitOf (s.vfRegs (s.slot k).vf (k / 16)).trec 0 = false ∧ n < 32 ∧
    bitsOf (s.vfRegs (s.slot k).vf (k / 16)).stvec 1 0 < 2 ∧ (interrupt = true → scause = BitVec.ofNat 64 (2 ^ 63 + n)) :=
  ⟨(on 5 .s []).updVf 3 fun v => { v with regs := { stvec := 0xFFFFFFFFFFFFFF01 } }, 80, 0x800000000000001F, true, 31, by decide +kernel⟩

theorem witness_DecodeGateMasksOrMigrates_masked :
    ∃ (i : Instr) (s : State), s.masked s.me.vf s.sh.mode i = true ∧ s.VectorIdle ∧ s.NoRecord ∧ s.me.wait = none :=
  ⟨.vadd true 0 1 2 3, (on 5 .u []).updVf 3 fun v => { v with feature := 0xFFFFFFFF }, by decide +kernel⟩

theorem witness_DecodeGateMasksOrMigrates_migrates :
    ∃ (i : Instr) (s : State), i ≠ .mret ∧ implements (classOf s.myCore) i = false ∧ s.masked s.me.vf s.sh.mode i = false ∧ implementsWord (classOf s.myCore) s.me.word = false ∧
      s.VectorIdle ∧ s.sh.mode ≠ .m ∧ s.me.wait = none ∧ s.eager = false ∧ s.eligible (s.partOfVf s.me.vf) (classesFor s.me.word 0) ≠ [] :=
  ⟨.mstat 5, { on 5 .u [] with slots := [(80, { shuttle .u [] with word := (encode true (.mstat 5)).getD 0 })], eager := false, parts := [(0, { sections := 1, vfs := [3], running := some 3 })] }, by decide +kernel⟩

theorem witness_ShuttlesPaceAndMove_yield :
    ∃ (s : State), s.me.mixOrder = none :=
  ⟨on 5 .u [], by decide +kernel⟩

theorem witness_ShuttlesPaceAndMove_cwait :
    ∃ (s : State) (ld st cp tl : BitVec 5), s.NoDeferred (fun _ => true) ∧ s.me.early = [] ∧ (ld = 31 ∨ s.me.ld ≤ ld.toNat) ∧ (st = 31 ∨ s.stOf s.focus ≤ st.toNat) ∧ (cp = 31 ∨ s.me.cp ≤ cp.toNat) ∧
          (tl = 31 ∨ s.me.tl ≤ tl.toNat) :=
  ⟨(on 5 .u []).updMe fun m => { m with cp := 30, tl := 255 }, 0, 0, 30, 31, by decide +kernel⟩

theorem witness_ShuttlesPaceAndMove_cwaitWaits :
    ∃ (s : State) (ld st cp tl : BitVec 5), s.NoDeferred (fun _ => true) ∧ s.me.early = [] ∧ ¬ (cp = 31 ∨ s.me.cp ≤ cp.toNat) :=
  ⟨(on 5 .u []).updMe fun m => { m with cp := 31 }, 0, 0, 30, 31, by decide +kernel⟩

theorem witness_ShuttlesPaceAndMove_home :
    ∃ (rs1 : XReg) (s : State) (n : Nat), s.sh.mode ≠ .m ∧ s.VectorIdle ∧ s.inPart (s.partOfVf s.me.vf) n = true ∧ n < 4096 ∧ n % 256 < 192 ∧ s.inColumn n = false ∧ s.isFenced n = false ∧
      (s.x rs1).toNat = n ∧ n = s.myCore :=
  ⟨5, on 5 .u [(5, 5)], 5, by decide +kernel⟩

theorem witness_ShuttlesPaceAndMove_away :
    ∃ (rs1 : XReg) (s : State) (n : Nat), s.sh.mode ≠ .m ∧ s.VectorIdle ∧ s.inPart (s.partOfVf s.me.vf) n = true ∧ n < 4096 ∧ n % 256 < 192 ∧ s.inColumn n = false ∧ s.isFenced n = false ∧
      s.WindowAllows (s.x rs1).toNat ∧ windowCore (s.x rs1).toNat = n ∧ n ≠ s.myCore ∧ s.eager = false :=
  ⟨5, { ctxOf (on 5 .u [(5, winw 4031 0xFFFF)]) 4031 fun k => k with eager := false }, 4031, by decide +kernel⟩

theorem witness_ShuttlesStartAndExit_refused :
    ∃ (rs1 rs2 : XReg) (s : State) (code : Nat), s.MayRun (.shstart 0 rs1 rs2) ∧ s.me.wait = none ∧ s.VectorIdle ∧ s.StoresHome ∧ s.BlockReadable (s.x rs1).toNat ∧
    s.startCheck (s.partOfVf s.me.vf) s.myCore (s.windowBlock (s.x rs1).toNat) (s.x rs2) (s.sh.mode == .u) = .inl code :=
  ⟨5, 6, block (on 5 .u [(5, winw 5 0x40), (6, 0x1001)]) 5 0x40 [0x2002], 5, by decide +kernel⟩

theorem witness_ShuttlesStartAndExit_started :
    ∃ (rs1 rs2 : XReg) (s : State) (d : List Word) (core k : Nat), s.MayRun (.shstart 0 rs1 rs2) ∧ s.me.wait = none ∧ s.VectorIdle ∧ s.StoresHome ∧ s.BlockReadable (s.x rs1).toNat ∧
    d = s.windowBlock (s.x rs1).toNat ∧ s.startCheck (s.partOfVf s.me.vf) s.myCore d (s.x rs2) (s.sh.mode == .u) = .inr core ∧ s.eager = true ∧
        s.isFenced core = false ∧ s.queued = [] ∧ (∀ f ∈ s.frames, f.dst ≠ core) ∧ s.starts = [] ∧ s.freeSlot core = some k ∧ core * 16 + k ≠ s.focus ∧ bitsOf (d.getD 3 0) 14 4 = 0 :=
  ⟨5, 6, block (on 5 .u [(5, winw 5 0x40), (6, 5)]) 5 0x40 [0x2000, 7, 8], [0x2000, 7, 8, 0, 0, 0, 0, 0], 5, 1, by decide +kernel⟩

theorem witness_ShuttlesStartAndExit_exiting :
    ∃ (s : State), s.eager = false ∧ s.VectorIdle ∧ s.NoDeferred (fun _ => true) ∧ s.me.task.successors = [] ∧ s.me.task.completion = 0 :=
  ⟨{ on 5 .u [] with eager := false }, by decide +kernel⟩

theorem witness_ShuttlesStartAndExit_released :
    ∃ (s : State) (m : Slot), s.eager = false ∧ m = s.slot s.subjectSlot ∧ m.life = .exiting ∧ m.wait = none ∧ m.deferred = [] ∧ m.refused = [] ∧ m.vq = [] ∧ m.vrun = none ∧
        m.held = [] ∧ m.tl = 0 ∧ m.cp = 0 ∧ m.task = ({} : TaskInfo) ∧ m.mixOrder = none ∧ (∀ e ∈ (s.core (s.subjectSlot / 16)).sbuf, e.shid ≠ s.subjectSlot) :=
  ⟨{ on 5 .u [] with eager := false, slots := [(80, { shuttle .u [] with life := .exiting })], subject := { core := 5 } }, { shuttle .u [] with life := .exiting }, by decide +kernel⟩

theorem witness_TierHintsAreRemembered_empty :
    ∃ (rs1 rs2 : XReg) (s : State) (a n : Nat), a = (s.x rs1).toNat ∧ n = (s.x rs2).toNat ∧ s.VectorIdle ∧ s.MayRun (.tierHintHot rs1 rs2) ∧ s.MayRun (.tierHintCold rs1 rs2) ∧
    n ≤ 2 ^ 40 ∧ a + n ≤ 2 ^ 56 ∧ bitsOf (s.x rs1) 55 49 ≠ 0x7F ∧ n = 0 :=
  ⟨5, 6, on 5 .u [(5, 0x10000), (6, 0)], 0x10000, 0, by decide +kernel⟩
/-- A shuttle that may read the region whose pages it hints. -/
def hinter : State := mapped (on 5 .u [(5, 0x10000), (6, 0x10000)]) 0x1F

theorem witness_TierHintsAreRemembered_region :
    ∃ (rs1 rs2 : XReg) (s u : State) (a n : Nat), a = (s.x rs1).toNat ∧ n = (s.x rs2).toNat ∧ s.VectorIdle ∧ s.MayRun (.tierHintHot rs1 rs2) ∧ s.MayRun (.tierHintCold rs1 rs2) ∧
    n ≤ 2 ^ 40 ∧ a + n ≤ 2 ^ 56 ∧ bitsOf (s.x rs1) 55 49 ≠ 0x7F ∧ 0 < n ∧ s.sh.mode ≠ .m ∧ ((s.vf s.me.vf).hints).length < 4096 ∧
        s.plbRegions (s.who 0) a ((List.range ((a + n - 1) / 2 ^ 26 - a / 2 ^ 26 + 1)).map fun i => a / 2 ^ 26 + i) = .ok u () :=
  ⟨5, 6, hinter, stateOf (hinter.plbRegions (hinter.who 0) 0x10000 [0]) hinter, 0x10000, 0x10000, by decide +kernel⟩

theorem witness_TierHintsAreRemembered_traps :
    ∃ (rs1 rs2 : XReg) (s : State) (a n : Nat), a = (s.x rs1).toNat ∧ n = (s.x rs2).toNat ∧ s.VectorIdle ∧ s.MayRun (.tierHintHot rs1 rs2) ∧ s.MayRun (.tierHintCold rs1 rs2) ∧
    s.sh.mode ≠ .m ∧ s.NoRecord ∧ (2 ^ 40 < n ∨ 2 ^ 56 < a + n ∨ bitsOf (s.x rs1) 55 49 = 0x7F) :=
  ⟨5, 6, on 5 .u [(5, 0), (6, 0x10000000001)], 0, 0x10000000001, by decide +kernel⟩

theorem witness_CopiesJoinTheirChannel_linear :
    ∃ (ch : BitVec 4) (rs1 : XReg) (s : State) (sec cn : Nat) (d : List Word), (sec, cn) = channelOf s.myCore ch.toNat ∧ s.Owns sec ∧ s.NoDeferred (fun x => x.queue == ch.toNat) ∧ s.VectorIdle ∧
      s.BlockReadable (s.x rs1).toNat ∧ d = s.windowBlock (s.x rs1).toNat ∧ s.me.cp < 255 ∧ ((s.sec sec).chan cn).ops.length < 16 ∧
      s.MayRun (.cpy ch rs1 0) ∧ s.copyBad .lin d = false :=
  ⟨15, 5, block (on 5 .u [(5, winw 5 0x40)]) 5 0x40 [0x10000, 0x20000, 0xFFFFFFFFF], 1, 7, [0x10000, 0x20000, 0xFFFFFFFFF, 0, 0, 0, 0, 0], by decide +kernel⟩

theorem witness_CopiesJoinTheirChannel_rectangle :
    ∃ (ch : BitVec 4) (rs1 : XReg) (s : State) (sec cn : Nat) (d : List Word), (sec, cn) = channelOf s.myCore ch.toNat ∧ s.Owns sec ∧ s.NoDeferred (fun x => x.queue == ch.toNat) ∧ s.VectorIdle ∧
      s.BlockReadable (s.x rs1).toNat ∧ d = s.windowBlock (s.x rs1).toNat ∧ s.me.cp < 255 ∧ ((s.sec sec).chan cn).ops.length < 16 ∧
      s.MayRun (.cpy2d ch rs1 0) ∧ s.copyBad .rect d = false :=
  ⟨0, 5, block (on 5 .u [(5, winw 5 0x40)]) 5 0x40 [0x10000, 0x20000, 0x200000010, 0x100, 0x200], 0, 0, [0x10000, 0x20000, 0x200000010, 0x100, 0x200, 0, 0, 0], by decide +kernel⟩

theorem witness_CopiesJoinTheirChannel_bsram :
    ∃ (ch : BitVec 4) (rs1 : XReg) (s : State) (sec cn : Nat) (d : List Word), (sec, cn) = channelOf s.myCore ch.toNat ∧ s.Owns sec ∧ s.NoDeferred (fun x => x.queue == ch.toNat) ∧ s.VectorIdle ∧
      s.BlockReadable (s.x rs1).toNat ∧ d = s.windowBlock (s.x rs1).toNat ∧ s.me.cp < 255 ∧ ((s.sec sec).chan cn).ops.length < 16 ∧
      s.MayRun (.cpyB ch rs1 0) ∧ s.copyBad .bsram d = false :=
  ⟨8, 5, block (on 5 .u [(5, winw 5 0x40)]) 5 0x40 [0x10000, 64, 0x10000000006], 1, 0, [0x10000, 64, 0x10000000006, 0, 0, 0, 0, 0], by decide +kernel⟩

theorem witness_CopiesJoinTheirChannel_fenceEmpty :
    ∃ (rs1 : XReg) (s : State) (m : Word), m = s.x rs1 ∧ s.VectorIdle ∧ s.StoresHome ∧ s.NoDeferred (fun d => d.queue == 17 || bitOf m d.queue) ∧ m = 0 :=
  ⟨5, on 5 .u [], 0, by decide +kernel⟩

theorem witness_CopiesJoinTheirChannel_fence :
    ∃ (rs1 : XReg) (s : State) (m : Word), m = s.x rs1 ∧ s.VectorIdle ∧ s.StoresHome ∧ s.NoDeferred (fun d => d.queue == 17 || bitOf m d.queue) ∧ m ≠ 0 ∧ bitsOf m 63 18 = 0 ∧
      (bitOf m 17 = true → classOf s.myCore = .matrix ∧ s.qkCount s.myCore < 8) ∧ (bitOf m 16 = true → (s.vf s.me.vf).collCount < 256) ∧
      (∀ c ∈ maskChannels s.myCore m, s.Owns c.1 ∧ ((s.sec c.1).chan c.2).ops.length < 16) :=
  ⟨5, on 64 .u [(5, 0x3FFFF)], 0x3FFFF, by decide +kernel⟩

theorem witness_CopiesJoinTheirChannel_fenceBad :
    ∃ (rs1 : XReg) (s : State) (m : Word), m = s.x rs1 ∧ s.VectorIdle ∧ s.StoresHome ∧ s.NoDeferred (fun d => d.queue == 17 || bitOf m d.queue) ∧ s.sh.mode ≠ .m ∧ s.NoRecord ∧ bitsOf m 63 18 ≠ 0 :=
  ⟨5, on 5 .u [(5, 0x40000)], 0x40000, by decide +kernel⟩

theorem witness_QueueCommandsReachTheirCore_push :
    ∃ (rd rs1 rs2 : XReg) (s : State) (c : Nat), s.MayRun (.qpushQk rd rs1 rs2) ∧ s.NoDeferred (fun d => d.queue == 17) ∧ s.VectorIdle ∧ s.eager = true ∧
      s.targets (s.partOfVf s.me.vf) s.myCore 0 s.me.masks (s.x rs1) = .inl [c] ∧ s.commandBad c (s.x rs2) (s.x rd) = false ∧
      s.isFenced c = false ∧ s.me.tl < 255 ∧ s.qkCount c < 8 :=
  ⟨7, 5, 6, on 5 .u [(5, 64), (6, 3), (7, 0x3F)], 64, by decide +kernel⟩

theorem witness_QueueCommandsReachTheirCore_stat :
    ∃ (rs1 : XReg) (s : State) (c : Nat), s.coreTarget (s.partOfVf s.me.vf) s.myCore (s.x rs1).toNat none = .inl c ∧ s.MayRun (.qstatQa 0 rs1) ∧ s.MayRun (.qstatQk 0 rs1) ∧ s.MayRun (.qstatQd 0 rs1) :=
  ⟨5, on 5 .u [(5, 64)], 64, by decide +kernel⟩

theorem witness_CollectivePostsAndTests_post :
    ∃ (rs1 : XReg) (s : State) (d : List Word) (k : Nat) (ended : Option (Nat × Nat × Nat × Nat)), s.VectorIdle ∧ s.BlockReadable (s.x rs1).toNat ∧ d = s.windowBlock (s.x rs1).toNat ∧ k < 256 ∧ ((s.vf s.me.vf).entry k).held = false ∧
      (∀ j < k, ((s.vf s.me.vf).entry j).held = true) ∧ s.MayRun (.collPostSys 0 rs1) ∧ (s.vf s.me.vf).collBad d true = false ∧
      ended = (s.vf s.me.vf).collEnds.find? fun y => y.1 == collGroup d && y.2.1 == SMap.get 0 (s.vf s.me.vf).collPosts (collGroup d) :=
  ⟨5, (block (on 5 .u [(5, winw 5 0x40)]) 5 0x40 [0x401, 0x10000, 0x20000, 8]).updVf 3 fun v => { v with groups := [(0, { ranks := [(7, 3), (8, 4)] })], coll := [(0, { held := true })] }, [0x401, 0x10000, 0x20000, 8, 0, 0, 0, 0], 1, none, by decide +kernel⟩

theorem witness_CollectivePostsAndTests_postEnded :
    ∃ (rs1 : XReg) (s : State) (d : List Word) (k : Nat) (ended : Option (Nat × Nat × Nat × Nat)), s.VectorIdle ∧ s.BlockReadable (s.x rs1).toNat ∧ d = s.windowBlock (s.x rs1).toNat ∧ k < 256 ∧ ((s.vf s.me.vf).entry k).held = false ∧
      (∀ j < k, ((s.vf s.me.vf).entry j).held = true) ∧ s.MayRun (.collPostSys 0 rs1) ∧ (s.vf s.me.vf).collBad d true = false ∧ ended ≠ none ∧
      ended = (s.vf s.me.vf).collEnds.find? fun y => y.1 == collGroup d && y.2.1 == SMap.get 0 (s.vf s.me.vf).collPosts (collGroup d) :=
  ⟨5, (block (on 5 .u [(5, winw 5 0x40)]) 5 0x40 [0x401, 0x10000, 0x20000, 8]).updVf 3 fun v => { v with collEnds := [(0, 5, 2, 8)], collPosts := [(0, 5)], groups := [(0, { ranks := [(7, 3), (8, 4)] })], coll := [(0, { held := true })] }, [0x401, 0x10000, 0x20000, 8, 0, 0, 0, 0], 1, some (0, 5, 2, 8), by decide +kernel⟩

theorem witness_CollectivePostsAndTests_pending :
    ∃ (rs1 : XReg) (s : State) (k : Nat) (e : CollEntry), k = bitsOf (s.x rs1) 7 0 ∧ e = (s.vf s.me.vf).entry k ∧ s.VectorIdle ∧ s.MayRun (.collTest 0 rs1) ∧
      bitsOf (s.x rs1) 63 24 = 0 ∧ e.held = true ∧ (e.posts - 1) % 65536 = bitsOf (s.x rs1) 23 8 ∧ e.cause = none ∧ e.state = 0 :=
  ⟨5, (on 5 .u [(5, 0xFF)]).updVf 3 fun v => { v with coll := [(255, { held := true, posts := 1, peer := 3 })] }, 255, { held := true, posts := 1, peer := 3 }, by decide +kernel⟩

theorem witness_CollectivePostsAndTests_ended :
    ∃ (rs1 : XReg) (s : State) (k : Nat) (e : CollEntry), k = bitsOf (s.x rs1) 7 0 ∧ e = (s.vf s.me.vf).entry k ∧ s.VectorIdle ∧ s.MayRun (.collTest 0 rs1) ∧
      bitsOf (s.x rs1) 63 24 = 0 ∧ e.held = true ∧ (e.posts - 1) % 65536 = bitsOf (s.x rs1) 23 8 ∧ e.cause = none ∧ e.state ≠ 0 ∧ e.state < 16 :=
  ⟨5, (on 5 .u [(5, 0x100)]).updVf 3 fun v => { v with coll := [(0, { held := true, posts := 2, state := 15, peer := 0x1FFFF })] }, 0, { held := true, posts := 2, state := 15, peer := 0x1FFFF }, by decide +kernel⟩

theorem witness_CollectivePostsAndTests_bad :
    ∃ (rs1 : XReg) (s : State), s.VectorIdle ∧ s.MayRun (.collTest 0 rs1) ∧ s.sh.mode ≠ .m ∧ s.NoRecord ∧
      (bitsOf (s.x rs1) 63 24 ≠ 0 ∨ ((s.vf s.me.vf).entry (bitsOf (s.x rs1) 7 0)).held = false ∨
        (((s.vf s.me.vf).entry (bitsOf (s.x rs1) 7 0)).posts - 1) % 65536 ≠ bitsOf (s.x rs1) 23 8) :=
  ⟨5, on 5 .u [(5, 0x1000000)], by decide +kernel⟩
/-- A shuttle on a matrix core whose slot 7 is configured for 8-bit integers, one chunk. -/
def grid (xs : SMap Word) : State := ctxOf (on 64 .u xs) 64 fun k => { k with cfg := [(7, { configured := true, pair := .i8i8, w0 := 1 })] }

theorem witness_MatrixInstructionsAppendCommands_append :
    ∃ (fp : FormatPair) (tag : BitVec 3) (r1 r2 : XReg) (s : State), s.VectorIdle ∧ (s.core s.myCore).ctx.mstat.qkp = false ∧ (s.core s.myCore).ctx.mstat.ut = false ∧ (s.core s.myCore).ctx.mstat.be = false ∧
    s.me.tl < 255 ∧ s.qkCount s.myCore < 8 ∧ s.me.wait = none ∧ s.MayRun (.mdrain tag r1) ∧ s.MayRun (.mrun fp tag r1) ∧ s.MayRun (.mzero r1 r2) ∧
    (drainCheck ((s.core s.myCore).ctx.slotCfg tag.toNat) (s.x r1) = none ∨ armCheck ((s.core s.myCore).ctx.slotCfg tag.toNat) (some fp) (s.x r1).toNat = none) :=
  ⟨.i8i8, 7, 5, 6, grid [(5, 0x10000), (6, 0x10000)], by decide +kernel⟩

theorem witness_MatrixInstructionsAppendCommands_configure :
    ∃ (fp : FormatPair) (tag : BitVec 3) (r1 r2 : XReg) (s : State), s.VectorIdle ∧ (s.core s.myCore).ctx.mstat.qkp = false ∧ (s.core s.myCore).ctx.mstat.ut = false ∧ (s.core s.myCore).ctx.mstat.be = false ∧
    s.MayRun (.mcfg fp tag r1 r2) ∧ ((s.core s.myCore).ctx.slotCfg tag.toNat).armed = false ∧ s.qkNames s.myCore tag.toNat = false ∧
      s.mcfgCheck fp (s.x r1) (s.x r2) = none :=
  ⟨.i8i8, 7, 5, 6, grid [(5, 0x100), (6, 4)], by decide +kernel⟩

theorem witness_MatrixInstructionsAppendCommands_copy :
    ∃ (r1 r2 : XReg) (s : State), s.VectorIdle ∧ (s.core s.myCore).ctx.mstat.qkp = false ∧ (s.core s.myCore).ctx.mstat.ut = false ∧ (s.core s.myCore).ctx.mstat.be = false ∧
    s.me.tl < 255 ∧ s.qkCount s.myCore < 8 ∧ s.me.wait = none ∧ s.MayRun (.mcpyIn r1 r2) ∧ s.MayRun (.mcpyOut r1 r2) ∧ (s.x r1).toNat % 256 = 0 ∧
      bitsOf (s.x r2) 63 26 = 0 ∧ bitsOf (s.x r2) 15 9 = 0 ∧ bitsOf (s.x r2) 25 16 ≠ 0 ∧ bitsOf (s.x r2) 8 0 + bitsOf (s.x r2) 25 16 ≤ 512 :=
  ⟨5, 6, grid [(5, 0x10000), (6, 0x2000000)], by decide +kernel⟩

theorem witness_MatrixInstructionsAppendCommands_status :
    ∃ (s : State), s.VectorIdle ∧ s.MayRun (.mstat 5) :=
  ⟨grid [], by decide +kernel⟩

theorem witness_SystemRegisterSteps_system :
    ∃ (s : State) (v : Word) (n c m : Nat), v = s.subject.value ∧ n = s.subject.item % 8 ∧ c = s.myCore ∧ m = s.me.vf ∧ s.VectorIdle ∧ s.sh.mode ≠ .u :=
  ⟨{ (on 5 .s []).updSh fun sh => { sh with hops := 3 } with subject := { value := 0xFFFFFFFF00FFFFFF, item := 7 } }, 0xFFFFFFFF00FFFFFF, 7, 5, 3, by decide +kernel⟩

theorem witness_SystemRegisterSteps_accepted :
    ∃ (s : State) (v : Word), v = s.subject.value ∧ s.VectorIdle ∧ s.sh.mode ≠ .u ∧ s.tswBad v = false ∧ vptrsBad 0x2C1E0D08 = false :=
  ⟨{ on 5 .s [] with subject := { value := 0x00000E06 } }, 0xE06, by decide +kernel⟩

theorem witness_SystemRegisterSteps_any :
    ∃ (s : State) (v : Word) (n c m : Nat), v = s.subject.value ∧ n = s.subject.item % 8 ∧ c = s.myCore ∧ m = s.me.vf ∧ s.VectorIdle ∧ s.Owns (channelOf c (s.subject.item % 16)).1 ∧ s.NoDeferred (fun d => d.queue == s.subject.item % 16) :=
  ⟨{ on 5 .u [] with subject := { value := 0xE3, flag := true, rd := 15, item := 15 } }, 0xE3, 7, 5, 3, by decide +kernel⟩

theorem witness_CollectivePostsAndTests_cause :
    ∃ (rs1 : XReg) (s : State) (k : Nat) (e : CollEntry) (c : BitVec 10) (tv : Word), k = bitsOf (s.x rs1) 7 0 ∧ e = (s.vf s.me.vf).entry k ∧ s.VectorIdle ∧ s.MayRun (.collTest 0 rs1) ∧ s.sh.mode ≠ .m ∧ s.NoRecord ∧
      bitsOf (s.x rs1) 63 24 = 0 ∧ e.held = true ∧ (e.posts - 1) % 65536 = bitsOf (s.x rs1) 23 8 ∧ e.cause = some (c, tv) :=
  ⟨5, (on 5 .u [(5, 0x100)]).updVf 3 fun v => { v with coll := [(0, { held := true, posts := 2, cause := some (cause 4 5 0, 0x10000) })] }, 0, { held := true, posts := 2, cause := some (cause 4 5 0, 0x10000) }, cause 4 5 0, 0x10000, by decide +kernel⟩

theorem witness_MatrixInstructionsAppendCommands_held :
    ∃ (fp : FormatPair) (tag : BitVec 3) (r1 r2 : XReg) (s : State) (m : MStat), s.VectorIdle ∧ s.sh.mode ≠ .m ∧ s.NoRecord ∧ s.me.wait = none ∧ m = (s.core s.myCore).ctx.mstat ∧ (m.qkp = true ∨ m.ut = true ∨ m.be = true) ∧
    (∀ i ∈ [Instr.mcfg fp tag r1 r2, .mrun fp tag r1, .mzero r1 r2, .mdrain tag r1, .mcpyIn r1 r2, .mcpyOut r1 r2], s.MayRun i) :=
  ⟨.i8i8, 7, 5, 6, ctxOf (on 64 .u [(5, 0x10000), (6, 0x10000)]) 64 fun k => { k with mstat := { qkp := true, ut := true, be := true } }, { qkp := true, ut := true, be := true }, by decide +kernel⟩

theorem witness_MatrixInstructionsAppendCommands_zeroOfNone :
    ∃ (r1 r2 : XReg) (s : State), s.VectorIdle ∧ (s.core s.myCore).ctx.mstat.qkp = false ∧ (s.core s.myCore).ctx.mstat.ut = false ∧ (s.core s.myCore).ctx.mstat.be = false ∧
    s.MayRun (.mzero r1 r2) ∧ s.x r2 = 0 ∧ zeroCheck (s.x r1).toNat (s.x r2).toNat = none :=
  ⟨5, 6, grid [(5, 0x1FF)], by decide +kernel⟩

theorem witness_VectorConfigurationInstructions_vsetl :
    ∃ (rs1 : XReg) (rows : BitVec 4) (e : EType) (s : State), s.MayRun (.vsetl 0 rs1 rows e) :=
  ⟨5, 8, .i8, on 5 .u [(5, 0xFFFFFFFFFFFFFFFF)], by decide +kernel⟩

theorem witness_VectorConfigurationInstructions_vdepth :
    ∃ (s : State), s.MayRun (.vdepth 0 0) ∧ s.VectorIdle ∧ s.me.wait = none ∧ s.eager = true ∧ s.NoPins ∧ 1 ≤ s.sh.vdepth.toNat ∧
      s.sh.vlr.toNat ≤ s.sh.vdepth.toNat ∧ s.sh.vdepth.toNat ≤ 8 :=
  ⟨von .i8 8 128 [] [] [], by
    refine ⟨?_, ?_, ?_, ?_, ?_, ?_, ?_, ?_⟩ <;> first | exact noPins_of (by decide +kernel) | decide +kernel⟩

theorem witness_VectorConfigurationInstructions_vstrip :
    ∃ (rs1 : XReg) (e : EType) (s : State) (m d C r c : Nat), s.MayRun (.vstrip 0 rs1) ∧ s.VectorIdle ∧ s.sh.vtype = some e ∧ m = (s.x rs1).toNat ∧ d = s.sh.vdepth.toNat ∧ C = e.cols ∧
        (d * C ≤ m ∧ r = d ∧ c = C ∨ m < d * C ∧ C ≤ m ∧ r = m / C ∧ c = C ∨ m < d * C ∧ m < C ∧ 0 < m ∧ r = 1 ∧ c = m ∨
          m < d * C ∧ m < C ∧ m = 0 ∧ r = 0 ∧ c = 0) :=
  ⟨5, .i8, (von .i8 8 128 [] [] [(5, 0x8000000000000000), (6, 0xFFFFFFFFFFFFFFFF)]).updSh fun sh => { sh with vptrs := 0x06161626 }, 0x8000000000000000, 8, 128, 8, 128, by decide +kernel⟩

theorem witness_VectorRegisterInstructionsComplete :
    ∃ (i : Instr) (s : State), (vaEff i).isSome = true ∧ s.VectorReady i :=
  ⟨.vadd false 0 1 2 3, von .i8 8 128 [] [] [], by decide +kernel⟩

theorem witness_VectorElementsAreExact_same :
    ∃ (x : Bool) (vm : MReg) (vd vs1 vs2 : VReg) (e : EType) (s : State), s.VectorType e ∧ (e = .i4 ∨ e = .i2 ∨ ∀ op ∈ vectorOps, s.VectorReady (op.1 x vm vd vs1 vs2)) :=
  ⟨true, 2, 1, 2, 3, .i8, (von .i8 8 128 [(8, 1), (16, 0x80), (24, 0xFF), (31, 7)] [(2, 1)] []).updSh fun sh => { sh with vresume := 1 }, by decide +kernel⟩

theorem witness_VectorMasksMovesAndSums_compare :
    ∃ (vm md : MReg) (vd vs1 vs2 : VReg) (e : EType) (s : State), s.VectorType e ∧ (s.VectorReady (.vcmp .eq vm md vs1 vs2) ∨ e = .i2) ∧ s.VectorReady (.vmlog .and md 2 3) ∧ s.VectorReady (.vpopc 0 2) ∧ s.VectorReady (.vfirst 0 2) :=
  ⟨2, 3, 1, 2, 3, .i8, (von .i8 8 128 [(16, 1), (24, 0x80)] [(2, 3), (3, 1)] []).updSh fun sh => { sh with vresume := 1 }, by decide +kernel⟩

theorem witness_VectorMasksMovesAndSums_move :
    ∃ (vm : MReg) (vd vs1 vs2 : VReg) (rs : XReg) (e : EType) (s : State), s.VectorType e ∧ s.VectorReady (.vbcast vm vd rs) ∧ s.VectorReady (.vslup vm vd vs1 rs) ∧ s.VectorReady (.vsldn vm vd vs1 rs) ∧ s.VectorReady (.vmvxs 0 vs1) :=
  ⟨2, 1, 2, 3, 5, .i8, (von .i8 8 128 [(16, 1), (24, 0x80)] [(2, 3), (3, 1)] [(5, 1024)]).updSh fun sh => { sh with vresume := 1 }, by decide +kernel⟩

theorem witness_VectorMasksMovesAndSums_sum :
    ∃ (vm : MReg) (vd vs1 vs2 : VReg) (e : EType) (s : State), s.VectorType e ∧ s.VectorReady (.vredsum vm vd vs1 vs2) ∧ s.VectorReady (.vredmax vm vd vs1 vs2) ∧ s.VectorReady (.vredmin vm vd vs1 vs2) :=
  ⟨2, 1, 2, 3, .i8, (von .i8 8 128 [(16, 1), (24, 0x80)] [(2, 3), (3, 1)] [(5, 1024)]).updSh fun sh => { sh with vresume := 1 }, by decide +kernel⟩

theorem witness_VectorConfigurationInstructions_vdepthWaits :
    ∃ (rd : XReg) (lg : BitVec 2) (s : State), s.MayRun (.vdepth rd lg) ∧ s.VectorIdle ∧ s.me.wait = none ∧ s.eager = false ∧ s.NoPins ∧
      s.sh.vdepth.toNat < grantDepth (2 ^ lg.toNat) (s.freeUnits s.myCore) s.sh.vdepth.toNat :=
  ⟨5, 3, { (von .i8 1 128 [] [] []).updSh (fun sh => { sh with vdepth := 1, vlr := 1 }) with eager := false }, by
    refine ⟨?_, ?_, ?_, ?_, ?_, ?_⟩ <;> first | exact noPins_of (by decide +kernel) | decide +kernel⟩

theorem witness_VectorElementsAreExact_wide :
    ∃ (x : Bool) (vm : MReg) (vd vs1 vs2 : VReg) (e : EType) (s : State), s.VectorType e ∧ (∀ op ∈ vectorWideOps, wellFormed (op.1 x vm vd vs1 vs2) = true ∧ s.VectorReady (op.1 x vm vd vs1 vs2)) :=
  ⟨true, 2, 2, 5, 9, .i8, (von .i8 2 128 [(40, 0x80), (72, 0xFF), (16, 7)] [(2, 1)] []).updSh fun sh => { sh with vresume := 1 }, by decide +kernel⟩

theorem witness_VectorElementsAreExact_narrow :
    ∃ (x : Bool) (vm : MReg) (vd vs1 vs2 : VReg) (e : EType) (s : State), s.VectorType e ∧ (∀ op ∈ vectorNarrowOps, wellFormed (op.1 x vm vd vs1 vs2) = true ∧ s.VectorReady (op.1 x vm vd vs1 vs2)) :=
  ⟨true, 2, 1, 4, 9, .i8, (von .i8 2 128 [(32, 0x7F80), (33, 0x8001), (72, 0xFF), (8, 7)] [(2, 1)] []).updSh fun sh => { sh with vresume := 1 }, by decide +kernel⟩
/-- The FP sum that a witness performs (R117). -/
def floatSum : (Bool → MReg → VReg → VReg → VReg → Instr) × (Rm → Fp → Fp → Fp → Fp × FFlags) := (.vfadd, fun m _ a b => Fp.add m a b)
/-- A thread with two 32-bit floating-point elements, of which the second is active. -/
def floats : State := (von .f32 1 2 [(8, 0x3F80000000000000), (16, 0x3F80000133800000), (24, 0x3380000000000000)] [(2, 1)] []).updSh fun sh => { sh with vresume := 1 }

theorem witness_VectorElementsAreExact_float :
    ∃ (x : Bool) (vm : MReg) (vd vs1 vs2 : VReg) (e : EType) (s : State) (op : (Bool → MReg → VReg → VReg → VReg → Instr) × (Rm → Fp → Fp → Fp → Fp × FFlags)) (r : Nat → Fp × FFlags) (g : Nat → FFlags), s.VectorType e ∧ (∃ o ∈ vectorFpOps, o.1 x vm vd vs1 vs2 = op.1 x vm vd vs1 vs2) ∧ s.VectorReady (op.1 x vm vd vs1 vs2) ∧
      (∀ i < 2, r i = op.2 s.sh.rm (e.fmt.decode (s.velt e.width vd i)) (e.fmt.decode (s.velt e.width vs1 i)) (e.fmt.decode (s.velt e.width vs2 i))) ∧
      (∀ i < 2, g i = (r i).2 ||| (e.fmt.round s.sh.rm (r i).1).2) :=
  ⟨true, 2, 1, 2, 3, .f32, floats, floatSum, fun i => floatSum.2 floats.sh.rm (EType.f32.fmt.decode (floats.velt 32 1 i)) (EType.f32.fmt.decode (floats.velt 32 2 i)) (EType.f32.fmt.decode (floats.velt 32 3 i)), fun i => (floatSum.2 floats.sh.rm (EType.f32.fmt.decode (floats.velt 32 1 i)) (EType.f32.fmt.decode (floats.velt 32 2 i)) (EType.f32.fmt.decode (floats.velt 32 3 i))).2 ||| (EType.f32.fmt.round floats.sh.rm (floatSum.2 floats.sh.rm (EType.f32.fmt.decode (floats.velt 32 1 i)) (EType.f32.fmt.decode (floats.velt 32 2 i)) (EType.f32.fmt.decode (floats.velt 32 3 i))).1).2, by decide +kernel⟩

theorem witness_VectorElementsAreExact_convert :
    ∃ (x : Bool) (vm : MReg) (vd vs1 : VReg) (src e : EType) (s : State), s.VectorType e ∧ s.VectorReady (.vcvt x vm src vd vs1) :=
  ⟨false, 2, 1, 2, .f32, .i8, von .i8 1 2 [(8, 0x0101), (16, 0x437F8000BFC00000)] [(2, 3)] [], by decide +kernel⟩

theorem witness_VectorElementsAreExact_decode :
    ∃ (x : Bool) (vm : MReg) (vd vs1 vs2 : VReg) (e : EType) (s : State), s.VectorType e ∧ wellFormed (.vdecb x vm vd vs1 vs2) = true ∧ s.VectorReady (.vdecb x vm vd vs1 vs2) :=
  ⟨false, 2, 4, 9, 10, .t8, (von .t8 2 128 [(72, 0x4101), (80, 0x8081), (32, 7)] [(2, 1)] []).updSh fun sh => { sh with vresume := 0 }, by decide +kernel⟩

theorem witness_VectorMasksMovesAndSums_logicalSums :
    ∃ (vm : MReg) (vd vs1 vs2 : VReg) (e : EType) (s : State), s.VectorType e ∧ s.VectorReady (.vredand vm vd vs1 vs2) ∧ s.VectorReady (.vredor vm vd vs1 vs2) :=
  ⟨2, 1, 2, 3, .i8, (von .i8 8 128 [(16, 1), (24, 0x80)] [(2, 3), (3, 1)] [(5, 1024)]).updSh fun sh => { sh with vresume := 1 }, by decide +kernel⟩

theorem witness_VectorMasksMovesAndSums_orderedSums :
    ∃ (vm : MReg) (vd vs1 vs2 : VReg) (e : EType) (s : State), s.VectorType e ∧ s.VectorReady (.vfredo vm vd vs1 vs2) ∧ s.VectorReady (.vfredmax vm vd vs1 vs2) ∧ s.VectorReady (.vfredmin vm vd vs1 vs2) :=
  ⟨2, 1, 2, 3, .f32, (von .f32 1 3 [(8, 5), (16, 0x3F8000013F8000013F800001), (24, 0x33800000)] [(2, 5)] []).updSh fun sh => { sh with vresume := 1 }, by decide +kernel⟩

theorem witness_VectorMemoryMovesElements_unit :
    ∃ (o v : Bool) (vd : VReg) (rs1 : XReg) (e : EType) (s : State) (n : Nat), s.VectorType e ∧ s.elems.batch = none ∧ s.me.refused = [] ∧ n * 8 = e.width ∧ e ≠ .t6 ∧ (∀ i < s.elements, s.sh.vresume.toNat ≤ i → True) ∧ s.VectorReady (.vld o v false vd rs1) ∧ s.VectorReady (.vst o v false vd rs1) :=
  ⟨false, true, 1, 5, .i16, (von .i16 8 64 [(8, 1), (16, 0x80)] [] [(5, winw 5 0x3FFFE)]).updSh fun sh => { sh with vresume := 511, vlr := 8 }, 2, by decide +kernel⟩

theorem witness_VectorMemoryMovesElements_strided :
    ∃ (o v : Bool) (vd : VReg) (rs1 rs2 : XReg) (e : EType) (s : State) (n : Nat), s.VectorType e ∧ s.elems.batch = none ∧ s.me.refused = [] ∧ n * 8 = e.width ∧ e ≠ .t6 ∧ (∀ i < s.elements, s.ActiveElt 0 i → (s.x rs1 + BitVec.ofNat 64 i * s.x rs2).toNat % n = 0 ∧
      s.WindowAllows (s.x rs1 + BitVec.ofNat 64 i * s.x rs2).toNat ∧ s.WindowSettled (s.x rs1 + BitVec.ofNat 64 i * s.x rs2).toNat ∧ s.Unlogged (s.x rs1 + BitVec.ofNat 64 i * s.x rs2).toNat ∧
      SMap.get false (s.core (windowCore (s.x rs1 + BitVec.ofNat 64 i * s.x rs2).toNat)).ctx.spoison (windowOff (s.x rs1 + BitVec.ofNat 64 i * s.x rs2).toNat / 8) = false) ∧
      s.VectorReady (.vlds o v vd rs1 rs2) ∧ s.VectorReady (.vsts o v vd rs1 rs2) :=
  ⟨false, true, 1, 5, 6, .i16, von .i16 1 2 [(8, 1), (16, 0x80)] [] [(5, winw 5 0x3FFFE), (6, 0xFFFFFFFFFFFFFFFE)], 2, by refine ⟨?_, ?_, ?_, ?_, ?_, ?_, ?_, ?_⟩ <;> decide +kernel⟩

theorem witness_VectorMemoryMovesElements_twoD :
    ∃ (o v : Bool) (vd : VReg) (rs1 rs2 : XReg) (e : EType) (s : State) (n : Nat), s.VectorType e ∧ s.elems.batch = none ∧ s.me.refused = [] ∧ n * 8 = e.width ∧ e ≠ .t6 ∧ (∀ i < s.elements, s.ActiveElt 0 i →
      (s.x rs1 + BitVec.ofNat 64 (i / s.sh.vlc.toNat) * s.x rs2 + BitVec.ofNat 64 (n * (i % s.sh.vlc.toNat))).toNat % n = 0 ∧
      s.WindowAllows (s.x rs1 + BitVec.ofNat 64 (i / s.sh.vlc.toNat) * s.x rs2 + BitVec.ofNat 64 (n * (i % s.sh.vlc.toNat))).toNat ∧ s.WindowSettled (s.x rs1 + BitVec.ofNat 64 (i / s.sh.vlc.toNat) * s.x rs2 + BitVec.ofNat 64 (n * (i % s.sh.vlc.toNat))).toNat ∧ s.Unlogged (s.x rs1 + BitVec.ofNat 64 (i / s.sh.vlc.toNat) * s.x rs2 + BitVec.ofNat 64 (n * (i % s.sh.vlc.toNat))).toNat) ∧
      (s.core 5).ctx.spoison = [] ∧ s.VectorReady (.vld2 o v false vd rs1 rs2) ∧ s.VectorReady (.vst2 o v false vd rs1 rs2) :=
  ⟨false, true, 1, 5, 6, .i16, von .i16 2 2 [(8, 1), (16, 0x80)] [] [(5, winw 5 0), (6, 0x3FFFC)], 2, by refine ⟨?_, ?_, ?_, ?_, ?_, ?_, ?_, ?_, ?_⟩ <;> decide +kernel⟩

theorem witness_VectorMemoryMovesElements_indexed :
    ∃ (o v : Bool) (vd vi : VReg) (rs1 : XReg) (e : EType) (s : State) (n : Nat), s.VectorType e ∧ s.elems.batch = none ∧ s.me.refused = [] ∧ n * 8 = e.width ∧ e ≠ .t6 ∧ (∀ i < s.elements, s.ActiveElt 0 i →
      (s.x rs1 + BitVec.ofInt 64 (((SMap.get 0 s.me.vregs
            (8 * ((vi.val + i % s.sh.vlc.toNat / 32) % 32) + i / s.sh.vlc.toNat)).toNat / 2 ^ (32 * (i % s.sh.vlc.toNat % 32)) : Int).bmod
              (2 ^ 32))).toNat % n = 0 ∧
      s.WindowAllows (s.x rs1 + BitVec.ofInt 64 (((SMap.get 0 s.me.vregs
            (8 * ((vi.val + i % s.sh.vlc.toNat / 32) % 32) + i / s.sh.vlc.toNat)).toNat / 2 ^ (32 * (i % s.sh.vlc.toNat % 32)) : Int).bmod
              (2 ^ 32))).toNat ∧ s.WindowSettled (s.x rs1 + BitVec.ofInt 64 (((SMap.get 0 s.me.vregs
            (8 * ((vi.val + i % s.sh.vlc.toNat / 32) % 32) + i / s.sh.vlc.toNat)).toNat / 2 ^ (32 * (i % s.sh.vlc.toNat % 32)) : Int).bmod
              (2 ^ 32))).toNat ∧ s.Unlogged (s.x rs1 + BitVec.ofInt 64 (((SMap.get 0 s.me.vregs
            (8 * ((vi.val + i % s.sh.vlc.toNat / 32) % 32) + i / s.sh.vlc.toNat)).toNat / 2 ^ (32 * (i % s.sh.vlc.toNat % 32)) : Int).bmod
              (2 ^ 32))).toNat) ∧ (s.core 5).ctx.spoison = [] ∧
      s.VectorReady (.vldx o v vd rs1 vi) ∧ s.VectorReady (.vstx o v vd rs1 vi) :=
  ⟨false, true, 1, 28, 5, .i8, von .i8 1 33 [(8, 1), (232, 0xFFFFFFFF)] [] [(5, winw 5 1)], 1, by refine ⟨?_, ?_, ?_, ?_, ?_, ?_, ?_, ?_, ?_⟩ <;> decide +kernel⟩

theorem witness_VectorMemoryMovesElements_atomic :
    ∃ (o : Bool) (ord : Order) (vd vi : VReg) (rs1 : XReg) (e : EType) (s : State), s.VectorType e ∧ s.elems.batch = none ∧ s.StoresHome ∧ (∀ i < s.elements, s.ActiveElt 0 i →
        (s.x rs1 + BitVec.ofInt 64 ((s.velt 32 vi i : Int).bmod (2 ^ 32))).toNat % 4 = 0 ∧
        s.WindowAllows (s.x rs1 + BitVec.ofInt 64 ((s.velt 32 vi i : Int).bmod (2 ^ 32))).toNat ∧ s.WindowSettled (s.x rs1 + BitVec.ofInt 64 ((s.velt 32 vi i : Int).bmod (2 ^ 32))).toNat ∧ s.Unlogged (s.x rs1 + BitVec.ofInt 64 ((s.velt 32 vi i : Int).bmod (2 ^ 32))).toNat) ∧ (s.core 5).ctx.spoison = [] ∧
      (∀ p ∈ (List.range s.elements).flatMap (fun i => (List.range s.elements).map fun j => (i, j)), s.x rs1 + BitVec.ofInt 64 ((s.velt 32 vi p.1 : Int).bmod (2 ^ 32)) =
        s.x rs1 + BitVec.ofInt 64 ((s.velt 32 vi p.2 : Int).bmod (2 ^ 32)) → p.1 = p.2) ∧
      s.VectorReady (.vamoMinClu o ord vd rs1 vi) ∧ s.VectorReady (.vamoSwapPkg o ord vd rs1 vi) :=
  ⟨false, .ar, 1, 31, 5, .i32, von .i32 1 2 [(8, 1), (248, 0xFFFFFFFC)] [] [(5, winw 5 4)], by refine ⟨?_, ?_, ?_, ?_, ?_, ?_, ?_, ?_⟩ <;> decide +kernel⟩

theorem witness_VectorFaultsArePrecise :
    ∃ (o v : Bool) (vd vi : VReg) (rs1 rs2 : XReg) (e : EType) (s : State) (n i q : Nat) (c c2 : BitVec 10), s.VectorType e ∧ n * 8 = e.width ∧ s.sh.mode ≠ .m ∧ s.NoRecord ∧ s.me.refused = [] ∧ s.elems.batch = none ∧ (o = true ∨ s.elems.early = []) ∧ s.ActiveElt 0 i ∧
      s.VectorReady (.vld o v false vd rs1) ∧ s.VectorReady (.vst o v false vd rs1) ∧ s.VectorReady (.vlds o v vd rs1 rs2) ∧ s.VectorReady (.vsts o v vd rs1 rs2) ∧
      (∀ f ∈ (s.vectorForms o v vd vi rs1 rs2 n)[q]?.toList, s.ElementFaults .load n (f.2.2 i) c ∧ s.ElementFaults .store n (f.2.2 i) c2) ∧
      (∀ f ∈ (s.vectorForms o v vd vi rs1 rs2 n)[q]?.toList, ∀ j < i, s.ActiveElt 0 j → s.PlainElement n (f.2.2 j)) :=
  ⟨true, false, 1, 20, 5, 6, .i32, (von .i32 1 2 [(8, 0x1111111122222222)] [] [(5, winw 5 8), (6, 6)]), 4, 1, 1, cause 5 1 5, cause 5 1 5, by
    have hf : ∀ (s : State) (f : Instr × Instr × (Nat → Word)), f ∈ (s.vectorForms true false 1 20 5 6 4)[1]?.toList →
        f = (.vlds true false 1 5 6, .vsts true false 1 5 6, fun i => s.x 5 + BitVec.ofNat 64 i * s.x 6) := by
      intro s f h
      simpa [State.vectorForms] using h
    refine ⟨by decide +kernel, by decide +kernel, by decide +kernel, by decide +kernel, by decide +kernel, by decide +kernel,
      by decide +kernel, by decide +kernel, by decide +kernel, by decide +kernel, by decide +kernel, by decide +kernel, ?_, ?_⟩
    · intro f h
      obtain rfl := hf _ f h
      constructor <;> (unfold State.ElementFaults; rw [if_pos (by decide +kernel)])
    · intro f h
      obtain rfl := hf _ f h
      decide +kernel⟩
/-- An entry of a vector queue. -/
def entry (i : Instr) (sh : Shuttle) : VEntry := { seq := 0, instr := i, ck := sh, word := 0, mate := 0 }
/-- The package with a slot of core 5 given, which the subject names. -/
def withSlot (m : Slot) : State := { ctxOf pkg 5 (fun k => k) with slots := [(81, m)], subject := { core := 5, slot := 1 } }
/-- The shuttle of a vector entry. -/
def vsh : Shuttle := (von .i8 2 4 [] [] []).sh

theorem witness_VectorUnitSteps_start :
    ∃ (s : State) (k : Nat) (m : Slot) (e : VEntry) (rest : List VEntry), k = s.subjectSlot ∧ m = s.slot k ∧ s.unitPick s.subject.core none = some k ∧ m.vrun = none ∧ m.vq = e :: rest ∧ isQueueOp e.instr = false :=
  ⟨withSlot { shuttle .u [] with vq := [entry (.vadd false 0 1 2 3) vsh] }, 81, { shuttle .u [] with vq := [entry (.vadd false 0 1 2 3) vsh] }, entry (.vadd false 0 1 2 3) vsh, [], by decide +kernel⟩

theorem witness_VectorUnitSteps_complete :
    ∃ (s : State) (k : Nat) (m : Slot) (e : VEntry), k = s.subjectSlot ∧ m = s.slot k ∧ m.vrun = some e ∧ m.vq = [] ∧ m.held = [] ∧ m.vpoison = [] ∧ m.wait = none ∧ (vaEff e.instr).isSome = true :=
  ⟨withSlot { shuttle .u [] with vrun := some (entry (.vpopc 5 2) vsh), masks := [(2, 7)] }, 81, { shuttle .u [] with vrun := some (entry (.vpopc 5 2) vsh), masks := [(2, 7)] }, entry (.vpopc 5 2) vsh, by decide +kernel⟩

theorem witness_VectorUnitSteps_parity :
    ∃ (s : State) (k : Nat) (m : Slot) (e : VEntry), k = s.subjectSlot ∧ m = s.slot k ∧ m.vq[s.subject.item]? = some e :=
  ⟨withSlot { shuttle .u [] with vq := [entry (.vpopc 5 2) vsh] }, 81, { shuttle .u [] with vq := [entry (.vpopc 5 2) vsh] }, entry (.vpopc 5 2) vsh, by decide +kernel⟩

theorem witness_VectorUnitSteps_depth :
    ∃ (s : State) (k : Nat) (m : Slot) (w : WaitInfo) (d : Nat), k = s.subjectSlot ∧ m = s.slot k ∧ m.wait = some w ∧ w.kind = .depth d ∧ d < 16 :=
  ⟨withSlot { shuttle .u [] with life := .waiting, wait := some { kind := .depth 8 } }, 81, { shuttle .u [] with life := .waiting, wait := some { kind := .depth 8 } }, { kind := .depth 8 }, 8, by decide +kernel⟩

theorem witness_VectorQueueInstructionsComplete_push :
    ∃ (vs : VReg) (rs1 rs2 : XReg) (c : Nat) (s : State) (e : EType), s.VectorReady (.qpushQa vs rs1 rs2) ∧ s.targets (s.partOfVf s.me.vf) s.myCore 1 s.me.masks (s.x rs1) = .inl [c] ∧
      s.isFenced c = false ∧ s.qaCount c < 32 ∧ s.sh.vtype = some e ∧ entryWordBad (s.x rs2) e.width = false :=
  ⟨1, 5, 6, 64, von .i8 8 128 [(15, 3)] [] [(5, 64), (6, 0x7F)], .i8, by decide +kernel⟩

theorem witness_VectorQueueInstructionsComplete_pop :
    ∃ (vd : VReg) (rs1 : XReg) (c : Nat) (s : State) (y : QdRow) (rest : List QdRow), s.VectorReady (.qpopQd vd rs1) ∧ s.coreTarget (s.partOfVf s.me.vf) s.myCore (s.x rs1).toNat (some 1) = .inl c ∧
      (s.core c).ctx.qd = y :: rest ∧ y.bad = false ∧ y.poison = 0 ∧ y.w ∈ [8, 16, 32] ∧ (∀ j < 64, (y.vals.getD j 0).toNat < 2 ^ y.w) :=
  ⟨31, 5, 64, ctxOf (von .i8 8 128 [(15, 3)] [] [(5, 64)]) 64 fun k => { k with qd := [{ vals := [5], w := 32, poison := 0 }] }, { vals := [5], w := 32, poison := 0 }, [], by decide +kernel⟩

theorem witness_VectorQueueInstructionsComplete_wait :
    ∃ (va vb : VReg) (md : MReg) (tm : BitVec 3) (s : State), s.MayRun (.vwait md va vb tm) ∧ s.VectorIdle ∧ s.sh.vtype.isSome = true ∧ s.sh.vlc.toNat ≤ 16 ∧ s.me.wait = none ∧
      (∀ i < s.elements, s.velt 64 va i % 8 = 0 ∧ s.WindowAllows (s.velt 64 va i) ∧ s.WindowSettled (s.velt 64 va i) ∧
        SMap.get false (s.core (windowCore (s.velt 64 va i))).ctx.spoison (windowOff (s.velt 64 va i) / 8) = false ∧ s.Unlogged (s.velt 64 va i) ∧
        s.velt 64 vb i ≤ littleEndian (fun j => s.scratchByte (windowCore (s.velt 64 va i)) (windowOff (s.velt 64 va i) + j)) 8) :=
  ⟨1, 2, 3, 0, von .ui32 1 1 [(8, BitVec.ofNat 1024 (win 5 8))] [(3, 1)] [], by decide +kernel⟩

theorem witness_TrapStepsEnterTheirHandler_reject :
    ∃ (s : State) (k : Nat) (m : Slot) (w : BitVec 32) (c : BitVec 10), k = s.subjSlot ∧ m = s.slot k ∧ (decodeWord w = .reject .illegal ∧ c = cause 0 0 0 ∨ decodeWord w = .reject .reservedLater ∧ c = cause 0 0 1 ∨
        decodeWord w = .reject .registerField ∧ c = cause 0 0 5) ∧ s.VectorIdle ∧ s.sh.mode ≠ .m ∧ s.NoRecord :=
  ⟨{ on 5 .u [] with subject := { core := 5 } }, 80, shuttle .u [], 0, cause 0 0 0, by decide +kernel⟩

theorem witness_TrapStepsEnterTheirHandler_interrupt :
    ∃ (s : State) (j n : Nat) (cs : BitVec 10) (tv : Word), s.interruptSlot s.subject.core = some j ∧ firstInterrupt (s.pendingOn s.subject.core) = some n ∧ s.PlainTrap j ∧
      (s.slot j).vq = [] ∧ (s.slot j).vrun = none ∧
      (n = 16 ∧ cs = cause 0xD 0 (s.core s.subject.core).ctx.notice ∧ tv = 0 ∨ n = 1 ∧ cs = cause 0xB 0 1 ∧ tv = 0 ∨
        n = 5 ∧ cs = cause 0xB 0 4 ∧ tv = 0 ∨ n = 13 ∧ cs = cause 0xB 0 2 ∧ tv = 0) :=
  ⟨{ (ctxOf ((on 5 .u []).updVf 3 fun v => { v with regs := { stvec := 0x8001 } }) 5 fun k => { k with sie := 0x10000, sip := 0x10002, notice := 3 }) with slots := [(80, (on 5 .u []).me)], subject := { core := 5 } }, 80, 16, cause 0xD 0 3, 0, by decide +kernel⟩
/-- A trap record. -/
def rec1 : TrapRecord := { vf := 3, core := 5, words := [1, 2, 3, 4, 5, 6, 7, 8] }
/-- A trap record waits for a ring in a page of the tables. -/
def recorder : State := { (mapped (on 5 .u []) 0x0F).updVf 3 fun v => { v with regs := { trec := 0x10001 } } with records := [rec1] }
/-- The same once the record has its place. -/
def placed : State := { stateOf (recorder.claimRecord rec1) recorder with records := [{ rec1 with claim := some (0, 0x10040) }] }

theorem witness_TrapStepsEnterTheirHandler_record :
    ∃ (s u v : State) (r : TrapRecord) (rest : List TrapRecord) (p : Word × Nat), s.records = r :: rest ∧ r.claim = none ∧ bitOf (s.vf r.vf).regs.trec 0 = true ∧ s.claimRecord r = .ok u (some p) ∧
      ({ u with records := { r with claim := some p } :: rest } : State).fillRecord r p = .ok v () :=
  ⟨recorder, stateOf (recorder.claimRecord rec1) recorder, stateOf (placed.fillRecord rec1 (0, 0x10040)) recorder, rec1, [], (0, 0x10040), by decide +kernel⟩
/-- The same where the ring is full: its producer index is 64. -/
def ringFull : State := recorder.write64 0x10000 64

theorem witness_TrapStepsEnterTheirHandler_ringFull :
    ∃ (s u : State) (r : TrapRecord) (rest : List TrapRecord), s.records = r :: rest ∧ r.claim = none ∧ bitOf (s.vf r.vf).regs.trec 0 = true ∧ s.claimRecord r = .ok u none :=
  ⟨ringFull, stateOf (ringFull.claimRecord rec1) ringFull, rec1, [], by decide +kernel⟩

theorem witness_TrapStepsEnterTheirHandler_placed :
    ∃ (s v : State) (r : TrapRecord) (rest : List TrapRecord) (p : Word × Nat), s.records = r :: rest ∧ r.claim = some p ∧ s.fillRecord r p = .ok v () :=
  ⟨placed, stateOf (placed.fillRecord { rec1 with claim := some (0, 0x10040) } (0, 0x10040)) recorder, { rec1 with claim := some (0, 0x10040) }, [], (0, 0x10040), by decide +kernel⟩

theorem witness_TrapStepsEnterTheirHandler_refusal :
    ∃ (s : State) (k : Nat) (m : Slot) (r : RefusedStore) (rest : List RefusedStore), k = s.subjSlot ∧ m = s.slot k ∧ m.refused = r :: rest ∧ m.life = .ready ∧ m.half = false ∧ m.doneValue = none ∧ m.parked = false ∧ m.vq = [] ∧ m.vrun = none ∧ m.heldTrap = none ∧ s.PlainTrap k :=
  ⟨withSlot { shuttle .u [] with refused := [{ cause := cause 6 0 1, addr := 8 }] }, 81, { shuttle .u [] with refused := [{ cause := cause 6 0 1, addr := 8 }] }, { cause := cause 6 0 1, addr := 8 }, [], by decide +kernel⟩

theorem witness_TrapStepsEnterTheirHandler_refusalAtBarrier :
    ∃ (s : State) (k : Nat) (m : Slot) (r : RefusedStore) (rest : List RefusedStore) (w : WaitInfo) (sec b : Nat), k = s.subjSlot ∧ m = s.slot k ∧ m.refused = r :: rest ∧ m.life = .waiting ∧ m.wait = some w ∧ w.kind = .barrier sec b ∧ m.parked = false ∧ m.vq = [] ∧ m.vrun = none ∧ m.heldTrap = none ∧ s.PlainTrap k :=
  ⟨withSlot { shuttle .u [] with refused := [{ cause := cause 6 0 1, addr := 8 }], life := .waiting, wait := some { kind := .barrier 0 1, bound := 9, counted := 2 } }, 81, { shuttle .u [] with refused := [{ cause := cause 6 0 1, addr := 8 }], life := .waiting, wait := some { kind := .barrier 0 1, bound := 9, counted := 2 } }, { cause := cause 6 0 1, addr := 8 }, [], { kind := .barrier 0 1, bound := 9, counted := 2 }, 0, 1, by decide +kernel⟩

theorem witness_TrapStepsEnterTheirHandler_wake :
    ∃ (s : State) (k : Nat) (m : Slot), k = s.subjSlot ∧ m = s.slot k ∧ m.life = .waiting ∧ m.woken = true :=
  ⟨withSlot { shuttle .u [] with life := .waiting, woken := true }, 81, { shuttle .u [] with life := .waiting, woken := true }, by decide +kernel⟩

theorem witness_TrapStepsEnterTheirHandler_expiryOfWfi :
    ∃ (s : State) (k : Nat) (m : Slot) (w : WaitInfo), k = s.subjSlot ∧ m = s.slot k ∧ m.wait = some w ∧ m.life = .waiting ∧ m.parked = false ∧ m.again = false ∧ m.woken = false ∧ m.vq = [] ∧ m.vrun = none ∧ m.deferred = [] ∧ w.bound ≠ 0 ∧
      w.bound ≤ w.counted ∧ w.kind = .wfi :=
  ⟨withSlot { shuttle .s [] with life := .waiting, wait := some { kind := .wfi, bound := 4, counted := 4 } }, 81, { shuttle .s [] with life := .waiting, wait := some { kind := .wfi, bound := 4, counted := 4 } }, { kind := .wfi, bound := 4, counted := 4 }, by decide +kernel⟩

theorem witness_TrapStepsEnterTheirHandler_expiry :
    ∃ (s : State) (k : Nat) (m : Slot) (w : WaitInfo), k = s.subjSlot ∧ m = s.slot k ∧ m.wait = some w ∧ m.life = .waiting ∧ m.parked = false ∧ m.again = false ∧ m.woken = false ∧ m.vq = [] ∧ m.vrun = none ∧ m.deferred = [] ∧ w.bound ≠ 0 ∧
      w.bound ≤ w.counted ∧ w.kind = .cwait ∧ s.PlainTrap k :=
  ⟨withSlot { shuttle .s [] with life := .waiting, wait := some { kind := .cwait, bound := 4, counted := 4 } }, 81, { shuttle .s [] with life := .waiting, wait := some { kind := .cwait, bound := 4, counted := 4 } }, { kind := .cwait, bound := 4, counted := 4 }, by decide +kernel⟩
/-- A shuttle that is being packed. -/
def packing (xs : SMap Word) : Slot := { shuttle .u xs with life := .packing, pack := some { reason := 2, named := 6, pc := 0x1004 } }
/-- A frame of VF 3 from slot 80 to core 6. -/
def frame : Frame := { sh := { pc := 0x1000, x := [(5, 7)] }, vf := 3, part := 0, reason := 2, dclass := .vector, gen := 0, src := 80, dst := 6, named := 6 }

theorem witness_FramesCarryTheirShuttle_pack :
    ∃ (s : State) (k : Nat) (m : Slot) (i : PackInfo) (n : Nat), k = s.subjSlot ∧ m = s.slot k ∧ s.eager = false ∧ m.life = .packing ∧ m.pack = some i ∧ s.Settled k ∧ i.reason = 2 ∧ i.slotShid = none ∧ i.named = n ∧ n ≠ 0xFFF ∧ (s.freeSlot n).isSome = true ∧ s.isFenced n = false ∧ (∀ q ∈ s.queued, q.named ≠ n) ∧ s.posting k = false ∧ bitOf (s.vfRegs m.vf (k / 16)).trec 0 = false :=
  ⟨{ withSlot (packing []) with eager := false, queued := [{ frame with named := 8 }] }, 81, packing [], { reason := 2, named := 6, pc := 0x1004 }, 6, by decide +kernel⟩
/-- The frame is under way: its old slot waits for the acknowledgement. -/
def transit (f : Frame) : State := { pkg with slots := [(80, { shuttle .u [] with life := .sent })], frames := [f], cores := [(6, { l1 := [(4, some 1)] })] }

theorem witness_FramesCarryTheirShuttle_retry :
    ∃ (s : State) (f : Frame), s.frames[s.subject.item]? = some f ∧ f.retries < 16 :=
  ⟨transit frame, frame, by decide +kernel⟩

theorem witness_FramesCarryTheirShuttle_arrive :
    ∃ (s : State) (f : Frame) (j : Nat), s.frames[s.subject.item]? = some f ∧ f.gen = s.genOf f.vf ∧ f.reason ≠ 3 ∧ f.reason ≠ 4 ∧ s.queued = [] ∧ s.NoPins ∧ f.trapOnArrival = none ∧ s.isFenced f.dst = false ∧ f.classes.contains (classOf f.dst) = true ∧ s.freeSlot f.dst = some j ∧ s.inPart f.part f.dst = true ∧ s.inColumn f.dst = false ∧ (s.slot f.src).life = .sent :=
  ⟨transit frame, frame, 0, by
    refine ⟨?_, ?_, ?_, ?_, ?_, ?_, ?_, ?_, ?_, ?_, ?_, ?_, ?_⟩ <;> first | exact noPins_of (by decide +kernel) | decide +kernel⟩

theorem witness_FramesCarryTheirShuttle_queued :
    ∃ (s : State) (c : Nat) (f : Frame) (rest : List Frame) (j : Nat), c = s.subject.core ∧ s.queued = f :: rest ∧ s.isFenced c = false ∧ s.freeSlot c = some j ∧ f.part = s.partOfCore c ∧ s.running f.vf = true ∧ f.named = c ∧ f.trapOnArrival = none ∧ s.NoPins :=
  ⟨{ pkg with queued := [frame], subject := { core := 6 } }, 6, frame, [], 0, by
    refine ⟨?_, ?_, ?_, ?_, ?_, ?_, ?_, ?_, ?_⟩ <;> first | exact noPins_of (by decide +kernel) | decide +kernel⟩

theorem witness_FramesCarryTheirShuttle_failed :
    ∃ (s : State) (f : Frame), s.frames[s.subject.item]? = some f ∧ 16 ≤ f.retries ∧ s.isFenced (f.src / 16) = false ∧ (s.slot f.src).life = .sent ∧ f.sh.mode ≠ .m ∧ bitOf (s.vfRegs (s.slot f.src).vf (f.src / 16)).trec 0 = false :=
  ⟨transit { frame with retries := 16 }, { frame with retries := 16 }, by decide +kernel⟩
/-- A slot with a mix sample. -/
def sampled (m : Mix) : Slot := { shuttle .u [] with sh := { (shuttle .u []).sh with mix := m } }
/-- Slots with a mix sample each, on matrix and vector cores. -/
def sampledSlots : State := { pkg with slots := [(80, sampled { issued := 300, vector := 10, low := 1, traps := 0 }), (81, sampled { issued := 300, vector := 75, low := 1, traps := 7 }), (82, sampled { issued := 255, vector := 3, low := 2, traps := 7 }), (83, sampled { issued := 300, vector := 3, low := 2, traps := 8 }), (84, sampled { issued := 256, vector := 63, low := 4, traps := 0 }), (85, sampled { issued := 256, vector := 64, low := 4, traps := 0 })] }

theorem witness_MixWindowsAndStarts_window :
    ∃ (s : State), s.cycle.toNat % 4096 = 0 ∧ ∀ j, bitOf (s.slot j).sh.tsw 1 = false :=
  ⟨sampledSlots, by
    exact ⟨by decide +kernel, fun j => SMap.get_forall (p := fun m : Slot => bitOf m.sh.tsw 1 = false) (by decide) (by decide +kernel) j⟩⟩

theorem witness_MixWindowsAndStarts_order :
    ∃ (s : State) (k : Nat) (m : Slot) (r : Nat), k = s.subjSlot ∧ m = s.slot k ∧ m.mixOrder = some r ∧ m.life = .ready ∧ m.parked = false ∧ m.half = false ∧ m.refused = [] ∧ m.heldTrap = none ∧ m.doneValue = none ∧ s.interruptSlot (k / 16) ≠ some k ∧ m.vq = [] ∧ m.vrun = none ∧ s.eager = false :=
  ⟨{ withSlot { shuttle .u [] with mixOrder := some 1120 } with eager := false }, 81, { shuttle .u [] with mixOrder := some 1120 }, 1120, by decide +kernel⟩
/-- A start of VF 3 on core 6. -/
def begun : Start := { vf := 3, core := 6, entry := 0x2000, arg0 := 7, arg1 := 9, control := 0 }

theorem witness_MixWindowsAndStarts_entry :
    ∃ (s : State) (c : Nat) (e : Start) (j : Nat), c = s.subject.core ∧ s.starts = [e] ∧ e.core = c ∧ s.isFenced c = false ∧ s.freeSlot c = some j ∧ s.running e.vf = true ∧ s.queued = [] ∧ s.NoPins ∧ bitsOf e.control 14 4 = 0 :=
  ⟨{ pkg with starts := [begun], subject := { core := 6 } }, 6, begun, 0, by
    refine ⟨?_, ?_, ?_, ?_, ?_, ?_, ?_, ?_, ?_⟩ <;> first | exact noPins_of (by decide +kernel) | decide +kernel⟩

theorem witness_MixWindowsAndStarts_offer :
    ∃ (s : State) (o : Start) (rest : List Start) (q rd j : Nat), s.offers = o :: rest ∧ s.subject.item = 0 ∧ o.issuer = some (q, rd) ∧ s.isFenced o.core = false ∧ s.queued = [] ∧ s.starts = [] ∧ (s.subject.flag = true ∨ ∀ f ∈ s.frames, f.dst ≠ o.core) ∧ s.NoPins ∧ s.freeSlot o.core = some j ∧ bitsOf o.control 14 4 = 0 ∧ q ≠ o.core * 16 + j :=
  ⟨{ pkg with offers := [{ begun with issuer := some (80, 5) }], slots := [(80, { shuttle .u [] with life := .waiting, wait := some { kind := .offer } })] }, { begun with issuer := some (80, 5) }, [], 80, 5, 0, by
    refine ⟨?_, ?_, ?_, ?_, ?_, ?_, ?_, ?_, ?_, ?_, ?_⟩ <;> first | exact noPins_of (by decide +kernel) | decide +kernel⟩
/-- A matrix core 70 of VF 3 with a context. -/
def matrix (x : CoreCtx) : State := { pkg with cores := [(70, { ctx := x })], subject := { core := 70 }, slots := [(1120, { shuttle .u [] with tl := 2 })] }
/-- A command of slot 1120. -/
def cmd (op : Nat) (operand : Word) : QkCmd := { op := op, tag := 2, pair := 0, operand := operand, issuer := 1120 }
/-- A configured slot 2: accumulator base 4, FP32 rows drained, Kch 2, source B-SRAM. -/
def mcfg2 : CfgSlot := { configured := true, w0 := 0x0000000000000000, w1 := 0 }

theorem witness_CommandUnitSteps_arm :
    ∃ (s : State) (c : Nat) (x : CoreCtx) (k : QkCmd) (rest : List QkCmd), c = s.subject.core ∧ x = (s.core c).ctx ∧ s.eager = true ∧ x.qk = k :: rest ∧ (∀ y ∈ rest, y.op ≠ 6) ∧ k.op = 0 ∧ (x.slotCfg k.tag).armed = false :=
  ⟨matrix { vf := 3, qk := [cmd 0 4], cfg := [(2, mcfg2)] }, 70, { vf := 3, qk := [cmd 0 4], cfg := [(2, mcfg2)] }, cmd 0 4, [], by decide +kernel⟩

theorem witness_CommandUnitSteps_zero :
    ∃ (s : State) (c : Nat) (x : CoreCtx) (k : QkCmd) (rest : List QkCmd), c = s.subject.core ∧ x = (s.core c).ctx ∧ s.eager = true ∧ x.qk = k :: rest ∧ (∀ y ∈ rest, y.op ≠ 6) ∧ k.op = 1 ∧ x.overlapsArmed (bitsOf k.operand 8 0) (bitsOf k.operand 25 16) = false :=
  ⟨matrix { vf := 3, qk := [cmd 1 0x20003], acc := [(200, 7), (300, 8)] }, 70, { vf := 3, qk := [cmd 1 0x20003], acc := [(200, 7), (300, 8)] }, cmd 1 0x20003, [], by decide +kernel⟩

theorem witness_CommandUnitSteps_drain :
    ∃ (s : State) (c : Nat) (x : CoreCtx) (k : QkCmd) (rest : List QkCmd) (n : Nat), c = s.subject.core ∧ x = (s.core c).ctx ∧ s.eager = true ∧ x.qk = k :: rest ∧ (∀ y ∈ rest, y.op ≠ 6) ∧ k.op = 2 ∧ k.taken = false ∧ k.progress = 0 ∧ (x.slotCfg k.tag).armed = false ∧ n = bitsOf k.operand 25 16 ∧ 0 < n ∧ x.qd.length + n ≤ 32 :=
  ⟨matrix { vf := 3, qk := [cmd 2 0x20003], acc := [(200, 7), (300, 8)], cfg := [(2, mcfg2)] }, 70, { vf := 3, qk := [cmd 2 0x20003], acc := [(200, 7), (300, 8)], cfg := [(2, mcfg2)] }, cmd 2 0x20003, [], 2, by decide +kernel⟩

theorem witness_CommandUnitSteps_drainRow :
    ∃ (s : State) (c : Nat) (x : CoreCtx) (k : QkCmd) (rest : List QkCmd), c = s.subject.core ∧ x = (s.core c).ctx ∧ s.eager = true ∧ x.qk = k :: rest ∧ (∀ y ∈ rest, y.op ≠ 6) ∧ k.op = 2 ∧ k.taken = true ∧ k.progress + 1 < bitsOf k.operand 25 16 ∧ x.qd.length < 32 :=
  ⟨matrix { vf := 3, qk := [{ cmd 2 0x20003 with taken := true }], acc := [(200, 7), (300, 8)], cfg := [(2, mcfg2)] }, 70, { vf := 3, qk := [{ cmd 2 0x20003 with taken := true }], acc := [(200, 7), (300, 8)], cfg := [(2, mcfg2)] }, { cmd 2 0x20003 with taken := true }, [], by decide +kernel⟩
/-- The section of core 70, with a barrier 3 that counts 2 arrivals. -/
def withBarrier (y : Barrier) (x : CoreCtx) : State := { matrix x with sections := [(barrierSection 70 3, { vf := 3, barriers := [(3, y)] })] }

theorem witness_CommandUnitSteps_bar :
    ∃ (s : State) (c : Nat) (x : CoreCtx) (k : QkCmd) (rest : List QkCmd) (sec b : Nat) (y : Barrier), c = s.subject.core ∧ x = (s.core c).ctx ∧ s.eager = true ∧ x.qk = k :: rest ∧ (∀ y ∈ rest, y.op ≠ 6) ∧ k.op = 3 ∧ x.anyArmed = false ∧ (s.core c).sbuf = [] ∧ b = bitsOf k.operand 5 0 ∧ sec = barrierSection c b ∧ (s.part (s.partOfCore c)).hasSection sec = true ∧ y = (s.sec sec).barrier (b % 32) ∧ y.arriveCause = none :=
  ⟨withBarrier { tgt := 2, cnt := 1, init := true } { vf := 3, qk := [cmd 3 3] }, 70, { vf := 3, qk := [cmd 3 3] }, cmd 3 3, [], barrierSection 70 3, 3, { tgt := 2, cnt := 1, init := true }, by decide +kernel⟩

theorem witness_CommandUnitSteps_parity :
    ∃ (s : State) (c : Nat) (x : CoreCtx) (k : QkCmd) (rest : List QkCmd), c = s.subject.core ∧ x = (s.core c).ctx ∧ s.eager = true ∧ x.qk = k :: rest ∧ (∀ y ∈ rest, y.op ≠ 6) ∧ k.op < 4 :=
  ⟨matrix { vf := 3, qk := [cmd 3 3] }, 70, { vf := 3, qk := [cmd 3 3] }, cmd 3 3, [], by decide +kernel⟩

theorem witness_CommandUnitSteps_tl :
    ∃ (s : State) (c : Nat) (x : CoreCtx) (i : Nat) (l : List Nat), c = s.subject.core ∧ x = (s.core c).ctx ∧ s.eager = true ∧ x.tlDone = i :: l :=
  ⟨matrix { vf := 3, tlDone := [1120] }, 70, { vf := 3, tlDone := [1120] }, 1120, [], by decide +kernel⟩

theorem witness_CommandUnitSteps_entry :
    ∃ (s : State) (c : Nat) (x : CoreCtx) (p : Push) (l : List Push) (y : QaEntry), c = s.subject.core ∧ x = (s.core c).ctx ∧ s.eager = true ∧ s.pushes = p :: l ∧ p.targets = [c] ∧ s.isFenced c = false ∧ p.qa = some y ∧ p.qk = none :=
  ⟨{ matrix { vf := 3 } with pushes := [{ targets := [70], vf := 3, qa := some { val := 1, w := 8, scl := 0, tag := 2 } }] }, 70, { vf := 3 }, { targets := [70], vf := 3, qa := some { val := 1, w := 8, scl := 0, tag := 2 } }, [], { val := 1, w := 8, scl := 0, tag := 2 }, by decide +kernel⟩

theorem witness_CommandUnitSteps_command :
    ∃ (s : State) (c : Nat) (x : CoreCtx) (p : Push) (l : List Push) (k : QkCmd), c = s.subject.core ∧ x = (s.core c).ctx ∧ s.eager = true ∧ s.pushes = p :: l ∧ p.targets = [c] ∧ s.isFenced c = false ∧ p.qa = none ∧ p.qk = some k :=
  ⟨{ matrix { vf := 3 } with pushes := [{ targets := [70], vf := 3, qk := some (cmd 1 3) }] }, 70, { vf := 3 }, { targets := [70], vf := 3, qk := some (cmd 1 3) }, [], cmd 1 3, by decide +kernel⟩
/-- An entry of QA for slot 2. -/
def qaEntry : QaEntry := { val := 0x3F803F80, w := 16, scl := 0, tag := 2 }
/-- Slot 2 armed for 4 rows of 2 chunks. -/
def armed2 : CfgSlot := { mcfg2 with armed := true, rows := 4, remaining := 8, e := 1 }
/-- A matrix core with an entry and its slot. -/
def consuming : State := { matrix { vf := 3, qa := [qaEntry], cfg := [(2, armed2)] } with cores := [(70, { ctx := { vf := 3, qa := [qaEntry], cfg := [(2, armed2)] }, bsram := [(0, 0x40004000), (512, 0x4040)] })] }

theorem witness_ArrayConsumesEntries_consume :
    ∃ (s : State) (c : Nat) (x : CoreCtx) (e : QaEntry) (rest : List QaEntry) (g : CfgSlot) (h : HeldChunk) (row : Nat), c = s.subject.core ∧ x = (s.core c).ctx ∧ s.eager = true ∧ x.qa = e :: rest ∧ g = x.slotCfg e.tag ∧ g.configured = true ∧ g.armed = true ∧ (∀ t < 8, (x.slotCfg t).armed = true → (x.slotCfg t).scratchSource = false) ∧ 1 < g.remaining ∧ 0 < g.rows ∧ x.accPoison = [] ∧ (s.core c).bpoison = [] ∧ h = (s.core c).readChunk e.tag (g.e / g.rows) g ∧ (s.core c).chunk = none ∧ row = g.abase + g.e % g.rows :=
  ⟨consuming, 70, { vf := 3, qa := [qaEntry], cfg := [(2, armed2)] }, qaEntry, [], armed2, ((consuming.core 70).readChunk 2 0 armed2), 1, by decide +kernel⟩
/-- A transfer into the accumulator of one row from memory at 0x10000. -/
def transfer : QkCmd := { op := 4, tag := 0, operand := 0x10003, addr := 0x10000, issuer := 1120, taken := true }
/-- It waits at the head of QK. -/
def transferring : State :=
    let s : State := mapped (matrix { vf := 3, qk := [transfer] }) 0x1F
    { s with mem := s.mem }

theorem witness_ArrayConsumesEntries_mcpy :
    ∃ (s : State) (c : Nat) (x : CoreCtx) (k : QkCmd) (rest : List QkCmd) (u r : State), c = s.subject.core ∧ x = (s.core c).ctx ∧ s.eager = true ∧ x.qk = k :: rest ∧ (∀ y ∈ rest, y.op ≠ 6) ∧ (k.op = 4 ∨ k.op = 5) ∧ k.taken = true ∧ k.progress = 0 ∧ (s.updHead c fun k => { k with taken := true }).mcpyRows { vf := (s.slot k.issuer).vf, core := c, mode := (s.slot k.issuer).sh.mode, agent := 2 } c k (bitsOf k.operand 25 16) 0 = .ok u () ∧ r = u.releaseSlot k.issuer :=
  ⟨transferring, 70, { vf := 3, qk := [transfer] }, transfer, [], stateOf (transferring.mcpyRows { vf := 3, core := 70, mode := .u, agent := 2 } 70 transfer 1 0) transferring, (stateOf (transferring.mcpyRows { vf := 3, core := 70, mode := .u, agent := 2 } 70 transfer 1 0) transferring).releaseSlot 1120, by decide +kernel⟩
/-- A store of slot 80 on its way home. -/
def storing : StoreEntry := { shid := 80, block := 0x10008 / 8, data := 0x0102030405060708, mask := 0x3C, addr := 0x1000A, ma := 0x10008, kidx := 3, slice := 5 }
/-- Core 5 with a store in its buffer. -/
def buffered (e : StoreEntry) : State := { on 5 .u [] with cores := [(5, { ctx := { vf := 3 }, sbuf := [e] })], subject := { core := 5, addr := 0x10008 } }

theorem witness_HomesAndCachesStep_register :
    ∃ (s : State) (c v : Nat) (e : StoreEntry) (i : Instr), c = s.subject.core ∧ (s.core c).sbuf = [e] ∧ e.pol = 0 ∧ e.vseq = 0 ∧ v = (s.slot e.shid).vf ∧ s.storeRefusal v e.block e.ma e.agent e.mask = none ∧ s.routeCause v c e.slice e.block e.agent e.mask = none ∧ (s.slot e.shid).refused = [] ∧ s.ownsAll c v (wordsOf e.block e.mask) = false ∧ s.KeyFits e.ma e.kidx ∧ s.watches = [] ∧ s.NoPins ∧ i ∈ [Instr.register, .registrationGrant] ∧ (i = .register → s.subject.item = 0) ∧ (i = .registrationGrant → e.touches (s.subject.addr / 8) (halfOf (s.subject.addr / 4)) = true) :=
  ⟨buffered storing, 5, 3, storing, .register, by
    refine ⟨?_, ?_, ?_, ?_, ?_, ?_, ?_, ?_, ?_, ?_, ?_, ?_, ?_, ?_, ?_⟩ <;> first | exact noPins_of (by decide +kernel) | decide +kernel⟩
/-- Core 5 owns a word and holds a copy of another. -/
def evictor : State := { on 5 .u [] with cores := [(5, { ctx := { vf := 3 }, l1 := [(0x4002, some 7), (0x4085, some 8)] })], home := [(3 * 2 ^ 56 + 0x4002, .registered 5 0x10008 3), (3 * 2 ^ 56 + 0x4090, .registered 5 0x10240 3)], subject := { core := 5, addr := 0x10008 } }

theorem witness_HomesAndCachesStep_evict :
    ∃ (s : State) (c v : Nat), c = s.subject.core ∧ v = (s.core c).ctx.vf ∧ s.subject.flag = false ∧ s.passes v c (s.lineSlice c v (s.subject.addr / 512)) = true ∧ s.NoPins :=
  ⟨evictor, 5, 3, by
    refine ⟨?_, ?_, ?_, ?_, ?_⟩ <;> first | exact noPins_of (by decide +kernel) | decide +kernel⟩
/-- Core 5 with a translation at hand: the leaf of 0x10000 has its A bit. -/
def quietly : State :=
    let t : State := (mapped (on 5 .u []) 0x1F).write64 0x106008 (BitVec.ofNat 64 (5 * 2 ^ 50 + 1024 + 11))
    { (t.write64 0x10008 0x1122334455667788).updCore 5 (fun k => { k with ctx := { k.ctx with vf := 3 }, plb := [{ vf := 3, region := 0, valid := true, r := true, w := true, x := true, u := true }] }) with subject := { core := 5, addr := 0x10008 } }
/-- What it finds at 0x10008. -/
def quietFind : Word × Nat × Nat × Nat × RangeEntry := (quietly.quiet 5 0x10008 .load).getD (0, 0, 0, 0, {})

theorem witness_HomesAndCachesStep_fill :
    ∃ (s : State) (c v a : Nat) (e : Word) (lv at_ ma : Nat) (r : RangeEntry), c = s.subject.core ∧ v = (s.core c).ctx.vf ∧ a = s.subject.addr / 4 * 4 ∧ s.quiet c a (if s.subject.flag then .fetch else .load) = some (e, lv, at_, ma, r) ∧ ptePol e = 0 ∧ s.KeyFits ma r.kidx ∧ (s.homeState v (a / 4)).owner ≠ some c ∧ s.isLost v (a / 4) = false ∧ s.poisoned ma = false ∧ s.poisoned (ma / 8 * 8) = false :=
  ⟨quietly, 5, 3, 0x10008, quietFind.1, quietFind.2.1, quietFind.2.2.1, quietFind.2.2.2.1, quietFind.2.2.2.2, by decide +kernel⟩

theorem witness_HomesAndCachesStep_homeRead :
    ∃ (s : State) (c v a : Nat) (e : Word) (lv at_ ma : Nat) (r : RangeEntry) (g b : Nat), c = s.subject.core ∧ v = (s.core c).ctx.vf ∧ a = s.subject.addr / 8 * 8 ∧ s.quiet c a .load = some (e, lv, at_, ma, r) ∧ ptePol e = 0 ∧ s.KeyFits ma r.kidx ∧ g = grainBytes e ∧ b = ma / g * g + a % g / 8 * 8 ∧ s.poisoned b = false :=
  ⟨quietly, 5, 3, 0x10008, quietFind.1, quietFind.2.1, quietFind.2.2.1, quietFind.2.2.2.1, quietFind.2.2.2.2, 32, 0x10008, by decide +kernel⟩
/-- The same for control core 2, which holds no entry of protection lookups. -/
def quietControl : State :=
    { quietly.updCore 2 (fun k => { k with ctx := { k.ctx with vf := 3 } }) with subject := { core := 2, addr := 0x10008 } }

theorem witness_HomesAndCachesStep_plb :
    ∃ (s : State) (c v : Nat) (e : PlbEntry), c = s.subject.core ∧ v = (s.core c).ctx.vf ∧ classOf c = .control ∧ s.plbWalk v (s.subject.addr / 2 ^ 26) = some e ∧
      (s.quietBy c s.subject.addr s.subject.access (some e)).isSome = true ∧ (∀ p ∈ (s.core c).plb, p.vf ≠ v ∨ p.region ≠ s.subject.addr / 2 ^ 26) :=
  ⟨quietControl, 2, 3, { vf := 3, region := 0, valid := true, r := true, w := true, x := true, u := true }, by decide +kernel⟩

theorem witness_HomesAndCachesStep_atb :
    ∃ (s : State) (c v : Nat) (e : Word) (lv at_ ma : Nat) (r : RangeEntry), c = s.subject.core ∧ v = (s.core c).ctx.vf ∧ s.quiet c s.subject.addr s.subject.access = some (e, lv, at_, ma, r) :=
  ⟨quietly, 5, 3, quietFind.1, quietFind.2.1, quietFind.2.2.1, quietFind.2.2.2.1, quietFind.2.2.2.2, by decide +kernel⟩
/-- A slot waits and its wake has been sent. -/
def waking : State := { on 5 .u [] with slots := [(80, { shuttle .u [] with life := .waiting, wait := some { kind := .cwait } })], watches := [{ slice := 5, vf := 3, word := 0x4000, who := .slot 80, fired := true }] }

theorem witness_HomesAndCachesStep_wake :
    ∃ (s : State) (w : Watch) (k : Nat), s.watches[s.subject.item]? = some w ∧ w.fired = true ∧ w.who = .slot k ∧ (s.slot k).life = .waiting ∧ s.passes w.vf w.slice (k / 16) = true ∧ s.eager = true ∧ (∀ x ∈ s.watches, x.fired = true → x.slice = w.slice → x.who = w.who → x = w ∨ w.sent < x.sent) :=
  ⟨waking, { slice := 5, vf := 3, word := 0x4000, who := .slot 80, fired := true }, 80, by decide +kernel⟩
/-- Section 0 of the package with a context, as subject. -/
def section0 (x : SectionCtx) : State := { on 5 .u [] with sections := [(0, x)] }

theorem witness_RingsPollsAndCopiesStep_ring :
    ∃ (s : State) (sec ch : Nat) (r : RingChannel) (p : Nat × Word) (l : List (Nat × Word)), sec = s.subject.section_ ∧ ch = s.subject.chan ∧ r = (s.sec sec).ringCh (ch % 4) ∧ r.posts = p :: l ∧ bitOf p.2 63 = false ∧ r.w = 0 ∧ p.2.toNat ≤ r.c ∧ s.subject.item = 0 ∧ (∀ x ∈ r.last, x.1 = s.arith → x.2 ≤ p.1 / 16) :=
  ⟨section0 { vf := 3, ring := [(0, { c := 4, posts := [(5, 4)] })] }, 0, 0, { c := 4, posts := [(5, 4)] }, (5, 4), [], by decide +kernel⟩

theorem witness_RingsPollsAndCopiesStep_resend :
    ∃ (s : State) (k : Nat) (w : WaitInfo) (a : Word), k = s.subjectSlot ∧ (s.slot k).wait = some w ∧ (s.slot k).life = .waiting ∧ s.eager = true ∧ w.kind = .fullEmpty a false :=
  ⟨withSlot { shuttle .u [] with life := .waiting, wait := some { kind := .fullEmpty 0x100 false } }, 81, { kind := .fullEmpty 0x100 false }, 0x100, by decide +kernel⟩

theorem witness_RingsPollsAndCopiesStep_poll :
    ∃ (s : State) (k : Nat) (w : WaitInfo) (n : Nat) (u : List Nat), k = s.subjectSlot ∧ (s.slot k).wait = some w ∧ (s.slot k).life = .waiting ∧ s.eager = true ∧ w.kind = .vwait n u :=
  ⟨withSlot { shuttle .u [] with life := .waiting, wait := some { kind := .vwait 1 [3] } }, 81, { kind := .vwait 1 [3] }, 1, [3], by decide +kernel⟩

theorem witness_RingsPollsAndCopiesStep_timeout :
    ∃ (s : State) (k : Nat) (w : WaitInfo) (n : Nat) (u : List Nat), k = s.subjectSlot ∧ (s.slot k).wait = some w ∧ (s.slot k).life = .waiting ∧ s.eager = true ∧ w.kind = .vwait n u ∧ 2 ^ (10 + 2 * n) ≤ w.counted ∧ (s.slot k).parked = false ∧ (s.slot k).again = false :=
  ⟨withSlot { shuttle .u [] with life := .waiting, wait := some { kind := .vwait 1 [3], counted := 4096 } }, 81, { kind := .vwait 1 [3], counted := 4096 }, 1, [3], by decide +kernel⟩
/-- A copy of 8 bytes of scratchpad 5 to scratchpad 6. -/
def copy8 : CopyCmd := { desc := [winw 5 0x40, winw 6 0x80, 8], bytes := 8, issuer := 80, order := 1 }
/-- Channel 0 of section 0 with a copy at its head. -/
def copying (c : CopyCmd) : State :=
    { ctxOf (ctxOf (section0 { vf := 3, chans := [(0, { cmds := [c] })] }) 5 fun k => { k with scratch := cells 0x38 [1, 0x0102030405060708, 3] }) 6 (fun k => k) with slots := [(80, { shuttle .u [] with cp := 1 })] }

theorem witness_RingsPollsAndCopiesStep_block :
    ∃ (s : State) (sec ch : Nat) (c : CopyCmd) (src dst : Nat), sec = s.subject.section_ ∧ ch = s.subject.chan ∧ s.copyHead sec ch = some c ∧ c.failed = none ∧ c.form = .lin ∧ c.delivered = 0 ∧ c.bytes = 8 ∧ c.bar = none ∧ src = (c.desc.getD 0 0).toNat ∧ dst = (c.desc.getD 1 0).toNat ∧
        src % 8 = 0 ∧ dst % 8 = 0 ∧ isWindow src = true ∧ isWindow dst = true ∧ s.windowTest (s.partOfVf (c.who s sec ch).vf) (c.issuer / 16) 4 src = none ∧
        s.windowTest (s.partOfVf (c.who s sec ch).vf) (c.issuer / 16) 4 dst = none ∧ (∀ e ∈ (s.core (c.issuer / 16)).sbuf, e.shid ≠ 65536) ∧
        SMap.get false (s.core (windowCore src)).ctx.spoison (windowOff src / 8) = false :=
  ⟨copying copy8, 0, 0, copy8, win 5 0x40, win 6 0x80, by decide +kernel⟩

theorem witness_RingsPollsAndCopiesStep_end :
    ∃ (s : State) (sec ch : Nat) (c : CopyCmd), sec = s.subject.section_ ∧ ch = s.subject.chan ∧ s.copyHead sec ch = some c ∧ c.failed = none ∧ c.units ≤ c.delivered :=
  ⟨copying { copy8 with delivered := 8 }, 0, 0, { copy8 with delivered := 8 }, by decide +kernel⟩

theorem witness_RingsPollsAndCopiesStep_fault :
    ∃ (s : State) (sec ch : Nat) (c : CopyCmd) (src : Nat) (cs : BitVec 10), sec = s.subject.section_ ∧ ch = s.subject.chan ∧ s.copyHead sec ch = some c ∧ c.failed = none ∧ c.form = .lin ∧ c.delivered = 0 ∧ 0 < c.bytes ∧ src = (c.desc.getD 0 0).toNat ∧ isWindow src = true ∧ s.windowTest (s.partOfVf (s.slot c.issuer).vf) (c.issuer / 16) 4 src = some cs ∧ (s.slot c.issuer).life ≠ .free :=
  ⟨copying { copy8 with desc := [winw 4095 0, winw 6 0x80, 8] }, 0, 0, { copy8 with desc := [winw 4095 0, winw 6 0x80, 8] }, win 4095 0, cause 2 4 4, by decide +kernel⟩
/-- VF 3 with queue 2, which the subject names, and its TDISP state. -/
def hosted (tdi : TdiState) (h : HostQueue) (x : Word) : State :=
    { pkg.updVf 3 fun f => { f with tdi := tdi, queues := [(2, h)] } with subject := { vf := 3, queue := 2, value := x } }
/-- A running queue of 64 records. -/
def running6 : HostQueue := { ring := 6, widx := 5, kick := 5, state := .running, consumed := [(0, 2), (1, 3), (2, 3), (3, 3), (4, 3), (5, 3), (6, 3), (7, 3)] }

theorem witness_HostWritesSetTheirRegisters_refused :
    ∃ (s : State) (v q : Nat) (h : HostQueue) (w : BitVec 32) (i : Instr), v = s.subject.vf ∧ q = s.subject.queue % 16 ∧ h = (s.vf v).queue q ∧ w = s.subject.value.truncate 32 ∧ s.hostAccepts v = false ∧ i ∈ [Instr.kick, .ring, .wbase] :=
  ⟨hosted .run running6 7, 3, 2, running6, 7, .kick, by decide +kernel⟩

theorem witness_HostWritesSetTheirRegisters_kick :
    ∃ (s : State) (v q : Nat) (h : HostQueue) (w : BitVec 32), v = s.subject.vf ∧ q = s.subject.queue % 16 ∧ h = (s.vf v).queue q ∧ w = s.subject.value.truncate 32 ∧ s.hostAccepts v = true ∧ h.state ≠ .lapped ∧ (w - s.readIndex v q).toNat ≤ 2 ^ h.z :=
  ⟨hosted .unlocked running6 7, 3, 2, running6, 7, by decide +kernel⟩

theorem witness_HostWritesSetTheirRegisters_lap :
    ∃ (s : State) (v q : Nat) (h : HostQueue) (w : BitVec 32), v = s.subject.vf ∧ q = s.subject.queue % 16 ∧ h = (s.vf v).queue q ∧ w = s.subject.value.truncate 32 ∧ s.hostAccepts v = true ∧ h.state ≠ .lapped ∧ 2 ^ h.z < (w - s.readIndex v q).toNat :=
  ⟨hosted .unlocked running6 67, 3, 2, running6, 67, by decide +kernel⟩

theorem witness_HostWritesSetTheirRegisters_ring :
    ∃ (s : State) (v q : Nat) (h : HostQueue) (w : BitVec 32), v = s.subject.vf ∧ q = s.subject.queue % 16 ∧ h = (s.vf v).queue q ∧ w = s.subject.value.truncate 32 ∧ s.hostAccepts v = true :=
  ⟨hosted .unlocked { ring := 6 } 0x1234567, 3, 2, { ring := 6 }, 0x1234567, by decide +kernel⟩

theorem witness_HostWritesSetTheirRegisters_msix :
    ∃ (s : State) (u off : Nat), s.subject.reg = .vfBar0 u off ∧ s.hostAccepts u = true ∧ 0x3000 ≤ off ∧ off < 0x3110 :=
  ⟨{ hosted .unlocked running6 7 with subject := { reg := .vfBar0 3 0x3008, value := 9 } }, 3, 0x3008, by decide +kernel⟩

theorem witness_HostWritesSetTheirRegisters_mailbox :
    ∃ (s : State) (i : Nat), i < 8 ∧ s.subject.reg = .pfBar0 (0x10000 + 8 * i) :=
  ⟨{ pkg with subject := { reg := .pfBar0 0x10038, value := 9 } }, 7, by decide +kernel⟩

theorem witness_HostWritesSetTheirRegisters_doorbell :
    ∃ (s : State), s.subject.reg = .pfBar0 0x10040 ∧ s.mailbox.busy = false ∧ s.mailbox.done = false :=
  ⟨{ pkg with subject := { reg := .pfBar0 0x10040, value := 9 }, mailbox := { req := [(0, 0x30006), (1, 4)] } }, by decide +kernel⟩

theorem witness_HostWritesSetTheirRegisters_selvedge :
    ∃ (s : State) (k : Nat), s.subject.reg = .selvedge k :=
  ⟨{ pkg with subject := { reg := .selvedge 4, value := 0xFFFFF } }, 4, by decide +kernel⟩

theorem witness_HostWritesSetTheirRegisters_trr :
    ∃ (s : State) (d : Nat), s.subject.reg = .trr d ∧ d < 8 :=
  ⟨{ pkg with subject := { reg := .trr 4, value := BitVec.allOnes 64 } }, 4, by decide +kernel⟩

theorem witness_HostWritesSetTheirRegisters_trrAbsent :
    ∃ (s : State) (d : Nat), s.subject.reg = .trr d ∧ 8 ≤ d :=
  ⟨{ pkg with subject := { reg := .trr 8, value := BitVec.allOnes 64 } }, 8, by decide +kernel⟩
/-- An access through BAR 2 to scratchpad 5, whose WBASE names the window. -/
def bar2 (acc : Access) (size : Nat) (off : Nat) : State :=
    { ctxOf (pkg.updVf 3 fun f => { f with wbase := winw 5 0 + 1 }) 5 (fun k => { k with scratch := cells 0x40 [0x0102030405060708, 9] }) with
      subject := { vf := 3, access := acc, size := size, addr := win 5 off % 2 ^ 34, value := 0x1112131415161718 } }

theorem witness_HostRequestsActOnTheVf_read :
    ∃ (s : State) (v a : Nat), v = s.subject.vf ∧ a = bitsOf (s.vf v).wbase 55 34 * 2 ^ 34 + s.subject.addr % 2 ^ 34 ∧ s.hostAccepts v = true ∧ bitOf (s.vf v).wbase 0 = true ∧ isWindow a = true ∧ isReservedVa a = false ∧ (∀ x, s.windowCause (s.hostWho v) x a = none) ∧ a % 8 + s.subject.size ≤ 8 ∧ s.subject.access = .load ∧ SMap.get false (s.windowCtx (s.hostWho v) (windowCore a)).spoison (windowOff a / 8) = false ∧ s.BufferOfSlots (s.dieCore v (s.leadDie (s.partOfVf v))) ∧ (∀ e ∈ (s.vf v).logRanges, ¬(e.2.base ≤ a ∧ a < e.2.limit)) :=
  ⟨bar2 .load 4 0x42, 3, win 5 0x42, by decide +kernel⟩

theorem witness_HostRequestsActOnTheVf_write :
    ∃ (s : State) (v a : Nat), v = s.subject.vf ∧ a = bitsOf (s.vf v).wbase 55 34 * 2 ^ 34 + s.subject.addr % 2 ^ 34 ∧ s.hostAccepts v = true ∧ bitOf (s.vf v).wbase 0 = true ∧ isWindow a = true ∧ isReservedVa a = false ∧ (∀ x, s.windowCause (s.hostWho v) x a = none) ∧ a % 8 + s.subject.size ≤ 8 ∧ s.subject.access = .store :=
  ⟨bar2 .store 4 0x42, 3, win 5 0x42, by decide +kernel⟩

theorem witness_HostRequestsActOnTheVf_rejected :
    ∃ (s : State) (v : Nat), v = s.subject.vf ∧ (s.hostAccepts v = false ∨ bitOf (s.vf v).wbase 0 = false) ∧ s.subject.access = .load :=
  ⟨{ (bar2 .load 4 0x42) with vfs := [(3, { bound := some 0 })] }, 3, by decide +kernel⟩

theorem witness_HostRequestsActOnTheVf_spdm :
    ∃ (s : State) (v : Nat), v = s.subject.vf ∧ (s.securityDown.contains 0 = false ∨ s.securityDown.contains 7 = false) :=
  ⟨{ pkg with subject := { vf := 3, bytes := [1, 2] }, securityDown := [7] }, 3, by decide +kernel⟩

theorem witness_HostRequestsActOnTheVf_lock :
    ∃ (s : State) (v : Nat), v = s.subject.vf ∧ (s.vf v).tdi = .unlocked :=
  ⟨{ pkg with subject := { vf := 3 } }, 3, by decide +kernel⟩

theorem witness_HostRequestsActOnTheVf_start :
    ∃ (s : State) (v : Nat), v = s.subject.vf ∧ (s.vf v).tdi = .locked :=
  ⟨hosted .locked running6 7, 3, by decide +kernel⟩
/-- A VF with much that a reset takes. -/
def laden (tdi : TdiState) : State :=
    let s : State := hosted tdi running6 7
    { (s.updVf 3 fun f => { f with hasRun := true, regs := { stvec := 8 }, ext := [{ cause := 3 }], deadline := some 4, keyGen := 2 }) with
      slots := [(80, shuttle .u [(5, 7)])], frames := [frame], home := [(3 * 2 ^ 56 + 9, .registered 5 0x24 3), (4 * 2 ^ 56 + 9, .registered 5 0x24 3)]
      starts := [{ vf := 3, core := 6, entry := 0, arg0 := 0, arg1 := 0, control := 0 }], mem := [(0x10000, 7)]
      watches := [{ slice := 5, vf := 3, word := 8, who := .slot 80 }] }

theorem witness_HostRequestsActOnTheVf_stop :
    ∃ (s : State) (v : Nat), v = s.subject.vf :=
  ⟨laden .run, 3, by decide +kernel⟩

theorem witness_HostRequestsActOnTheVf_reset :
    ∃ (s : State) (v : Nat), v = s.subject.vf ∧ (s.vf v).resetAt = none ∧ s.subject.flag = false :=
  ⟨laden .run, 3, by decide +kernel⟩

theorem witness_HostRequestsActOnTheVf_grace :
    ∃ (s : State) (v : Nat), v = s.subject.vf ∧ (s.vf v).resetAt = none ∧ s.subject.flag = true ∧ s.subject.size ≤ 1000 ∧ s.running v = false :=
  ⟨{ pkg with parts := [], subject := { vf := 3, flag := true, size := 1000 } }, 3, by decide +kernel⟩
/-- The package where queue 0 of VF 3 has its ring in scratchpad 5, with these words in it; `n` records are exposed and every die has
  consumed `at_` of them. -/
def ringed (ws : List Word) (n : Nat) (ats : SMap (BitVec 32)) (d : Nat) : State :=
    { ctxOf (pkg.updVf 3 fun f => { f with queues := [(0, { ring := winw 5 0 + 6, widx := BitVec.ofNat 32 n, kick := BitVec.ofNat 32 n, state := .running, consumed := ats })] }) 5 (fun k => { k with scratch := cells 0 ws }) with subject := { vf := 3, die := d } }
/-- The state after die d has read record k. -/
def afterRead (s : State) (d k : Nat) : State := stateOf (s.dieRead (s.dieWho 3 d) (win 5 0 + 64 * k) 8) s

theorem witness_DiesConsumeTheirRecords_fence :
    ∃ (s u : State) (v q d k : Nat) (r : List Word), v = s.subject.vf ∧ q = s.subject.queue ∧ d = s.subject.die ∧ s.RecordRead u v q d k r ∧ recKind r = 5 ∧ u.allThrough v q (((u.vf v).queue q).at_ d) = true :=
  ⟨ringed [5] 1 [] 2, afterRead (ringed [5] 1 [] 2) 2 0, 3, 0, 2, 0, [5, 0, 0, 0, 0, 0, 0, 0], by decide +kernel⟩
/-- The queue has its ring at 0x10000, where its record 1 has the kind given; die d has come to it. -/
def paged (kind : Word) (d : Nat) : State :=
    let h : HostQueue := { ring := 0x10006, widx := 2, kick := 2, state := .running, consumed := [(d, 1)] }
    { ((mapped (pkg.updVf 3 fun f => { f with queues := [(0, h)] }) 0x0F).write64 0x10040 kind).updDie d (fun x => { x with trr := 0x100001 }) with subject := { vf := 3, die := d } }

theorem witness_DiesConsumeTheirRecords_hold :
    ∃ (s : State) (v q d : Nat), v = s.subject.vf ∧ q = s.subject.queue ∧ d = s.subject.die ∧ s.dieHeld v q d = true ∧ q < 16 :=
  ⟨paged 5 2, 3, 0, 2, by decide +kernel⟩

theorem witness_DiesConsumeTheirRecords_pass :
    ∃ (s u : State) (v q d k : Nat) (r : List Word), v = s.subject.vf ∧ q = s.subject.queue ∧ d = s.subject.die ∧ s.RecordRead u v q d k r ∧ recKind r = 4 ∧ u.leadDie (u.partOfVf v) ≠ d :=
  ⟨ringed [4, winw 6 0x40, 7] 1 [] 2, afterRead (ringed [4, winw 6 0x40, 7] 1 [] 2) 2 0, 3, 0, 2, 0, [4, winw 6 0x40, 7, 0, 0, 0, 0, 0], by decide +kernel⟩
/-- A signal to scratchpad 5, with a host interrupt. -/
def signalling : List Word := [0x204, winw 5 0x50, 0x0102030405060708, 0, 0, 0, 0, 0]

theorem witness_DiesConsumeTheirRecords_signal :
    ∃ (s u : State) (v q d k : Nat) (r : List Word) (a : Nat), v = s.subject.vf ∧ q = s.subject.queue ∧ d = s.subject.die ∧ s.RecordRead u v q d k r ∧ recKind r = 4 ∧ u.leadDie (u.partOfVf v) = d ∧ u.allThrough v q (((u.vf v).queue q).at_ d) = true ∧ a = (r.getD 1 0).toNat ∧ isWindow a = true ∧ isReservedVa a = false ∧ u.windowTest (u.partOfVf v) (u.dieCore v d) 3 a = none ∧ bitOf (r.getD 0 0) 8 = false :=
  ⟨ringed signalling 1 [] 0, afterRead (ringed signalling 1 [] 0) 0 0, 3, 0, 0, 0, signalling, win 5 0x50, by decide +kernel⟩
/-- A wait for the word in scratchpad 5 after the record, for bits [15:0] to equal 9, or to be 9 at least. -/
def waitFor (ge : Bool) : List Word := [if ge then 0x103 else 3, winw 5 0x40, 9, 0xFFFF, 0, 0, 0, 0]

theorem witness_DiesConsumeTheirRecords_wait :
    ∃ (s u : State) (v q d k : Nat) (r : List Word) (a : Nat) (x : Word), v = s.subject.vf ∧ q = s.subject.queue ∧ d = s.subject.die ∧ s.RecordRead u v q d k r ∧ recKind r = 3 ∧ a = (r.getD 1 0).toNat ∧ isWindow a = true ∧ isReservedVa a = false ∧ u.windowTest (u.partOfVf v) (u.dieCore v d) 3 a = none ∧ u.BufferOfSlots (u.dieCore v d) ∧
      SMap.get false (u.core (windowCore a)).ctx.spoison (windowOff a / 8) = false ∧ u.locate v d a = none ∧
      x = BitVec.ofNat 64 (littleEndian (fun j => u.scratchByte (windowCore a) (windowOff a + j)) 8) &&& r.getD 3 0 :=
  ⟨ringed (waitFor false ++ [0x50009]) 1 [] 2, afterRead (ringed (waitFor false ++ [0x50009]) 1 [] 2) 2 0, 3, 0, 2, 0, waitFor false, win 5 0x40, 9, by decide +kernel⟩
/-- A start on core 6, named. -/
def startCore6 : List Word := [0x00060002, 0x2000, 7, 9, 0, 0, 0, 0]
/-- The same placed on some matrix core. -/
def startMatrix : List Word := [0x10020002, 0x2000, 7, 9, 0, 0, 0, 0]

theorem witness_DiesConsumeTheirRecords_start :
    ∃ (s u : State) (v q d k : Nat) (r : List Word) (c j : Nat) (e : Start), v = s.subject.vf ∧ q = s.subject.queue ∧ d = s.subject.die ∧ s.RecordRead u v q d k r ∧ recKind r = 2 ∧ u.startTarget (u.partOfVf v) r k = some c ∧ u.ownerDie (u.partOfVf v) c = d ∧ bitsOf (r.getD 5 0) 8 0 = 0 ∧
      e.vf = v ∧ e.core = c ∧ e.entry = r.getD 1 0 ∧ e.arg0 = r.getD 2 0 ∧ e.arg1 = r.getD 3 0 ∧ e.control = r.getD 4 0 ∧ u.StartFits e j ∧ u.NoPins ∧
      (∀ a ∈ u.awaits, a.vf ≠ v ∨ a.due = false) :=
  ⟨ringed startCore6 1 [] 0, afterRead (ringed startCore6 1 [] 0) 0 0, 3, 0, 0, 0, startCore6, 6, 0, { vf := 3, core := 6, entry := 0x2000, arg0 := 7, arg1 := 9, control := 0 }, by
    refine ⟨?_, ?_, ?_, ?_, ?_, ?_, ?_, ?_, ?_, ?_, ?_, ?_, ?_, ?_, ?_, ?_, ?_⟩ <;> first | exact noPins_of (by decide +kernel) | decide +kernel⟩
/-- A SKEIN of one task, whose table follows the record; the task is for a vector core, with a counter in scratchpad 6. -/
def skein1 : List Word := [1, winw 5 0x40, 1, 0, 0, 0, 0, 0]
/-- Its task. -/
def task1 : List Word := [0x2000, 7, 9, 0, 1, winw 6 0, 0, 0]
/-- The state before. -/
def skeined : State := { ringed (skein1 ++ task1) 1 [] 0 with parts := [(0, { sections := 1, vfs := [3], running := some 3 })] }
/-- The task as its die takes it. -/
def taken1 : List (Word × Start) := valueOf (skeined.ownTasks 3 0 skein1 [task1] 0) []

theorem witness_DiesConsumeTheirRecords_skein :
    ∃ (s u : State) (v q d k : Nat) (r : List Word) (x y : State) (table : List (List Word)) (own : List (Word × Start)), v = s.subject.vf ∧ q = s.subject.queue ∧ d = s.subject.die ∧ s.RecordRead u v q d k r ∧ recKind r = 1 ∧ u.readTable (u.dieWho v d) (r.getD 1 0).toNat (r.getD 2 0).toNat = .ok x table ∧
      table.any (x.taskBad v d r) = false ∧ x.ownTasks v d r table 0 = .ok y own ∧ (∀ o ∈ own, o.1 ≠ 0) ∧ (∀ a ∈ y.awaits, a.vf ≠ v ∨ a.due = false) :=
  ⟨skeined, skeined, 3, 0, 0, 0, skein1, skeined, skeined, [task1], taken1, by decide +kernel⟩
/-- A task that waits for its counter in scratchpad 5. -/
def awaiting : Await := { id := 1, die := 0, vf := 3, counter := winw 5 0x40, start := { vf := 3, core := 6, entry := 0x2000, arg0 := 7, arg1 := 9, control := 0 }, queue := 0, index := 0, rt := 0 }
/-- The package where it waits, with the counter's value. -/
def counted (a : Await) (n : Word) : State := { ctxOf pkg 5 (fun k => { k with scratch := cells 0x40 [n] }) with awaits := [a], subject := { vf := 3 } }

theorem witness_DiesConsumeTheirRecords_task_later :
    ∃ (s : State) (v q : Nat) (a : Await) (j w : Nat), v = s.subject.vf ∧ q = s.subject.queue ∧ s.awaits = [a] ∧ a.vf = v ∧ s.running v = true ∧ s.StartFits a.start j ∧ s.NoPins ∧ a.start.vf = v ∧ a.due = false ∧ a.waits = none ∧ s.BufferOfSlots (s.dieCore v a.die) ∧ s.subject.item = 0 ∧ w = a.counter.toNat ∧ isWindow w = true ∧ isReservedVa w = false ∧
        s.windowTest (s.partOfVf v) (s.dieCore v a.die) 3 w = none ∧ SMap.get false (s.core (windowCore w)).ctx.spoison (windowOff w / 8) = false ∧
        w % 8 = 0 ∧ s.locate v a.die w = none ∧ 0 < (s.windowWord w 0).toInt :=
  ⟨counted awaiting 1, 3, 0, awaiting, 0, win 5 0x40, by
    refine ⟨?_, ?_, ?_, ?_, ?_, ?_, ?_, ?_, ?_, ?_, ?_, ?_, ?_, ?_, ?_, ?_, ?_, ?_, ?_, ?_⟩ <;> first | exact noPins_of (by decide +kernel) | decide +kernel⟩

theorem witness_DiesConsumeTheirRecords_task_now :
    ∃ (s : State) (v q : Nat) (a : Await) (j w : Nat), v = s.subject.vf ∧ q = s.subject.queue ∧ s.awaits = [a] ∧ a.vf = v ∧ s.running v = true ∧ s.StartFits a.start j ∧ s.NoPins ∧ a.start.vf = v ∧ a.due = false ∧ a.waits = none ∧ s.BufferOfSlots (s.dieCore v a.die) ∧ s.subject.item = 0 ∧ w = a.counter.toNat ∧ isWindow w = true ∧ isReservedVa w = false ∧
        s.windowTest (s.partOfVf v) (s.dieCore v a.die) 3 w = none ∧ SMap.get false (s.core (windowCore w)).ctx.spoison (windowOff w / 8) = false ∧
        w % 8 = 0 ∧ s.locate v a.die w = none ∧ (s.windowWord w 0).toInt ≤ 0 ∧ a.rt = 0 :=
  ⟨counted awaiting 0, 3, 0, awaiting, 0, win 5 0x40, by
    refine ⟨?_, ?_, ?_, ?_, ?_, ?_, ?_, ?_, ?_, ?_, ?_, ?_, ?_, ?_, ?_, ?_, ?_, ?_, ?_, ?_, ?_⟩ <;> first | exact noPins_of (by decide +kernel) | decide +kernel⟩

theorem witness_DiesConsumeTheirRecords_task_gate :
    ∃ (s : State) (v q : Nat) (a : Await) (j : Nat), v = s.subject.vf ∧ q = s.subject.queue ∧ s.awaits = [a] ∧ a.vf = v ∧ s.running v = true ∧ s.StartFits a.start j ∧ s.NoPins ∧ a.start.vf = v ∧ a.due = true ∧ s.fractionReaches v a.rt = true :=
  ⟨counted { awaiting with due := true, rt := 200 } 1, 3, 0, { awaiting with due := true, rt := 200 }, 0, by
    refine ⟨?_, ?_, ?_, ?_, ?_, ?_, ?_, ?_, ?_, ?_⟩ <;> first | exact noPins_of (by decide +kernel) | decide +kernel⟩

theorem witness_DiesConsumeTheirRecords_task_shut :
    ∃ (s : State) (v q : Nat) (a : Await) (j : Nat), v = s.subject.vf ∧ q = s.subject.queue ∧ s.awaits = [a] ∧ a.vf = v ∧ s.running v = true ∧ s.StartFits a.start j ∧ s.NoPins ∧ a.start.vf = v ∧ a.due = true ∧ a.rt ≠ 0 ∧ s.fractionReaches v a.rt = false :=
  ⟨(counted { awaiting with due := true, rt := 200 } 1).updVf 3 (fun f => { f with recorded := [1] }), 3, 0, { awaiting with due := true, rt := 200 }, 0, by
    refine ⟨?_, ?_, ?_, ?_, ?_, ?_, ?_, ?_, ?_, ?_, ?_⟩ <;> first | exact noPins_of (by decide +kernel) | decide +kernel⟩
/-- A queue parked on die 0 for page 1, which is resident. -/
def parkedQueue : State := { (mapped pkg 0x1F).updVf 3 (fun f => { f with queues := [(0, { ring := 6, state := .running, dies := [(0, .parked), (2, .waiting)], waits := [(0, 0x10001), (1, 0x20001)] })] }) with subject := { vf := 3 } }

theorem witness_DiesConsumeTheirRecords_task_rearm :
    ∃ (s : State) (v q x d : Nat), v = s.subject.vf ∧ q = s.subject.queue ∧ d = s.subject.die ∧ ((s.vf v).queue q).onDie d = .parked ∧ SMap.get 0 ((s.vf v).queue q).waits d = x ∧ x ≠ 0 ∧ s.isResident ((x - 1) / 65536) = true :=
  ⟨parkedQueue, 3, 0, 0x10001, 0, by decide +kernel⟩

theorem witness_DiesConsumeTheirRecords_task_poll :
    ∃ (s : State) (v q d : Nat), v = s.subject.vf ∧ q = s.subject.queue ∧ d = s.subject.die ∧ ((s.vf v).queue q).onDie d = .waiting :=
  ⟨hosted .unlocked { running6 with dies := [(0, .waiting)] } 0, 3, 2, 0, by decide +kernel⟩
/-- A call of a firmware service by the supervisor in slot 80. -/
def call (n : Nat) (args : List Word) : Request := { slot := some 80, vf := 3, number := BitVec.ofNat 64 n, args := args }
/-- The package where that call stands first. -/
def calling (n : Nat) (args : List Word) : State :=
    { on 5 .s [(11, 5)] with slots := [(80, { shuttle .s [(11, 5)] with life := .waiting, wait := some { kind := .firmware } })], requests := [call n args] }

theorem witness_SupervisorServicesAnswer_timer :
    ∃ (s s' : State) (r : Request) (rest : List Request) (v : Nat), s' = { s with requests := rest } ∧ v = r.vf ∧ s.Asks 0x01 r rest ∧ r.slot.isSome = true :=
  ⟨calling 1 [100], { calling 1 [100] with requests := [] }, call 1 [100], [], 3, by decide +kernel⟩

theorem witness_SupervisorServicesAnswer_information :
    ∃ (s s' : State) (r : Request) (rest : List Request) (v : Nat), s' = { s with requests := rest } ∧ v = r.vf ∧ s.Asks 0x02 r rest ∧ r.slot.isSome = true :=
  ⟨calling 2 [], { calling 2 [] with requests := [] }, call 2 [], [], 3, by decide +kernel⟩
/-- A table with a leaf in place. -/
def protecting (n : Nat) : State := { mapped (calling 3 [0x8000000, BitVec.ofNat 64 n, 0x1F]) 0x0F with requests := [call 3 [0x8000000, BitVec.ofNat 64 n, 0x1F]], cores := [(5, { plb := [{ vf := 3, region := 2, valid := true, r := true, w := true, x := true, u := true }] })] }

theorem witness_SupervisorServicesAnswer_protection :
    ∃ (s s' : State) (r : Request) (rest : List Request) (v base n region : Nat) (top : Word), s' = { s with requests := rest } ∧ v = r.vf ∧ s.Asks 0x03 r rest ∧ base = (r.a 1).toNat ∧ n = (r.a 2).toNat ∧ region = base / 2 ^ 26 ∧ base % 2 ^ 26 = 0 ∧
      region + n ≤ 2 ^ 30 ∧ (r.a 3).toNat < 256 ∧ (r.slot = none → (s.vf v).tdi.bound = false) ∧
      top = s.read64 (s.protTable v + 8 * (region / 65536)) :=
  ⟨protecting 1, { protecting 1 with requests := [] }, call 3 [0x8000000, 1, 0x1F], [], 3, 0x8000000, 1, 2, 0xBC05000001, by decide +kernel⟩
/-- A word that its owner has lost. -/
def clearing : State := { (mapped (calling 4 [0x10004, 4]) 0x0F).write64 0x10000 0x0102030405060708 with home := [(3 * 2 ^ 56 + 0x4001, .ownerLost 6 0x10004), (3 * 2 ^ 56 + 0x4002, .registered 6 0x10008 3)] }
/-- Where it lies. -/
def lostAt : Word × Nat × RangeEntry := (clearing.locate 3 0 0x10004).getD (0, 0, {})

theorem witness_SupervisorServicesAnswer_clearing :
    ∃ (s s' : State) (r : Request) (rest : List Request) (v wd : Nat) (e : Word) (ma : Nat) (k : RangeEntry) (c m : Nat), s' = { s with requests := rest } ∧ v = r.vf ∧ s.Asks 0x04 r rest ∧ r.slot.isSome = true ∧ wd < 2 ^ 54 ∧ (r.a 1).toNat = 4 * wd ∧ r.a 2 = 4 ∧
      SMap.wf .unregistered s.home = true ∧ s.homeState v wd = .ownerLost c m ∧ s.locate v 0 (4 * wd) = some (e, ma, k) ∧ s.KeyFits ma k.kidx :=
  ⟨clearing, { clearing with requests := [] }, call 4 [0x10004, 4], [], 3, 0x4001, lostAt.1, lostAt.2.1, lostAt.2.2, 6, 0x10004, by decide +kernel⟩

theorem witness_SupervisorServicesAnswer_queue :
    ∃ (s s' : State) (r : Request) (rest : List Request) (v q : Nat) (x : BitVec 32), s' = { s with requests := rest } ∧ v = r.vf ∧ s.Asks 0x05 r rest ∧ q = (r.a 1).toNat ∧ q < 16 ∧ (r.a 2).toNat < 2 ^ 32 ∧ x = (r.a 2).truncate 32 ∧ (∀ d ∈ s.partDies (s.partOfVf v), s.dieBusy v q d = false) ∧ (s.vf v).tdi ≠ .error :=
  ⟨(calling 5 [2, 9]).updVf 3 (fun f => { f with queues := [(2, running6)] }), { (calling 5 [2, 9]).updVf 3 (fun f => { f with queues := [(2, running6)] }) with requests := [] }, call 5 [2, 9], [], 3, 2, 9, by decide +kernel⟩
/-- The call for queue 2, on which die 0 waits for the page of its record. -/
def busyQueue : State :=
    (calling 5 [2, 9]).updVf 3 fun f => { f with queues := [(2, { running6 with consumed := [], waits := [(0, 1)] })] }

theorem witness_SupervisorServicesAnswer_queueBusy :
    ∃ (s : State) (r : Request) (rest : List Request) (v q : Nat), v = r.vf ∧ s.Asks 0x05 r rest ∧ q = (r.a 1).toNat ∧ q < 16 ∧ (r.a 2).toNat < 2 ^ 32 ∧ (∃ d ∈ s.partDies (s.partOfVf v), s.dieBusy v q d = true) :=
  ⟨busyQueue, call 5 [2, 9], [], 3, 2, by decide +kernel⟩
/-- A request of the host's PF. -/
def ask (n : Nat) (args : List Word) : Request := { slot := none, vf := 3, number := BitVec.ofNat 64 n, args := args }
/-- A state in which that request stands first. -/
def asked (s : State) (n : Nat) (args : List Word) : State := { s with requests := [ask n args], mailbox := { busy := true } }

theorem witness_SupervisorServicesAnswer_erratum :
    ∃ (s s' : State) (r : Request) (rest : List Request) (v : Nat), s' = { s with requests := rest } ∧ v = r.vf ∧ s.Asks 0x0D r rest ∧ (r.a 1).toNat < 8 :=
  ⟨asked { pkg with errata := [(7, 4)] } 0x0D [7], { asked { pkg with errata := [(7, 4)] } 0x0D [7] with requests := [] }, ask 0x0D [7], [], 3, by decide +kernel⟩

theorem witness_SupervisorServicesAnswer_routing :
    ∃ (s s' : State) (r : Request) (rest : List Request) (v w c : Nat), s' = { s with requests := rest } ∧ v = r.vf ∧ s.Asks 0x12 r rest ∧ w = (r.a 1).toNat ∧ c = (r.a 2).toNat ∧ w < 256 ∧ (r.slot.isSome = true → w = v) ∧
      (r.slot = none → (s.vf w).tdi.bound = false) ∧ s.tenantCore (s.partOfVf w) c = true ∧ s.isFenced c = false :=
  ⟨calling 0x12 [3, 6], { calling 0x12 [3, 6] with requests := [] }, call 0x12 [3, 6], [], 3, 3, 6, by decide +kernel⟩

theorem witness_SupervisorServicesAnswer_unknown :
    ∃ (s s' : State) (r : Request) (rest : List Request) (v n : Nat), s' = { s with requests := rest } ∧ v = r.vf ∧ s.Asks n r rest ∧ (n = 0 ∨ 0x12 < n) :=
  ⟨calling 0x13 [3, 6], { calling 0x13 [3, 6] with requests := [] }, call 0x13 [3, 6], [], 3, 0x13, by decide +kernel⟩

theorem witness_SupervisorServicesAnswer_queueOfError :
    ∃ (s s' : State) (r : Request) (rest : List Request) (v q : Nat), s' = { s with requests := rest } ∧ v = r.vf ∧ s.Asks 0x05 r rest ∧ q = (r.a 1).toNat ∧ q < 16 ∧ (r.a 2).toNat < 2 ^ 32 ∧ (∀ d ∈ s.partDies (s.partOfVf v), s.dieBusy v q d = false) ∧ (s.vf v).tdi = .error :=
  ⟨(calling 5 [2, 9]).updVf 3 (fun f => { f with tdi := .error, queues := [(2, running6)] }), { (calling 5 [2, 9]).updVf 3 (fun f => { f with tdi := .error, queues := [(2, running6)] }) with requests := [] }, call 5 [2, 9], [], 3, 2, by decide +kernel⟩
/-- The package with a range entry 2 of VF 3. -/
def ranged : State := pkg.updVf 3 fun f => { f with ranges := [(1, { w0 := 0x8000000000300000, w1 := 0x400000, w2 := 0x300000, w3 := 0xE03 }), (2, { w0 := 0x8000000000100000, w1 := 0x120000, w2 := 0x100000, w3 := 0xE03 })] }

theorem witness_PfServicesAnswer_remove :
    ∃ (s s' : State) (r : Request) (rest : List Request) (v i : Nat) (e : RangeEntry), s' = { s with requests := rest } ∧ v = (r.a 1).toNat ∧ r.slot = none ∧ v < 256 ∧ (s.vf v).tdi.bound = false ∧ s.Asks 0x06 r rest ∧ i = (r.a 2).toNat ∧ i < 48 ∧ argBad (r.a 3) 4 = false ∧
        e = (RangeEntry.mk (s.argWord (r.a 3) 0) (s.argWord (r.a 3) 1) (s.argWord (r.a 3) 2) (s.argWord (r.a 3) 3)).masked ∧ e.valid = false ∧ (SMap.get {} (s.vf v).ranges i : RangeEntry).valid = true :=
  ⟨asked ranged 6 [3, 2, 0x200000, 0], { asked ranged 6 [3, 2, 0x200000, 0] with requests := [] }, ask 6 [3, 2, 0x200000, 0], [], 3, 2, {}, by decide +kernel⟩
/-- A request to install an entry whose words lie at 0x200000. -/
def installing : State := asked (((ranged.write64 0x200000 0x8000000000500000).write64 0x200008 0x520000).write64 0x200010 0x500000 |>.write64 0x200018 0xFF00000000000E03) 6 [3, 7, 0x200000, 0]
/-- The entry. -/
def newEntry : RangeEntry := { w0 := 0x8000000000500000, w1 := 0x520000, w2 := 0x500000, w3 := 0xE03 }

theorem witness_PfServicesAnswer_install :
    ∃ (s s' : State) (r : Request) (rest : List Request) (v i : Nat) (e : RangeEntry), s' = { s with requests := rest } ∧ v = (r.a 1).toNat ∧ r.slot = none ∧ v < 256 ∧ (s.vf v).tdi.bound = false ∧ s.Asks 0x06 r rest ∧ i = (r.a 2).toNat ∧ i < 48 ∧ argBad (r.a 3) 4 = false ∧
        e = (RangeEntry.mk (s.argWord (r.a 3) 0) (s.argWord (r.a 3) 1) (s.argWord (r.a 3) 2) (s.argWord (r.a 3) 3)).masked ∧ e.valid = true ∧ e.formed = true ∧ (e.kidx = v ∨ e.kidx = 256) ∧ (SMap.get {} (s.vf v).ranges i : RangeEntry).valid = false ∧
          (∀ x ∈ (s.vf v).ranges, x.1 ≠ i → x.2.valid = true → e.limit ≤ x.2.base ∨ x.2.limit ≤ e.base) ∧ s.rangeLies e = true :=
  ⟨installing, { installing with requests := [] }, ask 6 [3, 7, 0x200000, 0], [], 3, 7, newEntry, by decide +kernel⟩

theorem witness_PfServicesAnswer_tier :
    ∃ (s s' : State) (r : Request) (rest : List Request) (v : Nat) (w0 w1 : Word), s' = { s with requests := rest } ∧ v = (r.a 1).toNat ∧ r.slot = none ∧ v < 256 ∧ (s.vf v).tdi.bound = false ∧ s.Asks 0x09 r rest ∧ w0 = r.a 2 ∧ w1 = r.a 3 &&& 0x101FF ∧ bitsOf w1 8 0 ≤ 256 ∧ (s.updVf v fun f => { f with tier0Next := some w0 }).allowSum ≤ 0xBC0000 :=
  ⟨asked pkg 9 [3, 0x500000007, 0x10040], { asked pkg 9 [3, 0x500000007, 0x10040] with requests := [] }, ask 9 [3, 0x500000007, 0x10040], [], 3, 0x500000007, 0x10040, by decide +kernel⟩

theorem witness_PfServicesAnswer_features :
    ∃ (s s' : State) (r : Request) (rest : List Request) (v : Nat), s' = { s with requests := rest } ∧ v = (r.a 1).toNat ∧ r.slot = none ∧ v < 256 ∧ (s.vf v).tdi.bound = false ∧ s.Asks 0x0A r rest :=
  ⟨asked pkg 0x0A [3, 255], { asked pkg 0x0A [3, 255] with requests := [] }, ask 0x0A [3, 255], [], 3, by decide +kernel⟩
/-- A request to form group 4 of two ranks whose words lie at 0x200000. -/
def grouping : State := asked (((pkg.write64 0x200000 0x1000000000001).write64 0x200008 3).write64 0x200010 0x7000000000002 |>.write64 0x200018 6) 0x11 [3, 4, 0x200000, 2]

theorem witness_PfServicesAnswer_group :
    ∃ (s s' : State) (r : Request) (rest : List Request) (v g n : Nat) (ranks : List (Nat × Nat)), s' = { s with requests := rest } ∧ v = (r.a 1).toNat ∧ r.slot = none ∧ v < 256 ∧ (s.vf v).tdi.bound = false ∧ s.Asks 0x11 r rest ∧ g = (r.a 2).toNat ∧ n = (r.a 4).toNat ∧ g < 64 ∧ 2 ≤ n ∧ n ≤ 1024 ∧ argBad (r.a 3) (2 * n) = false ∧
        ranks = ((List.range n).map fun i =>
          ((s.argWord (r.a 3) (2 * i)).toNat % 2 ^ 48, (s.argWord (r.a 3) (2 * i + 1)).toNat % 256)) ∧
        (∀ e ∈ (s.vf v).coll, e.2.held = false) :=
  ⟨grouping, { grouping with requests := [] }, ask 0x11 [3, 4, 0x200000, 2], [], 3, 4, 2, [(1, 3), (2, 6)], by decide +kernel⟩
/-- A request to scrub a frame that the descriptor at 0x200100 names. -/
def scrubbing : State := asked ((((pkg.write64 0x200100 1).write64 0x200108 0x20000).write64 0x200110 0x10000).write64 0x20008 77) 7 [1, 0x200100]

theorem witness_PfServicesAnswer_scrub :
    ∃ (s s' : State) (r : Request) (rest : List Request) (v : Nat) (d : Word), s' = { s with requests := rest } ∧ v = (r.a 1).toNat ∧ r.slot = none ∧ s.Asks 0x07 r rest ∧ d = r.a 2 ∧ argBad d 33 = false ∧ r.a 1 = 1 ∧ s.subject.flag = false ∧ 1 ≤ (s.argWord d 0).toNat ∧ (s.argWord d 0).toNat ≤ 16 ∧
        (∀ e ∈ s.scrubRanges d, e.1 % 65536 = 0 ∧ e.2 % 65536 = 0 ∧ s.framesExist e.1 e.2 = true ∧
          ∀ w ∈ s.vfs, ∀ x ∈ w.2.ranges, x.2.valid = true → x.2.mbase + (x.2.limit - x.2.base) ≤ e.1 ∨ e.1 + e.2 ≤ x.2.mbase) :=
  ⟨scrubbing, { scrubbing with requests := [] }, ask 7 [1, 0x200100], [], 1, 0x200100, by decide +kernel⟩
/-- A request to scrub the context of VF 7. -/
def scrubbing7 : State := asked ((pkg.write64 0x200100 7).write64 0x200108 0x7F) 7 [2, 0x200100]

theorem witness_PfServicesAnswer_scrubContext :
    ∃ (s s' : State) (r : Request) (rest : List Request) (v : Nat) (d : Word) (w mask : Nat), s' = { s with requests := rest } ∧ v = (r.a 1).toNat ∧ r.slot = none ∧ s.Asks 0x07 r rest ∧ d = r.a 2 ∧ argBad d 33 = false ∧ r.a 1 = 2 ∧ w = (s.argWord d 0).toNat ∧ mask = (s.argWord d 1).toNat ∧ w < 256 ∧ mask < 128 ∧ s.subject.flag = false ∧ s.running w = false ∧ (s.vf w).hasRun = false ∧
        (s.vf w).resetEpoch < 2 ^ 64 ∧ s.receiptSerial + 1 < 2 ^ 64 :=
  ⟨scrubbing7, { scrubbing7 with requests := [] }, ask 7 [2, 0x200100], [], 2, 0x200100, 7, 127, by decide +kernel⟩

theorem witness_PfServicesAnswer_logSelect :
    ∃ (s s' : State) (r : Request) (rest : List Request) (v : Nat), s' = { s with requests := rest } ∧ v = (r.a 1).toNat ∧ r.slot = none ∧ s.Asks 0x0B r rest ∧ v < 256 ∧ r.a 2 = 16 :=
  ⟨asked pkg 0x0B [3, 16], { asked pkg 0x0B [3, 16] with requests := [] }, ask 0x0B [3, 16], [], 3, by decide +kernel⟩

theorem witness_PfServicesAnswer_log :
    ∃ (s s' : State) (r : Request) (rest : List Request) (v : Nat), s' = { s with requests := rest } ∧ v = (r.a 1).toNat ∧ r.slot = none ∧ s.Asks 0x0B r rest ∧ v < 256 ∧ (r.a 2).toNat < 16 ∧ (r.a 3).toNat % 65536 = 0 ∧ (r.a 4).toNat % 65536 = 0 ∧ (r.a 4).toNat ≤ 2 ^ 56 ∧
      1 ≤ (r.a 5).toNat ∧ (r.a 5).toNat ≤ 1000 :=
  ⟨asked pkg 0x0B [3, 15, 0x10000, 0x20000, 1000], { asked pkg 0x0B [3, 15, 0x10000, 0x20000, 1000] with requests := [] }, ask 0x0B [3, 15, 0x10000, 0x20000, 1000], [], 3, by decide +kernel⟩

theorem witness_PfServicesAnswer_pageTable :
    ∃ (s s' : State) (r : Request) (rest : List Request) (t i : Nat), s' = { s with requests := rest } ∧ r.slot = none ∧ s.Asks 0x0C r rest ∧ t = (r.a 1).toNat ∧ i = (r.a 2).toNat ∧ t % 8192 = 0 ∧ i < 1024 ∧ inFwArea t = true :=
  ⟨asked pkg 0x0C [0xBC10000000, 1023, 0xFF], { asked pkg 0x0C [0xBC10000000, 1023, 0xFF] with requests := [] }, ask 0x0C [0xBC10000000, 1023, 0xFF], [], 0xBC10000000, 1023, by decide +kernel⟩

theorem witness_PfServicesAnswer_dump :
    ∃ (s s' : State) (r : Request) (rest : List Request) (o : Nat) (l : List Byte), s' = { s with requests := rest } ∧ r.slot = none ∧ s.Asks 0x0E r rest ∧ o = (r.a 1).toNat ∧ o % 65536 = 0 ∧ o < 2 ^ 30 ∧ s.dump = some l :=
  ⟨asked { pkg with dump := some [1, 2, 3, 4, 5, 6, 7, 8, 9] } 0x0E [0], { asked { pkg with dump := some [1, 2, 3, 4, 5, 6, 7, 8, 9] } 0x0E [0] with requests := [] }, ask 0x0E [0], [], 0, [1, 2, 3, 4, 5, 6, 7, 8, 9], by decide +kernel⟩

theorem witness_PfServicesAnswer_evacuate :
    ∃ (s s' : State) (r : Request) (rest : List Request) (v : Nat), s' = { s with requests := rest } ∧ v = (r.a 1).toNat ∧ r.slot = none ∧ s.Asks 0x0F r rest ∧ v < 32 ∧ (r.a 3).toNat < 32 ∧ (r.a 4).toNat < 2 ∧ (r.a 2).toNat < 2 ^ 48 ∧ (s.part v).vfs ≠ [] ∧
      (s.part v).evac = none ∧ (∀ w ∈ (s.part v).vfs, (s.vf w).tdi.bound = false) :=
  ⟨asked pkg 0x0F [0, 0x1234, 31, 1], { asked pkg 0x0F [0, 0x1234, 31, 1] with requests := [] }, ask 0x0F [0, 0x1234, 31, 1], [], 0, by decide +kernel⟩

theorem witness_PfServicesAnswer_open :
    ∃ (s s' : State) (r : Request) (rest : List Request) (v : Nat), s' = { s with requests := rest } ∧ v = (r.a 1).toNat ∧ r.slot = none ∧ s.Asks 0x10 r rest ∧ v < 32 ∧ (r.a 2).toNat < 2 ^ 48 ∧ (s.part v).sections ≠ 0 ∧ (s.part v).vfs = [] ∧ (s.part v).staged = [] :=
  ⟨asked { pkg with parts := [(0, { sections := 0xFFFF })] } 0x10 [0, 0x1234], { asked { pkg with parts := [(0, { sections := 0xFFFF })] } 0x10 [0, 0x1234] with requests := [] }, ask 0x10 [0, 0x1234], [], 0, by decide +kernel⟩

theorem witness_PfServicesAnswer_scrubFails :
    ∃ (s s' : State) (r : Request) (rest : List Request) (v : Nat) (d : Word) (w mask : Nat), s' = { s with requests := rest } ∧ v = (r.a 1).toNat ∧ r.slot = none ∧ s.Asks 0x07 r rest ∧ d = r.a 2 ∧ argBad d 33 = false ∧ r.a 1 = 2 ∧ w = (s.argWord d 0).toNat ∧ mask = (s.argWord d 1).toNat ∧ w < 256 ∧ mask < 128 ∧ s.subject.flag = true ∧ s.running w = false ∧ (s.vf w).hasRun = false ∧
        (s.vf w).resetEpoch < 2 ^ 64 ∧ s.receiptSerial + 1 < 2 ^ 64 :=
  ⟨{ scrubbing7 with subject := { flag := true } }, { scrubbing7 with requests := [], subject := { flag := true } }, ask 7 [2, 0x200100], [], 2, 0x200100, 7, 127, by decide +kernel⟩

theorem witness_PfServicesAnswer_dumpOfNone :
    ∃ (s s' : State) (r : Request) (rest : List Request) (o : Nat), s' = { s with requests := rest } ∧ r.slot = none ∧ s.Asks 0x0E r rest ∧ o = (r.a 1).toNat ∧ o % 65536 = 0 ∧ o < 2 ^ 30 ∧ s.dump = none :=
  ⟨asked pkg 0x0E [0x10000], { asked pkg 0x0E [0x10000] with requests := [] }, ask 0x0E [0x10000], [], 0x10000, by decide +kernel⟩

theorem witness_PfServicesAnswer_evacuateLocked :
    ∃ (s s' : State) (r : Request) (rest : List Request) (v : Nat), s' = { s with requests := rest } ∧ v = (r.a 1).toNat ∧ r.slot = none ∧ s.Asks 0x0F r rest ∧ v < 32 ∧ (r.a 3).toNat < 32 ∧ (r.a 4).toNat < 2 ∧ (r.a 2).toNat < 2 ^ 48 ∧ (∃ w ∈ (s.part v).vfs, (s.vf w).tdi.bound = true) :=
  ⟨asked (pkg.updVf 3 fun f => { f with tdi := .locked }) 0x0F [0, 0x1234, 31, 1], { asked (pkg.updVf 3 fun f => { f with tdi := .locked }) 0x0F [0, 0x1234, 31, 1] with requests := [] }, ask 0x0F [0, 0x1234, 31, 1], [], 0, by decide +kernel⟩
/-- A package of a trusted identity with an empty partition 1. -/
def trusted : State := { pkg with parts := [(0, { sections := 1, vfs := [3], running := some 3 }), (1, { sections := 2 })], identityTrusted := true }

theorem witness_PartitionServicesAnswer_bind :
    ∃ (s s' : State) (r : Request) (rest : List Request) (n v p : Nat), s' = { s with requests := rest } ∧ n = (r.a 1).toNat ∧ r.slot = none ∧ s.Asks 0x08 r rest ∧ n = 0 ∧ v = (r.a 2).toNat ∧ p = (r.a 3).toNat ∧ v < 256 ∧ p < 32 ∧ (s.vf v).tdi.bound = false ∧ s.identityTrusted = true ∧
      (s.vf v).bound = none ∧ s.stagedBind v = false ∧ (s.part p).vfs.length + (s.part p).staged.length < 64 ∧ (s.part p).sections ≠ 0 ∧
      (s.part p).importFrom = none :=
  ⟨asked trusted 8 [0, 7, 1, 0], { asked trusted 8 [0, 7, 1, 0] with requests := [] }, ask 8 [0, 7, 1, 0], [], 0, 7, 1, by decide +kernel⟩

theorem witness_PartitionServicesAnswer_unbind :
    ∃ (s s' : State) (r : Request) (rest : List Request) (n v p : Nat), s' = { s with requests := rest } ∧ n = (r.a 1).toNat ∧ r.slot = none ∧ s.Asks 0x08 r rest ∧ n = 1 ∧ v = (r.a 2).toNat ∧ v < 256 ∧ (s.vf v).tdi.bound = false ∧ (s.vf v).bound = some p :=
  ⟨asked trusted 8 [1, 3], { asked trusted 8 [1, 3] with requests := [] }, ask 8 [1, 3], [], 1, 3, 0, by decide +kernel⟩

theorem witness_PartitionServicesAnswer_mask :
    ∃ (s s' : State) (r : Request) (rest : List Request) (n p i : Nat), s' = { s with requests := rest } ∧ n = (r.a 1).toNat ∧ r.slot = none ∧ s.Asks 0x08 r rest ∧ n = 2 ∧ p = (r.a 2).toNat ∧ i = (r.a 3).toNat ∧ p < 32 ∧ i < 16 ∧ (r.a 4).toNat < 2 ^ 32 :=
  ⟨asked trusted 8 [2, 1, 15, 0xFFFFFFFF], { asked trusted 8 [2, 1, 15, 0xFFFFFFFF] with requests := [] }, ask 8 [2, 1, 15, 0xFFFFFFFF], [], 2, 1, 15, by decide +kernel⟩
/-- A schedule entry of VF 3, of 1000 microseconds. -/
def entry3 : Word := BitVec.ofNat 64 (3 * 2 ^ 56 + 1000 * 2 ^ 28)

theorem witness_PartitionServicesAnswer_entry :
    ∃ (s s' : State) (r : Request) (rest : List Request) (n p i : Nat) (l : List Word), s' = { s with requests := rest } ∧ n = (r.a 1).toNat ∧ r.slot = none ∧ s.Asks 0x08 r rest ∧ n = 3 ∧ p = (r.a 2).toNat ∧ i = (r.a 3).toNat ∧ p < 32 ∧ i < 64 ∧
      l = ((List.range (i + 1)).map fun k => if k = i then r.a 4 else (SMap.get 0 (s.part p).stagedEntries k : Word)) ∧ r.a 5 = 0 :=
  ⟨asked trusted 8 [3, 0, 1, entry3, 0], { asked trusted 8 [3, 0, 1, entry3, 0] with requests := [] }, ask 8 [3, 0, 1, entry3, 0], [], 3, 0, 1, [0, entry3], by decide +kernel⟩

theorem witness_PartitionServicesAnswer_commit :
    ∃ (s s' : State) (r : Request) (rest : List Request) (n p i : Nat) (l : List Word), s' = { s with requests := rest } ∧ n = (r.a 1).toNat ∧ r.slot = none ∧ s.Asks 0x08 r rest ∧ n = 3 ∧ p = (r.a 2).toNat ∧ i = (r.a 3).toNat ∧ p < 32 ∧ i < 64 ∧
      l = ((List.range (i + 1)).map fun k => if k = i then r.a 4 else (SMap.get 0 (s.part p).stagedEntries k : Word)) ∧ r.a 5 = 1 ∧ l.all (schedOk (s.part p).vfs) = true :=
  ⟨asked trusted 8 [3, 0, 0, entry3, 1], { asked trusted 8 [3, 0, 0, entry3, 1] with requests := [] }, ask 8 [3, 0, 0, entry3, 1], [], 3, 0, 0, [entry3], by decide +kernel⟩

theorem witness_PartitionServicesAnswer_refuse :
    ∃ (s s' : State) (r : Request) (rest : List Request) (n p i : Nat) (l : List Word), s' = { s with requests := rest } ∧ n = (r.a 1).toNat ∧ r.slot = none ∧ s.Asks 0x08 r rest ∧ n = 3 ∧ p = (r.a 2).toNat ∧ i = (r.a 3).toNat ∧ p < 32 ∧ i < 64 ∧
      l = ((List.range (i + 1)).map fun k => if k = i then r.a 4 else (SMap.get 0 (s.part p).stagedEntries k : Word)) ∧ r.a 5 = 1 ∧ l.all (schedOk (s.part p).vfs) = false :=
  ⟨asked trusted 8 [3, 0, 1, entry3, 1], { asked trusted 8 [3, 0, 1, entry3, 1] with requests := [] }, ask 8 [3, 0, 1, entry3, 1], [], 3, 0, 1, [0, entry3], by decide +kernel⟩

theorem witness_PartitionServicesAnswer_add :
    ∃ (s s' : State) (r : Request) (rest : List Request) (n p k : Nat), s' = { s with requests := rest } ∧ n = (r.a 1).toNat ∧ r.slot = none ∧ s.Asks 0x08 r rest ∧ n = 4 ∧ p = (r.a 2).toNat ∧ k = (r.a 3).toNat ∧ p < 32 ∧ k < 32 ∧ s.partOfSection k = 32 ∧
      (∀ x ∈ s.parts, Staged.addSection k ∉ x.2.staged) ∧ s.identityTrusted = true :=
  ⟨asked trusted 8 [4, 1, 2], { asked trusted 8 [4, 1, 2] with requests := [] }, ask 8 [4, 1, 2], [], 4, 1, 2, by decide +kernel⟩

theorem witness_PartitionServicesAnswer_removeSection :
    ∃ (s s' : State) (r : Request) (rest : List Request) (n p k : Nat), s' = { s with requests := rest } ∧ n = (r.a 1).toNat ∧ r.slot = none ∧ s.Asks 0x08 r rest ∧ n = 5 ∧ p = (r.a 2).toNat ∧ k = (r.a 3).toNat ∧ p < 32 ∧ k < 32 ∧ (s.part p).hasSection k = true ∧
      (∀ v ∈ (s.part p).vfs, s.quiescent v = true) ∧ ((s.part p).vfs = [] ∨ (∃ j < 32, (s.part p).hasSection j = true ∧ j ≠ k ∧ Staged.removeSection j ∉ (s.part p).staged)) :=
  ⟨asked trusted 8 [5, 1, 1], { asked trusted 8 [5, 1, 1] with requests := [] }, ask 8 [5, 1, 1], [], 5, 1, 1, by decide +kernel⟩

theorem witness_PartitionServicesAnswer_removeLast :
    ∃ (s s' : State) (r : Request) (rest : List Request) (n p k : Nat), s' = { s with requests := rest } ∧ n = (r.a 1).toNat ∧ r.slot = none ∧ s.Asks 0x08 r rest ∧ n = 5 ∧ p = (r.a 2).toNat ∧ k = (r.a 3).toNat ∧ p < 32 ∧ k < 32 ∧ (s.part p).hasSection k = true ∧
      (∀ v ∈ (s.part p).vfs, s.quiescent v = true) ∧ (s.part p).vfs ≠ [] ∧ (∀ j < 32, (s.part p).hasSection j = true → j = k) :=
  ⟨asked trusted 8 [5, 0, 0], { asked trusted 8 [5, 0, 0] with requests := [] }, ask 8 [5, 0, 0], [], 5, 0, 0, by decide +kernel⟩

theorem witness_PartitionServicesAnswer_read :
    ∃ (s s' : State) (r : Request) (rest : List Request) (n p : Nat), s' = { s with requests := rest } ∧ n = (r.a 1).toNat ∧ r.slot = none ∧ s.Asks 0x08 r rest ∧ n = 6 ∧ p = (r.a 2).toNat ∧ p < 32 :=
  ⟨asked trusted 8 [6, 1], { asked trusted 8 [6, 1] with requests := [] }, ask 8 [6, 1], [], 6, 1, by decide +kernel⟩
/-- A package whose partition 0 is being evacuated. -/
def leaving (run : Option Nat) : State := { pkg with parts := [(0, { sections := 1, vfs := [3], running := run, evac := some (0x1234, 5, 0) })], longs := [{ req := ask 0x0F [0, 0x1234, 5, 0] }] }

theorem witness_EvacuationsEndAndArrive_end :
    ∃ (s : State) (p : Nat) (l : LongService) (e : Nat × Nat × Nat), s.longs[s.subject.item]? = some l ∧ p = (l.req.a 1).toNat ∧ l.reply = none ∧ (s.part p).evac = some e ∧ (s.part p).leaving = [] ∧ (s.part p).running = none :=
  ⟨leaving none, 0, { req := ask 0x0F [0, 0x1234, 5, 0] }, (0x1234, 5, 0), by decide +kernel⟩

theorem witness_EvacuationsEndAndArrive_lost :
    ∃ (s : State) (p : Nat), p = s.subject.part ∧ (s.part p).evac.isSome = true ∧ (s.part p).leaving = [] :=
  ⟨leaving (some 3), 0, by decide +kernel⟩
/-- A package whose partition 1 is open for what arrives. -/
def arriving : State := { pkg with parts := [(1, { sections := 2, importFrom := some 0x1234 })], vfs := [], subject := { part := 1, addr := 0x10000, bytes := [1, 2, 3, 4] }, mem := [(0x10003, 9), (0x10004, 9)] }

theorem witness_EvacuationsEndAndArrive_pages :
    ∃ (s : State) (p : Nat), p = s.subject.part ∧ (s.part p).importFrom.isSome = true ∧ s.subject.images = [] ∧ (∀ i < s.subject.bytes.length, s.KeyFits (s.subject.addr + i) s.subject.vf) :=
  ⟨arriving, 1, by decide +kernel⟩
/-- What arrives of VF 7. -/
def image7 : ImportVf := { vf := 7, index := 0, regs := { stvec := 8 }, tier0 := 4, tier1 := 5, queues := [(2, running6)], recorded := [9], saved := { slots := [(80, shuttle .u [])] } }

theorem witness_EvacuationsEndAndArrive_image :
    ∃ (s : State) (p : Nat) (im : ImportVf), p = s.subject.part ∧ (s.part p).importFrom.isSome = true ∧ s.subject.images = [im] ∧ (s.vf im.vf).bound = none :=
  ⟨{ arriving with subject := { part := 1, images := [image7] } }, 1, image7, by decide +kernel⟩
/-- A schedule entry of a VF with a length and a lead, in microseconds. -/
def sched (v len lead : Nat) : Word := BitVec.ofNat 64 (v * 2 ^ 56 + len * 2 ^ 28 + lead * 2 ^ 18)
/-- A partition of one section with VFs 3 and 4, in which 3 runs. -/
def slicing : Partition := { sections := 1, vfs := [3, 4], running := some 3, schedule := [sched 3 100 20, sched 4 100 20], shared := true }
/-- The package with that partition, at a cycle. -/
def sliced (x : Partition) (n : Nat) : State := { pkg with parts := [(0, x)], vfs := [(3, { bound := some 0 }), (4, { bound := some 0 })], cycle := BitVec.ofNat 64 n }

theorem witness_PartitionsSwitchOnTime_notice :
    ∃ (s : State) (p : Nat) (x : Partition) (v : Nat) (e : Word), p = s.subject.part ∧ x = s.part p ∧ x.running = some v ∧ x.schedule[x.pos]? = some e ∧ bitsOf e 27 18 ≠ 0 ∧ x.noticed = false ∧ 1 < x.vfs.length ∧
      x.sliceStart + 850 * (bitsOf e 47 28 - bitsOf e 27 18) ≤ s.cycle.toNat :=
  ⟨sliced slicing 68000, 0, slicing, 3, sched 3 100 20, by decide +kernel⟩

theorem witness_PartitionsSwitchOnTime_bobbin :
    ∃ (s : State) (p : Nat) (x : Partition) (e : Word) (i : Nat) (n : Word) (v : Nat), p = s.subject.part ∧ x = s.part p ∧ x.schedule[x.pos]? = some e ∧ x.next x.vfs = some (i, n) ∧ v = bitsOf n 63 56 ∧ x.running ≠ some v ∧
      x.sliceStart + 850 * bitsOf e 47 28 ≤ s.cycle.toNat + 85000 * bitsOf n 17 8 :=
  ⟨sliced slicing 85000, 0, slicing, sched 3 100 20, 1, sched 4 100 20, 4, by decide +kernel⟩
/-- A partition in which VF 3 has not run. -/
def idle : Partition := { sections := 1, vfs := [3] }

theorem witness_PartitionsSwitchOnTime_first :
    ∃ (s : State) (p : Nat) (x : Partition) (v : Nat) (sv : SavedCtx), p = s.subject.part ∧ x = s.part p ∧ s.fatal = false ∧ x.sections ≠ 0 ∧ x.running = none ∧ x.vfs = [v] ∧ x.schedule = [] ∧ x.scheduleNext = none ∧ x.staged = [] ∧
      x.evac = none ∧ x.gen ≠ 0xFFFF ∧ (∀ e ∈ s.cores, e.2.lost = false) ∧ (∀ e ∈ s.slots, s.tenantSlot p e.1 = false) ∧ sv = (s.vf v).saved ∧ sv.queued = [] ∧ SMap.wf {} sv.slots = true :=
  ⟨{ pkg with parts := [(0, idle)], vfs := [(3, { bound := some 0, saved := { slots := [(80, shuttle .u [(5, 7)])] } })] }, 0, idle, 3, { slots := [(80, shuttle .u [(5, 7)])] }, by decide +kernel⟩
/-- The same partition with a second entry that names VF 4 only. -/
def ending : Partition := { slicing with schedule := [sched 3 100 20, BitVec.ofNat 64 (4 * 2 ^ 56)] }

theorem witness_PartitionsSwitchOnTime_next :
    ∃ (s : State) (p : Nat) (x : Partition) (v w : Nat) (e : Word), p = s.subject.part ∧ x = s.part p ∧ s.fatal = false ∧ x.sections ≠ 0 ∧ x.running = some v ∧ x.vfs = [v, w] ∧ v ≠ w ∧ x.schedule = [e, BitVec.ofNat 64 (w * 2 ^ 56)] ∧
      x.pos = 0 ∧ w < 256 ∧ bitsOf e 63 56 = v ∧ x.scheduleNext = none ∧ x.staged = [] ∧ x.evac = none ∧ x.gen ≠ 0xFFFF ∧ x.shared = true ∧
      x.sliceStart + 850 * bitsOf e 47 28 ≤ s.cycle.toNat ∧ s.slots = [] ∧ s.frames = [] ∧ s.pushes = [] ∧ s.cores = [] ∧ s.queued = [] ∧ s.offers = [] ∧
      (s.vf w).saved.queued = [] :=
  ⟨sliced ending 85000, 0, ending, 3, 4, sched 3 100 20, by decide +kernel⟩

theorem witness_PartitionsSwitchOnTime_gate :
    ∃ (s : State) (v : Nat), v = s.subject.vf ∧ s.running v = true ∧ (s.vf v).gated = true ∧ s.fractionReaches v (s.vf v).rr = true :=
  ⟨{ (on 5 .u []).updVf 3 (fun f => { f with gated := true, tier1 := 200 }) with subject := { vf := 3 }, slots := [(80, { shuttle .u [] with parked := true })] }, 3, by decide +kernel⟩

theorem witness_PartitionsSwitchOnTime_timer :
    ∃ (s : State) (v : Nat) (d : Word), v = s.subject.vf ∧ (s.vf v).deadline = some d ∧ d.toNat ≤ (s.timeOn (dieOf (s.vf v).intCore)).toNat ∧ s.running v = true :=
  ⟨{ pkg.updVf 3 (fun f => { f with deadline := some 0, intCore := 5 }) with subject := { vf := 3 }, cycle := 85000 }, 3, 0, by
    refine ⟨by decide +kernel, by decide +kernel, ?_, by decide +kernel⟩
    exact Nat.zero_le _⟩

theorem witness_PartitionsSwitchOnTime_log :
    ∃ (s : State) (v i : Nat) (g : LogRange), v = s.subject.vf ∧ (s.vf v).logWindow ≠ 0 ∧ (s.vf v).logStart + 850 * (1000 * (s.vf v).logWindow) ≤ s.cycle.toNat ∧
      (s.vf v).logRanges = [(i, g)] ∧ (s.vf v).logDropped = 0 ∧ (s.vf v).logPend = [] ∧ (s.vf v).logRing.length < 1024 :=
  ⟨{ pkg.updVf 3 (fun f => { f with logWindow := 1, logRanges := [(2, { base := 0, limit := 0x10000, counts := [(3, 4)] })] }) with subject := { vf := 3 }, cycle := 850000 }, 3, 2, { base := 0, limit := 0x10000, counts := [(3, 4)] }, by decide +kernel⟩
/-- Page 1 of VF 3 under four tables from 0x2000 on, with the bytes of its leaf at 0x8008 and what follows; HBM IPAs from 0x20000 on and far ones from 0x2000000 on. -/
def tiered (leaf : Memory) : State :=
    { ((pkg.updVf 3 fun f => { f with ranges := [(0, near), (1, farther)], tier0 := 0x500000000 }).updDie 0 fun d => { d with trr := 0x2001 }) with
      mem := [(0x2000, 0x01), (0x2001, 0x08), (0x4000, 0x01), (0x4001, 0x0c), (0x6000, 0x01), (0x6001, 0x10)] ++ leaf
      windows := [(0, { extent := 0x1000000 })], subject := { vf := 3, item := 0 } }
  where
    near : RangeEntry := { w0 := 0x8000000000020000, w1 := 0x1000000, w2 := 0x20000, w3 := 0xE03 }
    farther : RangeEntry := { w0 := 0x8000000002000000, w1 := 0x3000000, w2 := 0x1000000000000, w3 := 0xE03 }
/-- The page is on the far tier, and a pull of it is under way. -/
def pulled : State := { tiered [(0x8008, 0x03), (0x800a, 0x08), (0x800e, 0x14), (0x800f, 0x40), (0x1000000000000, 0x08), (0x1000000000001, 0x07), (0x1000000000002, 0x06), (0x1000000000003, 0x05), (0x1000000000004, 0x04), (0x1000000000005, 0x03), (0x1000000000006, 0x02), (0x1000000000007, 0x01)] with pulls := [{ vf := 3, page := 1, demand := true }] }

theorem witness_PagesMoveBetweenTiers_pull :
    ∃ (s : State) (v page at_ : Nat) (e : Word) (far ipa : Nat) (rf rn : RangeEntry) (i : Instr), s.pageLeaf page = some (e, at_) ∧ s.remotePage v page = false ∧ s.MemCanonical ∧ SMap.wf false s.poison = true ∧ s.rangeOf v far = some rf ∧ s.rangeOf v ipa = some rn ∧ rf.machine far % 65536 = 0 ∧ rn.machine ipa % 65536 = 0 ∧
      rf.machine far ≠ rn.machine ipa ∧ at_ / 65536 ≠ rn.machine ipa / 65536 ∧ (at_ + 7) / 65536 ≠ rn.machine ipa / 65536 ∧
      ipa % 65536 = 0 ∧ ipa < 2 ^ 56 ∧ pteTier e = 1 ∧ far = pteAddr e * 65536 ∧ s.farUp (rf.machine far) = true ∧ s.sickFrame (rf.machine far / 65536) = false ∧
        s.frameFor v rf.w3 = some (s, ipa) ∧ i ∈ [Instr.pagePull, .backgroundPull] ∧ 
          (i = .pagePull → s.pulls[s.subject.item]?.any (fun q => q.vf == v && q.page == page && (q.demand || !(s.demandAhead q.die))) = true) ∧
          (i = .backgroundPull → s.subject.vf = v ∧ (s.vf v).recorded = [page] ∧ s.demandAhead s.subject.die = false ∧
            (s.running v = true ∨ (s.part (s.partOfVf v)).soon s.cycle.toNat = some v)) :=
  ⟨pulled, 3, 1, 0x8008, BitVec.ofNat 64 (2 ^ 62 + 5 * 2 ^ 50 + 0x2000000 / 64 + 3), 0x2000000, 0x20000, tiered.farther, tiered.near, .pagePull, by
    have hl : pulled.leaves = [(0x10000, BitVec.ofNat 64 (2 ^ 62 + 5 * 2 ^ 50 + 0x2000000 / 64 + 3), 0, 0x8008)] := by
      rw [State.leaves_eq (by decide +kernel)]; decide +kernel
    have hu : pulled.usedRanges = [(0x1000000000000, 65536)] := by
      unfold State.usedRanges
      rw [hl]; decide +kernel
    have hi : pulled.freeIpa 3 false tiered.farther.w3 = some 0x20000 := by
      unfold State.freeIpa
      rw [hu]; decide +kernel
    have hf : pulled.frameFor 3 tiered.farther.w3 = some (pulled, 0x20000) := by
      unfold State.frameFor State.heldFrames
      rw [hl, hi]; decide +kernel
    refine ⟨?_, ?_, ?_, ?_, ?_, ?_, ?_, ?_, ?_, ?_, ?_, ?_, ?_, ?_, ?_, ?_, ?_, hf, ?_⟩ <;> decide +kernel⟩
/-- The page is in HBM, poisoned, with a clean copy on the far tier. -/
def restoring : State := { tiered [(0x8008, 0x03), (0x8009, 0x08), (0x800e, 0x14), (0x1000000000000, 0x08), (0x1000000000001, 0x07), (0x1000000000002, 0x06), (0x1000000000003, 0x05), (0x1000000000004, 0x04), (0x1000000000005, 0x03), (0x1000000000006, 0x02), (0x1000000000007, 0x01)] with clean := [(3, 1, 0x2000000)], poison := [(0x20008 / 8, true)] }

theorem witness_PagesMoveBetweenTiers_restore :
    ∃ (s : State) (v page at_ : Nat) (e : Word) (far ipa : Nat) (rf rn : RangeEntry) (n : Nat), s.pageLeaf page = some (e, at_) ∧ s.remotePage v page = false ∧ s.MemCanonical ∧ SMap.wf false s.poison = true ∧ s.rangeOf v far = some rf ∧ s.rangeOf v ipa = some rn ∧ rf.machine far % 65536 = 0 ∧ rn.machine ipa % 65536 = 0 ∧
      rf.machine far ≠ rn.machine ipa ∧ at_ / 65536 ≠ rn.machine ipa / 65536 ∧ (at_ + 7) / 65536 ≠ rn.machine ipa / 65536 ∧
      ipa % 65536 = 0 ∧ ipa < 2 ^ 56 ∧ s.clean[s.subject.item]? = some (v, page, far) ∧ ipa = pteAddr e * 65536 ∧ s.farUp (rf.machine far) = true ∧ s.sickFrame (rf.machine far / 65536) = false ∧ inHbm rn.mbase = true ∧ bitOf e 4 = false ∧ n < 8192 ∧
        s.poisoned (rn.machine ipa + 8 * n) = true :=
  ⟨restoring, 3, 1, 0x8008, BitVec.ofNat 64 (5 * 2 ^ 50 + 0x20000 / 64 + 3), 0x2000000, 0x20000, tiered.farther, tiered.near, 1, by decide +kernel⟩
/-- A shuttle waits for the page, whose pull fails. -/
def failing : State := { pulled with slots := [(80, { shuttle .u [] with life := .waiting, wait := some { kind := .pull 0x10008 } })] }

theorem witness_PagesMoveBetweenTiers_fail :
    ∃ (s : State) (v page at_ : Nat) (e : Word) (q : Pull) (k va : Nat), s.pageLeaf page = some (e, at_) ∧ s.remotePage v page = false ∧ s.MemCanonical ∧ SMap.wf false s.poison = true ∧ s.pulls[s.subject.item]? = some q ∧ q.vf = v ∧ q.page = page ∧ va / 65536 = page ∧ s.slots = [(k, s.slot k)] ∧
      (s.slot k).vf = v ∧ (s.slot k).life = .waiting ∧ (s.slot k).vrun = none ∧ (s.slot k).vq = [] ∧
      decodeWord (s.slot k).word = .reject .illegal ∧ (s.slot k).wait = some { kind := .pull va } ∧ s.PlainTrap k ∧
      s.sections = [] ∧ (s.vf v).queues = [] ∧ s.awaits = [] ∧ (s.vf v).coll = [] ∧ (s.vf v).hostWaits = [] ∧ s.records = [] ∧ (∀ e ∈ s.cores, e.2.ctx.qk = []) :=
  ⟨failing, 3, 1, 0x8008, BitVec.ofNat 64 (2 ^ 62 + 5 * 2 ^ 50 + 0x2000000 / 64 + 3), { vf := 3, page := 1, demand := true }, 80, 0x10008, by decide +kernel⟩
/-- VF 3 does not run, and may move pages down. -/
def lowering : State := { (tiered [(0x8008, 0x03), (0x8009, 0x08), (0x800e, 0x14)]).updVf 3 (fun f => { f with tier0 := 5 }) with parts := [], subject := { vf := 3, item := 1 } }

theorem witness_PagesMoveBetweenTiers_down :
    ∃ (s : State) (v page at_ : Nat) (e : Word) (ipa : Nat) (r : RangeEntry) (far : Nat) (rf : RangeEntry), s.pageLeaf page = some (e, at_) ∧ s.remotePage v page = false ∧ s.MemCanonical ∧ SMap.wf false s.poison = true ∧ v = s.subject.vf ∧ page = s.subject.item ∧ s.running v = false ∧ (s.vf v).pin = false ∧ s.NoPins ∧ ipa = pteAddr e * 65536 ∧ s.rangeOf v ipa = some r ∧
      pteTier e = 0 ∧ inHbm r.mbase = true ∧ r.kidx ≠ 256 ∧ s.freeIpa v true r.w3 = some far ∧ s.rangeOf v far = some rf ∧
      s.farFrames v < (s.vf v).quota ∧ s.farUp (rf.machine far) = true ∧ far % 65536 = 0 ∧ far < 2 ^ 56 :=
  ⟨lowering, 3, 1, 0x8008, BitVec.ofNat 64 (5 * 2 ^ 50 + 0x20000 / 64 + 3), 0x20000, tiered.near, 0x2000000, tiered.farther, by
    have hl : lowering.leaves = [(0x10000, BitVec.ofNat 64 (5 * 2 ^ 50 + 0x20000 / 64 + 3), 0, 0x8008)] := by
      rw [State.leaves_eq (by decide +kernel)]; decide +kernel
    have hu : lowering.usedRanges = [(0x20000, 65536)] := by
      unfold State.usedRanges
      rw [hl]; decide +kernel
    have hf : lowering.freeIpa 3 true tiered.near.w3 = some 0x2000000 := by
      unfold State.freeIpa
      rw [hu]; decide +kernel
    have hq : lowering.farFrames 3 < (lowering.vf 3).quota := by
      unfold State.farFrames State.pagesOf
      rw [hl]; decide +kernel
    refine ⟨?_, ?_, ?_, ?_, ?_, ?_, ?_, ?_, noPins_of (by decide +kernel), ?_, ?_, ?_, ?_, ?_, hf, ?_, hq, ?_⟩ <;> decide +kernel⟩
/-- VF 3 has shuttles, queues and matrix rows as its slice ends. -/
def endingFull : State :=
    { sliced ending 85000 with
      slots := [(80, { shuttle .u [(5, 7)] with vregs := [(9, 5)], masks := [(2, 3)], tl := 2 }), (81, shuttle .s []), (1120, shuttle .u [])]
      cores := [(5, { ctx := { vf := 3, units := 64, scratch := [(3, 4)], sip := 2 }, l1 := [(5, some 1)] }), (70, { ctx := { vf := 3, qk := [{ op := 1, issuer := 80 }], acc := [(3, 4)] }, bsram := [(6, 5)] })]
      sections := [(0, { vf := 3, ring := [(1, { c := 4 })] })] }

theorem witness_PartitionsSwitchOnTime_saves :
    ∃ (s : State) (p : Nat) (x : Partition) (v w : Nat) (e : Word), p = s.subject.part ∧ x = s.part p ∧ s.fatal = false ∧ x.sections ≠ 0 ∧ x.running = some v ∧ x.vfs = [v, w] ∧ v ≠ w ∧ x.schedule = [e, BitVec.ofNat 64 (w * 2 ^ 56)] ∧
      x.pos = 0 ∧ w < 256 ∧ bitsOf e 63 56 = v ∧ x.scheduleNext = none ∧ x.staged = [] ∧ x.evac = none ∧ x.gen ≠ 0xFFFF ∧ x.shared = true ∧
      x.sliceStart + 850 * bitsOf e 47 28 ≤ s.cycle.toNat ∧ s.frames = [] ∧ s.pushes = [] ∧ s.queued = [] ∧ s.offers = [] ∧ (s.vf w).saved = {} ∧
      SMap.wf {} s.slots = true ∧ SMap.wf {} s.cores = true ∧ SMap.wf {} s.sections = true ∧ (∀ y ∈ s.cores, y.2.sbuf = [] ∧ y.2.lost = false) ∧
      (∀ y ∈ s.slots, s.tenantCore p (y.1 / 16) = true ∧ y.2.life = .ready ∧ y.2.vq = [] ∧ y.2.vrun = none ∧ y.2.held = [] ∧ y.2.half = false ∧
        y.2.doneValue = none) :=
  ⟨endingFull, 0, ending, 3, 4, sched 3 100 20, by decide +kernel⟩

theorem witness_ReliabilityStepsAct_clean :
    ∃ (s : State), s.subject.item = 0 :=
  ⟨pkg, by decide +kernel⟩

theorem witness_ReliabilityStepsAct_corrected :
    ∃ (s : State) (c a : Nat) (hits : List Nat), c = s.subject.core ∧ a = s.subject.addr ∧ s.subject.item = 1 ∧ (∀ e ∈ (s.die s.subject.die).rows, e.1 = (c, a) → e.2 = hits) ∧ hits.length ≤ 6 :=
  ⟨{ pkg with subject := { item := 1, die := 3 } }, 0, 0, [], by decide +kernel⟩

theorem witness_ReliabilityStepsAct_poison :
    ∃ (s : State) (a : Nat), a = s.subject.addr ∧ s.subject.item = 2 ∧ machineExists a = true :=
  ⟨{ pkg with subject := { item := 2, addr := 0x1000C } }, 0x1000C, by decide +kernel⟩

theorem witness_ReliabilityStepsAct_accumulator :
    ∃ (s : State) (c a : Nat), c = s.subject.core ∧ a = s.subject.addr ∧ s.subject.item = 6 :=
  ⟨{ pkg with subject := { item := 6, core := 70, addr := 99 } }, 70, 99, by decide +kernel⟩

theorem witness_ReliabilityStepsAct_register :
    ∃ (s : State) (a : Nat), a = s.subject.addr ∧ s.subject.item = 10 ∧ a % 16 ≠ 0 ∧ (s.slot s.subjSlot).life ≠ .free :=
  ⟨{ (on 5 .u [(5, 7)]) with subject := { item := 10, core := 5, slot := 0, addr := 5 } }, 5, by decide +kernel⟩

theorem witness_ReliabilityStepsAct_mesh :
    ∃ (s : State) (c : Nat), c = s.subject.core ∧ s.subject.flag = false :=
  ⟨{ pkg with subject := { item := 2, core := 70 } }, 70, by decide +kernel⟩

theorem witness_ReliabilityStepsAct_fatal :
    ∃ (s : State) (i : Instr) (f : BitVec 10), s.fatal = false ∧ (i = Instr.meshLinkLoss ∧ s.subject.flag = true ∧ f = cause 0xF (s.subject.size % 8) 1 ∨
        i = Instr.fatalError ∧ s.subject.cause.toNat / 64 = 0xF ∧ f = s.subject.cause ∨
        i = Instr.patrolScrub ∧ s.subject.item = 7 ∧ f = cause 0xF 0 0) :=
  ⟨{ pkg with subject := { die := 2, cause := cause 0xF 0 0 } }, .fatalError, cause 0xF 0 0, by decide +kernel⟩

theorem witness_ReliabilityStepsAct_security :
    ∃ (s : State), (s.subject.die = 0 ∨ s.subject.die = 7) ∧ s.securityDown = [] :=
  ⟨{ pkg with subject := { die := 7 } }, by decide +kernel⟩
/-- Core 5 is lost with a shuttle, a store, a copy and a word that it owns. -/
def losing : State := { evictor with cores := [(5, { ctx := { vf := 3 }, l1 := [(0x4002, some 7)], sbuf := [storing] })] }

theorem witness_ReliabilityStepsAct_core :
    ∃ (s : State) (c v : Nat), c = s.subject.core ∧ v = (s.core c).ctx.vf ∧ coreExists c = true ∧ s.isFenced c = false ∧ s.fatal = false ∧ s.frames = [] ∧
      (∀ i < 16, bitOf (s.vfRegs (s.slot (c * 16 + i)).vf c).trec 0 = false) ∧ (s.core c).ctx.qk = [] :=
  ⟨losing, 5, 3, by decide +kernel⟩

theorem witness_ReliabilityStepsAct_planned :
    ∃ (s : State) (p x : Nat), s.fatal = false ∧ s.subject.fence = .core x ∧ p < 32 ∧ s.inPart p x = true :=
  ⟨{ pkg with subject := { fence := .core 6 } }, 0, 6, by decide +kernel⟩

theorem witness_ReliabilityStepsAct_beat :
    ∃ (s : State), s.subject.flag = true :=
  ⟨{ pkg with subject := { flag := true }, heartbeats := 2 }, by decide +kernel⟩

theorem witness_ReliabilityStepsAct_missed :
    ∃ (s : State), s.subject.flag = false ∧ s.heartbeats < 2 :=
  ⟨{ pkg with heartbeats := 1 }, by decide +kernel⟩

theorem witness_ReliabilityStepsAct_elected :
    ∃ (s : State) (old new : Nat) (rest : List (Nat × Nat)), s.subject.flag = false ∧ 2 ≤ s.heartbeats ∧ s.column = (old, 0) :: (new, 1) :: rest ∧ old ≠ new ∧ (∀ e ∈ rest, e.1 ≠ old ∧ e.2 ≠ 0 ∧ e ≠ (new, 1)) :=
  ⟨{ pkg with heartbeats := 2, column := [(0, 0), (1, 1), (2, 2)] }, 0, 1, [(2, 2)], by decide +kernel⟩

theorem witness_ReliabilityStepsAct_bringUp :
    ∃ (s : State), s.ready = false ∧ s.fatal = false :=
  ⟨State.reset, by decide +kernel⟩

theorem witness_ReliabilityStepsAct_up :
    ∃ (s : State), s.cxlDown.Nodup ∧ s.ueDown.Nodup :=
  ⟨{ pkg with cxlDown := [0, 3], ueDown := [1, 0] }, by decide +kernel⟩

theorem witness_ReliabilityStepsAct_counter :
    ∃ (s : State) (c i code : Nat), c = s.subject.core ∧ i = s.subject.item % 8 ∧ code = (SMap.get 0 (s.core c).ctx.pmsel i : BitVec 32).toNat % 4096 ∧ (code = 0x001 ∨ code = 0x00A) ∧
      SMap.get 0 (s.core c).ctx.pmc i = (0xFFFFFFFFFFFF : BitVec 48) ∧ s.running (s.core c).ctx.vf = true :=
  ⟨{ ctxOf pkg 5 (fun k => { k with pmsel := [(2, 0x80000001)], pmc := [(2, 0xFFFFFFFFFFFF)] }) with subject := { core := 5, item := 2 } }, 5, 2, 1, by decide +kernel⟩

theorem witness_ReliabilityStepsAct_saved :
    ∃ (s : State) (c a : Nat), c = s.subject.core ∧ a = s.subject.addr ∧ s.subject.item = 15 :=
  ⟨{ pkg with subject := { item := 15, core := 5, vf := 3, addr := 7 } }, 5, 7, by decide +kernel⟩

theorem witness_ReliabilityStepsAct_outside :
    ∃ (s : State) (x : Nat), s.fatal = false ∧ s.subject.fence = .core x ∧ (∀ p < 32, s.inPart p x = false) ∧ (SMap.get 0 s.spares (clusterOf x) : Nat) = 0 ∧ (s.part 32).vfs = [] :=
  ⟨{ pkg with parts := [], subject := { fence := .core 3000 } }, 3000, by decide +kernel⟩

theorem witness_ReliabilityStepsAct_repair :
    ∃ (s : State) (c a : Nat) (hits : List Nat), c = s.subject.core ∧ a = s.subject.addr ∧ s.subject.item = 1 ∧ (s.die s.subject.die).rows = [((c, a), hits)] ∧ 7 ≤ hits.length ∧
      (∀ h ∈ hits, s.cycle.toNat < h + 850 * 86400000000) :=
  ⟨{ pkg with dies := [(3, { rows := [((5, 9), [1, 2, 3, 4, 5, 6, 7])] })], subject := { item := 1, die := 3, core := 5, addr := 9 } }, 5, 9, [1, 2, 3, 4, 5, 6, 7], by decide +kernel⟩
/-- A reduction of two elements of 32 bits by addition. -/
def sumDesc : List Word := [0x401 + 4 * 2 ^ 16, winw 5 0x40, winw 5 0x80, 2, 9, 0, 0, 0]

theorem witness_CollectivesEndAtEveryRank_sum :
    ∃ (d : List Word) (e : EType) (free rank i n : Nat) (data : List (List Nat)), collOp d = 1 ∧ collRop d = 0 ∧ etypeOf (collType d) = some e ∧ e.isInt = true ∧ n = (d.getD 3 0).toNat ∧ i < n ∧ data ≠ [] ∧ (∀ l ∈ data, l.length = n ∧ ∀ x ∈ l, x < 2 ^ e.width) :=
  ⟨sumDesc, .i32, 0, 1, 1, 2, [[1, 0xFFFFFFFF], [5, 6]], by decide +kernel⟩
/-- A posted operation with a descriptor. -/
def posted (d : List Word) : CollEntry := { held := true, posts := 1, desc := d, core := 5, mode := .u }
/-- VF 3 is in group 4 with the ranks given, and has posted an operation on it in entry 0. -/
def collective (ranks : List (Nat × Nat)) (d : List Word) : State :=
    { (ctxOf pkg 5 fun k => { k with scratch := cells 0x40 [0x0000000700000003] }).updVf 3 (fun f => { f with groups := [(4, { ranks := ranks })], coll := [(0, posted d)] }) with subject := { vf := 3 } }
/-- Alone in the group. -/
def alone : State := collective [(Config.fabricAddress, 3)] sumDesc
/-- What the engine has read. -/
def gathered (s : State) : State := match s.gather ((s.vf 3).group 4) 4 0 ((s.vf 3).entry 0).desc s.subject.peers (List.range ((s.vf 3).group 4).ranks.length) with
    | .all u _ => u
    | _ => s
def gatheredData (s : State) : List (List Nat) := match s.gather ((s.vf 3).group 4) 4 0 ((s.vf 3).entry 0).desc s.subject.peers (List.range ((s.vf 3).group 4).ranks.length) with
    | .all _ d => d
    | _ => []
/-- And written. -/
def delivered (s : State) : State := stateOf (State.writeElts { (gathered s) with fresh := (gathered s).fresh + (sumDesc.getD 3 0).toNat * ((s.vf 3).group 4).ranks.length } ((posted sumDesc).who 3) (sumDesc.getD 2 0) 4 (resultAt sumDesc (gathered s).fresh 0 (gatheredData s)) 0) s
/-- The same by memory: VF 3 posts an ATOM on the word at 0x10000, alone in its group. -/
def atomDesc1 : List Word := [5 + 4 * 2 ^ 16, 0x10000, winw 5 0x80, 1, 9, 7, 3, 0]
def here2 : State := { ((mapped (collective [(Config.fabricAddress, 3)] atomDesc1) 0x1F).write64 0x10000 0x0000000700000003) with subject := { vf := 3 } }
def hx : Res Word := (gathered here2).engineAtomic ((posted atomDesc1).who 3) 0x10000 (atomValue atomDesc1)

theorem witness_CollectivesEndAtEveryRank_abort :
    ∃ (s : State) (v k : Nat) (e : CollEntry), v = s.subject.vf ∧ k = s.subject.item ∧ e = (s.vf v).entry k ∧ e.pending = true ∧ e.joint = none ∧ s.subject.flag = false :=
  ⟨{ collective [(99, 1)] sumDesc with subject := { vf := 3, size := 1 } }, 3, 0, posted sumDesc, by decide +kernel⟩
/-- What the engine reads and writes for VF 3, alone in its group. -/
def readSum : Res (List Nat) := alone.readElts ((posted sumDesc).who 3) (winw 5 0x40) 4 2 0
def writeSum : Res Unit := State.writeElts { (stateOf readSum alone) with fresh := (stateOf readSum alone).fresh + 2 } ((posted sumDesc).who 3) (winw 5 0x80) 4
    (resultAt sumDesc (stateOf readSum alone).fresh 0 [valueOf readSum []]) 0

theorem witness_CollectivesEndAtEveryRank_complete :
    ∃ (s : State) (v k : Nat) (e : CollEntry) (g : CollGroup) (r : Nat) (u w : State) (data : List (List Nat)), v = s.subject.vf ∧ k = s.subject.item ∧ e = (s.vf v).entry k ∧ g = (s.vf v).group (collGroup e.desc) ∧ e.pending = true ∧ e.joint = none ∧
      (s.vf v).opFirst e = true ∧ g.locals = [(r, v)] ∧ (s.vf v).findOp (collGroup e.desc) e.opnum = some (k, e) ∧
      s.gather g (collGroup e.desc) e.opnum e.desc s.subject.peers (List.range g.ranks.length) = .all u data ∧
      (u.vf v).findOp (collGroup e.desc) e.opnum = some (k, e) ∧ collOp e.desc ≠ 5 ∧ s.subject.flag = false ∧
        ({ u with fresh := u.fresh + (e.desc.getD 3 0).toNat * g.ranks.length * g.ranks.length }).writeElts (e.who v) (e.desc.getD 2 0) (collWidth e.desc)
          (resultAt e.desc u.fresh r data) 0 = .ok w () ∧ (w.vf v).entry k = e :=
  ⟨alone, 3, 0, posted sumDesc, { ranks := [(Config.fabricAddress, 3)] }, 0, stateOf readSum alone, stateOf writeSum alone, [valueOf readSum []], by
    have hr : readSum = .ok (stateOf readSum alone) (valueOf readSum []) := eq_okOf _ _ (by decide +kernel)
    have hw : writeSum = .ok (stateOf writeSum alone) () := eq_okOf _ () (by decide +kernel)
    have hf : (alone.vf 3).findOp 4 0 = some (0, posted sumDesc) := by decide +kernel
    have hp : (posted sumDesc).pending = true := by decide +kernel
    have ho : (alone.vf 3).opFirst (posted sumDesc) = true := by decide +kernel
    refine ⟨rfl, rfl, by decide +kernel, rfl, hp, rfl, ho, by simp [CollGroup.locals], hf, ?_, by decide +kernel, by decide +kernel, rfl,
      hw, by decide +kernel⟩
    have hc : collGroup (posted sumDesc).desc = 4 := by decide +kernel
    have hs : suppliedBy (posted sumDesc).desc 1 0 = 2 := by decide +kernel
    have hm : collWidth (posted sumDesc).desc = 4 := by decide +kernel
    show State.gather alone _ (collGroup (posted sumDesc).desc) 0 (posted sumDesc).desc [] [0] = _
    rw [hc]
    have hr' : alone.readElts ((posted sumDesc).who 3) ((posted sumDesc).desc[1]?.getD 0#64) 4 2 0 = _ := hr
    simp [State.gather, State.posted, State.readRanks, hf, hp, ho, hs, hm, hr']⟩
/-- An ATOM by addition on a word of the first of two ranks, which is another package. -/
def atomDesc : List Word := [5 + 4 * 2 ^ 16, winw 5 0x40, winw 5 0x80, 1, 9, 7, 3, 0]
/-- The two ranks. -/
def twoRanks : List (Nat × Nat) := [(Config.fabricAddress + 1, 1), (Config.fabricAddress, 3)]
/-- Its engine is told the old value, 77. -/
def atomThere : State := { collective twoRanks atomDesc with subject := { vf := 3, value := 77, peers := [{ rank := 0, op := 5, tag := 9, data := [] }] } }
/-- What is written here. -/
def writeAtom : Res Unit := atomThere.writeElts ((posted atomDesc).who 3) (winw 5 0x80) 8 [77] 0

theorem witness_CollectivesEndAtEveryRank_atom :
    ∃ (s : State) (v k : Nat) (e : CollEntry) (g : CollGroup) (r : Nat) (u w : State) (data : List (List Nat)) (a0 v0 : Nat), v = s.subject.vf ∧ k = s.subject.item ∧ e = (s.vf v).entry k ∧ g = (s.vf v).group (collGroup e.desc) ∧ e.pending = true ∧ e.joint = none ∧
      (s.vf v).opFirst e = true ∧ g.locals = [(r, v)] ∧ (s.vf v).findOp (collGroup e.desc) e.opnum = some (k, e) ∧
      s.gather g (collGroup e.desc) e.opnum e.desc s.subject.peers (List.range g.ranks.length) = .all u data ∧
      (u.vf v).findOp (collGroup e.desc) e.opnum = some (k, e) ∧ collOp e.desc = 5 ∧ s.subject.flag = false ∧ g.ranks.head? = some (a0, v0) ∧ a0 ≠ Config.fabricAddress ∧
        u.writeElts (e.who v) (e.desc.getD 2 0) 8 [s.subject.value.toNat] 0 = .ok w () ∧
        (w.vf v).entry k = e :=
  ⟨atomThere, 3, 0, posted atomDesc, { ranks := twoRanks }, 1, atomThere, stateOf writeAtom atomThere, [[], []], Config.fabricAddress + 1, 1, by
    have hw : writeAtom = .ok (stateOf writeAtom atomThere) () := eq_okOf _ () (by decide +kernel)
    have hf : (atomThere.vf 3).findOp 4 0 = some (0, posted atomDesc) := by decide +kernel
    have hp : (posted atomDesc).pending = true := by decide +kernel
    have ho : (atomThere.vf 3).opFirst (posted atomDesc) = true := by decide +kernel
    have hc : collGroup (posted atomDesc).desc = 4 := by decide +kernel
    have hs : suppliedBy (posted atomDesc).desc 2 1 = 0 := by decide +kernel
    have hm : collWidth (posted atomDesc).desc = 8 := by decide +kernel
    have h5 : collOp (posted atomDesc).desc = 5 := by decide +kernel
    refine ⟨rfl, rfl, by decide +kernel, rfl, hp, rfl, ho, ?_, hf, ?_, hf, by decide +kernel, rfl, rfl, by simp, hw, by decide +kernel⟩
    · simp only [CollGroup.locals, twoRanks]
      show List.filterMap _ [0, 1] = _
      simp
    · show State.gather atomThere _ (collGroup (posted atomDesc).desc) 0 (posted atomDesc).desc
        [{ rank := 0, op := 5, tag := 9, data := [] }] [0, 1] = _
      rw [hc]
      simp [State.gather, State.posted, State.readRanks, twoRanks, hf, hp, ho, hs, hm, h5, State.readElts]
      decide +kernel⟩
/-- What is read, added to and written of the word at 0x10000. -/
def atomHere : Res Word := here2.engineAtomic ((posted atomDesc1).who 3) 0x10000 (atomValue atomDesc1)
/-- The old value written here. -/
def writeHere : Res Unit := (stateOf atomHere here2).writeElts ((posted atomDesc1).who 3) (winw 5 0x80) 8 [(valueOf atomHere 0).toNat] 0

theorem witness_CollectivesEndAtEveryRank_atomHere :
    ∃ (s : State) (v k : Nat) (e : CollEntry) (g : CollGroup) (r : Nat) (u w : State) (data : List (List Nat)) (x : State) (old : Word), v = s.subject.vf ∧ k = s.subject.item ∧ e = (s.vf v).entry k ∧ g = (s.vf v).group (collGroup e.desc) ∧ e.pending = true ∧ e.joint = none ∧
      (s.vf v).opFirst e = true ∧ g.locals = [(r, v)] ∧ (s.vf v).findOp (collGroup e.desc) e.opnum = some (k, e) ∧
      s.gather g (collGroup e.desc) e.opnum e.desc s.subject.peers (List.range g.ranks.length) = .all u data ∧
      (u.vf v).findOp (collGroup e.desc) e.opnum = some (k, e) ∧ collOp e.desc = 5 ∧ s.subject.flag = false ∧ g.ranks.head? = some (Config.fabricAddress, v) ∧
        u.engineAtomic (e.who v) (e.desc.getD 1 0).toNat (atomValue e.desc) = .ok x old ∧
        (x.vf v).findOp (collGroup e.desc) e.opnum = some (k, e) ∧
        x.writeElts (e.who v) (e.desc.getD 2 0) 8 [old.toNat] 0 = .ok w () ∧ (w.vf v).entry k = e :=
  ⟨here2, 3, 0, posted atomDesc1, { ranks := [(Config.fabricAddress, 3)] }, 0, here2, stateOf writeHere here2, [[]], stateOf atomHere here2, valueOf atomHere 0, by
    have ha : atomHere = .ok (stateOf atomHere here2) (valueOf atomHere 0) := eq_okOf _ _ (by decide +kernel)
    have hw : writeHere = .ok (stateOf writeHere here2) () := eq_okOf _ () (by decide +kernel)
    have hf : (here2.vf 3).findOp 4 0 = some (0, posted atomDesc1) := by decide +kernel
    have hp : (posted atomDesc1).pending = true := by decide +kernel
    have ho : (here2.vf 3).opFirst (posted atomDesc1) = true := by decide +kernel
    have hc : collGroup (posted atomDesc1).desc = 4 := by decide +kernel
    have hs : suppliedBy (posted atomDesc1).desc 1 0 = 0 := by decide +kernel
    have hm : collWidth (posted atomDesc1).desc = 8 := by decide +kernel
    refine ⟨rfl, rfl, by decide +kernel, rfl, hp, rfl, ho, by simp [CollGroup.locals], hf, ?_, hf, by decide +kernel, rfl, rfl, ha, by decide +kernel, hw, by decide +kernel⟩
    show State.gather here2 _ (collGroup (posted atomDesc1).desc) 0 (posted atomDesc1).desc [] [0] = _
    rw [hc]
    simp [State.gather, State.posted, State.readRanks, hf, hp, ho, hs, hm, State.readElts]⟩
/-- The peer of rank 0 is silent. -/
def silent : State := { collective twoRanks sumDesc with subject := { vf := 3, addr := Config.fabricAddress + 1 } }

theorem witness_CollectivesEndAtEveryRank_timeout :
    ∃ (s : State) (v k : Nat) (e : CollEntry) (g : CollGroup) (r v0 : Nat), v = s.subject.vf ∧ k = s.subject.item ∧ e = (s.vf v).entry k ∧ g = (s.vf v).group (collGroup e.desc) ∧ e.pending = true ∧ e.joint = none ∧ g.ranks[r]? = some (s.subject.addr, v0) ∧ s.subject.addr ≠ Config.fabricAddress ∧ (∀ j < r, ∀ a w, g.ranks[j]? = some (a, w) → a ≠ s.subject.addr) :=
  ⟨silent, 3, 0, posted sumDesc, { ranks := twoRanks }, 0, 1, by
    refine ⟨rfl, rfl, by decide +kernel, rfl, by decide +kernel, rfl, rfl, by simp [silent], ?_⟩
    intro j hj
    omega⟩

theorem witness_EncodedInstructionsDecodeBack :
    ∃ (l : Bool) (i : Instr) (w : BitVec 32), wellFormed i = true ∧ encode l i = some w :=
  ⟨false, .addi 3 5 0x9A7, 0x9A728193, by decide +kernel⟩

theorem witness_StepsKeepMemoryCanonical :
    ∃ (s t : State), s.MemCanonical ∧ step s = .next t :=
  ⟨State.reset, outcome (step State.reset), by
    refine ⟨by decide +kernel, ?_⟩
    rfl⟩
/-- Slot 80 is due to issue `addi x3, x5, -0x659` from memory in M mode. -/
def due : State := { (on 5 .m [(5, 7)]) with mem := [(0x1000, 0x93), (0x1001, 0x81), (0x1002, 0x72), (0x1003, 0x9A)], agenda := [.issue 80, .tick 1], engines := true, focus := 0 }
/-- The same in U mode, through the tables. -/
def dueU : State :=
    let t : State := ({ (mapped (on 5 .u [(5, 7)]) 0x1F) with agenda := [.issue 80], engines := true } : State).write64 0x10008 0x9A728193
    t.updSlot 80 fun m => { m with sh := { m.sh with pc := 0x10008 } }
def dueAt (s : State) (i : Instr) : State :=
    match encode true i with | some w => s.write64 0x10008 (w.zeroExtend 64) | none => s
/-- The state whose issue is due. -/
def rest1 (s : State) : State := { s with agenda := s.agenda.tail, focus := 80 }
/-- Its core has selected its shuttle. -/
def chosen (s : State) : State := (rest1 s).select 80
def fetched (s : State) : State := stateOf ((chosen s).fetchWord ((chosen s).who 0) 0x10008) s

theorem witness_StepRunsTheDecodedInstruction_issue :
    ∃ (s r s' u : State) (k : Nat) (rest : List Move) (i : Instr) (w : BitVec 32), s.agenda = .issue k :: rest ∧ r = { s with agenda := rest, focus := k } ∧ s' = r.select k ∧ r.issuable k = true ∧ (r.slot k).doneValue = none ∧
    r.boundaryDue k = false ∧ r.selectable k = true ∧
    s'.fetchWord (s'.who 0) s'.sh.pc.toNat = .ok u w ∧ u.focus = k ∧ decodeWord w = .instr i ∧ s'.sh.pc.toNat % 8 = 0 ∧ isOpener w = false ∧
    (∀ e ∈ u.me.vpending, ∀ r ∈ xregsOf i, vecXd e.instr ≠ some r) ∧ u.sh.xbad = 0 ∧ pmcOf i = none ∧ bitsOf u.sh.tsw 31 24 = 0 :=
  ⟨due, rest1 due, chosen due, chosen due, 80, [.tick 1], .addi 3 5 0x9A7, 0x9A728193, by decide +kernel⟩
/-- Two cycles after its core has selected slot 80, the same slot is due again. -/
def tooEarly : State := { chosen due with agenda := [.issue 80, .tick 1], cycle := 2, arith := 2 }

theorem witness_StepRunsTheDecodedInstruction_passed :
    ∃ (s r : State) (k : Nat) (rest : List Move), s.agenda = .issue k :: rest ∧ r = { s with agenda := rest, focus := k } ∧ r.boundaryDue k = false ∧ r.selectable k = false :=
  ⟨tooEarly, rest1 tooEarly, 80, [.tick 1], by decide +kernel⟩

theorem witness_StepRunsTheDecodedInstruction_fetch :
    ∃ (s : State) (w : Who) (a : Nat), w.mode = .m ∧ machineExists a = true ∧ a % 4 = 0 :=
  ⟨due, { vf := 3, core := 5, mode := .m, agent := 0 }, 0x1000, by decide +kernel⟩

theorem witness_StepRunsTheDecodedInstruction_event :
    ∃ (s : State) (i : Instr) (u : Subject) (rest : List Move), s.agenda = .event i u :: rest ∧ hasWord i = false ∧ forShuttle i u = false :=
  ⟨{ pkg with agenda := [.event .patrolScrub { item := 1 }, .tick 3] }, .patrolScrub, { item := 1 }, [.tick 3], by decide +kernel⟩

theorem witness_StepRunsTheDecodedInstruction_forShuttle :
    ∃ (s : State) (i : Instr) (u : Subject) (rest : List Move) (k : Nat), s.agenda = .event i u :: rest ∧ hasWord i = false ∧ forShuttle i u = true ∧ k = u.core * 16 + u.slot % 16 ∧ s.issuable k = true ∧ (s.slot k).life = .ready :=
  ⟨{ due with agenda := [.event .cwpRead { core := 5 }] }, .cwpRead, { core := 5 }, [], 80, by decide +kernel⟩

theorem witness_StepRunsTheDecodedInstruction_next :
    ∃ (s : State) (k : Nat), s.agenda = [] ∧ s.fatal = false ∧ s.engines = false ∧ s.nextIssue = some k :=
  ⟨{ due with agenda := [], engines := false }, 80, by decide +kernel⟩
/-- Counter 2 of core 5 counts words issued, in both modes, from 7. -/
def dueCounting : State := ctxOf dueU 5 fun x => { x with pmsel := [(2, 0x30000002)], pmc := [(2, 7)] }

theorem witness_StepRunsTheDecodedInstruction_counts :
    ∃ (s r s' u : State) (k : Nat) (rest : List Move) (i : Instr) (w : BitVec 32), s.agenda = .issue k :: rest ∧ r = { s with agenda := rest, focus := k } ∧ s' = r.select k ∧ r.issuable k = true ∧ (r.slot k).doneValue = none ∧
    r.boundaryDue k = false ∧ r.selectable k = true ∧
    s'.fetchWord (s'.who 0) s'.sh.pc.toNat = .ok u w ∧ u.focus = k ∧ decodeWord w = .instr i ∧ s'.sh.pc.toNat % 8 = 0 ∧ isOpener w = false ∧
    (∀ e ∈ u.me.vpending, ∀ r ∈ xregsOf i, vecXd e.instr ≠ some r) ∧ u.sh.xbad = 0 ∧ pmcOf i = none ∧ bitsOf u.sh.tsw 31 24 = 0 ∧
    u.MayRun i ∧ u.decodeStops i = false ∧ u.valueStops i = false ∧ lateCause u.sh w = none ∧ (SMap.get 0 (u.core (k / 16)).ctx.pmsel 2 : BitVec 32).toNat % 4096 = 2 :=
  ⟨dueCounting, rest1 dueCounting, chosen dueCounting, fetched dueCounting, 80, [], .addi 3 5 0x9A7, 0x9A728193, by decide +kernel⟩

end Sys2Proof.Tests
end

/-! PROOFS. What a read of a part of the state gives after an update of it; the register-write steps (R8); and the register writes of the
host and of firmware (R341 to R347). -/

namespace Sys2Proof.Machine

/-! One part of the state updated: what reads back, and what is left alone. -/

/-- A change of one core is a change of that core only. -/
theorem State.updCore_onlyCore (s : State) (c : Nat) (f : Core → Core) : OnlyCore s c f (s.updCore c f) :=
  ⟨rfl, fun _ h => SMap.get_put_of_ne _ _ _ h, SMap.get_put_self _ _ _ _⟩
/-- The core just changed. -/
@[simp] theorem State.core_updCore_self (s : State) (c : Nat) (f : Core → Core) : (s.updCore c f).core c = f (s.core c) :=
  SMap.get_put_self _ _ _ _
/-- A change of the shuttle in focus is a change of that shuttle only. -/
theorem State.updSh_onlySh (s : State) (f : Shuttle → Shuttle) : OnlySh s f (s.updSh f) := ⟨s.updMe_onlySlot _, s.me_updSh f⟩
/-- The registers of the shuttle in focus after a write of one. -/
theorem State.x_setX (s : State) (r q : XReg) (v : Word) : (s.setX r v).x q = if q = r ∧ r ≠ 0 then v else s.x q := by
  rw [State.x, State.setX, State.sh_updSh, Shuttle.getX_setX]; rfl
/-- A change of one VF is a change of that VF only. -/
theorem State.updVf_onlyVf (s : State) (v : Nat) (f : Vf → Vf) : OnlyVf s v f (s.updVf v f) :=
  ⟨rfl, fun _ h => SMap.get_put_of_ne _ _ _ h, SMap.get_put_self _ _ _ _⟩
/-- The VF just changed. -/
@[simp] theorem State.vf_updVf_self (s : State) (v : Nat) (f : Vf → Vf) : (s.updVf v f).vf v = f (s.vf v) := SMap.get_put_self _ _ _ _
/-- A die after a change of one. -/
theorem State.die_updDie (s : State) (d e : Nat) (f : Die → Die) : (s.updDie d f).die e = if e = d then f (s.die d) else s.die e :=
  SMap.get_put _ _ _ _ _
/-- A queue of a VF after a change of one. -/
theorem Vf.queue_updQueue (f : Vf) (q p : Nat) (g : HostQueue → HostQueue) :
    (f.updQueue q g).queue p = if p = q then g (f.queue q) else f.queue p := SMap.get_put _ _ _ _ _
/-- A value read from a map of which every value has been changed alike, by a change that keeps the default. -/
theorem SMap.get_map {α : Type} {d : α} (g : α → α) (hd : g d = d) (m : SMap α) (k : Nat) :
    SMap.get d (m.map fun e => (e.1, g e.2)) k = g (SMap.get d m k) := by
  induction m with
  | nil => exact hd.symm
  | cons e m ih =>
    obtain ⟨j, v⟩ := e
    simp only [List.map_cons, SMap.get, ih]
    split <;> rfl

/-! Event counting and Discards (R215, R357) change cores only. -/

/-- A change of the context of a core changes cores only. -/
theorem State.updCtx_only (s : State) (c : Nat) (f : CoreCtx → CoreCtx) :
    s.updCtx c f = { s with cores := (s.updCtx c f).cores } := rfl
/-- Counting events changes cores only. -/
theorem State.countN_only (s : State) (c code n : Nat) (m : Option Mode) :
    s.countN c code n m = { s with cores := (s.countN c code n m).cores } := by
  unfold State.countN
  split
  · exact s.updCtx_only _ _
  · rfl
/-- Counting events on a core leaves its L1 alone. -/
theorem State.countN_l1 (s : State) (c code n : Nat) (m : Option Mode) : ((s.countN c code n m).core c).l1 = (s.core c).l1 := by
  unfold State.countN
  split
  · rw [State.updCtx, State.core_updCore_self]
  · rfl
/-- A Discard changes cores only. -/
theorem State.discardBut_only (s : State) (c : Nat) (m : Option Mode) (keep : List Nat) :
    s.discardBut c m keep = { s with cores := (s.discardBut c m keep).cores } := by
  unfold State.discardBut State.count; rw [State.countN_only]; rfl
/-- A Discard that keeps no word leaves the L1 of its core empty. -/
theorem State.discardBut_l1 (s : State) (c : Nat) (m : Option Mode) : ((s.discardBut c m []).core c).l1 = [] := by
  rw [State.discardBut, State.count, State.countN_l1, State.core_updCore_self]
  simp
/-- Where no load has been taken ahead, an acquire at cluster scope is a Discard. -/
theorem State.acquire_clu {s : State} (h : s.me.early = []) : s.acquire .clu = s.discardBut s.myCore (some s.sh.mode) [] := by
  have hf : s.forget s.focus = s := if_pos (by rw [show s.slot s.focus = s.me from rfl, h]; rfl)
  simp only [State.acquire, State.acquireBut, hf, reduceCtorEq, if_false]

/-! The register-write steps (R8, R16). -/

/-- A CSR of which S mode may write some field (R16): implemented, of no higher privilege, and not read-only. -/
def systemWritable (a : Nat) : Bool :=
  csrExists a && decide (a / 256 % 4 ≠ 3) && !([0x800, 0x801, 0x802, 0x803, 0x806, 0x808, 0x809].contains a) && !(isCwp a) && !(isCounter a)

/-- A register-write step above U mode, of a CSR that may be written there, makes its write and nothing else. -/
theorem State.csrStep_writes {s t : State} (a : Nat) (hv : s.VectorIdle) (hm : s.sh.mode ≠ .u) (ha : systemWritable a = true)
    (hw : s.csrWrite a s.subject.value = .inl t) : s.csrStep a = .next t := by
  simp only [systemWritable, Bool.and_eq_true, Bool.not_eq_true', decide_eq_true_eq] at ha
  obtain ⟨⟨⟨⟨hex, hlv⟩, hro⟩, hcwp⟩, hcnt⟩ := ha
  have hthere : s.csrThere a = true := by simp [State.csrThere, hex]
  have hpriv : s.csrPrivilege a true = false := by
    unfold State.csrPrivilege
    split
    · rfl
    · simp [hlv]
    · exact absurd ‹_› hm
  have hread : s.csrReadOnly a = false := by simp only [State.csrReadOnly, hro, hcwp, hcnt, beq_false_of_ne hm, Bool.and_false, Bool.or_self]
  simp [State.csrStep, hthere, hpriv, hread, hv.busy, hw]

/-- A write of a counter (R357). -/
theorem State.csrWrite_pmc (s : State) (v : Word) {n : Nat} (hn : n < 8) : s.csrWrite (0x820 + n) v =
    .inl (s.updCtx s.myCore fun x => { x with pmc := SMap.put 0 x.pmc n (v.truncate 48) }) := by
  interval_cases n <;> rfl
/-- A write of a counter's selector (R357): OV is cleared by writing 1. -/
theorem State.csrWrite_pmsel (s : State) (v : Word) {n : Nat} (hn : n < 8) : s.csrWrite (0x5C8 + n) v =
    .inl (s.updCtx s.myCore fun x => { x with
      pmsel := SMap.put 0 x.pmsel n ((v.truncate 32 &&& 0xB0000FFF) |||
        ((SMap.get 0 x.pmsel n : BitVec 32) &&& ~~~(v.truncate 32) &&& 0x40000000)) }) := by
  interval_cases n <;> rfl

/-- FCSR_ACCESS behind no vector instruction (R106). -/
theorem execFcsrAccess_idle {s : State} (hv : s.VectorIdle) : execFcsrAccess s =
    .next (s.updSh fun sh => if s.subject.flag then { sh with fcsr := s.subject.value.truncate 8 }
      else sh.setX s.subject.rd (sh.fcsr.zeroExtend 64)) := by
  rw [execFcsrAccess, hv.afterVector]
  split <;> rfl
/-- PMC_READ behind no vector instruction (R357). -/
theorem execPmcRead_idle {s : State} (hv : s.VectorIdle) : execPmcRead s =
    .next (s.setX s.subject.rd ((SMap.get 0 (s.core s.myCore).ctx.pmc (s.subject.item % 8) : BitVec 48).zeroExtend 64)) :=
  hv.afterVector _

/-- Changes that touch cores only, one after another, touch cores only. -/
theorem State.foldl_coresOnly {g : State → Nat → State} (hg : ∀ t k, g t k = { t with cores := (g t k).cores }) (l : List Nat) (s : State) :
    l.foldl g s = { s with cores := (l.foldl g s).cores } := by
  induction l generalizing s with
  | nil => rfl
  | cons k l ih => rw [List.foldl_cons, ih, hg]
/-- A change of the registers of the VF in focus (R81) changes the registers of that VF, and what cores see of them. -/
theorem State.writeVfRegs_only (s : State) (f : VfRegs → VfRegs) :
    s.writeVfRegs f = { s.updVf s.me.vf fun x => { x with regs := f x.regs } with cores := (s.writeVfRegs f).cores } := by
  unfold State.writeVfRegs
  dsimp only
  split
  · exact State.foldl_coresOnly (fun t k => by split <;> rfl) _ _
  · rw [State.updCore, State.foldl_coresOnly fun t k => rfl]; rfl

/-- A read of a copy write pointer with no deferred fault, of a channel of the partition (R234, R256). -/
theorem State.cwpRead_owned {s : State} {n : Nat} (hd : s.NoDeferred fun d => d.queue == n) (ho : s.Owns (channelOf s.myCore n).1)
    (f : State → Word → Out) :
    s.cwpRead n f = f (s.acquire .clu) ((s.sec (channelOf s.myCore n).1).chan (channelOf s.myCore n).2).pointer := by
  have hfilter : (s.me.deferred.filter fun d => d.queue == n) = [] := List.filter_eq_nil_iff.2 fun d h => by simp [hd d h]
  have hfirst : (s.me.firstDeferred fun d => d.queue == n) = none := by rw [Slot.firstDeferred, hfilter]; rfl
  unfold State.cwpRead
  rw [hfirst]
  exact if_pos ho

/-- CWP_READ with no deferred fault (R234, R256): the register holds the pointer, the L1 of the core has been discarded, and nothing
else but core counters differs. -/
theorem execCwpRead_owned {s : State} {n : Nat} (hn : n = s.subject.item % 16) (hv : s.VectorIdle)
    (ho : s.Owns (channelOf s.myCore n).1) (hd : s.NoDeferred fun d => d.queue == n) :
    ∃ t, execCwpRead s = .next t ∧ SlotsAndCores s t ∧ t.sh.pc = s.sh.pc ∧ (t.core s.myCore).l1 = [] ∧
      ∀ r, t.x r = if r = s.subject.rd ∧ r ≠ 0 then
        ((s.sec (channelOf s.myCore n).1).chan (channelOf s.myCore n).2).pointer else s.x r := by
  obtain ⟨-, -, -, hearly⟩ := hv
  have honly := s.discardBut_only s.myCore (some s.sh.mode) []
  have hl1 := s.discardBut_l1 s.myCore (some s.sh.mode)
  rw [← State.acquire_clu hearly] at honly hl1
  generalize hu : s.acquire .clu = u at honly hl1
  have hsh : u.sh = s.sh := by rw [honly]; rfl
  refine ⟨u.setX s.subject.rd ((s.sec (channelOf s.myCore n).1).chan (channelOf s.myCore n).2).pointer, ?_, ⟨?_, ?_⟩, ?_, hl1,
    fun r => ?_⟩
  · rw [execCwpRead, ← hn, State.cwpRead_owned hd ho, hu]
  · rw [honly]; rfl
  · rw [honly]; exact fun _ => rfl
  · rw [State.setX, State.sh_updSh, Shuttle.setX_pc, hsh]
  · rw [State.x_setX, State.x, hsh]
    exact if_congr (and_congr_right fun h => by rw [h]) rfl rfl

/-- Settles O29: each step is the CSR write of R16 at its address, which `State.csrStep_writes` makes; the reads, and the step that
brings a core the VF's registers, are evaluated as they stand. -/
theorem systemRegisterSteps : Obligations.SystemRegisterSteps := by
  unfold Obligations.SystemRegisterSteps
  rintro s v n c m rfl rfl rfl rfl hv
  have hn : s.subject.item % 8 < 8 := Nat.mod_lt _ (by decide)
  refine ⟨fun hm => ⟨fun hbad => ?tsw, fun hbad => ?vptrs, ?vresume, ?tcause, ?trec, ?sip, ?pmc, ?pmsel⟩, ?fcsr, ?pmcRead, fun ho hd => ?cwp,
    ?stvec⟩
  case tsw => exact ⟨_, State.csrStep_writes 0x5C2 hv hm (by decide) (if_neg (by simp [hbad])), s.updSh_onlySh _⟩
  case vptrs => exact ⟨_, State.csrStep_writes 0x804 hv hm (by decide) (if_neg (by simp [hbad])), s.updSh_onlySh _⟩
  case vresume => exact ⟨_, State.csrStep_writes 0x805 hv hm (by decide) rfl, s.updSh_onlySh _⟩
  case tcause => exact ⟨_, State.csrStep_writes 0x5C0 hv hm (by decide) rfl, s.updSh_onlySh _⟩
  case trec =>
    refine ⟨_, State.csrStep_writes 0x5C1 hv hm (by decide) rfl, ?_, fun w hw => ?_, ?_⟩
    · rw [State.writeVfRegs_only]; rfl
    · rw [State.writeVfRegs_only]; exact SMap.get_put_of_ne _ _ _ hw
    · rw [State.writeVfRegs_only]; exact SMap.get_put_self _ _ _ _
  case sip => exact ⟨_, State.csrStep_writes 0x144 hv hm (by decide) rfl, s.updCore_onlyCore _ _⟩
  case pmc =>
    exact ⟨_, State.csrStep_writes _ hv hm ((by decide : ∀ n < 8, systemWritable (0x820 + n) = true) _ hn) (s.csrWrite_pmc _ hn),
      s.updCore_onlyCore _ _⟩
  case pmsel =>
    exact ⟨_, State.csrStep_writes _ hv hm ((by decide : ∀ n < 8, systemWritable (0x5C8 + n) = true) _ hn) (s.csrWrite_pmsel _ hn),
      s.updCore_onlyCore _ _⟩
  case fcsr => exact ⟨_, execFcsrAccess_idle hv, s.updSh_onlySh _⟩
  case pmcRead => exact ⟨_, execPmcRead_idle hv, s.updSh_onlySh _⟩
  case cwp => exact execCwpRead_owned rfl hv ho hd
  case stvec =>
    refine ⟨_, rfl, s.updCore_onlyCore _ _, ?_⟩
    rw [State.vfRegs, State.core_updCore_self]; rfl

/-! The queues and external events of a VF (R85, R302). -/

/-- A change of one queue of a VF is a change of that queue only. -/
theorem State.updQueue_onlyQueue (s : State) (v q : Nat) (f : HostQueue → HostQueue) :
    OnlyQueue s v q f (s.updVf v fun g => g.updQueue q f) := by
  obtain ⟨honly, hothers, hself⟩ := s.updVf_onlyVf v fun g => g.updQueue q f
  refine ⟨honly, hothers, by rw [hself]; rfl, fun p => ?_⟩
  rw [hself, Vf.queue_updQueue]
  split
  · subst p; rfl
  · rfl
/-- Two changes of one queue are one. -/
theorem OnlyQueue.trans {s t u : State} {v q : Nat} {f g : HostQueue → HostQueue} (h : OnlyQueue s v q f t) (k : OnlyQueue t v q g u) :
    OnlyQueue s v q (fun x => g (f x)) u := by
  obtain ⟨h1, h2, h3, h4⟩ := h
  obtain ⟨k1, k2, k3, k4⟩ := k
  refine ⟨by rw [k1, h1], fun w hw => by rw [k2 w hw, h2 w hw], by rw [k3, h3], fun p => ?_⟩
  rw [k4, h4]
  split <;> rfl
/-- A change of a queue is any other that makes the same of what it held. -/
theorem OnlyQueue.congr {s t : State} {v q : Nat} {f g : HostQueue → HostQueue} (h : OnlyQueue s v q f t)
    (hfg : f ((s.vf v).queue q) = g ((s.vf v).queue q)) : OnlyQueue s v q g t := by
  obtain ⟨h1, h2, h3, h4⟩ := h
  refine ⟨h1, h2, h3, fun p => ?_⟩
  rw [h4]
  split
  · subst p; exact hfg
  · rfl
/-- A change of a queue, read back. -/
theorem OnlyQueue.queue_self {s t : State} {v q : Nat} {f : HostQueue → HostQueue} (h : OnlyQueue s v q f t) :
    (t.vf v).queue q = f ((s.vf v).queue q) := by
  obtain ⟨-, -, -, hqueue⟩ := h
  rw [hqueue, if_pos rfl]

/-- An external event leaves the queues of the VF alone. -/
@[simp] theorem Vf.addEvent_queue (f : Vf) (c : BitVec 10) (q p : Nat) : (f.addEvent c q).queue p = f.queue p := by
  unfold Vf.addEvent Vf.queue
  split <;> split <;> rfl
/-- An external event of a queue is held (R85). -/
theorem Vf.addEvent_holds (f : Vf) {c : BitVec 10} (hc : c ≠ cause 0xB 0 3) (q : Nat) :
    ∃ e ∈ (f.addEvent c q).ext, e.cause = c ∧ e.queue = q := by
  unfold Vf.addEvent
  rw [if_neg hc]
  split
  · next hheld =>
    obtain ⟨e, he, hq⟩ := List.any_eq_true.1 hheld
    refine ⟨{ e with cause := c }, List.mem_map.2 ⟨e, he, if_pos hq⟩, rfl, ?_⟩
    simp only [Bool.and_eq_true, beq_iff_eq] at hq
    exact hq.2
  · exact ⟨{ cause := c, queue := q }, List.mem_append_right _ (List.mem_singleton.2 rfl), rfl, rfl⟩

/-- A signal to a shuttle changes slots only. -/
theorem State.signal_only (s : State) (k : Nat) : s.signal k = { s with slots := (s.signal k).slots } := by
  unfold State.signal
  split
  · split <;> rfl
  · rfl
/-- The end of WFI on a core changes slots only. -/
theorem State.wakeWfi_only (s : State) (c : Nat) : s.wakeWfi c = { s with slots := (s.wakeWfi c).slots } := by
  unfold State.wakeWfi
  split
  · rfl
  · refine List.foldlRecOn (motive := fun t : State => t = { s with slots := t.slots }) _ _ rfl fun t ht k _ => ?_
    split
    · split
      · rw [State.updSlot, State.setSlot, State.signal_only, ht]
      · exact ht
    · exact ht
/-- The VF of an external event, after it. -/
theorem State.vf_extEvent_self (s : State) (v : Nat) (c : BitVec 10) (q : Nat) : (s.extEvent v c q).vf v = (s.vf v).addEvent c q := by
  rw [State.extEvent, State.wakeWfi_only]
  exact s.vf_updVf_self v fun f => f.addEvent c q
/-- An external event leaves every byte of memory alone. -/
@[simp] theorem State.byte_extEvent (s : State) (v : Nat) (c : BitVec 10) (q b : Nat) : (s.extEvent v c q).byte b = s.byte b := by
  rw [State.extEvent, State.wakeWfi_only]; rfl

/-! The writes of a VF's BAR 0 (R341 to R344). -/

/-- A write from a source that the VF does not accept changes nothing (R344). -/
theorem State.vfWrite_refused {s : State} {v : Nat} (h : s.hostAccepts v = false) (f : State → State) : s.vfWrite v f = .next s := by
  simp [State.vfWrite, h]
/-- A write from a source that the VF accepts is made (R344). -/
theorem State.vfWrite_accepted {s : State} {v : Nat} (h : s.hostAccepts v = true) (f : State → State) : s.vfWrite v f = .next (f s) := by
  simp [State.vfWrite, h]

/-- KICK within 2^Z of the read index (R342, R305): the queue shows the value, and the part's view moves by an advance of 1 to 2^Z. -/
theorem State.kick_exposes {s : State} {v q : Nat} {w : BitVec 32} (hl : ((s.vf v).queue q).state ≠ .lapped)
    (hw : (w - s.readIndex v q).toNat ≤ 2 ^ ((s.vf v).queue q).z) :
    OnlyQueue s v q (fun g => { g with kick := w, widx := if 1 ≤ (w - g.widx).toNat ∧ (w - g.widx).toNat ≤ 2 ^ g.z then w else g.widx })
      (s.kick v q w) := by
  have hkick := s.updQueue_onlyQueue v q fun h => { h with kick := w }
  unfold State.kick
  rw [if_neg hl]
  dsimp only
  rw [if_neg (Nat.not_lt.2 hw)]
  split
  · next hadvance => exact (hkick.trans (State.updQueue_onlyQueue _ v q fun h => { h with widx := w })).congr (by simp only [if_pos hadvance])
  · next hstays => exact hkick.congr (by simp only [if_neg hstays])

/-- KICK that laps the read index (R342, R305): the queue is Lapped, and its VF holds the event. -/
theorem State.kick_laps {s : State} {v q : Nat} {w : BitVec 32} (hl : ((s.vf v).queue q).state ≠ .lapped)
    (hw : 2 ^ ((s.vf v).queue q).z < (w - s.readIndex v q).toNat) :
    (∀ b, (s.kick v q w).byte b = s.byte b) ∧ (∃ e ∈ ((s.kick v q w).vf v).ext, e.cause = cause 0xE 3 0 ∧ e.queue = q) ∧
      ((s.kick v q w).vf v).queue q = { (s.vf v).queue q with kick := w, state := .lapped, cause := cause 0xE 3 0, stopAt := none } := by
  have hlap := (s.updQueue_onlyQueue v q fun h => { h with kick := w }).trans (State.updQueue_onlyQueue _ v q fun h =>
    { h with state := .lapped, cause := cause 0xE 3 0, stopAt := none })
  unfold State.kick
  rw [if_neg hl]
  dsimp only
  rw [if_pos hw]
  refine ⟨fun b => ?_, ?_, ?_⟩
  · rw [State.byte_extEvent]; rfl
  · rw [State.vf_extEvent_self]; exact Vf.addEvent_holds _ (by decide) q
  · rw [State.vf_extEvent_self, Vf.addEvent_queue]; exact hlap.queue_self

/-- A write of the MSI-X table of a VF (R341). -/
theorem execRegisterWrite_msix {s : State} {v off : Nat} (hreg : s.subject.reg = .vfBar0 v off) (ha : s.hostAccepts v = true)
    (hlo : 0x3000 ≤ off) (hhi : off < 0x3110) : execRegisterWrite s =
      .next (s.updVf v fun f => { f with msix := SMap.put 0 f.msix ((off - 0x3000) / 8) s.subject.value }) := by
  simp only [execRegisterWrite, hreg, State.vfWrite_accepted ha, if_pos (And.intro hlo hhi)]

/-! The writes of PF BAR 0 (R347). -/

/-- A write of PF BAR 0. -/
theorem execRegisterWrite_pfBar0 {s : State} {off : Nat} (hreg : s.subject.reg = .pfBar0 off) :
    execRegisterWrite s = .next (s.pfWrite off s.subject.value) := by
  simp only [execRegisterWrite, hreg]
/-- A write of a doubleword of the mailbox's request. -/
theorem State.pfWrite_request (s : State) {i : Nat} (hi : i < 8) (w : Word) :
    s.pfWrite (0x10000 + 8 * i) w = { s with mailbox := { s.mailbox with req := SMap.put 0 s.mailbox.req i w } } := by
  have hrange : 0x10000 ≤ 0x10000 + 8 * i ∧ 0x10000 + 8 * i < 0x10040 := by omega
  have hindex : (0x10000 + 8 * i - 0x10000) / 8 = i := by omega
  simp only [State.pfWrite, if_pos hrange, hindex]
/-- The doorbell of an idle mailbox posts its request. -/
theorem State.pfWrite_doorbell {s : State} (hbusy : s.mailbox.busy = false) (hdone : s.mailbox.done = false) (w : Word) :
    ∃ r, s.pfWrite 0x10040 w = { s with mailbox := { s.mailbox with busy := true }, requests := s.requests ++ [r] } ∧
      r.slot = none ∧ r.number.toNat = (SMap.get 0 s.mailbox.req 0 : Word).toNat % 256 ∧
      r.vf = (SMap.get 0 s.mailbox.req 0 : Word).toNat / 65536 % 256 ∧
      r.args = (List.range 5).map fun i => (SMap.get 0 s.mailbox.req (i + 1) : Word) := by
  refine ⟨{ slot := none, vf := bitsOf (SMap.get 0 s.mailbox.req 0) 23 16, number := BitVec.ofNat 64 (bitsOf (SMap.get 0 s.mailbox.req 0) 7 0),
            args := (List.range 5).map fun i => SMap.get 0 s.mailbox.req (i + 1) }, ?_, rfl, ?_, rfl, rfl⟩
  · simp only [State.pfWrite, hbusy, hdone]; rfl
  · rw [BitVec.toNat_ofNat, bitsOf]; omega

/-! The selvedge registers and the translation roots (R221, R292). -/

/-- A write of a selvedge register: its writable bits, of one of the 32 sections. -/
theorem execRegisterWrite_selvedge {s : State} {k : Nat} (hreg : s.subject.reg = .selvedge k) : execRegisterWrite s =
    .next (if k < 32 then { s with selvedge := SMap.put 0 s.selvedge k (s.subject.value.truncate 32 &&& 0xFF7F) } else s) := by
  simp only [execRegisterWrite, hreg]
/-- A write of the translation root of a die: of one of the 8 dies, with which every ATB entry is dropped. -/
theorem execRegisterWrite_trr {s : State} {d : Nat} (hreg : s.subject.reg = .trr d) : execRegisterWrite s =
    .next (if d < 8 then (s.updDie d fun x => { x with trr := s.subject.value &&& 0x000FFFFFFFFFE001 }).dropAtbs fun _ => true else s) := by
  simp only [execRegisterWrite, hreg]

/-- Every ATB entry dropped: those of the cores, of the copy channels, of the collective engines and of saved contexts. -/
theorem State.dropAtbs_all (s : State) : (s.dropAtbs fun _ => true) = { s with
    cores := s.cores.map fun e => (e.1, { e.2 with atb := [] })
    sections := channelsCleared s.sections
    vfs := s.vfs.map fun e => (e.1,
      { e.2 with collAtb := [], saved := { e.2.saved with sections := channelsCleared e.2.saved.sections } }) } := by
  simp only [State.dropAtbs, Bool.not_true, List.filter_false]
  rfl
/-- With every ATB entry dropped, the buffer of each core is empty. -/
theorem State.core_dropAtbs_all (s : State) (c : Nat) : (s.dropAtbs fun _ => true).core c = { s.core c with atb := [] } := by
  rw [State.dropAtbs_all]
  exact SMap.get_map (fun x : Core => { x with atb := [] }) rfl s.cores c
/-- With every ATB entry dropped, a VF's collective engine holds none, nor do the copy channels of its saved context. -/
theorem State.vf_dropAtbs_all (s : State) (v : Nat) : (s.dropAtbs fun _ => true).vf v =
    { s.vf v with collAtb := [], saved := { (s.vf v).saved with sections := channelsCleared (s.vf v).saved.sections } } := by
  rw [State.dropAtbs_all]
  exact SMap.get_map (fun x : Vf =>
    { x with collAtb := [], saved := { x.saved with sections := channelsCleared x.saved.sections } }) rfl s.vfs v

/-- Settles O45: each register write is the update of its register, once its source is accepted; the lap of a queue and the drop of
every ATB entry are the two that reach further. -/
theorem hostWritesSetTheirRegisters : Obligations.HostWritesSetTheirRegisters := by
  unfold Obligations.HostWritesSetTheirRegisters
  rintro s v q h w rfl rfl rfl rfl
  refine ⟨fun hrefused i hi => ?refused, fun haccepts => ⟨fun hl hw => ?kick, fun hl hw => ?lap, ?ring, ?wbase⟩,
    fun u off hreg haccepts hlo hhi => ?msix, fun i hi hreg => ?mailbox, fun hreg hbusy hdone => ?doorbell, fun k hreg => ?selvedge,
    fun d hreg => ⟨fun hd => ?trrAbsent, fun hd => ?trr⟩⟩
  case refused =>
    simp only [List.mem_cons, List.not_mem_nil, or_false] at hi
    obtain rfl | rfl | rfl := hi
    · exact (State.vfWrite_refused hrefused _ : execKick s = _)
    · exact (State.vfWrite_refused hrefused _ : execRing s = _)
    · exact (State.vfWrite_refused hrefused _ : execWbase s = _)
  case kick => exact ⟨_, (State.vfWrite_accepted haccepts _ : execKick s = _), State.kick_exposes hl hw⟩
  case lap => exact ⟨_, (State.vfWrite_accepted haccepts _ : execKick s = _), State.kick_laps hl hw⟩
  case ring =>
    have hz : bitsOf s.subject.value 4 0 = s.subject.value.toNat % 32 := by simp [bitsOf]
    refine ⟨_, (State.vfWrite_accepted haccepts _ : execRing s = _), ?_⟩
    simp only [hz]
    exact s.updQueue_onlyQueue _ _ _
  case wbase => exact ⟨_, (State.vfWrite_accepted haccepts _ : execWbase s = _), s.updVf_onlyVf _ _⟩
  case msix => exact ⟨_, execRegisterWrite_msix hreg haccepts hlo hhi, s.updVf_onlyVf _ _⟩
  case mailbox =>
    refine ⟨_, execRegisterWrite_pfBar0 hreg, ?_, fun j => ?_⟩
    · rw [State.pfWrite_request s hi]
    · rw [State.pfWrite_request s hi]; exact SMap.get_put _ _ _ _ _
  case doorbell =>
    obtain ⟨r, hpost, hr⟩ := State.pfWrite_doorbell hbusy hdone s.subject.value
    exact ⟨_, r, execRegisterWrite_pfBar0 hreg, hpost, hr⟩
  case selvedge =>
    refine ⟨_, execRegisterWrite_selvedge hreg, ?_, fun j => ?_⟩
    · split <;> rfl
    · by_cases hk : k < 32
      · simp only [hk, if_true, and_true]; exact SMap.get_put _ _ _ _ _
      · simp only [hk, if_false, and_false]
  case trrAbsent => exact (execRegisterWrite_trr hreg).trans (congrArg _ (if_neg (Nat.not_lt.2 hd)))
  case trr =>
    refine ⟨_, (execRegisterWrite_trr hreg).trans (congrArg _ (if_pos hd)), rfl, fun e => ?_, fun c => ?_, ?_, fun w => ?_⟩
    · exact s.die_updDie d e fun x => { x with trr := s.subject.value &&& 0x000FFFFFFFFFE001 }
    · exact State.core_dropAtbs_all _ c
    · rw [State.dropAtbs_all]; rfl
    · exact State.vf_dropAtbs_all _ w

end Sys2Proof.Machine

/-! PROOFS. The CSR instructions (R16), loads and stores of the firmware column (R15), and the starts, exits and migrations of shuttles
(R29 to R31, R70 to R72, R93 to R99). -/

namespace Sys2Proof.Machine

/-! The CSR instructions (R16, R61). -/

/-- What the address alone settles of a CSR of which S mode may write some field (R16). -/
theorem State.csr_of_systemWritable {s : State} {a : Nat} (hm : s.sh.mode = .s) (ha : systemWritable a = true) (w : Bool) :
    s.csrThere a = true ∧ s.csrPrivilege a w = false ∧ s.csrReadOnly a = false ∧ isCwp a = false := by
  simp only [systemWritable, Bool.and_eq_true, Bool.not_eq_true', decide_eq_true_eq] at ha
  obtain ⟨⟨⟨⟨hexists, hlevel⟩, hfixed⟩, hcwp⟩, hcounter⟩ := ha
  refine ⟨by simp [State.csrThere, hexists], ?_, ?_, hcwp⟩
  · simp [State.csrPrivilege, hm, hlevel]
  · simp only [State.csrReadOnly, hfixed, hcwp, hcounter, hm, Bool.or_self, Bool.false_or, Bool.and_eq_false_iff]
    exact .inr rfl

/-- A CSR instruction of S mode that only reads (R16). -/
theorem State.csrOp_reads {s : State} {a : BitVec 12} (hm : s.sh.mode = .s) (hv : s.VectorIdle) (ha : systemWritable a.toNat = true)
    (rd : XReg) (newv : Word → Word) : s.csrOp a rd false newv = .next (s.completeX rd (s.csrValue a.toNat)) := by
  obtain ⟨hthere, hpriv, -, hcwp⟩ := State.csr_of_systemWritable hm ha false
  simp [State.csrOp, hthere, hpriv, hcwp, hv.busy]

/-- A CSR instruction of S mode that reads and writes (R16). -/
theorem State.csrOp_writes {s t : State} {a : BitVec 12} (hm : s.sh.mode = .s) (hv : s.VectorIdle) (ha : systemWritable a.toNat = true)
    (rd : XReg) {newv : Word → Word} (hw : s.csrWrite a.toNat (newv (s.csrValue a.toNat)) = .inl t) :
    s.csrOp a rd true newv = .next (t.completeX rd (s.csrValue a.toNat)) := by
  obtain ⟨hthere, hpriv, hro, hcwp⟩ := State.csr_of_systemWritable hm ha true
  simp [State.csrOp, hthere, hpriv, hro, hcwp, hv.busy, hw]

/-- A CSR instruction whose address is not implemented (R16, R45). -/
theorem State.csrOp_missing {s : State} {a : BitVec 12} (hm : s.sh.mode ≠ .m) (ha : csrExists a.toNat = false) (rd : XReg) (w : Bool)
    (newv : Word → Word) : s.csrOp a rd w newv = s.raiseWord (cause 0 0 6) := by
  have hthere : s.csrThere a.toNat = false := by simp [State.csrThere, ha, hm]
  simp [State.csrOp, hthere]
/-- A CSR instruction that the mode does not allow (R16, R45). -/
theorem State.csrOp_privileged {s : State} {a : BitVec 12} {w : Bool} (ha : csrExists a.toNat = true)
    (hp : s.csrPrivilege a.toNat w = true) (rd : XReg) (newv : Word → Word) : s.csrOp a rd w newv = s.raiseWord (cause 0 0 3) := by
  simp [State.csrOp, State.csrThere, ha, hp]
/-- A write of a CSR that is read-only (R16, R45). -/
theorem State.csrOp_readOnly {s : State} {a : BitVec 12} (ha : csrExists a.toNat = true) (hp : s.csrPrivilege a.toNat true = false)
    (hr : s.csrReadOnly a.toNat = true) (rd : XReg) (newv : Word → Word) : s.csrOp a rd true newv = s.raiseWord (cause 0 0 6) := by
  simp [State.csrOp, State.csrThere, ha, hp, hr]

/-- Each of the six instructions is the one CSR operation, with its own rule of whether and what it writes (R61). -/
theorem exec_csrOps {rd rs1 : XReg} {u : BitVec 5} {csr : BitVec 12} {s : State} {e : Instr × Bool × (Word → Word)}
    (he : e ∈ csrOps rd rs1 u csr (s.x rs1)) : exec e.1 s = s.csrOp csr rd e.2.1 e.2.2 := by
  have hrs1 : (rs1 != 0) = decide (rs1 ≠ 0) := by rw [Bool.eq_iff_iff]; simp
  have hu : (u != 0) = decide (u ≠ 0) := by rw [Bool.eq_iff_iff]; simp
  simp only [csrOps, List.mem_cons, List.not_mem_nil, or_false] at he
  obtain rfl | rfl | rfl | rfl | rfl | rfl := he
  case inl | inr.inr.inr.inl => rfl
  case inr.inl | inr.inr.inl => simp only [← hrs1]; rfl
  case inr.inr.inr.inr.inl | inr.inr.inr.inr.inr => simp only [← hu]; rfl

/-- The CSRs that belong to the shuttle alone (R16): S mode may write them, each reads as its field, and its write changes neither
registers nor pc. -/
theorem shuttleCsrs_fields : ∀ c ∈ shuttleCsrs, systemWritable c.1.toNat = true ∧ (∀ s : State, s.csrValue c.1.toNat = c.2.1 s.sh) ∧
    (∀ (s : State) (v : Word), s.csrWrite c.1.toNat v = .inl (s.updSh fun sh => c.2.2 sh v)) ∧
    ∀ sh v, (c.2.2 sh v).x = sh.x ∧ (c.2.2 sh v).xbad = sh.xbad ∧ (c.2.2 sh v).pc = sh.pc := by
  intro c hc
  simp only [shuttleCsrs, List.mem_cons, List.not_mem_nil, or_false] at hc
  obtain rfl | rfl | rfl | rfl | rfl | rfl | rfl := hc <;>
    exact ⟨by decide, fun _ => rfl, fun _ _ => rfl, fun _ _ => ⟨rfl, rfl, rfl⟩⟩

/-- The published supervisor CSRs (R68). -/
def supervisorCsrs : List Nat := [0x100, 0x104, 0x105, 0x106, 0x140, 0x141, 0x142, 0x143, 0x144]
/-- Each is implemented, and above U mode. -/
theorem supervisorCsrs_privileged : ∀ a ∈ supervisorCsrs,
    csrExists a = true ∧ isCounter a = false ∧ isPmc a = false ∧ a / 256 % 4 ≠ 0 := by decide
/-- The read-only CSRs of the shuttle are implemented, and open to every mode (R16). -/
theorem readOnlyCsrs_open : ∀ a ∈ [0x800, 0x801, 0x802, 0x803, 0x806, 0x808, 0x809],
    csrExists a = true ∧ isCounter a = false ∧ isPmc a = false ∧ a / 256 % 4 = 0 := by decide

/-- Completing with a result behind a change of the shuttle in focus that leaves its registers and its pc alone. -/
theorem State.completeX_behind {s u : State} {sh : Shuttle} (hu : OnlySlot s u) (hme : u.me = { s.me with sh := sh }) (hx : sh.x = s.sh.x)
    (hbad : sh.xbad = s.sh.xbad) (hpc : sh.pc = s.sh.pc) (rd : XReg) (v : Word) :
    OnlySlot s (u.completeX rd v) ∧ (∀ r, (u.completeX rd v).x r = if r = rd ∧ rd ≠ 0 then v else s.x r) ∧
      (u.completeX rd v).me = { s.me with
        sh := { sh with x := (u.completeX rd v).sh.x, xbad := s.badAfter rd, pc := s.sh.pc + 4 }
        wait := none, earlier := none, completed := true, half := false, jumped := false } := by
  obtain ⟨honly, hme', hjumped, hpc', hbad', hx'⟩ := u.completeX_writes rd v
  have hsh : u.sh = sh := by rw [State.sh, hme]
  have hregs : ∀ r, u.x r = s.x r := fun r => by simp only [State.x, Shuttle.getX, hsh, hx]
  have hafter : u.badAfter rd = s.badAfter rd := by
    simp only [State.badAfter, Shuttle.setX, hsh]
    split <;> simp [hbad]
  refine ⟨hu.trans honly, fun r => by rw [hx', hregs], ?_⟩
  rw [hme', hjumped, hbad', hpc', hafter, hme, hsh, hpc]

/-- Settles O19: the seven CSRs are read and written as `shuttleCsrs_fields` says, and each refusal is decided by address, mode and access
alone. -/
theorem csrInstructionsReadAndWrite : Obligations.CsrInstructionsReadAndWrite := by
  unfold Obligations.CsrInstructionsReadAndWrite
  refine ⟨fun c hc rd rs1 u s hm hv e he => ?own, fun rd rs1 csr s hv hr hm => ⟨fun ha u e he => ?missing, fun hu ha => ?user, fun ha => ?fixed⟩⟩
  case own =>
    obtain ⟨ha, hvalue, hwrite, hkeeps⟩ := shuttleCsrs_fields c hc
    rw [exec_csrOps he, ← hvalue]
    generalize e.2.2 = newv
    cases e.2.1
    · obtain ⟨honly, hx, hme⟩ := State.completeX_behind (s := s) (u := s) ⟨rfl, fun _ _ => rfl, fun _ => rfl⟩ rfl rfl rfl rfl rd
        (s.csrValue c.1.toNat)
      exact ⟨_, State.csrOp_reads hm hv ha rd newv, honly, hx, hme⟩
    · obtain ⟨hkx, hkbad, hkpc⟩ := hkeeps s.sh (newv (s.csrValue c.1.toNat))
      obtain ⟨honly, hx, hme⟩ := State.completeX_behind (s.updMe_onlySlot _) (s.me_updSh fun sh => c.2.2 sh (newv (s.csrValue c.1.toNat)))
        hkx hkbad hkpc rd
        (s.csrValue c.1.toNat)
      exact ⟨_, State.csrOp_writes hm hv ha rd (hwrite s _), honly, hx, hme⟩
  case missing =>
    rw [exec_csrOps he, State.csrOp_missing hm ha]
    exact State.raise_entersS hv hm hr _ _
  case user =>
    have hmem : csr.toNat ∈ supervisorCsrs := List.mem_map_of_mem (f := BitVec.toNat) ha
    obtain ⟨hexists, hcounter, hpmc, hlevel⟩ := supervisorCsrs_privileged _ hmem
    have hpriv : s.csrPrivilege csr.toNat (rs1 != 0) = true := by simp [State.csrPrivilege, hu, hcounter, hpmc, hlevel]
    have hexec : exec (.csrrs rd rs1 csr) s = s.csrOp csr rd (rs1 != 0) fun old => old ||| s.x rs1 := rfl
    rw [hexec, State.csrOp_privileged hexists hpriv]
    exact State.raise_entersS hv hm hr _ _
  case fixed =>
    have hmem : csr.toNat ∈ [0x800, 0x801, 0x802, 0x803, 0x806, 0x808, 0x809] := List.mem_map_of_mem (f := BitVec.toNat) ha
    obtain ⟨hexists, hcounter, hpmc, hlevel⟩ := readOnlyCsrs_open _ hmem
    have hpriv : s.csrPrivilege csr.toNat true = false := by
      unfold State.csrPrivilege
      split
      · rfl
      · simp [hlevel]
      · simp [hcounter, hpmc, hlevel]
    have hro : s.csrReadOnly csr.toNat = true := by simp only [State.csrReadOnly, List.contains_iff_mem.2 hmem, Bool.true_or]
    have hexec : exec (.csrrw rd rs1 csr) s = s.csrOp csr rd true fun _ => s.x rs1 := rfl
    rw [hexec, State.csrOp_readOnly hexists hpriv hro]
    exact State.raise_entersS hv hm hr _ _

end Sys2Proof.Machine

namespace Sys2Proof.Machine

/-! Numbers of bytes, and the fields of an 8-byte block (R7, R63). -/

/-- A number of bytes is below the power of their count. -/
theorem littleEndian_lt (f : Nat → Byte) (n : Nat) : littleEndian f n < 2 ^ (8 * n) := by
  induction n with
  | zero => exact Nat.one_pos
  | succ n ih =>
    have hbyte : (f n).toNat < 2 ^ 8 := (f n).isLt
    calc littleEndian f n + (f n).toNat * 2 ^ (8 * n)
        < (1 + (f n).toNat) * 2 ^ (8 * n) := by rw [Nat.add_mul, Nat.one_mul]; exact Nat.add_lt_add_right ih _
      _ ≤ 2 ^ 8 * 2 ^ (8 * n) := Nat.mul_le_mul_right _ (by omega)
      _ = 2 ^ (8 * (n + 1)) := by rw [← Nat.pow_add]; congr 1; omega
/-- The bytes from the first m on stand above them. -/
theorem littleEndian_add (f : Nat → Byte) (m n : Nat) :
    littleEndian f (m + n) = littleEndian f m + 2 ^ (8 * m) * littleEndian (fun i => f (m + i)) n := by
  induction n with
  | zero => simp [littleEndian]
  | succ n ih =>
    rw [← Nat.add_assoc, littleEndian, ih, littleEndian, Nat.mul_add (8 : Nat), Nat.pow_add]
    ring
/-- A field of n bytes from byte o on. -/
theorem littleEndian_field (f : Nat → Byte) {o n m : Nat} (h : o + n ≤ m) :
    littleEndian f m / 2 ^ (8 * o) % 2 ^ (8 * n) = littleEndian (fun i => f (o + i)) n := by
  obtain ⟨k, rfl⟩ := Nat.exists_eq_add_of_le h
  rw [Nat.add_assoc, littleEndian_add, littleEndian_add, Nat.add_mul_div_left _ _ (Nat.two_pow_pos _),
    Nat.div_eq_of_lt (littleEndian_lt f o), Nat.zero_add, Nat.add_mul_mod_self_left, Nat.mod_eq_of_lt (littleEndian_lt _ n)]
/-- The word of 8 bytes is the number they make (R7). -/
theorem wordOf8_toNat (f : Nat → Byte) : (wordOf8 f).toNat = littleEndian f 8 := by
  have happend {w : Nat} (b : Byte) (x : BitVec w) : (b ++ x).toNat = x.toNat + b.toNat * 2 ^ w := by
    rw [BitVec.toNat_append, ← Nat.shiftLeft_add_eq_or_of_lt x.isLt, Nat.shiftLeft_eq, Nat.add_comm]
  simp only [wordOf8, happend, littleEndian]
  ring
/-- The field of n bytes at an address, out of its block (R63). -/
theorem fieldOf_wordOf8 (f : Nat → Byte) {a n : Nat} (h : a % 8 + n ≤ 8) :
    (fieldOf (wordOf8 f) a n).toNat = littleEndian (fun i => f (a % 8 + i)) n := by
  have hmask : (2 ^ (8 * n) - 1) % 2 ^ 64 = 2 ^ (8 * n) - 1 := by
    have := Nat.pow_le_pow_right (n := 2) (by decide) (show 8 * n ≤ 64 by omega)
    exact Nat.mod_eq_of_lt (by omega)
  rw [fieldOf, BitVec.toNat_and, BitVec.toNat_ushiftRight, BitVec.toNat_ofNat, hmask, Nat.and_two_pow_sub_one_eq_mod,
    Nat.shiftRight_eq_div_pow, wordOf8_toNat, littleEndian_field f h]
/-- The mask of n bytes from byte o on. -/
theorem byteMask_getLsbD {o n i : Nat} (hi : i < 8) : (byteMask o n).getLsbD i = decide (o ≤ i ∧ i < o + n) := by
  simp only [byteMask, BitVec.getLsbD_ofNat, Nat.testBit_mul_two_pow, Nat.testBit_two_pow_sub_one, hi, decide_true, Bool.true_and]
  by_cases ho : o ≤ i
  · simp only [ho, decide_true, Bool.true_and, true_and]
    exact decide_eq_decide.2 (by omega)
  · simp [ho]
/-- A byte of a value in its place in the block. -/
theorem byteAt_placeOf (v : Word) {a i : Nat} (hi : i < 8) (h : a % 8 ≤ i) : byteAt (placeOf v a) i = byteAt v (i - a % 8) := by
  refine BitVec.eq_of_getLsbD_eq fun j hj => ?_
  have hin : 8 * i + j < 64 := by omega
  have hat : 8 * i + j - 8 * (a % 8) = 8 * (i - a % 8) + j := by omega
  have hge : ¬ 8 * i + j < 8 * (a % 8) := by omega
  simp only [byteAt, placeOf, BitVec.getLsbD_extractLsb', BitVec.getLsbD_shiftLeft, hin, hat, hge, decide_true, decide_false, Bool.not_false,
    Bool.true_and]
/-- A masked write changes machine memory only. -/
theorem State.writeMask_only (s : State) (a : Nat) (v : Word) (m : BitVec 8) :
    s.writeMask a v m = { s with mem := (s.writeMask a v m).mem } :=
  List.foldlRecOn (motive := fun t : State => t = { s with mem := t.mem }) _ _ rfl fun t ht i _ => by
    split
    · rw [State.putByte, ht]
    · exact ht
/-- The bytes of memory after a store of n bytes to an address within one block (R63). -/
theorem State.byte_writeField (s : State) (v : Word) {a n : Nat} (h : a % 8 + n ≤ 8) (b : Nat) :
    (s.writeMask (a / 8 * 8) (placeOf v a) (byteMask (a % 8) n)).byte b = if a ≤ b ∧ b < a + n then byteAt v (b - a) else s.byte b := by
  have ha : a / 8 * 8 + a % 8 = a := Nat.div_add_mod' a 8
  rw [State.byte_writeMask]
  by_cases hb : a ≤ b ∧ b < a + n
  · have hi : b - a / 8 * 8 < 8 := by omega
    have hmask : (byteMask (a % 8) n).getLsbD (b - a / 8 * 8) = true := by
      rw [byteMask_getLsbD hi, decide_eq_true_eq]; omega
    rw [if_pos ⟨by omega, by omega, hmask⟩, if_pos hb, byteAt_placeOf v hi (by omega)]
    congr 1; omega
  · rw [if_neg hb, if_neg]
    rintro ⟨hlo, hhi, hmask⟩
    rw [byteMask_getLsbD (by omega), decide_eq_true_eq] at hmask
    omega

/-! Scalar loads and stores (R63), and those of M mode (R15, R300). -/

/-- Sign extension of the low bits of a value. -/
theorem sx_truncate (v : Word) (w : Nat) : sx (v.truncate w : BitVec w) = BitVec.ofInt 64 ((v.toNat : Int).bmod (2 ^ w)) := by
  rw [sx, BitVec.signExtend, BitVec.truncate_eq_setWidth, BitVec.toInt_setWidth]
/-- Each load is the one scalar load of its number of bytes, whose register value is a function of the number they make (R63). -/
theorem exec_loadOps {e : (XReg → XReg → BitVec 12 → Instr) × Nat × (Nat → Word)} (he : e ∈ loadOps) (rd rs1 : XReg) (imm : BitVec 12)
    (s : State) : exec (e.1 rd rs1 imm) s =
      s.scalarLoad rd (s.x rs1 + BitVec.ofInt 64 imm.toInt) e.2.1 fun v => e.2.2 v.toNat := by
  have hnumber : (fun v : Word => BitVec.ofNat 64 v.toNat) = id := funext fun v => by simp
  simp only [loadOps, List.mem_cons, List.not_mem_nil, or_false] at he
  obtain rfl | rfl | rfl | rfl | rfl | rfl | rfl := he
  case inl | inr.inl | inr.inr.inl => simp only [← sx_truncate]; rfl
  all_goals simp only [hnumber]; rfl
/-- Each store is the one scalar store of its number of bytes (R63). -/
theorem exec_storeOps {e : (XReg → XReg → BitVec 12 → Instr) × Nat} (he : e ∈ storeOps) (rs1 rs2 : XReg) (imm : BitVec 12) (s : State) :
    exec (e.1 rs1 rs2 imm) s = s.scalarStore (s.x rs1 + BitVec.ofInt 64 imm.toInt) e.2 (s.x rs2) := by
  simp only [storeOps, List.mem_cons, List.not_mem_nil, or_false] at he
  obtain rfl | rfl | rfl | rfl := he <;> rfl

/-- Follow mode does not touch M mode (R95). -/
theorem State.follow_machine {s : State} (hm : s.sh.mode = .m) (va : Nat) (need : BitVec 8) (f : State → Out) : s.follow va need f = f s := by
  have htarget : s.followTarget va need = (none, false) := by
    have hmode : s.me.sh.mode = .m := hm
    simp [State.followTarget, hmode]
  simp only [State.follow, htarget]
/-- Nothing holds a load back behind no vector work (R77, R78). -/
theorem State.loadHeld_idle {s : State} (hv : s.VectorIdle) (a : Nat) : s.loadHeld a = false := by
  have hbusy := hv.busy
  obtain ⟨hvq, hvrun, hheld, -⟩ := hv
  simp [State.loadHeld, Slot.loadWaits, hvq, hvrun, hheld, hbusy]
/-- With no value taken ahead, a load has the value that it reads (R228). -/
theorem Slot.taken_none {m : Slot} (h : m.early = []) (a n : Nat) (v : Word) : m.taken a n v = v := by
  simp [Slot.taken, h, SMap.get]
/-- With no value taken ahead, there is none to use up (R228). -/
theorem State.useEarly_none {s : State} (h : s.me.early = []) (a n : Nat) : s.useEarly a n = s := by
  simp [State.useEarly, h]
/-- A load of M mode reads its bytes of machine memory (R15). -/
theorem State.scalarLoad_machine {s : State} {addr : Word} {n : Nat} (hm : s.sh.mode = .m) (hv : s.VectorIdle)
    (ha : machineExists addr.toNat = true) (h : addr.toNat % 8 + n ≤ 8) (rd : XReg) (post : Nat → Word) :
    s.scalarLoad rd addr n (fun v => post v.toNat) =
      .next (s.completeX rd (post (littleEndian (fun i => s.byte (addr.toNat + i)) n))) := by
  obtain ⟨-, -, -, hearly⟩ := id hv
  have hwho : (s.who 0).mode = .m := hm
  have hbyte : ∀ i, addr.toNat / 8 * 8 + (addr.toNat % 8 + i) = addr.toNat + i := fun i => by rw [← Nat.add_assoc, Nat.div_add_mod']
  simp only [State.scalarLoad, Nat.not_lt.2 h, if_false, State.loadHeld_idle hv, Bool.false_eq_true, State.follow_machine hm, State.load, hwho,
    if_true, State.machineRead, ha, Res.run_ok, Slot.taken_none hearly, State.useEarly_none hearly, State.read64, fieldOf_wordOf8 _ h, hbyte]
/-- A store of M mode writes its field of machine memory (R15). -/
theorem State.scalarStore_machine {s : State} {addr : Word} {n : Nat} (hm : s.sh.mode = .m) (hv : s.VectorIdle)
    (ha : machineExists addr.toNat = true) (h : addr.toNat % 8 + n ≤ 8) (v : Word) : s.scalarStore addr n v =
      .next (s.writeMask (addr.toNat / 8 * 8) (placeOf v addr.toNat) (byteMask (addr.toNat % 8) n)).complete := by
  have hwho : (s.who 0).mode = .m := hm
  have hroom : s.noRoom (s.who 0) (addr.toNat / 8) (byteMask (addr.toNat % 8) n) = false := by simp [State.noRoom, hwho]
  simp only [State.scalarStore, Nat.not_lt.2 h, if_false, hv.busy, Bool.false_eq_true, State.follow_machine hm, hroom, State.store, hwho,
    if_true, State.machineWrite, ha, Res.run_ok]

/-- Completing behind a masked write goes to the next word, and changes no more than slots and machine memory. -/
theorem State.complete_writeMask (s : State) (a : Nat) (v : Word) (m : BitVec 8) : StepsOn s (s.writeMask a v m).complete ∧
    (s.writeMask a v m).complete = { s with slots := (s.writeMask a v m).complete.slots, mem := (s.writeMask a v m).complete.mem } := by
  rw [s.writeMask_only a v m]
  exact ⟨(State.complete_stepsOn _ : _), rfl⟩

/-- Settles O11: in M mode the one scalar load and the one scalar store are a field of a block of machine memory, read and written. -/
theorem machineModeAccessesMemory : Obligations.MachineModeAccessesMemory := by
  unfold Obligations.MachineModeAccessesMemory
  rintro s rs1 r imm a rfl hm hv ha
  refine ⟨fun e he hfit => ?load, fun e he hfit => ?store⟩
  case load => exact ⟨_, (exec_loadOps he r rs1 imm s).trans (State.scalarLoad_machine hm hv ha hfit r e.2.2), s.completeX_writes r _⟩
  case store =>
    obtain ⟨hsteps, honly⟩ := s.complete_writeMask _ _ _
    exact ⟨_, (exec_storeOps he rs1 r imm s).trans (State.scalarStore_machine hm hv ha hfit _), hsteps, honly, s.byte_writeField (s.x r) hfit⟩

end Sys2Proof.Machine

namespace Sys2Proof.Machine

/-! Lines that leave an L1 (R137, R214): what that changes of shuttles. -/

/-- A change after which every shuttle is as before, but for wakes. -/
def OnlyWakes (s t : State) : Prop :=
  t.focus = s.focus ∧
    ∀ k, (t.slot k).sh = (s.slot k).sh ∧ (t.slot k).vf = (s.slot k).vf ∧ ((s.slot k).life = .ready → (t.slot k).life = .ready)

/-- The slots as before. -/
theorem OnlyWakes.of_slots {s t : State} (hf : t.focus = s.focus) (h : t.slots = s.slots) : OnlyWakes s t :=
  ⟨hf, fun k => by simp [State.slot, h]⟩
/-- One change after another. -/
theorem OnlyWakes.trans {s t u : State} (h : OnlyWakes s t) (g : OnlyWakes t u) : OnlyWakes s u := by
  obtain ⟨hfocus, hshuttles⟩ := h
  obtain ⟨gfocus, gshuttles⟩ := g
  refine ⟨gfocus.trans hfocus, fun k => ?_⟩
  obtain ⟨hsh, hvf, hready⟩ := hshuttles k
  obtain ⟨gsh, gvf, gready⟩ := gshuttles k
  exact ⟨gsh.trans hsh, gvf.trans hvf, fun h => gready (hready h)⟩
/-- Many such changes in a row. -/
theorem OnlyWakes.foldl {α : Type} {g : State → α → State} (hg : ∀ t a, OnlyWakes t (g t a)) (l : List α) (s : State) :
    OnlyWakes s (l.foldl g s) :=
  List.foldlRecOn (motive := OnlyWakes s) l g (.of_slots rfl rfl) fun t ht a _ => ht.trans (hg t a)
/-- A slot changed without its shuttle, its VF, or its being Ready. -/
theorem OnlyWakes.updSlot (s : State) (k : Nat) {f : Slot → Slot} (hsh : (f (s.slot k)).sh = (s.slot k).sh)
    (hvf : (f (s.slot k)).vf = (s.slot k).vf) (hlife : (s.slot k).life = .ready → (f (s.slot k)).life = .ready) :
    OnlyWakes s (s.updSlot k f) := by
  refine ⟨rfl, fun j => ?_⟩
  by_cases hj : j = k
  · subst hj
    rw [State.updSlot, State.slot_setSlot_self]
    exact ⟨hsh, hvf, hlife⟩
  · rw [State.updSlot, State.slot_setSlot_of_ne _ _ hj]
    exact ⟨rfl, rfl, id⟩

/-- A signal (R127). -/
theorem State.signal_onlyWakes (s : State) (k : Nat) : OnlyWakes s (s.signal k) := by
  unfold State.signal
  split
  · next hwaiting =>
    have hnot : (s.slot k).life = .ready → False := by simp [hwaiting]
    split
    · exact .updSlot s k rfl rfl fun _ => rfl
    · exact .updSlot s k rfl rfl fun h => (hnot h).elim
  · exact .of_slots rfl rfl
/-- Wakes delivered to watchers (R217). -/
theorem State.deliver_onlyWakes (s : State) (l : List Watch) : OnlyWakes s (s.deliver l) := by
  refine .foldl (fun t w => ?_) l s
  split
  · split
    · exact t.signal_onlyWakes _
    · exact .of_slots rfl rfl
  · exact .of_slots rfl rfl
  · exact .of_slots rfl rfl
/-- The wake of a word's watchers (R217). -/
theorem State.wakeWord_onlyWakes (s : State) (v wd : Nat) : OnlyWakes s (s.wakeWord v wd) := by
  unfold State.wakeWord State.wake
  dsimp only
  split
  · split
    · exact OnlyWakes.trans (.of_slots rfl rfl) (State.deliver_onlyWakes _ _)
    · exact .of_slots rfl rfl
  · exact .of_slots rfl rfl
/-- Marking a page dirty leaves shuttles alone (R293). -/
theorem State.markDirtyAt_onlyWakes (s : State) (v die va : Nat) : OnlyWakes s (s.markDirtyAt v die va) := by
  unfold State.markDirtyAt
  dsimp only
  split
  · split
    · exact .of_slots rfl rfl
    · rw [State.write64, State.writeMask_only]; exact .of_slots rfl rfl
  · exact .of_slots rfl rfl
/-- A use of a key leaves shuttles alone (R351). -/
theorem State.useKey_onlyWakes (s : State) (a k : Nat) : OnlyWakes s (s.useKey a k) := by
  unfold State.useKey
  dsimp only
  split <;> exact .of_slots rfl rfl
/-- A write at the home leaves shuttles alone (R225). -/
theorem State.append_onlyWakes (s : State) (ma kidx : Nat) (data : Word) (m : BitVec 8) : OnlyWakes s (s.append ma kidx data m) := by
  have hwrite : OnlyWakes s ((s.useKey ma kidx).writeMask ma data m) :=
    (s.useKey_onlyWakes ma kidx).trans (by rw [State.writeMask_only]; exact .of_slots rfl rfl)
  unfold State.append
  dsimp only
  split
  · exact hwrite.trans (.of_slots rfl rfl)
  · exact hwrite
/-- Elements of vector atomics performed where they hold their words (R157). -/
theorem State.performPins_onlyWakes (c : Nat) (q : Pin → Bool) (l : List Pin) (s : State) : OnlyWakes s (s.performPins c q l).1 := by
  induction l generalizing s with
  | nil => exact .of_slots rfl rfl
  | cons p l ih =>
    unfold State.performPins
    dsimp only
    split
    · refine OnlyWakes.trans ?_ (ih _)
      exact (((s.markDirtyAt_onlyWakes _ _ _).trans (State.useKey_onlyWakes _ _ _)).trans (State.append_onlyWakes _ _ _ _ _)).trans
        (State.wakeWord_onlyWakes _ _ _)
    · exact ih _
/-- What lines that leave an L1 may change besides caches: of the shuttles, only what a wake changes; and where no started vector atomic
holds a word (R157), nothing but cores and home states. -/
def LinesLeft (s t : State) : Prop :=
  OnlyWakes s t ∧ (s.NoPins → t = { s with slots := t.slots, cores := t.cores, home := t.home } ∧ ∀ k, t.slot k = s.slot k)

/-- A change of cores and home states alone. -/
theorem LinesLeft.of_coresAndHome {s t : State} (h : t = { s with cores := t.cores, home := t.home }) : LinesLeft s t := by
  have hslots : t.slots = s.slots := by rw [h]
  exact ⟨.of_slots (by rw [h]) hslots, fun _ => ⟨by rw [h], fun k => by rw [State.slot, hslots]; rfl⟩⟩
/-- A change of one core. -/
theorem State.updCore_linesLeft (s : State) (c : Nat) (f : Core → Core) : LinesLeft s (s.updCore c f) := .of_coresAndHome rfl
/-- A change of home states. -/
theorem LinesLeft.of_home (s : State) (h : SMap HomeState) : LinesLeft s { s with home := h } := .of_coresAndHome rfl
/-- Nothing changed. -/
theorem LinesLeft.refl (s : State) : LinesLeft s s := .of_coresAndHome rfl
/-- One change after another. -/
theorem LinesLeft.trans {s t u : State} (h : LinesLeft s t) (g : LinesLeft t u) : LinesLeft s u := by
  obtain ⟨hwakes, hpins⟩ := h
  obtain ⟨gwakes, gpins⟩ := g
  refine ⟨hwakes.trans gwakes, fun hp => ?_⟩
  obtain ⟨honly, hslot⟩ := hpins hp
  obtain ⟨gonly, gslot⟩ := gpins fun k e he => hp k e (by rw [← hslot]; exact he)
  exact ⟨by rw [gonly, honly], fun k => by rw [gslot, hslot]⟩
/-- Many such changes in a row. -/
theorem LinesLeft.foldl {α : Type} {g : State → α → State} (hg : ∀ t a, LinesLeft t (g t a)) (l : List α) (s : State) :
    LinesLeft s (l.foldl g s) :=
  List.foldlRecOn (motive := LinesLeft s) l g (.refl s) fun t ht a _ => ht.trans (hg t a)

/-- The elements that hold the words of a core are performed (R157): nothing happens where none hold any. -/
theorem State.unpin_linesLeft (s : State) (c : Nat) (q : Pin → Bool) : LinesLeft s (s.unpin c q) := by
  refine .foldl (fun t i => ?_) _ s
  dsimp only
  split
  · next e he =>
    split
    · exact .refl t
    · next hpins =>
      have hwakes := (t.performPins_onlyWakes c q e.pins).trans (.updSlot _ (16 * c + i)
        (f := fun m => { m with vrun := some { e with pins := (t.performPins c q e.pins).2 } }) rfl rfl id)
      exact ⟨hwakes, fun hp => absurd (by rw [hp _ e he]; rfl) hpins⟩
  · exact .refl t
/-- A use of the PLB changes its core (R287). -/
theorem State.plbUse_linesLeft (s : State) (v c va : Nat) : LinesLeft s (s.plbUse v c va) := by
  unfold State.plbUse
  split
  · next t e h =>
    unfold State.plbLookup at h
    dsimp only at h
    split at h
    · obtain ⟨rfl, -⟩ := Prod.mk.inj (Option.some.inj h); exact .of_coresAndHome rfl
    · split at h
      · obtain ⟨rfl, -⟩ := Prod.mk.inj (Option.some.inj h); exact .of_coresAndHome rfl
      · exact absurd h (by simp)
  · exact .refl s
/-- A line leaves a core (R214). -/
theorem State.evictLine_linesLeft (s : State) (c v line : Nat) : LinesLeft s (s.evictLine c v line) := by
  unfold State.evictLine State.evictWords
  dsimp only
  split
  · exact (State.updCore_linesLeft _ _ _).trans
      (((State.unpin_linesLeft _ _ _).trans (State.plbUse_linesLeft _ _ _ _)).trans (.of_home _ _))
  · exact s.updCore_linesLeft _ _
/-- Units are taken from an L1 (R137). -/
theorem State.takeUnits_linesLeft (s : State) (c n : Nat) : LinesLeft s (s.takeUnits c n) := by
  refine .foldl (fun t l => ?_) _ s
  split
  · exact t.evictLine_linesLeft _ _ _
  · exact .refl t

end Sys2Proof.Machine

namespace Sys2Proof.Machine

/-! Slots taken by starts and frames (R29, R31, R137). -/

/-- A free slot of a core is one of its slots, and nothing is in it. -/
theorem State.freeSlot_spec {s : State} {c k : Nat} (h : s.freeSlot c = some k) : k < slotCount c ∧ (s.slot (c * 16 + k)).life = .free := by
  have hfind := List.find?_some h
  have hmem := List.mem_of_find?_eq_some h
  exact ⟨List.mem_range.1 hmem, by simpa using hfind⟩
/-- A slot after a write of one. -/
theorem State.slot_setSlot (s : State) (k j : Nat) (v : Slot) : (s.setSlot k v).slot j = if j = k then v else s.slot j :=
  SMap.get_put _ _ _ _ _
/-- A slot filled with a shuttle that has no vector instruction under way pins nothing (R157). -/
theorem State.NoPins.setSlot {s : State} (h : s.NoPins) (k : Nat) {m : Slot} (hm : m.vrun = none) : (s.setSlot k m).NoPins := by
  intro j e he
  rw [State.slot_setSlot] at he
  split at he
  · rw [hm] at he; cases he
  · exact h j e he

/-- A depth granted to the shuttle that fills a slot (R137): it fills the slot with that depth, and lines may leave the L1. -/
theorem State.grantTo_setSlot (s : State) (k : Nat) (m : Slot) (d : Nat) :
    ∃ g, LinesLeft (s.setSlot k (m.setDepth g)) ((s.setSlot k m).grantTo k d).1 := by
  refine ⟨grantDepth d ((s.setSlot k m).freeUnits (k / 16)) ((s.setSlot k m).slot k).sh.vdepth.toNat, ?_⟩
  unfold State.grantTo
  dsimp only
  generalize grantDepth _ _ _ = g
  have htwice : LinesLeft (s.setSlot k (m.setDepth g)) ((s.setSlot k m).updSlot k fun m => m.setDepth g) := by
    have hslot : ∀ j, ((s.setSlot k m).updSlot k fun m => m.setDepth g).slot j = (s.setSlot k (m.setDepth g)).slot j := fun j => by
      simp only [State.updSlot, State.slot_setSlot, if_true]
      split <;> rfl
    exact ⟨⟨rfl, fun j => by rw [hslot]; exact ⟨rfl, rfl, id⟩⟩, fun _ => ⟨rfl, hslot⟩⟩
  split
  · exact htwice.trans (State.takeUnits_linesLeft _ _ _)
  · exact htwice
/-- A shuttle fills a slot, with a depth granted where its core is a vector core (R29, R31, R137). -/
theorem State.fill_linesLeft (s : State) (k : Nat) (m : Slot) (d : Nat) (isVector : Bool) : ∃ n : Slot, (n = m ∨ ∃ g, n = m.setDepth g) ∧
    LinesLeft (s.setSlot k n) (if isVector then ((s.setSlot k m).grantTo k d).1 else s.setSlot k m) := by
  cases isVector
  · exact ⟨m, .inl rfl, .refl _⟩
  · obtain ⟨g, hg⟩ := s.grantTo_setSlot k m d
    exact ⟨_, .inr ⟨g, rfl⟩, hg⟩
/-- A Discard changes one core (R225). -/
theorem State.discard_linesLeft (s : State) (c : Nat) (m : Option Mode) : LinesLeft s (s.discard c m) := by
  rw [State.discard, State.discardBut_only]; exact .of_coresAndHome rfl

/-- A shuttle as a start makes it (R31). -/
def Slot.StartedAs (m : Slot) (e : Start) : Prop :=
  m.life = .ready ∧ m.vf = e.vf ∧ m.sh.pc = e.entry ∧ m.sh.mode = (if bitsOf e.control 31 30 = 1 then Mode.s else .u) ∧
    ∀ r : XReg, m.sh.getX r = if r = 10 then e.arg0 else if r = 11 then e.arg1 else 0

/-- A start without a scratch grant takes a slot (R31): it holds the shuttle that its block describes, and lines may leave the L1. -/
theorem State.startIn_startedAs (s : State) (e : Start) (c k : Nat) :
    ∃ m : Slot, m.StartedAs e ∧ m.vrun = none ∧ LinesLeft (s.setSlot (c * 16 + k) m) (s.startIn e c k none) := by
  unfold State.startIn
  dsimp only [Option.map_none]
  generalize hsh : Shuttle.setX _ 11 _ = sh
  have hx : ∀ r : XReg, sh.getX r = if r = 10 then e.arg0 else if r = 11 then e.arg1 else 0 := by
    intro r
    rw [← hsh, Shuttle.getX_setX, Shuttle.getX_setX, Shuttle.getX_setX]
    have hzero : ∀ y : Shuttle, y.x = [] → y.getX r = 0 := fun y hy => by simp [Shuttle.getX, hy, SMap.get]
    by_cases h10 : r = 10
    · simp [h10]
    · simp [h10, hzero]
  generalize hm : ({ life := .ready, vf := e.vf, sh := sh, task := _ } : Slot) = m
  have hstarted : m.StartedAs e := by
    rw [← hm]
    exact ⟨rfl, rfl, by rw [← hsh]; simp, by rw [← hsh]; rfl, hx⟩
  obtain ⟨n, hn, hfilled⟩ := s.fill_linesLeft (c * 16 + k) m (lgDepth (bitsOf e.control 3 2)) (classOf c == .vector)
  refine ⟨n, ?_, ?_, (hfilled.trans (State.discard_linesLeft _ _ _)).trans (State.updCore_linesLeft _ _ _)⟩
  · obtain rfl | ⟨g, rfl⟩ := hn
    · exact hstarted
    · exact hstarted
  · obtain rfl | ⟨g, rfl⟩ := hn
    · rw [← hm]
    · rw [← hm]; rfl

end Sys2Proof.Machine

namespace Sys2Proof.Machine

/-- A start without a scratch grant fills its slot, and every other shuttle is as before (R31). -/
theorem State.startIn_fills (s : State) (e : Start) (c k : Nat) :
    Started (s.startIn e c k none) (c * 16 + k) e ∧ (s.startIn e c k none).focus = s.focus ∧
      ∀ i, i ≠ c * 16 + k → ((s.startIn e c k none).slot i).sh = (s.slot i).sh := by
  obtain ⟨m, ⟨hlife, hvf, hpc, hmode, hx⟩, -, ⟨hfocus, hshuttles⟩, -⟩ := s.startIn_startedAs e c k
  refine ⟨?_, hfocus, fun i hi => ?_⟩
  · obtain ⟨hsh, hvf', hready⟩ := hshuttles (c * 16 + k)
    rw [State.slot_setSlot_self] at hsh hvf' hready
    exact ⟨hready hlife, hvf'.trans hvf, by rw [hsh, hpc], by rw [hsh, hmode], fun r => by rw [hsh, hx]⟩
  · obtain ⟨hsh, -, -⟩ := hshuttles i
    rw [hsh, State.slot_setSlot_of_ne _ _ hi]
/-- Where no started vector atomic holds a word, a start without a scratch grant changes its slot, cores and home states only (R31). -/
theorem State.startIn_only {s : State} (hp : s.NoPins) (e : Start) (c k : Nat) :
    (∀ i, i ≠ c * 16 + k → (s.startIn e c k none).slot i = s.slot i) ∧
      s.startIn e c k none = { s with slots := (s.startIn e c k none).slots, cores := (s.startIn e c k none).cores
                                      home := (s.startIn e c k none).home } := by
  obtain ⟨m, -, hvrun, -, hpins⟩ := s.startIn_startedAs e c k
  obtain ⟨honly, hslot⟩ := hpins (hp.setSlot _ hvrun)
  exact ⟨fun i hi => by rw [hslot, State.slot_setSlot_of_ne _ _ hi], honly⟩

/-- No frame waits ahead for a slot where none is Queued (R93). -/
theorem State.aheadQ_none {s : State} (h : s.queued = []) (p c : Nat) (names : Bool) : s.aheadQ p c names = false := by
  simp [State.aheadQ, h]
/-- A start that asks for no scratch fits (R312). -/
theorem State.startFit_none (s : State) {e : Start} (h : bitsOf e.control 14 4 = 0) (c : Nat) : s.startFit e c = some none := if_pos h

/-- Frames on their way leave a free slot of a core where none of them goes there (R71). -/
theorem State.framesTake_none {s : State} {c k : Nat} (hk : s.freeSlot c = some k) (h : ∀ f ∈ s.frames, f.dst ≠ c) : s.framesTake c = false := by
  obtain ⟨hlt, hfree⟩ := State.freeSlot_spec hk
  have hmem : k ∈ (List.range (slotCount c)).filter fun k => (s.slot (c * 16 + k)).life == .free :=
    List.mem_filter.2 ⟨List.mem_range.2 hlt, by simp [hfree]⟩
  have hframes : (s.frames.filter fun f => f.dst == c && s.running f.vf && (s.slot (c * 16 + f.slot)).life != .reserved) = [] :=
    List.filter_eq_nil_iff.2 fun f hf => by simp [h f hf]
  have hpos := List.length_pos_of_mem hmem
  simp only [State.framesTake, hframes, List.length_nil, decide_eq_false_iff_not]
  omega
/-- An offer that meets a free slot which nothing else waits for takes it (R70, R311). -/
theorem State.offer_starts {s : State} {e : Start} {k : Nat} {alone : Bool} (hfenced : s.isFenced e.core = false) (hq : s.queued = [])
    (hs : s.starts = []) (hframes : alone = true ∨ ∀ f ∈ s.frames, f.dst ≠ e.core) (hk : s.freeSlot e.core = some k)
    (hfit : bitsOf e.control 14 4 = 0) : s.offer e alone = (s.startIn e e.core k none, 0) := by
  have hahead : s.aheadOf (s.partOfVf e.vf) e.core = false := by simp [State.aheadOf, State.aheadQ_none hq, hs]
  have htake : (!alone && s.framesTake e.core) = false := by
    obtain rfl | hframes := hframes
    · rfl
    · rw [State.framesTake_none hk hframes, Bool.and_false]
  simp only [State.offer, hfenced, Bool.false_eq_true, if_false, hahead, htake, Bool.or_self, hk, State.startFit_none s hfit]

/-- The only start entry of a core, of a VF that runs, is the one it serves next (R311). -/
theorem State.bestEntry_only {s : State} {e : Start} {c : Nat} (hs : s.starts = [e]) (hc : e.core = c) (hrun : s.running e.vf = true) :
    s.bestEntry c = some e := by
  have hentries : (s.starts.filter fun e => e.core == c && s.running e.vf) = [e] := by simp [hs, hc, hrun]
  simp only [State.bestEntry, hentries]
  rfl
/-- A start entry of a core that meets a free slot takes it (R311). -/
theorem State.serveStart_only {s : State} {e : Start} {c k : Nat} (hs : s.starts = [e]) (hc : e.core = c) (hrun : s.running e.vf = true)
    (hq : s.queued = []) (hk : s.freeSlot c = some k) (hfit : bitsOf e.control 14 4 = 0) :
    s.serveStart c = ({ s with starts := [] }).startIn e c k none := by
  have herase : s.starts.erase e = [] := by simp [hs]
  simp only [State.serveStart, State.aheadQ_none hq, Bool.false_eq_true, if_false, hk, State.bestEntry_only hs hc hrun,
    State.startFit_none s hfit, herase]

/-! The end of a mix window, and mix migrations (R96). -/

/-- The update of the samples of a map of slots is that of each slot. -/
theorem SMap.get_mixWindow (l : SMap Slot) (k : Nat) :
    SMap.get ({} : Slot) (l.map fun e => (e.1, { e.2 with sh := e.2.sh.mixWindow })) k =
      { (SMap.get {} l k : Slot) with sh := (SMap.get {} l k : Slot).sh.mixWindow } :=
  SMap.get_map (fun m : Slot => { m with sh := m.sh.mixWindow }) rfl l k
/-- Where no shuttle accepts mix migrations, the end of a window orders none (R18, R96): every sample is judged, and no byte changes. -/
theorem State.mixWindow_unordered {s : State} (h : ∀ j, bitOf (s.slot j).sh.tsw 1 = false) :
    (∀ b, s.mixWindow.byte b = s.byte b) ∧ ∀ j, s.mixWindow.slot j = { s.slot j with sh := (s.slot j).sh.mixWindow } := by
  unfold State.mixWindow
  dsimp only
  generalize ht : ({ s with slots := _, frames := _, queued := _, vfs := _ } : State) = t
  have hslot : ∀ j, t.slot j = { s.slot j with sh := (s.slot j).sh.mixWindow } := fun j => by
    rw [← ht]; exact SMap.get_mixWindow s.slots j
  have hnone : ∀ k, t.mixOrderFor k = t := fun k => by
    have htsw : bitOf (t.slot k).sh.tsw 1 = false := by rw [hslot]; exact h k
    simp [State.mixOrderFor, htsw]
  have hfold : ∀ l : List Nat, l.foldl State.mixOrderFor t = t := fun l => by
    induction l with
    | nil => rfl
    | cons k l ih => rw [List.foldl_cons, hnone, ih]
  rw [hfold]
  exact ⟨fun b => by rw [← ht]; rfl, hslot⟩

/-- The count of windows in a row with few vector instructions, after a window (R96). -/
theorem Mix.window_low (m : Mix) :
    (8 ≤ m.traps.toNat → m.window.low = 0) ∧
      (m.traps.toNat < 8 →
        (m.issued.toNat < 256 → m.window.low = m.low) ∧
        (256 ≤ m.issued.toNat →
          (4 * m.vector.toNat < m.issued.toNat → m.window.low.toNat = min (m.low.toNat + 1) 4) ∧
          (m.issued.toNat ≤ 4 * m.vector.toNat → m.window.low = 0))) := by
  refine ⟨fun ht => if_pos ht, fun ht => ⟨fun hi => ?_, fun hi => ⟨fun hv => ?_, fun hv => ?_⟩⟩⟩
  · rw [Mix.window, if_neg (by omega), if_pos hi]
  · rw [Mix.window, if_neg (by omega), if_neg (by omega), if_pos hv, BitVec.toNat_ofNat]; omega
  · rw [Mix.window, if_neg (by omega), if_neg (by omega), if_neg (by omega)]

/-- No vector instruction is there to squash (R131). -/
theorem State.squash_idle {s : State} {k : Nat} (hq : (s.slot k).vq = []) (hr : (s.slot k).vrun = none) : s.squash k = s := by
  simp [State.squash, hq, State.runStarted, hr]

/-- Where engines do not act at once, packing begins and no more (R94). -/
theorem State.packSlot_lazy {s : State} (he : s.eager = false) (k : Nat) (i : PackInfo) :
    s.packSlot k i = s.updSlot k fun m => { m with life := .packing, pack := some i, wait := some m.packWait } := if_neg (by simp [he])
/-- An ordered mix migration at a boundary behind no vector work begins to pack for the slot that its order has reserved (R96). -/
theorem State.mixMigrate_packs {s : State} {k r : Nat} (hr : (s.slot k).mixOrder = some r) (hvq : (s.slot k).vq = [])
    (hvrun : (s.slot k).vrun = none) (he : s.eager = false) :
    (∀ j, j ≠ k → (s.mixMigrate k).slot j = s.slot j) ∧ (s.mixMigrate k).slot k = { s.slot k with
      life := .packing, mixOrder := none, wait := some (s.slot k).packWait
      pack := some { reason := 3, named := r / 16, pc := (s.slot k).sh.pc, slotShid := some r, jumped := (s.slot k).jumped } } := by
  simp only [State.mixMigrate, hr, State.squash_idle hvq hvrun]
  rw [State.packSlot_lazy (s := s.updSlot k fun m => { m with mixOrder := none }) he]
  constructor
  · exact fun j hj => by simp only [State.updSlot, State.slot_setSlot_of_ne _ _ hj]
  · simp only [State.updSlot, State.slot_setSlot_self]; rfl

/-- MIX_WINDOW_END at the end of a window (R96). -/
theorem execMixWindowEnd_due {s : State} (h : s.cycle.toNat % 4096 = 0) : execMixWindowEnd s = .next s.mixWindow := by
  rw [execMixWindowEnd, if_pos h]
/-- MIX_MIGRATION at a boundary where nothing else is due (R96, R413). -/
theorem execMixMigration_due {s : State} {k : Nat} (hk : k = s.subjSlot) (hlife : (s.slot k).life = .ready) (hparked : (s.slot k).parked = false)
    (hhalf : (s.slot k).half = false) (hrefused : (s.slot k).refused = []) (htrap : (s.slot k).heldTrap = none)
    (hdone : (s.slot k).doneValue = none) (hint : s.interruptSlot (k / 16) ≠ some k) : execMixMigration s = .next (s.mixMigrate k) := by
  subst hk
  simp [execMixMigration, hlife, hparked, hhalf, hrefused, htrap, hdone, hint]
/-- START_ENTRY_SERVED on a core that is not fenced (R311, R312). -/
theorem execStartEntryServed_unfenced {s : State} (h : s.isFenced s.subject.core = false) :
    execStartEntryServed s = .next (s.serveStart s.subject.core) := by
  simp [execStartEntryServed, h]
/-- START_OFFER of the offer made first, by a shuttle (R70): its outcome goes back to that shuttle. -/
theorem execStartOffer_first {s : State} {o : Start} {rest : List Start} {q rd : Nat} (ho : s.offers = o :: rest) (hitem : s.subject.item = 0)
    (hissuer : o.issuer = some (q, rd)) : execStartOffer s =
      .next ((({ s with offers := rest }).offer o s.subject.flag).1.finish q
        (startStatus (({ s with offers := rest }).offer o s.subject.flag).2 o.core)) := by
  have hfirst : s.offers[s.subject.item]? = some o := by rw [ho, hitem]; rfl
  have herase : s.offers.erase o = rest := by rw [ho, List.erase_cons_head]
  simp only [execStartOffer, hfirst, State.deliverOffer, herase, hissuer]

/-- Settles O40: an unordered window maps every sample; each of the other three steps meets the one branch that fills a slot or packs. -/
theorem mixWindowsAndStarts : Obligations.MixWindowsAndStarts := by
  unfold Obligations.MixWindowsAndStarts
  rintro s k m hk rfl
  refine ⟨fun hcycle hno => ?window, fun r hr hlife hparked hhalf hrefused htrap hdone hint hvq hvrun he => ?order,
    fun c e j hc hs hec hfenced hj hrun hq hp hfit => ?entry,
    fun o rest q rd j ho hitem hissuer hfenced hq hs hframes hp hj hfit hne => ?offer⟩
  case window =>
    obtain ⟨hbytes, hslot⟩ := State.mixWindow_unordered hno
    exact ⟨_, execMixWindowEnd_due hcycle, hbytes, fun j => ⟨_, hslot j, (s.slot j).sh.mix.window_low⟩⟩
  case order =>
    obtain ⟨hothers, hself⟩ := State.mixMigrate_packs hr hvq hvrun he
    exact ⟨_, execMixMigration_due hk hlife hparked hhalf hrefused htrap hdone hint, hothers, by rw [hself], by rw [hself], by rw [hself],
      by rw [hself]⟩
  case entry =>
    subst hc
    obtain ⟨hstarted, -, -⟩ := State.startIn_fills { s with starts := [] } e s.subject.core j
    obtain ⟨hothers, honly⟩ := State.startIn_only (s := { s with starts := [] }) hp e s.subject.core j
    refine ⟨_, (execStartEntryServed_unfenced hfenced).trans (congrArg _ (State.serveStart_only hs hec hrun hq hj hfit)), ?_, hstarted, hothers,
      fun b => ?_⟩
    · rw [honly]
    · rw [honly]; rfl
  case offer =>
    obtain ⟨hstarted, -, -⟩ := State.startIn_fills { s with offers := rest } o o.core j
    obtain ⟨hothers, honly⟩ := State.startIn_only (s := { s with offers := rest }) hp o o.core j
    have hoffer := State.offer_starts (s := { s with offers := rest }) hfenced hq hs hframes hj hfit
    have hexec := execStartOffer_first ho hitem hissuer
    rw [hoffer] at hexec
    generalize State.startIn { s with offers := rest } o o.core j none = u at hstarted hothers honly hexec
    have hq' : (u.finish q (startStatus 0 o.core)).slot q = { (u.slot q).wake (u.coreCycle (q / 16)) with
        wait := some { kind := .done (startStatus 0 o.core) } } := State.slot_setSlot_self _ _ _
    have hrest : ∀ i, i ≠ q → (u.finish q (startStatus 0 o.core)).slot i = u.slot i := fun i hi => State.slot_setSlot_of_ne _ _ hi
    refine ⟨_, hexec, ?_, ?_, by rw [hq']; rfl, ?_, fun i hiq hij => (hrest i hiq).trans (hothers i hij)⟩
    · rw [State.finish, State.updSlot_offers, honly]
    · rw [Started, hrest _ hne.symm]; exact hstarted
    · rw [hq']; simp [Slot.doneValue, startStatus]

end Sys2Proof.Machine

namespace Sys2Proof.Machine

/-! Frames (R27 to R29, R91 to R99). -/

/-- A shuttle as its frame brings it (R29): vector registers and masks are empty, depth and mix are the core's. -/
def Slot.ArrivedAs (m : Slot) (f : Frame) : Prop :=
  m.life = .ready ∧ m.vf = f.vf ∧ m.vregs = [] ∧ m.masks = [] ∧
    m.sh = { f.sh with mix := m.sh.mix, vdepth := m.sh.vdepth, vlr := m.sh.vlr }

/-- A granted depth leaves what a frame brings (R29, R137). -/
theorem Slot.ArrivedAs.setDepth {m : Slot} {f : Frame} (h : m.ArrivedAs f) (g : Nat) : (m.setDepth g).ArrivedAs f := by
  obtain ⟨hlife, hvf, hvregs, hmasks, hsh⟩ := h
  refine ⟨hlife, hvf, ?_, hmasks, ?_⟩
  · simp [Slot.setDepth, hvregs, SMap.keep]
  · simp only [Slot.setDepth]; rw [hsh]

/-- A frame that carries no fault takes a slot (R29): where no started vector atomic holds a word, the slot holds its shuttle, the L1 of the core
is discarded, and no other slot, frame or byte changes. -/
theorem State.placeFrame_arrives {s : State} {f : Frame} (hp : s.NoPins) (ht : f.trapOnArrival = none) (c k : Nat) :
    Arrives (s.placeFrame f c k) (c * 16 + k) f ∧ (∀ i, i ≠ c * 16 + k → (s.placeFrame f c k).slot i = s.slot i) ∧
      (s.placeFrame f c k).frames = s.frames ∧ (s.placeFrame f c k).queued = s.queued ∧ ((s.placeFrame f c k).core c).l1 = [] ∧
      ∀ b, (s.placeFrame f c k).byte b = s.byte b := by
  unfold State.placeFrame
  simp only [ht]
  generalize hmoved : (if f.tl = 0 ∧ f.cp = 0 then s else s.reissue f.src (c * 16 + k)) = u
  have hu : u = { s with cores := u.cores, sections := u.sections } := by rw [← hmoved]; split <;> rfl
  have hpu : u.NoPins := by rw [hu]; exact hp
  generalize hm : ({ life := .ready, parked := _, vf := f.vf, sh := _, task := f.task, tl := f.tl, cp := f.cp, deferred := f.deferred
                     refused := f.refused, jumped := f.jumped } : Slot) = m
  have harrived : m.ArrivedAs f := by rw [← hm]; exact ⟨rfl, rfl, rfl, rfl, rfl⟩
  have hvrun : m.vrun = none := by rw [← hm]
  obtain ⟨n, hdepth, hlines⟩ := u.fill_linesLeft (c * 16 + k) m (max 1 f.sh.vdepth.toNat) (classOf c == .vector)
  generalize (if (classOf c == .vector) = true then _ else _ : State) = w at hlines
  have hn : n.ArrivedAs f ∧ n.vrun = none := by
    obtain rfl | ⟨g, rfl⟩ := hdepth
    · exact ⟨harrived, hvrun⟩
    · exact ⟨harrived.setDepth g, hvrun⟩
  obtain ⟨hnarrived, hnvrun⟩ := hn
  obtain ⟨-, hpins⟩ := hlines.trans (State.discard_linesLeft w c (some f.sh.mode))
  obtain ⟨honly, hslot⟩ := hpins (hpu.setSlot _ hnvrun)
  refine ⟨?_, fun i hi => ?_, ?_, ?_, State.discardBut_l1 _ _ _, fun b => ?_⟩
  · rw [Arrives, hslot, State.slot_setSlot_self]; exact hnarrived
  · rw [hslot, State.slot_setSlot_of_ne _ _ hi, hu]; rfl
  · rw [honly, hu]; rfl
  · rw [honly, hu]; rfl
  · rw [honly, hu]; rfl

/-- Counting leaves the registers of a VF as a core sees them (R81, R357). -/
theorem State.vfRegs_countN (s : State) (c code n : Nat) (m : Option Mode) (v d : Nat) : (s.countN c code n m).vfRegs v d = s.vfRegs v d := by
  have hstale : ((s.countN c code n m).core d).stale = (s.core d).stale := by
    unfold State.countN
    split
    · by_cases hd : d = c
      · subst hd; rw [State.updCtx, State.core_updCore_self]
      · rw [State.updCtx, (s.updCore_onlyCore c _).2.1 d hd]
    · rfl
  rw [State.vfRegs, hstale, State.countN_only]; rfl
/-- No record of a move is posted where the VF takes none (R86, R97). -/
theorem State.recordMove_off {s : State} {m : Slot} {k : Nat} (h : bitOf (s.vfRegs m.vf (k / 16)).trec 0 = false) (c : BitVec 10) (pc : Word)
    (dst : Nat) : s.recordMove k m c pc dst = s := by
  simp [State.recordMove, h]

/-- No entry of a core's buffer that is asked for is in it. -/
theorem State.registerWhere_none {s : State} {c : Nat} {p : StoreEntry → Bool} (h : ∀ e ∈ (s.core c).sbuf, p e = false) :
    s.registerWhere c p = s := by
  have hnone : ∀ l : List StoreEntry, (∀ e ∈ l, p e = false) → toRegister p l [] = [] := fun l => by
    induction l with
    | nil => exact fun _ => rfl
    | cons e l ih =>
      intro hl
      rw [toRegister, hl e (by simp), List.any_nil, Bool.or_self, if_neg (by simp)]
      exact ih fun x hx => hl x (by simp [hx])
  rw [State.registerWhere, hnone _ fun e he => h e (List.mem_reverse.1 he)]; rfl
/-- A shuttle with no store on its way has nothing to release (R229). -/
theorem State.releaseSlot_home {s : State} {k : Nat} (h : ∀ e ∈ (s.core (k / 16)).sbuf, e.shid ≠ k) : s.releaseSlot k = s :=
  State.registerWhere_none fun e he => by simpa using h e he
/-- A shuttle with no vector instruction and no store on its way has ST at zero (R23). -/
theorem State.stOf_zero {s : State} {k : Nat} (hvq : (s.slot k).vq = []) (hvrun : (s.slot k).vrun = none)
    (h : ∀ e ∈ (s.core (k / 16)).sbuf, e.shid ≠ k) : s.stOf k = 0 := by
  have hbuf : ((s.core (k / 16)).sbuf.filter fun e => e.shid == k && e.vseq != 0) = [] := List.filter_eq_nil_iff.2 fun e he => by simp [h e he]
  simp [State.stOf, Slot.vpending, hvq, hvrun, hbuf]
/-- With no deferred fault held, none is due (R414). -/
theorem Slot.firstDeferred_none {m : Slot} (h : m.deferred = []) (p : Deferred → Bool) : m.firstDeferred p = none := by
  simp [Slot.firstDeferred, h]

/-- A frame that names a core goes there, where the core is not fenced and a slot is free that no Queued frame waits for (R71, R92). -/
theorem State.destination_named {s : State} {f : Frame} {n src : Nat} (hn : f.named = n) (hany : n ≠ 0xFFF)
    (hfree : (s.freeSlot n).isSome = true) (hfenced : s.isFenced n = false) (hq : ∀ q ∈ s.queued, q.named ≠ n) :
    s.destination f src = some n := by
  have hahead : s.aheadQ f.part n true = false := by
    simp only [State.aheadQ, List.any_eq_false]
    exact fun q hqm => by simp [hq q hqm]
  simp [State.destination, hn, hany, hfree, hfenced, hahead]

/-- The shuttle that a move of its own sends (R27): the pc of the frame, and one migration more. -/
def Shuttle.moved (sh : Shuttle) (pc : Word) : Shuttle := { sh with pc := pc, migs := if sh.migs = 0xFFFF then 0xFFFF else sh.migs + 1 }
/-- Where engines do not act at once, a move to a named core with a free slot sends its frame (R71, R94). -/
theorem State.sendFrame_named {s : State} {k : Nat} {i : PackInfo} (he : s.eager = false) (hreason : i.reason = 2) (hslot : i.slotShid = none)
    (hany : i.named ≠ 0xFFF) (hfree : (s.freeSlot i.named).isSome = true) (hfenced : s.isFenced i.named = false)
    (hq : ∀ q ∈ s.queued, q.named ≠ i.named) (htrec : bitOf (s.vfRegs (s.slot k).vf (k / 16)).trec 0 = false) :
    ∃ f : Frame, (s.sendFrame k i).frames = s.frames ++ [f] ∧ f.vf = (s.slot k).vf ∧ f.src = k ∧ f.dst = i.named ∧ f.reason = 2 ∧
      f.gen = s.genOf (s.slot k).vf ∧ f.sh = (s.slot k).sh.moved i.pc ∧ ((s.sendFrame k i).slot k).life = .sent ∧
      (∀ j, j ≠ k → (s.sendFrame k i).slot j = s.slot j) ∧ ∀ b, (s.sendFrame k i).byte b = s.byte b := by
  unfold State.sendFrame
  dsimp only
  rw [hslot]
  dsimp only
  rw [State.destination_named (n := i.named) rfl hany hfree hfenced hq]
  simp only [hreason, Nat.reduceEqDiff, false_and, if_false]
  generalize hcounted : State.count _ (k / 16) 0x009 _ = u
  have hu : u = { s with order := u.order, cores := u.cores } := by rw [← hcounted, State.count, State.countN_only]
  have hregs : u.vfRegs (s.slot k).vf (k / 16) = s.vfRegs (s.slot k).vf (k / 16) := by
    rw [← hcounted, State.count, State.vfRegs_countN]; rfl
  have heager : u.eager = false := by rw [hu]; exact he
  rw [State.recordMove_off (s := u) (by rw [hregs]; exact htrec)]
  simp only [State.updSlot_eager, heager, Bool.false_eq_true, if_false]
  have hframes : u.frames = s.frames := by rw [hu]
  generalize hsent : State.updSlot u k _ = w
  have hself : (w.slot k).life = .sent := by rw [← hsent, State.updSlot, State.slot_setSlot_self]
  have hothers : ∀ j, j ≠ k → w.slot j = s.slot j := fun j hj => by
    rw [← hsent, State.updSlot, State.slot_setSlot_of_ne _ _ hj, hu]; rfl
  have hbytes : ∀ b, w.byte b = s.byte b := fun b => by rw [← hsent, hu]; rfl
  exact ⟨_, congrArg (fun l => l ++ [_]) hframes, rfl, rfl, rfl, rfl, rfl,
    congrArg (fun n => { (s.slot k).sh with pc := i.pc, migs := n }) (ite_congr rfl (fun h => h) fun _ => rfl), hself, hothers, hbytes⟩

end Sys2Proof.Machine

namespace Sys2Proof.Machine

/-- Packing with nothing outstanding and no post on its way sends the frame (R94). -/
theorem State.tryPack_settled {s : State} {k : Nat} {i : PackInfo} (hlife : (s.slot k).life = .packing) (hpack : (s.slot k).pack = some i)
    (hsettled : s.Settled k) (hpost : s.posting k = false) : s.tryPack k = s.sendFrame k i := by
  obtain ⟨hvq, hvrun, hheld, htl, hcp, hdeferred, hrefused, hbuf⟩ := hsettled
  have hbusy : (s.slot k).vectorBusy = false := by simp [Slot.vectorBusy, hvq, hvrun]
  have hld : (s.slot k).ld = 0 := by simp [Slot.ld, Slot.vpending, hvq, hvrun]
  have hmay : s.mayPack k = true := by simp [State.mayPack, hlife, hbusy, hheld, htl, hcp, State.stOf_zero hvq hvrun hbuf, hld, hpost]
  simp only [State.tryPack, hpack, hbusy, Slot.firstDeferred_none hdeferred, hrefused, hmay, State.releaseSlot_home hbuf, List.isEmpty_nil,
    Bool.not_true, Bool.false_eq_true, if_false, if_true]

/-- The slot that sent a frame is freed by its acknowledgement (R29). -/
theorem State.ackFrame_sent {s : State} {f : Frame} (h : (s.slot f.src).life = .sent) : s.ackFrame f = s.freeSlotOf f.src := if_pos h
/-- A frame of a move of its own or of a migration trap keeps no slot reserved (R95, R96). -/
theorem State.heldFor_none (s : State) {f : Frame} (h3 : f.reason ≠ 3) (h4 : f.reason ≠ 4) : s.heldFor f = none :=
  if_neg fun h => h.1.elim h3 h4
/-- A slot that is kept for a frame is Reserved. -/
theorem State.heldFor_reserved {s : State} {f : Frame} {r : Nat} (h : s.heldFor f = some r) : (s.slot r).life = .reserved := by
  unfold State.heldFor at h
  dsimp only at h
  split at h
  · next hheld => obtain ⟨-, hlife, -⟩ := hheld; rw [← Option.some.inj h]; exact hlife
  · cases h
/-- No vector atomic is pinned once a slot has been freed. -/
theorem State.NoPins.freeSlotOf {s : State} (h : s.NoPins) (k : Nat) : (s.freeSlotOf k).NoPins := h.setSlot k rfl

/-- A frame of the current generation that finds its core there, of its class, and with a free slot that no Queued frame waits for, takes that
slot, and its sender's slot is freed (R29). -/
theorem State.arriveFrame_takes {s : State} {f : Frame} {j : Nat} (hgen : f.gen = s.genOf f.vf) (h3 : f.reason ≠ 3) (h4 : f.reason ≠ 4)
    (hq : s.queued = []) (hfenced : s.isFenced f.dst = false) (hclass : f.classes.contains (classOf f.dst) = true)
    (hj : s.freeSlot f.dst = some j) (hpart : s.inPart f.part f.dst = true) (hcolumn : s.inColumn f.dst = false)
    (hsent : (s.slot f.src).life = .sent) :
    s.arriveFrame f = (({ s with frames := s.frames.erase f }).freeSlotOf f.src).placeFrame f f.dst j := by
  unfold State.arriveFrame
  generalize hu : ({ s with frames := s.frames.erase f } : State) = u
  have hold : (f.gen != u.genOf f.vf) = false := by rw [← hu, hgen]; exact bne_self_eq_false _
  have hfenced' : u.isFenced f.dst = false := by rw [← hu]; exact hfenced
  have hpart' : u.inPart f.part f.dst = true := by rw [← hu]; exact hpart
  have hcolumn' : u.inColumn f.dst = false := by rw [← hu]; exact hcolumn
  have hj' : u.freeSlot f.dst = some j := by rw [← hu]; exact hj
  have hsent' : (u.slot f.src).life = .sent := by rw [← hu]; exact hsent
  have hahead : ∀ names, u.aheadQ f.part f.dst names = false := State.aheadQ_none (by rw [← hu]; exact hq) _ _
  simp only [hold, hfenced', hpart', hcolumn', hclass, hahead, u.heldFor_none h3 h4, hj', State.ackFrame_sent hsent', Bool.false_eq_true, if_false,
    Bool.not_false, Bool.and_self, Bool.or_true, if_true]

/-- A freed slot of a core goes to the frame at the head of the queue, where it names that core (R93). -/
theorem State.deliverFreed_named {s : State} {c j : Nat} {f : Frame} {rest : List Frame} (hq : s.queued = f :: rest)
    (hj : s.freeSlot c = some j) (hpart : f.part = s.partOfCore c) (hrun : s.running f.vf = true) (hnamed : f.named = c) :
    s.deliverFreed c = ({ s with queued := rest }).placeFrame { f with dst := c, dclass := classOf c } c j := by
  have hfind : s.queued.find? (fun f => f.part == s.partOfCore c && s.running f.vf && f.named == c) = some f := by
    simp [hq, hpart, hrun, hnamed]
  have herase : s.queued.erase f = rest := by rw [hq, List.erase_cons_head]
  simp only [State.deliverFreed, hj, hfind, herase]

/-- FRAME_CRC_RETRY of a frame with resends left (R28, R99). -/
theorem execFrameCrcRetry_resends {s : State} {f : Frame} (hf : s.frames[s.subject.item]? = some f) (h : f.retries < 16) :
    execFrameCrcRetry s = .next { s with frames := s.frames.set s.subject.item { f with retries := f.retries + 1 } } := by
  simp only [execFrameCrcRetry, hf, if_pos h]
/-- FRAME_ARRIVAL (R29). -/
theorem execFrameArrival_frame {s : State} {f : Frame} (hf : s.frames[s.subject.item]? = some f) :
    execFrameArrival s = .next (s.arriveFrame f) := by
  simp only [execFrameArrival, hf]
/-- QUEUED_FRAME_DELIVERY on a core that is not fenced (R93). -/
theorem execQueuedFrameDelivery_unfenced {s : State} (h : s.isFenced s.subject.core = false) :
    execQueuedFrameDelivery s = .next (s.deliverFreed s.subject.core) := by
  simp [execQueuedFrameDelivery, h]

/-- Once a delivery has failed for good, the frame is gone and the slot that was kept for it is free (R99). -/
def State.undelivered (s : State) (f : Frame) : State :=
  { (match s.heldFor f with | some r => s.freeSlotOf r | none => s) with frames := s.frames.erase f }
/-- The slots once a delivery has failed for good (R99). -/
theorem State.slot_undelivered (s : State) (f : Frame) (i : Nat) :
    (s.undelivered f).slot i = if s.heldFor f = some i then {} else s.slot i := by
  unfold State.undelivered
  split
  · next r hr => rw [hr]; simp only [Option.some.injEq, eq_comm (a := r)]; exact s.slot_setSlot r i {}
  · next hr => rw [hr]; rfl
/-- The registers of a VF once a delivery has failed for good. -/
theorem State.vfRegs_undelivered (s : State) (f : Frame) (v c : Nat) : (s.undelivered f).vfRegs v c = s.vfRegs v c := by
  unfold State.undelivered
  split <;> rfl
/-- The slot of a sender takes its shuttle back from a frame (R99). -/
def Frame.restore (f : Frame) (m : Slot) : Slot := { m with life := .ready, sh := f.sh, task := f.task, refused := f.refused, pack := none }
/-- FRAME_DELIVERY_FAILED after the last resend, where the sender's core is not fenced (R99): the sender's shuttle is as the frame holds it, and
takes the trap. -/
theorem execFrameDeliveryFailed_returns {s : State} {f : Frame} (hf : s.frames[s.subject.item]? = some f) (h : 16 ≤ f.retries)
    (hfenced : s.isFenced (f.src / 16) = false) (hsent : (s.slot f.src).life = .sent) : execFrameDeliveryFailed s =
      .next (((s.undelivered f).updSlot f.src f.restore).trapSlot f.src (cause 1 7 3) 24 (BitVec.ofNat 64 f.dst) f.sh.pc false 0) := by
  have hretries : (decide (f.retries < 16) && !s.subject.flag) = false := by simp [Nat.not_lt.2 h]
  simp only [execFrameDeliveryFailed, hf, hretries, hfenced, hsent, State.undelivered] <;> rfl
/-- A trap taken outside M mode that posts no record enters the S handler (R80), and nothing but the slot changes. -/
theorem State.trapSlot_entersS {s : State} {k : Nat} (hm : (s.slot k).sh.mode ≠ .m)
    (hr : bitOf (s.vfRegs (s.slot k).vf (k / 16)).trec 0 = false) (c : BitVec 10) (scause tval epc : Word) (under : BitVec 10) :
    s.trapSlot k c scause tval epc false under =
      s.setSlot k ((s.slot k).enterS c scause tval epc (s.vfRegs (s.slot k).vf (k / 16)).stvec false) := by
  simp only [State.trapSlot, hm, if_false, hr, Bool.false_eq_true]

/-- Settles O39: each step meets the one branch that sends, counts, places or returns its frame. -/
theorem framesCarryTheirShuttle : Obligations.FramesCarryTheirShuttle := by
  unfold Obligations.FramesCarryTheirShuttle
  rintro s k m rfl rfl
  refine ⟨fun i n he hlife hpack hsettled hreason hslot hn hany hfree hfenced hq hpost htrec => ?pack, fun f hf hretries => ?resend,
    fun f j hf hgen h3 h4 hq hp ht hfenced hclass hj hpart hcolumn hsent => ?arrival,
    fun c f rest j hc hq hfenced hj hpart hrun hnamed ht hp => ?queued, fun f hf hretries hfenced hsent hm htrec => ?failed⟩
  case pack =>
    subst hn
    obtain ⟨f, hframes, hvf, hsrc, hdst, hreason', hgen, hsh, hsent, hothers, hbytes⟩ :=
      State.sendFrame_named he hreason hslot hany hfree hfenced hq htrec
    rw [← State.tryPack_settled hlife hpack hsettled hpost] at hframes hsent hothers hbytes
    exact ⟨_, f, rfl, hframes, hvf, hsrc, hdst, hreason', hgen, hsh, hsent, hothers, hbytes⟩
  case resend => exact ⟨_, execFrameCrcRetry_resends hf hretries, rfl, rfl⟩
  case arrival =>
    obtain ⟨-, hjfree⟩ := State.freeSlot_spec hj
    have hne : f.src ≠ f.dst * 16 + j := fun h => by rw [h, hjfree] at hsent; cases hsent
    have hp' : (({ s with frames := s.frames.erase f }).freeSlotOf f.src).NoPins := State.NoPins.freeSlotOf (s := { s with frames := _ }) hp _
    obtain ⟨harrives, hothers, hframes, -, hl1, hbytes⟩ := State.placeFrame_arrives hp' ht f.dst j
    refine ⟨_, (execFrameArrival_frame hf).trans (congrArg _ (State.arriveFrame_takes hgen h3 h4 hq hfenced hclass hj hpart hcolumn hsent)),
      hframes, harrives, ?_, fun i hi hij => ?_, hl1, hbytes⟩
    · rw [hothers _ hne]; exact State.slot_setSlot_self _ _ _
    · rw [hothers i hij]; exact State.slot_setSlot_of_ne _ _ hi
  case queued =>
    subst hc
    obtain ⟨harrives, hothers, -, hqueued, -, hbytes⟩ := State.placeFrame_arrives (s := { s with queued := rest })
      (f := { f with dst := s.subject.core, dclass := classOf s.subject.core }) hp ht s.subject.core j
    exact ⟨_, (execQueuedFrameDelivery_unfenced hfenced).trans (congrArg _ (State.deliverFreed_named hq hj hpart hrun hnamed)), hqueued,
      harrives, hothers, hbytes⟩
  case failed =>
    have hnot : s.heldFor f ≠ some f.src := fun h => by
      have hreserved := State.heldFor_reserved h
      rw [hsent] at hreserved; cases hreserved
    have hself : (s.undelivered f).slot f.src = s.slot f.src := by rw [State.slot_undelivered, if_neg hnot]
    have hrestored : ((s.undelivered f).updSlot f.src f.restore).slot f.src = f.restore (s.slot f.src) := by
      rw [State.updSlot, State.slot_setSlot_self, hself]
    have hregs : ((s.undelivered f).updSlot f.src f.restore).vfRegs (s.slot f.src).vf (f.src / 16) =
        s.vfRegs (s.slot f.src).vf (f.src / 16) := s.vfRegs_undelivered f _ _
    have htrap := State.trapSlot_entersS (s := (s.undelivered f).updSlot f.src f.restore) (k := f.src) (by rw [hrestored]; exact hm)
      (by rw [hrestored]; exact (congrArg (fun r => bitOf r.trec 0) hregs).trans htrec)
    have hexec := execFrameDeliveryFailed_returns hf hretries hfenced hsent
    rw [htrap, hrestored] at hexec
    refine ⟨_, hexec, rfl, ?_, ?_, fun i hi => ?_⟩
    · rw [State.slot_setSlot_self]; rfl
    · rw [State.slot_setSlot_self, ← hregs]; rfl
    · rw [State.slot_setSlot_of_ne _ _ hi, State.updSlot, State.slot_setSlot_of_ne _ _ hi, State.slot_undelivered]

end Sys2Proof.Machine

namespace Sys2Proof.Machine

/-! Starts and exits (R31, R70, R72). -/

/-- A word that may run passes the decode gate (R45). -/
theorem State.gate_mayRun {s : State} {i : Instr} (h : s.MayRun i) (f : State → Out) : s.gate i none f = f s := by
  obtain ⟨hmask, hclass⟩ := h
  simp [State.gate, hmask, hclass]
/-- A release with every store home goes on at once (R229). -/
theorem State.release_home {s : State} (h : s.StoresHome) (f : State → Out) : s.release f = f s := by
  obtain ⟨hbuf, hrefused⟩ := h
  have hrel : s.releaseSlot s.focus = s := State.releaseSlot_home hbuf
  simp only [State.release, hrel, State.takeRefusal, hrefused, ite_self]
/-- An access that no watched range holds leaves the access log alone (R355). -/
theorem State.noteLog_unlogged {s : State} {w : Who} {a : Nat} (h : ∀ e ∈ (s.vf w.vf).logRanges, ¬(e.2.base ≤ a ∧ a < e.2.limit)) (acc : Access)
    (host : Bool) : s.noteLog w acc a host = s := by
  refine if_neg ?_
  simp only [List.any_eq_true, Bool.and_eq_true, decide_eq_true_eq, not_exists]
  exact fun e he => h e he.1 he.2
/-- The scratchpads of a shuttle that runs on a core are those of the cores (R204, R330). -/
theorem State.savedAway_core (s : State) (agent : Nat) : s.savedAway (s.who agent) = false := by
  simp [State.savedAway, State.who]
/-- A load of the shuttle in focus from a window reads the block there, where no store of its core to the block is on its way and the unit is not
poisoned (R204, R205, R77). -/
theorem State.load_window {s : State} {a : Nat} (hw : s.WindowAllows a) (hsettled : s.WindowSettled a) (hlog : s.Unlogged a)
    (hpoison : SMap.get false (s.core (windowCore a)).ctx.spoison (windowOff a / 8) = false) (need : BitVec 8) (acq : Bool)
    (dev : Option (BitVec 10)) :
    s.load (s.who 0) s.focus a need acq dev = .ok s ((s.core (windowCore a)).ctx.scratchBlock (windowOff a / 8)) := by
  obtain ⟨hmode, hwindow, htest⟩ := hw
  have hreserved : isReservedVa a = false := by
    simp only [isWindow, beq_iff_eq] at hwindow
    exact decide_eq_false (by omega)
  have hmachine : ¬ (s.who 0).mode = .m := hmode
  have hcause : s.windowCause (s.who 0) false a = none := by
    simp only [State.windowCause, s.savedAway_core, Bool.false_eq_true, if_false]
    exact congrArg (Option.map _) htest
  have hnone : s.registerWhere (s.who 0).core (fun e => e.shid == s.focus && e.pol == 4 && e.block == a / 8) = s :=
    State.registerWhere_none fun e he => by simp [hsettled e he]
  have hctx : s.windowCtx (s.who 0) (windowCore a) = (s.core (windowCore a)).ctx := by
    simp only [State.windowCtx, s.savedAway_core, Bool.false_eq_true, if_false]
  simp only [State.load, hmachine, if_false, hreserved, Bool.false_eq_true, hwindow, if_true, State.windowRead, hcause, hnone, hctx, hpoison]
  rw [State.noteLog_unlogged (s := s) hlog]

/-- A window address passes its checks exactly where its core may be used, its offset lies in the scratchpad, and the selvedge lets it pass
(R204, R221). -/
theorem State.windowTest_eq_none {s : State} {p src agent a : Nat} : s.windowTest p src agent a = none ↔
    ¬(a / 2 ^ 36 % 4096 ≠ 0 ∨ a / 2 ^ 28 % 16 ≠ 0 ∨ 192 ≤ windowCore a % 256 ∨ s.inPart p (windowCore a) = false ∨
        s.isFenced (windowCore a) = true ∨ s.inColumn (windowCore a) = true) ∧
      windowOff a < s.scratchSize (windowCore a) ∧ ¬(src ≠ windowCore a ∧ s.selvedgeOk p src (windowCore a) = false) := by
  unfold State.windowTest
  dsimp only
  split
  · simp_all
  · split
    · next h => simp [Nat.not_lt.2 h]
    · next h => split <;> simp_all
/-- A scratchpad is made of whole 64-byte blocks (R204). -/
theorem State.scratchSize_blocks (s : State) (c : Nat) : s.scratchSize c % 64 = 0 := by
  unfold State.scratchSize
  split
  · rfl
  · omega
  · rfl

/-- The doublewords of a 64-byte block of a window lie in one scratchpad, one behind the other. -/
theorem windowBlock_place {a i : Nat} (ha : a % 64 = 0) (hi : i < 8) :
    windowCore (a + 8 * i) = windowCore a ∧ windowOff (a + 8 * i) = windowOff a + 8 * i ∧ windowOff a % 64 = 0 ∧
      (a + 8 * i) / 2 ^ 36 = a / 2 ^ 36 ∧ (a + 8 * i) / 2 ^ 28 = a / 2 ^ 28 ∧ (a + 8 * i) / 2 ^ 48 = a / 2 ^ 48 := by
  unfold windowCore windowOff
  refine ⟨?_, ?_, ?_, ?_, ?_, ?_⟩ <;> omega
/-- A window address that may be used gives its whole block. -/
theorem State.WindowAllows.block {s : State} {a i : Nat} (h : s.WindowAllows a) (ha : a % 64 = 0) (hi : i < 8) : s.WindowAllows (a + 8 * i) := by
  obtain ⟨hmode, hwindow, htest⟩ := h
  obtain ⟨hcore, hoff, haligned, h36, h28, h48⟩ := windowBlock_place ha hi
  refine ⟨hmode, by rw [isWindow, h48]; exact hwindow, ?_⟩
  rw [State.windowTest_eq_none] at htest ⊢
  obtain ⟨hplace, hin, hselvedge⟩ := htest
  have hblocks := s.scratchSize_blocks (windowCore a)
  rw [hcore, hoff, h36, h28]
  exact ⟨hplace, by omega, hselvedge⟩

/-- A doubleword of a readable block is read as the block has it, and nothing changes (R70). -/
theorem State.load_block {s : State} {a i : Nat} (h : s.BlockReadable a) (hi : i < 8) :
    s.load (s.who 0) s.focus (a + 8 * i) 0xFF false none = .ok s (s.windowWord a i) := by
  obtain ⟨ha, hallows, hsettled, hclean⟩ := h
  obtain ⟨hpoison, hlog⟩ := hclean i hi
  obtain ⟨hcore, hoff, haligned, -, -, -⟩ := windowBlock_place ha hi
  have hunit : windowOff (a + 8 * i) / 8 = windowOff a / 8 + i := by omega
  have hbyte : ∀ j, 8 * (windowOff a / 8 + i) + j = windowOff a + 8 * i + j := fun j => by omega
  rw [State.load_window (hallows.block ha hi) (fun e he hblock => hsettled e he (by omega)) hlog (by rw [hcore, hunit]; exact hpoison), hcore,
    hunit, CoreCtx.scratchBlock, State.windowWord]
  congr 1
  refine BitVec.eq_of_toNat_eq ?_
  rw [wordOf8_toNat, BitVec.toNat_ofNat, Nat.mod_eq_of_lt (littleEndian_lt _ 8)]
  simp only [hbyte]
  rfl
/-- A readable block is read doubleword by doubleword, and nothing changes (R70). -/
theorem State.loadBlockWords_block {s : State} {a : Nat} (h : s.BlockReadable a) :
    s.loadBlockWords (s.who 0) a 8 = .ok s (s.windowBlock a) := by
  have hfrom : ∀ n i, i + n ≤ 8 → s.loadBlockWords (s.who 0) (a + 8 * i) n = .ok s ((List.range' i n).map (s.windowWord a)) := by
    intro n
    induction n with
    | zero => exact fun i _ => rfl
    | succ n ih =>
      intro i hi
      rw [State.loadBlockWords, State.load_block h (by omega), Res.bind_ok, show a + 8 * i + 8 = a + 8 * (i + 1) by omega, ih (i + 1) (by omega),
        Res.bind_ok, List.range'_succ, List.map_cons]
  rw [State.windowBlock, List.range_eq_range']
  exact hfrom 8 0 (by omega)

/-- The start that a block of a shuttle's own describes for a core (R70). -/
def State.blockStart (s : State) (d : List Word) (core : Nat) : Start :=
  { vf := s.me.vf, core := core, entry := d.getD 0 0, arg0 := d.getD 1 0, arg1 := d.getD 2 0, control := d.getD 3 0
    task := { completion := d.getD 4 0 } }

section
variable {rd rs1 rs2 : XReg} {s : State} (hrun : s.MayRun (.shstart rd rs1 rs2)) (hwait : s.me.wait = none) (hv : s.VectorIdle)
  (hhome : s.StoresHome) (hblock : s.BlockReadable (s.x rs1).toNat)
include hrun hwait hv hhome hblock

/-- SHSTART of a readable block that fails a check (R70). -/
theorem execShstart_refused {code : Nat}
    (hcheck : s.startCheck (s.partOfVf s.me.vf) s.myCore (s.windowBlock (s.x rs1).toNat) (s.x rs2) (s.sh.mode == .u) = .inl code) :
    execShstart rd rs1 rs2 s = .next (s.completeX rd (startStatus code 0)) := by
  have hdone : s.me.doneValue = none := by simp [Slot.doneValue, hwait]
  obtain ⟨ha, -, -⟩ := id hblock
  simp only [execShstart, State.gate_mayRun hrun, hdone, ha, ne_eq, not_true_eq_false, if_false, hv.afterVector, State.release_home hhome,
    State.loadBlockWords_block hblock, Res.run_ok, hcheck]
/-- SHSTART of a readable block that passes its checks (R70), where the heddle answers at once. -/
theorem execShstart_offers {core : Nat}
    (hcheck : s.startCheck (s.partOfVf s.me.vf) s.myCore (s.windowBlock (s.x rs1).toNat) (s.x rs2) (s.sh.mode == .u) = .inr core)
    (he : s.eager = true) : execShstart rd rs1 rs2 s =
      .next ((s.offer (s.blockStart (s.windowBlock (s.x rs1).toNat) core) false).1.completeX rd
        (startStatus (s.offer (s.blockStart (s.windowBlock (s.x rs1).toNat) core) false).2 core)) := by
  have hdone : s.me.doneValue = none := by simp [Slot.doneValue, hwait]
  obtain ⟨ha, -, -⟩ := id hblock
  simp only [execShstart, State.gate_mayRun hrun, hdone, ha, ne_eq, not_true_eq_false, if_false, hv.afterVector, State.release_home hhome,
    State.loadBlockWords_block hblock, Res.run_ok, hcheck, he, if_true, State.blockStart]
end

/-- SHEXIT with no fault held and no signal word to check, where engines do not act at once (R72). -/
theorem execShexit_exiting {s : State} (he : s.eager = false) (hv : s.VectorIdle) (hd : s.me.deferred = []) (hs : s.me.task.successors = [])
    (hc : s.me.task.completion = 0) : execShexit s = .next (s.updMe fun m => { m with life := .exiting, wait := none }) := by
  have hsignals : s.me.task.signals = [] := by simp [TaskInfo.signals, hs, hc]
  have heager : (s.updMe fun m => { m with life := .exiting, wait := none }).eager = false := he
  simp only [execShexit, State.deferredFirst, Slot.firstDeferred_none hd, hv.afterVector, hsignals, State.checkSignals, Res.run_ok, heager,
    Bool.false_eq_true, if_false]

/-- A shuttle with no scratch grant, record or mix order leaves its slot free, and nothing else changes (R72). -/
theorem State.freeShuttle_bare {s : State} {k : Nat} (ht : (s.slot k).task = {}) (hm : (s.slot k).mixOrder = none) :
    s.freeShuttle k = s.freeSlotOf k := by
  simp only [State.freeShuttle, ht, hm]
/-- An exit with nothing outstanding and no signal words frees its slot (R72), where engines do not act at once. -/
theorem State.tryExit_frees {s : State} {k : Nat} (he : s.eager = false) (hlife : (s.slot k).life = .exiting) (hwait : (s.slot k).wait = none)
    (hsettled : s.Settled k) (ht : (s.slot k).task = {}) (hm : (s.slot k).mixOrder = none) :
    ∃ w, s.tryExit k = (s.updSlot k fun m => { m with wait := w }).freeSlotOf k := by
  obtain ⟨hvq, hvrun, hheld, htl, hcp, hdeferred, hrefused, hbuf⟩ := hsettled
  have hbusy : (s.slot k).vectorBusy = false := by simp [Slot.vectorBusy, hvq, hvrun]
  have hdone : (s.slot k).doneValue = none := by simp [Slot.doneValue, hwait]
  refine ⟨some { kind := .done 0 }, ?_⟩
  have hslot : (s.updSlot k fun m => { m with wait := some { kind := .done 0 } }).slot k =
      { s.slot k with wait := some { kind := .done 0 } } := s.slot_setSlot_self k _
  unfold State.tryExit
  simp only [hlife, ne_eq, not_true_eq_false, if_false, hdone, Option.isSome_none, Bool.false_eq_true, hbusy,
    Slot.firstDeferred_none hdeferred, hrefused, List.isEmpty_nil, Bool.not_true, hheld, htl, hcp, State.stOf_zero hvq hvrun hbuf,
    bne_self_eq_false, Bool.or_self, State.releaseSlot_home hbuf, if_true, hslot, ht]
  have hnone : ∀ t : State, t.decrements k ({} : TaskInfo).signals = (t, []) := fun _ => rfl
  have hfree : (s.updSlot k fun m => { m with wait := some { kind := .done 0 } }).freeShuttle k = _ :=
    State.freeShuttle_bare (by rw [hslot]; exact ht) (by rw [hslot]; exact hm)
  rw [hnone]
  dsimp only
  rw [hfree]
  exact if_neg (by simp [State.freeSlotOf, he])

/-- Settles O23: a block that can be read is checked as a whole; its start takes the slot that the core offers, which is not the issuer's; and an
exit with nothing outstanding goes straight to the freeing of its slot. -/
theorem shuttlesStartAndExit : Obligations.ShuttlesStartAndExit := by
  unfold Obligations.ShuttlesStartAndExit
  refine ⟨fun rd rs1 rs2 s d hrun hwait hv hhome hblock hd => ⟨fun code hcheck => ?refused,
    fun core hcheck he hfenced hq hframes hs k hk hne hfit => ?started⟩, fun s he => ⟨fun hv hdeferred hs hc => ?exiting, ?released⟩⟩
  case refused =>
    subst hd
    have hcode : startStatus code 0 = BitVec.ofNat 64 code := by simp [startStatus]
    refine ⟨_, execShstart_refused hrun hwait hv hhome hblock hcheck, ?_⟩
    rw [hcode]
    exact s.completeX_writes rd _
  case started =>
    subst hd
    have hexec := execShstart_offers hrun hwait hv hhome hblock hcheck he
    generalize hst : s.blockStart (s.windowBlock (s.x rs1).toNat) core = st at hexec
    have hcore : st.core = core := by rw [← hst]; rfl
    rw [State.offer_starts (by rw [hcore]; exact hfenced) hq hs (.inr (by rw [hcore]; exact hframes)) (by rw [hcore]; exact hk)
      (by rw [← hst]; exact hfit), hcore] at hexec
    obtain ⟨⟨hlife, hvf, hpc, -, hx⟩, hfocus, hothers⟩ := s.startIn_fills st core k
    generalize s.startIn st core k none = u at hexec hlife hvf hpc hx hfocus hothers
    obtain ⟨⟨-, hkept, -⟩, -, -, hpc', -, hx'⟩ := u.completeX_writes rd (startStatus 0 core)
    have hsh : u.sh = s.sh := by rw [State.sh, State.me, hfocus]; exact hothers _ hne.symm
    have hplace : (u.completeX rd (startStatus 0 core)).slot (core * 16 + k) = u.slot (core * 16 + k) := hkept _ (by rw [hfocus]; exact hne)
    refine ⟨_, hexec, ?_, by rw [hpc', hsh], ?_⟩
    · rw [hx']
      by_cases hrd : rd = 0
      · subst hrd; rfl
      · simp [hrd, startStatus]
    · rw [hplace, hlife, hvf, hpc, hx, hx, ← hst]
      exact ⟨rfl, rfl, rfl, rfl, rfl⟩
  case exiting =>
    have hnone : s.me.deferred = [] := List.eq_nil_iff_forall_not_mem.2 fun d hd => Bool.noConfusion (hdeferred d hd)
    exact ⟨_, execShexit_exiting he hv hnone hs hc, s.updMe_onlySlot _, s.me_updMe _⟩
  case released =>
    rintro m rfl hlife hwait hdeferred hrefused hvq hvrun hheld htl hcp htask hmix hbuf
    obtain ⟨w, hexit⟩ := State.tryExit_frees he hlife hwait ⟨hvq, hvrun, hheld, htl, hcp, hdeferred, hrefused, hbuf⟩ htask hmix
    have hexec : exec .exitRelease s = .next (s.tryExit s.subjectSlot) := rfl
    rw [hexit] at hexec
    refine ⟨_, hexec, State.slot_setSlot_self _ _ _, fun k hk => ?_, fun b => rfl⟩
    rw [State.freeSlotOf, State.slot_setSlot_of_ne _ _ hk, State.updSlot, State.slot_setSlot_of_ne _ _ hk]

end Sys2Proof.Machine

/-! PROOFS. The decoder and the encoder (R34 to R39): what the decoder reads of the fields that the encoder writes, layout by layout, and from it
that the word of a well-formed instruction decodes to that instruction. -/

namespace Sys2Proof.Machine
open Sys2Proof.Laws

/-! Registers, immediates and codes read back (R37, R38). -/

@[simp] theorem x1_val (a : XReg) (k : XReg → Instr) : x1 a.val k = .instr (k a) := dif_pos a.isLt
@[simp] theorem x2_val (a b : XReg) (k : XReg → XReg → Instr) : x2 a.val b.val k = .instr (k a b) := by
  simp only [x2, dif_pos a.isLt, dif_pos b.isLt]
@[simp] theorem x3_val (a b c : XReg) (k : XReg → XReg → XReg → Instr) : x3 a.val b.val c.val k = .instr (k a b c) := by
  simp only [x3, dif_pos a.isLt, dif_pos b.isLt, dif_pos c.isLt]
@[simp] theorem vr_val (v : VReg) : vr v.val = v := Fin.ofNat_val_eq_self v
@[simp] theorem mr_val (m : MReg) : mr m.val = m := Fin.ofNat_val_eq_self m

/-- A field is cut to its width. -/
theorem bf_eq_of_mod {n k : Nat} {b : BitVec n} (h : k % 2 ^ n = b.toNat) : bf n k = b :=
  BitVec.eq_of_toNat_eq ((BitVec.toNat_ofNat _ _).trans h)
@[simp] theorem bf_toNat {n : Nat} (b : BitVec n) : bf n b.toNat = b := bf_eq_of_mod (Nat.mod_eq_of_lt b.isLt)
/-- A field of 2, 3 or 4 bits leaves the bits above it 0. -/
theorem toNat2_div (b : BitVec 2) : b.toNat / 4 = 0 := Nat.div_eq_of_lt b.isLt
theorem toNat3_div (b : BitVec 3) : b.toNat / 8 = 0 := Nat.div_eq_of_lt b.isLt
theorem toNat4_div (b : BitVec 4) : b.toNat / 16 = 0 := Nat.div_eq_of_lt b.isLt

@[simp] theorem scopeOf_code (c : Scope) : scopeOf c.code = c := by cases c <;> rfl
@[simp] theorem orderOf_code (c : Order) : orderOf c.code = c := by cases c <;> rfl
@[simp] theorem widthOf_code (c : Width) : widthOf c.code = c := by cases c <;> rfl
@[simp] theorem etypeOf_code (c : EType) : etypeOf c.code = some c := by cases c <;> rfl
@[simp] theorem condOf_code (c : Cond) : condOf c.code = c := by cases c <;> rfl
@[simp] theorem maskOpOf_code (c : MaskOp) : maskOpOf c.code = c := by cases c <;> rfl
@[simp] theorem pairOf_code (c : FormatPair) : pairOf c.code = some c := by cases c <;> rfl
@[simp] theorem lb_beq_one (b : Bool) : (lb b == 1) = b := by cases b <;> rfl
/-- A scope that is not the core has a code that is not 0. -/
theorem scopeCode_ne_zero {c : Scope} (h : (c != .core) = true) : c.code ≠ 0 := by
  cases c with
  | core => exact absurd h (by decide)
  | clu | pkg | sys => decide
/-- A mask register that is not 0 has a number that is not 0. -/
theorem mregVal_ne_zero {m : MReg} (h : (m != 0) = true) : m.val ≠ 0 := Fin.val_ne_of_ne (bne_iff_ne.1 h)

/-- The two digits of a number written in base m. -/
theorem lowDigit (a b m : Nat) : (a % m + b * m) % m = a % m := by rw [Nat.add_mul_mod_self_right, Nat.mod_mod]
theorem highDigit (a b : Nat) {m : Nat} (h : 0 < m) : (a % m + b * m) / m = b := by
  rw [Nat.add_mul_div_right _ _ h, Nat.div_eq_of_lt (Nat.mod_lt _ h), Nat.zero_add]

section Immediates
variable (op rd f3 rs1 rs2 : Nat)
@[simp] theorem imm12_fields (imm : BitVec 12) : WordFields.imm12 ⟨op, rd, f3, rs1, imm.toNat % 32, imm.toNat / 32⟩ = imm :=
  bf_eq_of_mod (by simp only; omega)
@[simp] theorem simm_fields (imm : BitVec 12) : WordFields.simm ⟨op, imm.toNat % 32, f3, rs1, rs2, imm.toNat / 32⟩ = imm :=
  bf_eq_of_mod (by simp only; omega)
@[simp] theorem boff_fields (off : BitVec 12) : WordFields.boff
    ⟨op, off.toNat / 1024 % 2 + off.toNat % 16 * 2, f3, rs1, rs2, off.toNat / 16 % 64 + off.toNat / 2048 * 64⟩ = off :=
  bf_eq_of_mod (by simp only [lowDigit, highDigit, Nat.zero_lt_succ]; omega)
@[simp] theorem uimm20_fields (imm : BitVec 20) : WordFields.uimm20
    ⟨op, rd, imm.toNat % 8, imm.toNat / 8 % 32, imm.toNat / 256 % 32, imm.toNat / 8192⟩ = imm :=
  bf_eq_of_mod (by simp only; omega)
@[simp] theorem joff_fields (off : BitVec 20) : WordFields.joff
    ⟨op, rd, off.toNat / 2048 % 8, off.toNat / 16384 % 32, off.toNat / 1024 % 2 + off.toNat % 16 * 2,
      off.toNat / 16 % 64 + off.toNat / 524288 * 64⟩ = off :=
  bf_eq_of_mod (by simp only [lowDigit, highDigit, Nat.zero_lt_succ]; omega)
end Immediates

/-! The 32-bit formats of RISC-V beyond those (R61, R62, R69). -/

/-- A 6-bit shift amount, under an operation code that starts at bit 26. -/
theorem shamt6_fields {c : Nat} (sh : BitVec 6) (h : c % 2 = 0) : bf 6 (sh.toNat % 32 + (sh.toNat / 32 + c) % 2 * 32) = sh :=
  bf_eq_of_mod (by omega)
theorem shamt6_upper {c : Nat} (sh : BitVec 6) (h : c % 2 = 0) : (sh.toNat / 32 + c) / 2 = c / 2 := by omega

theorem fence_fm (fm pred : BitVec 4) : bf 4 ((pred.toNat / 2 + fm.toNat * 8) / 8) = fm := bf_eq_of_mod (by omega)
theorem fence_pred (fm pred succ : BitVec 4) :
    bf 4 ((pred.toNat / 2 + fm.toNat * 8) % 8 * 2 + (succ.toNat + pred.toNat % 2 * 16) / 16) = pred := bf_eq_of_mod (by omega)
theorem fence_succ (pred succ : BitVec 4) : bf 4 ((succ.toNat + pred.toNat % 2 * 16) % 16) = succ := bf_eq_of_mod (by omega)

/-- A rounding mode that decodes passes its gate. -/
theorem rmGate_of_ok {rm : BitVec 3} (h : rmOk rm = true) (op rd rs1 rs2 f7 : Nat) (k : BitVec 3 → Decoded) :
    rmGate ⟨op, rd, rm.toNat, rs1, rs2, f7⟩ k = k rm := by
  simp only [rmOk, Bool.and_eq_true, bne_iff_ne, ne_eq, ← BitVec.toNat_inj] at h
  have hgate : ¬ (rm.toNat = 5 ∨ rm.toNat = 6) := by simpa using h
  rw [rmGate, if_neg hgate, bf_toNat]

/-! Bits [31:25] of an SX word: the scope, f4 and the L bit (R46 to R49). -/

theorem sx_scope (c : Nat) (l : Bool) : (c + lb l * 64) % 4 = c % 4 := by omega
theorem sx_f4 (c : Nat) (l : Bool) : (c + lb l * 64) / 4 % 16 = c / 4 % 16 := by omega
theorem scopeAdd_mod {c : Nat} (sc : Scope) (h : c % 4 = 0) : (sc.code + c) % 4 = sc.code := by
  have := FieldsFit.scope_lt sc
  omega
theorem scopeAdd_div {c : Nat} (sc : Scope) (h : c % 4 = 0) : (sc.code + c) / 4 = c / 4 := by
  have := FieldsFit.scope_lt sc
  omega

section Atomics
variable {c : Nat} (sc : Scope) (ord : Order) (wd : Width) (l : Bool) (h : c % 32 = 0)
include h
theorem amo_scope : (sc.code + ord.code * 4 + wd.code * 16 + c + lb l * 64) % 4 = sc.code := by
  have := FieldsFit.scope_lt sc
  omega
theorem amo_order : (sc.code + ord.code * 4 + wd.code * 16 + c + lb l * 64) / 4 % 4 = ord.code := by
  have := FieldsFit.scope_lt sc
  have := FieldsFit.order_lt ord
  omega
theorem amo_width : (sc.code + ord.code * 4 + wd.code * 16 + c + lb l * 64) / 16 % 2 = wd.code := by
  have := FieldsFit.scope_lt sc
  have := FieldsFit.order_lt ord
  have := FieldsFit.width_lt wd
  omega
theorem amo_upper : (sc.code + ord.code * 4 + wd.code * 16 + c + lb l * 64) / 32 % 2 = c / 32 % 2 := by
  have := FieldsFit.scope_lt sc
  have := FieldsFit.order_lt ord
  have := FieldsFit.width_lt wd
  omega
end Atomics

/-! Bits [31:25] of an SI word (R50). -/

section VectorMemory
variable {a c : Nat} (o v l : Bool) (ha : a < 2) (h : c % 8 = 0)
include ha h
theorem vmem_pbit : (a + lb v * 2 + lb o * 4 + c + lb l * 64) % 2 = a := by omega
theorem vmem_vbit : (a + lb v * 2 + lb o * 4 + c + lb l * 64) / 2 % 2 = lb v := by
  have := FieldsFit.bit_lt v
  omega
theorem vmem_obit : (a + lb v * 2 + lb o * 4 + c + lb l * 64) / 4 % 2 = lb o := by
  have := FieldsFit.bit_lt v
  have := FieldsFit.bit_lt o
  omega
theorem vmem_f3b : (a + lb v * 2 + lb o * 4 + c + lb l * 64) / 8 % 8 = c / 8 % 8 := by
  have := FieldsFit.bit_lt v
  have := FieldsFit.bit_lt o
  omega
end VectorMemory

section VectorAtomics
variable {c : Nat} (ord : Order) (o l : Bool) (h : c % 8 = 0)
include h
theorem vamo_order : (ord.code + lb o * 4 + c + lb l * 64) % 4 = ord.code := by
  have := FieldsFit.order_lt ord
  omega
theorem vamo_obit : (ord.code + lb o * 4 + c + lb l * 64) / 4 % 2 = lb o := by
  have := FieldsFit.order_lt ord
  have := FieldsFit.bit_lt o
  omega
theorem vamo_f3b : (ord.code + lb o * 4 + c + lb l * 64) / 8 % 8 = c / 8 % 8 := by
  have := FieldsFit.order_lt ord
  have := FieldsFit.bit_lt o
  omega
end VectorAtomics

theorem vcfg_low (c : Nat) (l : Bool) : (c + lb l * 64) % 8 = c % 8 := by omega
theorem vcfg_f3b (c : Nat) (l : Bool) : (c + lb l * 64) / 8 % 8 = c / 8 % 8 := by omega
theorem rows_low {c : Nat} (rows : BitVec 4) (h : c % 8 = 0) : (rows.toNat / 2 + c) % 8 = rows.toNat / 2 := by omega
theorem rows_f3b {c : Nat} (rows : BitVec 4) (h : c % 8 = 0) : (rows.toNat / 2 + c) / 8 = c / 8 := by omega
theorem etypeAdd_mod (et : EType) (n : Nat) : (et.code + n * 16) % 16 = et.code := by
  have := FieldsFit.etype_lt et
  omega
theorem etypeAdd_div (et : EType) (n : Nat) : (et.code + n * 16) / 16 = n := by
  have := FieldsFit.etype_lt et
  omega
theorem vwait_f3b {c : Nat} (t : BitVec 3) (h : c % 8 = 0) : (t.toNat + c) / 8 = c / 8 := by omega
theorem vwait_time {c : Nat} (t : BitVec 3) (l : Bool) (h : c % 8 = 0) : bf 3 (t.toNat + c + lb l * 64) = t := bf_eq_of_mod (by omega)
theorem mregVal_div (m : MReg) : m.val / 8 = 0 := Nat.div_eq_of_lt m.isLt
theorem cwait_zero (t : BitVec 5) (l : Bool) : (t.toNat + lb l * 64) / 32 % 2 = 0 := by omega
theorem cwait_limit (t : BitVec 5) (l : Bool) : bf 5 (t.toNat + lb l * 64) = t := bf_eq_of_mod (by omega)

section Barriers
variable {c : Nat} (b : BitVec 6) (l : Bool) (h : c % 4 = 0)
include h
theorem bar_zero : (b.toNat / 32 + c + lb l * 64) / 2 % 2 = 0 := by omega
theorem bar_f4 : (b.toNat / 32 + c + lb l * 64) / 4 % 16 = c / 4 % 16 := by omega
theorem bar_number (op rd f3 rs1 : Nat) : WordFields.barrier ⟨op, rd, f3, rs1, b.toNat % 32, b.toNat / 32 + c + lb l * 64⟩ = b :=
  bf_eq_of_mod (by simp only; omega)
end Barriers

/-! Bits [31:25] of a VA word: the mask, the X bit and f3b (R51, R52). -/

section VectorArithmetic
variable {x c : Nat} (vm : MReg) (h : c % 16 = 0)
include h
theorem va_f3b (hx : x < 2) : (vm.val + x * 8 + c) / 16 % 8 = c / 16 % 8 := by omega
theorem va_xbit (hx : x < 2) (op rd f3 rs1 rs2 : Nat) : WordFields.xbit ⟨op, rd, f3, rs1, rs2, vm.val + x * 8 + c⟩ = (x == 1) := by
  have hbit : (vm.val + x * 8 + c) / 8 % 2 = x := by omega
  rw [WordFields.xbit, hbit]
theorem va_vm (op rd f3 rs1 rs2 : Nat) : WordFields.vm ⟨op, rd, f3, rs1, rs2, vm.val + x * 8 + c⟩ = vm :=
  Fin.ext (by simp only [WordFields.vm, mr, Fin.ofNat]; omega)
end VectorArithmetic

/-- A code that admits its operands, with a mask named where X = 1, passes its gate. -/
theorem xGate_of_ok {c : Nat} {ok : Bool} {vm : MReg} {x : Bool} (hok : ok = true) (hm : maskOk x vm = true) (h : c % 16 = 0)
    (op rd f3 rs1 rs2 : Nat) (k : Bool → MReg → Instr) :
    xGate ⟨op, rd, f3, rs1, rs2, vm.val + lb x * 8 + c⟩ ok k = .instr (k x vm) := by
  rw [xGate, va_xbit _ h (FieldsFit.bit_lt x), va_vm _ h, lb_beq_one, hok, hm, Bool.and_self, if_pos rfl]

theorem mr_of_mod {n : Nat} (h : n % 8 = 0) : mr n = 0 := Fin.ext h
theorem mregVal_mod (m : MReg) : m.val % 8 = m.val := Nat.mod_eq_of_lt m.isLt
theorem mregAdd_mod (m : MReg) (n : Nat) : (m.val + n * 8) % 8 = m.val := by omega
theorem mregAdd_div (m : MReg) (n : Nat) : (m.val + n * 8) / 8 = n := by omega
theorem mr_mregAdd (m : MReg) (n : Nat) : mr (m.val + n * 8) = m := Fin.ext (mregAdd_mod m n)

/-! Bits [31:25] of an MX word: the tag and the format pair (R53, R54). -/

theorem tag_div (t : BitVec 3) (n : Nat) : (t.toNat + n * 8) / 8 = n := by omega
theorem tag_fields (t : BitVec 3) (n : Nat) : bf 3 (t.toNat + n * 8) = t := bf_eq_of_mod (by omega)
theorem pairCode_mod (p : FormatPair) : p.code % 16 = p.code := Nat.mod_eq_of_lt (FieldsFit.pair_lt p)

/-! The decoder undoes the encoder, by the tables of R61 and R46 to R54. -/

/-- The major opcodes of custom-0 to custom-3 (R35). -/
def isCustom (op : Nat) : Bool := op == 0x0b || op == 0x2b || op == 0x5b || op == 0x7b

/-- The instructions of RISC-V, outside the custom spaces (R61, R62, R69). -/
theorem decodeFields_encodeFields_standard {l : Bool} {i : Instr} {f : WordFields} (hw : wellFormed i = true) (he : encodeFields l i = some f)
    (hop : isCustom f.op = false) : decodeFields f = .instr i := by
  cases i <;> obtain ⟨⟩ := he <;> obtain ⟨⟩ := hop
  case lui | auipc | jal | jalr => simp [decodeFields]
  case lb | lh | lw | ld | lbu | lhu | lwu => simp [decodeFields, decodeLoad]
  case sb | sh | sw | sd => simp [decodeFields, decodeStore]
  case beq | bne | blt | bge | bltu | bgeu => simp [decodeFields, decodeBranch]
  case addi | slti | sltiu | xori | ori | andi => simp [decodeFields, decodeOpImm]
  case slli | srli | srai => simp only [decodeFields, decodeOpImm, shamt6_fields, shamt6_upper, x2_val]; rfl
  case addiw | slliw | srliw | sraiw => simp [decodeFields, decodeOpImm32]
  case add | sub | sll | slt | sltu | xor | srl | sra | or | and | mul | mulh | mulhsu | mulhu | div | divu | rem | remu =>
    simp [decodeFields, decodeOp]
  case addw | subw | sllw | srlw | sraw | mulw | divw | divuw | remw | remuw => simp [decodeFields, decodeOp32]
  case fence | fenceI => simp only [decodeFields, decodeMiscMem, fence_fm, fence_pred, fence_succ, imm12_fields, bf_toNat]
  case ecall | ebreak | sret | mret | wfi => rfl
  case csrrw | csrrs | csrrc | csrrwi | csrrsi | csrrci => simp [decodeFields, decodeSystem]
  case faddS | fsubS | fmulS | fdivS | fsqrtS | fcvtWS | fcvtWuS | fcvtLS | fcvtLuS | fcvtSW | fcvtSWu | fcvtSL | fcvtSLu =>
    simp [decodeFields, decodeOpFp, rmGate_of_ok hw]
  case fsgnjS | fsgnjnS | fsgnjxS | fminS | fmaxS | feqS | fltS | fleS | fclassS => simp [decodeFields, decodeOpFp]
  case fmaddS | fmsubS | fnmsubS | fnmaddS => simp [decodeFields, decodeFma, rmGate_of_ok hw]

/-- SX: custom-0 (R46 to R49). -/
theorem decodeFields_encodeFields_sx {l : Bool} {i : Instr} {f : WordFields} (hw : wellFormed i = true) (he : encodeFields l i = some f)
    (hop : f.op = 0x0b) : decodeFields f = .instr i := by
  cases i <;> obtain ⟨⟩ := he <;> obtain ⟨⟩ := hop
  case shstart | shmove | shmoveHome | shexit | shyield | fenceSAcq | fenceSRel | fenceSAr | fenceQ | ldAcqW | ldAcqD | stRelW | stRelD
      | tierHintHot | tierHintCold =>
    simp only [decodeFields, decodeSx, decodeSx0, WordFields.scope, WordFields.f4, sx_scope, sx_f4, scopeAdd_mod, scopeAdd_div, scopeOf_code,
      x1_val, x2_val, x3_val, and_self, if_true]
  case ipost | iwait =>
    simp only [decodeFields, decodeSx, decodeSx0, WordFields.scope, WordFields.f4, sx_scope, sx_f4, toNat3_div, bf_toNat, x1_val, and_self,
      if_true]
  case invR | wbR =>
    simp only [decodeFields, decodeSx, decodeSx0, WordFields.scope, WordFields.f4, sx_scope, sx_f4, scopeAdd_mod, scopeAdd_div, scopeOf_code,
      scopeCode_ne_zero hw, ne_eq, not_false_iff, x2_val, and_self, if_true]
  case ldfe | stfe | ldff | feSetFull | feSetEmpty =>
    simp only [decodeFields, decodeSx, decodeSx1, WordFields.scope, WordFields.f4, sx_scope, sx_f4, x1_val, x2_val, if_true]
  case qpushQa | qpushQk | qpopQd | qstatQa | qstatQk | qstatQd | cpy | cpy2d | cpyB | collPostPkg | collPostSys | collTest =>
    simp only [decodeFields, decodeSx, decodeSx2, WordFields.scope, WordFields.f4, sx_scope, sx_f4, toNat4_div, bf_toNat, vr_val, x1_val, x2_val,
      x3_val, if_true]
  case amoAdd | amoAnd | amoOr | amoXor | amoMin | amoMax | amoMinu | amoMaxu | amoSwap | cas =>
    simp only [decodeFields, decodeSx, decodeAmo, WordFields.scope, amo_scope, amo_order, amo_width, amo_upper, x3_val, scopeOf_code,
      orderOf_code, widthOf_code]

/-- SI: custom-1 (R50). -/
theorem decodeFields_encodeFields_si {l : Bool} {i : Instr} {f : WordFields} (hw : wellFormed i = true) (he : encodeFields l i = some f)
    (hop : f.op = 0x2b) : decodeFields f = .instr i := by
  cases i <;> obtain ⟨⟩ := he <;> obtain ⟨⟩ := hop
  case vld | vst | vlds | vsts | vldx | vstx | vld2 | vst2 =>
    simp only [decodeFields, decodeSi, decodeVmem, WordFields.obit, WordFields.vbit, WordFields.pbit, vmem_pbit, vmem_vbit, vmem_obit, vmem_f3b,
      lb_beq_one, FieldsFit.bit_lt, Nat.two_pos, x1_val, x2_val, vr_val, if_true]
  case vamoAddClu | vamoAndClu | vamoOrClu | vamoXorClu | vamoMinClu | vamoMaxClu | vamoSwapClu =>
    simp only [decodeFields, decodeSi, decodeVamoClu, WordFields.obit, vamo_order, vamo_obit, vamo_f3b, lb_beq_one, orderOf_code, x1_val, vr_val]
  case vamoAddPkg | vamoAndPkg | vamoOrPkg | vamoXorPkg | vamoMinPkg | vamoMaxPkg | vamoSwapPkg =>
    simp only [decodeFields, decodeSi, decodeVamoPkg, WordFields.obit, vamo_order, vamo_obit, vamo_f3b, lb_beq_one, orderOf_code, x1_val, vr_val]
  case vsetl rd rs1 rows et =>
    have hrows : 1 ≤ rows.toNat ∧ rows.toNat ≤ 8 := by simpa [wellFormed] using hw
    simp only [decodeFields, decodeSi, decodeVcfg, vcfg_low, vcfg_f3b, rows_low, rows_f3b, etypeAdd_mod, etypeAdd_div, etypeOf_code,
      Nat.div_add_mod', hrows, and_self, if_true, x2_val, bf_toNat]
  case vdepth | vstrip =>
    simp only [decodeFields, decodeSi, decodeVcfg, vcfg_low, vcfg_f3b, toNat2_div, bf_toNat, x1_val, x2_val, and_self, if_true]
  case vwait =>
    simp only [decodeFields, decodeSi, decodeVcfg, vcfg_f3b, vwait_f3b, vwait_time, mregVal_div, mregVal_ne_zero hw, ne_eq, not_false_iff,
      and_self, if_true, mr_val, vr_val]
  case cwait => simp only [decodeFields, decodeSi, cwait_zero, cwait_limit, bf_toNat, if_true]
  case barInit | barArr | barExp | barWait | barTest =>
    simp only [decodeFields, decodeSi, decodeBar, bar_zero, bar_f4, bar_number, x1_val, if_true]

/-- VA: custom-2 (R51, R52). -/
theorem decodeFields_encodeFields_va {l : Bool} {i : Instr} {f : WordFields} (hw : wellFormed i = true) (he : encodeFields l i = some f)
    (hop : f.op = 0x5b) : decodeFields f = .instr i := by
  cases i <;> obtain ⟨⟩ := he <;> obtain ⟨⟩ := hop
  case vadd | vsub | vmul | vmulh | vmacc | vmin | vmax | vminu | vmaxu | vand | vor | vxor | vsll | vsrl | vsra | vsadd | vssub | vsaddu
      | vssubu | vfadd | vfsub | vfmul | vfmacc | vfnmacc | vfdiv | vfsqrt | vfrece | vfrsqe | vfmin | vfmax | vfsgnj | vfclass | vcvt =>
    simp only [decodeFields, decodeVa, decodeVaArith, va_f3b, FieldsFit.bit_lt, xGate_of_ok _ hw, etypeOf_code, vr_val, BEq.rfl, Nat.reduceLT,
      if_true]
  case vclip | vnsr | vwadd | vwmul | vwmacc | vdecb =>
    obtain ⟨hm, hgroup⟩ := Bool.and_eq_true_iff.1 hw
    simp only [decodeFields, decodeVa, decodeVaArith, va_f3b, FieldsFit.bit_lt, xGate_of_ok hgroup hm, vr_val, Nat.reduceLT, if_true]
  case vcvtb x vm vd vs1 vs2 =>
    obtain ⟨hmgroup, hne⟩ := Bool.and_eq_true_iff.1 hw
    obtain ⟨hm, hgroup⟩ := Bool.and_eq_true_iff.1 hmgroup
    have hok : (vs1.val % 4 == 0 && vs2.val != vd.val) = true :=
      Bool.and_eq_true_iff.2 ⟨hgroup, bne_iff_ne.2 (Fin.val_ne_of_ne (bne_iff_ne.1 hne))⟩
    simp only [decodeFields, decodeVa, decodeVaArith, va_f3b, FieldsFit.bit_lt, xGate_of_ok hok hm, vr_val, Nat.reduceLT, if_true]
  case vcmp | vfcmp =>
    simp only [decodeFields, decodeVa, decodeVaMove, noX, va_f3b, va_xbit, va_vm, Nat.two_pos, mregAdd_mod, mregAdd_div, mr_mregAdd,
      condOf_code, mregVal_ne_zero hw, vr_val, Nat.reduceLT, Nat.reduceBEq, Bool.false_eq_true, if_false]
  case vmlog =>
    obtain ⟨hda, hb⟩ := Bool.and_eq_true_iff.1 hw
    obtain ⟨hd, ha⟩ := Bool.and_eq_true_iff.1 hda
    simp [decodeFields, decodeVa, decodeVaMove, noX, WordFields.xbit, WordFields.vm, mr_of_mod, mregVal_mod, mregAdd_div, mr_mregAdd,
      mregVal_div, mregVal_ne_zero hd, mregVal_ne_zero ha, mregVal_ne_zero hb]
  case vpopc | vfirst =>
    simp [decodeFields, decodeVa, decodeVaMove, noX, WordFields.xbit, WordFields.vm, mr_of_mod, mregVal_div, mregVal_ne_zero hw]
  case vtrn | vmvxs => simp [decodeFields, decodeVa, decodeVaMove, noX, WordFields.xbit, WordFields.vm, mr_of_mod]
  case vmerge | vcomp =>
    simp only [decodeFields, decodeVa, decodeVaMove, noX, va_f3b, va_xbit, va_vm, Nat.two_pos, bne_iff_ne.1 hw, vr_val, Nat.reduceLT,
      Nat.reduceBEq, Bool.false_eq_true, ne_eq, not_true, or_self, if_false]
  case vbcast | vmvsx | vslup | vsldn | vrgath | vredsum | vredmax | vredmin | vredand | vredor | vfredo | vfredt | vfredmax | vfredmin =>
    simp only [decodeFields, decodeVa, decodeVaMove, noX, va_f3b, va_xbit, va_vm, Nat.two_pos, x1_val, vr_val, Nat.reduceLT, Nat.reduceBEq,
      Bool.false_eq_true, if_true, if_false]

/-- MX: custom-3 (R53, R54). -/
theorem decodeFields_encodeFields_mx {l : Bool} {i : Instr} {f : WordFields} (hw : wellFormed i = true) (he : encodeFields l i = some f)
    (hop : f.op = 0x7b) : decodeFields f = .instr i := by
  cases i <;> obtain ⟨⟩ := he <;> obtain ⟨⟩ := hop
  case mrun | mcfg =>
    simp only [decodeFields, decodeMx, tag_div, pairCode_mod, pairOf_code, tag_fields, x1_val, x2_val, and_self, if_true]
  case mdrain => simp only [decodeFields, decodeMx, tag_div, tag_fields, x1_val, and_self, if_true]
  case mzero | mcpyIn | mcpyOut | mstat => simp [decodeFields, decodeMx]

/-- The fields of a well-formed instruction decode to it. -/
theorem decodeFields_encodeFields {l : Bool} {i : Instr} {f : WordFields} (hw : wellFormed i = true) (he : encodeFields l i = some f) :
    decodeFields f = .instr i := by
  by_cases hsx : f.op = 0x0b
  · exact decodeFields_encodeFields_sx hw he hsx
  by_cases hsi : f.op = 0x2b
  · exact decodeFields_encodeFields_si hw he hsi
  by_cases hva : f.op = 0x5b
  · exact decodeFields_encodeFields_va hw he hva
  by_cases hmx : f.op = 0x7b
  · exact decodeFields_encodeFields_mx hw he hmx
  exact decodeFields_encodeFields_standard hw he (by simp [isCustom, hsx, hsi, hva, hmx])

/-- Six fields in their ranges are read back from their word. -/
theorem fieldsOf_pack {f : WordFields} (h : FieldsFit.Bounded f) : fieldsOf f.pack = f := by
  obtain ⟨op, rd, f3, rs1, rs2, f7⟩ := f
  simp only [FieldsFit.Bounded] at h
  simp only [fieldsOf, WordFields.pack, WordFields.mk.injEq]
  omega
/-- Six fields in their ranges make a word of 32 bits. -/
theorem pack_lt {f : WordFields} (h : FieldsFit.Bounded f) : f.pack < 2 ^ 32 := by
  simp only [FieldsFit.Bounded] at h
  simp only [WordFields.pack]
  omega
/-- The fields of every instruction that has a word lie in their ranges; a step that no word names has none. -/
theorem fieldsFit (i : Instr) : FieldsFit.Statement i := by
  cases i with
  | lui => exact FieldsFit.lui _ _ | auipc => exact FieldsFit.auipc _ _ | jal => exact FieldsFit.jal _ _
  | jalr => exact FieldsFit.jalr _ _ _ | beq => exact FieldsFit.beq _ _ _ | bne => exact FieldsFit.bne _ _ _
  | blt => exact FieldsFit.blt _ _ _ | bge => exact FieldsFit.bge _ _ _ | bltu => exact FieldsFit.bltu _ _ _
  | bgeu => exact FieldsFit.bgeu _ _ _ | lb => exact FieldsFit.lb _ _ _ | lh => exact FieldsFit.lh _ _ _
  | lw => exact FieldsFit.lw _ _ _ | ld => exact FieldsFit.ld _ _ _ | lbu => exact FieldsFit.lbu _ _ _
  | lhu => exact FieldsFit.lhu _ _ _ | lwu => exact FieldsFit.lwu _ _ _ | sb => exact FieldsFit.sb _ _ _
  | sh => exact FieldsFit.sh _ _ _ | sw => exact FieldsFit.sw _ _ _ | sd => exact FieldsFit.sd _ _ _
  | addi => exact FieldsFit.addi _ _ _ | slti => exact FieldsFit.slti _ _ _ | sltiu => exact FieldsFit.sltiu _ _ _
  | xori => exact FieldsFit.xori _ _ _ | ori => exact FieldsFit.ori _ _ _ | andi => exact FieldsFit.andi _ _ _
  | slli => exact FieldsFit.slli _ _ _ | srli => exact FieldsFit.srli _ _ _ | srai => exact FieldsFit.srai _ _ _
  | add => exact FieldsFit.add _ _ _ | sub => exact FieldsFit.sub _ _ _ | sll => exact FieldsFit.sll _ _ _
  | slt => exact FieldsFit.slt _ _ _ | sltu => exact FieldsFit.sltu _ _ _ | xor => exact FieldsFit.xor _ _ _
  | srl => exact FieldsFit.srl _ _ _ | sra => exact FieldsFit.sra _ _ _ | or => exact FieldsFit.or _ _ _
  | and => exact FieldsFit.and _ _ _ | addiw => exact FieldsFit.addiw _ _ _ | slliw => exact FieldsFit.slliw _ _ _
  | srliw => exact FieldsFit.srliw _ _ _ | sraiw => exact FieldsFit.sraiw _ _ _ | addw => exact FieldsFit.addw _ _ _
  | subw => exact FieldsFit.subw _ _ _ | sllw => exact FieldsFit.sllw _ _ _ | srlw => exact FieldsFit.srlw _ _ _
  | sraw => exact FieldsFit.sraw _ _ _ | fence => exact FieldsFit.fence _ _ _ _ _ | fenceI => exact FieldsFit.fenceI _ _ _
  | mul => exact FieldsFit.mul _ _ _ | mulh => exact FieldsFit.mulh _ _ _ | mulhsu => exact FieldsFit.mulhsu _ _ _
  | mulhu => exact FieldsFit.mulhu _ _ _ | div => exact FieldsFit.div _ _ _ | divu => exact FieldsFit.divu _ _ _
  | rem => exact FieldsFit.rem _ _ _ | remu => exact FieldsFit.remu _ _ _ | mulw => exact FieldsFit.mulw _ _ _
  | divw => exact FieldsFit.divw _ _ _ | divuw => exact FieldsFit.divuw _ _ _ | remw => exact FieldsFit.remw _ _ _
  | remuw => exact FieldsFit.remuw _ _ _ | csrrw => exact FieldsFit.csrrw _ _ _ | csrrs => exact FieldsFit.csrrs _ _ _
  | csrrc => exact FieldsFit.csrrc _ _ _ | csrrwi => exact FieldsFit.csrrwi _ _ _ | csrrsi => exact FieldsFit.csrrsi _ _ _
  | csrrci => exact FieldsFit.csrrci _ _ _ | faddS => exact FieldsFit.faddS _ _ _ _ | fsubS => exact FieldsFit.fsubS _ _ _ _
  | fmulS => exact FieldsFit.fmulS _ _ _ _ | fdivS => exact FieldsFit.fdivS _ _ _ _ | fsqrtS => exact FieldsFit.fsqrtS _ _ _
  | fsgnjS => exact FieldsFit.fsgnjS _ _ _ | fsgnjnS => exact FieldsFit.fsgnjnS _ _ _ | fsgnjxS => exact FieldsFit.fsgnjxS _ _ _
  | fminS => exact FieldsFit.fminS _ _ _ | fmaxS => exact FieldsFit.fmaxS _ _ _ | fcvtWS => exact FieldsFit.fcvtWS _ _ _
  | fcvtWuS => exact FieldsFit.fcvtWuS _ _ _ | fcvtLS => exact FieldsFit.fcvtLS _ _ _ | fcvtLuS => exact FieldsFit.fcvtLuS _ _ _
  | fcvtSW => exact FieldsFit.fcvtSW _ _ _ | fcvtSWu => exact FieldsFit.fcvtSWu _ _ _ | fcvtSL => exact FieldsFit.fcvtSL _ _ _
  | fcvtSLu => exact FieldsFit.fcvtSLu _ _ _ | feqS => exact FieldsFit.feqS _ _ _ | fltS => exact FieldsFit.fltS _ _ _
  | fleS => exact FieldsFit.fleS _ _ _ | fclassS => exact FieldsFit.fclassS _ _ | fmaddS => exact FieldsFit.fmaddS _ _ _ _ _
  | fmsubS => exact FieldsFit.fmsubS _ _ _ _ _ | fnmsubS => exact FieldsFit.fnmsubS _ _ _ _ _
  | fnmaddS => exact FieldsFit.fnmaddS _ _ _ _ _ | shstart => exact FieldsFit.shstart _ _ _ | shmove => exact FieldsFit.shmove _
  | shmoveHome => exact FieldsFit.shmoveHome _ | ipost => exact FieldsFit.ipost _ _ | iwait => exact FieldsFit.iwait _ _
  | fenceSAcq => exact FieldsFit.fenceSAcq _ | fenceSRel => exact FieldsFit.fenceSRel _ | fenceSAr => exact FieldsFit.fenceSAr _
  | fenceQ => exact FieldsFit.fenceQ _ | invR => exact FieldsFit.invR _ _ _ | wbR => exact FieldsFit.wbR _ _ _
  | ldAcqW => exact FieldsFit.ldAcqW _ _ _ | ldAcqD => exact FieldsFit.ldAcqD _ _ _ | stRelW => exact FieldsFit.stRelW _ _ _
  | stRelD => exact FieldsFit.stRelD _ _ _ | tierHintHot => exact FieldsFit.tierHintHot _ _
  | tierHintCold => exact FieldsFit.tierHintCold _ _ | ldfe => exact FieldsFit.ldfe _ _ | stfe => exact FieldsFit.stfe _ _
  | ldff => exact FieldsFit.ldff _ _ | feSetFull => exact FieldsFit.feSetFull _ | feSetEmpty => exact FieldsFit.feSetEmpty _
  | qpushQa => exact FieldsFit.qpushQa _ _ _ | qpushQk => exact FieldsFit.qpushQk _ _ _ | qpopQd => exact FieldsFit.qpopQd _ _
  | qstatQa => exact FieldsFit.qstatQa _ _ | qstatQk => exact FieldsFit.qstatQk _ _ | qstatQd => exact FieldsFit.qstatQd _ _
  | cpy => exact FieldsFit.cpy _ _ _ | cpy2d => exact FieldsFit.cpy2d _ _ _ | cpyB => exact FieldsFit.cpyB _ _ _
  | collPostPkg => exact FieldsFit.collPostPkg _ _ | collPostSys => exact FieldsFit.collPostSys _ _
  | collTest => exact FieldsFit.collTest _ _ | amoAdd => exact FieldsFit.amoAdd _ _ _ _ _ _
  | amoAnd => exact FieldsFit.amoAnd _ _ _ _ _ _ | amoOr => exact FieldsFit.amoOr _ _ _ _ _ _
  | amoXor => exact FieldsFit.amoXor _ _ _ _ _ _ | amoMin => exact FieldsFit.amoMin _ _ _ _ _ _
  | amoMax => exact FieldsFit.amoMax _ _ _ _ _ _ | amoMinu => exact FieldsFit.amoMinu _ _ _ _ _ _
  | amoMaxu => exact FieldsFit.amoMaxu _ _ _ _ _ _ | amoSwap => exact FieldsFit.amoSwap _ _ _ _ _ _
  | cas => exact FieldsFit.cas _ _ _ _ _ _ | vld => exact FieldsFit.vld _ _ _ _ _ | vst => exact FieldsFit.vst _ _ _ _ _
  | vlds => exact FieldsFit.vlds _ _ _ _ _ | vsts => exact FieldsFit.vsts _ _ _ _ _ | vldx => exact FieldsFit.vldx _ _ _ _ _
  | vstx => exact FieldsFit.vstx _ _ _ _ _ | vld2 => exact FieldsFit.vld2 _ _ _ _ _ _ | vst2 => exact FieldsFit.vst2 _ _ _ _ _ _
  | vamoAddClu => exact FieldsFit.vamoAddClu _ _ _ _ _ | vamoAndClu => exact FieldsFit.vamoAndClu _ _ _ _ _
  | vamoOrClu => exact FieldsFit.vamoOrClu _ _ _ _ _ | vamoXorClu => exact FieldsFit.vamoXorClu _ _ _ _ _
  | vamoMinClu => exact FieldsFit.vamoMinClu _ _ _ _ _ | vamoMaxClu => exact FieldsFit.vamoMaxClu _ _ _ _ _
  | vamoSwapClu => exact FieldsFit.vamoSwapClu _ _ _ _ _ | vamoAddPkg => exact FieldsFit.vamoAddPkg _ _ _ _ _
  | vamoAndPkg => exact FieldsFit.vamoAndPkg _ _ _ _ _ | vamoOrPkg => exact FieldsFit.vamoOrPkg _ _ _ _ _
  | vamoXorPkg => exact FieldsFit.vamoXorPkg _ _ _ _ _ | vamoMinPkg => exact FieldsFit.vamoMinPkg _ _ _ _ _
  | vamoMaxPkg => exact FieldsFit.vamoMaxPkg _ _ _ _ _ | vamoSwapPkg => exact FieldsFit.vamoSwapPkg _ _ _ _ _
  | vsetl => exact FieldsFit.vsetl _ _ _ _ | vdepth => exact FieldsFit.vdepth _ _ | vstrip => exact FieldsFit.vstrip _ _
  | vwait => exact FieldsFit.vwait _ _ _ _ | cwait => exact FieldsFit.cwait _ _ _ _ | barInit => exact FieldsFit.barInit _ _
  | barArr => exact FieldsFit.barArr _ _ | barExp => exact FieldsFit.barExp _ _ | barWait => exact FieldsFit.barWait _ _
  | barTest => exact FieldsFit.barTest _ _ | vadd => exact FieldsFit.vadd _ _ _ _ _ | vsub => exact FieldsFit.vsub _ _ _ _ _
  | vmul => exact FieldsFit.vmul _ _ _ _ _ | vmulh => exact FieldsFit.vmulh _ _ _ _ _ | vmacc => exact FieldsFit.vmacc _ _ _ _ _
  | vmin => exact FieldsFit.vmin _ _ _ _ _ | vmax => exact FieldsFit.vmax _ _ _ _ _ | vminu => exact FieldsFit.vminu _ _ _ _ _
  | vmaxu => exact FieldsFit.vmaxu _ _ _ _ _ | vand => exact FieldsFit.vand _ _ _ _ _ | vor => exact FieldsFit.vor _ _ _ _ _
  | vxor => exact FieldsFit.vxor _ _ _ _ _ | vsll => exact FieldsFit.vsll _ _ _ _ _ | vsrl => exact FieldsFit.vsrl _ _ _ _ _
  | vsra => exact FieldsFit.vsra _ _ _ _ _ | vclip => exact FieldsFit.vclip _ _ _ _ _ | vsadd => exact FieldsFit.vsadd _ _ _ _ _
  | vssub => exact FieldsFit.vssub _ _ _ _ _ | vsaddu => exact FieldsFit.vsaddu _ _ _ _ _ | vssubu => exact FieldsFit.vssubu _ _ _ _ _
  | vwadd => exact FieldsFit.vwadd _ _ _ _ _ | vwmul => exact FieldsFit.vwmul _ _ _ _ _ | vwmacc => exact FieldsFit.vwmacc _ _ _ _ _
  | vnsr => exact FieldsFit.vnsr _ _ _ _ _ | vfadd => exact FieldsFit.vfadd _ _ _ _ _ | vfsub => exact FieldsFit.vfsub _ _ _ _ _
  | vfmul => exact FieldsFit.vfmul _ _ _ _ _ | vfmacc => exact FieldsFit.vfmacc _ _ _ _ _ | vfnmacc => exact FieldsFit.vfnmacc _ _ _ _ _
  | vfdiv => exact FieldsFit.vfdiv _ _ _ _ _ | vfsqrt => exact FieldsFit.vfsqrt _ _ _ _ | vfrece => exact FieldsFit.vfrece _ _ _ _
  | vfrsqe => exact FieldsFit.vfrsqe _ _ _ _ | vfmin => exact FieldsFit.vfmin _ _ _ _ _ | vfmax => exact FieldsFit.vfmax _ _ _ _ _
  | vfsgnj => exact FieldsFit.vfsgnj _ _ _ _ _ | vfclass => exact FieldsFit.vfclass _ _ _ _ | vcvt => exact FieldsFit.vcvt _ _ _ _ _
  | vcvtb => exact FieldsFit.vcvtb _ _ _ _ _ | vdecb => exact FieldsFit.vdecb _ _ _ _ _ | vcmp => exact FieldsFit.vcmp _ _ _ _ _
  | vfcmp => exact FieldsFit.vfcmp _ _ _ _ _ | vmlog => exact FieldsFit.vmlog _ _ _ _ | vpopc => exact FieldsFit.vpopc _ _
  | vfirst => exact FieldsFit.vfirst _ _ | vmerge => exact FieldsFit.vmerge _ _ _ _ | vbcast => exact FieldsFit.vbcast _ _ _
  | vmvsx => exact FieldsFit.vmvsx _ _ _ | vslup => exact FieldsFit.vslup _ _ _ _ | vsldn => exact FieldsFit.vsldn _ _ _ _
  | vrgath => exact FieldsFit.vrgath _ _ _ _ | vcomp => exact FieldsFit.vcomp _ _ _ | vtrn => exact FieldsFit.vtrn _ _
  | vmvxs => exact FieldsFit.vmvxs _ _ | vredsum => exact FieldsFit.vredsum _ _ _ _ | vredmax => exact FieldsFit.vredmax _ _ _ _
  | vredmin => exact FieldsFit.vredmin _ _ _ _ | vredand => exact FieldsFit.vredand _ _ _ _ | vredor => exact FieldsFit.vredor _ _ _ _
  | vfredo => exact FieldsFit.vfredo _ _ _ _ | vfredt => exact FieldsFit.vfredt _ _ _ _ | vfredmax => exact FieldsFit.vfredmax _ _ _ _
  | vfredmin => exact FieldsFit.vfredmin _ _ _ _ | mrun => exact FieldsFit.mrun _ _ _ | mcfg => exact FieldsFit.mcfg _ _ _ _
  | mzero => exact FieldsFit.mzero _ _ | mdrain => exact FieldsFit.mdrain _ _ | mcpyIn => exact FieldsFit.mcpyIn _ _
  | mcpyOut => exact FieldsFit.mcpyOut _ _ | mstat => exact FieldsFit.mstat _ | ecall => exact FieldsFit.ecall
  | ebreak => exact FieldsFit.ebreak | sret => exact FieldsFit.sret | mret => exact FieldsFit.mret | wfi => exact FieldsFit.wfi
  | shexit => exact FieldsFit.shexit | shyield => exact FieldsFit.shyield
  | _ => rintro l f ⟨⟩
/-- The encoder's fields are those of its word. -/
theorem encodeFields_of_encode {l : Bool} {i : Instr} {w : BitVec 32} (h : encode l i = some w) : encodeFields l i = some (fieldsOf w.toNat) := by
  obtain ⟨f, hf, rfl⟩ := Option.map_eq_some_iff.1 h
  have hfit := fieldsFit i l f hf
  rw [hf, BitVec.toNat_ofNat, Nat.mod_eq_of_lt (pack_lt hfit), fieldsOf_pack hfit]

/-- Settles O58: the fields are read back from the word, and the decoder undoes the encoder on fields, space by space. -/
theorem encodedInstructionsDecodeBack : Obligations.EncodedInstructionsDecodeBack := by
  unfold Obligations.EncodedInstructionsDecodeBack
  exact fun l i w hw h => decodeFields_encodeFields hw (encodeFields_of_encode h)

/-- Settles O57: the decoder is run on each of the samples. -/
theorem wordsDecodeAsTheTablesEncodeThem : Obligations.WordsDecodeAsTheTablesEncodeThem := by
  unfold Obligations.WordsDecodeAsTheTablesEncodeThem
  exact ⟨by decide, by decide⟩

end Sys2Proof.Machine

/-! PROOFS. Control transfers and the integer instructions behind them (R34, R61), and the traps of alignment (R34, R63). -/

namespace Sys2Proof.Machine

/-! Targets (R34, R61). -/

/-- An offset with its bit 0 put back is twice the number encoded. -/
theorem sx_append_zero {n : Nat} (off : BitVec n) : sx (off ++ (0 : BitVec 1)) = BitVec.ofInt 64 (off.toInt * 2) := by
  have hshift : (off ++ 0#1).toInt = off.toInt * 2 := BitVec.toInt_append_zero.trans (Int.mul_comm _ _)
  rw [sx, BitVec.signExtend]
  exact congrArg _ hshift
/-- The target of JALR: bit 0 is cleared. -/
theorem and_not_one (v : Word) : v &&& ~~~(1 : Word) = BitVec.ofNat 64 (v.toNat / 2 * 2) := by
  have hshift : v &&& ~~~1#64 = v >>> 1 <<< 1 := by rw [BitVec.shiftLeft_ushiftRight]; rfl
  refine hshift.trans (BitVec.eq_of_toNat_eq ?_)
  simp [Nat.shiftLeft_eq, Nat.shiftRight_eq_div_pow]
/-- The target of JALR is aligned where bit 1 of the sum is 0. -/
theorem jalrTarget_mod (v : Word) : (BitVec.ofNat 64 (v.toNat / 2 * 2)).toNat % 4 = v.toNat / 2 % 2 * 2 := by
  rw [BitVec.toNat_ofNat]
  omega

/-- Each branch is the one branch, taken as its comparison says (R61). -/
theorem exec_branchOps {e : (XReg → XReg → BitVec 12 → Instr) × (Word → Word → Prop)} (he : e ∈ branchOps) (rs1 rs2 : XReg) (off : BitVec 12)
    (s : State) : ∃ taken, exec (e.1 rs1 rs2 off) s = s.branch taken off ∧ (taken = true ↔ e.2 (s.x rs1) (s.x rs2)) := by
  simp only [branchOps, List.mem_cons, List.not_mem_nil, or_false] at he
  obtain rfl | rfl | rfl | rfl | rfl | rfl := he
  case inl => exact ⟨_, rfl, beq_iff_eq⟩
  case inr.inl => exact ⟨_, rfl, bne_iff_ne⟩
  case inr.inr.inl => exact ⟨_, rfl, BitVec.slt_iff_toInt_lt⟩
  case inr.inr.inr.inl => exact ⟨_, rfl, by simp [BitVec.slt]⟩
  case inr.inr.inr.inr.inl => exact ⟨_, rfl, BitVec.ult_iff_toNat_lt⟩
  case inr.inr.inr.inr.inr => exact ⟨_, rfl, by simp [BitVec.ult]⟩
/-- A branch that is taken jumps, to twice its offset from the pc (R34). -/
theorem State.branch_taken (s : State) (off : BitVec 12) :
    s.branch true off = s.jump (s.sh.pc + BitVec.ofInt 64 (off.toInt * 2)) fun t => t := by
  rw [← sx_append_zero]; rfl
/-- A branch that is not taken completes. -/
theorem State.branch_notTaken (s : State) (off : BitVec 12) : s.branch false off = .next s.complete := rfl
/-- JAL jumps to twice its offset from the pc, and links (R34). -/
theorem exec_jal (rd : XReg) (off : BitVec 20) (s : State) :
    exec (.jal rd off) s = s.jump (s.sh.pc + BitVec.ofInt 64 (off.toInt * 2)) fun t => t.setX rd (s.sh.pc + 4) := by
  rw [← sx_append_zero]; rfl
/-- JALR jumps to its sum with bit 0 cleared, and links (R34). -/
theorem exec_jalr (rd rs1 : XReg) (imm : BitVec 12) (s : State) : exec (.jalr rd rs1 imm) s =
    s.jump (BitVec.ofNat 64 ((s.x rs1 + BitVec.ofInt 64 imm.toInt).toNat / 2 * 2)) fun t => t.setX rd (s.sh.pc + 4) := by
  rw [← and_not_one]; rfl

/-- A jump to a target that is no multiple of 4 traps at the jump (R34). -/
theorem State.jump_misaligned {s : State} {target : Word} (h : target.toNat % 4 ≠ 0) (f : State → State) :
    s.jump target f = s.raise (cause 5 0 2) target := if_pos h

/-! The instructions on integer registers complete at the next word (R61). -/

/-- The value written is the one that rd then holds. -/
theorem WritesX.self {s t : State} {rd : XReg} {v : Word} (h : WritesX s rd v t) : WritesX s rd (t.x rd) t := by
  obtain ⟨honly, hxpc, hjumped, hpc, hbad, hx⟩ := h
  refine ⟨honly, hxpc, hjumped, hpc, hbad, fun r => ?_⟩
  by_cases hr : r = rd ∧ rd ≠ 0
  · rw [if_pos hr, hr.1]
  · rw [hx r, if_neg hr, if_neg hr]

/-- Settles O2: a control transfer is the one jump, to an aligned target; every other integer instruction completes with a value for rd. -/
theorem alignedControlTransfersComplete : Obligations.AlignedControlTransfersComplete := by
  unfold Obligations.AlignedControlTransfersComplete
  refine ⟨fun e he rs1 rs2 off s => ⟨fun htaken halign => ?taken, fun hnot => ?notTaken⟩, fun rd off s halign => ?jal,
    fun rd rs1 imm s halign => ?jalr, fun rd rs1 rs2 u imm n m s i hi => ?onward⟩
  case taken =>
    obtain ⟨taken, hexec, hiff⟩ := exec_branchOps he rs1 rs2 off s
    rw [hexec, hiff.2 htaken, State.branch_taken]
    exact s.jump_aligned_plain _ halign
  case notTaken =>
    obtain ⟨taken, hexec, hiff⟩ := exec_branchOps he rs1 rs2 off s
    rw [hexec, Bool.eq_false_iff.2 (mt hiff.1 hnot), State.branch_notTaken]
    exact ⟨_, rfl, s.complete_writes⟩
  case jal =>
    rw [exec_jal]
    exact s.jump_aligned _ _ rd halign
  case jalr =>
    rw [exec_jalr]
    exact s.jump_aligned _ _ rd (by rw [jalrTarget_mod, halign])
  case onward =>
    have hcompletes : ∃ v, exec i s = .next (s.completeX rd v) := by
      revert i
      simp only [List.forall_mem_cons, List.not_mem_nil, false_imp_iff, implies_true, and_true]
      and_intros <;> exact ⟨_, rfl⟩
    obtain ⟨v, hv⟩ := hcompletes
    exact ⟨_, hv, (s.completeX_writes rd v).self⟩

/-- Settles O3: the jump, the scalar load and the scalar store each test the alignment first, and raise its cause. -/
theorem misalignedTargetsAndCrossingAccessesTrap : Obligations.MisalignedTargetsAndCrossingAccessesTrap := by
  unfold Obligations.MisalignedTargetsAndCrossingAccessesTrap
  refine ⟨fun s hv hm hr => ⟨fun e he rs1 rs2 off htaken halign => ?taken, fun rd off halign => ?jal, fun rd rs1 imm halign => ?jalr⟩,
    fun s rs1 r imm a ha hm hv hr => ⟨fun e he hcross => ?load, fun e he hcross => ?store⟩⟩
  case taken =>
    obtain ⟨taken, hexec, hiff⟩ := exec_branchOps he rs1 rs2 off s
    rw [hexec, hiff.2 htaken, State.branch_taken, State.jump_misaligned halign]
    exact State.raise_entersS hv hm hr _ _
  case jal =>
    rw [exec_jal, State.jump_misaligned halign]
    exact State.raise_entersS hv hm hr _ _
  case jalr =>
    rw [exec_jalr, State.jump_misaligned (by rw [jalrTarget_mod]; omega)]
    exact State.raise_entersS hv hm hr _ _
  case load =>
    have hload : exec (e.1 r rs1 imm) s = s.raise (cause 5 0 0) a := by rw [exec_loadOps he, ← ha]; exact if_pos hcross
    rw [hload]
    exact State.raise_entersS hv hm hr _ _
  case store =>
    have hstore : exec (e.1 rs1 r imm) s = s.raise (cause 5 0 1) a := by rw [exec_storeOps he, ← ha]; exact if_pos hcross
    rw [hstore]
    exact State.raise_entersS hv hm hr _ _

end Sys2Proof.Machine

/-! PROOFS. The decode gate (R45, R91, R123, R338, R339). -/

namespace Sys2Proof.Machine

/-- The gate can stop the instruction: R338 gives it a feature, or some class lacks it. -/
def gateCanStop (i : Instr) : Bool := (featureOf i).isSome || usesTap i || classesOf i != (true, true, true)

/-- The outcome is that of the decode gate for the instruction, whatever its late cause and what follows the gate. -/
def State.GoesThroughGate (s : State) (i : Instr) (o : Out) : Prop := ∃ late f, o = s.gate i late f

section
variable (s : State) (i : Instr)
theorem State.gate_gated (late : Option (BitVec 10)) (f : State → Out) : s.GoesThroughGate i (s.gate i late f) := ⟨late, f, rfl⟩
theorem State.vIssue_gated : s.GoesThroughGate i (s.vIssue i) := s.gate_gated i _ _
theorem State.zfinx_gated (rm : Option (BitVec 3)) (f : State → Rm → Out) : s.GoesThroughGate i (s.zfinx i rm f) := by
  unfold State.zfinx
  cases rm <;> exact s.gate_gated i _ _
theorem State.tierHint_gated (hot : Bool) (base len : Word) : s.GoesThroughGate i (s.tierHint i hot base len) := s.gate_gated i _ _
theorem State.qstat_gated (rd rs1 : XReg) (cap : Nat) (occ : CoreCtx → Nat) : s.GoesThroughGate i (s.qstat i rd rs1 cap occ) :=
  s.gate_gated i _ _
theorem State.copyIssue_gated (f : CopyForm) (ch : BitVec 4) (rs1 rs2 : XReg) : s.GoesThroughGate i (s.copyIssue i f ch rs1 rs2) :=
  s.gate_gated i _ _
theorem State.collPost_gated (sys : Bool) (rd rs1 : XReg) : s.GoesThroughGate i (s.collPost i sys rd rs1) := s.gate_gated i _ _
theorem State.matrixGate_gated (f : State → Out) : s.GoesThroughGate i (s.matrixGate i f) := s.gate_gated i _ _
/-- The one instruction that looks at its wait before the gate: `mcpy`, which waits for its command (R197). -/
theorem State.mcpyIssue_gated (hwait : s.me.wait = none) (out : Bool) (addr w : Word) : s.GoesThroughGate i (s.mcpyIssue i out addr w) := by
  simp only [State.mcpyIssue, hwait, Option.map_none, Bool.false_eq_true, if_false]
  exact s.matrixGate_gated i _
end

/-- Whatever the gate can stop, MRET apart, goes through it before it does anything else (R45). -/
theorem exec_gated {i : Instr} (h : gateCanStop i = true) (hm : i ≠ .mret) {s : State} (hwait : s.me.wait = none) :
    s.GoesThroughGate i (exec i s) := by
  cases i
  case mret => exact absurd rfl hm
  all_goals obtain ⟨⟩ := h
  all_goals dsimp only [exec]
  case tierHintHot | tierHintCold => exact s.tierHint_gated _ _ _ _
  case qstatQa | qstatQk | qstatQd => exact s.qstat_gated _ _ _ _ _
  case cpy | cpy2d | cpyB => exact s.copyIssue_gated _ _ _ _ _
  case collPostPkg | collPostSys => exact s.collPost_gated _ _ _ _
  case mrun | mcfg | mzero | mdrain => exact s.matrixGate_gated _ _
  case mcpyIn | mcpyOut => exact s.mcpyIssue_gated _ hwait _ _ _
  case shstart | invR | wbR | qpushQk | collTest | vsetl | vdepth | vstrip | vwait | barInit | barExp | mstat => exact s.gate_gated _ _ _
  case faddS | fsubS | fmulS | fdivS | fsqrtS | fsgnjS | fsgnjnS | fsgnjxS | fminS | fmaxS | fcvtWS | fcvtWuS | fcvtLS | fcvtLuS | fcvtSW
      | fcvtSWu | fcvtSL | fcvtSLu | feqS | fltS | fleS | fclassS | fmaddS | fmsubS | fnmsubS | fnmaddS => exact s.zfinx_gated _ _ _
  all_goals exact s.vIssue_gated _

/-- A masked feature is one that the gate tests, and not in M mode (R339). -/
theorem State.masked_gateCanStop {s : State} {v : Nat} {mode : Mode} {i : Instr} (h : s.masked v mode i = true) :
    gateCanStop i = true ∧ i ≠ .mret ∧ mode ≠ .m := by
  obtain ⟨hmode, hfeature⟩ := Bool.and_eq_true_iff.1 h
  refine ⟨?_, ?_, bne_iff_ne.1 hmode⟩
  · unfold gateCanStop
    cases hf : featureOf i with
    | some b => simp
    | none => simp [hf] at hfeature; simp [hfeature]
  · rintro rfl
    exact Bool.noConfusion hfeature
/-- What a class lacks is a word that the gate tests (R123). -/
theorem gateCanStop_of_lacking {c : CoreClass} {i : Instr} (h : implements c i = false) : gateCanStop i = true := by
  have hclasses : classesOf i ≠ (true, true, true) := by
    intro hall
    cases c <;> simp [implements, hall] at h
  simp [gateCanStop, hclasses]

/-- A masked word raises 0x0.0.2 at the gate (R339). -/
theorem State.gate_masked {s : State} {i : Instr} (h : s.masked s.me.vf s.sh.mode i = true) (late : Option (BitVec 10)) (f : State → Out) :
    s.gate i late f = s.raiseWord (cause 0 0 2) := if_pos h
/-- A word that the core's class lacks is a migration trap at the gate (R91). -/
theorem State.gate_lacking {s : State} {i : Instr} (h : implements (classOf s.myCore) i = false) (hmask : s.masked s.me.vf s.sh.mode i = false)
    (late : Option (BitVec 10)) (f : State → Out) : s.gate i late f = s.migrationTrap 0 := by
  simp [State.gate, h, hmask]
/-- A migration trap outside M mode packs the shuttle where the partition holds a core that counts (R93). -/
theorem State.migrationTrap_packs {s : State} (hword : implementsWord (classOf s.myCore) s.me.word = false) (hv : s.VectorIdle) (hm : s.sh.mode ≠ .m)
    (hcores : s.eligible (s.partOfVf s.me.vf) (classesFor s.me.word 0) ≠ []) :
    s.migrationTrap 0 = .next (s.startPacking { reason := 1, word := s.me.word, mate := 0, pc := s.sh.pc }) := by
  simp only [State.migrationTrap, hword, hm, List.isEmpty_iff, hcores, hv.afterVector, Bool.not_false, if_true, if_false]
/-- Where engines do not act at once, packing changes the slot in focus, and of its shuttle nothing (R30). -/
theorem State.startPacking_lazy {s : State} (he : s.eager = false) (i : PackInfo) :
    s.startPacking i = s.updMe fun m => { m with life := .packing, pack := some i, wait := some m.packWait } := by
  simp [State.startPacking, State.packSlot, State.updMe, he]

/-- Settles O21: what the gate can stop goes through the gate first, and there a masked feature raises, and a lacking class packs. -/
theorem decodeGateMasksOrMigrates : Obligations.DecodeGateMasksOrMigrates := by
  unfold Obligations.DecodeGateMasksOrMigrates
  refine ⟨fun i s hmask hv hr hwait => ?masked, fun i s hmret hlacks hmask hword hv hm hwait he hcores => ?migrates⟩
  case masked =>
    obtain ⟨hstop, hmret, hm⟩ := State.masked_gateCanStop hmask
    obtain ⟨late, f, hexec⟩ := exec_gated hstop hmret hwait
    rw [hexec, State.gate_masked hmask]
    exact State.raise_entersS hv hm hr _ _
  case migrates =>
    obtain ⟨late, f, hexec⟩ := exec_gated (gateCanStop_of_lacking hlacks) hmret hwait
    rw [hexec, State.gate_lacking hlacks hmask, State.migrationTrap_packs hword hv hm hcores, State.startPacking_lazy he]
    refine ⟨_, rfl, s.updMe_onlySlot _, ?_, ?_, fun r => ?_, ?_⟩
    · rw [State.me_updMe]
    · rw [State.me_updMe]
    · rw [State.x, State.sh_updMe]; rfl
    · rw [State.sh_updMe]; rfl

end Sys2Proof.Machine

/-! PROOFS. Undecodable words, interrupts, trap records, refusals, wakes and expired waits (R36, R84, R87, R127, R218, R260). -/

namespace Sys2Proof.Machine

/-! Entering the S handler from any slot (R80). -/

/-- What an entry into the S handler leaves in the shuttle (R80): an interrupt enters at its vector where `stvec` asks for one. -/
theorem Slot.enterS_sh (m : Slot) (c : BitVec 10) (scause tval epc stvec : Word) (interrupt : Bool) :
    (m.enterS c scause tval epc stvec interrupt).sh = handled m.sh
      (if interrupt && bitOf stvec 0 then (stvec &&& ~~~3) + 4 * (scause &&& 0xFFFF) else stvec &&& ~~~3) c scause tval epc := rfl
/-- A trap taken outside M mode that posts no record writes the slot as its S handler finds it, and no more (R80, R86). -/
theorem State.trapSlot_plain {s : State} {k : Nat} (h : s.PlainTrap k) (c : BitVec 10) (scause tval epc : Word) (interrupt : Bool)
    (under : BitVec 10) : s.trapSlot k c scause tval epc interrupt under =
      s.setSlot k ((s.slot k).enterS c scause tval epc (s.vfRegs (s.slot k).vf (k / 16)).stvec interrupt) := by
  obtain ⟨hmode, hrecord⟩ := h
  simp only [State.trapSlot, hmode, if_false, hrecord, Bool.false_eq_true]
/-- Such an exception enters its handler and changes nothing but its slot. -/
theorem State.trapSlot_trapsSlot {s : State} {k : Nat} (h : s.PlainTrap k) (c : BitVec 10) (scause tval epc : Word) (under : BitVec 10) :
    (∀ i, i ≠ k → (s.trapSlot k c scause tval epc false under).slot i = s.slot i) ∧
      s.trapSlot k c scause tval epc false under = { s with slots := (s.trapSlot k c scause tval epc false under).slots } ∧
      TrapsSlot s k c scause tval epc (s.trapSlot k c scause tval epc false under) := by
  rw [State.trapSlot_plain h]
  refine ⟨fun i hi => State.slot_setSlot_of_ne _ _ hi, rfl, ?_, ?_⟩ <;> rw [State.slot_setSlot_self] <;> rfl

/-! Undecodable words (R36). -/

/-- A rejected word raises the cause of its rejection (R36, R39). -/
theorem execIllegalInstruction_raises {w : BitVec 32} {c : BitVec 10} {s : State}
    (h : decodeWord w = .reject .illegal ∧ c = cause 0 0 0 ∨ decodeWord w = .reject .reservedLater ∧ c = cause 0 0 1 ∨
      decodeWord w = .reject .registerField ∧ c = cause 0 0 5) :
    execIllegalInstruction w s = s.raise c (zx w) ∧ scauseOf c = 2 := by
  obtain ⟨hw, rfl⟩ | ⟨hw, rfl⟩ | ⟨hw, rfl⟩ := h <;> exact ⟨by rw [execIllegalInstruction, hw], rfl⟩

/-! Interrupts (R83, R84). -/

theorem slotCount_le (c : Nat) : slotCount c ≤ 16 := by
  unfold slotCount
  split <;> decide
/-- The slot that takes an interrupt is one of its core, and holds a Ready shuttle (R84). -/
theorem State.interruptSlot_spec {s : State} {c j : Nat} (h : s.interruptSlot c = some j) : j / 16 = c := by
  unfold State.interruptSlot at h
  split at h
  · cases h
  · obtain ⟨i, hi, rfl⟩ := List.mem_map.1 (List.mem_of_find?_eq_some h)
    have hlt := List.mem_range.1 hi
    have hle := slotCount_le c
    omega
/-- The context of a core after a change of one. -/
theorem State.core_updCtx (s : State) (c d : Nat) (f : CoreCtx → CoreCtx) :
    (s.updCtx c f).core d = if d = c then { s.core d with ctx := f (s.core d).ctx } else s.core d := by
  split
  case isTrue h => subst h; exact s.core_updCore_self _ _
  case isFalse h => exact SMap.get_put_of_ne _ _ _ h
/-- A taken interrupt other than an external event leaves its source pending, but for a notice, which its core forgets (R83, R85). -/
theorem State.consumeInterrupt_sip {n : Nat} (hn : n ≠ 9) (s : State) (c : Nat) :
    s.consumeInterrupt c n = { s with cores := (s.consumeInterrupt c n).cores } ∧
      (∀ v d, (s.consumeInterrupt c n).vfRegs v d = s.vfRegs v d) ∧
      ∀ d, ((s.consumeInterrupt c n).core d).ctx.sip =
        if d = c ∧ n = 16 then (s.core d).ctx.sip &&& ~~~0x10000 else (s.core d).ctx.sip := by
  by_cases h16 : n = 16
  · subst h16
    refine ⟨rfl, fun v d => ?_, fun d => ?_⟩
    · simp only [State.consumeInterrupt, State.vfRegs, State.core_updCtx]
      split <;> rfl
    · simp only [State.consumeInterrupt, State.core_updCtx, and_true]
      split <;> rfl
  · have hkept : s.consumeInterrupt c n = s := by
      unfold State.consumeInterrupt
      split
      · contradiction
      · contradiction
      · rfl
    simp only [hkept, h16, and_false, if_false, implies_true, and_self]

/-- An interrupt with its refined cause and its stval, for a core that has the notice given (R83, R85): those but the external one. -/
def isInterruptCause (notice n : Nat) (cs : BitVec 10) (tv : Word) : Prop :=
  n = 16 ∧ cs = cause 0xD 0 notice ∧ tv = 0 ∨ n = 1 ∧ cs = cause 0xB 0 1 ∧ tv = 0 ∨ n = 5 ∧ cs = cause 0xB 0 4 ∧ tv = 0 ∨
    n = 13 ∧ cs = cause 0xB 0 2 ∧ tv = 0
/-- Such an interrupt is not the external one, has the cause that the core gives it, and is vectored by its number (R80, R83). -/
theorem isInterruptCause.spec {notice n : Nat} {cs : BitVec 10} {tv : Word} (h : isInterruptCause notice n cs tv) (s : State) (v : Nat) :
    n ≠ 9 ∧ s.interruptCause v n notice = (cs, tv) ∧ BitVec.ofNat 64 (2 ^ 63 + n) &&& 0xFFFF = BitVec.ofNat 64 n := by
  obtain ⟨rfl, rfl, rfl⟩ | ⟨rfl, rfl, rfl⟩ | ⟨rfl, rfl, rfl⟩ | ⟨rfl, rfl, rfl⟩ := h <;> exact ⟨by decide, rfl, rfl⟩
/-- The slot of a core takes its first pending interrupt behind no vector work (R84). -/
theorem State.takeInterrupt_idle {s : State} {j n : Nat} {cs : BitVec 10} {tv : Word} (hn : firstInterrupt (s.pendingOn (j / 16)) = some n)
    (hcause : s.interruptCause (s.slot j).vf n (s.core (j / 16)).ctx.notice = (cs, tv)) (hvq : (s.slot j).vq = [])
    (hvrun : (s.slot j).vrun = none) :
    s.takeInterrupt j = (s.consumeInterrupt (j / 16) n).trapSlot j cs (BitVec.ofNat 64 (2 ^ 63 + n)) tv
      ((s.consumeInterrupt (j / 16) n).slot j).sh.pc true 0 := by
  simp only [State.takeInterrupt, hn, hcause, State.squash_idle hvq hvrun]
/-- A taken interrupt, the external one apart, enters its handler with its cause at its vector, and clears a notice (R80, R83, R84). -/
theorem State.takeInterrupt_enters {s : State} {j n : Nat} {cs : BitVec 10} {tv : Word} (hn : firstInterrupt (s.pendingOn (j / 16)) = some n)
    (hplain : s.PlainTrap j) (hvq : (s.slot j).vq = []) (hvrun : (s.slot j).vrun = none)
    (hcause : isInterruptCause (s.core (j / 16)).ctx.notice n cs tv) :
    (∀ i, i ≠ j → (s.takeInterrupt j).slot i = s.slot i) ∧
      s.takeInterrupt j = { s with slots := (s.takeInterrupt j).slots, cores := (s.takeInterrupt j).cores } ∧
      ((s.takeInterrupt j).slot j).life = .ready ∧
      ((s.takeInterrupt j).slot j).sh = handled (s.slot j).sh
        (((s.vfRegs (s.slot j).vf (j / 16)).stvec &&& ~~~3) +
          (if bitOf (s.vfRegs (s.slot j).vf (j / 16)).stvec 0 then 4 * BitVec.ofNat 64 n else 0))
        cs (BitVec.ofNat 64 (2 ^ 63 + n)) tv (s.slot j).sh.pc ∧
      ∀ c, ((s.takeInterrupt j).core c).ctx.sip =
        if c = j / 16 ∧ n = 16 then (s.core c).ctx.sip &&& ~~~0x10000 else (s.core c).ctx.sip := by
  obtain ⟨h9, hcs, hvector⟩ := hcause.spec s (s.slot j).vf
  obtain ⟨honly, hregs, hsip⟩ := State.consumeInterrupt_sip h9 s (j / 16)
  rw [State.takeInterrupt_idle hn hcs hvq hvrun]
  generalize s.consumeInterrupt (j / 16) n = u at honly hregs hsip ⊢
  have hslot : u.slot = s.slot := by rw [honly]; rfl
  have hplain' : u.PlainTrap j := by rw [State.PlainTrap, hslot, hregs]; exact hplain
  rw [State.trapSlot_plain hplain', State.slot_setSlot_self, hslot, hregs]
  refine ⟨fun i hi => by rw [State.slot_setSlot_of_ne _ _ hi, hslot], ?_, rfl, ?_, fun c => hsip c⟩
  · rw [honly]; rfl
  · rw [Slot.enterS_sh, hvector, Bool.true_and]
    congr 1
    split
    · rfl
    · exact (BitVec.add_zero _).symm

/-! Trap records (R87). -/

section
variable {s u v : State} {r : TrapRecord} {rest : List TrapRecord} {p : Word × Nat}
/-- A record that has its place in the ring is filled in, and goes (R87). -/
theorem State.postHead_claimed (hs : s.records = r :: rest) (hr : r.claim = some p) (hfill : s.fillRecord r p = .ok v ()) :
    s.postHead = { v with records := v.records.tail } := by
  simp only [State.postHead, hs, hr, hfill, Res.record]
/-- A record for which the ring has no room is dropped (R87). -/
theorem State.postHead_full (hs : s.records = r :: rest) (hr : r.claim = none) (hen : bitOf (s.vf r.vf).regs.trec 0 = true)
    (hclaim : s.claimRecord r = .ok u none) : s.postHead = { u with records := rest } := by
  simp only [State.postHead, hs, hr, hen, if_true, hclaim, Res.record]
/-- A record that gets a place in the ring is filled in at once, and goes (R87). -/
theorem State.postHead_claims (hs : s.records = r :: rest) (hr : r.claim = none) (hen : bitOf (s.vf r.vf).regs.trec 0 = true)
    (hclaim : s.claimRecord r = .ok u (some p))
    (hfill : ({ u with records := { r with claim := some p } :: rest } : State).fillRecord r p = .ok v ()) :
    s.postHead = { v with records := v.records.tail } := by
  simp only [State.postHead, hs, hr, hen, if_true, hclaim, hfill, Res.record]
end

/-! Refusals (R218). -/

/-- The first refused store of a slot is taken as a trap at its pc, and the others stay (R218). -/
theorem State.trapRefused_trapsSlot {s : State} {k : Nat} {r : RefusedStore} {rest : List RefusedStore} (hr : (s.slot k).refused = r :: rest)
    (hplain : s.PlainTrap k) :
    (∀ i, i ≠ k → (s.trapRefused k).slot i = s.slot i) ∧ s.trapRefused k = { s with slots := (s.trapRefused k).slots } ∧
      TrapsSlot s k r.cause (scauseOf r.cause) r.addr (s.slot k).sh.pc (s.trapRefused k) ∧ ((s.trapRefused k).slot k).refused = rest := by
  have hself : (s.setSlot k { s.slot k with refused := rest }).slot k = { s.slot k with refused := rest } := State.slot_setSlot_self _ _ _
  have hplain' : (s.setSlot k { s.slot k with refused := rest }).PlainTrap k := by rw [State.PlainTrap, hself]; exact hplain
  have hpost : s.trapRefused k = (s.setSlot k { s.slot k with refused := rest }).trapSlot k r.cause (scauseOf r.cause) r.addr
      (s.slot k).sh.pc false 0 := by simp only [State.trapRefused, hr]
  rw [hpost, State.trapSlot_plain hplain', hself]
  refine ⟨fun i hi => by rw [State.slot_setSlot_of_ne _ _ hi, State.slot_setSlot_of_ne _ _ hi], rfl, ⟨?_, ?_⟩, ?_⟩ <;>
    rw [State.slot_setSlot_self] <;> rfl
/-- A refusal that is due, at an issue boundary or at a barrier that the shuttle waits at, is taken (R218). -/
theorem execOwnerLostRefusal_traps {s : State} {r : RefusedStore} {rest : List RefusedStore} (hr : (s.slot s.subjSlot).refused = r :: rest)
    (hdue : (s.slot s.subjSlot).life = .ready ∧ (s.slot s.subjSlot).half = false ∧ (s.slot s.subjSlot).doneValue = none ∨
      (s.slot s.subjSlot).life = .waiting ∧ ∃ w sec b, (s.slot s.subjSlot).wait = some w ∧ w.kind = .barrier sec b)
    (hparked : (s.slot s.subjSlot).parked = false) (hvq : (s.slot s.subjSlot).vq = []) (hvrun : (s.slot s.subjSlot).vrun = none)
    (hheld : (s.slot s.subjSlot).heldTrap = none) : execOwnerLostRefusal s = .next (s.trapRefused s.subjSlot) := by
  have hopen : ((s.slot s.subjSlot).refused.isEmpty || (s.slot s.subjSlot).parked || (s.slot s.subjSlot).vectorBusy ||
      (s.slot s.subjSlot).heldTrap.isSome) = false := by simp [hr, hparked, Slot.vectorBusy, hvq, hvrun, hheld]
  obtain ⟨hlife, hhalf, hdone⟩ | ⟨hlife, w, sec, b, hwait, hkind⟩ := hdue
  · simp only [execOwnerLostRefusal, hopen, hlife, hhalf, hdone, Option.isSome_none, Bool.or_self, Bool.false_eq_true, if_false]
  · have hplaced : s.withdraw s.subjSlot (.barrier sec b) = s := rfl
    simp only [execOwnerLostRefusal, hopen, hlife, hwait, Option.map_some, hkind, hplaced, Bool.false_eq_true, if_false]

/-! Waits that end (R127, R260). -/

/-- No vector instruction waits where none is there. -/
theorem Slot.queueExpiry_idle {m : Slot} (hvq : m.vq = []) : m.queueExpiry = none := by
  rw [Slot.queueExpiry, hvq]
  cases m.vrun <;> rfl

section
variable {s : State} {w : WaitInfo} (hwait : (s.slot s.subjSlot).wait = some w) (hlife : (s.slot s.subjSlot).life = .waiting)
  (hparked : (s.slot s.subjSlot).parked = false) (hagain : (s.slot s.subjSlot).again = false)
  (hwoken : (s.slot s.subjSlot).woken = false) (hvq : (s.slot s.subjSlot).vq = []) (hbound : w.bound ≠ 0) (hcounted : w.bound ≤ w.counted)
include hwait hlife hparked hagain hwoken hvq hbound hcounted
/-- A bounded WFI that nothing has woken completes when its bound has passed (R260). -/
theorem execWaitLimitExpiry_wfi (hkind : w.kind = .wfi) :
    execWaitLimitExpiry s = .next (s.updSlot s.subjSlot fun m => { m.completeAt (m.sh.pc + 4) with life := .ready }) := by
  simp [execWaitLimitExpiry, Slot.queueExpiry_idle hvq, hwait, hparked, hagain, hwoken, hlife, hbound, Nat.not_lt.2 hcounted, hkind]
/-- A bounded `cwait` behind no vector work and with no fault held traps when its bound has passed, with the counters in stval (R260). -/
theorem execWaitLimitExpiry_cwait (hvrun : (s.slot s.subjSlot).vrun = none) (hdeferred : (s.slot s.subjSlot).deferred = [])
    (hkind : w.kind = .cwait) :
    execWaitLimitExpiry s =
      .next (s.trapSlot s.subjSlot (cause 7 0 0) (scauseOf (cause 7 0 0)) (s.cwctrOf s.subjSlot) (s.slot s.subjSlot).sh.pc false 0) := by
  have hexpiry : s.expiryCause s.subjSlot .cwait = some (cause 7 0 0, s.cwctrOf s.subjSlot) := rfl
  have hplaced : s.withdraw s.subjSlot .cwait = s := rfl
  simp [execWaitLimitExpiry, Slot.queueExpiry_idle hvq, hwait, hparked, hagain, hwoken, hlife, hbound, Nat.not_lt.2 hcounted, hkind, hdeferred,
    hexpiry, hplaced, Slot.vectorBusy, hvq, hvrun]
end

/-- A wake reaches the waiting shuttle (R127). -/
theorem execShuttleWake_readies {s : State} (hlife : (s.slot s.subjSlot).life = .waiting) (hwoken : (s.slot s.subjSlot).woken = true) :
    execShuttleWake s = .next (s.updSlot s.subjSlot fun m => m.wake (s.coreCycle (s.subjSlot / 16))) := by
  simp only [execShuttleWake, hlife, hwoken, beq_self_eq_true, Bool.and_self, if_true]

/-- A change of one slot is a change of that slot only. -/
theorem State.updSlot_onlySlotAt (s : State) (k : Nat) (f : Slot → Slot) : OnlySlotAt s k f (s.updSlot k f) :=
  ⟨rfl, fun _ hj => State.slot_setSlot_of_ne _ _ hj, State.slot_setSlot_self _ _ _⟩

/-- Settles O38: each step is the one branch that traps, posts, wakes or completes, and a trap writes its slot as its handler finds it. -/
theorem trapStepsEnterTheirHandler : Obligations.TrapStepsEnterTheirHandler := by
  unfold Obligations.TrapStepsEnterTheirHandler
  rintro s k m rfl rfl
  refine ⟨fun w c hw hidle hmode hrecord => ?illegal, fun j n cs tv hj hn hplain hvq hvrun hcause => ?interrupt,
    fun r rest u hs hr hen => ⟨fun hclaim => ?full, fun p v hclaim hfill => ?claims⟩, fun r rest p v hs hr hfill => ?claimed,
    fun r rest hr hdue hparked hvq hvrun hheld hplain => ?refusal, fun hlife hwoken => ?wake,
    fun w hwait hlife hparked hagain hwoken hvq hvrun hdeferred hbound hcounted => ⟨fun hkind => ?wfi, fun hkind hplain => ?cwait⟩⟩
  case illegal =>
    obtain ⟨hexec, hscause⟩ := execIllegalInstruction_raises (s := s) hw
    obtain ⟨t, ht, henters⟩ := State.raise_entersS hidle hmode hrecord c (zx w)
    exact ⟨t, hexec.trans ht, hscause ▸ henters⟩
  case interrupt =>
    have hcore := State.interruptSlot_spec hj
    rw [← hcore] at hn hcause ⊢
    have hexec : exec .interruptEntry s = .next (s.takeInterrupt j) := by
      dsimp only [exec]
      rw [execInterruptEntry, hj]
    exact ⟨_, hexec, State.takeInterrupt_enters hn hplain hvq hvrun hcause⟩
  case full => exact congrArg _ (State.postHead_full hs hr hen hclaim)
  case claims => exact congrArg _ (State.postHead_claims hs hr hen hclaim hfill)
  case claimed => exact congrArg _ (State.postHead_claimed hs hr hfill)
  case refusal =>
    exact ⟨_, execOwnerLostRefusal_traps hr hdue hparked hvq hvrun hheld, State.trapRefused_trapsSlot hr hplain⟩
  case wake => exact ⟨_, execShuttleWake_readies hlife hwoken, s.updSlot_onlySlotAt _ _⟩
  case wfi =>
    obtain ⟨-, hothers, hself⟩ := s.updSlot_onlySlotAt s.subjSlot fun m => { m.completeAt (m.sh.pc + 4) with life := .ready }
    refine ⟨_, execWaitLimitExpiry_wfi hwait hlife hparked hagain hwoken hvq hbound hcounted hkind, hothers, ?_, ?_, ?_⟩ <;>
      rw [hself] <;> rfl
  case cwait =>
    exact ⟨_, execWaitLimitExpiry_cwait hwait hlife hparked hagain hwoken hvq hbound hcounted hvrun hdeferred hkind,
      State.trapSlot_trapsSlot hplain _ _ _ _ _⟩

end Sys2Proof.Machine

/-! PROOFS. Environment calls, returns and waits for interrupts (R66, R67); fences (R64, R65, R229, R240). -/

namespace Sys2Proof.Machine

/-! Environment calls (R66). -/

/-- ECALL in U mode (R66). -/
theorem execEcall_user {s : State} (h : s.sh.mode = .u) : execEcall s = s.raise (cause 0xA 0 0) 0 := by simp only [execEcall, h]
/-- ECALL in M mode (R66). -/
theorem execEcall_machine {s : State} (h : s.sh.mode = .m) : execEcall s = s.raise (cause 0xA 0 2) 0 := by simp only [execEcall, h]
/-- ECALL in S mode, where no request of the shuttle is with firmware, sends one and Waits (R66). -/
theorem execEcall_supervisor {s : State} (h : s.sh.mode = .s) (hv : s.VectorIdle) (hreq : ∀ r ∈ s.requests, r.slot ≠ some s.focus)
    (hlong : ∀ l ∈ s.longs, l.req.slot ≠ some s.focus) :
    execEcall s = .next ({ s with requests := s.requests ++ [s.ecallRequest] }.block .firmware) := by
  have hnone : (s.requests.any fun r => r.slot == some s.focus) = false :=
    List.any_eq_false.2 fun r hr => by simpa using hreq r hr
  have hnoLong : (s.longs.any fun l => l.req.slot == some s.focus && l.reply.isNone && s.me.wait.isSome) = false :=
    List.any_eq_false.2 fun l hl => by simp [hlong l hl]
  simp only [execEcall, h, hv.afterVector, hnone, hnoLong, Bool.or_self, Bool.false_eq_true, if_false]
/-- Waiting changes the slot in focus, and of its shuttle nothing (R30). -/
theorem State.block_waits (s : State) (k : WaitKind) :
    OnlySlot s (s.block k) ∧ (s.block k).sh = s.sh ∧ (s.block k).me.life = .waiting := by
  refine ⟨s.updMe_onlySlot _, ?_, ?_⟩
  · rw [State.block, State.sh_updMe]; rfl
  · rw [State.block, State.me_updMe]; rfl

/-- Settles O6: the mode alone decides between the trap, which enters the handler of its mode, and the request to firmware. -/
theorem environmentCallsEnterTheirHandler : Obligations.EnvironmentCallsEnterTheirHandler := by
  unfold Obligations.EnvironmentCallsEnterTheirHandler
  refine fun s hv => ⟨fun hu hr => ?user, fun hm hr => ?breakpoint, fun hm => ?machine, fun hm => ?machineBreakpoint,
    fun hs hreq hlong => ?supervisor⟩
  case user =>
    obtain ⟨t, ht, henters⟩ := State.raise_entersS hv (by simp [hu]) hr (cause 0xA 0 0) 0
    exact ⟨t, (execEcall_user hu).trans ht, henters⟩
  case breakpoint => exact State.raise_entersS hv hm hr (cause 0xA 0 3) s.sh.pc
  case machine =>
    obtain ⟨t, ht, henters⟩ := State.raise_entersM hv hm (cause 0xA 0 2) 0
    exact ⟨t, (execEcall_machine hm).trans ht, henters⟩
  case machineBreakpoint => exact State.raise_entersM hv hm (cause 0xA 0 3) s.sh.pc
  case supervisor =>
    obtain ⟨-, hsh, hlife⟩ := ({ s with requests := s.requests ++ [s.ecallRequest] } : State).block_waits .firmware
    exact ⟨_, execEcall_supervisor hs hv hreq hlong, hlife, hsh, rfl⟩

/-! Returns, and waits for interrupts (R67). -/

/-- SRET above U mode behind no vector work (R67). -/
theorem execSret_returns {s : State} (h : s.sh.mode ≠ .u) (hv : s.VectorIdle) :
    execSret s = .next (s.updMe fun m => { m with sh := m.sh.sret, wait := none, completed := true, jumped := false }) :=
  (if_neg h).trans (hv.afterVector _)
/-- The bits of `mstatus` that MRET does not keep (R100): MIE, MPIE and MPP. -/
theorem mretMask_bit : ∀ i < 64, (~~~0x1888 : Word).getLsbD i = !decide (i = 3 ∨ i = 7 ∨ i = 11 ∨ i = 12) := by decide
/-- The places of MIE and of MPIE. -/
theorem mretSet_bit : ∀ i < 64, (0x8 : Word).getLsbD i = decide (i = 3) ∧ (0x80 : Word).getLsbD i = decide (i = 7) := by decide
/-- The fields of `mstatus` after MRET (R100): MIE is the old MPIE, MPIE is set, and MPP is clear. -/
theorem Slot.mret_mstatus (m : Slot) {i : Nat} (hi : i < 64) : bitOf m.mret.m.mstatus i =
    if i = 3 then bitOf m.m.mstatus 7 else if i = 7 then true else if i = 11 ∨ i = 12 then false else bitOf m.m.mstatus i := by
  obtain ⟨hmie, hmpie⟩ := mretSet_bit i hi
  have hold : (if bitOf m.m.mstatus 7 = true then (0x8 : Word) else 0).getLsbD i = (bitOf m.m.mstatus 7 && decide (i = 3)) := by
    split
    · next h => rw [hmie, h, Bool.true_and]
    · next h => rw [Bool.eq_false_iff.2 h, Bool.false_and]; exact BitVec.getLsbD_zero
  show BitVec.getLsbD (m.m.mstatus &&& ~~~0x1888 ||| (if bitOf m.m.mstatus 7 = true then 0x8 else 0) ||| 0x80) i = _
  rw [BitVec.getLsbD_or, BitVec.getLsbD_or, BitVec.getLsbD_and, mretMask_bit i hi, hold, hmpie]
  by_cases h3 : i = 3
  · simp [h3]
  by_cases h7 : i = 7
  · simp [h7]
  by_cases hmpp : i = 11 ∨ i = 12
  · simp [h3, h7, hmpp]
  · simp [h3, h7, hmpp, bitOf]

/-- Settles O7: the mode decides between the return, or the wait, and 0x0.0.3; MRET's `mstatus` is read bit by bit. -/
theorem returnsRestoreTheSavedState : Obligations.ReturnsRestoreTheSavedState := by
  unfold Obligations.ReturnsRestoreTheSavedState
  refine ⟨fun s hv => ⟨fun hu => ?sret, fun hm => ?mret, fun hu hp => ?wfi⟩, fun s hv hr => ⟨fun hu => ?sretUser, fun hu => ?wfiUser, fun hm => ?mretBelow⟩⟩
  case sret =>
    refine ⟨_, execSret_returns hu hv, s.updMe_onlySlot _, ?_, ?_⟩
    · rw [State.me_updMe]
    · rw [State.sh_updMe]; rfl
  case mret =>
    refine ⟨_, if_pos hm, s.updMe_onlySlot _, ?_, fun i hi => ?_⟩
    · rw [State.sh_updMe]; rfl
    · rw [State.me_updMe]; exact s.me.mret_mstatus hi
  case wfi => exact ⟨_, (if_neg hu).trans (if_pos hp), s.complete_writes⟩
  case sretUser =>
    obtain ⟨t, ht, henters⟩ := State.raise_entersS hv (by simp [hu]) hr (cause 0 0 3) (zx s.me.word)
    exact ⟨t, (if_pos hu).trans ht, henters⟩
  case wfiUser =>
    obtain ⟨t, ht, henters⟩ := State.raise_entersS hv (by simp [hu]) hr (cause 0 0 3) (zx s.me.word)
    exact ⟨t, (if_pos hu).trans ht, henters⟩
  case mretBelow =>
    obtain ⟨t, ht, henters⟩ := State.raise_entersS hv hm hr (cause 0 0 3) (zx s.me.word)
    exact ⟨t, (if_neg hm).trans ht, henters⟩

end Sys2Proof.Machine
namespace Sys2Proof.Machine

/-! Scalar accesses that pass their checks (R63, R289, R299). -/

/-- Follow mode that is off does nothing (R95). -/
theorem State.follow_off {s : State} (h : bitOf s.sh.tsw 2 = false) (va : Nat) (need : BitVec 8) (f : State → Out) :
    s.follow va need f = f s := by
  have hbit : bitOf s.me.sh.tsw 2 = false := h
  have htarget : s.followTarget va need = (none, false) := by simp [State.followTarget, hbit]
  simp only [State.follow, htarget]
/-- Follow mode does not touch a window address (R95). -/
theorem State.follow_window {s : State} {va : Nat} (h : isWindow va = true) (need : BitVec 8) (f : State → Out) :
    s.follow va need f = f s := by
  have htarget : s.followTarget va need = (none, false) := by simp [State.followTarget, h]
  simp only [State.follow, htarget]
/-- The field of n bytes at an address, as a number (R63). -/
theorem fieldOf_toNat (v : Word) {a n : Nat} (h : a % 8 + n ≤ 8) :
    (fieldOf v a n).toNat = v.toNat / 2 ^ (8 * (a % 8)) % 2 ^ (8 * n) := by
  have hmask : (2 ^ (8 * n) - 1) % 2 ^ 64 = 2 ^ (8 * n) - 1 := by
    have := Nat.pow_le_pow_right (n := 2) (by decide) (show 8 * n ≤ 64 by omega)
    exact Nat.mod_eq_of_lt (by omega)
  rw [fieldOf, BitVec.toNat_and, BitVec.toNat_ushiftRight, BitVec.toNat_ofNat, hmask, Nat.and_two_pow_sub_one_eq_mod,
    Nat.shiftRight_eq_div_pow]

section
variable {s u : State} {addr : Word} {n : Nat} (hv : s.VectorIdle) (hfollow : ∀ need f, s.follow addr.toNat need f = f s)
  (hfit : addr.toNat % 8 + n ≤ 8) (hu : u.me.early = [])
include hv hfollow hfit
include hu in
/-- A load within one doubleword that follow mode leaves alone and whose checks pass completes with the field that it finds (R63). -/
theorem State.scalarLoad_checked {v : Word} (hload : s.load (s.who 0) s.focus addr.toNat (byteMask (addr.toNat % 8) n) false
      (if addr.toNat % n = 0 then none else some (cause 5 0 0)) = .ok u v) (rd : XReg) (post : Nat → Word) :
    s.scalarLoad rd addr n (fun v => post v.toNat) =
      .next (u.completeX rd (post (v.toNat / 2 ^ (8 * (addr.toNat % 8)) % 2 ^ (8 * n)))) := by
  simp only [State.scalarLoad, Nat.not_lt.2 hfit, if_false, State.loadHeld_idle hv, Bool.false_eq_true, hfollow, hload, Res.run_ok,
    Slot.taken_none hu, State.useEarly_none hu, fieldOf_toNat v hfit]
/-- A store within one doubleword that follow mode leaves alone, that finds room, and whose checks pass completes (R63, R212). -/
theorem State.scalarStore_checked {v : Word} (hroom : s.noRoom (s.who 0) (addr.toNat / 8) (byteMask (addr.toNat % 8) n) = false)
    (hstore : s.store (s.who 0) s.focus addr.toNat (placeOf v addr.toNat) (byteMask (addr.toNat % 8) n)
      (if addr.toNat % n = 0 then none else some (cause 5 0 1)) = .ok u ()) : s.scalarStore addr n v = .next u.complete := by
  simp only [State.scalarStore, Nat.not_lt.2 hfit, if_false, hv.busy, Bool.false_eq_true, hfollow, hroom, hstore, Res.run_ok]
end

/-- Settles O10: with follow mode off, the one scalar load and the one scalar store go straight from their checks to completion. -/
theorem checkedLoadsAndStoresComplete : Obligations.CheckedLoadsAndStoresComplete := by
  unfold Obligations.CheckedLoadsAndStoresComplete
  refine fun s hv hhome htsw => ⟨?load, ?store⟩
  case load =>
    rintro e he rd rs1 imm a rfl hfit u v hload hu
    exact ⟨_, (exec_loadOps he rd rs1 imm s).trans (State.scalarLoad_checked hv (fun _ _ => State.follow_off htsw _ _ _) hfit hu hload rd e.2.2),
      u.completeX_writes rd _⟩
  case store =>
    rintro e he rs1 rs2 imm a rfl hfit hroom u hstore hu
    exact ⟨_, (exec_storeOps he rs1 rs2 imm s).trans (State.scalarStore_checked hv (fun _ _ => State.follow_off htsw _ _ _) hfit hroom hstore),
      u.complete_writes⟩

/-! Fences (R64, R65, R229, R240). -/

/-- Counting in turn on counters of a context changes those counters alone (R357). -/
theorem CoreCtx.foldl_pmcAdd (c : CoreCtx) (p : CoreCtx → Nat → Bool) (n : Nat) (l : List Nat) :
    ∃ pmc pmsel, l.foldl (fun c i => if p c i then pmcAdd c i n else c) c = { c with pmc := pmc, pmsel := pmsel } :=
  List.foldlRecOn (motive := fun x : CoreCtx => ∃ pmc pmsel, x = { c with pmc := pmc, pmsel := pmsel }) _ _ ⟨c.pmc, c.pmsel, rfl⟩
    fun x hx i _ => by
      obtain ⟨pmc, pmsel, rfl⟩ := hx
      split
      · exact ⟨_, _, rfl⟩
      · exact ⟨pmc, pmsel, rfl⟩
/-- Events counted on a core (R357) change its counters, and no other core. -/
theorem State.countN_counters (s : State) (c code n : Nat) (m : Option Mode) :
    (∀ d, d ≠ c → (s.countN c code n m).core d = s.core d) ∧
      ∃ pmc pmsel, (s.countN c code n m).core c = { s.core c with ctx := { (s.core c).ctx with pmc := pmc, pmsel := pmsel } } := by
  unfold State.countN
  split
  · refine ⟨fun d hd => by rw [State.core_updCtx, if_neg hd], ?_⟩
    obtain ⟨pmc, pmsel, hctx⟩ := CoreCtx.foldl_pmcAdd (s.core c).ctx
      (fun x i => pmselCounts (SMap.get 0 x.pmsel i) code m) n (List.range 8)
    exact ⟨pmc, pmsel, by rw [State.core_updCtx, if_pos rfl, hctx]⟩
  · exact ⟨fun _ _ => rfl, _, _, rfl⟩
/-- Where no load has been taken ahead, an acquire changes the core in focus alone (R229): at core scope nothing, and at a wider scope the
core's Valid copies go, and its counters count the Discard. -/
theorem State.acquire_cores {s : State} (h : s.me.early = []) (sc : Scope) :
    s.acquire sc = { s with cores := (s.acquire sc).cores } ∧ (sc = .core → s.acquire sc = s) ∧
      (∀ d, d ≠ s.myCore → (s.acquire sc).core d = s.core d) ∧
      (s.acquire sc).core s.myCore = { s.counting (s.acquire sc) s.myCore with
        l1 := if sc = .core then (s.core s.myCore).l1 else []
        l1apart := if sc = .core then (s.core s.myCore).l1apart else [] } := by
  have hforget : s.forget s.focus = s := if_pos (by rw [show s.slot s.focus = s.me from rfl, h]; rfl)
  by_cases hsc : sc = .core
  · have hnone : s.acquire sc = s := by simp only [State.acquire, State.acquireBut, hforget, hsc, if_true]
    rw [hnone, if_pos hsc, if_pos hsc]
    exact ⟨rfl, fun _ => rfl, fun _ _ => rfl, rfl⟩
  · have hdiscard : s.acquire sc = s.discardBut s.myCore (some s.sh.mode) [] := by
      simp only [State.acquire, State.acquireBut, hforget, hsc, if_false]
    rw [hdiscard, if_neg hsc, if_neg hsc]
    unfold State.discardBut State.count
    obtain ⟨hothers, pmc, pmsel, hcore⟩ := State.countN_counters
      (s.updCore s.myCore fun k => { k with l1 := k.l1.filter fun e => [].contains e.1, l1apart := k.l1apart.filter fun b => [].contains (2 * b) })
      s.myCore 8 1 (some s.sh.mode)
    refine ⟨s.discardBut_only s.myCore (some s.sh.mode) [], fun h => absurd h hsc, fun d hd => ?_, ?_⟩
    · rw [hothers d hd]; exact (s.updCore_onlyCore _ _).2.1 d hd
    · rw [State.counting, hcore, State.core_updCore_self]
      simp

/-- Completing behind a change of cores alone (R215, R357). -/
theorem State.complete_behindCores {s u : State} (h : u = { s with cores := u.cores }) :
    SlotsAndCores s u.complete ∧ StepsOn s u.complete ∧ ∀ c, u.complete.core c = u.core c := by
  rw [h]
  exact ⟨⟨rfl, fun _ => rfl⟩, (State.complete_stepsOn _ : _), fun _ => rfl⟩

/-- A fence that acquires completes, and the core in focus is as its acquire leaves it (R240). -/
theorem State.acquire_fences {s : State} (h : s.me.early = []) (sc : Scope) :
    SlotsAndCores s (s.acquire sc).complete ∧ StepsOn s (s.acquire sc).complete ∧
      (s.acquire sc).complete.core s.myCore = { s.counting (s.acquire sc).complete s.myCore with
          l1 := if sc = .core then (s.core s.myCore).l1 else []
          l1apart := if sc = .core then (s.core s.myCore).l1apart else [] } ∧
        (sc = .core → (s.acquire sc).complete.core s.myCore = s.core s.myCore) ∧
        ∀ c, c ≠ s.myCore → (s.acquire sc).complete.core c = s.core c := by
  obtain ⟨honly, hcore, hothers, hself⟩ := State.acquire_cores h sc
  obtain ⟨hslots, hsteps, hcores⟩ := State.complete_behindCores honly
  refine ⟨hslots, hsteps, ?_, fun hsc => ?_, fun c hc => ?_⟩
  · rw [State.counting, hcores]; exact hself
  · rw [hcores, hcore hsc]
  · rw [hcores, hothers c hc]

section
variable {s : State} (hv : s.VectorIdle) (hhome : s.StoresHome)
include hv
theorem execFenceSAcq_idle (sc : Scope) : execFenceSAcq sc s = .next (s.acquire sc).complete := hv.afterVector _
include hhome
theorem execFenceSRel_home (sc : Scope) : execFenceSRel sc s = .next s.complete := by
  simp only [execFenceSRel, hv.afterVector, State.release_home hhome]
theorem execFenceSAr_home (sc : Scope) : execFenceSAr sc s = .next (s.acquire sc).complete := by
  simp only [execFenceSAr, State.fenceAr, hv.afterVector, State.release_home hhome]
theorem execFenceI_home (imm : BitVec 12) (rs1 rd : BitVec 5) :
    execFenceI imm rs1 rd s = .next (s.updCore s.myCore fun k => { k with icache := [] }).complete := by
  simp only [execFenceI, hv.afterVector, State.release_home hhome]
end

/-- Settles O12: with nothing to wait for or to release, a fence is its acquire, and FENCE.I the one change of its core. -/
theorem fencesCompleteAndDiscard : Obligations.FencesCompleteAndDiscard := by
  unfold Obligations.FencesCompleteAndDiscard
  refine ⟨fun sc s hv hhome => ⟨?release, fun i hi => ?acquire⟩, fun imm rs1 rd s hv hhome => ?fetch⟩
  case release => exact ⟨_, execFenceSRel_home hv hhome sc, s.complete_writes⟩
  case acquire =>
    obtain ⟨-, -, -, hearly⟩ := id hv
    have hexec : exec i s = .next (s.acquire sc).complete := by
      simp only [List.mem_cons, List.not_mem_nil, or_false] at hi
      obtain rfl | rfl := hi
      · exact execFenceSAcq_idle hv sc
      · exact execFenceSAr_home hv hhome sc
    exact ⟨_, hexec, State.acquire_fences hearly sc⟩
  case fetch =>
    obtain ⟨honly, hothers, hself⟩ := s.updCore_onlyCore s.myCore fun k => { k with icache := [] }
    obtain ⟨hslots, hsteps, hcores⟩ := State.complete_behindCores honly
    exact ⟨_, execFenceI_home hv hhome imm rs1 rd, hslots, hsteps, (hcores _).trans hself,
      fun c hc => (hcores c).trans (hothers c hc)⟩

/-- A set of `pred` or `succ` holds R or W where its two low bits are not both 0 (R64). -/
theorem and_three_ne_zero : ∀ v : BitVec 4, v &&& 3 ≠ 0 ↔ (v.getLsbD 0 || v.getLsbD 1) = true := by decide
/-- Settles O13: both sets hold R or W exactly where FENCE takes the branch of `fence.s.ar.clu`. -/
theorem fenceIsTheClusterFence : Obligations.FenceIsTheClusterFence := by
  unfold Obligations.FenceIsTheClusterFence
  intro fm pred succ rs1 rd s
  have hsets : (pred &&& 3 ≠ 0 ∧ succ &&& 3 ≠ 0) ↔
      ((pred.getLsbD 0 || pred.getLsbD 1) && (succ.getLsbD 0 || succ.getLsbD 1)) = true := by
    rw [and_three_ne_zero, and_three_ne_zero, Bool.and_eq_true]
  split
  · next h => exact if_pos (hsets.2 h)
  · next h => exact ⟨_, if_neg fun hboth => h (hsets.1 hboth), s.complete_writes⟩

end Sys2Proof.Machine

/-! PROOFS. The integer instructions and their exact results (R61, R69). -/

namespace Sys2Proof.Machine

/-! Words as narrowed numbers (R9). -/

section
variable {w : Nat} (a b : BitVec w) (n : Nat)
theorem add_eq_ofInt : a + b = BitVec.ofInt w (a.toInt + b.toInt) := by rw [BitVec.ofInt_add, BitVec.ofInt_toInt, BitVec.ofInt_toInt]
theorem sub_eq_ofInt : a - b = BitVec.ofInt w (a.toInt - b.toInt) := by
  rw [BitVec.sub_eq_add_neg, Int.sub_eq_add_neg, BitVec.ofInt_add, BitVec.ofInt_neg, BitVec.ofInt_toInt, BitVec.ofInt_toInt]
theorem mul_eq_ofInt : a * b = BitVec.ofInt w (a.toInt * b.toInt) := by rw [BitVec.ofInt_mul, BitVec.ofInt_toInt, BitVec.ofInt_toInt]
theorem shiftLeft_eq_ofNat : a <<< n = BitVec.ofNat w (a.toNat * 2 ^ n) := by
  refine BitVec.eq_of_toNat_eq ?_
  rw [BitVec.toNat_shiftLeft, Nat.shiftLeft_eq, BitVec.toNat_ofNat]
theorem ushiftRight_eq_ofNat : a >>> n = BitVec.ofNat w (a.toNat / 2 ^ n) := by
  refine BitVec.eq_of_toNat_eq ?_
  rw [BitVec.toNat_ushiftRight, Nat.shiftRight_eq_div_pow, BitVec.toNat_ofNat,
    Nat.mod_eq_of_lt (Nat.lt_of_le_of_lt (Nat.div_le_self _ _) a.isLt)]
theorem sshiftRight_eq_ofInt : a.sshiftRight n = BitVec.ofInt w (a.toInt / 2 ^ n) := by
  rw [BitVec.sshiftRight_eq, Int.shiftRight_eq_div_pow]; norm_cast
end

/-- Sign extension of a narrowed number (R9). -/
theorem sx_ofInt (t : Int) : sx (BitVec.ofInt 32 t) = result32 t := by rw [sx, BitVec.signExtend, BitVec.toInt_ofInt, result32]
/-- Sign extension of a narrowed natural number (R9). -/
theorem sx_ofNat (n : Nat) : sx (BitVec.ofNat 32 n) = result32 n := by rw [← BitVec.ofInt_natCast, sx_ofInt]
/-- The low 32 bits of a word are its number narrowed. -/
theorem lo32_eq_ofInt (v : Word) : lo32 v = BitVec.ofInt 32 v.toInt := by
  refine BitVec.eq_of_toInt_eq ?_
  rw [lo32, BitVec.truncate_eq_setWidth, BitVec.toInt_setWidth, BitVec.toInt_ofInt, BitVec.toInt_eq_toNat_bmod,
    Int.bmod_bmod_of_dvd (by decide)]
theorem lo32_toInt (v : Word) : (lo32 v).toInt = int32 v := by rw [lo32_eq_ofInt, BitVec.toInt_ofInt, int32]
theorem lo32_toNat (v : Word) : (lo32 v).toNat = nat32 v := BitVec.toNat_setWidth _ _
/-- The sign extension of the low 32 bits of a narrowed number. -/
theorem sx32_ofInt (t : Int) : sx32 (BitVec.ofInt 64 t) = result32 t := by
  rw [sx32, ← lo32, lo32_eq_ofInt, sx_ofInt, result32, result32, BitVec.toInt_ofInt, Int.bmod_bmod_of_dvd (by decide)]
theorem bw_decide (p : Prop) [Decidable p] : bw (decide p) = if p then 1 else 0 := by simp [bw]

theorem slt_bw (a b : Word) : bw (a.slt b) = if a.toInt < b.toInt then 1 else 0 := bw_decide _
theorem ult_bw (a b : Word) : bw (a.ult b) = if a.toNat < b.toNat then 1 else 0 := bw_decide _
/-- The shifts of the low 32 bits. -/
theorem sllw_eq (v : Word) (n : Nat) : sx (lo32 v <<< n) = result32 (nat32 v * 2 ^ n : Nat) := by
  rw [shiftLeft_eq_ofNat, sx_ofNat, lo32_toNat]
theorem srlw_eq (v : Word) (n : Nat) : sx (lo32 v >>> n) = result32 (nat32 v / 2 ^ n : Nat) := by
  rw [ushiftRight_eq_ofNat, sx_ofNat, lo32_toNat]
theorem sraw_eq (v : Word) (n : Nat) : sx ((lo32 v).sshiftRight n) = result32 (int32 v / 2 ^ n) := by
  rw [sshiftRight_eq_ofInt, sx_ofInt, lo32_toInt]

/-! Division (R69). -/

theorem lo32_eq_zero (v : Word) : lo32 v = 0 ↔ nat32 v = 0 := by rw [← lo32_toNat, ← BitVec.toNat_inj]; rfl
section
variable (a b : Word)
theorem divS_eq : divS a b = if b = 0 then -1 else BitVec.ofInt 64 (a.toInt.tdiv b.toInt) := rfl
theorem divU_eq : divU a b = if b = 0 then -1 else BitVec.ofNat 64 (a.toNat / b.toNat) := by rw [divU, BitVec.udiv_def]; rfl
theorem remU_eq : remU a b = if b = 0 then a else BitVec.ofNat 64 (a.toNat % b.toNat) := by rw [remU, BitVec.umod_def]
theorem divw_eq : sx (divS (lo32 a) (lo32 b)) = if nat32 b = 0 then -1 else result32 ((int32 a).tdiv (int32 b)) := by
  rw [divS, apply_ite sx, sx_ofInt, lo32_toInt, lo32_toInt]
  exact if_congr (lo32_eq_zero b) rfl rfl
theorem divuw_eq : sx (divU (lo32 a) (lo32 b)) = if nat32 b = 0 then -1 else result32 (nat32 a / nat32 b : Nat) := by
  rw [divU, apply_ite sx, BitVec.udiv_def, sx_ofNat, lo32_toNat, lo32_toNat]
  exact if_congr (lo32_eq_zero b) rfl rfl
theorem remw_eq : sx (remS (lo32 a) (lo32 b)) = if nat32 b = 0 then result32 a.toInt else result32 ((int32 a).tmod (int32 b)) := by
  rw [remS, apply_ite sx, sx_ofInt, lo32_toInt, lo32_toInt, lo32_eq_ofInt a, sx_ofInt]
  exact if_congr (lo32_eq_zero b) rfl rfl
theorem remuw_eq : sx (remU (lo32 a) (lo32 b)) = if nat32 b = 0 then result32 a.toInt else result32 (nat32 a % nat32 b : Nat) := by
  rw [remU, apply_ite sx, BitVec.umod_def, sx_ofNat, lo32_toNat, lo32_toNat, lo32_eq_ofInt a, sx_ofInt]
  exact if_congr (lo32_eq_zero b) rfl rfl
end

/-! Immediates (R37). -/

theorem sx_imm12 (imm : BitVec 12) : sx imm = BitVec.ofInt 64 imm.toInt := rfl
theorem addImm_eq (a : Word) (imm : BitVec 12) : a + sx imm = BitVec.ofInt 64 (a.toInt + imm.toInt) := by
  rw [BitVec.ofInt_add, BitVec.ofInt_toInt]; rfl
theorem slti_eq (a : Word) (imm : BitVec 12) : bw (a.slt (sx imm)) = if a.toInt < imm.toInt then 1 else 0 := by
  rw [slt_bw, sx, BitVec.toInt_signExtend_of_le (by decide)]
theorem sx_upper (imm : BitVec 20) : sx (imm ++ (0 : BitVec 12)) = BitVec.ofInt 64 (imm.toInt * 4096) := by
  rw [sx, BitVec.signExtend, show (imm ++ (0 : BitVec 12)).toInt = _ from BitVec.toInt_append_zero, Int.mul_comm]; rfl

/-! Each instruction completes with its exact result (R61). -/

/-- Completing with a value is completing with any expression of it. -/
theorem State.completeX_value {s : State} {rd : XReg} {v w : Word} (h : v = w) :
    (Host.Outcome.next (s.completeX rd v) : Out) = .next (s.completeX rd w) := by rw [h]

section
variable (rd rs1 rs2 : XReg) (s : State)
theorem exec_registerOps {e : (XReg → XReg → XReg → Instr) × (Word → Word → Word)} (he : e ∈ registerOps) :
    exec (e.1 rd rs1 rs2) s = .next (s.completeX rd (e.2 (s.x rs1) (s.x rs2))) := by
  have hall : ∀ e ∈ registerOps, exec (e.1 rd rs1 rs2) s = .next (s.completeX rd (e.2 (s.x rs1) (s.x rs2))) := by
    simp only [registerOps, List.forall_mem_cons, List.not_mem_nil, false_imp_iff, implies_true, and_true]
    exact ⟨State.completeX_value (add_eq_ofInt _ _), State.completeX_value (sub_eq_ofInt _ _), State.completeX_value (shiftLeft_eq_ofNat _ _),
      State.completeX_value (slt_bw _ _), State.completeX_value (ult_bw _ _), rfl, State.completeX_value (ushiftRight_eq_ofNat _ _),
      State.completeX_value (sshiftRight_eq_ofInt _ _), rfl, rfl,
      State.completeX_value (by rw [add_eq_ofInt, sx32_ofInt]), State.completeX_value (by rw [sub_eq_ofInt, sx32_ofInt]),
      State.completeX_value (sllw_eq _ _), State.completeX_value (srlw_eq _ _), State.completeX_value (sraw_eq _ _),
      State.completeX_value (mul_eq_ofInt _ _), rfl, rfl, State.completeX_value (BitVec.ofInt_natCast _ _),
      State.completeX_value (by rw [mul_eq_ofInt, sx32_ofInt])⟩
  exact hall e he
theorem exec_divisionOps {e : (XReg → XReg → XReg → Instr) × (Word → Word → Word)} (he : e ∈ divisionOps) :
    exec (e.1 rd rs1 rs2) s = .next (s.completeX rd (e.2 (s.x rs1) (s.x rs2))) := by
  have hall : ∀ e ∈ divisionOps, exec (e.1 rd rs1 rs2) s = .next (s.completeX rd (e.2 (s.x rs1) (s.x rs2))) := by
    simp only [divisionOps, List.forall_mem_cons, List.not_mem_nil, false_imp_iff, implies_true, and_true]
    exact ⟨State.completeX_value (divS_eq _ _), State.completeX_value (divU_eq _ _), rfl, State.completeX_value (remU_eq _ _),
      State.completeX_value (divw_eq _ _), State.completeX_value (divuw_eq _ _), State.completeX_value (remw_eq _ _),
      State.completeX_value (remuw_eq _ _)⟩
  exact hall e he
theorem exec_immediateOps {e : (XReg → XReg → BitVec 12 → Instr) × (Word → Int → Word)} (he : e ∈ immediateOps) (imm : BitVec 12) :
    exec (e.1 rd rs1 imm) s = .next (s.completeX rd (e.2 (s.x rs1) imm.toInt)) := by
  have hall : ∀ e ∈ immediateOps, exec (e.1 rd rs1 imm) s = .next (s.completeX rd (e.2 (s.x rs1) imm.toInt)) := by
    simp only [immediateOps, List.forall_mem_cons, List.not_mem_nil, false_imp_iff, implies_true, and_true]
    exact ⟨State.completeX_value (addImm_eq _ _), State.completeX_value (slti_eq _ _), State.completeX_value (ult_bw _ _), rfl, rfl, rfl,
      State.completeX_value (by rw [addImm_eq, sx32_ofInt])⟩
  exact hall e he
theorem exec_shiftOps {e : (XReg → XReg → BitVec 6 → Instr) × (Word → Nat → Word)} (he : e ∈ shiftOps) (n : BitVec 6) :
    exec (e.1 rd rs1 n) s = .next (s.completeX rd (e.2 (s.x rs1) n.toNat)) := by
  have hall : ∀ e ∈ shiftOps, exec (e.1 rd rs1 n) s = .next (s.completeX rd (e.2 (s.x rs1) n.toNat)) := by
    simp only [shiftOps, List.forall_mem_cons, List.not_mem_nil, false_imp_iff, implies_true, and_true]
    exact ⟨State.completeX_value (shiftLeft_eq_ofNat _ _), State.completeX_value (ushiftRight_eq_ofNat _ _),
      State.completeX_value (sshiftRight_eq_ofInt _ _)⟩
  exact hall e he
theorem exec_shiftOps32 {e : (XReg → XReg → BitVec 5 → Instr) × (Word → Nat → Word)} (he : e ∈ shiftOps32) (n : BitVec 5) :
    exec (e.1 rd rs1 n) s = .next (s.completeX rd (e.2 (s.x rs1) n.toNat)) := by
  have hall : ∀ e ∈ shiftOps32, exec (e.1 rd rs1 n) s = .next (s.completeX rd (e.2 (s.x rs1) n.toNat)) := by
    simp only [shiftOps32, List.forall_mem_cons, List.not_mem_nil, false_imp_iff, implies_true, and_true]
    exact ⟨State.completeX_value (sllw_eq _ _), State.completeX_value (srlw_eq _ _), State.completeX_value (sraw_eq _ _)⟩
  exact hall e he
end

/-- Settles O1: each instruction completes with a value that is its exact result narrowed, on every operand. -/
theorem registerInstructionsWriteTheirResult : Obligations.RegisterInstructionsWriteTheirResult := by
  unfold Obligations.RegisterInstructionsWriteTheirResult
  refine ⟨fun e he rd rs1 rs2 s => ⟨_, exec_registerOps rd rs1 rs2 s he, s.completeX_writes _ _⟩,
    fun e he rd rs1 rs2 s => ⟨_, exec_divisionOps rd rs1 rs2 s he, s.completeX_writes _ _⟩,
    fun e he rd rs1 imm s => ⟨_, exec_immediateOps rd rs1 s he imm, s.completeX_writes _ _⟩,
    fun e he rd rs1 n s => ⟨_, exec_shiftOps rd rs1 s he n, s.completeX_writes _ _⟩,
    fun e he rd rs1 n s => ⟨_, exec_shiftOps32 rd rs1 s he n, s.completeX_writes _ _⟩, fun rd imm s => ?upper⟩
  case upper =>
    rw [← sx_upper]
    exact ⟨⟨_, rfl, s.completeX_writes _ _⟩, ⟨_, rfl, s.completeX_writes _ _⟩⟩

end Sys2Proof.Machine

/-! PROOFS. Pacing and moves (R71, R73, R74). -/

namespace Sys2Proof.Machine

/-! Pacing (R73, R74). -/

/-- No deferred fault that a test selects is due (R414). -/
theorem State.firstDeferred_none {s : State} {p : Deferred → Bool} (h : s.NoDeferred p) : s.me.firstDeferred p = none := by
  have hfilter : s.me.deferred.filter p = [] := List.filter_eq_nil_iff.2 fun d hd => by simp [h d hd]
  rw [Slot.firstDeferred, hfilter]
  rfl
/-- With no deferred fault due, the instruction goes on (R414). -/
theorem State.deferredFirst_none {s : State} {p : Deferred → Bool} (h : s.NoDeferred p) (f : State → Out) : s.deferredFirst p f = f s := by
  simp only [State.deferredFirst, State.firstDeferred_none h]
/-- Where no load has been taken ahead, there is none to forget (R233). -/
theorem State.forget_none {s : State} (h : s.me.early = []) : s.forget s.focus = s :=
  if_pos (by rw [show s.slot s.focus = s.me from rfl, h]; rfl)
theorem execShyield_completes {s : State} (h : s.me.mixOrder = none) :
    execShyield s = .next (s.complete.updMe fun m => { m with yielded := true }) := by simp only [execShyield, h]
/-- The counters of the shuttle in focus are within the limits of a CWAIT (R74). -/
def State.withinLimits (s : State) (ld st cp tl : BitVec 5) : Prop :=
  (ld = 31 ∨ s.me.ld ≤ ld.toNat) ∧ (st = 31 ∨ s.stOf s.focus ≤ st.toNat) ∧ (cp = 31 ∨ s.me.cp ≤ cp.toNat) ∧ (tl = 31 ∨ s.me.tl ≤ tl.toNat)
section
variable {s : State} (hd : s.NoDeferred fun _ => true) (ld st cp tl : BitVec 5)
include hd
theorem execCwait_completes (hearly : s.me.early = []) (h : s.withinLimits ld st cp tl) : execCwait ld st cp tl s = .next s.complete := by
  rw [execCwait, State.deferredFirst_none hd]
  refine (if_pos ?_).trans (by rw [State.forget_none hearly])
  simpa [State.withinLimits, and_assoc] using h
theorem execCwait_waits (h : ¬ s.withinLimits ld st cp tl) : execCwait ld st cp tl s = .next (s.block .cwait) := by
  rw [execCwait, State.deferredFirst_none hd]
  refine if_neg ?_
  simpa [State.withinLimits, and_assoc] using h
end

/-! Moves (R71). -/

/-- Where engines do not act at once, a shuttle that begins to pack keeps its registers, and its slot alone differs (R30, R94). -/
theorem State.startPacking_packs {s : State} (he : s.eager = false) (i : PackInfo) :
    OnlySlot s (s.startPacking i) ∧ (s.startPacking i).me.life = .packing ∧ (s.startPacking i).me.pack = some i ∧
      ∀ r, (s.startPacking i).x r = s.x r := by
  rw [State.startPacking_lazy he]
  refine ⟨s.updMe_onlySlot _, by rw [State.me_updMe], by rw [State.me_updMe], fun r => ?_⟩
  rw [State.x, State.sh_updMe]
  rfl
/-- A window address is not one that raises a page fault whatever the tables hold (R286). -/
theorem not_isReservedVa_of_isWindow {a : Nat} (h : isWindow a = true) : isReservedVa a = false := by
  rw [isWindow, beq_iff_eq] at h
  exact decide_eq_false (by omega)
/-- `shmove.home` of a window address that may be used names the core of that scratchpad. -/
theorem State.homeCore_window {s : State} {a : Nat} (h : s.WindowAllows a) : s.homeCore a = .ok s (windowCore a) := by
  obtain ⟨-, hwindow, htest⟩ := h
  have hpass : s.windowTest (s.partOfVf (s.who 0).vf) (s.who 0).core 0 a = none := htest
  simp only [State.homeCore, not_isReservedVa_of_isWindow hwindow, hwindow, Bool.false_eq_true, if_false, if_true, hpass]
theorem execShmoveHome_window {s : State} {rs1 : XReg} (h : s.WindowAllows (s.x rs1).toNat) :
    execShmoveHome rs1 s = s.moveTo (windowCore (s.x rs1).toNat) := by
  obtain ⟨hmode, -, -⟩ := id h
  rw [execShmoveHome, if_neg hmode, State.homeCore_window h, Res.run_ok]
theorem execShmove_core {s : State} {rs1 : XReg} {n : Nat} (hx : (s.x rs1).toNat = n) (hmode : s.sh.mode ≠ .m) (hlt : n < 4096)
    (hcore : n % 256 < 192) (hpart : s.inPart (s.partOfVf s.me.vf) n = true) (hcolumn : s.inColumn n = false) :
    execShmove rs1 s = s.moveTo n := by
  have hnamed : ¬(4096 ≤ n ∨ 192 ≤ n % 256 ∨ s.inPart (s.partOfVf s.me.vf) n = false ∨ s.inColumn n = true) := by
    simp [hpart, hcolumn, hlt, hcore]
  subst hx
  rw [execShmove, if_neg hmode, if_neg hnamed]
theorem State.moveTo_own {s : State} (hfenced : s.isFenced s.myCore = false) : s.moveTo s.myCore = .next s.complete := by
  simp [State.moveTo, hfenced]
theorem State.moveTo_other {s : State} {n : Nat} (hv : s.VectorIdle) (hfenced : s.isFenced n = false) (hne : n ≠ s.myCore) :
    s.moveTo n = .next (s.startPacking { reason := 2, named := n, word := s.me.word, pc := s.sh.pc + 4, jumped := true }) := by
  simp only [State.moveTo, hfenced, Bool.false_eq_true, if_false, hne, hv.afterVector]

/-- Settles O22: CWAIT's limits decide between completion and the wait, and both moves come to one move to the core that they name. -/
theorem shuttlesPaceAndMove : Obligations.ShuttlesPaceAndMove := by
  unfold Obligations.ShuttlesPaceAndMove
  refine ⟨fun s => ⟨fun hmix => ?yield, fun hd hearly ld st cp tl => ⟨fun h => ?within, fun h => ?waits⟩⟩,
    fun rs1 s n hmode hv hpart hlt hcore hcolumn hfenced i hi => ?move⟩
  case yield =>
    obtain ⟨honly, -, -, hpc, -, hx⟩ := s.complete_writes
    obtain ⟨-, hme⟩ := s.complete_stepsOn
    have hsh : (s.complete.updMe fun m => { m with yielded := true }).sh = s.complete.sh := State.sh_updMe _ _
    refine ⟨_, execShyield_completes hmix, honly.trans (State.updMe_onlySlot _ _), ?_, fun r => ?_, ?_, ?_⟩
    · rw [State.me_updMe]
    · rw [State.x, hsh]
      exact (hx r).trans (if_neg fun h => h.2 rfl)
    · rw [hsh, hpc]
    · rw [State.me_updMe, hme]
  case within => exact ⟨_, execCwait_completes hd ld st cp tl hearly h, s.complete_writes⟩
  case waits => exact ⟨_, execCwait_waits hd ld st cp tl h, s.block_waits .cwait⟩
  case move =>
    have hmove : exec i s = s.moveTo n := by
      obtain ⟨rfl, hx⟩ | ⟨rfl, hw, rfl⟩ := hi
      · exact execShmove_core hx hmode hlt hcore hpart hcolumn
      · exact execShmoveHome_window hw
    rw [hmove]
    refine ⟨fun hown => ?_, fun hother he => ?_⟩
    · subst hown
      exact ⟨_, State.moveTo_own hfenced, s.complete_writes⟩
    · exact ⟨_, State.moveTo_other hv hfenced hother, State.startPacking_packs he _⟩

end Sys2Proof.Machine

/-! PROOFS. Loads and stores of a scratchpad window (R63, R204, R205), and what they leave in the access log (R355). -/

namespace Sys2Proof.Machine

/-! The access log (R355, R356). -/

/-- A log record leaves the watched ranges alone (R356). -/
theorem Vf.pushLog_logRanges (v : Vf) (time a b : Word) : (v.pushLog time a b).logRanges = v.logRanges := rfl
theorem Vf.emitLog_logRanges (v : Vf) (time a b : Word) : (v.emitLog time a b).logRanges = v.logRanges := by
  unfold Vf.emitLog
  split
  · rfl
  · split
    · rfl
    · dsimp only
      split <;> rfl
theorem Vf.flushLog_logRanges (v : Vf) : v.flushLog.logRanges = v.logRanges := by
  unfold Vf.flushLog
  split
  · rfl
  · exact List.foldlRecOn (motive := fun u : Vf => u.logRanges = v.logRanges) _ _ rfl fun u hu n _ => by rw [Vf.emitLog_logRanges, hu]
theorem Vf.putNote_logRanges (v : Vf) (n : LogNote) (now : Word) : (v.putNote n now).logRanges = v.logRanges := by
  unfold Vf.putNote
  dsimp only
  split
  · rfl
  · exact v.flushLog_logRanges
/-- An access in a watched range counts there (R355). -/
theorem Vf.logOne_counts {i va : Nat} {r : LogRange} (h : r.base ≤ va ∧ va < r.limit) (v : Vf) (die core : Nat) (host : Bool) (acc : Access)
    (time now : Word) : SMap.get 0 (SMap.get {} (v.logOne i r die core host acc va time now).logRanges i : LogRange).counts
      (8 * die + (logKind acc host).1) = SMap.get 0 r.counts (8 * die + (logKind acc host).1) + 1 := by
  unfold Vf.logOne
  rw [if_pos h]
  dsimp only
  split
  · rw [SMap.get_put_self, SMap.get_put_self]
  · rw [Vf.putNote_logRanges, SMap.get_put_self, SMap.get_put_self]
/-- Counting an access changes the VFs only (R355). -/
theorem State.logged_only (s : State) (acc : Access) (a : Nat) : s.logged acc a = { s with vfs := (s.logged acc a).vfs } := by
  unfold State.logged State.noteLog
  split <;> rfl
theorem State.logged_unlogged {s : State} {a : Nat} (h : s.Unlogged a) (acc : Access) : s.logged acc a = s :=
  State.noteLog_unlogged (w := s.who 0) h acc false
/-- An access in the one watched range of the VF counts there, in the column of its kind on the core's die (R355). -/
theorem State.logged_counts {s : State} {i a : Nat} {r : LogRange} (hranges : (s.vf s.me.vf).logRanges = [(i, r)])
    (h : r.base ≤ a ∧ a < r.limit) (acc : Access) :
    SMap.get 0 (SMap.get {} ((s.logged acc a).vf s.me.vf).logRanges i : LogRange).counts (8 * dieOf s.myCore + (logKind acc false).1) =
      SMap.get 0 r.counts (8 * dieOf s.myCore + (logKind acc false).1) + 1 := by
  have hwho : (s.who 0).vf = s.me.vf := rfl
  have hany : (([(i, r)] : List (Nat × LogRange)).any fun e => decide (e.2.base ≤ a) && decide (a < e.2.limit)) = true := by simp [h]
  have hone : s.logged acc a = s.updVf s.me.vf fun v => v.logOne i r (dieOf s.myCore) s.myCore false acc a (s.timeOn (dieOf s.myCore)) s.cycle := by
    rw [State.logged, State.noteLog, hwho, hranges, if_pos hany, State.updVf, hranges]; rfl
  rw [hone, State.vf_updVf_self]
  exact Vf.logOne_counts h _ _ _ _ _ _ _

/-! Loads from a window (R63, R204, R205). -/

/-- The checks of a window address that the shuttle in focus may use pass (R204). -/
theorem State.windowCause_allowed {s : State} {a : Nat} (h : s.WindowAllows a) (write : Bool) : s.windowCause (s.who 0) write a = none := by
  obtain ⟨-, -, htest⟩ := h
  simp only [State.windowCause, s.savedAway_core, Bool.false_eq_true, if_false]
  exact congrArg (Option.map _) htest
/-- A load of the shuttle in focus from a window reads the block there and counts as an access (R204, R205, R77, R355). -/
theorem State.load_windowLogged {s : State} {a : Nat} (hw : s.WindowAllows a) (hsettled : s.WindowSettled a)
    (hpoison : SMap.get false (s.core (windowCore a)).ctx.spoison (windowOff a / 8) = false) (need : BitVec 8) (acq : Bool)
    (dev : Option (BitVec 10)) :
    s.load (s.who 0) s.focus a need acq dev = .ok (s.logged .load a) ((s.core (windowCore a)).ctx.scratchBlock (windowOff a / 8)) := by
  obtain ⟨hmode, hwindow, -⟩ := id hw
  have hmachine : ¬ (s.who 0).mode = .m := hmode
  have hnone : s.registerWhere (s.who 0).core (fun e => e.shid == s.focus && e.pol == 4 && e.block == a / 8) = s :=
    State.registerWhere_none fun e he => by simp [hsettled e he]
  have hctx : s.windowCtx (s.who 0) (windowCore a) = (s.core (windowCore a)).ctx := by
    simp only [State.windowCtx, s.savedAway_core, Bool.false_eq_true, if_false]
  simp only [State.load, hmachine, not_isReservedVa_of_isWindow hwindow, hwindow, State.windowRead, State.windowCause_allowed hw, hnone, hctx,
    hpoison, Bool.false_eq_true, if_false, if_true]
  rfl
/-- The field of n bytes at a window address, out of its block (R63, R205). -/
theorem State.scratchBlock_field (s : State) {a n : Nat} (h : a % 8 + n ≤ 8) :
    ((s.core (windowCore a)).ctx.scratchBlock (windowOff a / 8)).toNat / 2 ^ (8 * (a % 8)) % 2 ^ (8 * n) =
      littleEndian (fun i => s.scratchByte (windowCore a) (windowOff a + i)) n := by
  have hplace : ∀ i, 8 * (windowOff a / 8) + (a % 8 + i) = windowOff a + i := fun i => by unfold windowOff; omega
  rw [CoreCtx.scratchBlock, wordOf8_toNat, littleEndian_field _ h]
  simp only [hplace]
  rfl

/-- Settles O4: a load that passes its checks has its field of the block there, and what it changes besides is the log of its access. -/
theorem windowLoadsReadTheirBytes : Obligations.WindowLoadsReadTheirBytes := by
  unfold Obligations.WindowLoadsReadTheirBytes
  rintro e he rd rs1 imm s a rfl hfit hv hw hsettled hpoison
  obtain ⟨-, hwindow, -⟩ := id hw
  obtain ⟨-, -, -, hearly⟩ := id hv
  have hme : (s.logged .load (s.x rs1 + BitVec.ofInt 64 imm.toInt).toNat).me.early = [] := by rw [State.logged_only]; exact hearly
  have hexec := (exec_loadOps he rd rs1 imm s).trans (State.scalarLoad_checked hv (fun _ _ => State.follow_window hwindow _ _) hfit hme
    (State.load_windowLogged hw hsettled hpoison _ _ _) rd e.2.2)
  rw [State.scratchBlock_field s hfit] at hexec
  exact ⟨_, hexec, State.completeX_writes _ _ _, fun hlog => State.logged_unlogged hlog .load,
    fun i r hranges hbase hlimit => State.logged_counts hranges ⟨hbase, hlimit⟩ .load⟩
end Sys2Proof.Machine

/-! PROOFS. Stores to a scratchpad window (R63, R204, R205, R228). -/

namespace Sys2Proof.Machine

/-- A map after writes of the selected bytes of a list of places of a block (R205). -/
theorem SMap.get_putBytes (g : Nat → Byte) (p : Nat → Bool) (b o : Nat) (l : List Nat) (m : SMap Byte) :
    SMap.get 0 (l.foldl (fun t i => if p i then SMap.put 0 t (b + i) (g i) else t) m) o =
      if b ≤ o ∧ o - b ∈ l ∧ p (o - b) then g (o - b) else SMap.get 0 m o := by
  induction l generalizing m with
  | nil => simp
  | cons i l ih =>
    rw [List.foldl_cons, ih]
    by_cases hin : b ≤ o ∧ o - b ∈ l ∧ p (o - b) = true
    · rw [if_pos hin, if_pos ⟨hin.1, List.mem_cons_of_mem _ hin.2.1, hin.2.2⟩]
    rw [if_neg hin]
    by_cases hi : b + i = o
    · cases hp : p i <;> simp [hp, ← hi]
    · have hmem : b ≤ o ∧ o - b ∈ i :: l ∧ p (o - b) = true ↔ b ≤ o ∧ o - b ∈ l ∧ p (o - b) = true := by
        rw [List.mem_cons]
        exact and_congr_right fun hle => and_congr_left fun _ => or_iff_right (by omega)
      rw [if_neg (mt hmem.1 hin)]
      split
      · exact SMap.get_put_of_ne _ _ _ (Ne.symm hi)
      · rfl
/-- The bytes of a scratchpad after a masked write of a block (R205). -/
theorem CoreCtx.putScratch_byte (c : CoreCtx) (blk : Nat) (data : Word) (m : BitVec 8) (o : Nat) :
    SMap.get 0 (c.putScratch blk data m).scratch o =
      if 8 * blk ≤ o ∧ o < 8 * blk + 8 ∧ m.getLsbD (o - 8 * blk) then byteAt data (o - 8 * blk) else SMap.get 0 c.scratch o := by
  refine (SMap.get_putBytes _ _ _ _ _ _).trans (if_congr ?_ rfl rfl)
  rw [List.mem_range]
  exact and_congr_right fun hle => and_congr_left fun _ => by omega
/-- The bytes of a scratchpad after a store of n bytes to a window address within one block (R63, R205). -/
theorem CoreCtx.putScratch_field (c : CoreCtx) (v : Word) {a n : Nat} (h : a % 8 + n ≤ 8) (o : Nat) :
    SMap.get 0 (c.putScratch (windowOff a / 8) (placeOf v a) (byteMask (a % 8) n)).scratch o =
      if windowOff a ≤ o ∧ o < windowOff a + n then byteAt v (o - windowOff a) else SMap.get 0 c.scratch o := by
  have hplace : 8 * (windowOff a / 8) + a % 8 = windowOff a := by unfold windowOff; omega
  rw [CoreCtx.putScratch_byte]
  generalize windowOff a = w at hplace
  by_cases ho : w ≤ o ∧ o < w + n
  · have hi : o - 8 * (w / 8) < 8 := by omega
    have hmask : (byteMask (a % 8) n).getLsbD (o - 8 * (w / 8)) = true := by rw [byteMask_getLsbD hi, decide_eq_true_eq]; omega
    rw [if_pos ⟨by omega, by omega, hmask⟩, if_pos ho, byteAt_placeOf v hi (by omega)]
    congr 1; omega
  · rw [if_neg ho, if_neg]
    rintro ⟨hlo, hhi, hmask⟩
    rw [byteMask_getLsbD (by omega), decide_eq_true_eq] at hmask
    omega

/-! A store to a window on its way (R205, R228). -/

/-- The entry that a store of the shuttle in focus to a window address makes (R228). -/
def State.windowEntry (s : State) (a : Nat) (data : Word) (m : BitVec 8) : StoreEntry :=
  { shid := s.focus, block := a / 8, data := data, mask := m, addr := BitVec.ofNat 64 a, pol := 4 }
/-- A store to a window is the commit of its entry, and counts as an access (R205, R355). -/
theorem State.store_window {s : State} {a : Nat} (hw : s.WindowAllows a) (data : Word) (m : BitVec 8) (dev : Option (BitVec 10)) :
    s.store (s.who 0) s.focus a data m dev = .ok ((s.commitPart s.myCore (s.windowEntry a data m)).noteLog (s.who 0) .store a false) () := by
  obtain ⟨hmode, hwindow, -⟩ := id hw
  have hmachine : ¬ (s.who 0).mode = .m := hmode
  simp only [State.store, hmachine, not_isReservedVa_of_isWindow hwindow, hwindow, State.windowStore, State.windowCause_allowed hw,
    Bool.false_eq_true, if_false, if_true]
  rfl
/-- The state once an entry is the youngest of the buffer of the core in focus (R228). -/
def State.leaveStore (s : State) (e : StoreEntry) : State := s.updCore s.myCore fun x => { x with sbuf := x.sbuf ++ [e] }
/-- Where no load has been taken ahead, the commit of a window store leaves its entry in the buffer, and where engines act at once the entry
registers (R228). -/
theorem State.commitPart_window {s : State} (hearly : s.me.early = []) (a : Nat) (data : Word) (m : BitVec 8) :
    s.commitPart s.myCore (s.windowEntry a data m) =
      if s.eager then (s.leaveStore (s.windowEntry a data m)).registerWhere s.myCore (· == s.windowEntry a data m)
      else s.leaveStore (s.windowEntry a data m) := by
  have hnone : (s.slot (s.windowEntry a data m).shid).early.isEmpty = true := List.isEmpty_iff.2 hearly
  have hpol : ¬ (s.windowEntry a data m).pol = 0 := of_decide_eq_false rfl
  simp only [State.commitPart, hnone, hpol, if_true, if_false]
  rfl
/-- The youngest entry of a buffer is asked for alone, where nothing older must go before it (R225). -/
theorem toRegister_youngest {l : List StoreEntry} {e : StoreEntry} (hne : ∀ x ∈ l, x ≠ e) (hfree : ∀ x ∈ l, x.ordered e = false) :
    toRegister (· == e) (l ++ [e]).reverse [] = [e] := by
  have hrest : ∀ r : List StoreEntry, (∀ x ∈ r, x ∈ l) → toRegister (· == e) r [e] = [e] := fun r => by
    induction r with
    | nil => exact fun _ => rfl
    | cons x r ih =>
      intro hr
      have hx := hr x (by simp)
      rw [toRegister, if_neg (by simp [hne x hx, hfree x hx])]
      exact ih fun y hy => hr y (by simp [hy])
  rw [List.reverse_append]
  show toRegister _ (e :: l.reverse) [] = _
  rw [toRegister, if_pos (by simp)]
  exact hrest _ fun x hx => List.mem_reverse.1 hx
/-- The youngest entry of a core's buffer, of a shuttle with no refused store, registers where nothing older must go before it (R225). -/
theorem State.registerWhere_youngest {s : State} {c : Nat} {l : List StoreEntry} {e : StoreEntry} (hbuf : (s.core c).sbuf = l ++ [e])
    (hne : ∀ x ∈ l, x ≠ e) (hfree : ∀ x ∈ l, x.ordered e = false) (hrefused : (s.slot e.shid).refused = []) :
    s.registerWhere c (· == e) = (s.updCore c fun k => { k with sbuf := k.sbuf.erase e }).register c e := by
  have hheld : s.heldBack e = false := by simp [State.heldBack, hrefused]
  rw [State.registerWhere, hbuf, toRegister_youngest hne hfree]
  simp [State.registerEach, hheld]
/-- The block of a window address lies where the address does (R204). -/
theorem window_block (a : Nat) : windowCore (8 * (a / 8)) = windowCore a ∧ windowOff (8 * (a / 8)) / 8 = windowOff a / 8 := by
  unfold windowCore windowOff
  exact ⟨by omega, by omega⟩
theorem State.register_window (s t : State) (c a : Nat) (data : Word) (m : BitVec 8) :
    t.register c (s.windowEntry a data m) = t.updCtx (windowCore a) fun x => x.putScratch (windowOff a / 8) data m := by
  obtain ⟨hcore, hunit⟩ := window_block a
  show t.updCtx (windowCore (8 * (a / 8))) (fun x => x.putScratch (windowOff (8 * (a / 8)) / 8) data m) = _
  rw [hcore, hunit]
/-- A further change of the context of a core is a change of cores. -/
theorem State.updCtx_behindCores {s t : State} (h : t = { s with cores := t.cores }) (c : Nat) (f : CoreCtx → CoreCtx) :
    t.updCtx c f = { s with cores := (t.updCtx c f).cores } := by
  generalize t.cores = cores at h
  subst h
  rfl
/-- A window store that engines perform at once changes the scratchpad that it names (R205). -/
theorem State.commitPart_window_eager {s : State} {a : Nat} (hearly : s.me.early = []) (hrefused : s.me.refused = []) (he : s.eager = true)
    (hsettled : s.WindowSettled a) (data : Word) (m : BitVec 8) :
    s.commitPart s.myCore (s.windowEntry a data m) = { s with cores := (s.commitPart s.myCore (s.windowEntry a data m)).cores } ∧
      ∀ d, (s.commitPart s.myCore (s.windowEntry a data m)).core d =
        if d = windowCore a then { s.core d with ctx := (s.core d).ctx.putScratch (windowOff a / 8) data m } else s.core d := by
  have hother : ∀ x ∈ (s.core s.myCore).sbuf, x ≠ s.windowEntry a data m := fun x hx h => hsettled x hx (by rw [h]; rfl)
  have hfree : ∀ x ∈ (s.core s.myCore).sbuf, x.ordered (s.windowEntry a data m) = false := fun x hx => by
    have hblock : ¬ x.block = (s.windowEntry a data m).block := hsettled x hx
    have hpol : inPageOrder (s.windowEntry a data m).pol (s.windowEntry a data m).ma = false := rfl
    simp [StoreEntry.ordered, StoreEntry.onPage, hblock, hpol]
  have hbuf : ((s.leaveStore (s.windowEntry a data m)).core s.myCore).sbuf = (s.core s.myCore).sbuf ++ [s.windowEntry a data m] := by
    rw [State.leaveStore, State.core_updCore_self]
  have herase : ((s.core s.myCore).sbuf ++ [s.windowEntry a data m]).erase (s.windowEntry a data m) = (s.core s.myCore).sbuf := by
    rw [List.erase_append_right _ fun h => hother _ h rfl, List.erase_cons_head, List.append_nil]
  have hcore : ∀ d, ((s.leaveStore (s.windowEntry a data m)).updCore s.myCore fun k =>
      { k with sbuf := k.sbuf.erase (s.windowEntry a data m) }).core d = s.core d := fun d => by
    by_cases hd : d = s.myCore
    · subst hd
      rw [State.core_updCore_self, State.leaveStore, State.core_updCore_self, herase]
    · rw [(State.updCore_onlyCore _ _ _).2.1 d hd, State.leaveStore, (s.updCore_onlyCore _ _).2.1 d hd]
  rw [State.commitPart_window hearly, if_pos he, State.registerWhere_youngest hbuf hother hfree hrefused, State.register_window]
  exact ⟨State.updCtx_behindCores rfl _ _, fun d => by rw [State.core_updCtx, hcore]⟩

/-- Counting an access does not depend on cores, and changes none (R355). -/
theorem State.noteLog_behindCores {s t : State} (h : t = { s with cores := t.cores }) (a : Nat) :
    t.noteLog (s.who 0) .store a false = { s.logged .store a with cores := t.cores } := by
  generalize hcores : t.cores = cores at h
  subst h
  by_cases hany : ((s.vf (s.who 0).vf).logRanges.any fun e => decide (e.2.base ≤ a) && decide (a < e.2.limit)) = true
  · have hlog : s.logged .store a = s.updVf (s.who 0).vf _ := if_pos hany
    rw [hlog]
    exact if_pos hany
  · have hlog : s.logged .store a = s := if_neg hany
    rw [hlog]
    exact if_neg hany
/-- Counting an access changes no core. -/
theorem State.core_logged (s : State) (acc : Access) (a d : Nat) : (s.logged acc a).core d = s.core d := by rw [State.logged_only]; rfl
/-- Completing behind a store that has been counted (R355): the shuttle steps on, and what the store changed of cores stays. -/
theorem State.complete_behindStore {s t : State} (h : t = { s with cores := t.cores }) (a : Nat) :
    let u := (t.noteLog (s.who 0) .store a false).complete
    StepsOn s u ∧ SlotsAndCores (s.logged .store a) u ∧ ∀ d, u.core d = t.core d := by
  rw [State.noteLog_behindCores h]
  have hsteps : StepsOn s ({ s.logged .store a with cores := t.cores } : State).complete := by
    rw [State.logged_only]
    exact (State.complete_stepsOn _ : _)
  exact ⟨hsteps, ⟨rfl, fun _ => rfl⟩, fun _ => rfl⟩

/-- Settles O5: the store's one entry performs at once, behind no other entry, or stays as the youngest of its buffer. -/
theorem windowStoresWriteTheirBytes : Obligations.WindowStoresWriteTheirBytes := by
  unfold Obligations.WindowStoresWriteTheirBytes
  rintro e he rs1 rs2 imm s a rfl hfit hv hw hrefused
  obtain ⟨-, hwindow, -⟩ := id hw
  obtain ⟨-, -, -, hearly⟩ := id hv
  generalize haddr : s.x rs1 + BitVec.ofInt 64 imm.toInt = addr at *
  have hroom : s.noRoom (s.who 0) (addr.toNat / 8) (byteMask (addr.toNat % 8) e.2) = false := by
    have hblock : isWindow (8 * (addr.toNat / 8)) = true := by
      rw [isWindow, beq_iff_eq] at hwindow ⊢
      omega
    simp [State.noRoom, hblock]
  have hexec := exec_storeOps he rs1 rs2 imm s
  rw [haddr, State.scalarStore_checked hv (fun _ _ => State.follow_window hwindow _ _) hfit hroom (State.store_window hw _ _ _)] at hexec
  refine ⟨fun he hsettled => ?eager, fun he => ?lazy⟩
  case eager =>
    obtain ⟨honly, hcore⟩ := State.commitPart_window_eager hearly hrefused he hsettled (placeOf (s.x rs2) addr.toNat) (byteMask (addr.toNat % 8) e.2)
    obtain ⟨hsteps, ⟨hstate, hbyte⟩, hkept⟩ := State.complete_behindStore honly addr.toNat
    refine ⟨_, hexec, hsteps, ⟨hstate, hbyte, fun d hd => ?_, ?_⟩, fun o => ?_⟩
    · rw [hkept, hcore, if_neg hd, State.core_logged]
    · rw [hkept, hcore, if_pos rfl, State.core_logged]; rfl
    · rw [State.scratchByte, hkept, hcore, if_pos rfl]
      exact CoreCtx.putScratch_field _ _ hfit o
  case lazy =>
    obtain ⟨hsteps, ⟨hstate, hbyte⟩, hkept⟩ := State.complete_behindStore (s := s)
      (t := s.leaveStore (s.windowEntry addr.toNat (placeOf (s.x rs2) addr.toNat) (byteMask (addr.toNat % 8) e.2))) rfl addr.toNat
    rw [State.commitPart_window hearly, if_neg (by simp [he])] at hexec
    have hcore : (s.logged .store addr.toNat).myCore = s.myCore := by rw [State.logged_only]; rfl
    refine ⟨_, hexec, hsteps, hstate, hbyte, fun d hd => ?_, ?_⟩
    · rw [hkept, State.core_logged, State.leaveStore, (s.updCore_onlyCore _ _).2.1 d (by rwa [hcore] at hd)]
    · rw [hkept, State.core_logged, hcore, State.leaveStore, State.core_updCore_self]
      rfl

end Sys2Proof.Machine

/-! PROOFS. A copy that ends after its shuttle left (R255, R99). -/

namespace Sys2Proof.Machine

/-- A copy of no bytes at the head of channel 0, whose issuer, slot 0, is free with a count of 1 left in it. -/
def copyOfFreeSlot : State := { sections := [(0, { chans := [(0, { cmds := [{}] })] })], slots := [(0, { cp := 1 })] }
/-- The operation leaves its channel, and the free slot keeps its count: CP is counted in the frame that the shuttle moved with. -/
theorem execCopyComplete_freeSlot : ∃ t, execCopyComplete copyOfFreeSlot = .next t ∧ (t.slot 0).cp = 1 := ⟨_, rfl, rfl⟩

/-- Refutes O44: the clause of COPY_COMPLETE has no hypothesis that the issuer's slot is occupied, and `State.dropCp` lowers CP of the moved
frame, not of a free slot. -/
theorem not_ringsPollsAndCopiesStep : ¬ Obligations.RingsPollsAndCopiesStep := by
  unfold Obligations.RingsPollsAndCopiesStep
  intro h
  obtain ⟨-, -, hcopy⟩ := h copyOfFreeSlot 0 0 0 rfl rfl rfl
  obtain ⟨-, hends, -⟩ := hcopy {} rfl rfl
  obtain ⟨t, ht, -, -, hcp, -⟩ := hends (by decide)
  obtain ⟨u, hu, hkept⟩ := execCopyComplete_freeSlot
  have htu : t = u := by injection ht.symm.trans hu
  have hlowered : (u.slot 0).cp = 0 := htu ▸ hcp
  exact absurd (hlowered.symm.trans hkept) (by decide)

end Sys2Proof.Machine

/-! PROOFS. Barriers and iteration rings (R75, R250, R251). -/

namespace Sys2Proof.Machine

/-! Completing behind changes elsewhere. -/

/-- A write of a result behind a change that leaves the slot in focus alone is the return of that result. -/
theorem WritesX.returns {s u t : State} {rd : XReg} {v : Word} (h : WritesX u rd v t) (hme : u.me = s.me) : Returns s rd v t := by
  obtain ⟨-, honly, hjumped, hpc, hbad, hx⟩ := h
  have hsh : u.sh = s.sh := congrArg Slot.sh hme
  rw [OnlyXPc, hme, hsh] at honly
  rw [State.badAfter, hsh] at hbad
  exact ⟨honly, hjumped, by rw [hpc, hsh], hbad, fun r => by rw [hx, State.x, State.x, hsh]⟩
/-- Completing behind a change of sections alone. -/
theorem State.complete_behindSections {s u : State} (h : u = { s with sections := u.sections }) :
    SlotsCoresSections s u.complete ∧ StepsOn s u.complete ∧ ∀ n, u.complete.sec n = u.sec n := by
  generalize u.sections = sections at h
  subst h
  exact ⟨⟨rfl, fun _ => rfl⟩, (State.complete_stepsOn _ : _), fun _ => rfl⟩
/-- Completing with a result behind a change of sections alone. -/
theorem State.completeX_behindSections {s u : State} (h : u = { s with sections := u.sections }) (rd : XReg) (v : Word) :
    SlotsCoresSections s (u.completeX rd v) ∧ Returns s rd v (u.completeX rd v) ∧ ∀ n, (u.completeX rd v).sec n = u.sec n := by
  have hreturns : Returns s rd v (u.completeX rd v) := (u.completeX_writes rd v).returns (by rw [h]; rfl)
  refine ⟨?_, hreturns, fun n => rfl⟩
  generalize u.sections = sections at h
  subst h
  exact ⟨rfl, fun _ => rfl⟩
/-- Completing with a result behind a change of cores alone. -/
theorem State.completeX_behindCores {s u : State} (h : u = { s with cores := u.cores }) (rd : XReg) (v : Word) :
    SlotsAndCores s (u.completeX rd v) ∧ Returns s rd v (u.completeX rd v) := by
  have hreturns : Returns s rd v (u.completeX rd v) := (u.completeX_writes rd v).returns (by rw [h]; rfl)
  refine ⟨?_, hreturns⟩
  generalize u.cores = cores at h
  subst h
  exact ⟨rfl, fun _ => rfl⟩
/-- An acquire, then the next word (R229). -/
theorem State.acquire_completes {s : State} (h : s.me.early = []) (sc : Scope) :
    SlotsAndCores s (s.acquire sc).complete ∧ Returns s 0 0 (s.acquire sc).complete := by
  obtain ⟨honly, -⟩ := State.acquire_cores h sc
  obtain ⟨hslots, -, -⟩ := State.complete_behindCores honly
  exact ⟨hslots, (State.complete_writes _).returns (by rw [honly]; rfl)⟩
/-- Completing behind wakes of shuttles: the registers of the shuttle in focus are as they were, but for the result. -/
theorem OnlyWakes.completeX {s u : State} (h : OnlyWakes s u) (rd : XReg) (v : Word) :
    (u.completeX rd v).sh.pc = s.sh.pc + 4 ∧ ∀ q, (u.completeX rd v).x q = if q = rd ∧ rd ≠ 0 then v else s.x q := by
  obtain ⟨hfocus, hslots⟩ := h
  have hsh : u.sh = s.sh := by rw [State.sh, State.me, hfocus]; exact (hslots s.focus).1
  obtain ⟨-, -, -, hpc, -, hx⟩ := u.completeX_writes rd v
  exact ⟨by rw [hpc, hsh], fun q => by rw [hx, State.x, State.x, hsh]⟩
/-- Completing behind wakes of shuttles keeps the registers. -/
theorem OnlyWakes.complete {s u : State} (h : OnlyWakes s u) : u.complete.sh.pc = s.sh.pc + 4 ∧ ∀ q, u.complete.x q = s.x q := by
  obtain ⟨hfocus, hslots⟩ := h
  have hsh : u.sh = s.sh := by rw [State.sh, State.me, hfocus]; exact (hslots s.focus).1
  obtain ⟨-, -, -, hpc, -, hx⟩ := u.complete_writes
  exact ⟨by rw [hpc, hsh], fun q => by rw [hx, if_neg fun h => h.2 rfl, State.x, State.x, hsh]⟩

/-! Wakes by what a shuttle waits for (R127). -/

/-- A signal to those who wait for something wakes shuttles, and leaves sections and memory alone. -/
theorem State.signalWhere_wakes (s : State) (p : Nat → WaitKind → Bool) :
    OnlyWakes s (s.signalWhere p) ∧ (∀ n, (s.signalWhere p).sec n = s.sec n) ∧ ∀ a, (s.signalWhere p).byte a = s.byte a := by
  have hfold : s.signalWhere p = { s with slots := (s.signalWhere p).slots } ∧ OnlyWakes s (s.signalWhere p) := by
    refine List.foldlRecOn (motive := fun t : State => t = { s with slots := t.slots } ∧ OnlyWakes s t) _ _ ⟨rfl, .of_slots rfl rfl⟩
      fun t ht k _ => ?_
    obtain ⟨hstate, hwakes⟩ := ht
    split
    · split
      · exact ⟨by rw [State.signal_only, hstate], hwakes.trans (t.signal_onlyWakes k)⟩
      · exact ⟨hstate, hwakes⟩
    · exact ⟨hstate, hwakes⟩
  obtain ⟨hstate, hwakes⟩ := hfold
  exact ⟨hwakes, fun n => by rw [hstate]; rfl, fun a => by rw [hstate]; rfl⟩

/-! Barriers (R250, R251). -/

/-- A section after a change of it. -/
theorem State.sec_updSec_self (s : State) (n : Nat) (f : SectionCtx → SectionCtx) : (s.updSec n f).sec n = f (s.sec n) := SMap.get_put_self _ _ _ _
/-- The barrier just changed. -/
theorem State.barrier_updBarrier (s : State) (sec b : Nat) (f : Barrier → Barrier) :
    ((s.updBarrier sec b f).sec sec).barrier (b % 32) = f ((s.sec sec).barrier (b % 32)) := by
  rw [State.updBarrier, State.sec_updSec_self]
  exact SMap.get_put_self _ _ _ _
/-- A barrier that is not due stays as it is (R250). -/
theorem State.barrierTest_quiet {s : State} {sec b : Nat} {x : Barrier} (hx : (s.sec sec).barrier (b % 32) = x)
    (h : ¬(x.cnt = x.tgt ∧ x.pend = 0)) : s.barrierTest sec b = s := by
  refine if_neg ?_
  rw [hx]
  simpa using fun _ => not_and.1 h
/-- A barrier that is due flips its phase and clears its count; what it changes besides is who waits (R250). -/
theorem State.barrierTest_due {s : State} {sec b : Nat} {x : Barrier} (hx : (s.sec sec).barrier (b % 32) = x) (hinit : x.init = true)
    (hcnt : x.cnt = x.tgt) (hpend : x.pend = 0) :
    OnlyWakes s (s.barrierTest sec b) ∧ ((s.barrierTest sec b).sec sec).barrier (b % 32) = { x with ph := !x.ph, cnt := 0 } ∧
      ∀ a, (s.barrierTest sec b).byte a = s.byte a := by
  have hdue : ∃ p, s.barrierTest sec b = (s.updBarrier sec b fun x => { x with ph := !x.ph, cnt := 0 }).signalWhere p :=
    ⟨_, if_pos (by rw [hx]; simp [hinit, hcnt, hpend])⟩
  obtain ⟨p, hdue⟩ := hdue
  rw [hdue]
  obtain ⟨hwakes, hsec, hbyte⟩ := State.signalWhere_wakes (s.updBarrier sec b fun x => { x with ph := !x.ph, cnt := 0 }) p
  exact ⟨OnlyWakes.trans (.of_slots rfl rfl) hwakes, by rw [hsec, State.barrier_updBarrier, hx], hbyte⟩
/-- An arrival that is not the last (R251). -/
theorem State.arrive_counts {s : State} {sec b : Nat} {x : Barrier} (hx : (s.sec sec).barrier (b % 32) = x) (h : x.cnt + 1 ≠ x.tgt) :
    s.arrive sec b = (s.updBarrier sec b fun x => { x with cnt := x.cnt + 1 }, false, x.ph) := by
  have hafter : ((s.updBarrier sec b fun x => { x with cnt := x.cnt + 1 }).sec sec).barrier (b % 32) = { x with cnt := x.cnt + 1 } := by
    rw [State.barrier_updBarrier, hx]
  simp only [State.arrive, hx, State.barrierTest_quiet hafter fun hdue => h hdue.1, hafter, bne_self_eq_false]
/-- The arrival that meets the target with nothing pending (R251). -/
theorem State.arrive_completes {s : State} {sec b : Nat} {x : Barrier} (hx : (s.sec sec).barrier (b % 32) = x) (hinit : x.init = true)
    (hcnt : x.cnt + 1 = x.tgt) (hpend : x.pend = 0) :
    ∃ t, s.arrive sec b = (t, true, x.ph) ∧ OnlyWakes s t ∧ (t.sec sec).barrier (b % 32) = { x with ph := !x.ph, cnt := 0 } ∧
      ∀ a, t.byte a = s.byte a := by
  have hafter : ((s.updBarrier sec b fun x => { x with cnt := x.cnt + 1 }).sec sec).barrier (b % 32) = { x with cnt := x.cnt + 1 } := by
    rw [State.barrier_updBarrier, hx]
  obtain ⟨hwakes, hbarrier, hbyte⟩ := State.barrierTest_due hafter hinit hcnt hpend
  have hflips : ((!x.ph) != x.ph) = true := by simp
  refine ⟨_, ?_, OnlyWakes.trans (.of_slots rfl rfl) hwakes, hbarrier, hbyte⟩
  simp only [State.arrive, hx, hbarrier, hflips]

section
variable {s : State} {b : BitVec 6} {f : State → Nat → Barrier → Out}
theorem State.onBarrier_owned (h : s.Owns (barrierSection s.myCore b.toNat)) :
    s.onBarrier b f = f s (barrierSection s.myCore b.toNat) ((s.sec (barrierSection s.myCore b.toNat)).barrier (b.toNat % 32)) := if_pos h
theorem State.onBarrier_foreign (h : ¬ s.Owns (barrierSection s.myCore b.toNat)) : s.onBarrier b f = s.raise (cause 2 0 7) (zx b) := if_neg h
end

/-- The status word of a barrier as a number (R251). -/
theorem barrierWord_eq (done ph : Bool) : barrierWord done ph = (if ph then 1 else 0) + (if done then 2 else 0) := by
  cases done <;> cases ph <;> rfl

section
variable {s : State} {b : BitVec 6} {x : Barrier} (howns : s.Owns (barrierSection s.myCore b.toNat))
  (hx : (s.sec (barrierSection s.myCore b.toNat)).barrier (b.toNat % 32) = x) (r : XReg)
include howns
theorem execBarInit_sets (hv : s.VectorIdle) (hrun : s.MayRun (.barInit b r)) (h : (s.x r).toNat < 65536) :
    execBarInit b r s = .next (s.updBarrier (barrierSection s.myCore b.toNat) b.toNat fun x =>
      { x with tgt := (s.x r).toNat, cnt := 0, pend := 0, init := decide (s.x r ≠ 0) }).complete := by
  have hsmall : ¬ (s.x r).toNat / 65536 ≠ 0 := by omega
  simp only [execBarInit, State.gate_mayRun hrun, hv.afterVector, State.onBarrier_owned howns, hsmall, if_false]
include hx
theorem execBarArr_arrives (hv : s.VectorIdle) (hhome : s.StoresHome) (hinit : x.init = true) (hcnt : x.cnt ≠ x.tgt) {t : State} {done ph : Bool}
    (harrive : s.arrive (barrierSection s.myCore b.toNat) b.toNat = (t, done, ph)) :
    execBarArr r b s = .next (t.completeX r (barrierWord done ph)) := by
  have hcause : x.arriveCause = none := by simp [Barrier.arriveCause, hinit, hcnt]
  simp only [execBarArr, hv.afterVector, State.onBarrier_owned howns, State.release_home hhome, hx, hcause, harrive]
theorem execBarExp_adds (hv : s.VectorIdle) (hrun : s.MayRun (.barExp b r)) (hinit : x.init = true) (h : x.pend + (s.x r).toNat < 2 ^ 36) :
    execBarExp b r s = .next ((s.updBarrier (barrierSection s.myCore b.toNat) b.toNat fun y =>
      { y with pend := y.pend + (s.x r).toNat }).barrierTest (barrierSection s.myCore b.toNat) b.toNat).complete := by
  simp only [execBarExp, State.gate_mayRun hrun, hv.afterVector, State.onBarrier_owned howns, hx, hinit, Nat.not_le.2 h, if_false, Bool.not_true,
    Bool.false_eq_true]
theorem execBarWait_met (hinit : x.init = true) (h : x.ph ≠ (s.x r).getLsbD 0) : execBarWait b r s = .next (s.acquire .clu).complete := by
  have hmet : (x.ph != bitOf (s.x r) 0) = true := bne_iff_ne.2 h
  simp only [execBarWait, State.onBarrier_owned howns, hx, hinit, hmet, Bool.not_true, Bool.false_eq_true, if_false, if_true]
theorem execBarTest_reports (hinit : x.init = true) :
    execBarTest r b s = .next ((if x.ph != bitOf (s.x r) 0 then s.acquire .clu else s).completeX r
      (barrierWord (x.ph != bitOf (s.x r) 0) x.ph)) := by
  simp only [execBarTest, State.onBarrier_owned howns, hx, hinit, Bool.not_true, Bool.false_eq_true, if_false]
end
/-- An instruction that arrives at a barrier, or asks about it, raises where the barrier lies outside the partition or is not initialised
(R250, R251). -/
theorem exec_barrier_raises {s : State} {b : BitVec 6} {r : XReg} (hv : s.VectorIdle) (hhome : s.StoresHome) {i : Instr}
    (hi : i ∈ [Instr.barArr r b, .barWait b r, .barTest r b]) :
    (¬ s.Owns (barrierSection s.myCore b.toNat) → exec i s = s.raise (cause 2 0 7) (zx b)) ∧
      (s.Owns (barrierSection s.myCore b.toNat) → ((s.sec (barrierSection s.myCore b.toNat)).barrier (b.toNat % 32)).init = false →
        exec i s = s.raise (cause 7 0 4) (zx b)) := by
  simp only [List.mem_cons, List.not_mem_nil, or_false] at hi
  obtain rfl | rfl | rfl := hi
  case inl =>
    refine ⟨fun h => ?_, fun h hinit => ?_⟩
    · show execBarArr r b s = _
      simp only [execBarArr, hv.afterVector, State.onBarrier_foreign h]
    · show execBarArr r b s = _
      simp only [execBarArr, hv.afterVector, State.onBarrier_owned h, State.release_home hhome, Barrier.arriveCause, hinit, Bool.not_false, if_true]
  case inr.inl =>
    refine ⟨fun h => (State.onBarrier_foreign h : execBarWait b r s = _), fun h hinit => ?_⟩
    show execBarWait b r s = _
    simp only [execBarWait, State.onBarrier_owned h, hinit, Bool.not_false, if_true]
  case inr.inr =>
    refine ⟨fun h => (State.onBarrier_foreign h : execBarTest r b s = _), fun h hinit => ?_⟩
    show execBarTest r b s = _
    simp only [execBarTest, State.onBarrier_owned h, hinit, Bool.not_false, if_true]

/-! Rings (R75). -/

/-- The ring channel just changed; what a change of it changes besides is who waits (R75). -/
theorem State.updRing_wakes (s : State) (sec ch : Nat) (f : RingChannel → RingChannel) :
    OnlyWakes s (s.updRing sec ch f) ∧ ((s.updRing sec ch f).sec sec).ringCh (ch % 4) = f ((s.sec sec).ringCh (ch % 4)) ∧
      ∀ a, (s.updRing sec ch f).byte a = s.byte a := by
  have hring : ∃ p, s.updRing sec ch f =
      (s.updSec sec fun c => { c with ring := SMap.put {} c.ring (ch % 4) (f (c.ringCh (ch % 4))) }).signalWhere p := ⟨_, rfl⟩
  obtain ⟨p, hring⟩ := hring
  rw [hring]
  obtain ⟨hwakes, hsec, hbyte⟩ := State.signalWhere_wakes
    (s.updSec sec fun c => { c with ring := SMap.put {} c.ring (ch % 4) (f (c.ringCh (ch % 4))) }) p
  refine ⟨OnlyWakes.trans (.of_slots rfl rfl) hwakes, ?_, hbyte⟩
  rw [hsec, State.sec_updSec_self]
  exact SMap.get_put_self _ _ _ _
/-- A word with bit 63 clear is below 2^63. -/
theorem toNat_lt_of_bit63 {v : Word} (h : v.getLsbD 63 = false) : v.toNat < 2 ^ 63 := by
  rw [← BitVec.msb_eq_getLsbD_last (w := 64)] at h
  exact BitVec.toNat_lt_of_msb_false h
/-- A window whose lowest bit is clear does not advance. -/
theorem RingChannel.advance_stays {x : RingChannel} (h : x.w.getLsbD 0 = false) (n : Nat) : RingChannel.advance n x = x := by
  cases n with
  | zero => rfl
  | succ n => exact if_neg (by rw [h]; decide)
/-- A window that marks the iteration due alone advances by one. -/
theorem RingChannel.advance_one {x : RingChannel} (h : x.w = 1) (n : Nat) : RingChannel.advance (n + 1) x = { x with c := x.c + 1, w := 0 } := by
  have hlast : x.w >>> 1 = 0 := by rw [h]; rfl
  rw [RingChannel.advance, if_pos (by rw [h]; rfl), hlast]
  exact RingChannel.advance_stays BitVec.getLsbD_zero n
/-- A post with bit 63 sets the count (R75). -/
theorem RingChannel.post_sets {v : Word} (h : v.getLsbD 63 = true) (x : RingChannel) : x.post v = { x with c := v.toNat % 2 ^ 63, w := 0 } := if_pos h
section
variable {x : RingChannel} {v : Word} (h : v.getLsbD 63 = false)
include h
/-- A post inside the window marks its iteration, and the marked ones at the bottom advance the count (R75). -/
theorem RingChannel.post_marks (hlow : x.c ≤ v.toNat) (hhigh : v.toNat < x.c + 64) :
    x.post v = RingChannel.advance 64 { x with w := x.w ||| BitVec.ofNat 64 (2 ^ (v.toNat - x.c)) } := by
  have hiter : v.toNat % 2 ^ 63 = v.toNat := Nat.mod_eq_of_lt (toNat_lt_of_bit63 h)
  have hin : ¬(v.toNat < x.c ∨ x.c + 64 ≤ v.toNat) := by omega
  simp only [RingChannel.post, bitOf, h, hiter, hin, Bool.false_eq_true, if_false]
/-- A post of the next iteration due, with none marked behind it, advances the count by one (R75). -/
theorem RingChannel.post_due (hw : x.w = 0) (hdue : v.toNat = x.c) : x.post v = { x with c := x.c + 1 } := by
  rw [RingChannel.post_marks h (by omega) (by omega), hdue, hw, Nat.sub_self, RingChannel.advance_one rfl, ← hw]
/-- A post above the next iteration due marks it, and the count stays (R75). -/
theorem RingChannel.post_ahead (hw : x.w.getLsbD 0 = false) (hlow : x.c < v.toNat) (hhigh : v.toNat < x.c + 64) :
    x.post v = { x with w := x.w ||| BitVec.ofNat 64 (2 ^ (v.toNat - x.c)) } := by
  rw [RingChannel.post_marks h (by omega) hhigh]
  refine RingChannel.advance_stays ?_ _
  have hbit : (BitVec.ofNat 64 (2 ^ (v.toNat - x.c))).getLsbD 0 = false := by
    rw [BitVec.getLsbD_ofNat, Nat.testBit_two_pow_of_ne (by omega), Bool.and_false]
  rw [BitVec.getLsbD_or, hw, hbit, Bool.or_self]
end
theorem State.onRing_owned {s : State} {ch : BitVec 3} (h : s.Owns (ringSection s.myCore ch.toNat)) (f : State → Nat → RingChannel → Out) :
    s.onRing ch f = f s (ringSection s.myCore ch.toNat) ((s.sec (ringSection s.myCore ch.toNat)).ringCh (ch.toNat % 4)) := if_pos h
/-- The posts of a channel that one shuttle's post joins (R75). -/
def State.leavePost (s : State) (sec ch : Nat) (p : Nat × Word) : State :=
  s.updSec sec fun c => { c with ring := SMap.put {} c.ring (ch % 4) { c.ringCh (ch % 4) with posts := (c.ringCh (ch % 4)).posts ++ [p] } }
theorem State.leavePost_ring (s : State) (sec ch : Nat) (p : Nat × Word) :
    ((s.leavePost sec ch p).sec sec).ringCh (ch % 4) =
      { (s.sec sec).ringCh (ch % 4) with posts := ((s.sec sec).ringCh (ch % 4)).posts ++ [p] } := by
  rw [State.leavePost, State.sec_updSec_self]
  exact SMap.get_put_self _ _ _ _

section
variable {s : State} {ch : BitVec 3} {x : RingChannel} (howns : s.Owns (ringSection s.myCore ch.toNat))
  (hx : (s.sec (ringSection s.myCore ch.toNat)).ringCh (ch.toNat % 4) = x) (r : XReg)
include howns hx
theorem execIwait_reached (h : (s.x r).toNat % 2 ^ 63 ≤ x.c) : execIwait ch r s = .next (s.acquire .clu).complete := by
  simp only [execIwait, State.onRing_owned howns, hx, Nat.not_lt.2 h, if_false]
variable (hv : s.VectorIdle) (hhome : s.StoresHome) (hposting : s.posting s.focus = false)
include hv hhome hposting
/-- A post of an iteration below the count does nothing (R75). -/
theorem execIpost_past (h63 : (s.x r).getLsbD 63 = false) (h : (s.x r).toNat < x.c) : execIpost ch r s = .next s.complete := by
  have hiter : (s.x r).toNat % 2 ^ 63 = (s.x r).toNat := Nat.mod_eq_of_lt (toNat_lt_of_bit63 h63)
  simp only [execIpost, State.onRing_owned howns, hv.afterVector, State.release_home hhome, hx, hposting, bitOf, h63, hiter, h, decide_true,
    Bool.not_false, Bool.and_self, Bool.false_eq_true, if_true, if_false]
/-- A post that sets the count, or of an iteration inside the window, is applied at once or left on its way (R75). -/
theorem execIpost_posts (h : (s.x r).getLsbD 63 = true ∨ x.c ≤ (s.x r).toNat ∧ (s.x r).toNat < x.c + 64) :
    execIpost ch r s = if s.eager then .next (s.updRing (ringSection s.myCore ch.toNat) ch.toNat fun x => x.post (s.x r)).complete
      else .next (s.leavePost (ringSection s.myCore ch.toNat) ch.toNat (s.focus, s.x r)).complete := by
  have hin : bitOf (s.x r) 63 = true ∨ ¬ (s.x r).toNat % 2 ^ 63 < x.c ∧ ¬ x.c + 64 ≤ (s.x r).toNat % 2 ^ 63 := by
    cases h63 : (s.x r).getLsbD 63 with
    | true => exact .inl h63
    | false =>
      have hlt := toNat_lt_of_bit63 h63
      have hrange := h.resolve_left (by rw [h63]; decide)
      exact .inr (by omega)
  have hpast : (!bitOf (s.x r) 63 && decide ((s.x r).toNat % 2 ^ 63 < x.c)) = false := by
    obtain h63 | ⟨hlow, -⟩ := hin
    · rw [h63]; rfl
    · rw [decide_eq_false hlow, Bool.and_false]
  have hahead : (!bitOf (s.x r) 63 && decide (x.c + 64 ≤ (s.x r).toNat % 2 ^ 63)) = false := by
    obtain h63 | ⟨-, hhigh⟩ := hin
    · rw [h63]; rfl
    · rw [decide_eq_false hhigh, Bool.and_false]
  simp only [execIpost, State.onRing_owned howns, hv.afterVector, State.release_home hhome, hx, hposting, hpast, hahead, Bool.false_eq_true, if_false]
  rfl
end

/-- Settles O16: each instruction of a barrier or ring channel is one change of it, and who waits for it is all that the change wakes. -/
theorem barriersAndRingsCount : Obligations.BarriersAndRingsCount := by
  unfold Obligations.BarriersAndRingsCount
  refine ⟨?barriers, ?causes, ?rings⟩
  case barriers =>
    rintro b r s sec x rfl howns hx hv hhome
    obtain ⟨-, -, -, hearly⟩ := id hv
    have hbefore := hx.symm
    refine ⟨fun hrun h => ?init, fun hinit hcnt => ?arrives, fun hinit hcnt hpend => ?completes, fun hrun hinit hpend hnot => ?adds,
      fun hinit hph => ?waits, fun hinit => ?reports⟩
    case init =>
      obtain ⟨hstate, hsteps, hsec⟩ := State.complete_behindSections (s := s) (u := s.updBarrier _ b.toNat _) rfl
      refine ⟨_, execBarInit_sets howns r hv hrun h, hstate, hsteps, ?_⟩
      rw [hsec, State.barrier_updBarrier, hbefore]
    case arrives =>
      obtain ⟨hstate, hreturns, hsec⟩ := State.completeX_behindSections (s := s) (u := s.updBarrier _ b.toNat _) rfl r (barrierWord false x.ph)
      refine ⟨_, execBarArr_arrives howns hbefore r hv hhome hinit (by omega) (State.arrive_counts hbefore (by omega)), hstate, ?_, ?_⟩
      · rw [barrierWord_eq] at hreturns ⊢
        simpa using hreturns
      · rw [hsec, State.barrier_updBarrier, hbefore]
    case completes =>
      obtain ⟨t, harrive, hwakes, hbarrier, hbyte⟩ := State.arrive_completes hbefore hinit hcnt hpend
      obtain ⟨hpc, hregs⟩ := hwakes.completeX r (barrierWord true x.ph)
      refine ⟨_, execBarArr_arrives howns hbefore r hv hhome hinit (by omega) harrive, hbarrier, hbyte, hpc, fun q => ?_⟩
      rw [hregs]
      cases x.ph <;> rfl
    case adds =>
      have hafter := (s.barrier_updBarrier (barrierSection s.myCore b.toNat) b.toNat fun y => { y with pend := y.pend + (s.x r).toNat }).trans
        (by rw [hbefore])
      have hexec := execBarExp_adds howns hbefore r hv hrun hinit hpend
      rw [State.barrierTest_quiet hafter fun hdue => hnot.elim (fun h => h hdue.1) fun h => h hdue.2] at hexec
      obtain ⟨hstate, hsteps, hsec⟩ := State.complete_behindSections (s := s) (u := s.updBarrier _ b.toNat _) rfl
      exact ⟨_, hexec, hstate, hsteps, by rw [hsec, hafter]⟩
    case waits => exact ⟨_, execBarWait_met howns hbefore r hinit hph, State.acquire_completes hearly .clu⟩
    case reports =>
      have honly : (if x.ph != bitOf (s.x r) 0 then s.acquire .clu else s) =
          { s with cores := (if x.ph != bitOf (s.x r) 0 then s.acquire .clu else s).cores } := by
        obtain ⟨hacquire, -⟩ := State.acquire_cores hearly .clu
        split
        · exact hacquire
        · rfl
      obtain ⟨hstate, hreturns⟩ := State.completeX_behindCores honly r (barrierWord (x.ph != bitOf (s.x r) 0) x.ph)
      refine ⟨_, execBarTest_reports howns hbefore r hinit, hstate, ?_⟩
      simpa only [barrierWord_eq, bne_iff_ne, bitOf] using hreturns
  case causes =>
    rintro b r s sec rfl hv hhome hm hr i hi
    obtain ⟨hforeign, huninit⟩ := exec_barrier_raises hv hhome hi
    refine ⟨fun h => ?_, fun h hinit => ?_⟩
    · rw [hforeign h]; exact State.raise_entersS hv hm hr _ _
    · rw [huninit h hinit]; exact State.raise_entersS hv hm hr _ _
  case rings =>
    rintro ch r s sec x rfl howns hx hv hhome hposting
    obtain ⟨-, -, -, hearly⟩ := id hv
    have hbefore := hx.symm
    refine ⟨fun he y hy => ?eager, fun he h => ?lazy, fun h63 h => ?past, fun h => ?reached⟩
    case eager =>
      have hpost : ((s.x r).getLsbD 63 = true ∨ x.c ≤ (s.x r).toNat ∧ (s.x r).toNat < x.c + 64) ∧ x.post (s.x r) = y := by
        obtain ⟨h63, rfl⟩ | ⟨h63, hw, hdue, rfl⟩ | ⟨h63, hw, hlow, hhigh, rfl⟩ := hy
        · exact ⟨.inl h63, RingChannel.post_sets h63 x⟩
        · exact ⟨.inr (by omega), RingChannel.post_due h63 hw hdue⟩
        · exact ⟨.inr (by omega), RingChannel.post_ahead h63 hw hlow hhigh⟩
      obtain ⟨hin, hy⟩ := hpost
      obtain ⟨hwakes, hring, hbyte⟩ := s.updRing_wakes (ringSection s.myCore ch.toNat) ch.toNat fun x => x.post (s.x r)
      obtain ⟨hpc, hregs⟩ := hwakes.complete
      refine ⟨_, (execIpost_posts howns hbefore r hv hhome hposting hin).trans (if_pos he), hring.trans (by rw [hbefore, hy]), hpc, hregs, hbyte⟩
    case lazy =>
      obtain ⟨hstate, hsteps, hsec⟩ := State.complete_behindSections (s := s)
        (u := s.leavePost (ringSection s.myCore ch.toNat) ch.toNat (s.focus, s.x r)) rfl
      refine ⟨_, (execIpost_posts howns hbefore r hv hhome hposting h).trans (if_neg (by simp [he])), hstate, hsteps, ?_⟩
      rw [hsec, State.leavePost_ring, hbefore]
    case past => exact ⟨_, execIpost_past howns hbefore r hv hhome hposting h63 h, s.complete_writes⟩
    case reached => exact ⟨_, execIwait_reached howns hbefore r h, State.acquire_completes hearly .clu⟩

end Sys2Proof.Machine

/-! PROOFS. The Zfinx instructions (R69), and rounding of what a format represents (R103 to R105). -/

namespace Sys2Proof.Machine

/-! Completing with flags (R69, R104). -/

theorem fpWord_eq (b : Nat) : fpWord b = registerOfSingle b := sx_ofNat b
/-- Completing with a result and flags writes rd and `fflags`, and nothing else (R69). -/
theorem State.completeF_writes (s : State) (rd : XReg) (v : Word) (f : FFlags) : WritesF s rd v f (s.completeF rd v f) := by
  obtain ⟨honly, hx, hme⟩ := State.completeX_behind (s := s) (u := s.updSh fun sh => sh.accrue f) (s.updMe_onlySlot _) (s.me_updSh _)
    rfl rfl rfl rd v
  exact ⟨honly, hme, hx⟩
/-- A rounded result is written as a register value, with the flags of the operation and of its rounding. -/
theorem State.roundF_writes (s : State) (rd : XReg) (m : Rm) (p : Fp × FFlags) :
    ∃ t, s.roundF rd m p = .next t ∧ WritesF s rd (registerOfSingle (fp32.round m p.1).1) (p.2 ||| (fp32.round m p.1).2) t :=
  ⟨_, rfl, by rw [← fpWord_eq]; exact s.completeF_writes _ _ _⟩

section
variable {s : State} {i : Instr} (h : s.MayRun i)
include h
/-- A Zfinx instruction with no rounding mode that may run runs. -/
theorem State.zfinx_plain (f : State → Rm → Out) : s.zfinx i none f = f s .rne :=
  State.gate_mayRun h fun s => f s .rne
/-- A Zfinx instruction with a valid rounding mode that may run runs with that mode. -/
theorem State.zfinx_rounds {rm : BitVec 3} {m : Rm} (hm : s.sh.rmField rm = some m) (f : State → Rm → Out) : s.zfinx i (some rm) f = f s m := by
  simp only [State.zfinx, hm, Option.isNone_some, Bool.false_eq_true, if_false, Option.getD_some, State.gate_mayRun h]
end

section
variable {rd r1 r2 r3 : XReg} {rm : BitVec 3} {m : Rm} {s : State} (hm : s.sh.rmField rm = some m)
include hm
theorem exec_singleOps {e : (XReg → XReg → XReg → BitVec 3 → Instr) × (Rm → Fp → Fp → Fp × FFlags)} (he : e ∈ singleOps)
    (h : s.MayRun (e.1 rd r1 r2 rm)) : exec (e.1 rd r1 r2 rm) s = s.roundF rd m (e.2 m (s.f r1) (s.f r2)) := by
  have hexec : exec (e.1 rd r1 r2 rm) s = s.zfinx (e.1 rd r1 r2 rm) (some rm) fun s m => s.roundF rd m (e.2 m (s.f r1) (s.f r2)) := by
    simp only [singleOps, List.mem_cons, List.not_mem_nil, or_false] at he
    obtain rfl | rfl | rfl | rfl := he <;> rfl
  rw [hexec, State.zfinx_rounds h hm]
theorem exec_fusedOps {e : (XReg → XReg → XReg → XReg → BitVec 3 → Instr) × (Rm → Fp → Fp → Fp → Fp × FFlags)} (he : e ∈ fusedOps)
    (h : s.MayRun (e.1 rd r1 r2 r3 rm)) : exec (e.1 rd r1 r2 r3 rm) s = s.roundF rd m (e.2 m (s.f r1) (s.f r2) (s.f r3)) := by
  have hexec : exec (e.1 rd r1 r2 r3 rm) s =
      s.zfinx (e.1 rd r1 r2 r3 rm) (some rm) fun s m => s.roundF rd m (e.2 m (s.f r1) (s.f r2) (s.f r3)) := by
    simp only [fusedOps, List.mem_cons, List.not_mem_nil, or_false] at he
    obtain rfl | rfl | rfl | rfl := he <;> rfl
  rw [hexec, State.zfinx_rounds h hm]
end

/-! Rounding of what a format represents (R103, R105). -/

section
variable (f : Fmt)
/-- A finite value whose leading bit, or the least exponent of the format, puts the rounding at its own exponent rounds to itself. -/
theorem Fmt.round_exact {m : Nat} {e : Int} (hm : m ≠ 0) (hq : max (topExp m e - f.fb) f.qmin = e)
    (hbits : (e - f.qmin).toNat * 2 ^ f.fb + m < f.infBits) (rm : Rm) (neg : Bool) :
    f.round rm (.fin neg m e) = (f.sign neg + ((e - f.qmin).toNat * 2 ^ f.fb + m), 0) := by
  have hat : roundAt rm neg m e e = (m, false) := by simp [roundAt]
  simp only [Fmt.round, hm, if_false, hq, hat, Nat.not_le.2 hbits, Bool.and_false]
  rfl
/-- A code is its sign, its exponent field and its fraction field (R103). -/
theorem Fmt.code_eq {b : Nat} (hb : b < 2 ^ f.width) :
    f.sign (b / 2 ^ (f.eb + f.fb) % 2 == 1) + (b / 2 ^ f.fb % 2 ^ f.eb * 2 ^ f.fb + b % 2 ^ f.fb) = b := by
  have hsign : b / 2 ^ (f.eb + f.fb) < 2 := by
    rw [Nat.div_lt_iff_lt_mul (Nat.two_pow_pos _), ← Nat.pow_succ']
    rwa [Fmt.width, Nat.add_assoc, Nat.add_comm 1] at hb
  have hlow : b % 2 ^ (f.eb + f.fb) = b / 2 ^ f.fb % 2 ^ f.eb * 2 ^ f.fb + b % 2 ^ f.fb := by
    rw [Nat.add_comm f.eb, Nat.pow_add, Nat.mod_mul, Nat.add_comm, Nat.mul_comm]
  have hplace : f.sign (b / 2 ^ (f.eb + f.fb) % 2 == 1) = b / 2 ^ (f.eb + f.fb) * 2 ^ (f.eb + f.fb) := by
    generalize b / 2 ^ (f.eb + f.fb) = d at hsign
    obtain rfl | rfl : d = 0 ∨ d = 1 := by omega
    · simp [Fmt.sign]
    · simp [Fmt.sign]
  rw [hplace, ← hlow, Nat.div_add_mod']
/-- The value of a code that is no NaN rounds to that code, with no flag. -/
theorem Fmt.round_decode {b : Nat} (hb : b < 2 ^ f.width) (heb : f.eb ≠ 0) (hnan : (f.decode b).isNan = false) (rm : Rm) :
    f.round rm (f.decode b) = (b, 0) := by
  have hcode := f.code_eq hb
  have hfr : b % 2 ^ f.fb < 2 ^ f.fb := Nat.mod_lt _ (Nat.two_pow_pos _)
  have hex : b / 2 ^ f.fb % 2 ^ f.eb < 2 ^ f.eb := Nat.mod_lt _ (Nat.two_pow_pos _)
  have htwo : 2 ≤ 2 ^ f.eb := Nat.le_self_pow heb 2
  unfold Fmt.decode at hnan ⊢
  dsimp only at hnan ⊢
  generalize (b / 2 ^ (f.eb + f.fb) % 2 == 1) = neg at *
  generalize b / 2 ^ f.fb % 2 ^ f.eb = ex at *
  generalize b % 2 ^ f.fb = fr at *
  have hbelow : ∀ n < 2 ^ f.eb - 1, n * 2 ^ f.fb + fr < f.infBits := fun n hn => by
    calc n * 2 ^ f.fb + fr < (n + 1) * 2 ^ f.fb := by rw [Nat.add_mul, Nat.one_mul]; exact Nat.add_lt_add_left hfr _
      _ ≤ (2 ^ f.eb - 1) * 2 ^ f.fb := Nat.mul_le_mul_right _ hn
  by_cases hinf : ex = 2 ^ f.eb - 1
  · rw [if_pos hinf] at hnan ⊢
    by_cases hzero : fr = 0
    · rw [if_pos hzero, ← hcode, hzero, hinf]; rfl
    · rw [if_neg hzero] at hnan; cases hnan
  rw [if_neg hinf]
  by_cases hsub : ex = 0
  · rw [if_pos hsub]
    by_cases hzero : fr = 0
    · subst hzero hsub; rw [← hcode]; simp [Fmt.round]
    · have hlog : Nat.log2 fr < f.fb := (Nat.log2_lt hzero).2 hfr
      have hunit : (f.qmin - f.qmin).toNat = 0 := by omega
      rw [f.round_exact hzero (by unfold topExp; omega) (by rw [hunit]; exact hbelow 0 (by omega)), hunit, ← hcode, hsub]
  · rw [if_neg hsub]
    have hlog : Nat.log2 (2 ^ f.fb + fr) = f.fb := (Nat.log2_eq_iff (by omega)).2 ⟨Nat.le_add_right _ _, by rw [Nat.pow_succ]; omega⟩
    have hunit : (f.qmin + (ex - 1 : Nat) - f.qmin).toNat = ex - 1 := by omega
    have hcarry : (ex - 1) * 2 ^ f.fb + (2 ^ f.fb + fr) = ex * 2 ^ f.fb + fr := by
      rw [← Nat.add_assoc, ← Nat.succ_mul, Nat.succ_eq_add_one, Nat.sub_add_cancel (by omega)]
    rw [f.round_exact (by omega) (by unfold topExp; omega) (by rw [hunit, hcarry]; exact hbelow ex (by omega)), hunit, hcarry, hcode]
end

/-- Settles O17: each operation is one rounding of its exact value, and a represented value is rounded at its own exponent. -/
theorem zfinxArithmeticRoundsOnce : Obligations.ZfinxArithmeticRoundsOnce := by
  unfold Obligations.ZfinxArithmeticRoundsOnce
  refine ⟨fun rd r1 r2 r3 rm m s hm => ⟨fun e he h => ?single, fun h => ?root, fun e he h => ?fused⟩, fun f hf m b hb hnan => ?represented⟩
  case single => rw [exec_singleOps hm he h]; exact s.roundF_writes rd m _
  case root =>
    have hexec : exec (.fsqrtS rd r1 rm) s = s.zfinx (.fsqrtS rd r1 rm) (some rm) fun s m => s.roundF rd m (s.f r1).sqrt := rfl
    rw [hexec, State.zfinx_rounds h hm]
    exact s.roundF_writes rd m _
  case fused => rw [exec_fusedOps hm he h]; exact s.roundF_writes rd m _
  case represented =>
    have heb : ∀ f ∈ [fp32, fp16, bf16], f.eb ≠ 0 := by decide
    exact f.round_decode hb (heb f hf) hnan m

/-! Signs, comparisons and conversions (R69). -/

/-- The sign bit of a single (R103). -/
theorem single_sign (v : Word) : singleOfRegister v / 2 ^ 31 % 2 = (decide (2 ^ 31 ≤ singleOfRegister v)).toNat := by
  have hlt : singleOfRegister v < 2 ^ 32 := Nat.mod_lt _ (by decide)
  by_cases h : 2 ^ 31 ≤ singleOfRegister v
  · rw [decide_eq_true h, Bool.toNat_true]; omega
  · rw [decide_eq_false h, Bool.toNat_false]; omega
/-- A conversion of bits to the integer that they represent (R121). -/
theorem sint_eq_bmod (v : Nat) {w : Nat} (hw : w ≠ 0) : sint v w = (v : Int).bmod (2 ^ w) := by
  obtain ⟨n, rfl⟩ := Nat.exists_eq_succ_of_ne_zero hw
  have hhalf : ((2 : Nat) ^ (n + 1) + 1) / 2 = 2 ^ n := by rw [Nat.pow_succ]; omega
  have hcast : (v : Int) % ((2 ^ (n + 1) : Nat) : Int) = ((v % 2 ^ (n + 1) : Nat) : Int) := (Int.natCast_mod _ _).symm
  have hcarry : (((2 ^ (n + 1) : Nat) : Int) + 1) / 2 = ((2 ^ n : Nat) : Int) := by omega
  rw [sint, Int.bmod, hcast, hcarry, Nat.succ_eq_add_one, Nat.add_sub_cancel]
  simp only [Int.ofNat_lt]
/-- The largest integer of a conversion, which a NaN gives, as a register value (R69). -/
theorem toInteger_nan {e : (XReg → XReg → BitVec 3 → Instr) × Nat × Bool} (he : e ∈ toIntegerOps) :
    BitVec.ofInt 64 (sint (wrap (intMax e.2.1 e.2.2) e.2.1) e.2.1) =
      if e.2.2 then BitVec.ofNat 64 (2 ^ (e.2.1 - 1) - 1) else BitVec.ofInt 64 (-1) := by
  simp only [toIntegerOps, List.mem_cons, List.not_mem_nil, or_false] at he
  obtain rfl | rfl | rfl | rfl := he <;> decide
theorem toInteger_width {e : (XReg → XReg → BitVec 3 → Instr) × Nat × Bool} (he : e ∈ toIntegerOps) : e.2.1 ≠ 0 := by
  simp only [toIntegerOps, List.mem_cons, List.not_mem_nil, or_false] at he
  obtain rfl | rfl | rfl | rfl := he <;> decide
/-- A sign at its place. -/
theorem toNat_place (d : Bool) : d.toNat * 2 ^ 31 = if d then 2 ^ 31 else 0 := by cases d <;> simp

section
variable {rd r1 r2 : XReg} {s : State}
theorem exec_signOps {e : (XReg → XReg → XReg → Instr) × (Bool → Bool → Bool)} (he : e ∈ signOps) (h : s.MayRun (e.1 rd r1 r2)) :
    exec (e.1 rd r1 r2) s = .next (s.completeX rd (registerOfSingle (singleOfRegister (s.x r1) % 2 ^ 31 +
      (if e.2 (decide (2 ^ 31 ≤ singleOfRegister (s.x r1))) (decide (2 ^ 31 ≤ singleOfRegister (s.x r2))) then 2 ^ 31 else 0)))) := by
  have hexec : ∃ mode, exec (e.1 rd r1 r2) s = s.zfinx (e.1 rd r1 r2) none (fun s _ => s.signInject rd r1 r2 mode) ∧
      fp32.inject mode (singleOfRegister (s.x r1)) (singleOfRegister (s.x r2)) = singleOfRegister (s.x r1) % 2 ^ 31 +
        (if e.2 (decide (2 ^ 31 ≤ singleOfRegister (s.x r1))) (decide (2 ^ 31 ≤ singleOfRegister (s.x r2))) then 2 ^ 31 else 0) := by
    have ha := single_sign (s.x r1)
    have hb := single_sign (s.x r2)
    generalize singleOfRegister (s.x r1) = a at *
    generalize singleOfRegister (s.x r2) = b at *
    simp only [signOps, List.mem_cons, List.not_mem_nil, or_false] at he
    obtain rfl | rfl | rfl := he
    case inl =>
      refine ⟨0, rfl, ?_⟩
      show a % 2 ^ 31 + b / 2 ^ 31 % 2 * 2 ^ 31 = _
      rw [hb, toNat_place]
    case inr.inl =>
      refine ⟨1, rfl, ?_⟩
      show a % 2 ^ 31 + (1 - b / 2 ^ 31 % 2) * 2 ^ 31 = _
      have hflip : ∀ d : Bool, 1 - d.toNat = (!d).toNat := by decide
      rw [hb, hflip, toNat_place]
    case inr.inr =>
      refine ⟨2, rfl, ?_⟩
      show a % 2 ^ 31 + (a / 2 ^ 31 % 2 + b / 2 ^ 31 % 2) % 2 * 2 ^ 31 = _
      have hdiffer : ∀ d e : Bool, (d.toNat + e.toNat) % 2 = (d != e).toNat := by decide
      rw [ha, hb, hdiffer, toNat_place]
  obtain ⟨mode, hexec, hinject⟩ := hexec
  rw [hexec, State.zfinx_plain h, ← hinject, ← fpWord_eq]
  rfl
theorem exec_minMax {e : (XReg → XReg → XReg → Instr) × Bool} (he : e ∈ [(Instr.fminS, false), (Instr.fmaxS, true)])
    (h : s.MayRun (e.1 rd r1 r2)) : exec (e.1 rd r1 r2) s = s.minMaxF rd r1 r2 e.2 := by
  have hexec : exec (e.1 rd r1 r2) s = s.zfinx (e.1 rd r1 r2) none fun s _ => s.minMaxF rd r1 r2 e.2 := by
    simp only [List.mem_cons, List.not_mem_nil, or_false] at he
    obtain rfl | rfl := he <;> rfl
  rw [hexec, State.zfinx_plain h]
theorem exec_compare {e : (XReg → XReg → XReg → Instr) × Cond} (he : e ∈ [(Instr.feqS, Cond.eq), (Instr.fltS, Cond.lt), (Instr.fleS, Cond.le)])
    (h : s.MayRun (e.1 rd r1 r2)) : exec (e.1 rd r1 r2) s = s.cmpF e.2 rd r1 r2 := by
  have hexec : exec (e.1 rd r1 r2) s = s.zfinx (e.1 rd r1 r2) none fun s _ => s.cmpF e.2 rd r1 r2 := by
    simp only [List.mem_cons, List.not_mem_nil, or_false] at he
    obtain rfl | rfl | rfl := he <;> rfl
  rw [hexec, State.zfinx_plain h]
variable {rm : BitVec 3} {m : Rm} (hm : s.sh.rmField rm = some m)
include hm
theorem exec_toIntegerOps {e : (XReg → XReg → BitVec 3 → Instr) × Nat × Bool} (he : e ∈ toIntegerOps) (h : s.MayRun (e.1 rd r1 rm)) :
    exec (e.1 rd r1 rm) s = s.toIntF rd r1 m e.2.1 e.2.2 := by
  have hexec : exec (e.1 rd r1 rm) s = s.zfinx (e.1 rd r1 rm) (some rm) fun s m => s.toIntF rd r1 m e.2.1 e.2.2 := by
    simp only [toIntegerOps, List.mem_cons, List.not_mem_nil, or_false] at he
    obtain rfl | rfl | rfl | rfl := he <;> rfl
  rw [hexec, State.zfinx_rounds h hm]
theorem exec_fromIntegerOps {e : (XReg → XReg → BitVec 3 → Instr) × (Word → Int)} (he : e ∈ fromIntegerOps) (h : s.MayRun (e.1 rd r1 rm)) :
    exec (e.1 rd r1 rm) s = s.fromIntF rd m (e.2 (s.x r1)) := by
  have hexec : exec (e.1 rd r1 rm) s = s.zfinx (e.1 rd r1 rm) (some rm) fun s m => s.fromIntF rd m (e.2 (s.x r1)) := by
    simp only [fromIntegerOps, List.mem_cons, List.not_mem_nil, or_false] at he
    obtain rfl | rfl | rfl | rfl := he
    case inl => simp only [← lo32_toInt]; rfl
    case inr.inl => simp only [← lo32_toNat]; rfl
    all_goals rfl
  rw [hexec, State.zfinx_rounds h hm]
end

/-- Settles O18: each instruction has the value and the flags of one operation, and a conversion's bits are read as the integer they represent. -/
theorem zfinxComparisonsAndConversions : Obligations.ZfinxComparisonsAndConversions := by
  unfold Obligations.ZfinxComparisonsAndConversions
  refine ⟨?compare, ?convert⟩
  case compare =>
    rintro rd r1 r2 s a b rfl rfl
    refine ⟨fun e he h => ?sign, fun e he h => ?minMax, fun e he h => ?cmp, fun h => ?kind⟩
    case sign => exact ⟨_, exec_signOps he h, s.completeX_writes _ _⟩
    case minMax =>
      rw [exec_minMax he h, ← fpWord_eq]
      exact ⟨_, rfl, s.completeF_writes _ _ _⟩
    case cmp =>
      rw [exec_compare he h]
      exact ⟨_, rfl, s.completeF_writes _ _ _⟩
    case kind =>
      have hexec : exec (.fclassS rd r1) s = s.zfinx (.fclassS rd r1) none fun s _ =>
        .next (s.completeX rd (BitVec.ofNat 64 (2 ^ fp32.classBit (fpBits (s.x r1))))) := rfl
      rw [hexec, State.zfinx_plain h]
      exact ⟨_, rfl, s.completeX_writes _ _⟩
  case convert =>
    refine fun rd r1 rm m s hm => ⟨fun e he h => ?toInteger, fun e he h => ?fromInteger⟩
    case toInteger =>
      rw [exec_toIntegerOps hm he h]
      refine ⟨_, rfl, ?_⟩
      have hoperand : s.f r1 = fp32.decode (singleOfRegister (s.x r1)) := rfl
      dsimp only
      rw [hoperand]
      split
      · rw [← toInteger_nan he]; exact s.completeF_writes _ _ _
      · rw [← sint_eq_bmod _ (toInteger_width he)]; exact s.completeF_writes _ _ _
    case fromInteger =>
      rw [exec_fromIntegerOps hm he h]
      obtain ⟨t, ht, hwrites⟩ := s.roundF_writes rd m (ofSigned (e.2 (s.x r1)) 0 false, 0)
      exact ⟨t, ht, by simpa using hwrites⟩

end Sys2Proof.Machine

/-! PROOFS. `stvec` (R82), the machine at power good (R321, R395), and a scrub that finds nothing (R386, R387). -/

namespace Sys2Proof.Machine

/-! The fields of `stvec` (R82). -/

/-- BASE x 4 as bits [63:2] of the register. -/
theorem and_not_three (v : Word) : v &&& ~~~(3 : Word) = BitVec.ofNat 64 (bitsOf v 63 2 * 4) := by
  have hshift : v &&& ~~~3#64 = v >>> 2 <<< 2 := by rw [BitVec.shiftLeft_ushiftRight]; rfl
  refine hshift.trans (BitVec.eq_of_toNat_eq ?_)
  have hv := v.isLt
  rw [BitVec.toNat_shiftLeft, BitVec.toNat_ushiftRight, Nat.shiftLeft_eq, Nat.shiftRight_eq_div_pow, BitVec.toNat_ofNat, bitsOf]
  omega
/-- With MODE 0 or 1, bit 0 says whether the mode is vectored. -/
theorem bitOf_zero_of_mode {v : Word} (h : bitsOf v 1 0 < 2) : bitOf v 0 = decide (bitsOf v 1 0 = 1) := by
  have hmod : bitsOf v 1 0 = v.toNat % 4 := by simp [bitsOf]
  have hbit : bitOf v 0 = decide (v.toNat % 2 = 1) := by simp [bitOf, BitVec.getLsbD, Nat.testBit_zero]
  rw [hmod] at h ⊢
  rw [hbit, decide_eq_decide]
  omega
/-- The vector of an interrupt comes from the code in the low bits of `scause`. -/
theorem scause_code {n : Nat} (h : n < 32) : (BitVec.ofNat 64 (2 ^ 63 + n) : Word) &&& 0xFFFF = BitVec.ofNat 64 n := by
  refine BitVec.eq_of_toNat_eq ?_
  rw [BitVec.toNat_and, BitVec.toNat_ofNat, BitVec.toNat_ofNat, show (0xFFFF : Word).toNat = 2 ^ 16 - 1 from rfl,
    Nat.and_two_pow_sub_one_eq_mod]
  omega
/-- The registers of the VF in focus after a write (R81). -/
theorem State.vf_writeVfRegs (s : State) (f : VfRegs → VfRegs) :
    (s.writeVfRegs f).vf s.me.vf = { s.vf s.me.vf with regs := f (s.vf s.me.vf).regs } := by
  rw [State.writeVfRegs_only]
  exact SMap.get_put_self _ _ _ _
/-- Such a write leaves the shuttle in focus alone. -/
theorem State.sh_writeVfRegs (s : State) (f : VfRegs → VfRegs) : (s.writeVfRegs f).sh = s.sh := by
  rw [State.writeVfRegs_only]; rfl

/-- Settles O20: the write is the CSR write of R16 to the VF's registers, and the entry is the plain trap, whose target is `stvec`'s fields
put back together. -/
theorem stvecFieldsAndEntry : Obligations.StvecFieldsAndEntry := by
  unfold Obligations.StvecFieldsAndEntry
  refine ⟨fun v => rfl, fun rs1 s hm hv => ?write, fun s k c under scause tval epc interrupt n hm hrecord hn hmode hcode => ?entry⟩
  case write =>
    have hmod : bitsOf (s.x rs1) 1 0 = (s.x rs1).toNat % 4 := by simp [bitsOf]
    have hexec : exec (.csrrw 0 rs1 0x105) s = s.csrOp 0x105 0 true fun _ => s.x rs1 := rfl
    rw [hexec]
    refine ⟨_, State.csrOp_writes hm hv (by decide) 0 rfl, ?_, ?_⟩
    · obtain ⟨-, -, -, hpc, -⟩ := State.completeX_writes (s.writeVfRegs _) 0 _
      rw [hpc, State.sh_writeVfRegs]
    · rw [← hmod]
      exact congrArg (fun f : Vf => f.regs.stvec) (s.vf_writeVfRegs _)
  case entry =>
    rw [State.trapSlot_plain ⟨hm, hrecord⟩, State.slot_setSlot_self, Slot.enterS_sh]
    dsimp only [handled]
    rw [bitOf_zero_of_mode hmode, and_not_three]
    cases hvec : interrupt && decide (bitsOf (s.vfRegs (s.slot k).vf (k / 16)).stvec 1 0 = 1)
    · rfl
    · simp only [Bool.and_eq_true] at hvec
      obtain ⟨hinterrupt, -⟩ := hvec
      rw [hcode hinterrupt, if_pos rfl, if_pos rfl, scause_code hn, BitVec.ofNat_add, Nat.mul_comm 4 n, BitVec.ofNat_mul n 4]
      exact congrArg _ (BitVec.mul_comm _ _)

/-! Power good (R321, R395). -/

/-- Settles O60: every map of the state is empty at reset, so that each read gives the default, and the agenda holds bring-up alone. -/
theorem resetIsPowerGood : Obligations.ResetIsPowerGood := by
  unfold Obligations.ResetIsPowerGood
  refine ⟨rfl, fun b => ?byte, fun p => ⟨rfl, rfl⟩, fun v => ⟨rfl, rfl⟩, fun k => rfl, rfl, rfl, rfl, rfl, ⟨_, ?step, rfl⟩⟩
  case byte =>
    simp [State.byte, State.padAt, State.reset, SMap.get]
  case step => rfl

/-! What a scrub finds (R386). -/

/-- A state that lists a VF at its reset value. -/
def vfListedAtReset : State := { vfs := [(0, {})] }
/-- A scrub that finds nothing writes the saved context of the subject's VF back, and the list no longer holds that VF. -/
theorem execPatrolScrub_vfListedAtReset : ∃ t, exec .patrolScrub vfListedAtReset = .next t ∧ t.vfs = [] := ⟨_, rfl, rfl⟩

/-- Refutes O54: the clause of a scrub that finds nothing asks for the very state of before and has no hypothesis that the VFs are listed in
canonical form. -/
theorem not_reliabilityStepsAct : ¬ Obligations.ReliabilityStepsAct := by
  unfold Obligations.ReliabilityStepsAct
  intro h
  obtain ⟨hclean, -⟩ := h vfListedAtReset 0 0 rfl rfl
  obtain ⟨t, hexec, hvfs⟩ := execPatrolScrub_vfListedAtReset
  have hsame : t = vfListedAtReset := by injection hexec.symm.trans (hclean rfl)
  have hlisted : vfListedAtReset.vfs = [] := hsame ▸ hvfs
  cases hlisted

end Sys2Proof.Machine

/-! PROOFS. Services for supervisor and host (R347, R348): requests, replies, and what the services of O48 do. -/

namespace Sys2Proof.Machine

/-! Callers: which VFs run, and which shuttles wait at firmware. -/

/-- Whether a VF runs depends on its partition alone. -/
theorem State.running_congr {s t : State} (hparts : t.parts = s.parts) {v : Nat} (hbound : (t.vf v).bound = (s.vf v).bound) :
    t.running v = s.running v := by
  simp only [State.running, State.partOfVf, State.part, hparts, hbound]

/-- A change after which the VFs that ran still run, and every shuttle that waits for firmware still does. -/
def KeepsCallers (s t : State) : Prop :=
  (∀ v, t.running v = s.running v) ∧
    ∀ k, (s.slot k).wait.any (fun w => w.kind == .firmware) = true → (t.slot k).wait = (s.slot k).wait

/-- A change of neither partitions, bindings nor slots. -/
theorem KeepsCallers.of_slots {s t : State} (hparts : t.parts = s.parts) (hbound : ∀ v, (t.vf v).bound = (s.vf v).bound)
    (hslots : t.slots = s.slots) : KeepsCallers s t :=
  ⟨fun v => State.running_congr hparts (hbound v), fun k _ => by simp only [State.slot, hslots]⟩
/-- One change after another. -/
theorem KeepsCallers.trans {s t u : State} (h : KeepsCallers s t) (g : KeepsCallers t u) : KeepsCallers s u := by
  obtain ⟨hrunning, hwaits⟩ := h
  obtain ⟨grunning, gwaits⟩ := g
  exact ⟨fun v => (grunning v).trans (hrunning v), fun k hk => (gwaits k (hwaits k hk ▸ hk)).trans (hwaits k hk)⟩
/-- Many such changes in a row. -/
theorem KeepsCallers.foldl {α : Type} {g : State → α → State} (hg : ∀ t a, KeepsCallers t (g t a)) (l : List α) (s : State) :
    KeepsCallers s (l.foldl g s) :=
  List.foldlRecOn (motive := KeepsCallers s) l g (.of_slots rfl (fun _ => rfl) rfl) fun t ht a _ => ht.trans (hg t a)
/-- A change of one slot that leaves a wait for firmware as it is. -/
theorem KeepsCallers.updSlot (s : State) (k : Nat) {f : Slot → Slot}
    (h : (s.slot k).wait.any (fun w => w.kind == .firmware) = true → (f (s.slot k)).wait = (s.slot k).wait) :
    KeepsCallers s (s.updSlot k f) := by
  refine ⟨fun v => rfl, fun j hj => ?_⟩
  rw [State.updSlot, State.slot_setSlot]
  split
  · subst j; exact h hj
  · rfl
/-- A change of one VF that leaves its binding alone. -/
theorem KeepsCallers.updVf (s : State) (v : Nat) {f : Vf → Vf} (h : (f (s.vf v)).bound = (s.vf v).bound) : KeepsCallers s (s.updVf v f) := by
  refine .of_slots rfl (fun w => ?_) rfl
  rw [State.updVf, State.vf, SMap.get_put]
  split
  · subst w; exact h
  · rfl

/-- A signal leaves what a shuttle waits for as it is (R127). -/
theorem State.wait_signal (s : State) (k : Nat) : ((s.signal k).slot k).wait = (s.slot k).wait := by
  unfold State.signal
  split
  · split <;> rw [State.updSlot, State.slot_setSlot_self]
    rfl
  · rfl
/-- A signal (R127). -/
theorem State.signal_keepsCallers (s : State) (k : Nat) : KeepsCallers s (s.signal k) := by
  unfold State.signal
  split
  · split
    · exact .updSlot s k fun _ => rfl
    · exact .updSlot s k fun _ => rfl
  · exact .of_slots rfl (fun _ => rfl) rfl
/-- The end of WFI on a core (R67). -/
theorem State.wakeWfi_keepsCallers (s : State) (c : Nat) : KeepsCallers s (s.wakeWfi c) := by
  unfold State.wakeWfi
  split
  · exact .of_slots rfl (fun _ => rfl) rfl
  · refine .foldl (fun t k => ?_) _ s
    split
    · next w hwait =>
      split
      · next hwfi =>
        obtain ⟨-, hkind, -⟩ := hwfi
        refine (t.signal_keepsCallers k).trans (.updSlot _ k fun hfirmware => ?_)
        rw [State.wait_signal, hwait] at hfirmware
        simp [hkind] at hfirmware
      · exact .of_slots rfl (fun _ => rfl) rfl
    · exact .of_slots rfl (fun _ => rfl) rfl
/-- Wakes delivered to watchers (R217). -/
theorem State.deliver_keepsCallers (s : State) (l : List Watch) : KeepsCallers s (s.deliver l) := by
  refine .foldl (fun t w => ?_) l s
  split
  · split
    · exact t.signal_keepsCallers _
    · exact .of_slots rfl (fun _ => rfl) rfl
  · exact .updVf t _ rfl
  · exact .of_slots rfl (fun _ => rfl) rfl
/-- The wake of a word's watchers (R217). -/
theorem State.wakeWord_keepsCallers (s : State) (v wd : Nat) : KeepsCallers s (s.wakeWord v wd) := by
  unfold State.wakeWord State.wake
  dsimp only
  split
  · split
    · exact KeepsCallers.trans (.of_slots rfl (fun _ => rfl) rfl) (State.deliver_keepsCallers _ _)
    · exact .of_slots rfl (fun _ => rfl) rfl
  · exact .of_slots rfl (fun _ => rfl) rfl

/-- Wakes delivered change slots, queues and watches only. -/
theorem State.deliver_only (s : State) (l : List Watch) :
    s.deliver l = { s with slots := (s.deliver l).slots, vfs := (s.deliver l).vfs, watches := (s.deliver l).watches } :=
  List.foldlRecOn (motive := fun t : State => t = { s with slots := t.slots, vfs := t.vfs, watches := t.watches }) l _ rfl
    fun t ht w _ => by
      split
      · split
        · rw [State.signal_only, ht]
        · exact ht
      · rw [State.updVf, ht]
      · rw [ht]
/-- The wake of a word's watchers changes slots, queues, watches and the order count only. -/
theorem State.wake_only (s : State) (v wd : Nat) (lost : Bool) : s.wake v wd lost =
    { s with slots := (s.wake v wd lost).slots, vfs := (s.wake v wd lost).vfs, watches := (s.wake v wd lost).watches
             order := (s.wake v wd lost).order } := by
  unfold State.wake
  dsimp only
  split
  · split
    · rw [State.deliver_only]
    · rfl
  · rfl

/-! Replies (R66, R347, R348). -/

/-- What a reply leaves in the slot of a shuttle that waits for it (R66). -/
theorem Slot.served_waiting {m : Slot} (h : m.wait.any (fun w => w.kind == .firmware) = true) (status : Nat) (vals : List Word) :
    (m.served status vals).life = .ready ∧ (m.served status vals).sh.pc = m.sh.pc + 4 ∧
      ∀ q : XReg, (m.served status vals).sh.getX q = if q = 10 then BitVec.ofNat 64 status else if q = 11 then vals.getD 0 0
        else if q = 12 then vals.getD 1 0 else if q = 13 then vals.getD 2 0 else m.sh.getX q := by
  obtain ⟨w, hwait, hkind⟩ := (Option.any_eq_true _ _).1 h
  rw [Slot.served, hwait]
  dsimp only
  rw [if_pos (eq_of_beq hkind)]
  refine ⟨rfl, ?_, fun q => ?_⟩
  · simp only [Slot.completeAt, Shuttle.setX_pc]
  · have hx : ∀ sh : Shuttle, (Shuttle.getX { sh with pc := sh.pc + 4 } q) = sh.getX q := fun sh => rfl
    simp only [Slot.completeAt, hx, Shuttle.getX_setX]
    grind
/-- A reply answers its caller, the shuttle that waits for it or the mailbox. -/
theorem State.reply_answered {u : State} {r : Request}
    (hcaller : ∀ k ∈ r.slot, u.running r.vf = true ∧ (u.slot k).wait.any (fun w => w.kind == .firmware) = true) (status : Nat)
    (vals : List Word) : Answered u r status vals (u.reply r status vals) := by
  unfold State.reply
  split
  · next hslot =>
    refine ⟨rfl, fun _ => ⟨fun _ => rfl, rfl, rfl, fun i hi => ?_⟩, fun k hk => by simp [hslot] at hk⟩
    interval_cases i <;> simp [SMap.get_put]
  · next k hslot =>
    obtain ⟨hrunning, hwait⟩ := hcaller k hslot
    obtain ⟨hlife, hpc, hx⟩ := Slot.served_waiting hwait status vals
    rw [if_pos hrunning]
    refine ⟨rfl, fun hnone => by simp [hslot] at hnone, fun j hj => ?_⟩
    obtain rfl : k = j := by rw [hslot] at hj; exact Option.some.inj hj
    refine ⟨rfl, fun i hi => State.slot_setSlot_of_ne _ _ hi, ?_⟩
    rw [State.updSlot, State.slot_setSlot_self]
    exact ⟨hlife, hpc, hx⟩

/-- No service of the caller is in progress. -/
theorem State.inProgress_none {s : State} {r : Request} (h : ∀ l ∈ s.longs, l.req.sameCaller r = false) : s.inProgress r = none := by
  have hfind : (s.longs.find? fun l => l.req.sameCall r) = none :=
    List.find?_eq_none.2 fun l hl => by simp [Request.sameCall, h l hl]
  have hany : (s.longs.any fun l => l.req.sameCaller r && l.reply.isNone) = false :=
    List.any_eq_false.2 fun l hl => by simp [h l hl]
  simp [State.inProgress, hfind, hany]

section
variable {s : State} {r : Request} {rest : List Request} {n : Nat} (h : s.Asks n r rest)
include h

/-- The request at the head is performed by the service of its number, for a caller that may call it. -/
theorem State.Asks.service {fromS fromPf : Bool} (hs : r.slot.isSome = true → fromS = true) (hp : r.slot = none → fromPf = true)
    (f : State → Request → Answer) : s.service n fromS fromPf f =
      .next ((f { s with requests := rest } r).state.reply r (f { s with requests := rest } r).status (f { s with requests := rest } r).values) := by
  obtain ⟨hrequests, hnumber, hlongs, -⟩ := h
  have hmay : ((r.slot.isSome && !fromS) || (r.slot.isNone && !fromPf)) = false := by
    cases hslot : r.slot with
    | none => simp [hp hslot]
    | some k => simp [hs (by simp [hslot])]
  have hnone : ({ s with requests := rest } : State).inProgress r = none := State.inProgress_none hlongs
  simp only [State.service, hrequests, hnumber, ne_eq, not_true_eq_false, if_false, hmay, hnone, Bool.false_eq_true, Option.getD_none]
/-- A caller is answered from any state that keeps callers. -/
theorem State.Asks.answered {u : State} (hkeeps : KeepsCallers s u) (status : Nat) (vals : List Word) :
    Answered u r status vals (u.reply r status vals) := by
  obtain ⟨-, -, -, hcaller⟩ := h
  obtain ⟨hrunning, hwaits⟩ := hkeeps
  refine State.reply_answered (fun k hk => ?_) status vals
  obtain ⟨hrun, -, hwait⟩ := hcaller k hk
  exact ⟨(hrunning _).trans hrun, by rw [hwaits k hwait]; exact hwait⟩
/-- A service whose answer is known, from a state that keeps callers, is served. -/
theorem State.Asks.served {i : Instr} {fromS fromPf : Bool} {f : State → Request → Answer} (hexec : exec i s = s.service n fromS fromPf f)
    (hs : r.slot.isSome = true → fromS = true) (hp : r.slot = none → fromPf = true) {u : State} {status : Nat} {vals : List Word}
    (ha : f { s with requests := rest } r = ⟨u, status, vals⟩) (hkeeps : KeepsCallers s u) {p : State → Prop} (hu : p u) :
    Served i s r status vals p :=
  ⟨u, _, by rw [hexec, h.service hs hp, ha], hu, h.answered hkeeps status vals⟩
end

/-! The timer (R83, R85, R347). -/

/-- The timer bit of a VF that runs is one of its interrupt core (R83). -/
theorem State.setTimer_running {s : State} {v : Nat} (h : s.running v = true) (b : Bool) : s.setTimer v b =
    (s.updCtx (s.vf v).intCore fun x => { x with sip := if b then x.sip ||| 0x20 else x.sip &&& ~~~0x20 }).wakeWfi (s.vf v).intCore := by
  simp only [State.setTimer, h, if_true]
/-- A change of a core's context, and the end of WFI there: slots and cores only. -/
theorem State.updCtx_wakeWfi_only (s : State) (c d : Nat) (f : CoreCtx → CoreCtx) : (s.updCtx c f).wakeWfi d =
    { s with slots := ((s.updCtx c f).wakeWfi d).slots, cores := (s.updCtx c f).cores } := (State.wakeWfi_only _ d).trans rfl
/-- The cores after it. -/
theorem State.core_updCtx_wakeWfi (s : State) (c d e : Nat) (f : CoreCtx → CoreCtx) :
    ((s.updCtx c f).wakeWfi d).core e = (s.updCtx c f).core e := by rw [State.updCtx_wakeWfi_only]; rfl
/-- Callers are kept. -/
theorem State.updCtx_wakeWfi_keepsCallers (s : State) (c d : Nat) (f : CoreCtx → CoreCtx) : KeepsCallers s ((s.updCtx c f).wakeWfi d) :=
  KeepsCallers.trans (.of_slots rfl (fun _ => rfl) rfl) (State.wakeWfi_keepsCallers _ d)
/-- Such a change concerns that core's bit, and the shuttles that it wakes there. -/
theorem State.setTimer_effect {s : State} {v : Nat} (h : s.running v = true) (b : Bool) :
    (s.setTimer v b).vfs = s.vfs ∧ (∀ x, (s.setTimer v b).byte x = s.byte x) ∧ bitOf ((s.setTimer v b).core (s.vf v).intCore).ctx.sip 5 = b ∧
      (∀ c, c ≠ (s.vf v).intCore → (s.setTimer v b).core c = s.core c) ∧ KeepsCallers s (s.setTimer v b) := by
  rw [State.setTimer_running h]
  refine ⟨?_, fun x => ?_, ?_, fun c hc => ?_, State.updCtx_wakeWfi_keepsCallers ..⟩
  · rw [State.updCtx_wakeWfi_only]
  · rw [State.updCtx_wakeWfi_only]; rfl
  · rw [State.core_updCtx_wakeWfi, State.core_updCtx, if_pos rfl]
    cases b <;> simp [bitOf]
  · rw [State.core_updCtx_wakeWfi, State.core_updCtx, if_neg hc]
/-- A deadline set for a VF that runs, and its timer bit cleared. -/
theorem State.setDeadline_effect {s u : State} {v : Nat} {d : Option Word} (h : s.running v = true)
    (hu : u = (s.updVf v fun f => { f with deadline := d }).setTimer v false) :
    (u.vf v).deadline = d ∧ bitOf (u.core (s.vf v).intCore).ctx.sip 5 = false ∧ (∀ w, w ≠ v → u.vf w = s.vf w) ∧ (∀ b, u.byte b = s.byte b) ∧
      KeepsCallers s u := by
  have hset := KeepsCallers.updVf s v (f := fun f => { f with deadline := d }) rfl
  have hself := s.vf_updVf_self v fun f => { f with deadline := d }
  obtain ⟨hrun, -⟩ := id hset
  obtain ⟨hvfs, hbyte, hbit, -, hkeeps⟩ := State.setTimer_effect ((hrun v).trans h) false
  subst hu
  refine ⟨?_, ?_, fun w hw => ?_, hbyte, hset.trans hkeeps⟩
  · rw [State.vf, hvfs, ← State.vf, hself]
  · rwa [hself] at hbit
  · rw [State.vf, hvfs]
    exact SMap.get_put_of_ne _ _ _ hw

/-! Protection (R288, R290). -/

/-- What writing a protection leaf changes: memory, with its keys and pads, and the leaves that firmware has placed. -/
def LeavesWritten (s t : State) : Prop :=
  t = { s with mem := t.mem, poison := t.poison, pads := t.pads, fkey := t.fkey, fwLeaves := t.fwLeaves }
/-- Such changes compose. -/
theorem LeavesWritten.trans {s t u : State} (h : LeavesWritten s t) (g : LeavesWritten t u) : LeavesWritten s u := by
  unfold LeavesWritten at *
  rw [g, h]
/-- The leaf of a protection table is found or made by writes of memory alone. -/
theorem State.protLeaf_only (s : State) (v top : Nat) : LeavesWritten s (s.protLeaf v top).1 := by
  unfold State.protLeaf LeavesWritten
  dsimp only
  split
  · rfl
  · rw [State.write64, State.writeMask_only]; rfl
/-- So are the permissions of a region written. -/
theorem State.protWrite_only (s : State) (v region : Nat) (b : Byte) (n : Nat) : LeavesWritten s (s.protWrite v region b n) := by
  induction n with
  | zero => rfl
  | succ n ih => exact (ih.trans (State.protLeaf_only ..)).trans rfl
/-- It keeps callers, whatever then becomes of the cores. -/
theorem LeavesWritten.keepsCallers {s t : State} (h : LeavesWritten s t) (cores : SMap Core) : KeepsCallers s { t with cores := cores } := by
  unfold LeavesWritten at h
  rw [h]
  exact .of_slots rfl (fun _ => rfl) rfl
/-- The PLB entries that are left of those of every core once a test has removed some (R290). -/
theorem State.plb_filtered {t : State} {hit : PlbEntry → Bool} {c : Nat} {e : PlbEntry}
    (he : e ∈ (({ t with cores := t.cores.map fun x => (x.1, { x.2 with plb := x.2.plb.filter fun y => !(hit y) }) } : State).core c).plb) :
    hit e = false := by
  have hcore : ({ t with cores := t.cores.map fun x => (x.1, { x.2 with plb := x.2.plb.filter fun y => !(hit y) }) } : State).core c =
      { t.core c with plb := (t.core c).plb.filter fun y => !(hit y) } :=
    SMap.get_map (fun x : Core => { x with plb := x.plb.filter fun y => !(hit y) }) rfl t.cores c
  rw [hcore] at he
  simpa using (List.mem_filter.1 he).2
/-- A region whose leaf is in place: its byte is the one that is written. -/
theorem State.byte_protWrite_one {s : State} {v region : Nat} {top : Word} (htop : top = s.read64 (s.protTable v + 8 * (region / 65536)))
    (h : bitOf top 0 = true) (x : Byte) (b : Nat) : (s.protWrite v region x 1).byte b =
      if b = bitsOf top 51 16 * 65536 + region % 65536 then x else s.byte b := by
  subst htop
  have hleaf : s.protLeaf v (region / 65536) = (s, bitsOf (s.read64 (s.protTable v + 8 * (region / 65536))) 51 16 * 65536) := by
    simp only [State.protLeaf, h, if_true]
  simp only [State.protWrite, Nat.add_zero, hleaf, State.byte_putByte]

/-! Clearing Owner-lost words (R219). -/

/-- The keys of a canonical map lie above its bound. -/
theorem SMap.le_of_wfFrom {α : Type} [DecidableEq α] {d : α} {m : SMap α} {lo : Nat} (w : SMap.wfFrom d lo m = true) :
    ∀ e ∈ m, lo ≤ e.1 := by
  induction m generalizing lo with
  | nil => exact fun _ h => absurd h List.not_mem_nil
  | cons x m ih =>
    obtain ⟨k, v⟩ := x
    simp only [SMap.wfFrom, Bool.and_eq_true, decide_eq_true_eq] at w
    obtain ⟨⟨hlo, -⟩, w⟩ := w
    intro e he
    obtain rfl | he := List.mem_cons.1 he
    · exact hlo
    · exact (Nat.le_succ_of_le hlo).trans (ih w e he)
/-- A test that selects one key of a canonical map selects its entry. -/
theorem SMap.filter_eq_singleton {α : Type} [DecidableEq α] {d : α} {m : SMap α} {p : Nat × α → Bool} {k lo : Nat}
    (w : SMap.wfFrom d lo m = true) (hkey : ∀ e, p e = true → e.1 = k) (hv : SMap.get d m k ≠ d) (hp : p (k, SMap.get d m k) = true) :
    m.filter p = [(k, SMap.get d m k)] := by
  induction m generalizing lo with
  | nil => exact absurd rfl hv
  | cons x m ih =>
    obtain ⟨j, v⟩ := x
    simp only [SMap.wfFrom, Bool.and_eq_true] at w
    obtain ⟨-, w⟩ := w
    simp only [SMap.get] at hv hp ⊢
    by_cases hj : j = k
    · subst hj
      simp only [if_true] at hp ⊢
      rw [List.filter_cons_of_pos hp, List.filter_eq_nil_iff.2]
      intro e he hpe
      have habove := SMap.le_of_wfFrom w e he
      have := hkey e hpe
      omega
    · simp only [hj, if_false] at hv hp ⊢
      rw [List.filter_cons_of_neg fun hpj => hj (hkey _ hpj)]
      exact ih w hv hp

/-- A write under the key that fits a frame changes the frame's key only (R351). -/
theorem State.useKey_fits {s : State} {a k : Nat} (h : s.KeyFits a k) : s.useKey a k = { s with fkey := (s.useKey a k).fkey } := by
  have hforeign : s.foreign a k = false := by
    obtain h | h := h <;> simp [State.foreign, h]
  simp only [State.useKey, hforeign, Bool.false_eq_true, if_false]
/-- Half of a block as a byte mask. -/
theorem half_mask (wd : Nat) : (if wd % 2 = 0 then 0x0F else 0xF0 : BitVec 8) = byteMask (4 * (wd % 2)) 4 := by
  obtain h | h := Nat.mod_two_eq_zero_or_one wd <;> rw [h] <;> rfl

/-- A word that has been cleared (R219): zero bytes at its place, Unregistered, and its watchers woken. -/
def State.cleared (s : State) (v wd ma kidx : Nat) : State :=
  (((s.useKey ma kidx).writeMask (ma / 8 * 8) 0 (if wd % 2 = 0 then 0x0F else 0xF0)).setHome v wd .unregistered).wakeWord v wd

/-- Clearing a word keeps those who ask for services. -/
theorem State.cleared_keepsCallers (s : State) (v wd ma kidx : Nat) : KeepsCallers s (s.cleared v wd ma kidx) := by
  refine KeepsCallers.trans (.of_slots ?_ (fun w => ?_) ?_) (State.wakeWord_keepsCallers _ _ _) <;>
  · rw [State.setHome, State.writeMask_only, State.useKey]
    dsimp only
    split <;> rfl
/-- It writes the word's four bytes and no other. -/
theorem State.byte_cleared {s : State} {v wd ma kidx : Nat} (h : s.KeyFits ma kidx) (b : Nat) : (s.cleared v wd ma kidx).byte b =
    if ma / 8 * 8 + 4 * (wd % 2) ≤ b ∧ b < ma / 8 * 8 + 4 * (wd % 2) + 4 then 0 else s.byte b := by
  have hbytes : ∀ u : State, (u.wakeWord v wd).byte b = u.byte b := fun u => by rw [State.wakeWord, State.wake_only]; rfl
  have hkey : (s.useKey ma kidx).byte b = s.byte b := by rw [State.useKey_fits h]; rfl
  have hhome : ∀ u : State, (u.setHome v wd .unregistered).byte b = u.byte b := fun u => rfl
  have hzero : ∀ i, byteAt 0 i = 0 := fun i => by simp [byteAt]
  rw [State.cleared, hbytes, hhome, State.byte_writeMask, hkey, half_mask, hzero]
  refine if_congr ⟨fun ⟨hlo, hhi, hmask⟩ => ?_, fun ⟨hlo, hhi⟩ => ⟨by omega, by omega, ?_⟩⟩ rfl rfl
  · rw [byteMask_getLsbD (by omega), decide_eq_true_eq] at hmask
    omega
  · rw [byteMask_getLsbD (by omega), decide_eq_true_eq]
    omega
/-- It leaves the word unregistered and every other word as it was. -/
theorem State.homeState_cleared (s : State) {v wd ma kidx : Nat} (hwd : wd < 2 ^ 56) {w j : Nat} (hj : j < 2 ^ 56) :
    (s.cleared v wd ma kidx).homeState w j = if w = v ∧ j = wd then .unregistered else s.homeState w j := by
  have hkey : wordKey w j = wordKey v wd ↔ w = v ∧ j = wd := by unfold wordKey; omega
  have hhome : (s.cleared v wd ma kidx).home = SMap.put .unregistered s.home (wordKey v wd) .unregistered := by
    rw [State.cleared, State.wakeWord, State.wake_only, State.setHome, State.writeMask_only, State.useKey]
    dsimp only
    split <;> rfl
  rw [State.homeState, hhome, SMap.get_put]
  exact if_congr hkey rfl rfl

/-! The index reset of a queue (R305, R342). -/

/-- A value put at every key of a list. -/
theorem SMap.get_foldl_put {α : Type} [DecidableEq α] (d v : α) (l : List Nat) (m : SMap α) (j : Nat) :
    SMap.get d (l.foldl (fun m k => SMap.put d m k v) m) j = if j ∈ l then v else SMap.get d m j := by
  induction l generalizing m with
  | nil => simp
  | cons k l ih =>
    rw [List.foldl_cons, ih, SMap.get_put]
    by_cases hl : j ∈ l <;> by_cases hk : j = k <;> simp [hl, hk]
/-- An index reset keeps callers. -/
theorem State.resetQueue_keepsCallers (s : State) (v q : Nat) (x : BitVec 32) : KeepsCallers s (s.resetQueue v q x) :=
  KeepsCallers.trans (.of_slots rfl (fun _ => rfl) rfl) (.updVf _ v rfl)
/-- The queue after an index reset, and the others. -/
theorem State.queue_resetQueue (s : State) (v q p : Nat) (x : BitVec 32) : ((s.resetQueue v q x).vf v).queue p =
    if p = q then
      { (s.vf v).queue q with
        widx := x, kick := x, consumed := (s.partDies (s.partOfVf v)).foldl (fun m d => SMap.put 0 m d x) [], state := .running, dies := []
        waits := [], stopAt := none, open_ := [], resets := ((s.vf v).queue q).resets + 1 }
    else (s.vf v).queue p := by
  refine (congrArg (Vf.queue · p) (State.vf_updVf_self _ v _)).trans ?_
  exact Vf.queue_updQueue _ _ _ _
/-- The tasks that an index reset drops: those of records of the queue that wait at the gate. -/
theorem State.awaits_resetQueue (s : State) (v q : Nat) (x : BitVec 32) : (s.resetQueue v q x).awaits =
    s.awaits.filter fun a => !(a.vf == v && a.queue == q && s.recordGated a) := by
  refine List.filter_congr fun a ha => ?_
  congr 1
  rw [Bool.eq_iff_iff, List.contains_iff_mem, List.mem_filter]
  exact and_iff_right ha

/-- While no die is busy with the record it reads, queue control performs its request (R305). -/
theorem State.queueControl_idle {s : State} {r : Request} {rest : List Request} (h : s.Asks 0x05 r rest)
    (hidle : ∀ d ∈ s.partDies (s.partOfVf r.vf), s.dieBusy r.vf (r.a 1).toNat d = false) :
    exec .queueControl s = s.service 0x05 true true fun s r =>
      if 16 ≤ (r.a 1).toNat ∨ 2 ^ 32 ≤ (r.a 2).toNat then s.refusal 2
      else if (s.vf r.vf).tdi = .error then s.refusal 4
      else ⟨s.resetQueue r.vf (r.a 1).toNat ((r.a 2).truncate 32), 0, []⟩ := by
  obtain ⟨hrequests, -⟩ := h
  refine if_neg ?_
  rw [hrequests, List.head?_cons, Option.any_some, Bool.and_eq_true, List.any_eq_true]
  rintro ⟨-, d, hd, hbusy⟩
  exact Bool.false_ne_true ((hidle d hd).symm.trans hbusy)

/-- Settles O48: each service is the head request's answer, `State.Asks.served`; the state that it makes is given by the laws of the timer, of
protection writes, of cleared words and of the index reset. -/
theorem supervisorServicesAnswer : Obligations.SupervisorServicesAnswer := by
  unfold Obligations.SupervisorServicesAnswer
  rintro s s' r rest v rfl rfl
  have hself : KeepsCallers s { s with requests := rest } := .of_slots rfl (fun _ => rfl) rfl
  refine ⟨fun h hslot => ?timer, fun h hslot => ?information, fun base n region top h hbase hn hregion halign hfits hattr hfree htop => ?protection,
    fun wd e ma k c m h hslot hwd ha hlen hwf hlost hlocate hkey => ?clearing,
    fun q x h hq hq16 hx hxval => ⟨fun hbusy => ?busy, fun hidle herror => ?refused, fun hidle herror => ?queue⟩,
    fun h hindex => ?erratum, fun w c h hw hc hw256 hown hfree htenant hfenced => ?routing, fun n h hn => ?unknown⟩
  case timer =>
    obtain ⟨-, -, -, hcaller⟩ := id h
    obtain ⟨k, hk⟩ := Option.isSome_iff_exists.1 hslot
    obtain ⟨hrunning, -⟩ := hcaller k hk
    obtain ⟨hdeadline, hbit, hvfs, hbyte, hkeeps⟩ := State.setDeadline_effect (s := { s with requests := rest }) hrunning rfl
    exact h.served (show exec .timer s = execTimer s from rfl) (fun _ => rfl) (fun hnone => by simp [hnone] at hslot) rfl hkeeps
      ⟨hdeadline, fun _ => hbit, hvfs, hbyte⟩
  case information =>
    exact h.served (show exec .vfInformation s = execVfInformation s from rfl) (fun _ => rfl) (fun hnone => by simp [hnone] at hslot) rfl hself rfl
  case protection =>
    subst hbase hn hregion
    have hlocked : ({ s with requests := rest } : State).pfLocked r r.vf = false := by
      unfold State.pfLocked
      cases hslot : r.slot with
      | none => exact hfree hslot
      | some k => rfl
    have honly := State.protWrite_only { s with requests := rest } r.vf ((r.a 1).toNat / 2 ^ 26) ((r.a 3).truncate 8 &&& 0x1F) (r.a 2).toNat
    refine h.served (show exec .protection s = execProtection s from rfl) (fun _ => rfl) (fun _ => rfl)
      ((if_neg (by omega)).trans ((if_neg (by simp [hlocked])).trans rfl)) (honly.keepsCallers _) ⟨fun c e he => ?_, fun hone hleaf b => ?_⟩
    · have hout := State.plb_filtered he
      simpa using hout
    · rw [hone]
      exact State.byte_protWrite_one (s := { s with requests := rest }) htop hleaf _ b
  case clearing =>
    have hlen4 : (r.a 2).toNat = 4 := by rw [hlen]; rfl
    have hkeyed : wordKey r.vf wd / 2 ^ 56 = r.vf ∧ wordKey r.vf wd % 2 ^ 56 = wd := by unfold wordKey; omega
    obtain ⟨hvf, hword⟩ := hkeyed
    have hget : SMap.get .unregistered s.home (wordKey r.vf wd) = .ownerLost c m := hlost
    have hplace : ({ s with requests := rest } : State).locate r.vf 0 (4 * wd) = some (e, ma, k) := hlocate
    refine h.served (show exec .ownerLostClearing s = execOwnerLostClearing s from rfl) (fun _ => rfl) (fun hnone => by simp [hnone] at hslot)
      ((if_neg (by omega)).trans ?_) (State.cleared_keepsCallers { s with requests := rest } r.vf wd ma k.kidx)
      ⟨?_, fun w j hne hj => ?_, State.byte_cleared (s := { s with requests := rest }) hkey⟩
    · dsimp only
      rw [ha, hlen4, SMap.filter_eq_singleton (k := wordKey r.vf wd) hwf ?key ?listed ?selected, List.foldl_cons, List.foldl_nil]
      case listed => simp [hget]
      case selected => simp only [hget, hvf, hword]; simp; omega
      case key =>
        intro x hx
        simp only [Bool.and_eq_true, beq_iff_eq, decide_eq_true_eq] at hx
        obtain ⟨⟨⟨hxvf, hlo⟩, hhi⟩, -⟩ := hx
        unfold wordKey
        omega
      dsimp only
      rw [hword, hplace]
      rfl
    · rw [State.homeState_cleared _ (by omega) (by omega), if_pos ⟨rfl, rfl⟩]
    · rw [State.homeState_cleared _ (by omega) hj, if_neg (by omega)]
      rfl
  case busy =>
    obtain ⟨d, hd, hbusy⟩ := hbusy
    obtain ⟨hrequests, hnumber, -⟩ := h
    subst hq
    have hfive : (r.number == 0x05) = true := beq_iff_eq.2 (BitVec.eq_of_toNat_eq hnumber)
    refine if_pos ?_
    rw [hrequests]
    simp only [List.head?_cons, Option.any_some, hfive, Bool.true_and]
    exact List.any_eq_true.2 ⟨d, hd, hbusy⟩
  case refused =>
    subst hq
    refine h.served (State.queueControl_idle h hidle) (fun _ => rfl) (fun _ => rfl) ((if_neg (by omega)).trans ((if_pos ?_).trans rfl)) hself rfl
    exact herror
  case queue =>
    subst hq hxval
    have hqueue := fun p => State.queue_resetQueue { s with requests := rest } r.vf (r.a 1).toNat p ((r.a 2).truncate 32)
    have hq := (hqueue (r.a 1).toNat).trans (if_pos rfl)
    refine h.served (State.queueControl_idle h hidle) (fun _ => rfl) (fun _ => rfl) ((if_neg (by omega)).trans ((if_neg ?_).trans rfl))
      (State.resetQueue_keepsCallers { s with requests := rest } r.vf (r.a 1).toNat ((r.a 2).truncate 32))
      ⟨?_, ?_, ?_, ?_, ?_, fun d hd => ?_, fun p hp => ?_, ?_, fun b => rfl⟩
    · exact herror
    iterate 5 rw [hq]
    · rw [HostQueue.at_, hq]
      exact (SMap.get_foldl_put _ _ _ _ _).trans (if_pos hd)
    · exact (hqueue p).trans (if_neg hp)
    · exact State.awaits_resetQueue { s with requests := rest } _ _ _
  case erratum =>
    refine h.served (show exec .erratumEntry s = execErratumEntry s from rfl) (fun _ => rfl) (fun _ => rfl) ?_ hself rfl
    exact if_neg (by omega)
  case routing =>
    subst hw hc
    have hlocked : ({ s with requests := rest } : State).pfLocked r (r.a 1).toNat = false := by
      unfold State.pfLocked
      cases hslot : r.slot with
      | none => exact hfree hslot
      | some k => rfl
    have hcaller : (r.slot.isSome && (r.a 1).toNat != r.vf) = false := by
      cases hslot : r.slot.isSome with
      | false => rfl
      | true => simp [hown hslot]
    refine h.served (show exec .interruptRouting s = execInterruptRouting s from rfl) (fun _ => rfl) (fun _ => rfl)
      ((if_neg (by omega)).trans ((if_neg (by simp [hlocked, hcaller])).trans ((if_neg ?_).trans rfl)))
      (.updVf _ _ rfl) (State.updVf_onlyVf _ _ _)
    have hmay : ({ s with requests := rest } : State).tenantCore (({ s with requests := rest } : State).partOfVf (r.a 1).toNat) (r.a 2).toNat = true ∧
        ({ s with requests := rest } : State).isFenced (r.a 2).toNat = false := ⟨htenant, hfenced⟩
    simp [hmay]
  case unknown =>
    obtain ⟨hrequests, hnumber, hlongs, -⟩ := id h
    have hnone : ({ s with requests := rest } : State).inProgress r = none := State.inProgress_none hlongs
    refine ⟨_, _, ?_, rfl, h.answered hself 5 []⟩
    have hexec : exec .unknownService s = execUnknownService s := rfl
    rw [hexec, execUnknownService, hrequests]
    dsimp only
    rw [if_pos (hnumber ▸ hn), hnone]
    rfl

end Sys2Proof.Machine

/-! PROOFS. Slices and switches (R83, R324 to R331, R355): notices, bobbins, the timer, log windows, and the world switch. -/

namespace Sys2Proof.Machine

/-! Changes made at each of a list of places. -/

/-- What a change made at each place of a list leaves at a place: it is made there if the place is listed. -/
theorem foldl_pointwise {β : Type} {g : State → Nat → State} {q : State → Nat → β} {f : Nat → β → β}
    (hg : ∀ t c d, q (g t c) d = if d = c then f d (q t d) else q t d) (hf : ∀ d x, f d (f d x) = f d x) (l : List Nat) (s : State) (d : Nat) :
    q (l.foldl g s) d = if d ∈ l then f d (q s d) else q s d := by
  induction l generalizing s with
  | nil => simp
  | cons c l ih =>
    rw [List.foldl_cons, ih, hg]
    by_cases hl : d ∈ l <;> by_cases hc : d = c <;> simp [hl, hc, hf]

/-- The cores of a partition (R321). -/
theorem State.mem_partCores {s : State} {p c : Nat} : c ∈ s.partCores p ↔ s.inPart p c = true := by
  simp only [State.partCores, State.inPart, coreExists, List.mem_flatMap, List.mem_filterMap, List.mem_range, Option.ite_none_right_eq_some,
    Option.some.injEq, Bool.and_eq_true, decide_eq_true_eq]
  constructor
  · rintro ⟨cl, hcl, k, hk, hsection, rfl⟩
    exact ⟨⟨by omega, by omega⟩, hsection⟩
  · rintro ⟨⟨hc, hk⟩, hsection⟩
    have hplace : c / 256 * 256 + c % 256 = c := Nat.div_add_mod' c 256
    exact ⟨c / 256, by omega, c % 256, hk, by rw [hplace]; exact hsection, hplace⟩
/-- Those of them that hold contexts of its VFs. -/
theorem State.mem_tenantCores {s : State} {p c : Nat} :
    c ∈ (s.partCores p).filter (fun c => !(s.inColumn c)) ↔ s.tenantCore p c = true := by
  rw [List.mem_filter, State.mem_partCores, State.tenantCore, Bool.and_eq_true]

/-- A core after a change of one. -/
theorem State.core_updCore (s : State) (c d : Nat) (f : Core → Core) : (s.updCore c f).core d = if d = c then f (s.core d) else s.core d := by
  rw [State.updCore, State.setCore, State.core, SMap.get_put]
  split
  · subst d; rfl
  · rfl

/-! Notices (R83, R325). -/

/-- The notice is pending on the cores of the partition that are not of the firmware column, and no other core changes. -/
theorem State.core_raiseNotice (s : State) (p det c : Nat) : (s.raiseNotice p det).core c =
    if c ∈ (s.partCores p).filter (fun c => !(s.inColumn c)) then
      { s.core c with ctx := { (s.core c).ctx with sip := (s.core c).ctx.sip ||| 0x10000, notice := det } }
    else s.core c := by
  refine foldl_pointwise (q := State.core)
    (f := fun _ x => { x with ctx := { x.ctx with sip := x.ctx.sip ||| 0x10000, notice := det } }) (fun t c d => ?_) (fun d x => ?_) _ _ _
  · rw [State.core_updCtx_wakeWfi, State.core_updCtx]
  · simp only [BitVec.or_assoc, BitVec.or_self]
/-- A notice changes slots and cores only. -/
theorem State.raiseNotice_only (s : State) (p det : Nat) :
    s.raiseNotice p det = { s with slots := (s.raiseNotice p det).slots, cores := (s.raiseNotice p det).cores } :=
  List.foldlRecOn (motive := fun t : State => t = { s with slots := t.slots, cores := t.cores }) _ _ rfl fun t ht c _ => by
    rw [State.updCtx_wakeWfi_only, ht]
/-- So the cores of its partition have it pending, with its detail. -/
theorem State.raiseNotice_noticed (s : State) (p det : Nat) : Noticed s p det (s.raiseNotice p det) := by
  intro c hc hcolumn
  rw [State.core_raiseNotice, if_pos (List.mem_filter.2 ⟨hc, by simp [hcolumn]⟩)]
  exact ⟨by simp [bitOf], rfl⟩

/-! The log (R355, R356). -/

/-- A record for which there is room, behind no gap, is pushed. -/
theorem Vf.emitLog_pushes {f : Vf} (hroom : f.logRing.length < 1024) (hgap : f.logDropped = 0) (time a b : Word) :
    f.emitLog time a b = f.pushLog time a b := by
  rw [Vf.emitLog, if_neg (Nat.not_le.2 hroom), if_pos hgap]
/-- The end of a window in which one range is watched and nothing is pending: one seal record, and the range counts anew. -/
theorem Vf.sealLog_single {f : Vf} {i : Nat} {g : LogRange} (hranges : f.logRanges = [(i, g)]) (hgap : f.logDropped = 0) (hpend : f.logPend = [])
    (hroom : f.logRing.length < 1024) (time : Word) (now : Nat) :
    (∃ r, (f.sealLog time now).logRing = f.logRing ++ [r]) ∧ (f.sealLog time now).logSeq = f.logSeq + 1 ∧
      (f.sealLog time now).logRanges = [(i, { g with counts := [], touched := [] })] ∧ (f.sealLog time now).logStart = now := by
  have hflush : f.flushLog = f := by rw [Vf.flushLog, hpend]; rfl
  have hpushed := Vf.pushLog_logRanges f
  unfold Vf.sealLog
  dsimp only
  rw [hflush, hranges, List.foldl_cons, List.foldl_nil, Vf.emitLog_pushes hroom hgap, hpushed, hranges]
  exact ⟨⟨_, rfl⟩, rfl, rfl, rfl⟩

/-! Canonical maps. -/

/-- A listed entry reads back. -/
theorem SMap.get_of_mem {α : Type} [DecidableEq α] {d : α} {m : SMap α} {lo : Nat} (w : SMap.wfFrom d lo m = true) {e : Nat × α} (he : e ∈ m) :
    SMap.get d m e.1 = e.2 := by
  induction m generalizing lo with
  | nil => exact absurd he List.not_mem_nil
  | cons x m ih =>
    obtain ⟨k, v⟩ := x
    simp only [SMap.wfFrom, Bool.and_eq_true] at w
    obtain ⟨-, w⟩ := w
    obtain rfl | he := List.mem_cons.1 he
    · exact if_pos rfl
    · have habove := SMap.le_of_wfFrom w e he
      rw [SMap.get, if_neg (by omega), ih w he]
/-- A value written back where it stands changes nothing. -/
theorem SMap.put_get_of_mem {α : Type} [DecidableEq α] {d : α} {m : SMap α} {lo : Nat} (w : SMap.wfFrom d lo m = true) {e : Nat × α} (he : e ∈ m) :
    SMap.put d m e.1 e.2 = m := by
  induction m generalizing lo with
  | nil => exact absurd he List.not_mem_nil
  | cons x m ih =>
    obtain ⟨k, v⟩ := x
    simp only [SMap.wfFrom, Bool.and_eq_true, decide_eq_true_eq] at w
    obtain ⟨⟨-, hv⟩, w⟩ := w
    obtain rfl | he := List.mem_cons.1 he
    · simp [SMap.put, hv, SMap.insert]
    · have habove := SMap.le_of_wfFrom w e he
      have htail := ih w he
      unfold SMap.put at htail ⊢
      split at htail
      · rw [if_pos ‹_›, SMap.erase, if_neg (by omega), htail]
      · rw [if_neg ‹_›, SMap.insert, if_neg (by omega), if_neg (by omega), htail]
/-- A map cut down to the keys that pass a test. -/
theorem SMap.get_filter {α : Type} {d : α} (p : Nat → Bool) (m : SMap α) (k : Nat) :
    SMap.get d (m.filter fun e => p e.1) k = if p k = true then SMap.get d m k else d := by
  induction m with
  | nil => simp [SMap.get]
  | cons e m ih =>
    obtain ⟨j, v⟩ := e
    by_cases hj : j = k
    · subst hj
      cases hp : p j <;> simp [hp, SMap.get, ih]
    · cases hp : p j <;> simp [hp, SMap.get, ih, hj]
/-- A function listed at some keys. -/
theorem SMap.get_listed {α : Type} {d : α} (f : Nat → α) (l : List Nat) (k : Nat) :
    SMap.get d (l.map fun c => (c, f c)) k = if k ∈ l then f k else d := by
  induction l with
  | nil => simp [SMap.get]
  | cons c l ih =>
    simp only [List.map_cons, SMap.get, ih, List.mem_cons]
    by_cases hc : c = k
    · subst hc; simp
    · simp [hc, Ne.symm hc]
/-- Entries put into a map at distinct keys read back, through a function of theirs. -/
theorem SMap.get_foldl_entries {α β : Type} [DecidableEq α] [DecidableEq β] {d : β} {d' : α} {m : SMap α} {lo : Nat} (w : SMap.wfFrom d' lo m = true)
    (g : α → β) (base : SMap β) :
    (∀ e ∈ m, SMap.get d (m.foldl (fun l e => SMap.put d l e.1 (g e.2)) base) e.1 = g e.2) ∧
      ∀ k < lo, SMap.get d (m.foldl (fun l e => SMap.put d l e.1 (g e.2)) base) k = SMap.get d base k := by
  induction m generalizing lo base with
  | nil => exact ⟨fun _ h => absurd h List.not_mem_nil, fun _ _ => rfl⟩
  | cons x m ih =>
    obtain ⟨k, v⟩ := x
    simp only [SMap.wfFrom, Bool.and_eq_true, decide_eq_true_eq] at w
    obtain ⟨⟨hlo, -⟩, w⟩ := w
    obtain ⟨hlisted, hbelow⟩ := ih w (SMap.put d base k (g v))
    refine ⟨fun e he => ?_, fun j hj => ?_⟩
    · obtain rfl | he := List.mem_cons.1 he
      · exact (hbelow k (Nat.lt_succ_self k)).trans (SMap.get_put_self _ _ _ _)
      · exact hlisted e he
    · exact (hbelow j (by omega)).trans (SMap.get_put_of_ne _ _ _ (by omega))

/-! The world switch (R329): the way out, where nothing is on its way. -/

/-- A core with no buffered store has none to drain. -/
theorem State.registerAll_none {s : State} {c : Nat} (h : (s.core c).sbuf = []) : s.registerAll c = s := by
  have hwhere : s.registerWhere c (fun _ => true) = s := State.registerWhere_none fun e he => by simp [h] at he
  rw [State.registerAll, hwhere, h]
  rfl
/-- A Ready shuttle that stands outside a pair, with no vector work and no step made for it, is parked as it is. -/
theorem State.parkSlot_ready {s : State} {k : Nat} (hwf : SMap.wf {} s.slots = true) {m : Slot} (hm : (k, m) ∈ s.slots) (hlife : m.life = .ready)
    (hvq : m.vq = []) (hvrun : m.vrun = none) (hdone : m.doneValue = none) : s.parkSlot k = s := by
  have hslot : s.slot k = m := SMap.get_of_mem hwf hm
  have hput : s.setSlot k m = s := by
    have hsame := SMap.put_get_of_mem hwf hm
    rw [State.setSlot, hsame]
  have hsettled : m.settled = m := by rw [Slot.settled, hdone]
  unfold State.parkSlot
  rw [State.squash_idle (by rw [hslot]; exact hvq) (by rw [hslot]; exact hvrun)]
  simp only [hslot, hlife]
  rw [State.updSlot, hslot, hsettled, hput]

/-- A partition just changed. -/
theorem State.part_updPart (s : State) (p q : Nat) (f : Partition → Partition) :
    (s.updPart p f).part q = if q = p then f (s.part p) else s.part q := SMap.get_put _ _ _ _ _

/-! Canonical maps, and the way out. -/

/-- A key reads the default value or an entry that lists it. -/
theorem SMap.get_default_or_mem {α : Type} (d : α) (m : SMap α) (k : Nat) : SMap.get d m k = d ∨ (k, SMap.get d m k) ∈ m := by
  induction m with
  | nil => exact .inl rfl
  | cons e m ih =>
    obtain ⟨j, v⟩ := e
    rw [SMap.get]
    split
    · subst j; exact .inr List.mem_cons_self
    · exact ih.imp_right (List.mem_cons_of_mem _)
/-- A map changed entry by entry, key by key. -/
theorem SMap.get_map_keyed {α : Type} {d : α} (g : Nat → α → α) (hd : ∀ k, g k d = d) (m : SMap α) (k : Nat) :
    SMap.get d (m.map fun e => (e.1, g e.1 e.2)) k = g k (SMap.get d m k) := by
  induction m with
  | nil => exact (hd k).symm
  | cons e m ih =>
    obtain ⟨j, v⟩ := e
    simp only [List.map_cons, SMap.get, ih]
    split
    · subst j; rfl
    · rfl

/-- A partition whose running VF `v` can leave at once: nothing of it is on its way, its shuttles are Ready on the partition's own cores with
no work begun, and no core has a store to drain or is lost. -/
structure State.Quiet (s : State) (p : Nat) : Prop where
  frames : s.frames = []
  pushes : s.pushes = []
  queued : s.queued = []
  offers : s.offers = []
  slots : SMap.wf {} s.slots = true
  cores : SMap.wf {} s.cores = true
  idle : ∀ y ∈ s.cores, y.2.sbuf = [] ∧ y.2.lost = false
  ready : ∀ y ∈ s.slots, s.tenantCore p (y.1 / 16) = true ∧ y.2.life = .ready ∧ y.2.vq = [] ∧ y.2.vrun = none ∧ y.2.held = [] ∧ y.2.half = false ∧
    y.2.doneValue = none

/-- A core of the package as a halt of its partition leaves it. -/
def State.haltCore (s : State) (p c : Nat) (k : Core) : Core :=
  if s.tenantCore p c then
    { k with l1 := [], l1bad := [], l1apart := [], icache := [], iseen := [], sbuf := [], chunk := none, ptr := 0, vptr := 0
             turn := none, vstart := none, stale := none }
  else if s.inPart p c then { k with l1 := [], l1bad := [], l1apart := [], icache := [], iseen := [] }
  else k
/-- A halt keeps the context of the core, its B-SRAM, and whether it is lost. -/
theorem State.haltCore_keeps (s : State) (p c : Nat) (k : Core) :
    (s.haltCore p c k).ctx = k.ctx ∧ (s.haltCore p c k).bsram = k.bsram ∧ (s.haltCore p c k).lost = k.lost := by
  unfold State.haltCore
  split
  · exact ⟨rfl, rfl, rfl⟩
  · split <;> exact ⟨rfl, rfl, rfl⟩
/-- A core of which nothing is kept has nothing to lose by a halt. -/
theorem State.haltCore_default (s : State) (p c : Nat) : s.haltCore p c {} = {} := by
  unfold State.haltCore
  split
  · rfl
  · split <;> rfl

/-- What a halt changes in a quiet partition: the home states, the watches and what its cores have cached; no word of the VF stays registered. -/
theorem State.haltVf_quiet {s : State} {p : Nat} (q : s.Quiet p) (v : Nat) :
    s.haltVf v p = { s with home := (s.haltVf v p).home, watches := (s.haltVf v p).watches, cores := s.cores.map fun e => (e.1, s.haltCore p e.1 e.2) } ∧
      ∀ e ∈ (s.haltVf v p).home, e.1 / 2 ^ 56 = v → e.2.owner = none := by
  have hoffers : s.settleOffers v = s := by rw [State.settleOffers, q.offers]; rfl
  have hparked : ((s.slots.map (·.1)).filter fun k => s.tenantSlot p k).foldl State.parkSlot s = s :=
    List.foldlRecOn (motive := fun t => t = s) _ _ rfl fun t ht k hk => by
      obtain ⟨e, he, rfl⟩ := List.mem_map.1 (List.mem_filter.1 hk).1
      obtain ⟨-, hlife, hvq, hvrun, -, -, hdone⟩ := q.ready e he
      rw [ht, State.parkSlot_ready q.slots he hlife hvq hvrun hdone]
  have hframes : ∀ n, s.settleFrames v n = s := fun n => by
    cases n with
    | zero => rfl
    | succ n => rw [State.settleFrames, q.frames]; rfl
  have hpushes : s.settlePushes v = s := by rw [State.settlePushes, q.pushes]; rfl
  have hreserved : s.slots.filter (fun e => !(s.tenantCore p (e.1 / 16) && e.2.life == Life.reserved)) = s.slots := by
    refine List.filter_eq_self.2 fun e he => ?_
    obtain ⟨-, hlife, -⟩ := q.ready e he
    simp [hlife]
  have hdrained : ((s.cores.map (·.1)).filter (s.tenantCore p)).foldl State.registerAll s = s :=
    List.foldlRecOn (motive := fun t => t = s) _ _ rfl fun t ht c hc => by
      obtain ⟨e, he, rfl⟩ := List.mem_map.1 (List.mem_filter.1 hc).1
      have hcore : s.core e.1 = e.2 := SMap.get_of_mem q.cores he
      rw [ht, State.registerAll_none (by rw [hcore]; exact (q.idle e he).1)]
  have hcolumn : ((s.slots.map (·.1)).filter fun k => s.tenantSlot p k).filter (fun k => s.inColumn (k / 16)) = [] := by
    refine List.filter_eq_nil_iff.2 fun k hk => ?_
    obtain ⟨e, he, rfl⟩ := List.mem_map.1 (List.mem_filter.1 hk).1
    have htenant := (q.ready e he).1
    simp only [State.tenantCore, Bool.and_eq_true, Bool.not_eq_true'] at htenant
    simp [htenant.2]
  unfold State.haltVf
  simp only [hoffers, hparked, hframes, hpushes, hreserved, hdrained, hcolumn, List.foldl_nil]
  refine ⟨?_, fun e he hv => ?_⟩
  · congr 1
    refine List.map_congr_left fun e _ => ?_
    unfold State.haltCore
    split
    · rfl
    · split <;> rfl
  · obtain ⟨-, hkept⟩ := List.mem_filter.1 he
    obtain ⟨k, h⟩ := e
    cases h <;> simp_all [HomeState.owner]

/-- What a switch leaves of the VF `v` that ran on a quiet partition: its context is saved, its slots are empty, and memory is as it was. -/
structure State.SwitchedOut (s : State) (p v : Nat) (t : State) : Prop where
  mem : t.mem = s.mem ∧ t.pads = s.pads
  column : t.column = s.column
  part : t.part p = { s.part p with running := none }
  slots : t.slots = []
  found : ∀ e ∈ t.cores, e.2.lost = false
  vf : ∀ w, w ≠ v → t.vf w = s.vf w
  ended : (t.vf v).lastRunEnd = s.cycle.toNat
  savedSlots : (t.vf v).saved.slots = s.slots.map fun e => (e.1, e.2.halted)
  savedCores : ∀ c, s.tenantCore p c = true → SMap.get {} (t.vf v).saved.cores c = (s.core c).ctx
  savedSections : (t.vf v).saved.sections = s.sections.filter fun e => (s.part p).hasSection e.1
  savedBsram : ∀ y ∈ s.cores, s.tenantCore p y.1 = true → ∀ r ∈ y.2.bsram, (y.1 * 32768 + r.1, r.2) ∈ (t.vf v).saved.bsram
  home : ∀ e ∈ t.home, e.1 / 2 ^ 56 = v → e.2.owner = none

/-- The context of a VF that leaves its cores (R326). -/
theorem State.vf_saveVf (u : State) (v p : Nat) : ∃ sv, (u.saveVf v p).vf v = { u.vf v with saved := sv, lastRunEnd := u.cycle.toNat } ∧
    sv.slots = (u.slots.filter fun e => u.tenantSlot p e.1).map (fun e => (e.1, e.2.halted)) ∧
    sv.cores = ((u.cores.map (·.1)).filter (u.tenantCore p)).map (fun c => (c, (u.core c).ctx)) ∧
    sv.sections = (u.sections.filter fun e => (u.part p).hasSection e.1) ∧
    sv.bsram = ((u.cores.map (·.1)).filter (u.tenantCore p)).flatMap fun c => (u.core c).bsram.map fun e => (c * 32768 + e.1, e.2) :=
  ⟨_, SMap.get_put_self _ _ _ _, rfl, rfl, rfl, rfl⟩

/-- The way out of a quiet partition is the halt, the recorded working set and the save, in that order. -/
theorem State.switchOut_quiet {s : State} {p v : Nat} (q : s.Quiet p) (hrunning : (s.part p).running = some v) :
    s.SwitchedOut p v (s.switchOut p) := by
  obtain ⟨hhalt, hhome⟩ := State.haltVf_quiet q v
  have hswitch : s.switchOut p = ((s.haltVf v p).formWorkingSet v).saveVf v p := by rw [State.switchOut, hrunning]
  generalize hu : (s.haltVf v p).formWorkingSet v = u at hswitch
  have hform : u = { s with home := u.home, watches := u.watches, vfs := u.vfs, cores := s.cores.map fun e => (e.1, s.haltCore p e.1 e.2) } := by
    rw [← hu, State.formWorkingSet, hhalt]; rfl
  have hslots : u.slots = s.slots := by rw [hform]
  have hcores : u.cores = s.cores.map fun e => (e.1, s.haltCore p e.1 e.2) := by rw [hform]
  have htenantCore : ∀ c, u.tenantCore p c = s.tenantCore p c := fun c => by rw [hform]; rfl
  have htenantSlot : ∀ e ∈ u.slots, u.tenantSlot p e.1 = true := fun e he => by
    rw [hslots] at he
    rw [State.tenantSlot, htenantCore, (q.ready e he).1, Bool.true_or]
  have hcore : ∀ c, u.core c = s.haltCore p c (s.core c) := fun c => by
    rw [State.core, hcores]; exact SMap.get_map_keyed (s.haltCore p) (s.haltCore_default p) s.cores c
  obtain ⟨sv, hself, hsavedSlots, hsavedCores, hsavedSections, hsavedBsram⟩ := u.vf_saveVf v p
  have hlisted : ∀ c, c ∈ (u.cores.map (·.1)).filter (u.tenantCore p) ↔ (∃ y ∈ s.cores, y.1 = c) ∧ s.tenantCore p c = true := fun c => by
    rw [List.mem_filter, htenantCore, hcores, List.map_map, List.mem_map]; rfl
  rw [hswitch]
  refine ⟨⟨?_, ?_⟩, ?_, ?_, ?_, fun e he => ?_, fun w hw => ?_, ?_, ?_, fun c hc => ?_, ?_, fun y hy hc r hr => ?_, ?_⟩
  · rw [hform]; rfl
  · rw [hform]; rfl
  · rw [hform]; rfl
  · refine (State.part_updPart _ p p _).trans ((if_pos rfl).trans ?_)
    rw [hform]; rfl
  · refine List.filter_eq_nil_iff.2 fun e he => ?_
    simp [htenantSlot e he]
  · obtain ⟨y, hy, rfl⟩ := List.mem_map.1 he
    rw [hcores] at hy
    obtain ⟨z, hz, rfl⟩ := List.mem_map.1 hy
    have hlost : (s.haltCore p z.1 z.2).lost = false := (s.haltCore_keeps p z.1 z.2).2.2.trans (q.idle z hz).2
    dsimp only
    split <;> exact hlost
  · refine (SMap.get_put_of_ne _ _ _ hw).trans ?_
    rw [← hu]
    refine (SMap.get_put_of_ne _ _ _ hw).trans ?_
    rw [hhalt]; rfl
  · rw [hself, hform]
  · rw [hself, hsavedSlots, List.filter_eq_self.2 htenantSlot, hslots]
  · rw [hself, hsavedCores, SMap.get_listed (fun c => (u.core c).ctx), hcore, (s.haltCore_keeps p c _).1]
    refine ite_eq_left_iff.2 fun hnot => ?_
    have hunlisted : s.core c = {} := SMap.get_unlisted fun e he hkey => hnot ((hlisted c).2 ⟨⟨e, he, hkey⟩, hc⟩)
    rw [hunlisted]
  · rw [hself, hsavedSections, hform]; rfl
  · have hyc : s.core y.1 = y.2 := SMap.get_of_mem q.cores hy
    rw [hself, hsavedBsram]
    refine List.mem_flatMap.2 ⟨y.1, (hlisted _).2 ⟨⟨y, hy, rfl⟩, hc⟩, List.mem_map.2 ⟨r, ?_, rfl⟩⟩
    rwa [hcore, (s.haltCore_keeps p _ _).2.1, hyc]
  · have hleft : u.home = (s.haltVf v p).home := by rw [← hu]; rfl
    exact fun e he => hhome e (hleft ▸ he)

/-! The world switch: the new configuration of the partition. -/

/-- Nothing but parts, dies and selvedge registers changes. -/
def State.ConfigOnly (s t : State) : Prop := t = { s with parts := t.parts, dies := t.dies, selvedge := t.selvedge }
/-- Such changes compose. -/
theorem State.ConfigOnly.trans {s t u : State} (h : s.ConfigOnly t) (g : t.ConfigOnly u) : s.ConfigOnly u := by
  unfold State.ConfigOnly at *
  rw [g, h]
/-- A change of a partition is one. -/
theorem State.updPart_configOnly (s : State) (p : Nat) (f : Partition → Partition) : s.ConfigOnly (s.updPart p f) := rfl
/-- The selvedge registers of a partition are written alone. -/
theorem State.writeSelvedge_configOnly (s : State) (p : Nat) : s.ConfigOnly (s.writeSelvedge p) :=
  List.foldlRecOn (motive := s.ConfigOnly) _ _ rfl fun t ht sec _ =>
    ht.trans (u := { t with selvedge := SMap.put 0 t.selvedge sec (s.selvedgeWord p sec) }) rfl
/-- So no partition changes with them. -/
theorem State.part_writeSelvedge (s : State) (p q : Nat) : (s.writeSelvedge p).part q = s.part q :=
  List.foldlRecOn (motive := fun t : State => t.part q = s.part q) _ _ rfl fun _ ht _ _ => ht

/-- The new configuration of a partition: a new generation, with its schedule gone on behind the VF `before`. -/
structure State.Reconfigured (s : State) (p : Nat) (before : Option Nat) (t : State) : Prop where
  kept : s.ConfigOnly t
  vfs : (t.part p).vfs = (s.part p).vfs
  sections : (t.part p).sections = (s.part p).sections
  schedule : (t.part p).schedule = (s.part p).schedule
  gen : (t.part p).gen = (s.part p).gen + 1
  pos : ∀ i e, Partition.next { s.part p with running := before } (s.part p).vfs = some (i, e) → (t.part p).pos = i

/-- So it goes where nothing is staged, no core is lost and the partition stays as shared as it was. -/
theorem State.reconfigure_plain {s : State} {p : Nat} (before : Option Nat) (hstaged : (s.part p).staged = [])
    (hfound : ∀ e ∈ s.cores, e.2.lost = false) (hshared : 1 < (s.part p).vfs.length → (s.part p).shared = true)
    (hnext : (s.part p).scheduleNext = none) : s.Reconfigured p before (s.reconfigure p before) := by
  have hnolost : ∀ t : State, (s.cores.filter fun e => e.2.lost && t.inPart p e.1) = [] := fun t =>
    List.filter_eq_nil_iff.2 fun e he => by simp [hfound e he]
  have hself : ∀ (t : State) (f : Partition → Partition), (t.updPart p f).part p = f (t.part p) := fun t f => SMap.get_put_self _ _ _ _
  unfold State.reconfigure
  extract_lets old x unstaged applied fenced repaired shared shrunk renewed
  have hx : x.staged = [] := hstaged
  have happlied : applied = unstaged := by
    simp only [applied, hx, List.filter_nil, List.foldl_nil]
  have hfenced : fenced = unstaged := by
    have hcores : unstaged.cores = s.cores := rfl
    simp only [fenced, happlied, hcores, hnolost, List.map_nil, List.foldl_nil]
  have hrepaired : repaired = { unstaged with dies := repaired.dies } := by
    simp only [repaired, hfenced]
  clear_value repaired
  have hpart : repaired.part p = { s.part p with staged := (s.part p).staged.filter fun c => !(s.stagedDue p c) } := by
    rw [hrepaired]; exact SMap.get_put_self _ _ _ _
  have hshrunk : shrunk = repaired := by
    refine if_neg ?_
    have hvfs : (repaired.part p).vfs = (s.part p).vfs := by rw [hpart]
    have hwas : x.shared = (s.part p).shared := rfl
    simp only [shared, hvfs, hwas, Bool.and_eq_true, decide_eq_true_eq, Bool.not_eq_true', not_and, Bool.not_eq_false]
    exact hshared
  clear_value shrunk
  subst hshrunk
  obtain ⟨hist, hlaid⟩ : ∃ h, ((renewed.recordLayout p).writeSelvedge p).part p = { renewed.part p with hist := h } :=
    ⟨_, (State.part_writeSelvedge _ p p).trans (hself renewed _)⟩
  refine ⟨?_, ?_, ?_, ?_, ?_, ?_⟩
  · have hdies : unstaged.ConfigOnly shrunk := by
      unfold State.ConfigOnly
      rw [hrepaired]
    exact ((((s.updPart_configOnly p _).trans hdies).trans (shrunk.updPart_configOnly p _)).trans (renewed.updPart_configOnly p _)).trans
      (State.writeSelvedge_configOnly _ p)
  all_goals rw [hlaid]
  · exact (congrArg Partition.vfs (hself shrunk _)).trans (by rw [hpart])
  · exact (congrArg Partition.sections (hself shrunk _)).trans (by rw [hpart])
  · exact (congrArg Partition.schedule (hself shrunk _)).trans (by rw [hpart, hnext]; rfl)
  · exact (congrArg Partition.gen (hself shrunk _)).trans (by rw [hpart])
  · intro i e hi
    refine (congrArg Partition.pos (hself shrunk _)).trans ?_
    have hi' : x.next (shrunk.part p).vfs = some (i, e) := by rw [hpart]; exact hi
    simp only [hi']

/-! The world switch: the way in. -/

/-- The way in of a VF `v` with a saved context `sv`, in which its timer bit may have moved: it runs from now on. -/
structure State.Restored (s : State) (v p : Nat) (sv : SavedCtx) (t : State) : Prop where
  mem : t.mem = s.mem ∧ t.pads = s.pads
  home : t.home = s.home
  slots : ∃ g : Slot → Slot, (∀ m, (g m).parked = true ∧ (g m).sh = m.sh ∧ (g m).vregs = m.vregs) ∧
    t.slots = sv.slots.foldl (fun l e => SMap.put {} l e.1 (g e.2)) s.slots
  cores : ∀ c, s.tenantCore p c = true → (t.core c).ctx = { (SMap.get {} sv.cores c) with vf := v }
  self : (t.vf v).saved = {} ∧ (t.vf v).hasRun = true
  vf : ∀ w, w ≠ v → t.vf w = s.vf w
  part : t.part p = { s.part p with running := some v, sliceStart := s.cycle.toNat, noticed := false }

/-- A restored shuttle is Parked, with its registers. -/
theorem State.restoredSlot_keeps (s : State) (v : Nat) (m : Slot) :
    (s.restoredSlot v m).parked = true ∧ (s.restoredSlot v m).sh = m.sh ∧ (s.restoredSlot v m).vregs = m.vregs := by
  unfold State.restoredSlot
  dsimp only
  split
  · split
    · split <;> exact ⟨rfl, rfl, rfl⟩
    · exact ⟨rfl, rfl, rfl⟩
  · exact ⟨rfl, rfl, rfl⟩

/-- A move of the timer bit leaves everything but the contexts of cores. -/
theorem SavedCtx.moveTimer_only (v : SavedCtx) (a b : Nat) : v.moveTimer a b = { v with cores := (v.moveTimer a b).cores } := by
  unfold SavedCtx.moveTimer
  dsimp only
  split <;> rfl
/-- An empty context stays empty. -/
theorem SavedCtx.moveTimer_empty (a b : Nat) : ({} : SavedCtx).moveTimer a b = {} := by
  unfold SavedCtx.moveTimer
  dsimp only
  split
  · rfl
  · simp [SMap.get, SMap.put, SMap.erase]
/-- The way in of a VF for which no frame is queued. -/
theorem State.restoreVf_restored (s : State) (v p : Nat) (hqueued : (s.vf v).saved.queued = []) :
    ∃ a b, s.Restored v p ((s.vf v).saved.moveTimer a b) (s.restoreVf v p) := by
  obtain ⟨a, b, hsaved⟩ : ∃ a b, ((s.switchInRegs v p).vf v).saved = (s.vf v).saved.moveTimer a b :=
    ⟨_, _, congrArg Vf.saved (State.vf_updVf_self _ _ _)⟩
  have hrun : ((s.switchInRegs v p).vf v).hasRun = true := congrArg Vf.hasRun (State.vf_updVf_self _ _ _)
  have hnone : ((s.vf v).saved.moveTimer a b).queued = [] := by rw [SavedCtx.moveTimer_only]; exact hqueued
  refine ⟨a, b, ?_⟩
  generalize hr : s.restoreVf v p = r
  unfold State.restoreVf at hr
  extract_lets t sv gen idx loaded placed live at hr
  have hsv : sv = (s.vf v).saved.moveTimer a b := hsaved
  rw [hsv, hnone, List.foldl_nil] at hr
  subst hr
  have hplaced : placed = { loaded with cores := placed.cores } := State.foldl_coresOnly (fun t c => rfl) _ _
  have hlive : live = { placed with vfs := live.vfs, parts := live.parts } := rfl
  have hcores : live.cores = placed.cores := rfl
  obtain ⟨queues, hself⟩ : ∃ qs, live.vf v = { placed.vf v with saved := {}, queues := qs } := ⟨_, SMap.get_put_self _ _ _ _⟩
  have hother : ∀ w, w ≠ v → live.vf w = placed.vf w := fun w hw => SMap.get_put_of_ne _ _ _ hw
  have hpart : live.part p = { placed.part p with running := some v, sliceStart := s.cycle.toNat, noticed := false } :=
    SMap.get_put_self _ _ _ _
  have hplacedVf : ∀ w, placed.vf w = t.vf w := fun w => by rw [hplaced]; rfl
  have hplacedPart : placed.part p = s.part p := by rw [hplaced]; rfl
  refine ⟨?_, ?_, ⟨t.restoredSlot v, t.restoredSlot_keeps v, ?_⟩, fun c hc => ?_, ⟨by rw [hself], ?_⟩, fun w hw => ?_, ?_⟩
  · rw [hlive, hplaced]; exact ⟨rfl, rfl⟩
  · rw [hlive, hplaced]; rfl
  · rw [hlive, hplaced, ← hsv]
    rfl
  · have hin : c ∈ (loaded.partCores p).filter fun c => !(loaded.inColumn c) := (State.mem_tenantCores (s := loaded)).2 hc
    rw [State.core, hcores, ← hsv]
    refine (foldl_pointwise (q := fun t c => (t.core c).ctx) (f := fun c _ => { (SMap.get {} sv.cores c) with vf := v })
      (fun t c d => ?_) (fun d x => rfl) ((loaded.partCores p).filter fun c => !(loaded.inColumn c)) loaded c).trans
      (if_pos hin)
    rw [State.core_updCore]
    split
    · subst d; rfl
    · rfl
  · rw [hself, hplacedVf]; exact hrun
  · rw [hother w hw, hplacedVf]; exact SMap.get_put_of_ne _ _ _ hw
  · rw [hpart, hplacedPart]

/-! The world switch: which VF runs next, and the whole. -/

/-- Behind the first of two slices comes the second. -/
theorem Partition.next_second {x : Partition} {e n : Word} {bound : List Nat} (hschedule : x.schedule = [e, n]) (hnew : x.scheduleNext = none)
    (hrunning : x.running ≠ none) (hpos : x.pos = 0) (hbound : schedVf n ∈ bound) : x.next bound = some (1, n) := by
  obtain ⟨v, hv⟩ := Option.ne_none_iff_exists'.1 hrunning
  simp [Partition.next, hschedule, hnew, hv, hpos, List.range_succ, hbound]
/-- The slice that the schedule names is that of its VF. -/
theorem State.nextVf_entry {s : State} {p : Nat} {e : Word} (before : Option Nat) (hentry : (s.part p).entry = some e)
    (hbound : schedVf e ∈ (s.part p).vfs) : s.nextVf p before = some (schedVf e) := by
  have hcontains : (s.part p).vfs.contains (schedVf e) = true := List.contains_iff_mem.2 hbound
  simp only [State.nextVf, hentry, hcontains, if_true]
/-- Without a schedule the first VF bound runs where none has run. -/
theorem State.nextVf_first {s : State} {p : Nat} (hentry : (s.part p).entry = none) : s.nextVf p none = (s.part p).vfs.head? := by
  simp only [State.nextVf, hentry]

/-- A world switch is due on a partition on which no VF runs though one is bound. -/
theorem State.switchDue_idle {s : State} {p : Nat} (hsections : (s.part p).sections ≠ 0) (hevac : (s.part p).evac = none)
    (hrunning : (s.part p).running = none) (hvfs : (s.part p).vfs ≠ []) : s.switchDue p = true := by
  simpa [State.switchDue, hevac, hrunning, hvfs] using hsections
/-- It is due where the slice of one of several VFs has ended. -/
theorem State.switchDue_sliceEnd {s : State} {p : Nat} {e : Word} (hsections : (s.part p).sections ≠ 0) (hevac : (s.part p).evac = none)
    (hentry : (s.part p).entry = some e) (hmany : 1 < (s.part p).vfs.length) (hended : (s.part p).sliceStart + micros (schedLen e) ≤ s.cycle.toNat) :
    s.switchDue p = true := by
  simpa [State.switchDue, hevac, hentry, hmany, hended] using hsections

/-- A world switch that is due: the VF that runs goes out, the partition is configured anew, and the next VF comes in. -/
theorem State.exec_worldSwitch {s : State} {p v : Nat} (hp : p = s.subject.part) (hfatal : s.fatal = false) (hdue : s.switchDue p = true)
    (hgen : (s.part p).gen ≠ 0xFFFF) (hevac : (s.part p).evac = none)
    (hhalts : ∀ e ∈ s.slots, s.tenantSlot p e.1 = true → e.2.life ≠ .exiting ∧ e.2.unhaltable = false)
    (hnext : ((s.switchOut p).reconfigure p (s.part p).running).nextVf p (s.part p).running = some v) :
    exec .worldSwitch s = .next (((s.switchOut p).reconfigure p (s.part p).running).restoreVf v p) := by
  have hgenOk : s.generationOk p = true := by rw [State.generationOk, bne_iff_ne.2 hgen, Bool.true_or]
  have hexits : s.finishExits p = s := by
    have hnone : (s.slots.filter fun e => s.tenantSlot p e.1 && e.2.life == .exiting) = [] := List.filter_eq_nil_iff.2 fun e he hexit => by
      rw [Bool.and_eq_true, beq_iff_eq] at hexit
      exact (hhalts e he hexit.1).1 hexit.2
    rw [State.finishExits, hnone]; rfl
  have hall : (s.slots.any fun e => s.tenantSlot p e.1 && e.2.unhaltable) = false := List.any_eq_false.2 fun e he hstuck => by
    rw [Bool.and_eq_true] at hstuck
    exact absurd hstuck.2 (by rw [(hhalts e he hstuck.1).2]; decide)
  have hexec : exec .worldSwitch s = execWorldSwitch s := rfl
  rw [hexec, execWorldSwitch, ← hp]
  simp only [hfatal, hdue, hgenOk, hexits, hall, hevac, hnext, Bool.not_true, Bool.or_self, Option.isSome_none, Bool.false_eq_true, false_and, if_false]

/-- Which cores hold contexts rests on the sections of the partition and on the firmware column. -/
theorem State.tenantCore_congr {s t : State} {p : Nat} (hsections : (t.part p).sections = (s.part p).sections) (hcolumn : t.column = s.column)
    (c : Nat) : t.tenantCore p c = s.tenantCore p c := by
  simp only [State.tenantCore, State.inPart, State.inColumn, Partition.hasSection, hsections, hcolumn]

/-- The end of the slice of `v` on a quiet partition that it shares with `w`: `v` goes out and `w` comes in, in the three steps of R329. -/
theorem State.worldSwitch_slice {s : State} {p v w : Nat} {e n : Word} (hp : p = s.subject.part) (hfatal : s.fatal = false)
    (hsections : (s.part p).sections ≠ 0) (hrunning : (s.part p).running = some v) (hvfs : (s.part p).vfs = [v, w])
    (hschedule : (s.part p).schedule = [e, n]) (hpos : (s.part p).pos = 0) (hn : schedVf n = w) (hnew : (s.part p).scheduleNext = none)
    (hstaged : (s.part p).staged = []) (hevac : (s.part p).evac = none) (hgen : (s.part p).gen ≠ 0xFFFF) (hshared : (s.part p).shared = true)
    (hended : (s.part p).sliceStart + micros (schedLen e) ≤ s.cycle.toNat) (hw : v ≠ w) (q : s.Quiet p) (hqueued : (s.vf w).saved.queued = []) :
    ∃ t u r a b, exec .worldSwitch s = .next r ∧ s.SwitchedOut p v t ∧ t.Reconfigured p (some v) u ∧ (u.part p).pos = 1 ∧
      u.Restored w p ((s.vf w).saved.moveTimer a b) r := by
  have hout := State.switchOut_quiet q hrunning
  generalize ht : s.switchOut p = t at hout
  have hpart := hout.part
  have hre := State.reconfigure_plain (s := t) (p := p) (some v) (by rw [hpart]; exact hstaged) hout.found (by rw [hpart]; exact fun _ => hshared)
    (by rw [hpart]; exact hnew)
  generalize hu : t.reconfigure p (some v) = u at hre
  have hbound : schedVf n ∈ [v, w] := by simp [hn]
  have hsecond : (u.part p).pos = 1 := hre.pos 1 n (Partition.next_second (by rw [hpart]; exact hschedule) (by rw [hpart]; exact hnew) (by simp)
    (by rw [hpart]; exact hpos) (by rw [hpart]; exact hvfs ▸ hbound))
  have hentry : (u.part p).entry = some n := by
    rw [Partition.entry, hsecond, hre.schedule, hpart]
    exact congrArg (·[1]?) hschedule
  have hnext : u.nextVf p (some v) = some w := hn ▸ State.nextVf_entry _ hentry (by rw [hre.vfs, hpart]; exact hvfs ▸ hbound)
  have hvf : u.vf w = s.vf w := by
    have hkept : u.vfs = t.vfs := by rw [hre.kept]
    rw [← hout.vf w hw.symm, State.vf, hkept]; rfl
  obtain ⟨a, b, hin⟩ := u.restoreVf_restored w p (by rw [hvf]; exact hqueued)
  refine ⟨t, u, _, a, b, ?_, hout, hre, hsecond, hvf ▸ hin⟩
  rw [← hu, ← ht, ← hrunning] at hnext ⊢
  refine State.exec_worldSwitch hp hfatal (State.switchDue_sliceEnd hsections hevac ?_ ?_ hended) hgen hevac (fun y hy _ => ?_) hnext
  · rw [Partition.entry, hpos, hschedule]; rfl
  · rw [hvfs]; exact Nat.one_lt_two
  · obtain ⟨-, hlife, -, -, -, hhalf, hdone⟩ := q.ready y hy
    simp [Slot.unhaltable, hlife, hhalf, hdone]

/-- An entry of a schedule with nothing but a VF. -/
theorem schedVf_bare {w : Nat} (hw : w < 256) : schedVf (BitVec.ofNat 64 (w * 2 ^ 56)) = w := by
  rw [schedVf, bitsOf, BitVec.toNat_ofNat]
  omega
/-- The bytes of memory are its raw bytes and its pads. -/
theorem State.byte_of_mem {s t : State} (h : t.mem = s.mem ∧ t.pads = s.pads) (b : Nat) : t.byte b = s.byte b := by
  simp only [State.byte, State.padAt, h.1, h.2]

/-- Settles O52: notices, bobbins, the gate, the timer and log windows by what their steps change; the world switch by its three steps, out,
new configuration and in (R329). -/
theorem partitionsSwitchOnTime : Obligations.PartitionsSwitchOnTime := by
  unfold Obligations.PartitionsSwitchOnTime
  rintro s p x rfl rfl
  refine ⟨fun v e hrunning hentry hlead hnoticed hmany hdue => ?notice, fun e i n v hentry hnext hv hother hdue => ?bobbin, ?first, ?empty, ?saved,
    fun v hv hrunning hgated hreaches => ?gate, fun v d hv hdeadline hdue hrunning => ?timer,
    fun v i g hv hwindow hdue hranges hgap hpend hroom => ?log⟩
  case notice =>
    have honly := s.raiseNotice_only s.subject.part 0
    have hparts : (s.raiseNotice s.subject.part 0).parts = s.parts := by rw [honly]
    have hmem : ∀ b, (s.raiseNotice s.subject.part 0).byte b = s.byte b := fun b => by rw [honly]; rfl
    have hexec : exec .preEmptionNotice s = .next ((s.raiseNotice s.subject.part 0).updPart s.subject.part fun x => { x with noticed := true }) := by
      have hcycles : (s.part s.subject.part).sliceStart + micros (schedLen e - schedLead e) ≤ s.cycle.toNat := by
        simp only [micros, schedLen, schedLead]; omega
      have hslice : (s.part s.subject.part).entry = some e := hentry
      have hdef : exec .preEmptionNotice s = execPreEmptionNotice s := rfl
      simp only [hdef, execPreEmptionNotice, hrunning, hslice]
      exact if_pos ⟨hlead, hnoticed, hmany, hcycles⟩
    refine ⟨_, hexec, s.raiseNotice_noticed s.subject.part 0, ?_, fun q hq => ?_, hmem⟩
    · rw [State.part_updPart, if_pos rfl, State.part, hparts]; rfl
    · rw [State.part_updPart, if_neg hq, State.part, hparts]; rfl
  case bobbin =>
    subst hv
    have hslice : (s.part s.subject.part).entry = some e := hentry
    have hsoon : (s.part s.subject.part).soon s.cycle.toNat = some (bitsOf n 63 56) := by
      simp only [Partition.soon, hslice, hnext]
      refine if_pos ⟨hother, ?_⟩
      simp only [micros, schedLen, schedPre]
      omega
    have hexec : exec .bobbinRefill s = execBobbinRefill s := rfl
    rw [hexec, execBobbinRefill, hsoon]
    refine ⟨_, rfl, ?_, fun c hc => ?_⟩
    · exact State.foldl_coresOnly (fun t c => rfl) _ _
    · have hcore := foldl_pointwise (q := State.core) (g := fun t c => t.updCore c fun k =>
          if (s.vf (bitsOf n 63 56)).index = 0 then { k with bobbin0 := some (bitsOf n 63 56) } else { k with bobbin1 := some (bitsOf n 63 56) })
        (f := fun _ k => if (s.vf (bitsOf n 63 56)).index = 0 then { k with bobbin0 := some (bitsOf n 63 56) }
          else { k with bobbin1 := some (bitsOf n 63 56) })
        (fun t c d => State.core_updCore t c d _) (fun d k => by split <;> rfl) (s.partCores s.subject.part) s c
      rw [hcore, if_pos hc]
      split <;> rfl
  case first =>
    rintro v sv hfatal hsections hrunning hvfs hschedule hnew hstaged hevac hgen hfound hslots rfl hqueued hwf
    have hout : s.switchOut s.subject.part = s := by rw [State.switchOut, hrunning]
    have hre := State.reconfigure_plain (s := s) none hstaged hfound (by rw [hvfs]; simp) hnew
    generalize hu : s.reconfigure s.subject.part none = u at hre
    have hvf : u.vf v = s.vf v := by rw [hre.kept]; rfl
    have hentry : (u.part s.subject.part).entry = none := by rw [Partition.entry, hre.schedule, hschedule]; rfl
    have hnext : u.nextVf s.subject.part none = some v := by rw [State.nextVf_first hentry, hre.vfs, hvfs]; rfl
    obtain ⟨a, b, hin⟩ := u.restoreVf_restored v s.subject.part (by rw [hvf]; exact hqueued)
    obtain ⟨g, hg, hloaded⟩ := hin.slots
    have hsaved : ((u.vf v).saved.moveTimer a b).slots = (s.vf v).saved.slots := by rw [hvf, SavedCtx.moveTimer_only]
    have hslot : ∀ e ∈ (s.vf v).saved.slots, (u.restoreVf v s.subject.part).slot e.1 = g e.2 := fun e he => by
      rw [State.slot, hloaded, hsaved]
      exact (SMap.get_foldl_entries hwf g _).1 e he
    refine ⟨u.restoreVf v s.subject.part, ?_, ?_, ?_, ?_, hin.self.1, hin.self.2, fun b => ?_, fun e he => ?_⟩
    · rw [← hu, ← hrunning] at hnext ⊢
      have hsame := State.exec_worldSwitch (s := s) (v := v) rfl hfatal
        (State.switchDue_idle hsections hevac hrunning (by rw [hvfs]; simp)) hgen hevac
        (fun e he htenant => absurd htenant (by rw [hslots e he]; decide)) (by rw [hout]; exact hnext)
      rwa [hout] at hsame
    · rw [hin.part]
    · rw [hin.part]; exact hre.gen
    · rw [hin.part, hre.kept]
    · exact (State.byte_of_mem hin.mem b).trans (by rw [hre.kept]; rfl)
    · rw [hslot e he]; exact hg e.2
  case empty =>
    intro v w e hfatal hsections hrunning hvfs hne hschedule hpos hw he hnew hstaged hevac hgen hshared hended hslots hframes hpushes hcores hqueued
      hoffers hwqueued
    have q : s.Quiet s.subject.part :=
      ⟨hframes, hpushes, hqueued, hoffers, by rw [hslots]; rfl, by rw [hcores]; rfl, by simp [hcores], by simp [hslots]⟩
    obtain ⟨t, u, r, a, b, hexec, hout, hre, hsecond, hin⟩ := State.worldSwitch_slice rfl hfatal hsections hrunning hvfs hschedule hpos
      (schedVf_bare hw) hnew hstaged hevac hgen hshared (by rw [micros, schedLen]; omega) hne q hwqueued
    have hv : r.vf v = t.vf v := by rw [hin.vf v hne, hre.kept]; rfl
    refine ⟨r, hexec, ?_, ?_, ?_, ?_, hin.self.1, fun wd hwd => ?_⟩
    · rw [hin.part]
    · rw [hin.part, hre.gen, hout.part]
    · rw [hin.part, hsecond]
    · rw [hv, hout.ended]
    · have hhome : r.home = t.home := by rw [hin.home, hre.kept]
      rw [State.homeState, hhome]
      rcases SMap.get_default_or_mem .unregistered t.home (wordKey v wd) with hnone | hlisted
      · rw [hnone]; rfl
      · refine hout.home _ hlisted ?_
        rw [wordKey]; omega
  case saved =>
    intro v w e hfatal hsections hrunning hvfs hne hschedule hpos hw he hnew hstaged hevac hgen hshared hended hframes hpushes hqueued hoffers hsaved
      hslots hcores hsecs hidle hready
    have q : s.Quiet s.subject.part := ⟨hframes, hpushes, hqueued, hoffers, hslots, hcores, hidle, hready⟩
    obtain ⟨t, u, r, a, b, hexec, hout, hre, hsecond, hin⟩ := State.worldSwitch_slice rfl hfatal hsections hrunning hvfs hschedule hpos
      (schedVf_bare hw) hnew hstaged hevac hgen hshared (by rw [micros, schedLen]; omega) hne q (by rw [hsaved])
    rw [hsaved, SavedCtx.moveTimer_empty] at hin
    have hv : r.vf v = t.vf v := by rw [hin.vf v hne, hre.kept]; rfl
    have hempty : r.slots = [] := by
      obtain ⟨g, -, hloaded⟩ := hin.slots
      rw [hloaded, hre.kept]; exact hout.slots
    refine ⟨r, hexec, ?_⟩
    rw [hv]
    refine ⟨?_, fun y hy => ⟨?_, ?_⟩, fun c hc => ⟨hout.savedCores c hc, ?_⟩, fun k hk => ?_, hout.savedBsram, fun b => ?_⟩
    · rw [hin.part]
    · rw [State.slot, hempty]; rfl
    · rw [hout.savedSlots, SMap.get_map Slot.halted rfl, SMap.get_of_mem hslots hy]
    · refine (hin.cores c ?_).trans rfl
      rw [State.tenantCore_congr (s := s) (by rw [hre.sections, hout.part]) (by rw [hre.kept]; exact hout.column)]
      exact hc
    · rw [hout.savedSections, SMap.get_filter fun k => (s.part s.subject.part).hasSection k, if_pos hk]
    · exact (State.byte_of_mem hin.mem b).trans ((by rw [hre.kept]; rfl : u.byte b = t.byte b).trans (State.byte_of_mem hout.mem b))
  case gate =>
    subst hv
    have hexec : exec .resumeGatePass s = execResumeGatePass s := rfl
    rw [hexec, execResumeGatePass]
    dsimp only
    rw [hrunning, hgated, hreaches]
    refine ⟨_, rfl, rfl, ?_, fun k => ?_⟩
    · exact congrArg Vf.gated (State.vf_updVf_self _ _ _)
    · refine (congrArg (SMap.get {} · k) (?_ : _ = s.slots.map fun e => (e.1, if e.2.vf = s.subject.vf then { e.2 with parked := false } else e.2))).trans
        (SMap.get_map (fun m : Slot => if m.vf = s.subject.vf then { m with parked := false } else m) (ite_self _) s.slots k)
      refine List.map_congr_left fun e _ => ?_
      split <;> rfl
  case timer =>
    subst hv
    have hexec : exec .timerDeadline s = execTimerDeadline s := rfl
    rw [hexec, execTimerDeadline, hdeadline]
    dsimp only
    rw [if_pos hdue]
    obtain ⟨hvfs, hbyte, hbit, hcores, -⟩ := State.setTimer_effect hrunning true
    exact ⟨_, rfl, hbit, hvfs, hcores, hbyte⟩
  case log =>
    subst hv
    have hlapsed : (s.vf s.subject.vf).logStart + micros (1000 * (s.vf s.subject.vf).logWindow) ≤ s.cycle.toNat := by
      simp only [micros]; omega
    have hexec : exec .logWindowEnd s = execLogWindowEnd s := rfl
    obtain ⟨⟨r, hring⟩, hseq, hcounts, hstart⟩ := Vf.sealLog_single hranges hgap hpend hroom (s.timeOn 0) s.cycle.toNat
    have hself := s.vf_updVf_self s.subject.vf fun f => f.sealLog (s.timeOn 0) s.cycle.toNat
    refine ⟨_, r, hexec.trans (if_pos ⟨hwindow, hlapsed⟩), ?_, ?_, ?_, ?_, fun w hw => SMap.get_put_of_ne _ _ _ hw⟩ <;> rw [hself]
    · exact hring
    · exact hseq
    · exact hcounts
    · exact hstart

end Sys2Proof.Machine

/-! PROOFS. Vector instructions that only touch registers (R118, R120, R128, R133, R134, R142 to R146, R164 to R166, R170 to R174): elements
of rows and bits of masks, the completion of a ready instruction, and masks, moves and reductions. -/

namespace Sys2Proof

/-! Element types (R19, R102, R142). -/

/-- A row of an element type holds 1024 bits (R19). -/
theorem EType.width_mul_cols (e : EType) : e.width * e.cols = 1024 := by cases e <;> rfl
/-- No element type is empty (R19). -/
theorem EType.width_pos (e : EType) : 0 < e.width := by cases e <;> decide
/-- What an instruction writes of an element fits its width (R144). -/
theorem EType.clean_lt (e : EType) (v : Nat) : e.clean v < 2 ^ e.width := by
  unfold EType.clean
  split
  · subst e; exact (Nat.mod_lt v (by decide)).trans_le (by decide)
  · exact Nat.mod_lt v (Nat.two_pow_pos _)
/-- But for T6, an element is the whole of its place (R102). -/
theorem EType.clean_of_lt {e : EType} (h : e ≠ .t6) {v : Nat} (hv : v < 2 ^ e.width) : e.clean v = v := by
  rw [EType.clean, if_neg h, Nat.mod_eq_of_lt hv]
/-- The number that an element represents by ext (R142). -/
theorem EType.ext_eq (e : EType) {v : Nat} (hv : v < 2 ^ e.width) : e.ext v = Machine.extElt e.width e.isSigned v := by
  unfold EType.ext Machine.extElt
  split
  · exact Machine.sint_eq_bmod v e.width_pos.ne'
  · rw [Nat.mod_eq_of_lt hv]
/-- T6 is no integer type, and no floating-point type (R142). -/
theorem EType.ne_t6_of_isInt {e : EType} (h : e.isInt = true) : e ≠ .t6 := by rintro rfl; exact Bool.false_ne_true h
theorem EType.ne_t6_of_isFp {e : EType} (h : e.isFp = true) : e ≠ .t6 := by rintro rfl; exact Bool.false_ne_true h

end Sys2Proof

namespace Sys2Proof.Machine

/-! Fields of a number: what a write of one leaves of the others. -/

/-- A field of w bits above k bits, replaced: the number in its three parts. -/
theorem replaceField_parts (x k w v : Nat) :
    x - x / 2 ^ k % 2 ^ w * 2 ^ k + v * 2 ^ k = 2 ^ k * (2 ^ w * (x / 2 ^ k / 2 ^ w) + v) + x % 2 ^ k := by
  have hx : x = 2 ^ k * (2 ^ w * (x / 2 ^ k / 2 ^ w)) + x / 2 ^ k % 2 ^ w * 2 ^ k + x % 2 ^ k := by
    calc x = 2 ^ k * (2 ^ w * (x / 2 ^ k / 2 ^ w) + x / 2 ^ k % 2 ^ w) + x % 2 ^ k := by rw [Nat.div_add_mod, Nat.div_add_mod]
      _ = _ := by ring
  have hv : 2 ^ k * (2 ^ w * (x / 2 ^ k / 2 ^ w) + v) = 2 ^ k * (2 ^ w * (x / 2 ^ k / 2 ^ w)) + v * 2 ^ k := by ring
  omega
/-- The bits of a number after a write of a field. -/
theorem testBit_replaceField (x k w v i : Nat) :
    (x - x / 2 ^ k % 2 ^ w * 2 ^ k + v % 2 ^ w * 2 ^ k).testBit i = if k ≤ i ∧ i < k + w then v.testBit (i - k) else x.testBit i := by
  have hlow : x % 2 ^ k < 2 ^ k := Nat.mod_lt _ (Nat.two_pow_pos k)
  have hfield : v % 2 ^ w < 2 ^ w := Nat.mod_lt _ (Nat.two_pow_pos w)
  rw [replaceField_parts, Nat.testBit_two_pow_mul_add _ hlow, Nat.testBit_two_pow_mul_add _ hfield, Nat.testBit_mod_two_pow,
    Nat.testBit_mod_two_pow, Nat.testBit_div_two_pow, Nat.testBit_div_two_pow]
  by_cases hk : i < k
  · simp [hk, Nat.not_le.2 hk]
  · by_cases hw : i < k + w
    · have hin : i - k < w := by omega
      simp [hk, hw, hin, Nat.not_lt.1 hk]
    · have hout : ¬ i - k < w := by omega
      have hback : i - k - w + w + k = i := by omega
      simp [hk, hw, hout, hback]

/-! Elements of a row (R102, R133): what a write of one leaves of the others. -/

/-- The bits of a row after a write of an element in it. -/
theorem VRegs.row_setElt_bit (m : VRegs) {w v r j val i : Nat} (hi : i < 1024) : ((m.setElt w v r j val).row v r).getLsbD i =
    if w * j ≤ i ∧ i < w * j + w then val.testBit (i - w * j) else (m.row v r).getLsbD i := by
  have hrow : (m.setElt w v r j val).row v r = BitVec.ofNat 1024 _ := SMap.get_put_self _ _ _ _
  rw [hrow, BitVec.getLsbD_ofNat, decide_eq_true hi, Bool.true_and, testBit_replaceField, BitVec.testBit_toNat]
/-- The bits of an element. -/
theorem VRegs.elt_bit (m : VRegs) (w v r j i : Nat) : (m.elt w v r j).testBit i = (decide (i < w) && (m.row v r).getLsbD (w * j + i)) := by
  rw [VRegs.elt, Nat.testBit_mod_two_pow, Nat.testBit_div_two_pow, BitVec.testBit_toNat, Nat.add_comm i]
/-- An element just written reads as the low bits of its value. -/
theorem VRegs.elt_setElt_self (m : VRegs) {w v r j val : Nat} (hj : w * j + w ≤ 1024) :
    (m.setElt w v r j val).elt w v r j = val % 2 ^ w := by
  refine Nat.eq_of_testBit_eq fun i => ?_
  rw [VRegs.elt_bit, Nat.testBit_mod_two_pow]
  by_cases hi : i < w
  · rw [VRegs.row_setElt_bit m (by omega), if_pos (by omega), Nat.add_sub_cancel_left]
  · simp [hi]
/-- A write of an element leaves the other elements of its row. -/
theorem VRegs.elt_setElt_of_col_ne (m : VRegs) {w v r j l val : Nat} (hl : l ≠ j) :
    (m.setElt w v r j val).elt w v r l = m.elt w v r l := by
  refine Nat.eq_of_testBit_eq fun i => ?_
  rw [VRegs.elt_bit, VRegs.elt_bit]
  by_cases hi : i < w
  · by_cases hrow : w * l + i < 1024
    · have hapart : ¬ (w * j ≤ w * l + i ∧ w * l + i < w * j + w) := by
        rcases Nat.lt_or_gt_of_ne hl with h | h <;>
        · have hcols := Nat.mul_le_mul_left w h
          rw [Nat.mul_succ] at hcols
          omega
      rw [VRegs.row_setElt_bit m hrow, if_neg hapart]
    · rw [BitVec.getLsbD_of_ge _ _ (Nat.not_lt.1 hrow), BitVec.getLsbD_of_ge _ _ (Nat.not_lt.1 hrow)]
  · simp [hi]
/-- A write of an element leaves every other row. -/
theorem VRegs.get_setElt_of_ne (m : VRegs) {w v r j val k : Nat} (hk : k ≠ 8 * (v % 32) + r) :
    SMap.get 0 (m.setElt w v r j val) k = SMap.get 0 m k := SMap.get_put_of_ne _ _ _ hk
/-- An element after a write of one of its register, of either column and row. -/
theorem VRegs.elt_setElt (m : VRegs) {w v r j q l val : Nat} (hj : w * j + w ≤ 1024) :
    (m.setElt w v r j val).elt w v q l = if q = r ∧ l = j then val % 2 ^ w else m.elt w v q l := by
  by_cases hq : q = r
  · subst hq
    by_cases hl : l = j
    · subst hl; rw [if_pos ⟨rfl, rfl⟩, VRegs.elt_setElt_self m hj]
    · rw [if_neg fun h => hl h.2, VRegs.elt_setElt_of_col_ne m hl]
  · have hrow : (m.setElt w v r j val).row v q = m.row v q := m.get_setElt_of_ne (by omega)
    rw [if_neg fun h => hq h.1, VRegs.elt, hrow]; rfl

/-! Elements of a register written at the indices of a list (R133). -/

/-- Write the elements of a register that a list of indices names, in rows of c elements. -/
def VRegs.putElts (m : VRegs) (w v c : Nat) (l : List Nat) (g : Nat → Nat) : VRegs :=
  l.foldl (fun m i => m.setElt w v (i / c) (i % c) (g i)) m

/-- The indices of a list name elements of one register: each has a row of the eight, and a place in it. -/
def InRegister (w c : Nat) (l : List Nat) : Prop := ∀ i ∈ l, i / c < 8 ∧ w * (i % c) + w ≤ 1024

/-- An element after writes at the indices of a list. -/
theorem VRegs.elt_putElts {w c : Nat} {l : List Nat} (hl : InRegister w c l) (m : VRegs) (v i : Nat) (g : Nat → Nat) :
    (m.putElts w v c l g).elt w v (i / c) (i % c) = if i ∈ l then g i % 2 ^ w else m.elt w v (i / c) (i % c) := by
  induction l generalizing m with
  | nil => simp [VRegs.putElts]
  | cons j l ih =>
    have hsame : i / c = j / c ∧ i % c = j % c ↔ i = j :=
      ⟨fun h => by rw [← Nat.div_add_mod i c, h.1, h.2, Nat.div_add_mod], fun h => by rw [h]; exact ⟨rfl, rfl⟩⟩
    have hrest : (m.putElts w v c (j :: l) g) = (m.setElt w v (j / c) (j % c) (g j)).putElts w v c l g := rfl
    rw [hrest, ih (fun k hk => hl k (List.mem_cons_of_mem _ hk)), VRegs.elt_setElt m (hl j (List.mem_cons_self ..)).2]
    by_cases hi : i ∈ l
    · simp [hi]
    · by_cases hj : i = j
      · simp [hj]
      · simp [hi, hj, hsame]
/-- Writes at the indices of a list leave every row of the other registers. -/
theorem VRegs.get_putElts_of_ne {w c : Nat} {l : List Nat} (hl : InRegister w c l) (m : VRegs) {v k : Nat} (g : Nat → Nat) (hk : k / 8 ≠ v % 32) :
    SMap.get 0 (m.putElts w v c l g) k = SMap.get 0 m k := by
  induction l generalizing m with
  | nil => rfl
  | cons j l ih =>
    obtain ⟨hrow, -⟩ := hl j (List.mem_cons_self ..)
    have hne : k ≠ 8 * (v % 32) + j / c := by generalize j / c = r at hrow; omega
    exact (ih (fun i hi => hl i (List.mem_cons_of_mem _ hi)) _).trans (m.get_setElt_of_ne hne)

/-! Bits of a mask register written at the indices of a list (R134). -/

/-- A bit after a write of one. -/
theorem getLsbD_putBit (m : BitVec 4096) (k : Nat) (b : Bool) {i : Nat} (hi : i < 4096) :
    (if b then m ||| BitVec.ofNat 4096 (2 ^ k) else m &&& ~~~(BitVec.ofNat 4096 (2 ^ k))).getLsbD i = if i = k then b else m.getLsbD i := by
  have hbit : (BitVec.ofNat 4096 (2 ^ k)).getLsbD i = decide (i = k) := by
    rw [BitVec.getLsbD_ofNat, decide_eq_true hi, Bool.true_and, Nat.testBit_two_pow]; exact decide_eq_decide.2 eq_comm
  cases b
  · rw [if_neg Bool.false_ne_true, BitVec.getLsbD_and, BitVec.getLsbD_not, hbit, decide_eq_true hi]
    by_cases hk : i = k <;> simp only [hk, decide_true, decide_false, if_true, if_false, Bool.not_true, Bool.not_false, Bool.and_false, Bool.and_true]
  · rw [if_pos rfl, BitVec.getLsbD_or, hbit]
    by_cases hk : i = k <;> simp only [hk, decide_true, decide_false, if_true, if_false, Bool.or_false, Bool.or_true]
/-- A bit after writes of bits at the indices of a list. -/
theorem getLsbD_putBits (l : List Nat) (b : Nat → Bool) (m : BitVec 4096) {i : Nat} (hi : i < 4096) :
    ((l.map fun k => (k, b k)).foldl (fun (m : BitVec 4096) p =>
      if p.2 then m ||| (BitVec.ofNat 4096 (2 ^ p.1)) else m &&& ~~~(BitVec.ofNat 4096 (2 ^ p.1))) m).getLsbD i =
      if i ∈ l then b i else m.getLsbD i := by
  induction l generalizing m with
  | nil => rfl
  | cons k l ih =>
    rw [List.map_cons, List.foldl_cons, ih, getLsbD_putBit m k (b k) hi]
    by_cases hl : i ∈ l <;> by_cases hk : i = k <;> simp [hl, hk]
/-- A bit of the mask register that an instruction writes: what it gives the elements of a list, the bit there below N, and 0 above (R134). -/
theorem VArgs.getLsbD_putMask (a : VArgs) (md : Nat) (l : List Nat) (b : Nat → Bool) {i : Nat} (hi : i < 4096) :
    ((a.putMask md (l.map fun k => (k, b k))).reg md).getLsbD i =
      if i ∈ l then b i else decide (i < a.n) && (a.masks.reg md).getLsbD i := by
  have hreg : (a.putMask md (l.map fun k => (k, b k))).reg md = _ := SMap.get_put_self _ _ _ _
  rw [hreg, getLsbD_putBits l b _ hi, BitVec.getLsbD_and, BitVec.getLsbD_ofNat, Nat.testBit_two_pow_sub_one, decide_eq_true hi, Bool.true_and,
    Bool.and_comm]

/-! Completion of a vector instruction that only touches registers (R127, R128, R145). -/

/-- The vector unit's start changes cores only (R129, R358). -/
theorem State.markStart_only (s : State) (k : Nat) : s.markStart k = { s with cores := (s.markStart k).cores } := by
  unfold State.markStart State.count
  rw [State.countN_only]
  rfl
/-- With no poisoned row, an instruction that only touches registers is performed by its effect (R140). -/
theorem State.vPerform_vaEff {s : State} {k : Nat} {e : VEntry} {f : VArgs → VEff} (hpoison : (s.slot k).vpoison = [])
    (hf : vaEff e.instr = some f) : s.vPerform k e = .done (s.updSlot k fun m => m.applyEff (f (m.vargs e.ck))) := by
  have hclean : (s.slot k).readsPoison e = false := by rw [Slot.readsPoison, hpoison]; rfl
  simp only [State.vPerform, hclean, Bool.false_eq_true, if_false, hf]
/-- The shuttle with what an effect writes to an x register. -/
def Shuttle.written (sh : Shuttle) (f : VEff) : Shuttle := f.xw.elim sh fun p => sh.setX p.1 p.2
/-- An effect that writes no x register leaves the shuttle. -/
theorem Shuttle.written_none (sh : Shuttle) {f : VEff} (h : f.xw = none) : sh.written f = sh := by rw [Shuttle.written, h]; rfl
/-- An effect that writes an x register. -/
theorem Shuttle.written_some (sh : Shuttle) {f : VEff} {rd : XReg} {v : Word} (h : f.xw = some (rd, v)) : sh.written f = sh.setX rd v := by
  rw [Shuttle.written, h]; rfl
/-- The slot as the issue of a vector instruction leaves it (R22, R128). -/
abbrev Slot.issued (m : Slot) : Slot := { m with vseq := m.vseq + 1, sh := { m.sh with vresume := 0 } }
/-- The shuttle of an issued instruction after its effect (R106, R128). -/
theorem Slot.applyEff_issued_sh (m : Slot) (f : VEff) : (m.issued.applyEff f).sh =
    { m.sh with x := (m.sh.written f).x, xbad := (m.sh.written f).xbad, fcsr := m.sh.fcsr ||| f.flags.zeroExtend 8, vresume := 0 } := by
  unfold Slot.applyEff Shuttle.written
  cases f.xw with
  | none => rfl
  | some p =>
    simp only [Shuttle.setX, Option.elim_some]
    split <;> rfl

/-- Completing behind two changes of the slot in focus, of which the first may change cores too. -/
theorem State.complete_behindSlot {s u : State} {g : Slot → Slot} (h : u = { s.updMe g with cores := u.cores }) (k : Slot → Slot) :
    SlotsAndCores s (u.updMe k).complete ∧ (∀ j, j ≠ s.focus → (u.updMe k).complete.slot j = s.slot j) ∧
      (u.updMe k).complete.me = (k (g s.me)).completeAt ((k (g s.me)).sh.pc + 4) := by
  have hbehind : u = { s with slots := u.slots, cores := u.cores } := by rw [h, (s.updMe_onlySlot g).1]
  have hslots (j : Nat) : u.slot j = (s.updMe g).slot j := by rw [h]; rfl
  have hfocus : u.focus = s.focus := by rw [hbehind]
  have hme : u.me = g s.me := by rw [State.me, hfocus, hslots]; exact s.me_updMe g
  obtain ⟨honly, hothers, hbyte⟩ := (u.updMe_onlySlot k).trans (State.updMe_onlySlot (u.updMe k) fun m => m.completeAt (m.sh.pc + 4))
  change (u.updMe k).complete = _ at honly
  refine ⟨⟨?_, fun b => (hbyte b).trans (State.byte_of_mem (by rw [hbehind]; exact ⟨rfl, rfl⟩) b)⟩, fun j hj => ?_, ?_⟩
  · rw [honly, hbehind]
  · rw [State.complete, hothers j (hfocus ▸ hj), hslots, s.slot_updMe_of_ne g hj]
  · rw [State.complete, State.me_updMe, State.me_updMe, hme]

section
variable {s : State} {i : Instr} {f : VArgs → VEff} (h : s.VectorReady i) (hf : vaEff i = some f)
include h hf
/-- The issue of a ready instruction that only touches registers performs and completes it (R128, R129): the slot in focus has its effect, and
of the rest cores alone may differ. -/
theorem State.vIssue_ready : ∃ t, s.vIssue i = .next t ∧ SlotsAndCores s t ∧ (∀ k, k ≠ s.focus → t.slot k = s.slot k) ∧
    t.me = (s.me.issued.applyEff (f (s.me.vargs s.sh))).completeAt ((s.me.issued.applyEff (f (s.me.vargs s.sh))).sh.pc + 4) := by
  obtain ⟨hrun, ⟨hvq, hvrun, hheld, hearly⟩, hlate, hpoison, heager, hpick, hroom⟩ := h
  have hbusy : s.me.vectorBusy = false := State.VectorIdle.busy ⟨hvq, hvrun, hheld, hearly⟩
  have hforget : s.forget s.focus = s := if_pos (by rw [show s.slot s.focus = s.me from rfl, hearly]; rfl)
  have hempty : s.me.vpending = [] := by rw [Slot.vpending, hvq, hvrun]; rfl
  have hperform (e : VEntry) (he : e.instr = i) : ((s.updMe Slot.issued).markStart s.focus).vPerform s.focus e =
      .done (((s.updMe Slot.issued).markStart s.focus).updMe fun m => m.applyEff (f (m.vargs e.ck))) := by
    rw [State.markStart_only]
    exact State.vPerform_vaEff ((congrArg Slot.vpoison (s.me_updMe _)).trans hpoison) (he ▸ hf)
  refine ⟨(((s.updMe Slot.issued).markStart s.focus).updMe fun m => m.applyEff (f (m.vargs s.sh))).complete, ?_, ?_⟩
  · simp only [State.vIssue, hlate, State.gate_mayRun hrun, hempty, List.length_nil, if_false, hroom, Bool.false_eq_true, hforget, ite_self,
      heager, hbusy, hpick, beq_self_eq_true, Bool.not_false, Bool.and_true, if_true]
    rw [hperform _ rfl]
    rfl
  · exact State.complete_behindSlot (State.markStart_only _ _) _
/-- A READY INSTRUCTION THAT ONLY TOUCHES REGISTERS COMPLETES, with what its effect gives from the registers, masks and shuttle as they stand
(R127, R128, R145, R146). -/
theorem State.vectorCompletes (hexec : exec i s = s.vIssue i) :
    ∃ t, exec i s = .next t ∧ VectorDone s t ∧ t.me.vregs = (f (s.me.vargs s.sh)).regs ∧ t.me.masks = (f (s.me.vargs s.sh)).masks ∧
      t.sh.fcsr = (s.sh.fcsr ||| (f (s.me.vargs s.sh)).flags.zeroExtend 8) ∧ ∀ r, t.x r = (s.sh.written (f (s.me.vargs s.sh))).getX r := by
  obtain ⟨t, hnext, hslots, hothers, hme⟩ := State.vIssue_ready h hf
  obtain ⟨-, ⟨hvq, hvrun, hheld, hearly⟩, -⟩ := h
  generalize f (s.me.vargs s.sh) = g at hme ⊢
  have hsh : t.sh = { s.sh with
      x := (s.sh.written g).x, xbad := (s.sh.written g).xbad, fcsr := s.sh.fcsr ||| g.flags.zeroExtend 8, vresume := 0, pc := s.sh.pc + 4 } := by
    rw [State.sh, hme, Slot.applyEff_issued_sh, Slot.completeAt, Slot.applyEff_issued_sh]
    rfl
  have hqueue : t.VectorIdle := by
    rw [State.VectorIdle, hme]
    exact ⟨congrArg (List.map _) hvq, hvrun, hheld, hearly⟩
  have hxs : ∀ r, t.x r = (s.sh.written g).getX r := fun r => by rw [State.x, hsh]; rfl
  exact ⟨t, hexec.trans hnext, ⟨hslots, hothers, by rw [hsh], by rw [hsh], hqueue, by rw [hsh], by rw [hsh], by rw [hsh], by rw [hsh]⟩,
    by rw [hme]; rfl, by rw [hme]; rfl, by rw [hsh], hxs⟩
end

/-! The elements that an instruction reads (R102, R133, R142). -/

/-- An instruction that passes its decode checks accepts the element type (R142). -/
theorem acceptsType_of_vecLate {i : Instr} {sh : Shuttle} {e : EType} (h : vecLate i sh = none) (he : sh.vtype = some e) :
    acceptsType i e = true := by
  unfold vecLate at h
  split at h
  · rfl
  · rw [he] at h
    cases hbad : acceptsType i e with
    | true => rfl
    | false => simp [hbad] at h

section
variable (s : State)
/-- An element of the thread in focus, in its row (R133). -/
theorem State.velt_eq (w : Nat) (v : VReg) (i : Nat) :
    s.velt w v i = VRegs.elt s.me.vregs w v.val (i / s.sh.vlc.toNat) (i % s.sh.vlc.toNat) := by
  rw [VRegs.elt, VRegs.row, Nat.mod_eq_of_lt v.isLt]; rfl
/-- An element fits its width. -/
theorem State.velt_lt (w : Nat) (v : VReg) (i : Nat) : s.velt w v i < 2 ^ w := Nat.mod_lt _ (Nat.two_pow_pos w)
/-- Element 0 of row 0 (R174). -/
theorem State.velt_zero (w : Nat) (v : VReg) : s.velt w v 0 = (SMap.get 0 s.me.vregs (8 * v.val)).toNat % 2 ^ w := by
  simp [State.velt]
/-- The elements that an instruction of the thread in focus finds active (R133). -/
theorem State.mem_active {vm : MReg} {i : Nat} : i ∈ (s.me.vargs s.sh).active vm ↔ s.ActiveElt vm i := by
  simp only [VArgs.active, List.mem_filter, List.mem_range, Bool.and_eq_true, decide_eq_true_eq, Bool.or_eq_true, beq_iff_eq]
  exact and_left_comm

variable {s} {e : EType} (hvt : s.VectorType e)
include hvt
/-- The element type of an instruction (R19). -/
theorem State.VectorType.et : (s.me.vargs s.sh).et = e := by
  obtain ⟨htype, -⟩ := hvt
  exact congrArg (Option.getD · EType.i8) htype
/-- The elements lie in the eight rows of a register, and in 1024 bits of each (R133). -/
theorem State.VectorType.inRegister {l : List Nat} (hl : ∀ i ∈ l, i < s.elements) : InRegister e.width s.sh.vlc.toNat l := by
  obtain ⟨-, hrows, hcols⟩ := hvt
  intro i hi
  have hn : i < s.sh.vlr.toNat * s.sh.vlc.toNat := hl i hi
  have hpos : 0 < s.sh.vlc.toNat := Nat.pos_of_ne_zero fun h => by rw [h] at hn; exact Nat.not_lt_zero _ hn
  have hcol : i % s.sh.vlc.toNat + 1 ≤ e.cols := (Nat.mod_lt i hpos).trans_le hcols
  refine ⟨(Nat.div_lt_of_lt_mul (Nat.mul_comm .. ▸ hn)).trans_le hrows, ?_⟩
  calc e.width * (i % s.sh.vlc.toNat) + e.width = e.width * (i % s.sh.vlc.toNat + 1) := (Nat.mul_succ ..).symm
    _ ≤ e.width * e.cols := Nat.mul_le_mul_left _ hcol
    _ = 1024 := e.width_mul_cols
/-- An element as an instruction reads it (R102). -/
theorem State.VectorType.cur (v : VReg) (i : Nat) : (s.me.vargs s.sh).cur v i = e.clean (s.velt e.width v i) := by
  rw [VArgs.cur, hvt.et, s.velt_eq]; rfl
/-- An element that fills its place, as an instruction reads it. -/
theorem State.VectorType.cur_whole (h : e ≠ .t6) (v : VReg) (i : Nat) : (s.me.vargs s.sh).cur v i = s.velt e.width v i := by
  rw [hvt.cur, EType.clean_of_lt h (s.velt_lt ..)]
/-- An integer element as an instruction reads it by ext (R142). -/
theorem State.VectorType.int (h : e.isInt = true) (v : VReg) (i : Nat) :
    (s.me.vargs s.sh).int v i = extElt e.width e.isSigned (s.velt e.width v i) := by
  rw [VArgs.int, hvt.cur_whole (EType.ne_t6_of_isInt h), hvt.et, e.ext_eq (s.velt_lt ..)]
/-- Element 0 of row 0 as an instruction reads it, and the initial value of a reduction (R173, R174). -/
theorem State.VectorType.init (v : VReg) :
    (s.me.vargs s.sh).init v = e.clean ((SMap.get 0 s.me.vregs (8 * v.val)).toNat % 2 ^ e.width) := by
  have hcur : (s.me.vargs s.sh).init v = (s.me.vargs s.sh).cur v 0 := by simp only [VArgs.init, VArgs.cur, VArgs.elt, Nat.zero_div, Nat.zero_mod]
  rw [hcur, hvt.cur, s.velt_zero]
/-- The same where an element fills its place. -/
theorem State.VectorType.init_whole (h : e ≠ .t6) (v : VReg) :
    (s.me.vargs s.sh).init v = (SMap.get 0 s.me.vregs (8 * v.val)).toNat % 2 ^ e.width := by
  rw [hvt.init, EType.clean_of_lt h (Nat.mod_lt _ (Nat.two_pow_pos _))]
end

/-- A vector instruction that has completed leaves the length of a row (R128). -/
theorem VectorDone.vlc {s t : State} (h : VectorDone s t) : t.sh.vlc = s.sh.vlc := by
  obtain ⟨-, -, -, -, -, -, -, hcols, -⟩ := h
  exact hcols

/-! What an effect writes. -/

/-- The effect writes elements of one register, at the indices of a list, and nothing else. -/
def VEff.WritesElts (f : VEff) (a : VArgs) (w : Nat) (vd : VReg) (l : List Nat) (g : Nat → Nat) : Prop :=
  f.regs = a.regs.putElts w vd.val a.cols l g ∧ f.masks = a.masks ∧ f.xw = none
/-- The effect writes a mask register, at the indices of a list and above N, and nothing else but flags. -/
def VEff.WritesMask (f : VEff) (a : VArgs) (md : MReg) (l : List Nat) (b : Nat → Bool) : Prop :=
  f.regs = a.regs ∧ f.masks = a.putMask md.val (l.map fun i => (i, b i)) ∧ f.xw = none

section
variable {s : State} {e : EType} (hvt : s.VectorType e)
include hvt
/-- An element function applied without the X bit writes the active elements (R133, R144). -/
theorem State.VectorType.mapElts_writes (vm : MReg) (vd : VReg) (g : Nat → EltOut) :
    ((s.me.vargs s.sh).mapElts false vm (s.me.vargs s.sh).et.width vd g).WritesElts (s.me.vargs s.sh) e.width vd ((s.me.vargs s.sh).active vm)
      fun i => (g i).val := by
  refine ⟨?_, rfl, rfl⟩
  rw [VArgs.mapElts, hvt.et]
  refine List.foldl_map.trans (List.foldl_ext _ _ _ fun m i hi => ?_)
  obtain ⟨-, hcol⟩ := hvt.inRegister (l := [i]) (by simpa using (s.mem_active.1 hi).2.1) i (List.mem_singleton_self i)
  have hplace : i % s.sh.vlc.toNat < 1024 / e.width := by
    rw [Nat.lt_div_iff_mul_lt' (dvd_of_mul_right_eq _ e.width_mul_cols)]; have := e.width_pos; omega
  have hrow : vd.val + i % s.sh.vlc.toNat / (1024 / e.width) = vd.val := by rw [Nat.div_eq_of_lt hplace, Nat.add_zero]
  exact congrArg₂ (fun r c => m.setElt e.width r (i / s.sh.vlc.toNat) c (g i).val) hrow (Nat.mod_eq_of_lt hplace)
/-- A reduction writes element 0 of row 0 (R174). -/
theorem State.VectorType.putRed_writes (vd : VReg) (p : Nat × FFlags) :
    ((s.me.vargs s.sh).putRed vd p).WritesElts (s.me.vargs s.sh) e.width vd [0] fun _ => p.1 := by
  refine ⟨?_, rfl, rfl⟩
  simp only [VArgs.putRed, hvt.et, VRegs.putElts, List.foldl_cons, List.foldl_nil, Nat.zero_div, Nat.zero_mod]
/-- A slide up writes the active elements from its distance on (R170). -/
theorem State.VectorType.slideUp_writes (vm : MReg) (vd vs1 : VReg) (rs : XReg) :
    (vslupEff vm vd vs1 rs (s.me.vargs s.sh)).WritesElts (s.me.vargs s.sh) e.width vd
      (((s.me.vargs s.sh).active vm).filter fun i => decide ((s.x rs).toNat ≤ i)) fun i => (s.me.vargs s.sh).cur vs1 (i - (s.x rs).toNat) := by
  refine ⟨?_, rfl, rfl⟩
  rw [vslupEff, hvt.et]
  exact List.foldl_map
/-- The element that a reduction writes has a place in any row. -/
theorem State.VectorType.inRegister_zero : InRegister e.width s.sh.vlc.toNat [0] := by
  have hone : e.width * 1 ≤ e.width * e.cols := Nat.mul_le_mul_left _ (by cases e <;> decide)
  rw [e.width_mul_cols] at hone
  simpa [InRegister] using hone
end

/-- The instruction completes and, of the registers and masks of its thread, changes rows of one vector register alone, so that the state it makes
meets a condition. -/
def State.CompletesIn (s : State) (i : Instr) (vd : VReg) (p : State → Prop) : Prop :=
  ∃ t, exec i s = .next t ∧ VectorDone s t ∧ OtherRows s t vd ∧ t.me.masks = s.me.masks ∧ (∀ r, t.x r = s.x r) ∧ p t

section
variable {s : State} {i : Instr} {f : VArgs → VEff} (h : s.VectorReady i) (hf : vaEff i = some f) (hexec : exec i s = s.vIssue i)
include h hf hexec
/-- A ready instruction whose effect is to write elements of one register completes with them (R128, R133). -/
theorem State.vectorWritesElts {w : Nat} {vd : VReg} {l : List Nat} {g : Nat → Nat} (hl : InRegister w s.sh.vlc.toNat l)
    (hw : (f (s.me.vargs s.sh)).WritesElts (s.me.vargs s.sh) w vd l g) :
    s.CompletesIn i vd fun t => ∀ j, t.velt w vd j = if j ∈ l then g j % 2 ^ w else s.velt w vd j := by
  obtain ⟨hregs, hmasks, hxw⟩ := hw
  obtain ⟨t, hnext, hdone, hvregs, hvmasks, -, hx⟩ := State.vectorCompletes h hf hexec
  rw [hregs] at hvregs
  refine ⟨t, hnext, hdone, fun j hj => ?_, hvmasks.trans hmasks, fun r => ?_, fun j => ?_⟩
  · rw [hvregs]
    exact VRegs.get_putElts_of_ne hl _ g (by rwa [Nat.mod_eq_of_lt vd.isLt])
  · rw [hx, Shuttle.written_none _ hxw]; rfl
  · rw [t.velt_eq, s.velt_eq, hvregs, hdone.vlc]
    exact VRegs.elt_putElts hl _ _ j g
/-- The same of a mask register, with the bits above N cleared (R134). -/
theorem State.vectorWritesMask {vm md : MReg} {b : Nat → Bool}
    (hw : (f (s.me.vargs s.sh)).WritesMask (s.me.vargs s.sh) md ((s.me.vargs s.sh).active vm) b) :
    ∃ t, exec i s = .next t ∧ VectorDone s t ∧ t.me.vregs = s.me.vregs ∧ (∀ r, t.x r = s.x r) ∧
      ∀ j < 4096, (s.ActiveElt vm j → t.mbit md j = b j) ∧
        (¬ s.ActiveElt vm j → t.mbit md j = (decide (j < s.elements) && s.mbit md j)) := by
  obtain ⟨hregs, hmasks, hxw⟩ := hw
  obtain ⟨t, hnext, hdone, hvregs, hvmasks, -, hx⟩ := State.vectorCompletes h hf hexec
  have hbit (j : Nat) (hj : j < 4096) :
      t.mbit md j = if j ∈ (s.me.vargs s.sh).active vm then b j else decide (j < s.elements) && s.mbit md j := by
    rw [State.mbit, hvmasks, hmasks]
    exact VArgs.getLsbD_putMask _ _ _ b hj
  refine ⟨t, hnext, hdone, hvregs.trans hregs, fun r => ?_, fun j hj => ⟨fun hact => ?_, fun hact => ?_⟩⟩
  · rw [hx, Shuttle.written_none _ hxw]; rfl
  · rw [hbit j hj, if_pos (s.mem_active.2 hact)]
  · rw [hbit j hj, if_neg (s.mem_active.not.2 hact)]
/-- The same of an x register (R128). -/
theorem State.vectorWritesX {rd : XReg} {v : Word} (hregs : (f (s.me.vargs s.sh)).regs = s.me.vregs)
    (hmasks : (f (s.me.vargs s.sh)).masks = s.me.masks) (hxw : (f (s.me.vargs s.sh)).xw = some (rd, v)) :
    ∃ t, exec i s = .next t ∧ VectorDone s t ∧ t.me.vregs = s.me.vregs ∧ t.me.masks = s.me.masks ∧
      ∀ r, t.x r = if r = rd ∧ r ≠ 0 then v else s.x r := by
  obtain ⟨t, hnext, hdone, hvregs, hvmasks, -, hx⟩ := State.vectorCompletes h hf hexec
  refine ⟨t, hnext, hdone, hvregs.trans hregs, hvmasks.trans hmasks, fun r => ?_⟩
  rw [hx, Shuttle.written_some _ hxw, Shuttle.getX_setX]
  exact if_congr (and_congr_right fun hr => by rw [hr]) rfl rfl
end

/-! Masks, counts and searches (R134, R164, R165). -/

/-- A ready instruction accepts the element type (R142). -/
theorem State.VectorReady.accepts {s : State} {i : Instr} {e : EType} (h : s.VectorReady i) (hvt : s.VectorType e) : acceptsType i e = true := by
  obtain ⟨-, -, hlate, -⟩ := h
  obtain ⟨htype, -⟩ := hvt
  exact acceptsType_of_vecLate hlate htype
/-- The first active element with a bit set, where there is one (R165). -/
theorem State.find_first {s : State} {ma : MReg} {i : Nat} (hi : s.ActiveElt 0 i) (hbit : s.mbit ma i = true)
    (hfirst : ∀ j < i, s.ActiveElt 0 j → s.mbit ma j = false) : ((s.me.vargs s.sh).active 0).find?
      (fun j => ((s.me.vargs s.sh).masks.reg ma.val).getLsbD j) = some i := by
  obtain ⟨hstart, hn, -⟩ := hi
  refine List.find?_filter.trans (List.find?_range_eq_some.2 ⟨?_, List.mem_range.2 hn, fun j hj => ?_⟩)
  · exact decide_eq_true ⟨(List.mem_filter.1 (s.mem_active.2 ⟨hstart, hn, .inl rfl⟩)).2, hbit⟩
  · simp only [Bool.not_eq_true', decide_eq_false_iff_not, not_and]
    intro hact
    have hclear : s.mbit ma j = false := hfirst j hj (s.mem_active.1 (List.mem_filter.2 ⟨List.mem_range.2 (hj.trans hn), hact⟩))
    exact ne_true_of_eq_false hclear
/-- With no active bit set the search finds none (R165). -/
theorem State.find_none {s : State} {ma : MReg} (h : ∀ i, s.ActiveElt 0 i → s.mbit ma i = false) :
    ((s.me.vargs s.sh).active 0).find? (fun j => ((s.me.vargs s.sh).masks.reg ma.val).getLsbD j) = none :=
  List.find?_eq_none.2 fun i hi => ne_true_of_eq_false (h i (s.mem_active.1 hi))
/-- The number of active bits set (R165). -/
theorem State.count_active (s : State) (ma : MReg) : (((s.me.vargs s.sh).active 0).filter (s.mbit ma)).length =
    (List.range s.elements).countP fun i => decide (s.sh.vresume.toNat ≤ i) && s.mbit ma i := by
  rw [VArgs.active, List.filter_filter, ← List.countP_eq_length_filter]
  refine congrArg (List.countP · _) (funext fun i => ?_)
  rw [beq_self_eq_true, Bool.true_or, Bool.and_true, Bool.and_comm]
  rfl

/-- An element read by ext, as a register value (R173). -/
theorem ofInt_extElt (signed : Bool) {w : Nat} (hw : 0 < w) (v : Nat) :
    (if signed then BitVec.ofInt 64 (sint v w) else BitVec.ofNat 64 v) = BitVec.ofInt 64 (extElt w signed v) := by
  cases signed
  · exact (BitVec.ofInt_natCast 64 v).symm
  · exact congrArg (BitVec.ofInt 64) (sint_eq_bmod v hw.ne')

/-- A wrapped value differs from the value by a multiple of the modulus (R121). -/
theorem wrap_emod (x : Int) (w : Nat) : (wrap x w : Int) % 2 ^ w = x % 2 ^ w := by
  have hpos : (0 : Int) < ((2 ^ w : Nat) : Int) := by exact_mod_cast Nat.two_pow_pos w
  rw [wrap, Int.toNat_of_nonneg (Int.emod_nonneg _ hpos.ne')]
  push_cast
  exact Int.emod_emod_of_dvd _ dvd_rfl
/-- The value of a floating-point reduction, its flags apart (R118). -/
theorem foldl_value (g : Nat → Nat → Nat × FFlags) (l : List Nat) (p : Nat × FFlags) :
    (l.foldl (fun (acc : Nat × FFlags) x => let r := g acc.1 x; (r.1, acc.2 ||| r.2)) p).1 = l.foldl (fun a b => (g a b).1) p.1 :=
  (List.foldl_hom Prod.fst fun _ _ => rfl).symm

/-! Moves (R166, R170, R171, R173). -/

section
variable {s : State} {e : EType} (hvt : s.VectorType e) {i : Instr} {f : VArgs → VEff} (h : s.VectorReady i) (hf : vaEff i = some f)
  (hexec : exec i s = s.vIssue i)
include hvt h hf hexec
/-- An element function that gives elements of the type writes just those, where they are active (R133). -/
theorem State.VectorType.movesElts {vm : MReg} {vd : VReg} {g p : Nat → Nat}
    (hmap : f (s.me.vargs s.sh) = (s.me.vargs s.sh).mapElts false vm (s.me.vargs s.sh).et.width vd fun j => { val := g j })
    (hval : ∀ j, g j = p j) (hfits : ∀ j, p j < 2 ^ e.width) :
    s.CompletesIn i vd fun t => ∀ j, j < s.elements → (s.ActiveElt vm j → t.velt e.width vd j = p j) ∧
        (¬ s.ActiveElt vm j → t.velt e.width vd j = s.velt e.width vd j) := by
  have hw := hvt.mapElts_writes vm vd fun j => { val := g j }
  rw [← hmap] at hw
  obtain ⟨t, hnext, hdone, hrows, hmasks, hx, helt⟩ := State.vectorWritesElts h hf hexec
    (hvt.inRegister fun j hj => (s.mem_active.1 hj).2.1) hw
  refine ⟨t, hnext, hdone, hrows, hmasks, hx, fun j _ => ⟨fun hact => ?_, fun hact => ?_⟩⟩
  · rw [helt, if_pos (s.mem_active.2 hact), hval, Nat.mod_eq_of_lt (hfits j)]
  · rw [helt, if_neg (s.mem_active.not.2 hact)]

/-! Reductions (R118, R120, R174). -/

/-- A reduction completes with its value in element 0 of row 0, and leaves every other element (R174). -/
theorem State.VectorType.reduces {vd : VReg} {p : Nat × FFlags} (hred : f (s.me.vargs s.sh) = (s.me.vargs s.sh).putRed vd p) :
    s.CompletesIn i vd fun t => (∀ j, 0 < j → j < s.elements → t.velt e.width vd j = s.velt e.width vd j) ∧
      (SMap.get 0 t.me.vregs (8 * vd.val)).toNat % 2 ^ e.width = p.1 % 2 ^ e.width := by
  obtain ⟨t, hnext, hdone, hrows, hmasks, hx, helt⟩ := State.vectorWritesElts h hf hexec hvt.inRegister_zero (hred ▸ hvt.putRed_writes vd p)
  refine ⟨t, hnext, hdone, hrows, hmasks, hx, fun j hj _ => ?_, ?_⟩
  · rw [helt, if_neg (by simpa using hj.ne')]
  · rw [← t.velt_zero, helt, if_pos (List.mem_singleton_self 0)]
/-- An integer reduction combines the active elements in ascending order, and wraps (R174). -/
theorem State.VectorType.reducesInt {vm : MReg} {vd vs1 vs2 : VReg} {op : Int → Int → Int} (hint : e.isInt = true)
    (hred : f (s.me.vargs s.sh) = (s.me.vargs s.sh).intRed vm vd vs1 vs2 op) :
    s.CompletesIn i vd fun t => (∀ j, 0 < j → j < s.elements → t.velt e.width vd j = s.velt e.width vd j) ∧
      ((SMap.get 0 t.me.vregs (8 * vd.val)).toNat % 2 ^ e.width : Int) =
        (((s.me.vargs s.sh).active vm).map fun j => extElt e.width e.isSigned (s.velt e.width vs1 j)).foldl op
          (extElt e.width e.isSigned ((SMap.get 0 s.me.vregs (8 * vs2.val)).toNat % 2 ^ e.width)) % 2 ^ e.width := by
  obtain ⟨t, hnext, hdone, hrows, hmasks, hx, hrest, hvalue⟩ := hvt.reduces h hf hexec hred
  refine ⟨t, hnext, hdone, hrows, hmasks, hx, hrest, ?_⟩
  have hwhole := EType.ne_t6_of_isInt hint
  have helts : (s.me.vargs s.sh).int vs1 = fun j => extElt e.width e.isSigned (s.velt e.width vs1 j) := funext (hvt.int hint vs1)
  rw [hvt.et, hvt.init_whole hwhole, e.ext_eq (Nat.mod_lt _ (Nat.two_pow_pos _)), helts] at hvalue
  have hcast (x : Nat) : ((x % 2 ^ e.width : Nat) : Int) = (x : Int) % 2 ^ e.width := by push_cast; rfl
  exact (hcast _).symm.trans ((congrArg Nat.cast hvalue).trans ((hcast _).trans (wrap_emod _ _)))
/-- A reduction of elements as bits combines the active ones in ascending order (R118, R120, R174). -/
theorem State.VectorType.reducesBits {vm : MReg} {vd vs1 vs2 : VReg} {op : Nat → Nat → Nat} {p : Nat × FFlags} (hwhole : e ≠ .t6)
    (hred : f (s.me.vargs s.sh) = (s.me.vargs s.sh).putRed vd p)
    (hp : p.1 = (((s.me.vargs s.sh).active vm).map ((s.me.vargs s.sh).cur vs1)).foldl op ((s.me.vargs s.sh).init vs2)) :
    s.CompletesIn i vd fun t => (∀ j, 0 < j → j < s.elements → t.velt e.width vd j = s.velt e.width vd j) ∧
      (SMap.get 0 t.me.vregs (8 * vd.val)).toNat % 2 ^ e.width =
        (((s.me.vargs s.sh).active vm).map fun j => s.velt e.width vs1 j).foldl op
          ((SMap.get 0 s.me.vregs (8 * vs2.val)).toNat % 2 ^ e.width) % 2 ^ e.width := by
  obtain ⟨t, hnext, hdone, hrows, hmasks, hx, hrest, hvalue⟩ := hvt.reduces h hf hexec hred
  have helts : (s.me.vargs s.sh).cur vs1 = fun j => s.velt e.width vs1 j := funext (hvt.cur_whole hwhole vs1)
  rw [hp, hvt.init_whole hwhole, helts] at hvalue
  exact ⟨t, hnext, hdone, hrows, hmasks, hx, hrest, hvalue⟩
/-- A floating-point reduction combines the active elements in ascending order, and gives the initial value where there is none (R118, R120). -/
theorem State.VectorType.reducesFloat {vm : MReg} {vd vs1 vs2 : VReg} {f0 : FFlags} {g : Nat → Nat → Nat × FFlags} {op : Nat → Nat → Nat}
    (hfp : e.isFp = true) (hred : f (s.me.vargs s.sh) = (s.me.vargs s.sh).fpRed vm vd vs1 vs2 f0 g) (hop : ∀ a b, (g a b).1 = op a b) :
    s.CompletesIn i vd fun t => (∀ j, 0 < j → j < s.elements → t.velt e.width vd j = s.velt e.width vd j) ∧
      (SMap.get 0 t.me.vregs (8 * vd.val)).toNat % 2 ^ e.width =
        (((s.me.vargs s.sh).active vm).map fun j => s.velt e.width vs1 j).foldl op
          ((SMap.get 0 s.me.vregs (8 * vs2.val)).toNat % 2 ^ e.width) % 2 ^ e.width := by
  have hvalues : (fun a b => (g a b).1) = op := funext fun a => funext (hop a)
  exact hvt.reducesBits h hf hexec (EType.ne_t6_of_isFp hfp) hred (hvalues ▸ foldl_value _ _ _)
end

/-- Settles O33: each instruction is performed by its effect, which writes the elements of one register, a mask or an x register. -/
theorem vectorMasksMovesAndSums : Obligations.VectorMasksMovesAndSums := by
  intro vm md ma mb vd vs1 vs2 rd rs e s hvt
  refine ⟨fun c hc h => ?compare, fun o ho h => ?logic, fun h => ?count, fun h => ?first, ?moves, fun h => ?extract, ?integers, ?bits⟩
  case compare =>
    have hrel (p q : Int) : intCompare c.1 p q = true ↔ c.2 p q := by
      simp only [List.mem_cons, List.not_mem_nil, or_false] at hc
      rcases hc with rfl | rfl | rfl | rfl <;> exact decide_eq_true_iff
    obtain ⟨t, hnext, hdone, hregs, hx, hbits⟩ := State.vectorWritesMask (vm := vm) (md := md) h rfl rfl ⟨rfl, rfl, rfl⟩
    refine ⟨t, hnext, hdone, hregs, hx, fun i hi => ⟨fun hact => ?_, (hbits i hi).2⟩⟩
    rw [(hbits i hi).1 hact, hvt.int (h.accepts hvt), hvt.int (h.accepts hvt), hrel]
  case logic =>
    have hbit (p q : Bool) : maskBit o.1 p q = o.2 p q := by
      simp only [List.mem_cons, List.not_mem_nil, or_false] at ho
      rcases ho with rfl | rfl | rfl | rfl <;> rfl
    obtain ⟨t, hnext, hdone, hregs, hx, hbits⟩ := State.vectorWritesMask (vm := 0) (md := md) h rfl rfl ⟨rfl, rfl, rfl⟩
    exact ⟨t, hnext, hdone, hregs, hx, fun i hi => ⟨fun hact => ((hbits i hi).1 hact).trans (hbit _ _), (hbits i hi).2⟩⟩
  case count =>
    rw [← s.count_active]
    exact State.vectorWritesX h rfl rfl rfl rfl rfl
  case first =>
    obtain ⟨t, hnext, hdone, hregs, hmasks, hx⟩ := State.vectorWritesX h rfl rfl rfl rfl rfl
    refine ⟨t, hnext, hdone, hregs, hmasks, fun r hr => by rw [hx, if_neg fun h => hr h.1], fun hrd =>
      ⟨fun i hact hbit hfirst => ?_, fun hnone => ?_⟩⟩
    · rw [hx, if_pos ⟨rfl, hrd⟩, State.find_first hact hbit hfirst]
    · rw [hx, if_pos ⟨rfl, hrd⟩, State.find_none hnone]
  case extract =>
    obtain ⟨t, hnext, hdone, hregs, -, hx⟩ := State.vectorWritesX h rfl rfl rfl rfl rfl
    refine ⟨t, _, hnext, hdone, hregs, hvt.init vs1, fun r => (hx r).trans (if_congr Iff.rfl ?_ rfl)⟩
    rw [← ofInt_extElt _ e.width_pos, ← hvt.et]
    rfl
  case moves =>
    simp only [List.forall_mem_cons, List.not_mem_nil, false_imp_iff, implies_true, and_true]
    refine ⟨fun h => ?merge, fun h => ?broadcast, fun h => ?slideUp, fun h => ?slideDown, fun h => ?gather⟩
    case merge =>
      exact hvt.movesElts h rfl rfl rfl (fun _ => hvt.cur _ _) fun _ => e.clean_lt _
    case broadcast =>
      exact hvt.movesElts h rfl rfl rfl (fun _ => by rw [VArgs.scalar, hvt.et]; rfl) fun _ => e.clean_lt _
    case slideDown =>
      refine hvt.movesElts h rfl rfl rfl (fun j => ?_) fun j => ?_
      · rw [hvt.cur]; rfl
      · split
        · exact e.clean_lt _
        · exact Nat.two_pow_pos _
    case gather =>
      refine hvt.movesElts h rfl rfl rfl (fun j => ?_) fun j => ?_
      · rw [hvt.cur, hvt.cur]; rfl
      · split
        · exact e.clean_lt _
        · exact Nat.two_pow_pos _
    case slideUp =>
      obtain ⟨t, hnext, hdone, hrows, hmasks, hx, helt⟩ := State.vectorWritesElts h rfl rfl
        (hvt.inRegister fun j hj => (s.mem_active.1 (List.mem_of_mem_filter hj)).2.1) (hvt.slideUp_writes vm vd vs1 rs)
      refine ⟨t, hnext, hdone, hrows, hmasks, hx, fun j _ => ⟨fun hact => ?_, fun hact => ?_⟩⟩
      · rw [helt, hvt.cur, Nat.mod_eq_of_lt (e.clean_lt _)]
        refine if_congr ?_ rfl rfl
        rw [List.mem_filter, s.mem_active, decide_eq_true_iff]
        exact and_iff_right hact
      · rw [helt, if_neg fun hj => hact (s.mem_active.1 (List.mem_of_mem_filter hj))]
  case integers =>
    simp only [List.forall_mem_cons, List.not_mem_nil, false_imp_iff, implies_true, and_true]
    exact ⟨fun h => hvt.reducesInt h rfl rfl (h.accepts hvt) rfl, fun h => hvt.reducesInt h rfl rfl (h.accepts hvt) rfl,
      fun h => hvt.reducesInt h rfl rfl (h.accepts hvt) rfl⟩
  case bits =>
    simp only [List.forall_mem_cons, List.not_mem_nil, false_imp_iff, implies_true, and_true]
    refine ⟨fun h => ?and, fun h => ?or, fun h => ?sum, fun h => ?maximum, fun h => ?minimum⟩
    case and => exact hvt.reducesBits h rfl rfl (EType.ne_t6_of_isInt (h.accepts hvt)) rfl rfl
    case or => exact hvt.reducesBits h rfl rfl (EType.ne_t6_of_isInt (h.accepts hvt)) rfl rfl
    case sum => exact hvt.reducesFloat h rfl rfl (h.accepts hvt) rfl fun a b => by rw [VArgs.addRnd, hvt.et]; rfl
    case maximum => exact hvt.reducesFloat h rfl rfl (h.accepts hvt) rfl fun a b => by rw [hvt.et]
    case minimum => exact hvt.reducesFloat h rfl rfl (h.accepts hvt) rfl fun a b => by rw [hvt.et]

end Sys2Proof.Machine

/-! PROOFS. The vector configuration instructions (R137, R147 to R149): lengths, depths and strips. -/

namespace Sys2Proof
/-- A row has at most 512 columns (R19). -/
theorem EType.cols_le (e : EType) : e.cols ≤ 512 := by cases e <;> decide
end Sys2Proof
namespace Sys2Proof.Machine

/-! Completing behind a change of lengths. -/

/-- The failed checks after a register write depend on those before it alone (R140). -/
theorem Shuttle.setX_xbad_congr {a b : Shuttle} (h : a.xbad = b.xbad) (rd : XReg) (v w : Word) : (a.setX rd v).xbad = (b.setX rd w).xbad := by
  unfold Shuttle.setX
  split
  · exact h
  · simp only [h]

/-- Completing with a result (R8, R30): what it makes of the slot in focus, of its shuttle, and of the registers. -/
theorem State.completeX_slot (s : State) (rd : XReg) (v : Word) : ∃ t, s.completeX rd v = t ∧ OnlySlot s t ∧
    t.me = { s.me with sh := t.sh, wait := none, earlier := none, completed := true, half := false, jumped := false } ∧
    t.sh = { s.sh with x := t.sh.x, xbad := s.badAfter rd, pc := s.sh.pc + 4 } ∧ ∀ r, t.x r = if r = rd ∧ r ≠ 0 then v else s.x r := by
  obtain ⟨honly, hme, hjumped, hpc, hbad, hx⟩ := s.completeX_writes rd v
  have hsh : (s.completeX rd v).sh = { s.sh with x := (s.completeX rd v).sh.x, xbad := s.badAfter rd, pc := s.sh.pc + 4 } := by
    rw [← hbad, ← hpc]; exact congrArg Slot.sh hme
  refine ⟨_, rfl, honly, ?_, hsh, fun r => (hx r).trans (if_congr (and_congr_right fun hr => by rw [hr]) rfl rfl)⟩
  refine hme.trans ?_
  rw [hjumped, hsh]
/-- The same behind a change of the shuttle. -/
theorem State.completeX_updSh (s : State) (f : Shuttle → Shuttle) (rd : XReg) (v : Word) : ∃ t, (s.updSh f).completeX rd v = t ∧ OnlySlot s t ∧
    t.me = { s.me with sh := t.sh, wait := none, earlier := none, completed := true, half := false, jumped := false } ∧
    t.sh = { f s.sh with x := t.sh.x, xbad := t.sh.xbad, pc := (f s.sh).pc + 4 } ∧ t.sh.xbad = ((f s.sh).setX rd 0).xbad ∧
    ∀ r, t.x r = if r = rd ∧ r ≠ 0 then v else (f s.sh).getX r := by
  obtain ⟨t, ht, hslot, hme, hsh, hx⟩ := State.completeX_slot (s.updSh f) rd v
  obtain ⟨honly, hchange⟩ := s.updSh_onlySh f
  rw [hchange] at hme
  rw [State.badAfter, s.sh_updSh] at hsh
  have hbad : t.sh.xbad = ((f s.sh).setX rd 0).xbad := (congrArg Shuttle.xbad hsh :)
  refine ⟨t, ht, honly.trans hslot, hme, by rw [hbad]; exact hsh, hbad, fun r => (hx r).trans ?_⟩
  rw [State.x, s.sh_updSh]

/-- A granted depth bounds `vlr` (R137). -/
theorem Slot.setDepth_lengths (m : Slot) {g : Nat} (hg : g < 16) :
    (m.setDepth g).sh.vdepth.toNat = g ∧ (m.setDepth g).sh.vlr.toNat = min m.sh.vlr.toNat g := by
  have hdepth : (BitVec.ofNat 4 g).toNat = g := by rw [BitVec.toNat_ofNat]; exact Nat.mod_eq_of_lt hg
  refine ⟨hdepth, ?_⟩
  simp only [Slot.setDepth]
  split <;> omega

/-! Depths (R137, R148): what lines that leave an L1 change of a core and of the homes. -/

/-- A dropped entry of a map is read no more; every other entry reads as before. -/
theorem SMap.get_filter_kept {α : Type} {d : α} {m : SMap α} {p : Nat × α → Bool} {k : Nat} (h : p (k, SMap.get d m k) = true) :
    SMap.get d (m.filter p) k = SMap.get d m k := by
  induction m with
  | nil => rfl
  | cons e m ih =>
    obtain ⟨j, v⟩ := e
    by_cases hj : j = k
    · subst hj
      have hget : SMap.get d ((j, v) :: m) j = v := if_pos rfl
      rw [hget] at h
      rw [List.filter_cons_of_pos h, hget]
      exact if_pos rfl
    · have hget : SMap.get d ((j, v) :: m) k = SMap.get d m k := if_neg hj
      rw [hget] at h ⊢
      rw [List.filter_cons]
      split
      · exact (if_neg hj).trans (ih h)
      · exact ih h

/-- Lines have left the L1 of a core (R137, R214): its L1 and its PLB differ, and the home states of words that it owned; nothing else. -/
def CoreGives (c : Nat) (s t : State) : Prop :=
  t = { s with cores := t.cores, home := t.home } ∧ (∀ d, d ≠ c → t.core d = s.core d) ∧
    t.core c = { s.core c with l1 := (t.core c).l1, plb := (t.core c).plb } ∧
    ∀ v wd, (s.homeState v wd).owner ≠ some c → t.homeState v wd = s.homeState v wd

/-- Nothing has left. -/
theorem CoreGives.refl (c : Nat) (s : State) : CoreGives c s s := ⟨rfl, fun _ _ => rfl, rfl, fun _ _ _ => rfl⟩
/-- One change after another. -/
theorem CoreGives.trans {c : Nat} {s t u : State} (h : CoreGives c s t) (g : CoreGives c t u) : CoreGives c s u := by
  obtain ⟨honly, hothers, hcore, hhome⟩ := h
  obtain ⟨gonly, gothers, gcore, ghome⟩ := g
  refine ⟨by rw [gonly, honly], fun d hd => (gothers d hd).trans (hothers d hd), by rw [gcore, hcore], fun v wd hw => ?_⟩
  have hsame := hhome v wd hw
  exact (ghome v wd (hsame ▸ hw)).trans hsame
/-- Every slot is as it was. -/
theorem CoreGives.slots {c : Nat} {s t : State} (h : CoreGives c s t) : t.slots = s.slots := by
  obtain ⟨honly, -⟩ := h
  rw [honly]
/-- No started vector atomic comes to hold a word by it. -/
theorem CoreGives.noPins {c : Nat} {s t : State} (h : CoreGives c s t) (hp : s.NoPins) : t.NoPins := fun k e he =>
  hp k e (by rwa [State.slot, ← h.slots])
/-- Behind a change of the slot in focus. -/
theorem CoreGives.behindSlot {c : Nat} {s u : State} {f : Slot → Slot} (h : CoreGives c (s.updMe f) u) :
    u = { s with slots := u.slots, cores := u.cores, home := u.home } ∧ (∀ k, k ≠ s.focus → u.slot k = s.slot k) ∧ u.me = f s.me ∧
      ∀ b, u.byte b = s.byte b := by
  have hslots := h.slots
  obtain ⟨honly, -⟩ := h
  have hu : u = { s with slots := u.slots, cores := u.cores, home := u.home } := by rw [hslots]; exact honly
  have hslot (k : Nat) : u.slot k = (s.updMe f).slot k := by rw [State.slot, hslots]; rfl
  have hfocus : u.focus = s.focus := by rw [hu]
  exact ⟨hu, fun k hk => (hslot k).trans (s.slot_updMe_of_ne f hk), by rw [State.me, hfocus, hslot]; exact s.me_updMe f,
    State.byte_of_mem (by rw [hu]; exact ⟨rfl, rfl⟩)⟩
/-- Completing with a result behind a change of the slot in focus and what left an L1 by it. -/
theorem CoreGives.completeX {c : Nat} {s u : State} {f : Slot → Slot} (h : CoreGives c (s.updMe f) u) (rd : XReg) (v : Word) :
    ∃ t, u.completeX rd v = t ∧ t = { s with slots := t.slots, cores := t.cores, home := t.home } ∧ (∀ k, k ≠ s.focus → t.slot k = s.slot k) ∧
      (∀ b, t.byte b = s.byte b) ∧ (u = s.updMe f → OnlySlot s t) ∧ (∀ d, d ≠ c → t.core d = s.core d) ∧
      t.core c = { s.core c with l1 := (t.core c).l1, plb := (t.core c).plb } ∧
      (∀ w wd, (s.homeState w wd).owner ≠ some c → t.homeState w wd = s.homeState w wd) ∧
      t.me = { f s.me with sh := t.sh, wait := none, earlier := none, completed := true, half := false, jumped := false } ∧
      t.sh = { (f s.me).sh with x := t.sh.x, xbad := ((f s.me).sh.setX rd 0).xbad, pc := (f s.me).sh.pc + 4 } ∧
      ∀ r, t.x r = if r = rd ∧ r ≠ 0 then v else (f s.me).sh.getX r := by
  obtain ⟨t, ht, hslot, hme, hsh, hx⟩ := u.completeX_slot rd v
  obtain ⟨hu, huslots, hume, hubytes⟩ := h.behindSlot
  obtain ⟨-, hcores, hcore, hhome⟩ := h
  have hkeep (hsame : u = s.updMe f) : OnlySlot s t := (s.updMe_onlySlot f).trans (hsame ▸ hslot)
  obtain ⟨honly, hothers, hbytes⟩ := hslot
  have hfocus : u.focus = s.focus := by rw [hu]
  have hcoreT (d : Nat) : t.core d = u.core d := by rw [honly]; rfl
  have hhomeT (w wd : Nat) : t.homeState w wd = u.homeState w wd := by rw [honly]; rfl
  have hush : u.sh = (f s.me).sh := congrArg Slot.sh hume
  rw [hume] at hme
  rw [State.badAfter, hush] at hsh
  refine ⟨t, ht, by rw [honly, hu], fun k hk => (hothers k (hfocus ▸ hk)).trans (huslots k hk), fun b => (hbytes b).trans (hubytes b), hkeep,
    fun d hd => (hcoreT d).trans (hcores d hd), by rw [hcoreT]; exact hcore, fun w wd hw => (hhomeT w wd).trans (hhome w wd hw), hme, hsh,
    fun r => (hx r).trans ?_⟩
  rw [State.x, hush]
/-- A change of the L1 and the PLB of the core. -/
theorem State.updCore_gives (s : State) (c : Nat) {f : Core → Core} (h : f (s.core c) = { s.core c with l1 := (f (s.core c)).l1, plb := (f (s.core c)).plb }) :
    CoreGives c s (s.updCore c f) := by
  obtain ⟨honly, hothers, hself⟩ := s.updCore_onlyCore c f
  exact ⟨by rw [honly], hothers, by rw [hself]; exact h, fun _ _ _ => rfl⟩
/-- Where no started vector atomic holds a word, none is performed (R157). -/
theorem State.unpin_noPins {s : State} (hp : s.NoPins) (c : Nat) (q : Pin → Bool) : s.unpin c q = s := by
  refine List.foldlRecOn (motive := fun t => t = s) _ _ rfl fun t ht i _ => ?_
  subst ht
  dsimp only
  split
  · next e he => rw [hp _ e he]; rfl
  · rfl
/-- A use of the PLB changes that of its core (R287). -/
theorem State.plbUse_gives (s : State) (v c va : Nat) : CoreGives c s (s.plbUse v c va) := by
  unfold State.plbUse
  split
  · next t e h =>
    unfold State.plbLookup at h
    dsimp only at h
    split at h
    · obtain ⟨rfl, -⟩ := Prod.mk.inj (Option.some.inj h); exact s.updCore_gives c rfl
    · split at h
      · obtain ⟨rfl, -⟩ := Prod.mk.inj (Option.some.inj h); exact s.updCore_gives c rfl
      · exact nomatch h
  · exact .refl c s
/-- Words that a core owned leave it (R214, R225). -/
theorem State.filterHome_gives (s : State) {c : Nat} {p : Nat × HomeState → Bool} (h : ∀ e : Nat × HomeState, e.2.owner ≠ some c → p e = true) :
    CoreGives c s { s with home := s.home.filter p } :=
  ⟨rfl, fun _ _ => rfl, rfl, fun _ _ howner => SMap.get_filter_kept (h _ howner)⟩
/-- Words of a line leave a core (R214). -/
theorem State.evictWords_gives {s : State} (hp : s.NoPins) (c v line : Nat) (which : Nat → Bool) :
    CoreGives c s (s.evictWords c v line which) := by
  have hdrop : CoreGives c s (s.updCore c fun k => { k with l1 := k.l1.keep fun wd => !(wd / 128 == line && which wd) }) :=
    s.updCore_gives c rfl
  unfold State.evictWords
  dsimp only
  split
  · rw [State.unpin_noPins (hdrop.noPins hp)]
    refine (hdrop.trans (State.plbUse_gives _ v c _)).trans (State.filterHome_gives _ fun e howner => ?_)
    rw [beq_false_of_ne howner, Bool.and_false]
    rfl
  · exact hdrop
/-- Units are taken from an L1 (R137). -/
theorem State.takeUnits_gives {s : State} (hp : s.NoPins) (c n : Nat) : CoreGives c s (s.takeUnits c n) := by
  refine List.foldlRecOn (motive := CoreGives c s) _ _ (.refl c s) fun t ht l _ => ?_
  split
  · exact ht.trans (State.evictWords_gives (ht.noPins hp) ..)
  · exact ht

/-- THE DEPTH GRANTED (R137): the largest of 1, 2, 4 and 8 that was asked for and that the free units allow, or 1. -/
theorem grantDepth_spec {d f dc : Nat} (hd : 1 ≤ d) (hdc : 1 ≤ dc) : grantDepth d f dc ∈ [1, 2, 4, 8] ∧ grantDepth d f dc ≤ d ∧
    (grantDepth d f dc = 1 ∨ grantDepth d f dc ≤ f + dc) ∧ ∀ h ∈ [1, 2, 4, 8], h ≤ d → h ≤ f + dc → h ≤ grantDepth d f dc := by
  have hfits (g : Nat) : (decide (g ≤ d) && decide (g - 1 ≤ f + (dc - 1))) = decide (g ≤ d ∧ g ≤ f + dc) := by
    rw [← Bool.decide_and]; exact decide_eq_decide.2 (by omega)
  simp only [grantDepth, hfits, List.find?, List.mem_cons, List.not_mem_nil, or_false, forall_eq_or_imp, forall_eq]
  by_cases h8 : 8 ≤ d ∧ 8 ≤ f + dc
  · simp only [h8, and_self, decide_true]; grind
  · by_cases h4 : 4 ≤ d ∧ 4 ≤ f + dc
    · simp only [h8, h4, and_self, decide_true, decide_false]; grind
    · by_cases h2 : 2 ≤ d ∧ 2 ≤ f + dc
      · simp only [h8, h4, h2, and_self, decide_true, decide_false]; grind
      · have h1 : 1 ≤ d ∧ 1 ≤ f + dc := by omega
        simp only [h8, h4, h2, h1, and_self, decide_true, decide_false]; grind

/-- A wait is for what the instruction waits for (R30). -/
theorem Slot.waitFor_kind (m : Slot) (k : WaitKind) : (m.waitFor k).wait.map (·.kind) = some k := by
  have hkeeps (w : Option WaitInfo) (x : WaitInfo)
      (h : (w.bind fun w => if w.kind.tag = k.tag then some { w with kind := k } else none) = some x) : x.kind = k := by
    obtain ⟨y, -, hy⟩ := Option.bind_eq_some_iff.1 h
    split at hy
    · exact Option.some.inj hy ▸ rfl
    · exact nomatch hy
  unfold Slot.waitFor
  dsimp only
  rw [Option.map_some]
  refine congrArg some ?_
  cases hfirst : m.wait.bind fun w => if w.kind.tag = k.tag then some { w with kind := k } else none with
  | some x => exact hkeeps _ x hfirst
  | none =>
    cases hbegun : m.begun.bind fun w => if w.kind.tag = k.tag then some { w with kind := k } else none with
    | some x => exact hkeeps _ x hbegun
    | none => rfl

/-! Strips (R149). -/

/-- The lengths of the next strip, by how much is left. -/
theorem stripLengths_eq {m d C r c : Nat}
    (h : d * C ≤ m ∧ r = d ∧ c = C ∨ m < d * C ∧ C ≤ m ∧ r = m / C ∧ c = C ∨ m < d * C ∧ m < C ∧ 0 < m ∧ r = 1 ∧ c = m ∨
      m < d * C ∧ m < C ∧ m = 0 ∧ r = 0 ∧ c = 0) : stripLengths m d C = (r, c) := by
  unfold stripLengths
  obtain ⟨h1, rfl, rfl⟩ | ⟨h1, h2, rfl, rfl⟩ | ⟨h1, h2, h3, rfl, rfl⟩ | ⟨h1, h2, h3, rfl, rfl⟩ := h
  · rw [if_pos h1]
  · rw [if_neg (Nat.not_le.2 h1), if_pos h2]
  · rw [if_neg (Nat.not_le.2 h1), if_neg (Nat.not_le.2 h2), if_pos h3]
  · rw [if_neg (Nat.not_le.2 h1), if_neg (Nat.not_le.2 h2), if_neg (by omega)]
/-- A strip has no more rows than the depth and no more columns than a row. -/
theorem stripLengths_le {m d C r c : Nat}  (h : stripLengths m d C = (r, c)) : r ≤ d ∧ c ≤ C := by
  unfold stripLengths at h
  split at h
  · obtain ⟨rfl, rfl⟩ := Prod.mk.inj h; exact ⟨le_rfl, le_rfl⟩
  · split at h
    · obtain ⟨rfl, rfl⟩ := Prod.mk.inj h
      exact ⟨(Nat.div_lt_of_lt_mul (Nat.mul_comm .. ▸ Nat.not_le.1 ‹_›)).le, le_rfl⟩
    · split at h
      · obtain ⟨rfl, rfl⟩ := Prod.mk.inj h
        refine ⟨Nat.pos_of_ne_zero ?_, (Nat.not_le.1 ‹_›).le⟩
        rintro rfl
        omega
      · obtain ⟨rfl, rfl⟩ := Prod.mk.inj h; exact ⟨Nat.zero_le _, Nat.zero_le _⟩
/-- What a strip advances a register by, for field k of `vptrs` (R21, R149). -/
def Shuttle.stripStep (sh : Shuttle) (old : Nat) (q : XReg) (k : Nat) : Word :=
  let f := sh.vptrs.toNat / 2 ^ (8 * k) % 128
  if f % 16 = q.val then BitVec.ofNat 64 (old * ptrBits (f / 16) / 8) else 0
/-- Advancing the pointers changes registers only (R149). -/
theorem Shuttle.advance_only (sh : Shuttle) (old : Nat) :
    sh.advance old = { sh with x := (sh.advance old).x, xbad := (sh.advance old).xbad } := by
  refine List.foldlRecOn (motive := fun t : Shuttle => t = { sh with x := t.x, xbad := t.xbad }) _ _ rfl fun t ht k _ => ?_
  have hfields (x : SMap Word) (b : BitVec 16) : ({ t with x := x, xbad := b } : Shuttle) = { sh with x := x, xbad := b } := by rw [ht]
  exact (Shuttle.setX_only ..).trans (hfields _ _)
/-- A register after the pointers have advanced (R149). -/
theorem Shuttle.getX_advance (sh : Shuttle) (old : Nat) {q : XReg} (hq : q ≠ 0) :
    (sh.advance old).getX q = (List.range 4).foldl (fun a k => a + sh.stripStep old q k) (sh.getX q) := by
  refine (List.foldl_hom (Shuttle.getX · q) fun t k => ?_).symm
  rw [Shuttle.getX_setX, Shuttle.stripStep]
  generalize sh.vptrs.toNat / 2 ^ (8 * k) % 128 = f
  have hname : q = Fin.ofNat 16 (f % 16) ↔ f % 16 = q.val := by
    rw [Fin.ext_iff]; simp [eq_comm]
  by_cases h : f % 16 = q.val
  · have hqf := hname.2 h
    rw [if_pos h, ← hqf, if_pos ⟨rfl, hq⟩]
  · rw [if_neg h, if_neg fun hqf => h (hname.1 hqf.1), add_zero]

/-- VSETL sets the type and both lengths (R147). -/
theorem execVsetl_completes {s : State} {rd rs1 : XReg} {rows : BitVec 4} {e : EType} (h : s.MayRun (.vsetl rd rs1 rows e)) :
    execVsetl rd rs1 rows e s = .next ((s.updSh fun sh =>
      { sh with vtype := some e, vlr := BitVec.ofNat 4 (min rows.toNat sh.vdepth.toNat), vlc := BitVec.ofNat 10 (min (s.x rs1).toNat e.cols) }).completeX
        rd (BitVec.ofNat 64 (min (s.x rs1).toNat e.cols))) := State.gate_mayRun h _
/-- A slot pins nothing after a change that leaves what it runs (R157). -/
theorem State.NoPins.updMe {s : State} (h : s.NoPins) {f : Slot → Slot} (hf : (f s.me).vrun = s.me.vrun) : (s.updMe f).NoPins := by
  intro j e he
  rw [State.updMe, State.updSlot, State.slot_setSlot] at he
  split at he
  · exact h s.focus e (hf ▸ he)
  · exact h j e he
/-- A depth granted to the thread in focus (R137): its slot has it, and where it grows, lines leave the L1 of its core. -/
theorem State.grantTo_gives {s : State} (hp : s.NoPins) {d g : Nat} (hg : g = grantDepth d (s.freeUnits s.myCore) s.sh.vdepth.toNat) :
    CoreGives s.myCore (s.updMe fun m => m.setDepth g) (s.grantTo s.focus d).1 ∧
      (g ≤ s.sh.vdepth.toNat → (s.grantTo s.focus d).1 = s.updMe fun m => m.setDepth g) := by
  have hgrant : (s.grantTo s.focus d).1 = if s.sh.vdepth.toNat < g then
      (s.updMe fun m => m.setDepth g).takeUnits s.myCore ((s.updMe fun m => m.setDepth g).unitsTaken s.myCore)
    else s.updMe fun m => m.setDepth g := by subst hg; rfl
  rw [hgrant]
  split
  · next hlt => exact ⟨State.takeUnits_gives (hp.updMe rfl) .., fun hle => absurd hlt (Nat.not_lt.2 hle)⟩
  · exact ⟨.refl _ _, fun _ => rfl⟩
/-- Rows below a granted depth are as they were (R137). -/
theorem Slot.setDepth_vregs (m : Slot) {g j : Nat} (h : j % 8 < g) : SMap.get 0 (m.setDepth g).vregs j = SMap.get 0 m.vregs j :=
  (SMap.get_filter (fun k => decide (k % 8 < g)) m.vregs j).trans (if_pos (decide_eq_true h))

section
variable {s : State} {rd : XReg} {lg : BitVec 2} (hrun : s.MayRun (.vdepth rd lg)) (hidle : s.VectorIdle) (hwait : s.me.wait = none)
include hrun hidle hwait
/-- VDEPTH where units are taken at once (R137, R148). -/
theorem execVdepth_eager (he : s.eager = true) : execVdepth rd lg s = .next ((s.grantTo s.focus (2 ^ lg.toNat)).1.completeX rd
    (BitVec.ofNat 64 (grantDepth (2 ^ lg.toNat) (s.freeUnits s.myCore) s.sh.vdepth.toNat))) := by
  have hdone : s.me.doneValue = none := by rw [Slot.doneValue, hwait]
  simp only [execVdepth, State.gate_mayRun hrun, hdone, hidle.busy, he, Bool.true_or, Bool.false_eq_true, if_false, if_true]
/-- VDEPTH that waits for the units that it takes (R137, R148). -/
theorem execVdepth_waits (he : s.eager = false)
    (hg : s.sh.vdepth.toNat < grantDepth (2 ^ lg.toNat) (s.freeUnits s.myCore) s.sh.vdepth.toNat) : ∃ n, execVdepth rd lg s =
      .next ((s.block (.depth (grantDepth (2 ^ lg.toNat) (s.freeUnits s.myCore) s.sh.vdepth.toNat))).takeUnits s.myCore n) := by
  have hdone : s.me.doneValue = none := by rw [Slot.doneValue, hwait]
  refine ⟨(s.block (.depth (grantDepth (2 ^ lg.toNat) (s.freeUnits s.myCore) s.sh.vdepth.toNat))).unitsTaken s.myCore, ?_⟩
  simp only [execVdepth, State.gate_mayRun hrun, hdone, hidle.busy, he, decide_eq_false (Nat.not_le.2 hg), Bool.or_self, Bool.false_eq_true,
    if_false]
end
/-- VSTRIP with no vector work of its thread outstanding (R149). -/
theorem execVstrip_completes {s : State} {rd rs1 : XReg} {e : EType} (hrun : s.MayRun (.vstrip rd rs1)) (hidle : s.VectorIdle)
    (htype : s.sh.vtype = some e) {r c : Nat} (hlen : stripLengths (s.x rs1).toNat s.sh.vdepth.toNat e.cols = (r, c)) :
    execVstrip rd rs1 s = .next ((s.updSh fun sh =>
      { sh.advance (sh.vlr.toNat * sh.vlc.toNat) with vlr := BitVec.ofNat 4 r, vlc := BitVec.ofNat 10 c }).completeX rd (BitVec.ofNat 64 (r * c))) := by
  obtain ⟨hvq, hvrun, -, -⟩ := hidle
  have hempty : s.me.vpending = [] := by rw [Slot.vpending, hvq, hvrun]; rfl
  have hlen' : stripLengths (s.sh.getX rs1).toNat s.sh.vdepth.toNat ((some e).getD .i8).cols = (r, c) := hlen
  simp only [execVstrip, htype, Option.isNone_some, Bool.false_eq_true, if_false, State.gate_mayRun hrun, hempty, List.any_nil, hlen']

/-- Settles O30: each instruction completes behind one change of its shuttle, and a depth that grows takes its units from the L1 of its core,
which changes nothing else. -/
theorem vectorConfigurationInstructions : Obligations.VectorConfigurationInstructions := by
  intro rd rs1 rows lg e s
  refine ⟨fun hrun => ?lengths, fun hrun hidle hwait he hp hpos hvlr hdepth => ?depth, fun hrun hidle hwait he hp g hg hlt => ?waits,
    fun hrun hidle htype m d C r c hm hd hC hcases => ?strip⟩
  case lengths =>
    have hcols := e.cols_le
    obtain ⟨t, ht, honly, hme, hsh, hbad, hx⟩ := s.completeX_updSh (fun sh =>
      { sh with vtype := some e, vlr := BitVec.ofNat 4 (min rows.toNat sh.vdepth.toNat), vlc := BitVec.ofNat 10 (min (s.x rs1).toNat e.cols) })
      rd (BitVec.ofNat 64 (min (s.x rs1).toNat e.cols))
    have hvlr : t.sh.vlr = BitVec.ofNat 4 (min rows.toNat s.sh.vdepth.toNat) := congrArg Shuttle.vlr hsh
    have hvlc : t.sh.vlc = BitVec.ofNat 10 (min (s.x rs1).toNat e.cols) := congrArg Shuttle.vlc hsh
    have hafter : t.sh.xbad = s.badAfter rd := hbad.trans (Shuttle.setX_xbad_congr (by rfl) rd 0 0)
    refine ⟨t, (execVsetl_completes hrun).trans (congrArg _ ht), honly, ?_, ?_, ?_, hme, hx⟩
    · rw [hvlr, hvlc, ← hafter]
      exact hsh
    · rw [hvlr, BitVec.toNat_ofNat]; omega
    · rw [hvlc, BitVec.toNat_ofNat]; omega
  case depth =>
    obtain ⟨g, hg⟩ : ∃ g, g = grantDepth (2 ^ lg.toNat) (s.freeUnits s.myCore) s.sh.vdepth.toNat := ⟨_, rfl⟩
    obtain ⟨hlist, hasked, hfree, hlargest⟩ := grantDepth_spec (f := s.freeUnits s.myCore) (Nat.one_le_two_pow (n := lg.toNat)) hpos
    rw [← hg] at hlist hasked hfree hlargest
    have hsmall : g < 16 := by simp only [List.mem_cons, List.not_mem_nil, or_false] at hlist; omega
    have hexec := execVdepth_eager hrun hidle hwait he
    rw [← hg] at hexec
    obtain ⟨hgives, hkept⟩ := State.grantTo_gives hp hg
    generalize (s.grantTo s.focus (2 ^ lg.toNat)).1 = u at hexec hgives hkept
    obtain ⟨t, ht, honly, hothers, hbytes, hslot, hcores, hcore, hhome, hme, hsh, hx⟩ := hgives.completeX rd (BitVec.ofNat 64 g)
    obtain ⟨-, hvlrg⟩ := s.me.setDepth_lengths hsmall
    have hvlr : t.sh.vlr = (s.me.setDepth g).sh.vlr := (congrArg Shuttle.vlr hsh :)
    have hbad : ((s.me.setDepth g).sh.setX rd 0).xbad = s.badAfter rd := Shuttle.setX_xbad_congr (by rfl) rd 0 0
    refine ⟨t, g, hexec.trans (congrArg _ ht), honly, hothers, hbytes, fun hle => hslot (hkept hle), hcores, hcore, hhome, ?_, hlist, hasked, hfree,
      hlargest, ?_, ?_, ?_, fun r => hx r⟩
    · rw [hvlr, ← hbad]; exact hsh
    · rw [hvlr]; exact hvlrg
    · exact (congrArg Slot.masks hme :)
    · rw [hme]; exact fun j hj => s.me.setDepth_vregs hj
  case waits =>
    subst hg
    obtain ⟨n, hexec⟩ := execVdepth_waits hrun hidle hwait he hlt
    have hgives := State.takeUnits_gives (s := s.block (.depth (grantDepth (2 ^ lg.toNat) (s.freeUnits s.myCore) s.sh.vdepth.toNat)))
      (hp.updMe rfl) s.myCore n
    obtain ⟨-, -, hme, hbytes⟩ := CoreGives.behindSlot hgives
    exact ⟨_, hexec, (congrArg Slot.sh hme :), (congrArg Slot.life hme :), hbytes, (congrArg (·.wait.map (·.kind)) hme :).trans (Slot.waitFor_kind _ _)⟩
  case strip =>
    subst hm hd hC
    have hlen := stripLengths_eq hcases
    obtain ⟨hr, hc⟩ := stripLengths_le hlen
    have hrows := s.sh.vdepth.isLt
    have hcols := e.cols_le
    obtain ⟨t, ht, honly, hme, hsh, -, hx⟩ := s.completeX_updSh (fun sh =>
      { sh.advance (sh.vlr.toNat * sh.vlc.toNat) with vlr := BitVec.ofNat 4 r, vlc := BitVec.ofNat 10 c }) rd (BitVec.ofNat 64 (r * c))
    have hvlr : t.sh.vlr = BitVec.ofNat 4 r := congrArg Shuttle.vlr hsh
    have hvlc : t.sh.vlc = BitVec.ofNat 10 c := congrArg Shuttle.vlc hsh
    refine ⟨t, (execVstrip_completes hrun hidle htype hlen).trans (congrArg _ ht), honly, ?_, hme, ?_, ?_, fun q => ?_⟩
    · rw [Shuttle.advance_only] at hsh
      exact hsh
    · rw [hvlr, BitVec.toNat_ofNat]; omega
    · rw [hvlc, BitVec.toNat_ofNat]; omega
    · rw [hx]
      by_cases hq : q = 0
      · rw [if_neg fun h => h.2 hq, if_pos hq, hq]; rfl
      · rw [if_neg hq]
        refine if_congr (and_iff_left hq) rfl ?_
        exact s.sh.getX_advance _ hq
end Sys2Proof.Machine

/-! PROOFS. The vector unit (R128 to R132, R137, R145): instructions that only touch registers, and the steps that start, complete and roll back
entries. -/

namespace Sys2Proof.Machine

/-- A change of a slot behind changes of cores alone. -/
theorem State.updSlot_behindCores {s u : State} (h : u = { s with cores := u.cores }) (k : Nat) (g : Slot → Slot) :
    SlotsAndCores s (u.updSlot k g) ∧ (∀ j, j ≠ k → (u.updSlot k g).slot j = s.slot j) ∧ (u.updSlot k g).slot k = g (s.slot k) := by
  have hslot (j : Nat) : u.slot j = s.slot j := by rw [h]; rfl
  obtain ⟨honly, hothers, hself⟩ := u.updSlot_onlySlotAt k g
  refine ⟨⟨?_, fun b => State.byte_of_mem (by rw [honly, h]; exact ⟨rfl, rfl⟩) b⟩, fun j hj => (hothers j hj).trans (hslot j), ?_⟩
  · rw [honly, h]
  · rw [hself, hslot]
/-- Two changes of one slot are one. -/
theorem OnlySlotAt.trans {s t u : State} {k : Nat} {f g : Slot → Slot} (h : OnlySlotAt s k f t) (h' : OnlySlotAt t k g u) :
    OnlySlotAt s k (g ∘ f) u := by
  obtain ⟨honly, hothers, hself⟩ := h
  obtain ⟨honly', hothers', hself'⟩ := h'
  refine ⟨?_, fun j hj => (hothers' j hj).trans (hothers j hj), ?_⟩
  · rw [honly', honly]
  · rw [hself', hself]; rfl

/-- No instruction starts behind another where none has started (R129). -/
theorem Slot.startsBehind_idle {m : Slot} (h : m.vrun = none) : m.startsBehind = none := by rw [Slot.startsBehind, h]

/-- The slot from which a completed instruction's entry has gone (R22, R129), before held stores follow. -/
def Slot.vEnded (m : Slot) (e : VEntry) : Slot :=
  { m with sh := { m.sh with vresume := 0 }
           vq := m.vq.filter fun x => x.seq != e.seq
           vrun := match m.vrun with | some x => if x.seq = e.seq then none else some x | none => none : Slot }.promote
/-- The slot of a thread for which a step has been performed with a value (R30). -/
def Slot.stepDone (m : Slot) (now v : Word) : Slot := { m.wake now with wait := some { kind := .done v } }
/-- The slot of a thread whose only started instruction has ended (R22, R129). -/
def Slot.unitLeft (m : Slot) : Slot := { m with sh := { m.sh with vresume := 0 }, vrun := none }

section
variable {s : State} {k : Nat}
/-- The unit's start takes the oldest entry of the slot whose turn it is (R129). -/
theorem execVectorUnitStart_starts {e : VEntry} {rest : List VEntry} (hpick : s.unitPick s.subject.core none = some k)
    (hvrun : (s.slot k).vrun = none) (hvq : (s.slot k).vq = e :: rest) (hqueue : isQueueOp e.instr = false) :
    execVectorUnitStart s = .next ((s.markStart k).updSlot k fun m => { m with vq := rest, vrun := some e }) := by
  simp only [execVectorUnitStart, hpick, Slot.startsBehind_idle hvrun, hvq, hqueue, Bool.false_eq_true, if_false]
/-- With no held store, none takes effect (R130). -/
theorem State.commitHeld_none (h : (s.slot k).held = []) : OnlySlotAt s k id (s.commitHeld k) := by
  have hnone : s.commitHeld k = s.updSlot k fun m => { m with held := [] } := by
    simp only [State.commitHeld, State.updSlot, h, List.filter_nil, List.foldl_nil]
  have hsame : ({ s.slot k with held := [] } : Slot) = s.slot k := by rw [← h]
  obtain ⟨honly, hothers, hself⟩ := s.updSlot_onlySlotAt k fun m => { m with held := [] }
  rw [hnone]
  exact ⟨honly, hothers, hself.trans hsame⟩
/-- The last instruction of a thread completes: its entry leaves, and nothing follows it (R22, R129, R130). -/
theorem State.vFinish_last {e r : VEntry} (hvrun : (s.slot k).vrun = some r) (hseq : r.seq = e.seq) (hvq : (s.slot k).vq = [])
    (hheld : (s.slot k).held = []) (hwait : (s.slot k).wait = none) : OnlySlotAt s k Slot.unitLeft (s.vFinish k e) := by
  have hslot : (s.slot k).vEnded e = (s.slot k).unitLeft := by
    simp only [Slot.vEnded, Slot.unitLeft, hvq, hvrun, hseq, if_true, List.filter_nil, Slot.promote]
  have hends : (s.updSlot k fun m => m.vEnded e).slot k = (s.slot k).unitLeft := (State.slot_setSlot_self ..).trans hslot
  have hcommit := State.commitHeld_none (s := s.updSlot k fun m => m.vEnded e) (by rw [hends]; exact hheld)
  obtain ⟨honly, hothers, hself⟩ := (s.updSlot_onlySlotAt k fun m => m.vEnded e).trans hcommit
  have hidle : (((s.updSlot k fun m => m.vEnded e).commitHeld k).slot k).wait = none := by
    obtain ⟨-, -, hkeeps⟩ := hcommit
    rw [hkeeps, hends]
    exact hwait
  have hfinish : s.vFinish k e = (s.updSlot k fun m => m.vEnded e).commitHeld k := by
    unfold State.vFinish
    dsimp only
    split
    · next hw => exact nomatch hw.symm.trans hidle
    · rfl
  rw [hfinish]
  exact ⟨honly, hothers, hself.trans hslot⟩
/-- The completion of a thread's last instruction, one that only touches registers, performs its effect and ends it (R128, R145). -/
theorem execVectorCompletion_completes {e : VEntry} {f : VArgs → VEff} (hk : k = s.subjectSlot) (hvrun : (s.slot k).vrun = some e)
    (hvq : (s.slot k).vq = []) (hheld : (s.slot k).held = []) (hpoison : (s.slot k).vpoison = []) (hwait : (s.slot k).wait = none)
    (hf : vaEff e.instr = some f) : ∃ t, execVectorCompletion s = .next t ∧
      OnlySlotAt s k (fun m => (m.applyEff (f (m.vargs e.ck))).unitLeft) t := by
  obtain rfl : k = s.subject.core * 16 + s.subject.slot := hk
  have heffect := s.updSlot_onlySlotAt (s.subject.core * 16 + s.subject.slot) fun m => m.applyEff (f (m.vargs e.ck))
  obtain ⟨-, -, hself⟩ := id heffect
  have hperform : s.vPerform _ { e with wait := none } = .done _ := State.vPerform_vaEff hpoison hf
  have hleft := State.vFinish_last (r := e) (e := { e with wait := none }) (by rw [hself]; exact hvrun) rfl
    (by rw [hself]; exact congrArg (List.map _) hvq) (by rw [hself]; exact hheld) (by rw [hself]; exact hwait)
  refine ⟨_, ?_, heffect.trans hleft⟩
  simp only [execVectorCompletion, hvrun, State.vAdvance, hperform]
/-- A step performed for a thread readies it, with the value of the step (R30). -/
theorem State.finish_onlySlotAt (s : State) (k : Nat) (v : Word) :
    OnlySlotAt s k (fun m => m.stepDone (s.coreCycle (k / 16)) v) (s.finish k v) := s.updSlot_onlySlotAt k _
/-- A depth grant gives the thread that waits the depth of its wait, and readies it (R137). -/
theorem execDepthGrantComplete_grants {w : WaitInfo} {d : Nat} (hk : k = s.subjectSlot) (hwait : (s.slot k).wait = some w)
    (hkind : w.kind = .depth d) : ∃ now t, execDepthGrantComplete s = .next t ∧
      OnlySlotAt s k (fun m => (m.setDepth d).stepDone now (BitVec.ofNat 64 d)) t := by
  obtain rfl : k = s.subject.core * 16 + s.subject.slot := hk
  refine ⟨_, _, ?_, (s.updSlot_onlySlotAt _ fun m => m.setDepth d).trans (State.finish_onlySlotAt ..)⟩
  simp only [execDepthGrantComplete, hwait, hkind]
/-- Withdrawing what a thread has queued and what it has stored changes cores alone; then its slot is at the checkpoint (R132). -/
theorem State.rollback_slot (s : State) (k : Nat) (e : VEntry) (idx : Nat) :
    SlotsAndCores s (s.rollback k e idx) ∧ (∀ j, j ≠ k → (s.rollback k e idx).slot j = s.slot j) ∧
      (s.rollback k e idx).slot k = (s.slot k).rollback e idx := by
  unfold State.rollback
  dsimp only
  refine State.updSlot_behindCores ?_ k _
  split <;> split <;> rfl
end

/-- The registers of a shuttle with flags accrued and with what an effect writes. -/
theorem Slot.applyEff_sh (m : Slot) (f : VEff) : (m.applyEff f).sh =
    { m.sh with x := (m.sh.written f).x, xbad := (m.sh.written f).xbad, fcsr := m.sh.fcsr ||| f.flags.zeroExtend 8 } := by
  unfold Slot.applyEff Shuttle.written Shuttle.accrue
  cases f.xw with
  | none => rfl
  | some p =>
    simp only [Shuttle.setX, Option.elim_some]
    split <;> rfl
/-- The registers once an effect has written one, if it writes one (R128). -/
theorem Shuttle.getX_written (sh : Shuttle) (f : VEff) (r : XReg) : (sh.written f).getX r = match f.xw with
    | some (rd, v) => if r = rd ∧ r ≠ 0 then v else sh.getX r
    | none => sh.getX r := by
  cases hxw : f.xw with
  | none => rw [Shuttle.written_none _ hxw]
  | some p =>
    rw [Shuttle.written_some _ hxw, Shuttle.getX_setX]
    exact if_congr (and_congr_right fun hr => by rw [hr]) rfl rfl

/-- An instruction that only touches registers is performed through the vector queue (R128). -/
theorem exec_of_vaEff {i : Instr} {f : VArgs → VEff} (h : vaEff i = some f) (s : State) : exec i s = s.vIssue i := by
  unfold vaEff at h
  split at h
  case h_64 => cases h
  all_goals rfl

/-- Settles O31: a ready instruction is performed as it issues, by its effect. -/
theorem vectorRegisterInstructionsComplete : Obligations.VectorRegisterInstructionsComplete := by
  intro i f s hf h
  obtain ⟨t, hnext, hdone, hregs, hmasks, hflags, hx⟩ := State.vectorCompletes h hf (exec_of_vaEff hf s)
  exact ⟨t, hnext, hdone, hregs, hmasks, hflags, fun r => (hx r).trans (Shuttle.getX_written ..)⟩

/-- Settles O36: each step changes its slot by one function of what it held, and cores by what it counts or withdraws. -/
theorem vectorUnitSteps : Obligations.VectorUnitSteps := by
  rintro s k m hk rfl
  refine ⟨fun e rest hpick hvrun hvq hqueue => ?start, fun e f hvrun hvq hheld hpoison hwait hf => ?complete, fun e he => ?parity,
    fun w d hwait hkind hd => ?depth⟩
  case start =>
    obtain ⟨hslots, hothers, hself⟩ := State.updSlot_behindCores (s.markStart_only k) k fun m => { m with vq := rest, vrun := some e }
    exact ⟨_, execVectorUnitStart_starts hpick hvrun hvq hqueue, hslots, hothers, hself⟩
  case complete =>
    obtain ⟨t, hnext, honly, hothers, hself⟩ := execVectorCompletion_completes hk hvrun hvq hheld hpoison hwait hf
    refine ⟨t, hnext, hothers, honly, ?_⟩
    have hsh := (s.slot k).applyEff_sh (f ((s.slot k).vargs e.ck))
    rw [hself]
    refine ⟨rfl, rfl, rfl, (congrArg Shuttle.pc hsh :), (congrArg Shuttle.fcsr hsh :), fun r => ?_⟩
    exact (congrArg (Shuttle.getX · r) hsh :).trans (Shuttle.getX_written ..)
  case parity =>
    obtain rfl : k = s.subject.core * 16 + s.subject.slot := hk
    obtain ⟨hslots, hothers, hself⟩ := s.rollback_slot (s.subject.core * 16 + s.subject.slot) e e.ck.vresume.toNat
    refine ⟨_, ?_, hothers, hslots, ?_⟩
    · change execVectorQueueParityError s = _
      simp only [execVectorQueueParityError, he]
    · rw [hself]
      exact ⟨rfl, fun _ => rfl, rfl, rfl, BitVec.ofNat_toNat .., rfl, rfl⟩
  case depth =>
    obtain ⟨now, t, hnext, honly, hothers, hself⟩ := execDepthGrantComplete_grants hk hwait hkind
    refine ⟨t, hnext, hothers, honly, ?_⟩
    rw [hself]
    obtain ⟨hdepth, hvlr⟩ := (s.slot k).setDepth_lengths hd
    exact ⟨hdepth, hvlr, rfl, rfl⟩
end Sys2Proof.Machine

/-! PROOFS. Vector instructions element by element (R133, R134, R142 to R144, R158 to R161, R167, R169): elements of groups of registers,
an element function applied to the active elements, and what each family's element function gives. -/

namespace Sys2Proof.Machine

/-! Elements of a group of registers (R143): what a write of one leaves of the others. -/

/-- A register that a group of n registers at v holds is one of the 32 (R143), and elements of a width fill the rows. -/
def GroupAt (w v n : Nat) : Prop := 0 < w ∧ w ∣ 1024 ∧ v + n ≤ 32

section
variable {w v n : Nat} (hg : GroupAt w v n)
include hg
/-- Every place of a row of a register has its bits there. -/
theorem GroupAt.place (j : Nat) : w * (j % (1024 / w)) + w ≤ 1024 := by
  obtain ⟨hpos, hdvd, -⟩ := hg
  have hplaces : 0 < 1024 / w := Nat.div_pos (Nat.le_of_dvd (by decide) hdvd) hpos
  calc w * (j % (1024 / w)) + w = w * (j % (1024 / w) + 1) := (Nat.mul_succ ..).symm
    _ ≤ w * (1024 / w) := Nat.mul_le_mul_left _ (Nat.mod_lt _ hplaces)
    _ = 1024 := Nat.mul_div_cancel' hdvd
/-- An element of a group after a write of one, each in a row of the eight and a register of the group. -/
theorem VRegs.gElt_setGElt (m : VRegs) {r j q l val : Nat} (hr : r < 8) (hq : q < 8) (hj : j / (1024 / w) < n) (hl : l / (1024 / w) < n) :
    (m.setGElt w v r j val).gElt w v q l = if q = r ∧ l = j then val % 2 ^ w else m.gElt w v q l := by
  have hroom := hg.2.2
  unfold VRegs.setGElt VRegs.gElt
  by_cases hreg : l / (1024 / w) = j / (1024 / w)
  · have hcol : l % (1024 / w) = j % (1024 / w) ↔ l = j :=
      ⟨fun h => by rw [← Nat.div_add_mod l (1024 / w), hreg, h, Nat.div_add_mod], fun h => by rw [h]⟩
    rw [hreg, VRegs.elt_setElt m (hg.place j)]
    exact if_congr (and_congr_right fun _ => hcol) rfl rfl
  · have hkey : 8 * ((v + l / (1024 / w)) % 32) + q ≠ 8 * ((v + j / (1024 / w)) % 32) + r := by
      rw [Nat.mod_eq_of_lt (by omega), Nat.mod_eq_of_lt (by omega)]
      omega
    rw [if_neg fun h => hreg (by rw [h.2]), VRegs.elt, VRegs.row, VRegs.get_setElt_of_ne m hkey]
    rfl

end
/-- Write the elements of a group that a list of indices names, in rows of c elements. -/
def VRegs.putGElts (m : VRegs) (w v c : Nat) (l : List Nat) (g : Nat → Nat) : VRegs :=
  l.foldl (fun m i => m.setGElt w v (i / c) (i % c) (g i)) m
/-- An index names an element of a group of n registers: it has a row of the eight, and a register of the group. -/
def InGroup (w c n i : Nat) : Prop := i / c < 8 ∧ i % c / (1024 / w) < n

section
variable {w v n c : Nat} (hg : GroupAt w v n)
include hg
/-- An element of a group after writes at the indices of a list. -/
theorem VRegs.gElt_putGElts {l : List Nat} (hl : ∀ i ∈ l, InGroup w c n i) {i : Nat} (hi : InGroup w c n i) (m : VRegs) (g : Nat → Nat) :
    (m.putGElts w v c l g).gElt w v (i / c) (i % c) = if i ∈ l then g i % 2 ^ w else m.gElt w v (i / c) (i % c) := by
  induction l generalizing m with
  | nil => simp [VRegs.putGElts]
  | cons j l ih =>
    obtain ⟨hrow, hreg⟩ := hl j (List.mem_cons_self ..)
    have hsame : i / c = j / c ∧ i % c = j % c ↔ i = j :=
      ⟨fun h => by rw [← Nat.div_add_mod i c, h.1, h.2, Nat.div_add_mod], fun h => by rw [h]; exact ⟨rfl, rfl⟩⟩
    have hrest : (m.putGElts w v c (j :: l) g) = (m.setGElt w v (j / c) (j % c) (g j)).putGElts w v c l g := rfl
    rw [hrest, ih fun k hk => hl k (List.mem_cons_of_mem _ hk), VRegs.gElt_setGElt hg m hrow hi.1 hreg hi.2]
    by_cases hmem : i ∈ l
    · simp [hmem]
    · by_cases hj : i = j
      · simp [hj]
      · simp [hmem, hj, hsame]
/-- Writes at the indices of a list leave every row outside the group. -/
theorem VRegs.get_putGElts_of_ne {l : List Nat} (hl : ∀ i ∈ l, InGroup w c n i) (m : VRegs) (g : Nat → Nat) {k : Nat}
    (hk : ∀ r < n, k / 8 ≠ v + r) : SMap.get 0 (m.putGElts w v c l g) k = SMap.get 0 m k := by
  refine List.foldlRecOn (motive := fun u => SMap.get 0 u k = SMap.get 0 m k) _ _ rfl fun u hu j hj => ?_
  obtain ⟨hrow, hreg⟩ := hl j hj
  obtain ⟨-, -, hroom⟩ := hg
  have hother := hk _ hreg
  have hne : k ≠ 8 * ((v + j % c / (1024 / w)) % 32) + j / c := by
    rw [Nat.mod_eq_of_lt (by omega)]
    generalize j / c = r at hrow
    omega
  exact (VRegs.get_setElt_of_ne u hne).trans hu
end

/-! An element function applied to the active elements (R133, R134, R144). -/

/-- A flag that the results of a list of elements raise (R106). -/
theorem getLsbD_foldl_flags (g : Nat → EltOut) (j : Nat) (l : List Nat) (f0 : FFlags) :
    ((l.map fun i => (i, g i)).foldl (fun (f : FFlags) o => f ||| o.2.flags) f0).getLsbD j = true ↔
      f0.getLsbD j = true ∨ ∃ i ∈ l, (g i).flags.getLsbD j = true := by
  induction l generalizing f0 with
  | nil => simp
  | cons k l ih => rw [List.map_cons, List.foldl_cons, ih, BitVec.getLsbD_or, Bool.or_eq_true, List.exists_mem_cons_iff, or_assoc]

/-- An instruction completes with an element function applied to its active elements: each result is written at width w in a group of n
registers at vd, its flags accrue, and under X its exception bit is written (R133, R134, R143, R144). -/
def State.MapsElts (s : State) (i : Instr) (x : Bool) (vm : MReg) (vd : VReg) (w n : Nat) (g : Nat → EltOut) : Prop :=
  ∃ t, exec i s = .next t ∧ VectorDone s t ∧ OutsideGroup s t vd n ∧ (∀ r, t.x r = s.x r) ∧ (x = false → t.me.masks = s.me.masks) ∧
    (∀ j < 8, t.sh.fcsr.getLsbD j = true ↔
      s.sh.fcsr.getLsbD j = true ∨ ∃ k, s.ActiveElt (if x then 0 else vm) k ∧ (g k).flags.getLsbD j = true) ∧
    ∀ j < s.elements, (s.ActiveElt (if x then 0 else vm) j → t.gelt w vd j = (g j).val % 2 ^ w ∧ (x = true → t.mbit vm j = (g j).exc)) ∧
      (¬ s.ActiveElt (if x then 0 else vm) j → t.gelt w vd j = s.gelt w vd j)

/-- An element of a group of the thread in focus, in its row (R143). -/
theorem State.gelt_eq (s : State) (w : Nat) (v : VReg) (i : Nat) :
    s.gelt w v i = VRegs.gElt s.me.vregs w v.val (i / s.sh.vlc.toNat) (i % s.sh.vlc.toNat) := rfl

section
variable {s : State} {e : EType} (hvt : s.VectorType e)
include hvt
/-- There are no more elements than mask bits (R134). -/
theorem State.VectorType.elements_le : s.elements ≤ 4096 := by
  obtain ⟨-, hrows, hcols⟩ := hvt
  exact (Nat.mul_le_mul hrows (hcols.trans e.cols_le)).trans (by decide)
/-- The elements lie in a group that is wide enough for a row (R143). -/
theorem State.VectorType.inGroup {w n i : Nat} (hcols : e.cols ≤ (1024 / w) * n) (hi : i < s.elements) : InGroup w s.sh.vlc.toNat n i := by
  obtain ⟨-, hrows, hvlc⟩ := hvt
  have hn : i < s.sh.vlr.toNat * s.sh.vlc.toNat := hi
  have hpos : 0 < s.sh.vlc.toNat := Nat.pos_of_ne_zero fun h => by rw [h] at hn; exact Nat.not_lt_zero _ hn
  exact ⟨(Nat.div_lt_of_lt_mul (Nat.mul_comm .. ▸ hn)).trans_le hrows,
    Nat.div_lt_of_lt_mul ((Nat.mod_lt i hpos).trans_le (hvlc.trans hcols))⟩
/-- A ready instruction whose effect is to apply an element function completes with its results (R128, R133, R144). -/
theorem State.VectorType.mapsElts {i : Instr} {f : VArgs → VEff} {x : Bool} {vm : MReg} {vd : VReg} {w n : Nat} {g : Nat → EltOut}
    (h : s.VectorReady i) (hf : vaEff i = some f) (hmap : f (s.me.vargs s.sh) = (s.me.vargs s.sh).mapElts x vm w vd g)
    (hg : GroupAt w vd.val n) (hcols : e.cols ≤ (1024 / w) * n) : s.MapsElts i x vm vd w n g := by
  obtain ⟨t, hnext, hdone, hregs, hmasks, hfcsr, hx⟩ := State.vectorCompletes h hf (exec_of_vaEff hf s)
  rw [hmap] at hregs hmasks hfcsr hx
  have hmem (j : Nat) : j ∈ (s.me.vargs s.sh).activeX x vm ↔ s.ActiveElt (if x then 0 else vm) j := s.mem_active
  have hin : ∀ j ∈ (s.me.vargs s.sh).activeX x vm, InGroup w s.sh.vlc.toNat n j := fun j hj => hvt.inGroup hcols ((hmem j).1 hj).2.1
  have hput : t.me.vregs = VRegs.putGElts s.me.vregs w vd.val s.sh.vlc.toNat ((s.me.vargs s.sh).activeX x vm) fun j => (g j).val :=
    hregs.trans List.foldl_map
  refine ⟨t, hnext, hdone, fun j hj => ?_, hx, ?_, fun j hj => ?_, fun j hj => ⟨fun hact => ⟨?_, ?_⟩, fun hact => ?_⟩⟩
  · rw [hput]; exact VRegs.get_putGElts_of_ne hg hin _ _ hj
  · rintro rfl; exact hmasks
  · rw [hfcsr, BitVec.getLsbD_or, Bool.or_eq_true, BitVec.getLsbD_setWidth, decide_eq_true hj, Bool.true_and]
    refine or_congr_right ((getLsbD_foldl_flags g j _ 0).trans ?_)
    simp [hmem]
  · rw [t.gelt_eq, hput, hdone.vlc, VRegs.gElt_putGElts hg hin (hvt.inGroup hcols hj), if_pos ((hmem j).2 hact)]
  · rintro rfl
    rw [State.mbit, hmasks]
    have hact0 : j ∈ (s.me.vargs s.sh).active 0 := s.mem_active.2 hact
    have hbit := (s.me.vargs s.sh).getLsbD_putMask vm.val ((s.me.vargs s.sh).active 0) (fun j => (g j).exc) (hj.trans_le hvt.elements_le)
    rw [if_pos hact0] at hbit
    rw [← hbit, VArgs.mapElts, if_pos rfl, List.map_map]
    rfl
  · rw [t.gelt_eq, s.gelt_eq, hput, hdone.vlc, VRegs.gElt_putGElts hg hin (hvt.inGroup hcols hj), if_neg ((hmem j).not.2 hact)]
end

end Sys2Proof.Machine

namespace Sys2Proof

/-! Places of elements by their type (R19, R143). -/

/-- Elements of a type fill the rows. -/
theorem EType.width_dvd (e : EType) : e.width ∣ 1024 := dvd_of_mul_right_eq _ e.width_mul_cols
/-- Elements of twice a width fill the rows. -/
theorem EType.twice_width_dvd (e : EType) : 2 * e.width ∣ 1024 := by cases e <;> decide
/-- A row of elements of twice a width takes a group of two registers (R143). -/
theorem EType.cols_le_pair (e : EType) : e.cols ≤ 1024 / (2 * e.width) * 2 := by cases e <;> decide
/-- The tapered types are T8 and T6 (R142). -/
theorem EType.isTap_iff {e : EType} : e.isTap = true ↔ e = .t8 ∨ e = .t6 := by cases e <;> decide
/-- A row of words for the codes of a row takes a group of four registers (R143). -/
theorem EType.cols_le_four {e : EType} (h : e.isTap = true) : e.cols ≤ 1024 / 32 * 4 := by rcases isTap_iff.1 h with rfl | rfl <;> decide
/-- Tapered codes take bytes (R102). -/
theorem EType.width_of_isTap {e : EType} (h : e.isTap = true) : e.width = 8 := by rcases isTap_iff.1 h with rfl | rfl <;> rfl
/-- No element is wider than a word (R19). -/
theorem EType.width_le (e : EType) : e.width ≤ 32 := by cases e <;> decide

end Sys2Proof
namespace Sys2Proof.Machine

/-! Exact results, wrapped and clamped (R121, R142, R158). -/

/-- Read as a signed number (R142). -/
theorem sint_eq_extElt {w : Nat} (hw : 0 < w) (v : Nat) : sint v w = extElt w true v := sint_eq_bmod v hw.ne'
/-- A saturated number is a clamped one (R101, R121). -/
theorem sat_eq_clampTo (t : Int) (w : Nat) (signed : Bool) : sat t w signed = clampTo w signed t := by
  have hpos (k : Nat) : (0 : Int) < 2 ^ k := by positivity
  cases signed <;> simp only [sat, clampTo, intMin, intMax, Bool.false_eq_true, if_true, if_false, Nat.cast_pow, Nat.cast_ofNat]
  · have hmax := hpos w
    generalize (2 : Int) ^ w = m at *
    split <;> omega
  · have hmax := hpos (w - 1)
    generalize (2 : Int) ^ (w - 1) = m at *
    split <;> omega
/-- A number in range is left by clamping (R101). -/
theorem clampTo_of_inRange {t : Int} {w : Nat} {signed : Bool} (h : inRange t w signed = true) : clampTo w signed t = t := by
  simp only [inRange, Bool.and_eq_true, decide_eq_true_eq] at h
  rw [← sat_eq_clampTo, sat, if_neg (Int.not_lt.2 h.1), if_neg (Int.not_lt.2 h.2)]
/-- An infinity is clamped to the end of the range (R167). -/
theorem clampTo_infinity {w : Nat} (hw : w ≤ 64) (signed neg : Bool) :
    clampTo w signed (if neg then -2 ^ 64 else 2 ^ 64) = if neg then intMin w signed else intMax w signed := by
  have hpow {k : Nat} (hk : k ≤ 64) : (0 : Int) < 2 ^ k ∧ (2 : Int) ^ k ≤ 2 ^ 64 := ⟨by positivity, pow_le_pow_right₀ (by decide) hk⟩
  cases signed <;> simp only [clampTo, intMin, intMax, Bool.false_eq_true, if_true, if_false, Nat.cast_pow, Nat.cast_ofNat]
  · obtain ⟨hpos, hle⟩ := hpow hw
    generalize (2 : Int) ^ w = m at *
    cases neg <;> simp only [Bool.false_eq_true, if_true, if_false] <;> omega
  · obtain ⟨hpos, hle⟩ := hpow (k := w - 1) (by omega)
    generalize (2 : Int) ^ (w - 1) = m at *
    cases neg <;> simp only [Bool.false_eq_true, if_true, if_false] <;> omega
/-- The result of an integer operation represents the number, wrapped (R121). -/
theorem intOut_emod (t : Int) (w : Nat) (b : Bool) : ((intOut t w b).val : Int) % 2 ^ w = t % 2 ^ w := wrap_emod t w
/-- The result of a saturating operation represents the clamped number (R101, R121). -/
theorem satOut_emod (t : Int) (w : Nat) (signed : Bool) : ((satOut t w signed).val : Int) % 2 ^ w = clampTo w signed t % 2 ^ w := by
  rw [← sat_eq_clampTo]; exact wrap_emod _ w
/-- A wrapped number as a natural one (R121). -/
theorem wrap_eq (t : Int) (w : Nat) : wrap t w = (t % 2 ^ w).toNat := by rw [wrap]; push_cast; rfl

/-! Conversions (R107, R142, R167, R169). -/

/-- The converted element is the one that R167 gives. -/
theorem convert_val (src dst : EType) (rm : Rm) {v : Nat} (hv : v < 2 ^ src.width) :
    (convert src dst rm v).val = convertedTo src dst rm v := by
  unfold convert convertedTo
  rw [src.ext_eq hv]
  generalize (if src.isInt = true then ofSigned (extElt src.width src.isSigned v) 0 false
    else if src.isTap = true then decTap (src == .t6) v else src.fmt.decode v) = fp
  cases hdst : dst.isInt
  · cases htap : dst.isTap <;> rfl
  · cases hsrc : src.isInt
    · cases fp with
      | nan quiet => simp [fpToInt]
      | inf neg =>
        simp only [fpToInt, if_true, Bool.false_eq_true, if_false]
        rw [clampTo_infinity (dst.width_le.trans (by decide)), wrap_eq]
      | fin neg m k =>
        simp only [fpToInt, if_true, Bool.false_eq_true, if_false]
        split
        next hin => rw [clampTo_of_inRange hin, wrap_eq]
        next => rw [wrap_eq, sat_eq_clampTo]
    · simp only [satOut, wrap_eq, sat_eq_clampTo, if_true]
/-- Bits above a tapered code are ignored (R107). -/
theorem decTap_clean {e : EType} (h : e.isTap = true) (v : Nat) : decTap (e == .t6) (e.clean v) = decTap (e == .t6) v := by
  have hbits (t6 : Bool) (k : Nat) (hk : k = 2 ^ (tapW t6 + 1)) : decTap t6 (v % k) = decTap t6 v := by
    have hfield : v % k % 2 ^ tapW t6 = v % 2 ^ tapW t6 := Nat.mod_mod_of_dvd v (hk ▸ pow_dvd_pow 2 (Nat.le_succ _))
    have hsign : v % k / 2 ^ tapW t6 % 2 = v / 2 ^ tapW t6 % 2 := by
      rw [hk, pow_succ, Nat.mod_mul_right_div_self, Nat.mod_mod]
    simp only [decTap, hfield, hsign]
  rcases EType.isTap_iff.1 h with rfl | rfl
  · exact hbits false 256 rfl
  · exact hbits true 64 rfl

/-! What an element function writes in one register, and in groups (R133, R143, R144). -/

/-- An element of a group whose place is in its first register (R143). -/
theorem State.gelt_eq_velt (s : State) {w i : Nat} (v : VReg) (h : i % s.sh.vlc.toNat < 1024 / w) : s.gelt w v i = s.velt w v i := by
  rw [State.gelt, State.velt, Nat.div_eq_of_lt h, Nat.mod_eq_of_lt h, Nat.add_zero, Nat.mod_eq_of_lt v.isLt]
/-- A group of one register is the register. -/
theorem OutsideGroup.otherRows {s t : State} {v : VReg} (h : OutsideGroup s t v 1) : OtherRows s t v := fun j hj =>
  h j fun r hr => by obtain rfl := Nat.lt_one_iff.1 hr; exact hj

/-- An instruction completes with an element function applied to its active elements, each result in a place of one register. -/
def State.MapsRow (s : State) (i : Instr) (x : Bool) (vm : MReg) (vd : VReg) (w : Nat) (g : Nat → EltOut) : Prop :=
  ∃ t, exec i s = .next t ∧ VectorDone s t ∧ OtherRows s t vd ∧ (∀ r, t.x r = s.x r) ∧ (x = false → t.me.masks = s.me.masks) ∧
    (∀ j < 8, t.sh.fcsr.getLsbD j = true ↔
      s.sh.fcsr.getLsbD j = true ∨ ∃ k, s.ActiveElt (if x then 0 else vm) k ∧ (g k).flags.getLsbD j = true) ∧
    ∀ j < s.elements, (s.ActiveElt (if x then 0 else vm) j → t.velt w vd j = (g j).val % 2 ^ w ∧ (x = true → t.mbit vm j = (g j).exc)) ∧
      (¬ s.ActiveElt (if x then 0 else vm) j → t.velt w vd j = s.velt w vd j)
/-- An instruction completes, and its active elements, as a state of the thread shows them, are numbers wrapped to a width (R142, R158). -/
def State.MapsInts (s : State) (i : Instr) (x : Bool) (vm : MReg) (w : Nat) (elt : State → Nat → Nat) (rest : State → Prop) (p : Nat → Int) : Prop :=
  ∃ t, exec i s = .next t ∧ VectorDone s t ∧ rest t ∧ (∀ r, t.x r = s.x r) ∧ (x = false → t.me.masks = s.me.masks) ∧
    ∀ j, j < s.elements → (s.ActiveElt (if x then 0 else vm) j → (elt t j : Int) = p j % 2 ^ w) ∧
      (¬ s.ActiveElt (if x then 0 else vm) j → elt t j = elt s j)

section
variable {s : State} {e : EType} {i : Instr} {x : Bool} {vm : MReg} {vd : VReg} {w : Nat} {g : Nat → EltOut} {p : Nat → Int}
  (hp : ∀ j, ((g j).val : Int) % 2 ^ w = p j % 2 ^ w)
include hp
/-- The results of an element function as wrapped numbers. -/
theorem State.MapsRow.ints (h : s.MapsRow i x vm vd w g) : s.MapsInts i x vm w (·.velt w vd) (OtherRows s · vd) p := by
  obtain ⟨t, hnext, hdone, hrows, hx, hmasks, -, helt⟩ := h
  refine ⟨t, hnext, hdone, hrows, hx, hmasks, fun j hj => ⟨fun hact => ?_, (helt j hj).2⟩⟩
  have hval := congrArg (Nat.cast (R := Int)) ((helt j hj).1 hact).1
  rw [Int.natCast_emod, Nat.cast_pow, Nat.cast_ofNat, hp] at hval
  exact hval
/-- The same in a group. -/
theorem State.MapsElts.ints {n : Nat} (h : s.MapsElts i x vm vd w n g) :
    s.MapsInts i x vm w (·.gelt w vd) (OutsideGroup s · vd n) p := by
  obtain ⟨t, hnext, hdone, hrows, hx, hmasks, -, helt⟩ := h
  refine ⟨t, hnext, hdone, hrows, hx, hmasks, fun j hj => ⟨fun hact => ?_, (helt j hj).2⟩⟩
  have hval := congrArg (Nat.cast (R := Int)) ((helt j hj).1 hact).1
  rw [Int.natCast_emod, Nat.cast_pow, Nat.cast_ofNat, hp] at hval
  exact hval
end

section
variable {s : State} {e : EType} (hvt : s.VectorType e) {i : Instr} {f : VArgs → VEff} (h : s.VectorReady i) (hf : vaEff i = some f)
  {x : Bool} {vm : MReg} {vd vs1 vs2 : VReg}
include hvt h hf
/-- A ready instruction whose effect is to apply an element function at the width of the type writes one register (R128, R133, R144). -/
theorem State.VectorType.mapsRow {g : Nat → EltOut}
    (hmap : f (s.me.vargs s.sh) = (s.me.vargs s.sh).mapElts x vm (s.me.vargs s.sh).et.width vd g) : s.MapsRow i x vm vd e.width g := by
  rw [hvt.et] at hmap
  obtain ⟨t, hnext, hdone, hrows, hx, hmasks, hfcsr, helt⟩ := hvt.mapsElts (n := 1) h hf hmap
    ⟨e.width_pos, e.width_dvd, vd.isLt⟩ (Nat.mul_one _).ge
  refine ⟨t, hnext, hdone, hrows.otherRows, hx, hmasks, hfcsr, fun j hj => ?_⟩
  have hcol : j % s.sh.vlc.toNat < 1024 / e.width := by
    have hin := (hvt.inGroup (w := e.width) (n := 1) (Nat.mul_one _).ge hj).2
    have hplaces : 0 < 1024 / e.width := Nat.div_pos (e.width_le.trans (by decide)) e.width_pos
    exact Nat.lt_of_div_lt_div (hin.trans_eq (Nat.div_self hplaces).symm)
  rw [← t.gelt_eq_velt vd (hdone.vlc ▸ hcol), ← s.gelt_eq_velt vd hcol]
  exact helt j hj
/-- The instructions on integers by ext compute exactly, and wrap (R142, R158). -/
theorem State.VectorType.intOp {F : Int → Int → EltOut} {op : Int → Int → Int} (hint : e.isInt = true)
    (hmap : f (s.me.vargs s.sh) = (s.me.vargs s.sh).intOp x vm vd vs1 vs2 F) (hop : ∀ p q, ((F p q).val : Int) % 2 ^ e.width = op p q % 2 ^ e.width) :
    s.MapsInts i x vm e.width (·.velt e.width vd) (OtherRows s · vd) fun j =>
      op (extElt e.width e.isSigned (s.velt e.width vs1 j)) (extElt e.width e.isSigned (s.velt e.width vs2 j)) :=
  (hvt.mapsRow h hf hmap).ints fun j => by rw [hop, hvt.int hint, hvt.int hint]
/-- The same of the instructions on the bits of their operands (R158). -/
theorem State.VectorType.bitOp {F : Nat → Nat → EltOut} {op : Nat → Nat → Int} (hint : e.isInt = true)
    (hmap : f (s.me.vargs s.sh) = (s.me.vargs s.sh).bitOp x vm vd vs1 vs2 F) (hop : ∀ p q, ((F p q).val : Int) % 2 ^ e.width = op p q % 2 ^ e.width) :
    s.MapsInts i x vm e.width (·.velt e.width vd) (OtherRows s · vd) fun j => op (s.velt e.width vs1 j) (s.velt e.width vs2 j) :=
  (hvt.mapsRow h hf hmap).ints fun j => by
    rw [hop, hvt.cur_whole (EType.ne_t6_of_isInt hint), hvt.cur_whole (EType.ne_t6_of_isInt hint)]
end

/-- The integer instructions of one width compute exactly, and wrap (R158). -/
theorem vectorIntegerElements (x : Bool) (vm : MReg) (vd vs1 vs2 : VReg) {e : EType} {s : State} (hvt : s.VectorType e) :
    ∀ op ∈ vectorOps, s.VectorReady (op.1 x vm vd vs1 vs2) → s.MapsInts (op.1 x vm vd vs1 vs2) x vm e.width (·.velt e.width vd) (OtherRows s · vd)
      fun j => op.2 e.width e.isSigned (s.velt e.width vs1 j) (s.velt e.width vs2 j) := by
  obtain rfl := hvt.et
  have hsigned (v : Nat) := sint_eq_extElt (s.me.vargs s.sh).et.width_pos v
  simp only [vectorOps, List.forall_mem_cons, List.not_mem_nil, false_imp_iff, implies_true, and_true]
  refine ⟨fun h => ?add, fun h => ?sub, fun h => ?mul, fun h => ?mulh, fun h => ?min, fun h => ?max, fun h => ?minu, fun h => ?maxu,
    fun h => ?and, fun h => ?or, fun h => ?xor, fun h => ?sll, fun h => ?srl, fun h => ?sra, fun h => ?sadd, fun h => ?ssub, fun h => ?saddu,
    fun h => ?ssubu⟩
  case add => exact hvt.intOp h rfl (h.accepts hvt) rfl fun p q => intOut_emod ..
  case sub => exact hvt.intOp h rfl (h.accepts hvt) rfl fun p q => intOut_emod ..
  case mul => exact hvt.intOp h rfl (h.accepts hvt) rfl fun p q => intOut_emod ..
  case mulh =>
    exact hvt.intOp (op := fun p q => p * q / 2 ^ _) h rfl (h.accepts hvt) rfl fun p q => by
      rw [intOut_emod, Nat.cast_pow, Nat.cast_ofNat]
  case min =>
    exact hvt.bitOp (op := fun p q => min (extElt _ true p) (extElt _ true q)) h rfl (h.accepts hvt) rfl fun p q => by
      rw [intOut_emod, hsigned, hsigned]
  case max =>
    exact hvt.bitOp (op := fun p q => max (extElt _ true p) (extElt _ true q)) h rfl (h.accepts hvt) rfl fun p q => by
      rw [intOut_emod, hsigned, hsigned]
  case minu => exact hvt.bitOp h rfl (h.accepts hvt) rfl fun p q => rfl
  case maxu => exact hvt.bitOp h rfl (h.accepts hvt) rfl fun p q => rfl
  case and => exact hvt.bitOp h rfl (h.accepts hvt) rfl fun p q => rfl
  case or => exact hvt.bitOp h rfl (h.accepts hvt) rfl fun p q => rfl
  case xor => exact hvt.bitOp h rfl (h.accepts hvt) rfl fun p q => rfl
  case sll =>
    exact hvt.bitOp (op := fun p q => (p * 2 ^ (q % _) : Nat)) h rfl (h.accepts hvt) rfl fun p q => by
      push_cast
      exact Int.emod_emod_of_dvd _ dvd_rfl
  case srl => exact hvt.bitOp h rfl (h.accepts hvt) rfl fun p q => rfl
  case sra =>
    exact hvt.bitOp (op := fun p q => extElt _ true p / 2 ^ (q % _)) h rfl (h.accepts hvt) rfl fun p q => by
      rw [intOut_emod, hsigned, Nat.cast_pow, Nat.cast_ofNat]
  case sadd =>
    exact hvt.bitOp (op := fun p q => clampTo _ true (extElt _ true p + extElt _ true q)) h rfl (h.accepts hvt) rfl fun p q => by
      rw [satOut_emod, hsigned, hsigned]
  case ssub =>
    exact hvt.bitOp (op := fun p q => clampTo _ true (extElt _ true p - extElt _ true q)) h rfl (h.accepts hvt) rfl fun p q => by
      rw [satOut_emod, hsigned, hsigned]
  case saddu => exact hvt.bitOp (op := fun p q => clampTo _ false (p + q)) h rfl (h.accepts hvt) rfl fun p q => satOut_emod ..
  case ssubu => exact hvt.bitOp (op := fun p q => clampTo _ false (p - q)) h rfl (h.accepts hvt) rfl fun p q => satOut_emod ..

/-! Widening and narrowing instructions (R143, R159, R160). -/

/-- A register whose number a group's size divides leaves room for the group (R143). -/
theorem group_room {b : Bool} {v : VReg} {k : Nat} (hk : k ∣ 32) (h : (b && v.val % k == 0) = true) : v.val + k ≤ 32 := by
  have haligned : k ∣ v.val := Nat.dvd_of_mod_eq_zero (eq_of_beq (Bool.and_eq_true_iff.1 h).2)
  exact Nat.le_of_lt_add_of_dvd (Nat.add_lt_add_right v.isLt k) (Nat.dvd_add_self_right.2 haligned) hk
/-- The types that widen are integers (R142). -/
theorem isInt_of_widens {e : EType} (h : (e == .i4 || e == .i8 || e == .i16 || e == .ui8 || e == .ui16) = true) : e.isInt = true := by
  simp only [Bool.or_eq_true, beq_iff_eq] at h
  rcases h with (((rfl | rfl) | rfl) | rfl) | rfl <;> rfl

section
variable {s : State} {e : EType} (hvt : s.VectorType e)
include hvt
/-- A group element as an instruction reads it (R159, R160). -/
theorem State.VectorType.int2 (v : VReg) (j : Nat) :
    (s.me.vargs s.sh).int2 v j = extElt (2 * e.width) e.isSigned (s.gelt (2 * e.width) v j) := by
  rw [← hvt.et, VArgs.int2, sint_eq_extElt (Nat.mul_pos two_pos (EType.width_pos _))]
  cases (s.me.vargs s.sh).et.isSigned <;> rfl
/-- An instruction that computes from group elements of vd and elements of vs1 and vs2, and wraps to twice the width (R159). -/
theorem State.VectorType.wideOp {i : Instr} {f : VArgs → VEff} {x b : Bool} {vm : MReg} {vd vs1 vs2 : VReg} {F : Nat → EltOut}
    {op : Int → Int → Int → Int} (h : s.VectorReady i) (hf : vaEff i = some f) (hint : e.isInt = true) (hform : (b && vd.val % 2 == 0) = true)
    (hmap : f (s.me.vargs s.sh) = (s.me.vargs s.sh).mapElts x vm (2 * (s.me.vargs s.sh).et.width) vd F)
    (hop : ∀ j, ((F j).val : Int) % 2 ^ (2 * e.width) =
      op ((s.me.vargs s.sh).int2 vd j) ((s.me.vargs s.sh).int vs1 j) ((s.me.vargs s.sh).int vs2 j) % 2 ^ (2 * e.width)) :
    s.MapsInts i x vm (2 * e.width) (·.gelt (2 * e.width) vd) (OutsideGroup s · vd 2) fun j =>
      op (extElt (2 * e.width) e.isSigned (s.gelt (2 * e.width) vd j)) (extElt e.width e.isSigned (s.velt e.width vs1 j))
        (extElt e.width e.isSigned (s.velt e.width vs2 j)) := by
  rw [hvt.et] at hmap
  have hgroup : GroupAt (2 * e.width) vd.val 2 := ⟨Nat.mul_pos two_pos e.width_pos, e.twice_width_dvd, group_room (by decide) hform⟩
  exact (hvt.mapsElts h hf hmap hgroup e.cols_le_pair).ints fun j => by rw [hop, hvt.int2, hvt.int hint, hvt.int hint]
/-- The widening instructions compute exactly, and wrap to twice the width (R159). -/
theorem vectorWideElements (x : Bool) (vm : MReg) (vd vs1 vs2 : VReg) :
    ∀ op ∈ vectorWideOps, wellFormed (op.1 x vm vd vs1 vs2) = true → s.VectorReady (op.1 x vm vd vs1 vs2) →
      s.MapsInts (op.1 x vm vd vs1 vs2) x vm (2 * e.width) (·.gelt (2 * e.width) vd) (OutsideGroup s · vd 2) fun j =>
        op.2 (extElt (2 * e.width) e.isSigned (s.gelt (2 * e.width) vd j)) (extElt e.width e.isSigned (s.velt e.width vs1 j))
          (extElt e.width e.isSigned (s.velt e.width vs2 j)) := by
  obtain rfl := hvt.et
  simp only [vectorWideOps, List.forall_mem_cons, List.not_mem_nil, false_imp_iff, implies_true, and_true]
  refine ⟨fun hform h => ?add, fun hform h => ?mul, fun hform h => ?macc⟩
  case add => exact hvt.wideOp (op := fun _ p q => p + q) h rfl (isInt_of_widens (h.accepts hvt)) hform rfl fun j => intOut_emod ..
  case mul => exact hvt.wideOp (op := fun _ p q => p * q) h rfl (isInt_of_widens (h.accepts hvt)) hform rfl fun j => intOut_emod ..
  case macc => exact hvt.wideOp (op := fun d p q => d + p * q) h rfl (isInt_of_widens (h.accepts hvt)) hform rfl fun j => intOut_emod ..
/-- The narrowing instructions compute exactly, and wrap or clamp to the width (R160). -/
theorem vectorNarrowElements (x : Bool) (vm : MReg) (vd vs1 vs2 : VReg) :
    ∀ op ∈ vectorNarrowOps, s.VectorReady (op.1 x vm vd vs1 vs2) →
      s.MapsInts (op.1 x vm vd vs1 vs2) x vm e.width (·.velt e.width vd) (OtherRows s · vd) fun j =>
        op.2 e.width e.isSigned (extElt (2 * e.width) e.isSigned (s.gelt (2 * e.width) vs1 j)) (s.velt e.width vs2 j % (2 * e.width)) := by
  obtain rfl := hvt.et
  simp only [vectorNarrowOps, List.forall_mem_cons, List.not_mem_nil, false_imp_iff, implies_true, and_true]
  refine ⟨fun h => ?shift, fun h => ?clip⟩ <;> have hwhole := EType.ne_t6_of_isInt (isInt_of_widens (h.accepts hvt))
  case shift =>
    refine (hvt.mapsRow h rfl rfl).ints fun j => ?_
    rw [← hvt.int2, ← hvt.cur_whole hwhole, VArgs.arith, intOut_emod, Nat.cast_pow, Nat.cast_ofNat]
  case clip =>
    refine (hvt.mapsRow h rfl rfl).ints fun j => ?_
    rw [← hvt.int2, ← hvt.cur_whole hwhole, satOut_emod]
    push_cast
    rfl

/-! Floating point and conversions (R106, R117, R161, R167, R169). -/

/-- An element as an instruction reads it as a floating-point value (R161). -/
theorem State.VectorType.fp (h : e.isFp = true) (v : VReg) (j : Nat) : (s.me.vargs s.sh).fp v j = e.fmt.decode (s.velt e.width v j) := by
  rw [VArgs.fp, hvt.et, hvt.cur_whole (EType.ne_t6_of_isFp h)]
/-- An instruction that rounds the values of elements (R161). -/
theorem State.VectorType.fpOp {i : Instr} {f : VArgs → VEff} {x : Bool} {vm : MReg} {vd vs1 vs2 : VReg} {op : Fp → Fp → Fp → Fp × FFlags}
    (h : s.VectorReady i) (hf : vaEff i = some f) (hfp : e.isFp = true)
    (hmap : f (s.me.vargs s.sh) = (s.me.vargs s.sh).mapElts x vm (s.me.vargs s.sh).et.width vd fun j =>
      (s.me.vargs s.sh).rounded (op ((s.me.vargs s.sh).fp vd j) ((s.me.vargs s.sh).fp vs1 j) ((s.me.vargs s.sh).fp vs2 j))) :
    s.MapsRow i x vm vd e.width fun j => (s.me.vargs s.sh).rounded
      (op (e.fmt.decode (s.velt e.width vd j)) (e.fmt.decode (s.velt e.width vs1 j)) (e.fmt.decode (s.velt e.width vs2 j))) := by
  simp only [hvt.fp hfp] at hmap
  exact hvt.mapsRow h hf hmap
/-- The floating-point instructions round each exact value once (R117, R161). -/
theorem vectorFpElements (x : Bool) (vm : MReg) (vd vs1 vs2 : VReg) : ∀ op ∈ vectorFpOps, s.VectorReady (op.1 x vm vd vs1 vs2) →
    s.MapsRow (op.1 x vm vd vs1 vs2) x vm vd e.width fun j => (s.me.vargs s.sh).rounded (op.2 s.sh.rm
      (e.fmt.decode (s.velt e.width vd j)) (e.fmt.decode (s.velt e.width vs1 j)) (e.fmt.decode (s.velt e.width vs2 j))) := by
  simp only [vectorFpOps, List.forall_mem_cons, List.not_mem_nil, false_imp_iff, implies_true, and_true]
  refine ⟨fun h => ?add, fun h => ?sub, fun h => ?mul, fun h => ?div, fun h => ?macc, fun h => ?nmacc⟩
  case add => exact hvt.fpOp (op := fun _ p q => Fp.add _ p q) h rfl (h.accepts hvt) rfl
  case sub => exact hvt.fpOp (op := fun _ p q => Fp.add _ p q.negate) h rfl (h.accepts hvt) rfl
  case mul => exact hvt.fpOp (op := fun _ p q => p.mul q) h rfl (h.accepts hvt) rfl
  case div => exact hvt.fpOp (op := fun _ p q => p.div q) h rfl (h.accepts hvt) rfl
  case macc => exact hvt.fpOp (op := fun d p q => Fp.fma _ p q d) h rfl (h.accepts hvt) rfl
  case nmacc => exact hvt.fpOp (op := fun d p q => Fp.fma _ p.negate q d.negate) h rfl (h.accepts hvt) rfl
/-- `vcvt` converts each active element (R167). -/
theorem vectorConversion {x : Bool} {vm : MReg} {src : EType} {vd vs1 : VReg} (h : s.VectorReady (.vcvt x vm src vd vs1)) :
    s.MapsRow (.vcvt x vm src vd vs1) x vm vd e.width fun j => convert src e s.sh.rm (src.clean (s.velt src.width vs1 j)) := by
  obtain rfl := hvt.et
  refine hvt.mapsRow h rfl ?_
  simp only [s.velt_eq]
  rfl
/-- The result of decoding a code under the scale of its block (R169). -/
def decodedOut (k : Nat) (c : Fp) : EltOut :=
  if k = 255 ∨ c.isNan = true then { val := fp32.nanBits } else fpOut (fp32.round .rne (c.scaleBy ((k : Int) - 127)))
/-- `vdecb` decodes each active code under the scale of its block (R169). -/
theorem vectorDecoding {x : Bool} {vm : MReg} {vd vs1 vs2 : VReg} (hform : wellFormed (.vdecb x vm vd vs1 vs2) = true)
    (h : s.VectorReady (.vdecb x vm vd vs1 vs2)) : s.MapsElts (.vdecb x vm vd vs1 vs2) x vm vd 32 4 fun j =>
      decodedOut ((SMap.get 0 s.me.vregs (8 * vs2.val + j / s.sh.vlc.toNat)).toNat / 2 ^ (8 * (j % s.sh.vlc.toNat / 16)) % 256)
        (decTap (e == .t6) (s.velt 8 vs1 j)) := by
  have htap : e.isTap = true := h.accepts hvt
  refine hvt.mapsElts h rfl ?_ ⟨by decide, by decide, group_room (by decide) hform⟩ (EType.cols_le_four htap)
  obtain rfl := hvt.et
  have hcode (j : Nat) : decTap ((s.me.vargs s.sh).et == .t6) (s.velt 8 vs1 j) = decTap ((s.me.vargs s.sh).et == .t6) ((s.me.vargs s.sh).cur vs1 j) := by
    rw [hvt.cur, decTap_clean htap, EType.width_of_isTap htap]
  have hrow (r : Nat) : SMap.get 0 s.me.vregs (8 * vs2.val + r) = VRegs.row s.me.vregs vs2.val r := by
    rw [VRegs.row, Nat.mod_eq_of_lt vs2.isLt]
  simp only [hcode, hrow]
  rfl
end

/-- The value that decoding gives is a word (R169). -/
theorem decodedOut_val (k : Nat) (c : Fp) : (decodedOut k c).val % 2 ^ 32 =
    if k = 255 ∨ c.isNan = true then 0x7FC00000 else (fp32.round .rne (c.scaleBy ((k : Int) - 127))).1 % 2 ^ 32 := by
  unfold decodedOut
  split
  · rfl
  · rfl

/-- Settles O32: each family's element function gives the stated elements, in one register or in a group. -/
theorem vectorElementsAreExact : Obligations.VectorElementsAreExact := by
  refine ⟨fun x vm vd vs1 vs2 e s hvt => vectorIntegerElements x vm vd vs1 vs2 hvt, fun x vm vd vs1 vs2 e s hvt =>
    ⟨vectorWideElements hvt x vm vd vs1 vs2, fun op hop _ => vectorNarrowElements hvt x vm vd vs1 vs2 op hop⟩,
    fun x vm vd vs1 vs2 e src s hvt => ⟨fun op hop h r g hr hg => ?float, fun h => ?convert, fun hform h => ?decode⟩⟩
  case float =>
    obtain ⟨t, hnext, hdone, hrows, hx, hmasks, hfcsr, helt⟩ := vectorFpElements hvt x vm vd vs1 vs2 op hop h
    simp only [← hr] at hfcsr helt
    have hflags (j : Nat) : ((s.me.vargs s.sh).rounded (r j)).flags = g j := by rw [hg, VArgs.rounded, hvt.et]; rfl
    have hval (j : Nat) : ((s.me.vargs s.sh).rounded (r j)).val = (e.fmt.round s.sh.rm (r j).1).1 := by rw [VArgs.rounded, hvt.et]; rfl
    have hexc (j : Nat) : ((s.me.vargs s.sh).rounded (r j)).exc = excBit (g j) := by rw [← hflags]; rfl
    simp only [hflags, hval, hexc] at hfcsr helt
    refine ⟨t, hnext, hdone, hrows, hx, hmasks, hfcsr, fun j hj => ⟨fun hact => ?_, (helt j hj).2⟩⟩
    obtain ⟨hv, hb⟩ := (helt j hj).1 hact
    exact ⟨hv, fun hX => by rw [hb hX, excBit, bne_iff_ne]⟩
  case convert =>
    obtain ⟨t, hnext, hdone, hrows, hx, hmasks, -, helt⟩ := vectorConversion hvt h
    refine ⟨t, hnext, hdone, hrows, hx, hmasks, fun j hj => ⟨fun hact => ?_, (helt j hj).2⟩⟩
    rw [((helt j hj).1 hact).1, convert_val _ _ _ (src.clean_lt _)]
  case decode =>
    obtain ⟨t, hnext, hdone, hgroup, hx, hmasks, -, helt⟩ := vectorDecoding hvt hform h
    refine ⟨t, hnext, hdone, hgroup, hx, hmasks, fun j hj k c hk hc => ⟨fun hact => ?_, (helt j hj).2⟩⟩
    rw [((helt j hj).1 hact).1, decodedOut_val, hk, hc]

end Sys2Proof.Machine

/-! PROOFS. Vector loads, stores and atomics in scratchpads (R150 to R157, R205): elements performed one after another, what one element's
access does on the way, and what an instruction has done once each element is performed. -/

namespace Sys2Proof.Machine

/-! Elements performed one after another, in the order that is chosen (R141, R153). -/

/-- A list without duplicates, of what a list holds (R141). -/
theorem nodup_eraseDups (l : List Nat) : l.eraseDups.Nodup := by
  match l with
  | [] => exact List.nodup_nil
  | i :: l =>
    have := List.length_filter_le (fun b => !b == i) l
    rw [List.eraseDups_cons, List.nodup_cons]
    exact ⟨by simp, nodup_eraseDups _⟩
termination_by l.length

/-- Whichever elements have been performed, each element of a list that is left is performed next: it neither stops nor waits for room, and P
relates the elements performed to the state. -/
def PerformsEach (f : State → Nat → Res State) (room : State → Nat → Bool) (P : List Nat → State → Prop) (l : List Nat) : Prop :=
  ∀ i ∈ l, ∀ d u, i ∉ d → P d u → room u i = true ∧ ∃ t, f u i = .ok t t ∧ P (d ++ [i]) t

section
variable {f : State → Nat → Res State} {room : State → Nat → Bool} {P : List Nat → State → Prop} {d : List Nat} {s : State} {n : Nat}
/-- The elements of a list are all performed (R141). -/
theorem State.eachElt_performsEach {l : List Nat} (hl : PerformsEach f room P l) (hnodup : (d ++ l).Nodup) (hn : l.length ≤ n) (hs : P d s) :
    ∃ t, s.eachElt f room n l = (t, l, .none) ∧ P (d ++ l) t := by
  induction l generalizing d s n with
  | nil => exact ⟨s, rfl, by rwa [List.append_nil]⟩
  | cons i l ih =>
    obtain ⟨m, rfl⟩ : ∃ m, n = m + 1 := ⟨n - 1, by simp at hn; omega⟩
    have hfresh : i ∉ d := fun hi => (List.nodup_append.1 hnodup).2.2 i hi i (List.mem_cons_self ..) rfl
    obtain ⟨hroom, t, ht, hP⟩ := hl i (List.mem_cons_self ..) d s hfresh hs
    rw [List.append_cons] at hnodup ⊢
    obtain ⟨u, hu, hPu⟩ := ih (fun j hj => hl j (List.mem_cons_of_mem _ hj)) hnodup (by simpa using hn) hP
    exact ⟨u, by simp [State.eachElt, hroom, ht, hu], hPu⟩
/-- Where no element stops, those that come first are performed as any are (R141). -/
theorem State.eachEarly_of_eachElt {l d : List Nat} {t : State} (h : s.eachElt f room n l = (t, d, .none)) : s.eachEarly f room n l = (t, d) := by
  induction l generalizing d s n with
  | nil =>
    obtain ⟨rfl, rfl, -⟩ := h
    rfl
  | cons i l ih =>
    rw [State.eachElt] at h
    rw [State.eachEarly]
    split at h
    · cases h
    · next hroom =>
      rw [if_neg hroom]
      cases hi : f s i with
      | ok v u =>
        simp only [hi, Prod.mk.injEq] at h ⊢
        obtain ⟨rfl, rfl, hstop⟩ := h
        rw [ih (Prod.ext rfl (Prod.ext rfl hstop))]
        exact ⟨rfl, rfl⟩
      | fault u c v => rw [hi] at h; cases h
      | wait u p => rw [hi] at h; cases h
/-- With nothing chosen about steps, one step performs any elements of a register (R153). -/
theorem State.batch_whole (h : s.elems.batch = none) : s.batch = 4096 := by rw [State.batch, h]
/-- The elements chosen to come first are of those left (R141). -/
theorem State.chosen_subset (s : State) (o : Bool) (todo : List Nat) : s.chosen o todo ⊆ todo := fun i hi => by
  rw [State.chosen] at hi
  split at hi
  · cases hi
  · simp at hi
    exact hi.2
/-- No element is chosen twice (R141). -/
theorem State.chosen_nodup (s : State) (o : Bool) (todo : List Nat) : (s.chosen o todo).Nodup := by
  rw [State.chosen]
  split
  · exact List.nodup_nil
  · exact nodup_eraseDups _
/-- The elements left are all performed, in one order or another, which with O = 1 is the one in which they stand (R141, R153). -/
theorem State.performElts_performsEach {todo : List Nat} (hl : PerformsEach f room P todo) (hnodup : todo.Nodup) (hlen : todo.length ≤ 4096)
    (hbatch : s.elems.batch = none) (hs : P [] s) (o : Bool) (may : Nat → Bool) :
    ∃ t d, s.performElts f room o may todo = (t, d, .none) ∧ P d t ∧ (∀ i, i ∈ d ↔ i ∈ todo) ∧ (o = true → d = todo) := by
  rw [← s.batch_whole hbatch] at hlen
  cases hfirst : (s.chosen o todo).filter may with
  | nil =>
    obtain ⟨t, ht, hP⟩ := State.eachElt_performsEach hl (d := []) hnodup hlen hs
    exact ⟨t, todo, by simp only [State.performElts, hfirst, List.isEmpty_nil, if_true, ht], hP, fun _ => Iff.rfl, fun _ => rfl⟩
  | cons i l =>
    obtain ⟨first, hdef⟩ : ∃ first, first = i :: l := ⟨_, rfl⟩
    rw [← hdef] at hfirst
    have hsub : first ⊆ todo := fun j hj => s.chosen_subset o todo (List.mem_of_mem_filter (hfirst ▸ hj))
    have hnodupFirst : first.Nodup := hfirst ▸ (s.chosen_nodup o todo).filter _
    have hiff (j : Nat) : j ∈ first ++ todo.filter (fun j => !(first.contains j)) ↔ j ∈ todo := by
      by_cases hj : j ∈ first
      · simp [hj, hsub hj]
      · simp [hj]
    have hall : (first ++ todo.filter fun j => !(first.contains j)).Nodup :=
      List.nodup_append.2 ⟨hnodupFirst, hnodup.filter _, fun j hj k hk hjk => by simp [← hjk, hj] at hk⟩
    have hcount := (List.subperm_of_subset hall fun j hj => (hiff j).1 hj).length_le.trans hlen
    rw [List.length_append] at hcount
    obtain ⟨t, ht, hPt⟩ := State.eachElt_performsEach (fun j hj => hl j (hsub hj)) (d := []) hnodupFirst ((Nat.le_add_right ..).trans hcount) hs
    obtain ⟨u, hu, hPu⟩ := State.eachElt_performsEach (n := s.batch - first.length) (fun j hj => hl j (List.mem_of_mem_filter hj)) hall
      (Nat.le_sub_of_add_le' hcount) hPt
    refine ⟨u, _, ?_, hPu, hiff, fun ho => ?_⟩
    · have hne : first.isEmpty = false := by rw [hdef]; rfl
      simp only [State.performElts, hfirst, hne, Bool.false_eq_true, if_false, State.eachEarly_of_eachElt ht, hu]
    · rw [ho] at hfirst
      exact absurd (hfirst.trans hdef) (List.cons_ne_nil _ _).symm
end

/-! Fields of scratchpads (R205): what writes of them leave of the others. -/

/-- The bytes of the scratchpads of all cores, by core and offset (R204). -/
abbrev Pads := Nat → Nat → Byte
/-- The number that the n bytes at a window address make. -/
def Pads.field (b : Pads) (a n : Nat) : Nat := littleEndian (fun j => b (windowCore a) (windowOff a + j)) n
/-- The byte of a core at an offset lies in the n bytes at a window address. -/
abbrev InField (a n c o : Nat) : Prop := c = windowCore a ∧ windowOff a ≤ o ∧ o < windowOff a + n
/-- The scratchpads with n bytes at a window address written. -/
def Pads.putField (b : Pads) (a n : Nat) (v : Word) : Pads := fun c o => if InField a n c o then byteAt v (o - windowOff a) else b c o
/-- The bytes at two window addresses do not meet. -/
def Apart (n a a' : Nat) : Prop := windowCore a = windowCore a' → windowOff a + n ≤ windowOff a' ∨ windowOff a' + n ≤ windowOff a

/-- The bytes of a number make its low bits. -/
theorem littleEndian_byteAt (w : Word) (n : Nat) : littleEndian (byteAt w) n = w.toNat % 2 ^ (8 * n) := by
  induction n with
  | zero => simp [littleEndian, Nat.mod_one]
  | succ n ih =>
    rw [littleEndian, ih, byteAt, BitVec.extractLsb'_toNat, Nat.shiftRight_eq_div_pow, Nat.mul_succ, Nat.pow_add, Nat.mod_mul,
      Nat.mul_comm (2 ^ (8 * n))]
/-- Bytes that agree make one number. -/
theorem littleEndian_congr {f g : Nat → Byte} {n : Nat} (h : ∀ i < n, f i = g i) : littleEndian f n = littleEndian g n := by
  induction n with
  | zero => rfl
  | succ n ih => rw [littleEndian, littleEndian, ih fun i hi => h i (by omega), h n (by omega)]

/-- A field of n bytes has 8 n bits. -/
theorem Pads.field_lt (b : Pads) (a n : Nat) : b.field a n < 2 ^ (8 * n) := littleEndian_lt _ n

section
variable (b : Pads) {a n : Nat} {v : Word}
/-- A field just written. -/
theorem Pads.field_putField_self : (b.putField a n v).field a n = v.toNat % 2 ^ (8 * n) := by
  have hbyte : ∀ i < n, b.putField a n v (windowCore a) (windowOff a + i) = byteAt v i := fun i hi => by
    rw [Pads.putField, if_pos ⟨rfl, by omega, by omega⟩, Nat.add_sub_cancel_left]
  rw [Pads.field, littleEndian_congr hbyte, littleEndian_byteAt]
/-- A byte outside the field written. -/
theorem Pads.putField_outside {c o : Nat} (h : ¬ InField a n c o) : b.putField a n v c o = b c o := if_neg h
/-- A field apart from the one written. -/
theorem Pads.field_putField_apart {a' : Nat} (h : Apart n a a') : (b.putField a n v).field a' n = b.field a' n :=
  littleEndian_congr fun i hi => b.putField_outside (by rintro ⟨hc, hlo, hhi⟩; have := h hc.symm; omega)
end

/-- The scratchpads once the elements of a list have been stored in turn, each with its address and value (R153). -/
def Pads.putFields (b : Pads) (n : Nat) (a : Nat → Nat) (v : Nat → Word) (d : List Nat) : Pads := d.foldl (fun b i => b.putField (a i) n (v i)) b

section
variable (b : Pads) {n : Nat} {a : Nat → Nat} {v : Nat → Word}
/-- One element more. -/
theorem Pads.putFields_append (d : List Nat) (i : Nat) : b.putFields n a v (d ++ [i]) = (b.putFields n a v d).putField (a i) n (v i) :=
  List.foldl_append
/-- A byte that lies in no element. -/
theorem Pads.putFields_outside {d : List Nat} {c o : Nat}
    (h : ∀ i ∈ d, windowCore (a i) = c → o < windowOff (a i) ∨ windowOff (a i) + n ≤ o) : b.putFields n a v d c o = b c o := by
  refine List.foldlRecOn (motive := fun p : Pads => p c o = b c o) _ _ rfl fun p hp i hi => ?_
  rw [p.putField_outside fun hin => ?_, hp]
  obtain ⟨hcore, hlo, hhi⟩ := hin
  have := h i hi hcore.symm
  omega
/-- A field apart from every element. -/
theorem Pads.field_putFields_apart {d : List Nat} {a' : Nat} (h : ∀ i ∈ d, Apart n (a i) a') :
    (b.putFields n a v d).field a' n = b.field a' n := by
  refine List.foldlRecOn (motive := fun p : Pads => p.field a' n = b.field a' n) _ _ rfl fun p hp i hi => ?_
  rw [p.field_putField_apart (h i hi), hp]
/-- Of elements at one address the one stored last remains, which is the highest where they are stored in ascending order (R153). -/
theorem Pads.field_putFields_last {d : List Nat} (h : ∀ i ∈ d, ∀ j ∈ d, a i = a j ∨ Apart n (a i) (a j)) {i : Nat} (hi : i ∈ d) :
    ∃ k ∈ d, a k = a i ∧ (d.Pairwise (· < ·) → ∀ j ∈ d, a j = a i → j ≤ k) ∧
      (b.putFields n a v d).field (a i) n = (v k).toNat % 2 ^ (8 * n) := by
  induction d using List.reverseRecOn with
  | nil => cases hi
  | append_singleton d l ih =>
    rw [b.putFields_append]
    by_cases hl : a l = a i
    · refine ⟨l, by simp, hl, fun hsorted j hj _ => ?_, by rw [← hl, Pads.field_putField_self]⟩
      obtain hj | hj := List.mem_append.1 hj
      · exact ((List.pairwise_append.1 hsorted).2.2 j hj l (by simp)).le
      · exact (List.mem_singleton.1 hj).le
    · have hid : i ∈ d := by
        obtain hi | hi := List.mem_append.1 hi
        · exact hi
        · exact absurd (congrArg a (List.mem_singleton.1 hi).symm) hl
      obtain ⟨k, hk, haddr, hlast, hfield⟩ := ih (fun i hi j hj => h i (by simp [hi]) j (by simp [hj])) hid
      refine ⟨k, by simp [hk], haddr, fun hsorted j hj hja => ?_, ?_⟩
      · obtain hj | hj := List.mem_append.1 hj
        · exact hlast (List.pairwise_append.1 hsorted).1 j hj hja
        · exact absurd (List.mem_singleton.1 hj ▸ hja) hl
      · have hapart := (h l (by simp) i (by simp [hid])).resolve_left hl
        rw [Pads.field_putField_apart _ hapart, hfield]
end

/-! A vector memory instruction on its way (R128, R141): what may differ from the state in which it issued. -/

/-- Of a core, what the test of a window address looks at is as before: its buffer, whether it is out of use, and the size of its scratchpad;
and no unit there has come to be poisoned (R140, R204, R205). -/
def Core.SameTests (a b : Core) : Prop :=
  b.sbuf = a.sbuf ∧ b.fenced = a.fenced ∧ b.lost = a.lost ∧ b.ctx.units = a.ctx.units ∧
    ∀ j, SMap.get false a.ctx.spoison j = false → SMap.get false b.ctx.spoison j = false
/-- A core is its own. -/
theorem Core.SameTests.rfl {a : Core} : a.SameTests a := ⟨Eq.refl _, Eq.refl _, Eq.refl _, Eq.refl _, fun _ h => h⟩
/-- A vector memory instruction of the thread in focus is on its way: its registers hold `regs`, scratchpads hold the bytes `b`, the shuttle may
have been woken, and nothing else that such an instruction looks at has changed since its issue (R128, R141). -/
structure State.Moved (s : State) (regs : VRegs) (b : Pads) (u : State) : Prop where
  only : u = { s with slots := u.slots, cores := u.cores }
  others : ∀ j, j ≠ s.focus → u.slot j = s.slot j
  me : u.slot s.focus = { s.me.issued with
    vregs := regs, life := (u.slot s.focus).life, woken := (u.slot s.focus).woken, wokeAt := (u.slot s.focus).wokeAt }
  tests : ∀ c, (s.core c).SameTests (u.core c)
  bytes : u.scratchByte = b
/-- Who makes the accesses of the vector instruction of a number of the thread in focus (R88). -/
def State.vecAs (s : State) (q : Nat) : Who := { vf := s.me.vf, core := s.myCore, mode := s.sh.mode, agent := 1, vseq := q }

/-- Elements written at the indices of a list, and at one more (R133). -/
theorem VRegs.putElts_append (m : VRegs) (w v c : Nat) (d : List Nat) (i : Nat) (g : Nat → Nat) :
    m.putElts w v c (d ++ [i]) g = (m.putElts w v c d g).setElt w v (i / c) (i % c) (g i) := List.foldl_append

namespace State.Moved
variable {s u : State} {regs : VRegs} {b : Pads} (hu : s.Moved regs b u)
include hu
/-- The fields of the package beside slots and cores. -/
theorem focus_eq : u.focus = s.focus := by rw [hu.only]
theorem eager_eq : u.eager = s.eager := by rw [hu.only]
theorem elems_eq : u.elems = s.elems := by rw [hu.only]
theorem vf_eq (v : Nat) : u.vf v = s.vf v := by rw [hu.only]; rfl
/-- The fields of the slot beside its vector registers. -/
theorem slot_vf : (u.slot s.focus).vf = s.me.vf := by rw [hu.me]
theorem slot_vregs : (u.slot s.focus).vregs = regs := by rw [hu.me]
theorem slot_masks : (u.slot s.focus).masks = s.me.masks := by rw [hu.me]
theorem slot_held : (u.slot s.focus).held = s.me.held := by rw [hu.me]
theorem slot_early : (u.slot s.focus).early = s.me.early := by rw [hu.me]
theorem slot_refused : (u.slot s.focus).refused = s.me.refused := by rw [hu.me]
theorem slot_vpoison : (u.slot s.focus).vpoison = s.me.vpoison := by rw [hu.me]
/-- A further change of the slot in focus. -/
theorem updSlot {regs' : VRegs} {g : Slot → Slot} (hg : g (u.slot s.focus) = { s.me.issued with
    vregs := regs', life := (g (u.slot s.focus)).life, woken := (g (u.slot s.focus)).woken, wokeAt := (g (u.slot s.focus)).wokeAt }) :
    s.Moved regs' b (u.updSlot s.focus g) := by
  obtain ⟨honly, hothers, hself⟩ := u.updSlot_onlySlotAt s.focus g
  refine ⟨?_, fun j hj => (hothers j hj).trans (hu.others j hj), by rw [hself]; exact hg, hu.tests, hu.bytes⟩
  rw [honly, hu.only]
/-- A further change of cores. -/
theorem changeCores {v : State} {b' : Pads} (hv : v = { u with cores := v.cores }) (htests : ∀ c, (u.core c).SameTests (v.core c))
    (hbytes : v.scratchByte = b') : s.Moved regs b' v := by
  have hslot : v.slot = u.slot := by rw [hv]; rfl
  refine ⟨?_, by rw [hslot]; exact hu.others, by rw [hslot]; exact hu.me, fun c => ?_, hbytes⟩
  · rw [hv, hu.only]
  · obtain ⟨hsbuf, hfenced, hlost, hunits, hpoison⟩ := hu.tests c
    obtain ⟨hsbuf', hfenced', hlost', hunits', hpoison'⟩ := htests c
    exact ⟨hsbuf'.trans hsbuf, hfenced'.trans hfenced, hlost'.trans hlost, hunits'.trans hunits, fun j hj => hpoison' j (hpoison j hj)⟩
/-- A further change of cores that no vector access would notice. -/
theorem keepCores {v : State} (hv : v = { u with cores := v.cores })
    (h : ∀ c, (u.core c).SameTests (v.core c) ∧ (v.core c).ctx.scratch = (u.core c).ctx.scratch) : s.Moved regs b v :=
  hu.changeCores hv (fun c => (h c).1) (by rw [← hu.bytes]; funext c o; rw [State.scratchByte, (h c).2]; rfl)
/-- A wake on the way (R127). -/
theorem signal : s.Moved regs b (u.signal s.focus) := by
  unfold State.signal
  split
  · split
    · exact hu.updSlot (by rw [hu.me]; rfl)
    · exact hu.updSlot (by rw [hu.me])
  · exact hu
/-- A test of the counters of the thread (R30). -/
theorem counterFell : s.Moved regs b (u.counterFell s.focus) := by
  unfold State.counterFell
  split
  · split
    · exact hu.signal
    · exact hu.signal
    · exact hu
  · exact hu
/-- An element written to a register, with no row poisoned (R140). -/
theorem setElt (hpoison : s.me.vpoison = []) (a : VArgs) (w v i val : Nat) :
    s.Moved (regs.setElt w v (i / a.cols) (i % a.cols) val) b (u.updSlot s.focus fun m => m.setElt a w v i val) := by
  refine hu.updSlot ?_
  rw [Slot.setElt, hu.slot_vpoison, hu.slot_vregs, hpoison, hu.me, ← hpoison]
  simp [SMap.put, SMap.erase, hpoison]
/-- A write of n bytes of a scratchpad, within one 8-byte block (R205). -/
theorem putScratch (v : Word) {a n : Nat} (hfit : a % 8 + n ≤ 8) : s.Moved regs (b.putField a n v)
    (u.updCtx (windowCore a) fun x => x.putScratch (windowOff a / 8) (placeOf v a) (byteMask (a % 8) n)) := by
  refine hu.changeCores (u.updCtx_only _ _) (fun d => ?_) (funext₂ fun d o => ?_)
  · rw [State.core_updCtx]
    split
    · refine ⟨rfl, rfl, rfl, rfl, fun j hj => ?_⟩
      change SMap.get false (SMap.put false (u.core d).ctx.spoison _ false) j = false
      rw [SMap.get_put, hj, ite_self]
    · exact .rfl
  · rw [State.scratchByte, State.core_updCtx, ← hu.bytes, Pads.putField]
    by_cases hd : d = windowCore a
    · simp only [hd, if_true, true_and, CoreCtx.putScratch_field _ _ hfit, InField]
      rfl
    · simp only [hd, if_false, false_and, InField]
      rfl
/-- A window address that the thread may use passes its test, whoever of the thread asks (R204, R221). -/
theorem windowCause_none {a : Nat} (h : s.WindowAllows a) (q : Nat) (write : Bool) : u.windowCause (s.vecAs q) write a = none := by
  obtain ⟨-, -, htest⟩ := h
  have hsaved : u.savedAway (s.vecAs q) = false := by simp [State.savedAway, State.vecAs]
  rw [State.windowTest_eq_none] at htest
  have htest' : u.windowTest (u.whoPart (s.vecAs q)) (s.vecAs q).core (s.vecAs q).agent a = none := by
    rw [State.windowTest_eq_none]
    obtain ⟨-, hfenced, hlost, hunits, -⟩ := hu.tests (windowCore a)
    have hpart : u.whoPart (s.vecAs q) = s.partOfVf s.me.vf := by rw [hu.only]; rfl
    have hin (p c : Nat) : u.inPart p c = s.inPart p c := by rw [hu.only]; rfl
    have hcol (c : Nat) : u.inColumn c = s.inColumn c := by rw [hu.only]; rfl
    have hselvedge (p c d : Nat) : u.selvedgeOk p c d = s.selvedgeOk p c d := by rw [hu.only]; rfl
    have hfence : u.isFenced (windowCore a) = s.isFenced (windowCore a) := by rw [State.isFenced, hfenced, hlost]; rfl
    have hsize : u.scratchSize (windowCore a) = s.scratchSize (windowCore a) := by rw [State.scratchSize, hunits]; rfl
    rw [hpart, hin, hcol, hselvedge, hfence, hsize]
    exact htest
  simp only [State.windowCause, hsaved, Bool.false_eq_true, if_false, htest', Option.map_none]
end State.Moved

/-! The access of one element that lies in a scratchpad (R152, R157, R205). -/

/-- Two multiples of a number that differ are that number apart. -/
theorem add_le_of_dvd {n x y : Nat} (hx : n ∣ x) (hy : n ∣ y) (h : x < y) : x + n ≤ y := by
  have := Nat.le_of_dvd (Nat.sub_pos_of_lt h) (Nat.dvd_sub hy hx)
  omega
/-- An element whose bytes divide 8 and that lies aligned lies in one 8-byte block. -/
theorem fits_of_aligned {a n : Nat} (hn : n ∣ 8) (ha : a % n = 0) : a % 8 + n ≤ 8 :=
  add_le_of_dvd ((Nat.dvd_mod_iff hn).2 (Nat.dvd_of_mod_eq_zero ha)) hn (Nat.mod_lt a (by decide))
/-- Two elements that the thread may access at different addresses do not meet (R204). -/
theorem State.PlainElement.apart {s : State} {n : Nat} {a a' : Word} (hn : n ∣ 8) (h : s.PlainElement n a) (h' : s.PlainElement n a')
    (hne : a ≠ a') : Apart n a.toNat a'.toNat := by
  obtain ⟨halign, ⟨-, hwindow, htest⟩, -⟩ := h
  obtain ⟨halign', ⟨-, hwindow', htest'⟩, -⟩ := h'
  obtain ⟨hplace, -⟩ := State.windowTest_eq_none.1 htest
  obtain ⟨hplace', -⟩ := State.windowTest_eq_none.1 htest'
  have hoff (x : Word) (hx : x.toNat % n = 0) : n ∣ windowOff x.toNat :=
    (Nat.dvd_mod_iff (hn.trans (by decide))).2 (Nat.dvd_of_mod_eq_zero hx)
  have hdiffer (hcore : windowCore a.toNat = windowCore a'.toNat) : windowOff a.toNat ≠ windowOff a'.toNat := fun heq => by
    rw [isWindow, beq_iff_eq] at hwindow hwindow'
    rw [not_or, not_or, not_ne_iff, not_ne_iff] at hplace hplace'
    obtain ⟨hhigh, hlow, -⟩ := hplace
    obtain ⟨hhigh', hlow', -⟩ := hplace'
    unfold windowCore at hcore
    unfold windowOff at heq
    exact hne (BitVec.eq_of_toNat_eq (by omega))
  intro hcore
  obtain hlt | hlt := Nat.lt_or_gt_of_ne (hdiffer hcore)
  · exact .inl (add_le_of_dvd (hoff a halign) (hoff a' halign') hlt)
  · exact .inr (add_le_of_dvd (hoff a' halign') (hoff a halign) hlt)
/-- A number moved to its place in the block. -/
theorem placeOf_ofNat (v a : Nat) : placeOf (BitVec.ofNat 64 v) a = BitVec.ofNat 64 (v * 2 ^ (8 * (a % 8))) := by
  refine BitVec.eq_of_toNat_eq ?_
  rw [placeOf, BitVec.toNat_shiftLeft, BitVec.toNat_ofNat, BitVec.toNat_ofNat, Nat.shiftLeft_eq, Nat.mod_mul_mod]
/-- An access to a window does not look at HOPS (R95). -/
theorem State.withHops_window {α : Type} {s : State} {addr : Word} (h : isWindow addr.toNat = true) (k ew : Nat) (r : Res α) :
    s.withHops k addr ew r = r := by simp [State.withHops, h]

/-- The scratchpads that an access of the thread in focus finds are those of the cores (R204, R330). -/
theorem State.savedAway_vecAs (s u : State) (q : Nat) : u.savedAway (s.vecAs q) = false := by simp [State.savedAway, State.vecAs]
theorem State.windowCtx_vecAs (s u : State) (q c : Nat) : u.windowCtx (s.vecAs q) c = (u.core c).ctx := by
  rw [State.windowCtx, State.savedAway_vecAs, if_neg Bool.false_ne_true]
/-- A buffered store to a window, once its turn has come, writes its bytes (R205). -/
theorem State.performStore_window (s : State) {e : StoreEntry} {a n : Nat} {v : Word} (hpol : e.pol = 4) (hblock : e.block = a / 8)
    (hdata : e.data = placeOf v a) (hmask : e.mask = byteMask (a % 8) n) :
    s.performStore e = s.updCtx (windowCore a) fun x => x.putScratch (windowOff a / 8) (placeOf v a) (byteMask (a % 8) n) := by
  obtain ⟨hcore, hunit⟩ := window_block a
  simp only [State.performStore, hpol, if_true, hblock, hcore, hunit, hdata, hmask]

/-- The entry that a store of n bytes to a window address makes (R228). -/
def Who.windowEntry (w : Who) (k a n v : Nat) : StoreEntry :=
  { shid := k, block := a / 8, data := BitVec.ofNat 64 (v * 2 ^ (8 * (a % 8))), mask := byteMask (a % 8) n
    addr := BitVec.ofNat 64 a, agent := w.agent, pol := 4, vseq := w.vseq }

namespace State.Moved
variable {s u : State} {regs : VRegs} {b : Pads} (hu : s.Moved regs b u) {n : Nat} {a : Word} (h : s.PlainElement n a)
include hu

/-- No store of the core to a block is on its way, so that none asked for there registers (R77). -/
theorem registerWhere_settled {a : Nat} (h : s.WindowSettled a) {p : StoreEntry → Bool} (hp : ∀ x, p x = true → x.block = a / 8) :
    u.registerWhere s.myCore p = u := by
  obtain ⟨hsbuf, -⟩ := hu.tests s.myCore
  refine State.registerWhere_none fun x hx => Bool.eq_false_iff.2 fun hpx => ?_
  exact h x (hsbuf ▸ hx) (hp x hpx)
/-- The field of an element, out of its block. -/
theorem scratchBlock_field {a : Nat} (hfit : a % 8 + n ≤ 8) :
    ((u.core (windowCore a)).ctx.scratchBlock (windowOff a / 8)).toNat / 2 ^ (8 * (a % 8)) % 2 ^ (8 * n) = b.field a n := by
  rw [u.scratchBlock_field hfit, hu.bytes]
  rfl
/-- A store whose block no store of the core is on its way to goes through the buffer at once, where engines do so, and is performed (R225). -/
theorem commitPart_performs (hearly : s.me.early = []) (hrefused : s.me.refused = []) (heager : s.eager = true) {e : StoreEntry}
    (hpol : e.pol = 4) (hshid : e.shid = s.focus) (hsettled : ∀ x ∈ (s.core s.myCore).sbuf, x.block ≠ e.block) :
    ∃ v, u.commitPart s.myCore e = v.performStore e ∧ s.Moved regs b v := by
  obtain ⟨hsbuf, -⟩ := hu.tests s.myCore
  rw [← hsbuf] at hsettled
  have hother : ∀ x ∈ (u.core s.myCore).sbuf, x ≠ e := fun x hx hxe => hsettled x hx (by rw [hxe])
  have hfree : ∀ x ∈ (u.core s.myCore).sbuf, x.ordered e = false := fun x hx => by
    simp [StoreEntry.ordered, StoreEntry.onPage, inPageOrder, hsettled x hx, hpol]
  obtain ⟨t, ht⟩ : ∃ t, t = u.updCore s.myCore fun x => { x with sbuf := x.sbuf ++ [e] } := ⟨_, rfl⟩
  obtain ⟨r, hr⟩ : ∃ r, r = t.updCore s.myCore fun x => { x with sbuf := x.sbuf.erase e } := ⟨_, rfl⟩
  have hbuf : (t.core s.myCore).sbuf = (u.core s.myCore).sbuf ++ [e] := by rw [ht, State.core_updCore_self]
  have hcore : ∀ d, r.core d = u.core d := fun d => by
    by_cases hd : d = s.myCore
    · subst hd
      rw [hr, State.core_updCore_self, hbuf, List.erase_append_right _ fun h => hother _ h rfl, List.erase_cons_head, List.append_nil, ht,
        State.core_updCore_self]
    · rw [hr, (t.updCore_onlyCore _ _).2.1 d hd, ht, (u.updCore_onlyCore _ _).2.1 d hd]
  have hmoved : s.Moved regs b r := hu.keepCores (by rw [hr, ht]; rfl) fun d => by rw [hcore]; exact ⟨.rfl, rfl⟩
  have hnone : (u.slot e.shid).early.isEmpty = true := by rw [hshid, hu.slot_early, hearly]; rfl
  have hregister : t.registerWhere s.myCore (· == e) = r.register s.myCore e := by
    rw [hr]
    exact State.registerWhere_youngest hbuf hother hfree (by rw [ht, hshid]; exact hu.slot_refused.trans hrefused)
  have hte : t.eager = true := by rw [ht]; exact hu.eager_eq.trans heager
  refine ⟨if e.vseq = 0 then r else r.counterFell e.shid, ?_, ?_⟩
  · simp [State.commitPart, hnone, hpol, ← ht, hte, hregister, State.register, State.registerAs]
  · split
    · exact hmoved
    · rw [hshid]; exact hmoved.counterFell
include h
/-- What an access counts in the access log: nothing (R355). -/
theorem noteLog_plain (q : Nat) (acc : Access) (host : Bool) : u.noteLog (s.vecAs q) acc a.toNat host = u := by
  obtain ⟨-, -, -, hlog, -⟩ := h
  exact State.noteLog_unlogged (by rw [hu.vf_eq]; exact hlog) acc host
/-- The unit of an element is not poisoned on the way (R140). -/
theorem spoison_plain : SMap.get false (u.core (windowCore a.toNat)).ctx.spoison (windowOff a.toNat / 8) = false := by
  obtain ⟨-, -, -, -, hpoison⟩ := h
  obtain ⟨-, -, -, -, hkept⟩ := hu.tests (windowCore a.toNat)
  exact hkept _ hpoison
/-- The load of an element reads its bytes and changes nothing (R152). -/
theorem loadElt (hn : n ∣ 8) (hheld : s.me.held = []) (held : Bool) (j : Nat) :
    u.loadElt (s.vecAs 0) s.focus held a j (n * 8) = .ok u (b.field a.toNat n) := by
  obtain ⟨halign, hallowed, hsettled, -, -⟩ := id h
  obtain ⟨hmode, hwindow, -⟩ := id hallowed
  have hwide : 8 ≤ n * 8 := by have := Nat.pos_of_dvd_of_pos hn (by decide); omega
  have hmachine : ¬ (s.vecAs 0).mode = .m := hmode
  have hnone : u.registerWhere (s.vecAs 0).core (fun e => e.shid == s.focus && e.pol == 4 && e.block == a.toNat / 8) = u :=
    hu.registerWhere_settled hsettled fun x hx => by simp at hx; exact hx.2
  have hload (m : BitVec 8) : u.load (s.vecAs 0) s.focus a.toNat m false none =
      .ok u ((u.core (windowCore a.toNat)).ctx.scratchBlock (windowOff a.toNat / 8)) := by
    simp only [State.load, hmachine, not_isReservedVa_of_isWindow hwindow, hwindow, State.windowRead, hu.windowCause_none hallowed, hnone,
      State.windowCtx_vecAs, hu.spoison_plain h, hu.noteLog_plain h, Bool.false_eq_true, if_false, if_true]
  have hmine : (if held then ((u.slot s.focus).held.filter fun h => h.entry.block == a.toNat / 8).map (·.entry) else []) = [] := by
    rw [hu.slot_held, hheld]; simp
  simp only [State.loadElt, hwide, if_true, Nat.mul_div_cancel n (by decide : 0 < 8), halign, ne_eq, not_true_eq_false, if_false, State.loadN,
    hload, hmine, overlay, List.foldl_nil, Res.bind_ok, hu.scratchBlock_field (fits_of_aligned hn halign)]
/-- The store of an element writes its bytes (R152). -/
theorem storeElt (hn : n ∣ 8) (hearly : s.me.early = []) (hrefused : s.me.refused = []) (heager : s.eager = true) (q j v : Nat) :
    ∃ t, u.storeElt (s.vecAs q) s.focus a j (n * 8) v = .ok t () ∧ s.Moved regs (b.putField a.toNat n (BitVec.ofNat 64 v)) t := by
  obtain ⟨halign, hallowed, hsettled, -, -⟩ := id h
  obtain ⟨hmode, hwindow, -⟩ := id hallowed
  have hwide : 8 ≤ n * 8 := by have := Nat.pos_of_dvd_of_pos hn (by decide); omega
  have hmachine : ¬ (s.vecAs q).mode = .m := hmode
  obtain ⟨r, hcommit, hr⟩ := hu.commitPart_performs hearly hrefused heager (e := (s.vecAs q).windowEntry s.focus a.toNat n v) rfl rfl hsettled
  rw [r.performStore_window rfl rfl (placeOf_ofNat ..).symm rfl] at hcommit
  have hmoved := hr.putScratch (BitVec.ofNat 64 v) (fits_of_aligned hn halign)
  rw [← hcommit] at hmoved
  refine ⟨_, ?_, hmoved⟩
  simp only [State.storeElt, hwide, if_true, Nat.mul_div_cancel n (by decide : 0 < 8), halign, ne_eq, not_true_eq_false, if_false, State.storeN,
    State.store, hmachine, not_isReservedVa_of_isWindow hwindow, hwindow, State.windowStore, hu.windowCause_none hallowed, Bool.false_eq_true]
  exact congrArg (Res.ok · ()) (hmoved.noteLog_plain h q .store false)
/-- A read-modify-write of the n bytes of an element reads its block and writes its bytes, in one step (R157, R205). -/
theorem atomic (hfit : a.toNat % 8 + n ≤ 8) (v : Word) {f : Word → Option Word}
    (hf : f ((u.core (windowCore a.toNat)).ctx.scratchBlock (windowOff a.toNat / 8)) = some (placeOf v a.toNat)) :
    ∃ t, u.atomic (s.vecAs 0) s.focus a.toNat (byteMask (a.toNat % 8) n) f =
      .ok t ((u.core (windowCore a.toNat)).ctx.scratchBlock (windowOff a.toNat / 8)) ∧ s.Moved regs (b.putField a.toNat n v) t := by
  obtain ⟨-, hallowed, hsettled, -, -⟩ := id h
  obtain ⟨hmode, hwindow, -⟩ := id hallowed
  have hmachine : ¬ (s.vecAs 0).mode = .m := hmode
  have hnone : u.registerWhere (s.vecAs 0).core (fun e => e.touches (a.toNat / 8) (byteMask (a.toNat % 8) n)) = u :=
    hu.registerWhere_settled hsettled fun x hx => by simp [StoreEntry.touches] at hx; exact hx.1
  have hmoved := hu.putScratch v hfit
  refine ⟨_, ?_, hmoved⟩
  simp only [State.atomic, hmachine, not_isReservedVa_of_isWindow hwindow, hwindow, hnone, State.windowAtomic, hu.windowCause_none hallowed,
    State.windowCtx_vecAs, hu.spoison_plain h, hf, State.updWindowCtx, State.savedAway_vecAs, Bool.false_eq_true, if_false, if_true,
    hmoved.noteLog_plain h]
end State.Moved

/-! The issue of a vector memory instruction that performs at once, and its completion (R127, R128, R145). -/

/-- The entry that the issue of an instruction by the thread in focus makes (R128). -/
def State.newEntry (s : State) (i : Instr) : VEntry :=
  { seq := s.me.vseq + 1, instr := i, ck := s.sh, word := s.me.word, mate := s.me.mate, wait := s.me.queueWait }
/-- The state in which an instruction that performs as it issues is performed (R128, R129). -/
def State.started (s : State) : State := (s.updMe Slot.issued).markStart s.focus

namespace State.Moved
variable {s u : State} {regs : VRegs} {b : Pads} (hu : s.Moved regs b u)
include hu
/-- A change of one core that no vector access would notice. -/
theorem updCore (c : Nat) {f : Core → Core} (h : (u.core c).SameTests (f (u.core c)) ∧ (f (u.core c)).ctx.scratch = (u.core c).ctx.scratch) :
    s.Moved regs b (u.updCore c f) := by
  refine hu.keepCores rfl fun d => ?_
  by_cases hd : d = c
  · rw [hd, State.core_updCore_self]; exact h
  · rw [(u.updCore_onlyCore c f).2.1 d hd]; exact ⟨.rfl, rfl⟩
/-- Events counted on the way (R357). -/
theorem countN (c code n : Nat) (m : Option Mode) : s.Moved regs b (u.countN c code n m) := by
  obtain ⟨hothers, pmc, pmsel, hcore⟩ := u.countN_counters c code n m
  refine hu.keepCores (u.countN_only ..) fun d => ?_
  by_cases hd : d = c
  · rw [hd, hcore]; exact ⟨.rfl, rfl⟩
  · rw [hothers d hd]; exact ⟨.rfl, rfl⟩
/-- The unit's start (R129). -/
theorem markStart (k : Nat) : s.Moved regs b (u.markStart k) :=
  (hu.updCore (k / 16) (f := fun c => { c with vptr := (k % 16 + 1) % 16, vstart := some u.arith }) ⟨.rfl, rfl⟩).countN ..
/-- An acquire at cluster scope or wider, with no load taken ahead (R215, R228, R229). -/
theorem acquire (hearly : s.me.early = []) (c : Nat) (m : Option Mode) : s.Moved regs b ((u.forget s.focus).discard c m) := by
  have hforget : u.forget s.focus = u := if_pos (by rw [hu.slot_early, hearly]; rfl)
  rw [hforget]
  exact (hu.updCore c ⟨.rfl, rfl⟩).countN ..
/-- The instruction completes with what it has done (R128). -/
theorem completes (hidle : s.VectorIdle) : VectorDone s u.complete ∧ u.complete.me.vregs = regs ∧ u.complete.me.masks = s.me.masks ∧
    (∀ r, u.complete.x r = s.x r) ∧ u.complete.scratchByte = b := by
  have hme : u.me = u.slot s.focus := by rw [State.me, hu.focus_eq]
  obtain ⟨hothers, hself⟩ := u.complete_stepsOn
  rw [State.sh, hme, hu.me] at hself
  have hsh : u.complete.sh = { s.sh with vresume := 0, pc := s.sh.pc + 4 } := by rw [State.sh, hself]; rfl
  have honly : u.complete = { s with slots := u.complete.slots, cores := u.complete.cores } := by
    rw [State.complete, (u.updMe_onlySlot _).1, hu.only]
  have hidle' : u.complete.VectorIdle := by
    rw [State.VectorIdle, hself]
    exact hidle
  have hothers' (j : Nat) (hj : j ≠ s.focus) : u.complete.slot j = s.slot j := (hothers j (by rwa [hu.focus_eq])).trans (hu.others j hj)
  have hbyte (a : Nat) : u.complete.byte a = s.byte a := State.byte_of_mem (by rw [honly]; exact ⟨rfl, rfl⟩) a
  exact ⟨⟨⟨honly, hbyte⟩, hothers', by rw [hsh], by rw [hsh], hidle', by rw [hsh], by rw [hsh], by rw [hsh], by rw [hsh]⟩,
    by rw [hself], by rw [hself], fun r => by rw [State.x, hsh]; rfl, hu.bytes⟩
end State.Moved

/-- The state in which a ready instruction is performed. -/
theorem State.started_moved (s : State) : s.Moved s.me.vregs s.scratchByte s.started := by
  have hissued : s.Moved s.me.vregs s.scratchByte (s.updMe Slot.issued) := by
    have hslot : (s.updMe Slot.issued).slot s.focus = s.me.issued := State.slot_setSlot_self ..
    exact ⟨rfl, fun _ hj => s.slot_updMe_of_ne _ hj, by rw [hslot], fun _ => .rfl, rfl⟩
  exact hissued.markStart s.focus
/-- With no poisoned row, a vector load, store or atomic is performed by its elements (R140, R150). -/
theorem State.vPerform_vmem {s : State} {k : Nat} {e : VEntry} (hpoison : (s.slot k).vpoison = []) (hva : vaEff e.instr = none)
    (hq : isQueueOp e.instr = false) : s.vPerform k e = s.vmem k e := by
  have hclean : (s.slot k).readsPoison e = false := by rw [Slot.readsPoison, hpoison]; rfl
  simp only [State.vPerform, hclean, Bool.false_eq_true, if_false, hva]
  split
  · next hi => rw [hi] at hq; cases hq
  · next hi => rw [hi] at hq; cases hq
  · rfl
/-- A ready vector memory instruction whose elements are all performed completes with what they have done (R127, R128, R145). -/
theorem State.vmemCompletes {s t : State} {i : Instr} {regs : VRegs} {b : Pads} (h : s.VectorReady i) (hexec : exec i s = s.vIssue i)
    (hva : vaEff i = none) (hq : isQueueOp i = false) (hdone : s.started.vmem s.focus (s.newEntry i) = .done t) (ht : s.Moved regs b t) :
    ∃ t, exec i s = .next t ∧ VectorDone s t ∧ t.me.vregs = regs ∧ t.me.masks = s.me.masks ∧ (∀ r, t.x r = s.x r) ∧ t.scratchByte = b := by
  obtain ⟨hrun, hidle, hlate, hpoison, heager, hpick, hroom⟩ := h
  have hbusy : s.me.vectorBusy = false := hidle.busy
  obtain ⟨hvq, hvrun, hheld, hearly⟩ := id hidle
  have hforget : s.forget s.focus = s := if_pos (by rw [show s.slot s.focus = s.me from rfl, hearly]; rfl)
  have hempty : s.me.vpending = [] := by rw [Slot.vpending, hvq, hvrun]; rfl
  have hperform : s.started.vPerform s.focus (s.newEntry i) = .done t :=
    (State.vPerform_vmem (s.started_moved.slot_vpoison.trans hpoison) hva hq).trans hdone
  refine ⟨t.complete, hexec.trans ?_, ht.completes hidle⟩
  simp only [State.vIssue, hlate, State.gate_mayRun hrun, hempty, List.length_nil, if_false, hroom, Bool.false_eq_true, hforget, ite_self,
    heager, hbusy, hpick, beq_self_eq_true, Bool.not_false, Bool.and_true, if_true]
  change (match s.started.vPerform s.focus (s.newEntry i) with | .done t => _ | .fault t c tv idx => _ | .stall t e2 => _) = _
  rw [hperform]

/-! What an instruction performs, and where (R22, R133, R150). -/

/-- Elements of whole bytes have 1, 2 or 4 of them (R19). -/
theorem dvd_eight_of_width {n : Nat} {e : EType} (h : n * 8 = e.width) : n ∣ 8 := by
  have hwidth : e.width ∣ 8 * 8 := by cases e <;> decide
  exact Nat.dvd_of_mul_dvd_mul_right (by decide) (h ▸ hwidth)
/-- A vector load or store is issued to the vector unit, and has no effect on registers alone (R128, R150). -/
theorem memParts_issues {i : Instr} {p : MemParts} (h : memParts i = some p) :
    vaEff i = none ∧ isQueueOp i = false ∧ ∀ s, exec i s = s.vIssue i := by
  unfold memParts at h
  split at h
  case h_9 => cases h
  all_goals exact ⟨rfl, rfl, fun _ => rfl⟩

section
variable (s : State) (x : Instr)
/-- What the elements of a new entry work on: the registers and masks as they stand (R128, R143). -/
theorem State.entryArgs_started : (s.started.slot s.focus).entryArgs (s.newEntry x) = s.me.vargs s.sh := by
  change (s.started.slot s.focus).vargs s.sh = _
  rw [Slot.vargs, s.started_moved.slot_vregs, s.started_moved.slot_masks]
  rfl
/-- Who makes the accesses of a new entry (R88). -/
theorem State.vecWho_started : s.started.vecWho s.focus s.sh = s.vecAs 0 := by
  rw [State.vecWho, s.started_moved.slot_vf]
  rfl
/-- The elements that a new entry has to perform are those from the start index on (R22). -/
theorem State.left_eq : (s.me.vargs s.sh).left (s.newEntry x) = (List.range s.elements).filter fun i => decide (s.sh.vresume.toNat ≤ i) :=
  List.filter_eq_self.2 fun _ _ => rfl
theorem State.mem_left {i : Nat} : i ∈ (s.me.vargs s.sh).left (s.newEntry x) ↔ s.ActiveElt 0 i := by
  simp [s.left_eq, State.ActiveElt, and_comm]
theorem State.left_sorted : ((s.me.vargs s.sh).left (s.newEntry x)).Pairwise (· < ·) := by
  rw [s.left_eq]
  exact List.pairwise_lt_range.filter _
theorem State.left_nodup : ((s.me.vargs s.sh).left (s.newEntry x)).Nodup := (s.left_sorted x).imp fun h => Nat.ne_of_lt h
theorem State.VectorType.left_length {s : State} {e : EType} (hvt : s.VectorType e) : ((s.me.vargs s.sh).left (s.newEntry x)).length ≤ 4096 := by
  rw [s.left_eq]
  exact (List.length_filter_le _ _).trans (List.length_range.trans_le hvt.elements_le)
end

/-! Loads and stores of elements of whole bytes (R150 to R154). -/

/-- A vector load or store of the thread in focus may perform at once, on aligned elements of n whole bytes in scratchpads: the instruction with
its parts, and the addresses of its elements (R150). -/
structure State.MovesPlain (s : State) (x : Instr) (p : MemParts) (e : EType) (n : Nat) (addr : Nat → Word) : Prop where
  ready : s.VectorReady x
  parts : memParts x = some p
  whole : p.p = false
  type : s.VectorType e
  width : n * 8 = e.width
  notT6 : e ≠ .t6
  batch : s.elems.batch = none
  address : ∀ i, ((s.me.vargs s.sh).addrOf p.p p.rs1 p.form i).1 = addr i
  plain : ∀ i, s.ActiveElt 0 i → s.PlainElement n (addr i)

/-- A load is on its way, and the elements of a list stand in their places (R150). -/
abbrev State.Loaded (s : State) (w : Nat) (vd : VReg) (n : Nat) (addr : Nat → Word) (d : List Nat) (u : State) : Prop :=
  s.Moved (VRegs.putElts s.me.vregs w vd.val s.sh.vlc.toNat d fun i => Pads.field s.scratchByte (addr i).toNat n) s.scratchByte u
/-- A store is on its way, and the elements of a list have been stored in turn (R150, R153). -/
abbrev State.Stored (s : State) (w : Nat) (vd : VReg) (n : Nat) (addr : Nat → Word) (d : List Nat) (u : State) : Prop :=
  s.Moved s.me.vregs (Pads.putFields s.scratchByte n (fun i => (addr i).toNat) (fun i => BitVec.ofNat 64 (s.velt w vd i)) d) u

section
variable {s : State} {x : Instr} {p : MemParts} {e : EType} {n : Nat} {addr : Nat → Word} (h : s.MovesPlain x p e n addr)
include h
/-- The width of its elements in memory (R150). -/
theorem State.MovesPlain.ew : (s.me.vargs s.sh).ew p.p = n * 8 := by
  rw [VArgs.ew, h.whole, if_neg Bool.false_ne_true, h.type.et, h.width]
/-- Its elements are performed as its parts say, and then it is done (R150). -/
theorem State.MovesPlain.vmem {t : State} {d : List Nat} (ht : (if p.store then s.started.vstore s.focus (s.me.vargs s.sh) (s.newEntry x) p
    else s.started.vload s.focus (s.me.vargs s.sh) (s.newEntry x) p) = (t, d, .none)) : s.started.vmem s.focus (s.newEntry x) = .done t := by
  have hparts : memParts (s.newEntry x).instr = some p := h.parts
  simp only [State.vmem, s.entryArgs_started, hparts, ht, stopRes, id]
/-- It completes with what its elements have done (R128). -/
theorem State.MovesPlain.completes {t : State} {d : List Nat} {regs : VRegs} {b : Pads}
    (ht : (if p.store then s.started.vstore s.focus (s.me.vargs s.sh) (s.newEntry x) p
      else s.started.vload s.focus (s.me.vargs s.sh) (s.newEntry x) p) = (t, d, .none)) (hmoved : s.Moved regs b t) :
    ∃ t, exec x s = .next t ∧ VectorDone s t ∧ t.me.vregs = regs ∧ t.me.masks = s.me.masks ∧ (∀ r, t.x r = s.x r) ∧ t.scratchByte = b := by
  obtain ⟨hva, hqueue, hexec⟩ := memParts_issues h.parts
  exact State.vmemCompletes h.ready (hexec s) hva hqueue (h.vmem ht) hmoved
/-- A load writes the bytes of each element to its place, in the order that is chosen (R150, R153). -/
theorem State.MovesPlain.vload : ∃ t d, s.started.vload s.focus (s.me.vargs s.sh) (s.newEntry x) p = (t, d, .none) ∧
    s.Loaded e.width p.vd n addr d t ∧
    (∀ i, i ∈ d ↔ i ∈ (s.me.vargs s.sh).left (s.newEntry x)) ∧ (p.o = true → d = (s.me.vargs s.sh).left (s.newEntry x)) := by
  obtain ⟨-, ⟨-, -, hheld, -⟩, -, hpoison, -⟩ := h.ready
  refine State.performElts_performsEach (P := s.Loaded e.width p.vd n addr)
    (fun i hi d u _ hu => ?_) (s.left_nodup x) (h.type.left_length x) (s.started_moved.elems_eq ▸ h.batch) s.started_moved p.o _
  have hplain := h.plain i ((s.mem_left x).1 hi)
  obtain ⟨-, ⟨-, hwindow, -⟩, -⟩ := id hplain
  have hclean : e.clean ((SMap.get none (s.newEntry x).early i).getD (Pads.field s.scratchByte (addr i).toNat n)) =
      Pads.field s.scratchByte (addr i).toNat n := by
    refine EType.clean_of_lt h.notT6 ?_
    rw [← h.width, Nat.mul_comm n]
    exact Pads.field_lt ..
  have hput := hu.setElt hpoison (s.me.vargs s.sh) e.width p.vd.val i (Pads.field s.scratchByte (addr i).toNat n)
  refine ⟨rfl, u.updSlot s.focus fun m => m.setElt (s.me.vargs s.sh) e.width p.vd.val i (Pads.field s.scratchByte (addr i).toNat n), ?_, ?_⟩
  · simp only [h.ew, h.type.et]
    rw [h.address, State.withHops_window hwindow, show s.started.vecWho s.focus (s.me.vargs s.sh).ck = s.vecAs 0 from s.vecWho_started,
      hu.loadElt hplain (dvd_eight_of_width h.width) hheld]
    simp only [Res.bind_ok, hclean]
  · rw [State.Loaded, VRegs.putElts_append]
    exact hput
/-- A store writes the bytes of each element, in the order that is chosen (R150, R153). -/
theorem State.MovesPlain.vstore (hrefused : s.me.refused = []) :
    ∃ t d, s.started.vstore s.focus (s.me.vargs s.sh) (s.newEntry x) p = (t, d, .none) ∧
      s.Stored e.width p.vd n addr d t ∧
      (∀ i, i ∈ d ↔ i ∈ (s.me.vargs s.sh).left (s.newEntry x)) ∧ (p.o = true → d = (s.me.vargs s.sh).left (s.newEntry x)) := by
  obtain ⟨-, ⟨-, -, -, hearly⟩, -, -, heager, -⟩ := h.ready
  refine State.performElts_performsEach (P := s.Stored e.width p.vd n addr)
    (fun i hi d u _ hu => ?_) (s.left_nodup x) (h.type.left_length x) (s.started_moved.elems_eq ▸ h.batch) s.started_moved p.o _
  have hplain := h.plain i ((s.mem_left x).1 hi)
  obtain ⟨-, ⟨-, hwindow, -⟩, -⟩ := id hplain
  obtain ⟨t, ht, hmoved⟩ := hu.storeElt hplain (dvd_eight_of_width h.width) hearly hrefused heager (s.newEntry x).seq
    ((s.me.vargs s.sh).addrOf p.p p.rs1 p.form i).2 (s.velt e.width p.vd i)
  refine ⟨?_, t, ?_, ?_⟩
  · simp [State.noRoom, hu.eager_eq, heager]
  · simp only [h.ew]
    rw [h.address, State.withHops_window hwindow, h.type.cur_whole h.notT6,
      show s.started.vecWho s.focus (s.me.vargs s.sh).ck = s.vecAs 0 from s.vecWho_started]
    change ((u.storeElt (s.vecAs (s.newEntry x).seq) _ _ _ _ _).bind _) = _
    rw [ht, Res.bind_ok]
  · rw [State.Stored, Pads.putFields_append]
    exact hmoved
end

/-! The forms of vector loads and stores (R150). -/

/-- An index is a sign-extended word of its row (R150). -/
theorem sx_ofNat_field (r k : Nat) : sx (BitVec.ofNat 32 (r / 2 ^ k % 2 ^ 32)) = BitVec.ofInt 64 ((r / 2 ^ k : Int).bmod (2 ^ 32)) := by
  rw [sx_ofNat, result32, Int.natCast_emod, Int.emod_bmod, Int.natCast_ediv, Nat.cast_pow, Nat.cast_ofNat]
/-- The forms are the loads and stores of one kind of address each (R150). -/
theorem State.VectorType.vectorForms_parts {s : State} {e : EType} (hvt : s.VectorType e) {n : Nat} (hn : n * 8 = e.width) {o v : Bool} {vd vi : VReg}
    {rs1 rs2 : XReg} {f : Instr × Instr × (Nat → Word)} (hf : f ∈ s.vectorForms o v vd vi rs1 rs2 n) :
    ∃ form, memParts f.1 = some { store := false, o, v, vd, rs1, form } ∧ memParts f.2.1 = some { store := true, o, v, vd, rs1, form } ∧
      ∀ i, ((s.me.vargs s.sh).addrOf false rs1 form i).1 = f.2.2 i := by
  have hbytes (i : Nat) : (s.me.vargs s.sh).ew false * i / 8 = n * i := by
    rw [VArgs.ew, if_neg Bool.false_ne_true, hvt.et, ← hn, Nat.mul_right_comm, Nat.mul_div_cancel _ (by decide)]
  simp only [State.vectorForms, List.mem_cons, List.not_mem_nil, or_false] at hf
  obtain rfl | rfl | rfl | rfl := hf
  · exact ⟨.unit, rfl, rfl, fun i => by simp only [VArgs.addrOf, hbytes]; rfl⟩
  · exact ⟨.stride rs2, rfl, rfl, fun i => rfl⟩
  · refine ⟨.index vi, rfl, rfl, fun i => ?_⟩
    exact congrArg (s.x rs1 + ·) (sx_ofNat_field ..)
  · exact ⟨.grid rs2, rfl, rfl, fun i => by simp only [VArgs.addrOf, hbytes]; rfl⟩

/-- Numbers written to the active elements of a register stand there, and nothing else of the registers has changed (R133). -/
theorem State.VectorType.elementsWritten {s t : State} {e : EType} (hvt : s.VectorType e) (hdone : VectorDone s t) {vd : VReg} {d : List Nat}
    {g : Nat → Nat} (hregs : t.me.vregs = VRegs.putElts s.me.vregs e.width vd.val s.sh.vlc.toNat d g) (hd : ∀ i, i ∈ d ↔ s.ActiveElt 0 i)
    (hg : ∀ i, g i < 2 ^ e.width) : OtherRows s t vd ∧
    ∀ i, (s.ActiveElt 0 i → t.velt e.width vd i = g i) ∧ (¬ s.ActiveElt 0 i → t.velt e.width vd i = s.velt e.width vd i) := by
  have hreg := hvt.inRegister (l := d) fun i hi => ((hd i).1 hi).2.1
  have helt (i : Nat) : t.velt e.width vd i = if s.ActiveElt 0 i then g i else s.velt e.width vd i := by
    simp only [t.velt_eq, hdone.vlc, hregs, VRegs.elt_putElts hreg, hd, Nat.mod_eq_of_lt (hg i), ← s.velt_eq]
  refine ⟨fun j hj => ?_, fun i => ⟨fun hi => (helt i).trans (if_pos hi), fun hi => (helt i).trans (if_neg hi)⟩⟩
  rw [hregs]
  exact VRegs.get_putElts_of_ne hreg _ _ (by rwa [Nat.mod_eq_of_lt vd.isLt])

section
variable {s : State} {x : Instr} {p : MemParts} {e : EType} {n : Nat} {addr : Nat → Word} (h : s.MovesPlain x p e n addr)
include h
/-- A LOAD PUTS THE BYTES OF EACH ELEMENT IN ITS PLACE (R150). -/
theorem State.MovesPlain.loads (hstore : p.store = false) : ∃ t, exec x s = .next t ∧ VectorDone s t ∧ OtherRows s t p.vd ∧
    t.me.masks = s.me.masks ∧ (∀ r, t.x r = s.x r) ∧ (∀ c b, t.scratchByte c b = s.scratchByte c b) ∧
    ∀ i, i < s.elements → (s.ActiveElt 0 i → t.velt e.width p.vd i = Pads.field s.scratchByte (addr i).toNat n) ∧
      (¬ s.ActiveElt 0 i → t.velt e.width p.vd i = s.velt e.width p.vd i) := by
  obtain ⟨u, d, hload, hmoved, hd, -⟩ := h.vload
  obtain ⟨t, hnext, hdone, hregs, hmasks, hx, hbytes⟩ := h.completes (by rwa [hstore, if_neg Bool.false_ne_true]) hmoved
  have hactive (i : Nat) : i ∈ d ↔ s.ActiveElt 0 i := (hd i).trans (s.mem_left x)
  have hfits (i : Nat) : Pads.field s.scratchByte (addr i).toNat n < 2 ^ e.width := by
    rw [← h.width, Nat.mul_comm n]
    exact Pads.field_lt ..
  obtain ⟨hrows, helts⟩ := h.type.elementsWritten hdone hregs hactive hfits
  exact ⟨t, hnext, hdone, hrows, hmasks, hx, fun c b => by rw [hbytes], fun i _ => helts i⟩
/-- A STORE WRITES THE BYTES OF EACH ELEMENT, and no others, and of elements at one address the one performed last remains (R150, R153). -/
theorem State.MovesPlain.stores (hstore : p.store = true) (hrefused : s.me.refused = []) : ∃ t, exec x s = .next t ∧ VectorDone s t ∧
    t.me.vregs = s.me.vregs ∧ t.me.masks = s.me.masks ∧ (∀ r, t.x r = s.x r) ∧
    (∀ c b, (∀ i, s.ActiveElt 0 i → windowCore (addr i).toNat = c → b < windowOff (addr i).toNat ∨ windowOff (addr i).toNat + n ≤ b) →
      t.scratchByte c b = s.scratchByte c b) ∧
    ∀ i, s.ActiveElt 0 i → ∃ k, s.ActiveElt 0 k ∧ addr k = addr i ∧ (p.o = true → ∀ j, s.ActiveElt 0 j → addr j = addr i → j ≤ k) ∧
      Pads.field t.scratchByte (addr i).toNat n = s.velt e.width p.vd k := by
  obtain ⟨u, d, hperform, hmoved, hd, hsorted⟩ := h.vstore hrefused
  obtain ⟨t, hnext, hdone, hregs, hmasks, hx, hbytes⟩ := h.completes (by rwa [hstore, if_pos rfl]) hmoved
  have hactive (i : Nat) : i ∈ d ↔ s.ActiveElt 0 i := (hd i).trans (s.mem_left x)
  refine ⟨t, hnext, hdone, hregs, hmasks, hx, fun c b hout => ?_, fun i hi => ?_⟩
  · rw [hbytes]
    exact Pads.putFields_outside _ fun i hi => hout i ((hactive i).1 hi)
  · have hapart : ∀ i ∈ d, ∀ j ∈ d, (addr i).toNat = (addr j).toNat ∨ Apart n (addr i).toNat (addr j).toNat := fun i hi j hj =>
      (em (addr i = addr j)).imp (congrArg BitVec.toNat) fun hne =>
        (h.plain i ((hactive i).1 hi)).apart (dvd_eight_of_width h.width) (h.plain j ((hactive j).1 hj)) hne
    obtain ⟨k, hk, haddr, hlast, hfield⟩ := Pads.field_putFields_last s.scratchByte (v := fun i => BitVec.ofNat 64 (s.velt e.width p.vd i)) hapart
      ((hactive i).2 hi)
    have hfits : (BitVec.ofNat 64 (s.velt e.width p.vd k)).toNat % 2 ^ (8 * n) = s.velt e.width p.vd k := by
      have hlt := s.velt_lt e.width p.vd k
      have hword : e.width ≤ 64 := by cases e <;> decide
      rw [BitVec.toNat_ofNat, Nat.mul_comm 8, h.width, Nat.mod_eq_of_lt (hlt.trans_le (Nat.pow_le_pow_right (by decide) hword)), Nat.mod_eq_of_lt hlt]
    refine ⟨k, (hactive k).1 hk, BitVec.eq_of_toNat_eq haddr, fun ho j hj hja => ?_, by rw [hbytes, hfield, hfits]⟩
    exact hlast (by rw [hsorted ho]; exact s.left_sorted x) j ((hactive j).2 hj) (congrArg BitVec.toNat hja)
end

/-! Atomics on 32-bit words (R156, R157). -/

/-- A vector atomic is issued to the vector unit, is no load or store, and has no effect on registers alone (R128, R156). -/
theorem vamoParts_issues {i : Instr} {p : Nat × Order × VReg × XReg × VReg × Scope} (h : vamoParts i = some p) :
    memParts i = none ∧ vaEff i = none ∧ isQueueOp i = false ∧ ∀ s, exec i s = s.vIssue i := by
  unfold vamoParts at h
  split at h
  case h_15 => cases h
  all_goals exact ⟨rfl, rfl, rfl, fun _ => rfl⟩
/-- A vector atomic accepts 32-bit integers alone (R156). -/
theorem vamoParts_accepts {i : Instr} {p : Nat × Order × VReg × XReg × VReg × Scope} (h : vamoParts i = some p) (e : EType) :
    acceptsType i e = (e == .i32 || e == .ui32) := by
  unfold vamoParts at h
  split at h
  case h_15 => cases h
  all_goals rfl

section
variable {a : Nat} (h : a % 4 = 0)
include h
/-- The word that an address names is the field there. -/
theorem wordIn_eq (blk : Word) : wordIn blk a = BitVec.ofNat 32 (blk.toNat / 2 ^ (8 * (a % 8)) % 2 ^ (8 * 4)) := by
  have ha : a % 8 = a / 4 % 2 * 4 := by omega
  refine BitVec.eq_of_toNat_eq ?_
  rw [wordIn, BitVec.toNat_ofNat, ha]
  obtain h0 | h1 := Nat.mod_two_eq_zero_or_one (a / 4)
  · simp [h0]
  · simp [h1, Nat.shiftRight_eq_div_pow]
/-- A word placed in its half is placed as any number of its bytes is. -/
theorem wordAt_eq (v : BitVec 32) : wordAt v a = placeOf (zx v) a := by
  have ha : a % 8 = a / 4 % 2 * 4 := by omega
  rw [wordAt, placeOf, ha]
  obtain h0 | h1 := Nat.mod_two_eq_zero_or_one (a / 4)
  · simp [h0]
  · simp [h1]
end
/-- The bytes of a 32-bit word placed in 64 bits. -/
theorem zx_toNat_mod (v : BitVec 32) : (zx v).toNat % 2 ^ (8 * 4) = v.toNat := by
  have := v.isLt
  rw [zx, BitVec.zeroExtend_eq_setWidth, BitVec.toNat_setWidth]
  omega
/-- The atomic of one element reads its word and writes what it makes of it (R156, R157). -/
theorem State.Moved.atomicWord {s u : State} {regs : VRegs} {b : Pads} (hu : s.Moved regs b u) {a : Word} (h : s.PlainElement 4 a)
    (g : BitVec 32 → BitVec 32) : ∃ t old, u.atomic (s.vecAs 0) s.focus a.toNat (byteMask (a.toNat % 8) 4)
        (fun blk => some (wordAt (g (wordIn blk a.toNat)) a.toNat)) = .ok t old ∧
      wordIn old a.toNat = BitVec.ofNat 32 (b.field a.toNat 4) ∧
      s.Moved regs (b.putField a.toNat 4 (zx (g (BitVec.ofNat 32 (b.field a.toNat 4))))) t := by
  obtain ⟨halign, -⟩ := id h
  have hfit := fits_of_aligned (by decide) halign
  have hword : wordIn ((u.core (windowCore a.toNat)).ctx.scratchBlock (windowOff a.toNat / 8)) a.toNat = BitVec.ofNat 32 (b.field a.toNat 4) := by
    rw [wordIn_eq halign, hu.scratchBlock_field hfit]
  obtain ⟨t, ht, hmoved⟩ := hu.atomic h hfit (zx (g (BitVec.ofNat 32 (b.field a.toNat 4))))
    (f := fun blk => some (wordAt (g (wordIn blk a.toNat)) a.toNat)) (by rw [hword, wordAt_eq halign])
  exact ⟨t, _, ht, hword, hmoved⟩

/-- No element comes early where one that may not come early is to come first, or none is (R141, R157). -/
theorem State.noneEarly {s : State} (o : Bool) {todo : List Nat} {p : Nat → Bool} (hp : ∀ i ∈ todo, p i = false) :
    ((s.chosen o todo).isEmpty || !((todo.filter fun i => (s.chosen o todo).any fun j => decide (i ≤ j)).all p)) = true := by
  cases hfirst : s.chosen o todo with
  | nil => rfl
  | cons i l =>
    have hi : i ∈ todo := s.chosen_subset o todo (hfirst ▸ List.mem_cons_self ..)
    have hlow : i ∈ todo.filter fun i' => (i :: l).any fun j => decide (i' ≤ j) := by simp [hi]
    rw [Bool.or_eq_true, Bool.not_eq_true']
    exact .inr (List.all_eq_false.2 ⟨i, hlow, by simp [hp i hi]⟩)

/-- A vector atomic of the thread in focus may perform at once, on distinct aligned words in scratchpads: the instruction with its operation,
ordering, registers and element type, and the addresses of its elements (R156). -/
structure State.AtomicsPlain (s : State) (x : Instr) (op : Nat) (ord : Order) (vd vi : VReg) (rs1 : XReg) (e : EType) (addr : Nat → Word) :
    Prop where
  ready : s.VectorReady x
  parts : ∃ sc, vamoParts x = some (op, ord, vd, rs1, vi, sc)
  type : s.VectorType e
  home : s.StoresHome
  batch : s.elems.batch = none
  address : ∀ i, (s.me.vargs s.sh).ck.getX rs1 + sx (BitVec.ofNat 32 ((s.me.vargs s.sh).elt 32 vi.val i)) = addr i
  plain : ∀ i, s.ActiveElt 0 i → s.PlainElement 4 (addr i)
  distinct : ∀ i j, s.ActiveElt 0 i → s.ActiveElt 0 j → addr i = addr j → i = j
/-- What an atomic leaves in the word of an element: f of the old value and the element (R156). -/
def State.atomicResult (s : State) (op : Nat) (signed : Bool) (vd : VReg) (addr : Nat → Word) (i : Nat) : BitVec 32 :=
  vamoFun op signed (BitVec.ofNat 32 (Pads.field s.scratchByte (addr i).toNat 4)) (BitVec.ofNat 32 (s.velt 32 vd i))
/-- An atomic is on its way, and of its elements those of a list are performed: their words hold what it makes of them, and their places in the
register what the words held (R156). -/
structure State.AtomicsDone (s : State) (op : Nat) (signed : Bool) (vd : VReg) (addr : Nat → Word) (d : List Nat) (u : State) : Prop where
  active : ∀ i ∈ d, s.ActiveElt 0 i
  moved : s.Moved (VRegs.putElts s.me.vregs 32 vd.val s.sh.vlc.toNat d fun i => Pads.field s.scratchByte (addr i).toNat 4)
    (Pads.putFields s.scratchByte 4 (fun i => (addr i).toNat) (fun i => zx (s.atomicResult op signed vd addr i)) d) u

section
variable {s : State} {x : Instr} {op : Nat} {ord : Order} {vd vi : VReg} {rs1 : XReg} {e : EType} {addr : Nat → Word}
  (h : s.AtomicsPlain x op ord vd vi rs1 e addr)
include h
/-- Its elements are 32-bit integers, compared as their type says (R156). -/
theorem State.AtomicsPlain.type32 : e.width = 32 ∧ (e == .i32) = e.isSigned := by
  obtain ⟨-, -, hlate, -⟩ := h.ready
  obtain ⟨sc, hparts⟩ := h.parts
  obtain ⟨htype, -⟩ := h.type
  have haccept := acceptsType_of_vecLate hlate htype
  rw [vamoParts_accepts hparts, Bool.or_eq_true, beq_iff_eq, beq_iff_eq] at haccept
  obtain rfl | rfl := haccept
  · exact ⟨rfl, rfl⟩
  · exact ⟨rfl, rfl⟩
/-- The bytes of another element are elsewhere (R157). -/
theorem State.AtomicsPlain.apart {i j : Nat} (hi : s.ActiveElt 0 i) (hj : s.ActiveElt 0 j) (hij : i ≠ j) :
    Apart 4 (addr i).toNat (addr j).toNat :=
  (h.plain i hi).apart (by decide) (h.plain j hj) fun haddr => hij (h.distinct i j hi hj haddr)
/-- One element more is performed on its word, which still holds what it held (R156, R157). -/
theorem State.AtomicsPlain.element {u : State} {d : List Nat} {i : Nat} (hi : s.ActiveElt 0 i) (hfresh : i ∉ d)
    (hu : s.AtomicsDone op e.isSigned vd addr d u) : ∃ t old, u.atomic (s.vecAs 0) s.focus (addr i).toNat (byteMask ((addr i).toNat % 8) 4)
        (fun blk => some (wordAt (vamoFun op e.isSigned (wordIn blk (addr i).toNat) (BitVec.ofNat 32 (s.velt 32 vd i))) (addr i).toNat)) =
          .ok t old ∧
      s.AtomicsDone op e.isSigned vd addr (d ++ [i])
        (t.updSlot s.focus fun m => m.setElt (s.me.vargs s.sh) 32 vd.val i (wordIn old (addr i).toNat).toNat) := by
  obtain ⟨hd, hu⟩ := hu
  obtain ⟨-, -, -, hpoison, -⟩ := h.ready
  have hfield : Pads.field (Pads.putFields s.scratchByte 4 (fun i => (addr i).toNat) (fun i => zx (s.atomicResult op e.isSigned vd addr i)) d)
      (addr i).toNat 4 = Pads.field s.scratchByte (addr i).toNat 4 :=
    Pads.field_putFields_apart _ fun j hj => h.apart (hd j hj) hi fun hji => hfresh (hji ▸ hj)
  obtain ⟨t, old, ht, hold, hmoved⟩ := hu.atomicWord (h.plain i hi) fun v => vamoFun op e.isSigned v (BitVec.ofNat 32 (s.velt 32 vd i))
  rw [hfield] at hold hmoved
  have hword : (wordIn old (addr i).toNat).toNat = Pads.field s.scratchByte (addr i).toNat 4 := by
    rw [hold, BitVec.toNat_ofNat]
    exact Nat.mod_eq_of_lt (by simpa using Pads.field_lt s.scratchByte (addr i).toNat 4)
  have hput := hmoved.setElt hpoison (s.me.vargs s.sh) 32 vd.val i (wordIn old (addr i).toNat).toNat
  refine ⟨t, old, ht, by simpa [or_imp, forall_and, hi] using hd, ?_⟩
  simp only [VRegs.putElts_append, Pads.putFields_append]
  rw [hword] at hput ⊢
  exact hput
/-- Its elements are performed in ascending order, each on its word, as no element of a window comes early (R153, R157). -/
theorem State.AtomicsPlain.vamo (o : Bool) : ∃ t, s.started.vamo s.focus (s.me.vargs s.sh) (s.newEntry x) o op vd rs1 vi =
      ((t, (s.me.vargs s.sh).left (s.newEntry x), .none), []) ∧
    s.AtomicsDone op e.isSigned vd addr ((s.me.vargs s.sh).left (s.newEntry x)) t := by
  have hpins : (s.newEntry x).pins = [] := rfl
  have hwho : s.started.vecWho s.focus (s.me.vargs s.sh).ck = s.vecAs 0 := s.vecWho_started
  have hdata (i : Nat) : (s.me.vargs s.sh).elt 32 vd.val i = s.velt 32 vd i := (s.velt_eq ..).symm
  have hlen : ((s.me.vargs s.sh).left (s.newEntry x)).length ≤ s.started.batch := by
    rw [State.batch_whole (by rw [s.started_moved.elems_eq]; exact h.batch)]
    exact h.type.left_length x
  have hplain (i : Nat) (hi : i ∈ (s.me.vargs s.sh).left (s.newEntry x)) := h.plain i ((s.mem_left x).1 hi)
  simp only [State.vamo, hpins, hwho, hdata, List.find?_nil, h.address, h.type.et, h.type32.2]
  rw [if_pos]
  · simp only [Prod.mk.injEq, and_true]
    refine State.eachElt_performsEach (d := []) (P := s.AtomicsDone op e.isSigned vd addr) (fun i hi d u hfresh hu => ⟨rfl, ?_⟩)
      (s.left_nodup x) hlen ⟨by simp, s.started_moved⟩
    obtain ⟨halign, ⟨-, hwindow, -⟩, -⟩ := hplain i hi
    obtain ⟨t, old, ht, hdone⟩ := h.element ((s.mem_left x).1 hi) hfresh hu
    exact ⟨_, by simp only [halign, ne_eq, not_true_eq_false, if_false, State.withHops_window hwindow, ht, Res.bind_ok], hdone⟩
  · rw [Bool.or_eq_true]
    refine .inl (State.noneEarly o fun i hi => ?_)
    obtain ⟨-, ⟨-, hwindow, -⟩, -⟩ := hplain i hi
    rw [State.polAt, if_pos hwindow]
    rfl
/-- It is performed, with nothing to release and whatever it acquires (R156, R215, R229). -/
theorem State.AtomicsPlain.vmem : ∃ t, s.started.vmem s.focus (s.newEntry x) = .done t ∧
    s.AtomicsDone op e.isSigned vd addr ((s.me.vargs s.sh).left (s.newEntry x)) t := by
  obtain ⟨sc, hparts⟩ := h.parts
  obtain ⟨hmem, -⟩ := vamoParts_issues hparts
  obtain ⟨-, ⟨-, -, -, hearly⟩, -⟩ := h.ready
  obtain ⟨hhome, hrefused⟩ := h.home
  obtain ⟨t, ht, hactive, hmoved⟩ := h.vamo (vamoO x)
  have hbuf : (s.started.core (s.focus / 16)).sbuf = (s.core s.myCore).sbuf := by
    obtain ⟨hsbuf, -⟩ := s.started_moved.tests s.myCore
    exact hsbuf
  have hrelease : s.started.releaseSlot s.focus = s.started := State.releaseSlot_home (by rw [hbuf]; exact hhome)
  have hnone : (s.started.slot s.focus).refused = [] := s.started_moved.slot_refused.trans hrefused
  have hentry : (s.newEntry x).instr = x := rfl
  refine ⟨if ord = .acq ∨ ord = .ar then (t.forget s.focus).discard (s.focus / 16) (some (s.newEntry x).ck.mode) else t, ?_, hactive, ?_⟩
  · simp only [State.vmem, s.entryArgs_started, hentry, hmem, hparts, hrelease, ite_self, hnone, ht, stopRes]
  · split
    · exact hmoved.acquire hearly ..
    · exact hmoved
/-- AN ATOMIC MAKES EACH WORD f(old, d), and its element the old value (R156). -/
theorem State.AtomicsPlain.performs : ∃ t, exec x s = .next t ∧ VectorDone s t ∧ OtherRows s t vd ∧ t.me.masks = s.me.masks ∧
    (∀ r, t.x r = s.x r) ∧
    (∀ c b, (∀ i, s.ActiveElt 0 i → windowCore (addr i).toNat = c → b < windowOff (addr i).toNat ∨ windowOff (addr i).toNat + 4 ≤ b) →
      t.scratchByte c b = s.scratchByte c b) ∧
    ∀ i, i < s.elements → (s.ActiveElt 0 i →
        t.velt 32 vd i = Pads.field s.scratchByte (addr i).toNat 4 ∧
        Pads.field t.scratchByte (addr i).toNat 4 = (s.atomicResult op e.isSigned vd addr i).toNat) ∧
      (¬ s.ActiveElt 0 i → t.velt 32 vd i = s.velt 32 vd i) := by
  obtain ⟨sc, hparts⟩ := h.parts
  obtain ⟨-, hva, hqueue, hexec⟩ := vamoParts_issues hparts
  obtain ⟨u, hperform, -, hmoved⟩ := h.vmem
  obtain ⟨t, hnext, hdone, hregs, hmasks, hx, hbytes⟩ := State.vmemCompletes h.ready (hexec s) hva hqueue hperform hmoved
  have hactive (i : Nat) := s.mem_left x (i := i)
  have h32 : ∀ i, Pads.field s.scratchByte (addr i).toNat 4 < 2 ^ e.width := fun i => by
    simpa [h.type32.1] using Pads.field_lt s.scratchByte (addr i).toNat 4
  obtain ⟨hrows, helts⟩ := h.type.elementsWritten hdone (by rw [hregs, h.type32.1]) hactive h32
  rw [h.type32.1] at helts
  refine ⟨t, hnext, hdone, hrows, hmasks, hx, fun c b hout => ?_, fun i _ => ⟨fun hi => ⟨(helts i).1 hi, ?_⟩, (helts i).2⟩⟩
  · rw [hbytes]
    exact Pads.putFields_outside _ fun i hi => hout i ((hactive i).1 hi)
  · have hapart : ∀ i ∈ (s.me.vargs s.sh).left (s.newEntry x), ∀ j ∈ (s.me.vargs s.sh).left (s.newEntry x),
        (addr i).toNat = (addr j).toNat ∨ Apart 4 (addr i).toNat (addr j).toNat := fun i hi j hj =>
      (em (i = j)).imp (congrArg fun i => (addr i).toNat) (h.apart ((hactive i).1 hi) ((hactive j).1 hj))
    obtain ⟨k, hk, haddr, -, hfield⟩ := Pads.field_putFields_last s.scratchByte
      (v := fun i => zx (s.atomicResult op e.isSigned vd addr i)) hapart ((hactive i).2 hi)
    obtain rfl := h.distinct k i ((hactive k).1 hk) hi (BitVec.eq_of_toNat_eq haddr)
    rw [hbytes, hfield]
    exact zx_toNat_mod _
end

/-! What atomics make of the old value and the element, as numbers (R156). -/

section
variable (signed : Bool) (x y : BitVec 32)
/-- The comparison of elements is that of the numbers they stand for (R142, R156). -/
theorem less_iff_extElt : (if signed then x.slt y else x.ult y) = true ↔ extElt 32 signed x.toNat < extElt 32 signed y.toNat := by
  cases signed
  · simp [extElt, BitVec.ult]
  · simp only [if_true, extElt, BitVec.slt, decide_eq_true_eq, BitVec.toInt_eq_toNat_bmod]
/-- Different words stand for different numbers. -/
theorem extElt_inj (h : extElt 32 signed x.toNat = extElt 32 signed y.toNat) : x = y := by
  cases signed
  · exact BitVec.eq_of_toNat_eq (Int.ofNat_inj.1 h)
  · simp only [extElt, if_true, ← BitVec.toInt_eq_toNat_bmod] at h
    exact BitVec.eq_of_toInt_eq h
/-- The lesser of the old value and the element (R156). -/
theorem vamoFun_min : (vamoFun 4 signed x y).toNat =
    (if extElt 32 signed x.toNat ≤ extElt 32 signed y.toNat then x.toNat else y.toNat) % 2 ^ 32 := by
  rw [← apply_ite BitVec.toNat, Nat.mod_eq_of_lt (BitVec.isLt _), vamoFun, if_congr (less_iff_extElt signed y x) rfl rfl]
  refine congrArg BitVec.toNat ?_
  split
  · next hless => rw [if_neg (Int.not_le.2 hless)]
  · next hless => rw [if_pos (Int.not_lt.1 hless)]
/-- The greater of the old value and the element (R156). -/
theorem vamoFun_max : (vamoFun 5 signed x y).toNat =
    (if extElt 32 signed x.toNat ≤ extElt 32 signed y.toNat then y.toNat else x.toNat) % 2 ^ 32 := by
  rw [← apply_ite BitVec.toNat, Nat.mod_eq_of_lt (BitVec.isLt _), vamoFun, if_congr (less_iff_extElt signed x y) rfl rfl]
  refine congrArg BitVec.toNat ?_
  split
  · next hless => rw [if_pos hless.le]
  · next hless =>
    split
    · next hle => exact extElt_inj signed x y (le_antisymm hle (Int.not_lt.1 hless))
    · rfl
end

/-- The vector atomics with the scope of a cluster and of the package, and f of each (R156). -/
def vamoForms (o : Bool) (ord : Order) (vd vi : VReg) (rs1 : XReg) (signed : Bool) : List (Instr × Instr × (Nat → Nat → Nat)) :=
  [ (.vamoAddClu o ord vd rs1 vi, .vamoAddPkg o ord vd rs1 vi, fun x y => x + y),
    (.vamoAndClu o ord vd rs1 vi, .vamoAndPkg o ord vd rs1 vi, fun x y => x &&& y),
    (.vamoOrClu o ord vd rs1 vi, .vamoOrPkg o ord vd rs1 vi, fun x y => x ||| y),
    (.vamoXorClu o ord vd rs1 vi, .vamoXorPkg o ord vd rs1 vi, fun x y => x ^^^ y),
    (.vamoMinClu o ord vd rs1 vi, .vamoMinPkg o ord vd rs1 vi, fun x y => if extElt 32 signed x ≤ extElt 32 signed y then x else y),
    (.vamoMaxClu o ord vd rs1 vi, .vamoMaxPkg o ord vd rs1 vi, fun x y => if extElt 32 signed x ≤ extElt 32 signed y then y else x),
    (.vamoSwapClu o ord vd rs1 vi, .vamoSwapPkg o ord vd rs1 vi, fun _ y => y) ]
/-- Each has one operation code, for which the model computes its f (R156). -/
theorem vamoForms_parts {o : Bool} {ord : Order} {vd vi : VReg} {rs1 : XReg} {signed : Bool} {f : Instr × Instr × (Nat → Nat → Nat)}
    (hf : f ∈ vamoForms o ord vd vi rs1 signed) : ∃ op, (∀ i ∈ [f.1, f.2.1], ∃ sc, vamoParts i = some (op, ord, vd, rs1, vi, sc)) ∧
      ∀ x y : BitVec 32, (vamoFun op signed x y).toNat = f.2.2 x.toNat y.toNat % 2 ^ 32 := by
  have hscopes {i j : Instr} {op : Nat} (hi : vamoParts i = some (op, ord, vd, rs1, vi, .clu)) (hj : vamoParts j = some (op, ord, vd, rs1, vi, .pkg)) :
      ∀ k ∈ [i, j], ∃ sc, vamoParts k = some (op, ord, vd, rs1, vi, sc) := by
    intro k hk
    obtain rfl | rfl := List.mem_pair.1 hk
    · exact ⟨_, hi⟩
    · exact ⟨_, hj⟩
  have hfits {v : BitVec 32} {n : Nat} (h : v.toNat = n) : v.toNat = n % 2 ^ 32 := by rw [← h, Nat.mod_eq_of_lt v.isLt]
  simp only [vamoForms, List.mem_cons, List.not_mem_nil, or_false] at hf
  obtain rfl | rfl | rfl | rfl | rfl | rfl | rfl := hf
  · exact ⟨0, hscopes rfl rfl, BitVec.toNat_add⟩
  · exact ⟨1, hscopes rfl rfl, fun x y => hfits (BitVec.toNat_and x y)⟩
  · exact ⟨2, hscopes rfl rfl, fun x y => hfits (BitVec.toNat_or x y)⟩
  · exact ⟨3, hscopes rfl rfl, fun x y => hfits (BitVec.toNat_xor x y)⟩
  · exact ⟨4, hscopes rfl rfl, vamoFun_min signed⟩
  · exact ⟨5, hscopes rfl rfl, vamoFun_max signed⟩
  · exact ⟨6, hscopes rfl rfl, fun _ y => hfits rfl⟩

/-- Settles O34: elements are performed one after another, in whatever order is chosen, and each access finds its scratchpad as it was but for the
elements before it. -/
theorem vectorMemoryMovesElements : Obligations.VectorMemoryMovesElements := by
  refine ⟨fun o v vd vi rs1 rs2 e s n hvt hn ht6 hbatch hrefused f hf hplain => ?_, fun o ord vd vi rs1 e s a hvt hhome hbatch ha hplain hdistinct
    f hf i hi hready => ?_⟩
  · obtain ⟨form, hload, hstore, haddr⟩ := hvt.vectorForms_parts hn hf
    exact ⟨fun hready => State.MovesPlain.loads ⟨hready, hload, rfl, hvt, hn, ht6, hbatch, haddr, hplain⟩ rfl,
      fun hready => State.MovesPlain.stores ⟨hready, hstore, rfl, hvt, hn, ht6, hbatch, haddr, hplain⟩ rfl hrefused⟩
  · obtain ⟨op, hparts, hvalue⟩ := vamoForms_parts (signed := e.isSigned) hf
    have haddr (i : Nat) : (s.me.vargs s.sh).ck.getX rs1 + sx (BitVec.ofNat 32 ((s.me.vargs s.sh).elt 32 vi.val i)) = a i := by
      simp only [ha, s.velt_eq]
      exact congrArg (s.x rs1 + ·) (sx_ofNat _)
    obtain ⟨t, hnext, hdone, hrows, hmasks, hx, hframe, helts⟩ :=
      State.AtomicsPlain.performs ⟨hready, hparts i hi, hvt, hhome, hbatch, haddr, hplain, hdistinct⟩
    refine ⟨t, hnext, hdone, hrows, hmasks, hx, hframe, fun j hj => ⟨fun hactive => ?_, (helts j hj).2⟩⟩
    obtain ⟨hold, hnew⟩ := (helts j hj).1 hactive
    refine ⟨hold, hnew.trans ?_⟩
    have hword : Pads.field s.scratchByte (a j).toNat 4 < 2 ^ 32 := by simpa using Pads.field_lt s.scratchByte (a j).toNat 4
    rw [State.atomicResult, hvalue, BitVec.toNat_ofNat, BitVec.toNat_ofNat, Nat.mod_eq_of_lt hword, Nat.mod_eq_of_lt (s.velt_lt 32 vd j)]
    rfl

end Sys2Proof.Machine

/-! PROOFS. Commands to matrix cores, from the own core and from others (R181 to R187, R194 to R199). -/

namespace Sys2Proof.Machine

/-! A command queued at a core, and counted at its issuer (R23, R185, R194). -/

/-- A command of the shuttle in focus stands in the QK of core c, and TL counts it. -/
def State.commandQueued (s : State) (c : Nat) (k : QkCmd) : State :=
  (s.bump.updMe fun m => { m with tl := m.tl + 1 }).updCtx c fun x => { x with qk := x.qk ++ [k] }
/-- Its issuer counts it, and nothing else of its slot differs. -/
@[simp] theorem State.me_commandQueued (s : State) (c : Nat) (k : QkCmd) :
    (s.commandQueued c k).me = { s.me with tl := s.me.tl + 1 } := s.bump.me_updMe fun m => { m with tl := m.tl + 1 }
/-- The shuttle of its issuer is as it was. -/
@[simp] theorem State.sh_commandQueued (s : State) (c : Nat) (k : QkCmd) : (s.commandQueued c k).sh = s.sh := by
  rw [State.sh, State.me_commandQueued]; rfl
/-- Of the cores, only the QK of its own differs. -/
theorem State.core_commandQueued (s : State) (c d : Nat) (k : QkCmd) : (s.commandQueued c k).core d =
    if d = c then { s.core d with ctx := { (s.core d).ctx with qk := (s.core d).ctx.qk ++ [k] } } else s.core d :=
  State.core_updCtx ..
/-- The context of its core. -/
theorem State.ctx_commandQueued (s : State) (c : Nat) (k : QkCmd) :
    ((s.commandQueued c k).core c).ctx = { (s.core c).ctx with qk := (s.core c).ctx.qk ++ [k] } := by
  rw [State.core_commandQueued, if_pos rfl]
/-- No byte of memory is changed. -/
theorem State.byte_commandQueued (s : State) (c : Nat) (k : QkCmd) (b : Nat) : (s.commandQueued c k).byte b = s.byte b :=
  State.byte_of_mem ⟨by simp [State.commandQueued, State.bump], by simp [State.commandQueued, State.bump]⟩ b

/-- What completing behind it leaves: TL one more, the pc at the next word, and no register or byte changed. -/
theorem State.commandQueued_completes (s : State) (c : Nat) (k : QkCmd) :
    (s.commandQueued c k).complete.me.tl = s.me.tl + 1 ∧ (s.commandQueued c k).complete.sh.pc = s.sh.pc + 4 ∧
      (∀ r, (s.commandQueued c k).complete.x r = s.x r) ∧ ∀ b, (s.commandQueued c k).complete.byte b = s.byte b := by
  obtain ⟨-, hme⟩ := (s.commandQueued c k).complete_stepsOn
  obtain ⟨⟨-, -, hbyte⟩, -, -, hpc, -, hx⟩ := (s.commandQueued c k).complete_writes
  refine ⟨?_, ?_, fun r => ?_, fun b => (hbyte b).trans (s.byte_commandQueued c k b)⟩
  · rw [hme, State.me_commandQueued]
  · rw [hpc, State.sh_commandQueued]
  · rw [hx, if_neg fun h => h.2 rfl, State.x, State.x, State.sh_commandQueued]

/-- What waiting behind it leaves: TL one more, and the shuttle as it was. -/
theorem State.commandQueued_waits (s : State) (c : Nat) (k : QkCmd) (w : WaitKind) :
    ((s.commandQueued c k).block w).me.life = .waiting ∧ ((s.commandQueued c k).block w).me.tl = s.me.tl + 1 ∧
      ((s.commandQueued c k).block w).sh = s.sh ∧ ∀ b, ((s.commandQueued c k).block w).byte b = s.byte b := by
  obtain ⟨⟨-, -, hbyte⟩, hsh, hlife⟩ := (s.commandQueued c k).block_waits w
  refine ⟨hlife, ?_, hsh.trans (s.sh_commandQueued c k), fun b => (hbyte b).trans (s.byte_commandQueued c k b)⟩
  rw [State.block, State.me_updMe, State.me_commandQueued]
  rfl

/-! Commands from other cores (R183, R185), and the state of the queues (R187). -/

/-- A push to one core that is not fenced arrives there at once (R184, R185). -/
theorem State.push_arrives {s : State} {p : Push} {c : Nat} (heager : s.eager = true) (htarget : p.targets = [c])
    (hfenced : s.isFenced c = false) :
    s.push p = s.updCtx c fun x => { x with qa := x.qa ++ p.qa.toList, qk := x.qk ++ p.qk.toList } := by
  simp [State.push, State.deliverPush, heager, htarget, hfenced]

/-- A valid command to one core with room is queued there (R185). -/
theorem execQpushQk_queues {rd rs1 rs2 : XReg} {s : State} {c : Nat} (hrun : s.MayRun (.qpushQk rd rs1 rs2))
    (hdeferred : s.NoDeferred fun d => d.queue == 17) (hidle : s.VectorIdle) (heager : s.eager = true)
    (htarget : s.targets (s.partOfVf s.me.vf) s.myCore 0 s.me.masks (s.x rs1) = .inl [c])
    (hvalid : s.commandBad c (s.x rs2) (s.x rd) = false) (hfenced : s.isFenced c = false) (htl : s.me.tl < 255) (hroom : s.qkCount c < 8) :
    ∃ k, execQpushQk rd rs1 rs2 s = .next (s.commandQueued c k).complete ∧ k.op = cmdOp (s.x rs2) ∧ k.operand = s.x rd ∧
      k.issuer = s.focus := by
  have hcount : ¬ 255 < s.me.tl + 1 := by omega
  refine ⟨{ op := cmdOp (s.x rs2), tag := bitsOf (s.x rs2) 6 4, pair := bitsOf (s.x rs2) 11 8, operand := s.x rd, issuer := s.focus
            id := s.order, word := s.x rs2 }, ?_, rfl, rfl, rfl⟩
  rw [execQpushQk, State.gate_mayRun hrun, State.deferredFirst_none hdeferred]
  simp only [htarget, hvalid, hroom, hcount, hidle.afterVector, List.any_cons, List.any_nil, List.all_cons, List.all_nil,
    List.length_singleton, Bool.or_false, Bool.and_true, Bool.false_eq_true, decide_true, if_true, if_false]
  rw [State.push_arrives (c := c)]
  case heager => exact heager
  case htarget => rfl
  case hfenced => exact hfenced
  simp only [Option.toList_none, Option.toList_some, List.append_nil]
  rfl

/-- Each `qstat` of a core that may be asked writes occupancy and capacity (R187). -/
theorem State.qstat_writes {s : State} {i : Instr} {rs1 : XReg} {c : Nat} (hrun : s.MayRun i)
    (htarget : s.coreTarget (s.partOfVf s.me.vf) s.myCore (s.x rs1).toNat none = .inl c) (rd : XReg) (cap : Nat) (occ : CoreCtx → Nat) :
    ∃ t, s.qstat i rd rs1 cap occ = .next t ∧ WritesX s rd (BitVec.ofNat 64 (occ (s.core c).ctx % 64 + 256 * cap)) t := by
  refine ⟨_, ?_, s.completeX_writes rd _⟩
  rw [State.qstat, State.gate_mayRun hrun, htarget, Nat.mul_comm cap]

/-- Settles O26: the push is one command queued at its core, `State.commandQueued`, and each `qstat` the one that `State.qstat_writes` makes. -/
theorem queueCommandsReachTheirCore : Obligations.QueueCommandsReachTheirCore := by
  unfold Obligations.QueueCommandsReachTheirCore
  intro rd rs1 rs2 s c
  refine ⟨fun hrun hdeferred hidle heager htarget hvalid hfenced htl hroom => ?push, fun e he hrun htarget => ?stat⟩
  case push =>
    obtain ⟨k, hexec, hop, hoperand, hissuer⟩ := execQpushQk_queues hrun hdeferred hidle heager htarget hvalid hfenced htl hroom
    obtain ⟨htl', hpc, hx, hbyte⟩ := s.commandQueued_completes c k
    refine ⟨_, k, hexec, htl', hpc, hx, hbyte, fun d hd => ?_, congrArg CoreCtx.qk (s.ctx_commandQueued c k), ?_, hoperand, hissuer⟩
    · exact (s.core_commandQueued c d k).trans (if_neg hd)
    · rw [hop]; simp [cmdOp, bitsOf]
  case stat =>
    simp only [List.mem_cons, List.not_mem_nil, or_false] at he
    obtain rfl | rfl | rfl := he
    · exact (State.qstat_writes hrun htarget rd 32 fun x => x.qa.length :)
    · exact (State.qstat_writes hrun htarget rd 8 fun x => (x.qk.filter fun k => k.op != 6).length :)
    · exact (State.qstat_writes hrun htarget rd 32 fun x => x.qd.length :)

/-! The causes that a matrix core holds for its next matrix instruction (R198, R199). -/

/-- Each of the six instructions that take a held cause is behind it; `mcpy` looks at its wait first, and waits for nothing here. -/
theorem exec_matrixGate {fp : FormatPair} {tag : BitVec 3} {r1 r2 : XReg} {s : State} (hwait : s.me.wait = none) {i : Instr}
    (hi : i ∈ [Instr.mcfg fp tag r1 r2, .mrun fp tag r1, .mzero r1 r2, .mdrain tag r1, .mcpyIn r1 r2, .mcpyOut r1 r2]) :
    ∃ f, exec i s = s.matrixGate i f := by
  have hmcpy : ∀ j out addr w, ∃ f, s.mcpyIssue j out addr w = s.matrixGate j f := fun j out addr w => by
    simp only [State.mcpyIssue, hwait, Option.map_none, Bool.false_eq_true, if_false]
    exact ⟨_, rfl⟩
  simp only [List.mem_cons, List.not_mem_nil, or_false] at hi
  obtain rfl | rfl | rfl | rfl | rfl | rfl := hi
  · exact ⟨_, (rfl : execMcfg fp tag r1 r2 s = _)⟩
  · exact ⟨_, (rfl : execMrun fp tag r1 s = _)⟩
  · exact ⟨_, (rfl : execMzero r1 r2 s = _)⟩
  · exact ⟨_, (rfl : execMdrain tag r1 s = _)⟩
  · exact hmcpy _ false (s.x r1) (s.x r2)
  · exact hmcpy _ true (s.x r1) (s.x r2)

section
variable {s : State} {i : Instr} (hrun : s.MayRun i) (f : State → Out)
include hrun
/-- With no cause held, the instruction goes on (R199). -/
theorem State.matrixGate_open (hqkp : (s.core s.myCore).ctx.mstat.qkp = false) (hut : (s.core s.myCore).ctx.mstat.ut = false)
    (hbe : (s.core s.myCore).ctx.mstat.be = false) : s.matrixGate i f = f s := by
  rw [State.matrixGate, State.gate_mayRun hrun]
  simp only [hqkp, hut, hbe, Bool.false_eq_true, if_false]
/-- A held QKP is raised first (R199). -/
theorem State.matrixGate_qkp (hqkp : (s.core s.myCore).ctx.mstat.qkp = true) : s.matrixGate i f = s.raise (cause 0xC 3 5) 0 := by
  rw [State.matrixGate, State.gate_mayRun hrun]
  simp only [hqkp, if_true]
/-- A held UT is raised behind QKP (R199). -/
theorem State.matrixGate_ut (hqkp : (s.core s.myCore).ctx.mstat.qkp = false) (hut : (s.core s.myCore).ctx.mstat.ut = true) :
    s.matrixGate i f = s.raise (cause 9 2 6) (zx s.me.word) := by
  rw [State.matrixGate, State.gate_mayRun hrun]
  simp only [hqkp, hut, Bool.false_eq_true, if_false, if_true]
  rfl
/-- A held BE is raised behind both (R199). -/
theorem State.matrixGate_be (hqkp : (s.core s.myCore).ctx.mstat.qkp = false) (hut : (s.core s.myCore).ctx.mstat.ut = false)
    (hbe : (s.core s.myCore).ctx.mstat.be = true) : s.matrixGate i f = s.raise (cause 8 3 6) (s.core s.myCore).ctx.status := by
  rw [State.matrixGate, State.gate_mayRun hrun]
  simp only [hqkp, hut, hbe, Bool.false_eq_true, if_false, if_true]
end

/-- `mstat` returns the status and clears its sticky bits but UTAG (R198). -/
theorem execMstat_clears {s : State} {rd : XReg} (hrun : s.MayRun (.mstat rd)) :
    ∃ u : State, execMstat rd s = .next (u.completeX rd (s.core s.myCore).ctx.status) ∧ u = { s with cores := u.cores } ∧
      (u.core s.myCore).ctx = { (s.core s.myCore).ctx with mstat := { utag := (s.core s.myCore).ctx.mstat.utag } } := by
  refine ⟨s.updCtx s.myCore fun c => { c with mstat := { utag := c.mstat.utag } }, State.gate_mayRun hrun _, rfl, ?_⟩
  rw [State.core_updCtx, if_pos rfl]

/-! Matrix instructions with no cause held (R181, R194 to R198). -/

/-- A slot just configured. -/
theorem CoreCtx.slotCfg_updCfg_self (x : CoreCtx) (t : Nat) (f : CfgSlot → CfgSlot) : (x.updCfg t f).slotCfg t = f (x.slotCfg t) :=
  SMap.get_put_self _ _ _ _
/-- A command of the shuttle in focus as its own core's QK holds it (R185, R194). -/
def State.ownCommand (s : State) (k : QkCmd) : QkCmd := { k with issuer := s.focus, id := s.order, word := k.commandWord }
/-- With room in QK and in TL, the command is queued (R23, R194). -/
theorem State.appendQk_queues {s : State} (htl : s.me.tl < 255) (hroom : s.qkCount s.myCore < 8) (k : QkCmd) (f : State → Out) :
    s.appendQk k f = f (s.commandQueued s.myCore (s.ownCommand k)) := by
  rw [State.appendQk, if_neg (Nat.not_le.2 htl), if_pos hroom]
  rfl

section
variable {s : State} (hqkp : (s.core s.myCore).ctx.mstat.qkp = false) (hut : (s.core s.myCore).ctx.mstat.ut = false)
  (hbe : (s.core s.myCore).ctx.mstat.be = false)

include hqkp hut hbe
/-- An ARM that passes its checks is queued (R194). -/
theorem execMrun_queues {fp : FormatPair} {tag : BitVec 3} {r : XReg} (htl : s.me.tl < 255) (hroom : s.qkCount s.myCore < 8)
    (hrun : s.MayRun (.mrun fp tag r)) (hcheck : armCheck ((s.core s.myCore).ctx.slotCfg tag.toNat) (some fp) (s.x r).toNat = none) :
    execMrun fp tag r s = .next (s.commandQueued s.myCore (s.ownCommand
      { op := 0, tag := tag.toNat, pair := fp.code, operand := s.x r })).complete := by
  rw [execMrun, State.matrixGate_open hrun _ hqkp hut hbe, hcheck]
  exact State.appendQk_queues htl hroom _ _
/-- A count of 0 appends nothing (R195). -/
theorem execMzero_none {r1 r2 : XReg} (hrun : s.MayRun (.mzero r1 r2)) (hcount : s.x r2 = 0)
    (hcheck : zeroCheck (s.x r1).toNat (s.x r2).toNat = none) : execMzero r1 r2 s = .next s.complete := by
  rw [execMzero, State.matrixGate_open hrun _ hqkp hut hbe, hcheck]
  exact if_pos hcount
/-- A ZERO of rows that exist is queued (R195). -/
theorem execMzero_queues {r1 r2 : XReg} (htl : s.me.tl < 255) (hroom : s.qkCount s.myCore < 8) (hrun : s.MayRun (.mzero r1 r2))
    (hcount : s.x r2 ≠ 0) (hcheck : zeroCheck (s.x r1).toNat (s.x r2).toNat = none) :
    execMzero r1 r2 s = .next (s.commandQueued s.myCore (s.ownCommand { op := 1, operand := s.x r1 ||| (s.x r2 <<< 16) })).complete := by
  rw [execMzero, State.matrixGate_open hrun _ hqkp hut hbe, hcheck]
  exact (if_neg hcount).trans (State.appendQk_queues htl hroom _ _)
/-- A DRAIN that passes its checks is queued (R196). -/
theorem execMdrain_queues {tag : BitVec 3} {r : XReg} (htl : s.me.tl < 255) (hroom : s.qkCount s.myCore < 8)
    (hrun : s.MayRun (.mdrain tag r)) (hcheck : drainCheck ((s.core s.myCore).ctx.slotCfg tag.toNat) (s.x r) = none) :
    execMdrain tag r s = .next (s.commandQueued s.myCore (s.ownCommand { op := 2, tag := tag.toNat, operand := s.x r })).complete := by
  rw [execMdrain, State.matrixGate_open hrun _ hqkp hut hbe, hcheck]
  exact State.appendQk_queues htl hroom _ _
/-- A transfer of rows that exist, at an aligned address, is queued, and its shuttle waits for it (R197). -/
theorem State.mcpyIssue_queues {i : Instr} {addr w : Word} (htl : s.me.tl < 255) (hroom : s.qkCount s.myCore < 8) (hrun : s.MayRun i)
    (hwait : s.me.wait = none) (haligned : addr.toNat % 256 = 0) (hhigh : bitsOf w 63 26 = 0) (hlow : bitsOf w 15 9 = 0)
    (hcount : bitsOf w 25 16 ≠ 0) (hrows : bitsOf w 8 0 + bitsOf w 25 16 ≤ 512) (out : Bool) :
    ∃ k, s.mcpyIssue i out addr w = .next ((s.commandQueued s.myCore k).block (.mcpy s.order)) ∧ k.op = (if out then 5 else 4) ∧
      k.addr = addr ∧ k.operand = w := by
  have hvalid : ¬(bitsOf w 63 26 ≠ 0 ∨ bitsOf w 15 9 ≠ 0 ∨ bitsOf w 25 16 = 0 ∨ 512 < bitsOf w 8 0 + bitsOf w 25 16) := by omega
  refine ⟨s.ownCommand { op := if out then 5 else 4, operand := w, addr := addr }, ?_, rfl, rfl, rfl⟩
  simp only [State.mcpyIssue, hwait, Option.map_none, Bool.false_eq_true, if_false]
  rw [State.matrixGate_open hrun _ hqkp hut hbe]
  simp only [rowWord, hvalid, haligned, ne_eq, not_true_eq_false, if_false]
  exact State.appendQk_queues htl hroom _ _
/-- A slot that is not armed and that no command names is configured, and the chunk of B held for it is dropped (R181). -/
theorem execMcfg_configures {fp : FormatPair} {tag : BitVec 3} {r1 r2 : XReg} (hrun : s.MayRun (.mcfg fp tag r1 r2))
    (hunarmed : ((s.core s.myCore).ctx.slotCfg tag.toNat).armed = false) (hunnamed : s.qkNames s.myCore tag.toNat = false)
    (hcheck : s.mcfgCheck fp (s.x r1) (s.x r2) = none) :
    ∃ u : State, execMcfg fp tag r1 r2 s = .next u.complete ∧ u = { s with cores := u.cores } ∧
      (u.core s.myCore).ctx.slotCfg tag.toNat = { configured := true, pair := fp, w0 := s.x r1, w1 := s.x r2 } := by
  refine ⟨(s.updCtx s.myCore fun c => c.updCfg tag.toNat fun _ =>
    { configured := true, pair := fp, w0 := s.x r1, w1 := s.x r2 }).updCore s.myCore fun k =>
      { k with chunk := match k.chunk with | some h => if h.tag = tag.toNat then none else some h | none => none }, ?_, rfl, ?_⟩
  · rw [execMcfg, State.matrixGate_open hrun _ hqkp hut hbe]
    simp only [hunarmed, hunnamed, hcheck, Bool.or_self, Bool.false_eq_true, if_false] <;> rfl
  · rw [State.core_updCore_self, State.core_updCtx, if_pos rfl]
    exact CoreCtx.slotCfg_updCfg_self _ _ _
end

/-- Settles O28: the six instructions stand behind the held causes, `exec_matrixGate`; with none held, each that appends is one command
queued at its own core, `State.commandQueued`. -/
theorem matrixInstructionsAppendCommands : Obligations.MatrixInstructionsAppendCommands := by
  unfold Obligations.MatrixInstructionsAppendCommands
  rintro fp tag r1 r2 rd s x rfl hidle
  refine ⟨fun hrun => ?status, fun hmode hrecord hwait i hi hrun => ?held, fun hqkp hut hbe hrun hcount hcheck => ?zeroOfNone,
    fun hqkp hut hbe htl hroom hwait => ⟨fun e he hrun hcheck => ?append, fun hrun hunarmed hunnamed hcheck => ?configure,
      fun e he hrun haligned hhigh hlow hcount hrows => ?copy⟩⟩
  case status =>
    obtain ⟨u, hexec, honly, hctx⟩ := execMstat_clears hrun
    obtain ⟨hslots, hreturns⟩ := State.completeX_behindCores honly rd (s.core s.myCore).ctx.status
    exact ⟨_, (hexec : execMstat rd s = _), hslots, hreturns, hctx⟩
  case held =>
    obtain ⟨f, hexec⟩ := exec_matrixGate hwait hi
    rw [hexec]
    refine ⟨fun hqkp => ?_, fun hqkp hut => ?_, fun hqkp hut hbe => ?_⟩
    · rw [State.matrixGate_qkp hrun f hqkp]; exact State.raise_entersS hidle hmode hrecord _ _
    · rw [State.matrixGate_ut hrun f hqkp hut]; exact State.raise_entersS hidle hmode hrecord _ _
    · rw [State.matrixGate_be hrun f hqkp hut hbe]; exact State.raise_entersS hidle hmode hrecord _ _
  case zeroOfNone => exact ⟨_, (execMzero_none hqkp hut hbe hrun hcount hcheck : execMzero r1 r2 s = _), s.complete_writes⟩
  case append =>
    obtain ⟨k, hexec, hop, htag, hoperand⟩ : ∃ k, exec e.1 s = .next (s.commandQueued s.myCore (s.ownCommand k)).complete ∧
        k.op = e.2.1 ∧ k.tag = e.2.2.1 ∧ k.operand = e.2.2.2.1 := by
      simp only [List.mem_cons, List.not_mem_nil, or_false] at he
      obtain rfl | rfl | rfl := he
      · exact ⟨_, execMrun_queues hqkp hut hbe htl hroom hrun (of_decide_eq_true hcheck), rfl, rfl, rfl⟩
      · obtain ⟨hcount, hcheck⟩ := of_decide_eq_true hcheck
        exact ⟨_, execMzero_queues hqkp hut hbe htl hroom hrun hcount hcheck, rfl, rfl, rfl⟩
      · exact ⟨_, execMdrain_queues hqkp hut hbe htl hroom hrun (of_decide_eq_true hcheck), rfl, rfl, rfl⟩
    exact ⟨_, _, hexec, s.ctx_commandQueued _ _, hop, htag, hoperand, rfl, s.commandQueued_completes _ _⟩
  case configure =>
    obtain ⟨u, hexec, honly, hslot⟩ := execMcfg_configures hqkp hut hbe hrun hunarmed hunnamed hcheck
    obtain ⟨hslots, hsteps, hcore⟩ := State.complete_behindCores honly
    exact ⟨_, (hexec : execMcfg fp tag r1 r2 s = _), hslots, hsteps, by rw [hcore]; exact hslot⟩
  case copy =>
    obtain ⟨out, hexec, hout⟩ : ∃ out, exec e.1 s = s.mcpyIssue e.1 out (s.x r1) (s.x r2) ∧ (if out then 5 else 4) = e.2 := by
      simp only [List.mem_cons, List.not_mem_nil, or_false] at he
      obtain rfl | rfl := he
      · exact ⟨false, (rfl : execMcpyIn r1 r2 s = _), rfl⟩
      · exact ⟨true, (rfl : execMcpyOut r1 r2 s = _), rfl⟩
    obtain ⟨k, hissue, hop, haddr, hoperand⟩ :=
      State.mcpyIssue_queues hqkp hut hbe htl hroom hrun hwait haligned hhigh hlow hcount hrows out
    exact ⟨_, k, hexec.trans hissue, s.ctx_commandQueued _ k, hop.trans hout, haddr, hoperand, s.commandQueued_waits _ k _⟩

end Sys2Proof.Machine

/-! PROOFS. What refutes O37, O41 and O42: a `vwait` whose addresses fail their check (R140, R249), and commands of a matrix core that end with
their issuer's slot free (R23, R99). -/

namespace Sys2Proof.Machine

/-- A package of section 0 in one partition, of VF 0, with one shuttle in focus, and its core as the subject. -/
def oneShuttle (k : Nat) (m : Slot) (x : CoreCtx) : State :=
  { slots := [(k, m)], cores := [(k / 16, { ctx := x })], vfs := [(0, { bound := some 0 })], parts := [(0, { sections := 1 })]
    focus := k, subject := { core := k / 16 } }

/-- A shuttle of vector core 5 with one element, whose register v1 names the flag at offset 0 of its own scratchpad; the row that holds the
address has failed its check (R140). -/
def vwaitOnPoisonedRow : State := oneShuttle 80
  { sh := { vtype := some .ui32, vlr := 1, vlc := 1 }, vregs := [(8, 0x00FE000000500000)], vpoison := [(8, true)] } { units := 16 }
/-- The `vwait` traps with 0xC.1.4, although its flag is met. -/
theorem execVwait_poisonedRow : ∃ t, execVwait 1 1 2 0 vwaitOnPoisonedRow = .next t ∧ t.sh.tcause = cause 0xC 1 4 := ⟨_, rfl, rfl⟩

/-- Refutes O37: the clause of `vwait` has no hypothesis that the rows of its operands pass their checks, as `State.VectorReady` has for the
other two, and `vwait` raises 0xC.1.4 where one does not (R140). -/
theorem not_vectorQueueInstructionsComplete : ¬ Obligations.VectorQueueInstructionsComplete := by
  unfold Obligations.VectorQueueInstructionsComplete
  intro h
  obtain ⟨-, -, hwait⟩ := h 0 0 1 2 1 0 0 0 0 vwaitOnPoisonedRow
  obtain ⟨t, ht, -, -, hsh, -⟩ := hwait ⟨rfl, rfl⟩ ⟨rfl, rfl, rfl, rfl⟩ rfl (by decide) rfl (by decide +kernel)
  obtain ⟨u, hu, htraps⟩ := execVwait_poisonedRow
  have htu : t = u := by injection ht.symm.trans hu
  have hkept : u.sh.tcause = 0 := htu ▸ congrArg Shuttle.tcause hsh
  exact absurd (hkept.symm.trans htraps) (by decide)

/-- A decrement on its way from core 0 to slot 0, which is free with a count of 1 left in it. -/
def decrementOfFreeSlot : State := { cores := [(0, { ctx := { tlDone := [0] } })], slots := [(0, { tl := 1 })] }
/-- The decrement arrives, and the free slot keeps its count: TL is counted in the frame that the shuttle moved with. -/
theorem execTlDecrement_freeSlot : ∃ t, execTlDecrement decrementOfFreeSlot = .next t ∧ (t.slot 0).tl = 1 := ⟨_, rfl, rfl⟩

/-- Refutes O41: the clause of TL_DECREMENT has no hypothesis that the issuer's slot is occupied, and `State.dropTl` lowers TL of the moved
frame, not of a free slot. -/
theorem not_commandUnitSteps : ¬ Obligations.CommandUnitSteps := by
  unfold Obligations.CommandUnitSteps
  intro h
  obtain ⟨-, htl, -⟩ := h decrementOfFreeSlot 0 _ { op := 0 } [] rfl rfl rfl
  obtain ⟨t, ht, hlowered, -⟩ := htl 0 [] rfl
  obtain ⟨u, hu, hkept⟩ := execTlDecrement_freeSlot
  have htu : t = u := by injection ht.symm.trans hu
  have hnone : (u.slot 0).tl = 0 := htu ▸ hlowered
  exact absurd (hnone.symm.trans hkept) (by decide)

/-- The transfer of one accumulator row of matrix core 64 from its own scratchpad, issued by slot 1024. -/
def rowTransfer : QkCmd := { op := 4, operand := 0x10000, addr := 0x00FE000004000000, issuer := 1024, taken := true }
/-- It stands at the head of QK, and the slot of its issuer is free with a count of 1 left in it. -/
def transferOfFreeSlot : State := oneShuttle 1024 { tl := 1 } { qk := [rowTransfer] }
/-- All its rows move, and no store is left to perform. -/
theorem mcpyRows_freeSlot : ∃ u, (transferOfFreeSlot.updHead 64 fun k => { k with taken := true }).mcpyRows
    { vf := (transferOfFreeSlot.slot 1024).vf, core := 64, mode := (transferOfFreeSlot.slot 1024).sh.mode, agent := 2 } 64 rowTransfer 1 0 =
      .ok u () ∧ ((u.releaseSlot 1024).slot 1024).tl = 1 := ⟨_, rfl, rfl⟩
/-- The transfer completes, and the free slot keeps its count. -/
theorem execMcpy_freeSlot : ∃ t, execMcpy transferOfFreeSlot = .next t ∧ (t.slot 1024).tl = 1 := ⟨_, rfl, rfl⟩

/-- Refutes O42 by its clause of transfers, which has no hypothesis that the issuer's slot is occupied either. -/
theorem not_arrayConsumesEntries : ¬ Obligations.ArrayConsumesEntries := by
  unfold Obligations.ArrayConsumesEntries
  intro h
  obtain ⟨-, hmcpy⟩ := h transferOfFreeSlot 64 _ rfl rfl rfl
  obtain ⟨u, hrows, hcount⟩ := mcpyRows_freeSlot
  obtain ⟨t, ht, -, -, hlowered, -⟩ := hmcpy rowTransfer [] u _ rfl (fun _ h => nomatch h) (.inl rfl) rfl rfl hrows rfl
  obtain ⟨v, hv, hkept⟩ := execMcpy_freeSlot
  have htv : t = v := by injection ht.symm.trans hv
  have hnone : (v.slot 1024).tl = 0 := by rw [← htv]; exact hlowered.trans (congrArg (· - 1) hcount)
  exact absurd (hnone.symm.trans hkept) (by decide)

end Sys2Proof.Machine

/-! PROOFS. Homes, caches and walkers (R206 to R217, R225, R287, R291): the Register step of a store, eviction, fills, and wakes; O43. -/

namespace Sys2Proof.Machine

/-! Shuttles that wait for room in a store buffer (R127, R212). -/

/-- A signal concerns one slot, of which it changes only what a wake does (R127). -/
theorem State.slot_signal (s : State) (k : Nat) : (∀ j, j ≠ k → (s.signal k).slot j = s.slot j) ∧
    ∃ life woken wokeAt, (s.signal k).slot k = { s.slot k with life := life, woken := woken, wokeAt := wokeAt } := by
  unfold State.signal
  split
  · split
    · exact ⟨fun j hj => State.slot_setSlot_of_ne _ _ hj, _, _, _, State.slot_setSlot_self _ _ _⟩
    · exact ⟨fun j hj => State.slot_setSlot_of_ne _ _ hj, _, _, _, State.slot_setSlot_self _ _ _⟩
  · exact ⟨fun _ _ => rfl, _, _, _, rfl⟩

/-- Shuttles that wait for room in a store buffer may have been woken (R212), and nothing else differs. -/
def RoomWakes (s t : State) : Prop :=
  t = { s with slots := t.slots } ∧ ∀ k, (t.slot k).vrun = (s.slot k).vrun ∧ (t.slot k).wait = (s.slot k).wait ∧
    ((∀ w ∈ (s.slot k).wait, w.kind ≠ .storeBuffer) → t.slot k = s.slot k)

/-- No started vector atomic comes to hold a word by it. -/
theorem RoomWakes.noPins {s t : State} (h : RoomWakes s t) (hp : s.NoPins) : t.NoPins := by
  obtain ⟨-, hslot⟩ := h
  intro k e he
  obtain ⟨hvrun, -⟩ := hslot k
  exact hp k e (hvrun ▸ he)
/-- A signal to a shuttle that waits so, behind others. -/
theorem RoomWakes.signal {s t : State} (h : RoomWakes s t) {k : Nat} {w : WaitInfo} (hwait : (t.slot k).wait = some w)
    (hkind : w.kind = .storeBuffer) : RoomWakes s (t.signal k) := by
  obtain ⟨honly, hslot⟩ := h
  obtain ⟨hothers, life, woken, wokeAt, hself⟩ := t.slot_signal k
  refine ⟨by rw [State.signal_only, honly], fun j => ?_⟩
  obtain ⟨hvrun, hwaits, hkept⟩ := hslot j
  by_cases hj : j = k
  · subst hj
    rw [hself]
    exact ⟨hvrun, hwaits, fun hnot => absurd hkind (hnot w (hwaits ▸ hwait))⟩
  · rw [hothers j hj]
    exact ⟨hvrun, hwaits, hkept⟩
/-- An entry has left the buffer of a core: those who wait for room there are woken (R212). -/
theorem State.roomMade_wakes (s : State) (c : Nat) : RoomWakes s (s.roomMade c) :=
  List.foldlRecOn (motive := RoomWakes s) _ _ ⟨rfl, fun _ => ⟨rfl, rfl, fun _ => rfl⟩⟩ fun t ht i _ => by
    split
    · next w hwait =>
      split
      · exact ht.signal hwait ‹_›
      · exact ht
    · exact ht

/-! What the home does before it grants (R206, R211, R214): where no word is watched and no vector atomic under way holds one. -/

/-- Work of a home before a grant: of the state, only cores, home states and L2 lines differ, and every store buffer is as it was. -/
def SliceWork (s t : State) : Prop :=
  s.watches = [] → s.NoPins →
    t = { s with cores := t.cores, home := t.home, l2 := t.l2 } ∧ ∀ d, (t.core d).sbuf = (s.core d).sbuf

/-- A change of home states and L2 lines. -/
theorem SliceWork.of_home {s t : State} (h : t = { s with home := t.home, l2 := t.l2 }) : SliceWork s t := fun _ _ => by
  have hcore (d : Nat) : t.core d = s.core d := by rw [h]; rfl
  exact ⟨by rw [h], fun d => by rw [hcore]⟩
/-- Nothing changed. -/
theorem SliceWork.refl (s : State) : SliceWork s s := .of_home rfl
/-- One piece of work after another. -/
theorem SliceWork.trans {s t u : State} (h : SliceWork s t) (g : SliceWork t u) : SliceWork s u := by
  intro hwatches hp
  obtain ⟨honly, hbuf⟩ := h hwatches hp
  obtain ⟨gonly, gbuf⟩ := g (by rw [honly]; exact hwatches) (by rw [honly]; exact hp)
  exact ⟨by rw [gonly, honly], fun d => (gbuf d).trans (hbuf d)⟩
/-- Many pieces of work in a row. -/
theorem SliceWork.foldl {α : Type} {g : State → α → State} (hg : ∀ t a, SliceWork t (g t a)) (l : List α) (s : State) :
    SliceWork s (l.foldl g s) :=
  List.foldlRecOn (motive := SliceWork s) l g (.refl s) fun t ht a _ => ht.trans (hg t a)

/-- Events counted (R357). -/
theorem State.countN_sliceWork (s : State) (c code n : Nat) (m : Option Mode) : SliceWork s (s.countN c code n m) := fun _ _ => by
  obtain ⟨hothers, pmc, pmsel, hself⟩ := s.countN_counters c code n m
  refine ⟨by rw [State.countN_only], fun d => ?_⟩
  by_cases hd : d = c
  · subst hd; rw [hself]
  · rw [hothers d hd]
/-- Events counted for a slice (R358). -/
theorem State.countSlice_sliceWork (s : State) (v slice code : Nat) : SliceWork s (s.countSlice v slice code) := by
  unfold State.countSlice
  split
  · exact s.countN_sliceWork _ _ _ _
  · exact .refl s
/-- A home state set. -/
theorem State.setHome_sliceWork (s : State) (v wd : Nat) (h : HomeState) : SliceWork s (s.setHome v wd h) := .of_home rfl
/-- A word recalled from another owner (R212). -/
theorem State.recall_sliceWork (s : State) (c v wd : Nat) : SliceWork s (s.recall c v wd) := fun hwatches hp => by
  unfold State.recall
  split
  · split
    · exact SliceWork.refl s hwatches hp
    · rw [State.unpin_noPins hp]
      exact ((s.countN_sliceWork _ _ _ _).trans (State.setHome_sliceWork _ _ _ _)) hwatches hp
  · exact SliceWork.refl s hwatches hp
/-- The wake of the watchers of a word that has none (R217). -/
theorem State.wakeWord_sliceWork (s : State) (v wd : Nat) : SliceWork s (s.wakeWord v wd) := fun hwatches hp => by
  have hnone : s.wakeWord v wd = s := by simp [State.wakeWord, State.wake, hwatches]
  rw [hnone]
  exact SliceWork.refl s hwatches hp
/-- The registrations and watches of a line released (R211). -/
theorem State.releaseLine_sliceWork (s : State) (l : L2Line) : SliceWork s (s.releaseLine l) := by
  refine .trans (.foldl (fun t k => ?_) _ s) (.foldl (fun t wd => t.wakeWord_sliceWork _ _) _ _)
  split
  · exact t.recall_sliceWork _ _ _
  · exact .refl t
/-- The line that gives way (R211). -/
theorem State.giveWay_sliceWork (s : State) (held : List L2Line) : SliceWork s (s.giveWay held) := by
  unfold State.giveWay
  dsimp only
  split
  · exact s.releaseLine_sliceWork _
  · split
    · exact (s.releaseLine_sliceWork _).trans (.of_home rfl)
    · exact .refl s
/-- Room for a registration in its set (R211). -/
theorem State.roomFor_sliceWork (s : State) (v line slice : Nat) : SliceWork s (s.roomFor v line slice) := by
  unfold State.roomFor
  dsimp only
  split
  · exact .refl s
  · split
    · exact .refl s
    · exact s.giveWay_sliceWork _
/-- A way freed in a full set (R206, R211). -/
theorem State.l2Victim_sliceWork (s : State) (v line slice : Nat) : SliceWork s (s.l2Victim v line slice) := by
  unfold State.l2Victim
  dsimp only
  split
  · exact .refl s
  · split
    · exact .refl s
    · split
      · exact .of_home rfl
      · split
        · exact (s.giveWay_sliceWork _).trans (.of_home rfl)
        · exact s.giveWay_sliceWork _
/-- A request at a slice (R206, R207). -/
theorem State.touchL2_sliceWork (s : State) (v va slice grain : Nat) (front : Bool) : SliceWork s (s.touchL2 v va slice grain front) := by
  have hcount (t : State) (code : Nat) : SliceWork t (t.countSlice v slice code) := t.countSlice_sliceWork _ _ _
  unfold State.touchL2
  dsimp only
  split
  · next l hl =>
    split
    · split
      · exact (hcount s _).trans (.of_home rfl)
      · split
        · exact hcount s _
        · exact (hcount s _).trans (.of_home rfl)
    · exact ((s.releaseLine_sliceWork l).trans (hcount _ _)).trans (.of_home rfl)
  · exact ((s.l2Victim_sliceWork _ _ _).trans (hcount _ _)).trans (.of_home rfl)

/-! The grant of the words that a store writes (R212). -/

/-- Words of one VF have one home state each. -/
theorem State.homeState_setHome (s : State) (v wd w : Nat) (h : HomeState) :
    (s.setHome v wd h).homeState v w = if w = wd then h else s.homeState v w := by
  have hkey : wordKey v w = wordKey v wd ↔ w = wd := by unfold wordKey; omega
  rw [State.homeState, State.setHome, SMap.get_put]
  exact if_congr hkey rfl rfl
/-- The recall of a word leaves the others as they are. -/
theorem State.homeState_recall {s : State} (hp : s.NoPins) (c v : Nat) {wd w : Nat} (hw : w ≠ wd) :
    (s.recall c v wd).homeState v w = s.homeState v w := by
  unfold State.recall
  split
  · split
    · rfl
    · rw [State.homeState_setHome, if_neg hw, State.unpin_noPins hp, State.count, State.countN_only]
      rfl
  · rfl
/-- A word comes to be owned by a core, recalled from any other owner (R212). -/
def State.registerWord (s : State) (c v ma kidx wd : Nat) : State := (s.recall c v wd).setHome v wd (.registered c (ma + 4 * (wd % 2)) kidx)
/-- That is work of the home. -/
theorem State.registerWord_sliceWork (s : State) (c v ma kidx wd : Nat) : SliceWork s (s.registerWord c v ma kidx wd) :=
  (s.recall_sliceWork c v wd).trans (State.setHome_sliceWork _ _ _ _)
/-- The words of the VF after it. -/
theorem State.homeState_registerWord {s : State} (hp : s.NoPins) (c v ma kidx wd w : Nat) :
    (s.registerWord c v ma kidx wd).homeState v w = if w = wd then .registered c (ma + 4 * (wd % 2)) kidx else s.homeState v w := by
  rw [State.registerWord, State.homeState_setHome]
  split
  · rfl
  · exact State.homeState_recall hp c v ‹_›
/-- The words of a list come to be owned by a core, one after another. -/
def State.registerWords (s : State) (c v ma kidx : Nat) (ws : List Nat) : State := ws.foldl (fun t wd => t.registerWord c v ma kidx wd) s
/-- That too is work of the home. -/
theorem State.registerWords_sliceWork (s : State) (c v ma kidx : Nat) (ws : List Nat) : SliceWork s (s.registerWords c v ma kidx ws) :=
  .foldl (fun t wd => t.registerWord_sliceWork c v ma kidx wd) ws s
/-- The core owns each of them afterwards. -/
theorem State.homeState_registerWords {s : State} (hwatches : s.watches = []) (hp : s.NoPins) (c v ma kidx : Nat) (ws : List Nat) (w : Nat) :
    (s.registerWords c v ma kidx ws).homeState v w = if w ∈ ws then .registered c (ma + 4 * (w % 2)) kidx else s.homeState v w := by
  induction ws generalizing s with
  | nil => simp [State.registerWords]
  | cons wd ws ih =>
    obtain ⟨honly, -⟩ := s.registerWord_sliceWork c v ma kidx wd hwatches hp
    have hrest := ih (s := s.registerWord c v ma kidx wd) (by rw [honly]; exact hwatches) (by rw [honly]; exact hp)
    rw [State.homeState_registerWord hp] at hrest
    refine hrest.trans ?_
    by_cases hmem : w ∈ ws
    · rw [if_pos hmem, if_pos (List.mem_cons_of_mem _ hmem)]
    by_cases hw : w = wd
    · rw [if_neg hmem, if_pos hw, if_pos (List.mem_cons.2 (.inl hw)), hw]
    · rw [if_neg hmem, if_neg hw, if_neg (by simp [hw, hmem])]

/-- Bytes that enter the coherence order under the key that fits their frame (R225, R351): they alone change. -/
theorem State.append_fits {s : State} {ma kidx : Nat} (h : s.KeyFits ma kidx) (data : Word) (m : BitVec 8) :
    s.append ma kidx data m = { s with
      mem := (s.append ma kidx data m).mem, fkey := (s.append ma kidx data m).fkey, poison := (s.append ma kidx data m).poison } ∧
      ∀ b, (s.append ma kidx data m).byte b = if ma ≤ b ∧ b < ma + 8 ∧ m.getLsbD (b - ma) = true then byteAt data (b - ma) else s.byte b := by
  have hwrite := State.writeMask_only (s.useKey ma kidx) ma data m
  have hbyte (b : Nat) : ((s.useKey ma kidx).writeMask ma data m).byte b =
      if ma ≤ b ∧ b < ma + 8 ∧ m.getLsbD (b - ma) = true then byteAt data (b - ma) else s.byte b := by
    rw [State.byte_writeMask, State.useKey_fits h]
    rfl
  rw [State.useKey_fits h] at hwrite
  unfold State.append
  dsimp only
  split
  · exact ⟨by rw [State.useKey_fits h, hwrite]; rfl, hbyte⟩
  · exact ⟨by rw [State.useKey_fits h, hwrite], hbyte⟩

/-- THE GRANT of a store's words, none of them watched or held (R212): the core owns them, and its bytes are in the coherence order. -/
theorem State.grant_unwatched {s : State} (hwatches : s.watches = []) (hp : s.NoPins) {ma kidx : Nat} (hkey : s.KeyFits ma kidx) (c v blk : Nat)
    (data : Word) (m : BitVec 8) :
    (s.grant c v blk ma kidx data m true).slots = s.slots ∧ (∀ d, ((s.grant c v blk ma kidx data m true).core d).sbuf = (s.core d).sbuf) ∧
      (∀ b, (s.grant c v blk ma kidx data m true).byte b =
        if ma ≤ b ∧ b < ma + 8 ∧ m.getLsbD (b - ma) = true then byteAt data (b - ma) else s.byte b) ∧
      ∀ wd ∈ wordsOf blk m, (s.grant c v blk ma kidx data m true).homeState v wd = .registered c (ma + 4 * (wd % 2)) kidx := by
  obtain ⟨honly, hbuf⟩ := s.registerWords_sliceWork c v ma kidx (wordsOf blk m) hwatches hp
  have hhome := State.homeState_registerWords hwatches hp c v ma kidx (wordsOf blk m)
  generalize hr : s.registerWords c v ma kidx (wordsOf blk m) = r at honly hbuf hhome
  obtain ⟨haonly, habyte⟩ := State.append_fits (s := r) (ma := ma) (kidx := kidx) (by rw [honly]; exact hkey) data m
  generalize ha : r.append ma kidx data m = a at haonly habyte
  have hnone (v wd : Nat) : (a.dropValid c (wordsOf blk m)).watched v wd = false := by
    have hwa : (a.dropValid c (wordsOf blk m)).watches = [] := by
      rw [State.dropValid, haonly, honly]; exact hwatches
    rw [State.watched, hwa]; rfl
  have hgrant : s.grant c v blk ma kidx data m true = a.dropValid c (wordsOf blk m) := by
    rw [← ha, ← hr] at hnone ⊢
    refine List.foldlRecOn (motive := fun t => t = _) _ _ rfl fun t ht wd _ => ?_
    rw [ht]
    exact if_neg (by rw [hnone]; exact Bool.false_ne_true)
  have hcore (d : Nat) : a.core d = r.core d := by rw [haonly]; rfl
  have hstate (w : Nat) : a.homeState v w = r.homeState v w := by rw [haonly]; rfl
  have hslots : a.slots = s.slots := by rw [haonly, honly]
  have hrbyte (b : Nat) : r.byte b = s.byte b := by rw [honly]; rfl
  rw [hgrant]
  refine ⟨hslots, fun d => ?_, fun b => ?_, fun wd hwd => ?_⟩
  · rw [State.dropValid, State.core_updCore]
    split
    · next hd => subst hd; exact (congrArg Core.sbuf (hcore d)).trans (hbuf d)
    · exact (congrArg Core.sbuf (hcore d)).trans (hbuf d)
  · exact (habyte b).trans (if_congr Iff.rfl rfl (hrbyte b))
  · exact (hstate wd).trans ((hhome wd).trans (if_pos hwd))

/-! The Register step of the one entry of a buffer (R212, R225). -/

/-- A use of the PLB changes that of its core only (R287). -/
theorem State.plbUse_cores (s : State) (v c va : Nat) : s.plbUse v c va = { s with cores := (s.plbUse v c va).cores } ∧
    ∀ d, ∃ l, (s.plbUse v c va).core d = { s.core d with plb := l } := by
  have hput (l : List PlbEntry) (d : Nat) : ∃ l', (s.updCore c fun k => { k with plb := l }).core d = { s.core d with plb := l' } := by
    rw [State.core_updCore]
    split
    · next hd => subst hd; exact ⟨_, rfl⟩
    · exact ⟨_, rfl⟩
  unfold State.plbUse
  split
  · next t e h =>
    unfold State.plbLookup at h
    dsimp only at h
    split at h
    · obtain ⟨rfl, -⟩ := Prod.mk.inj (Option.some.inj h); exact ⟨rfl, hput _⟩
    · split at h
      · obtain ⟨rfl, -⟩ := Prod.mk.inj (Option.some.inj h); exact ⟨rfl, hput _⟩
      · exact nomatch h
  · exact ⟨rfl, fun _ => ⟨_, rfl⟩⟩
/-- That is work of the home. -/
theorem State.plbUse_sliceWork (s : State) (v c va : Nat) : SliceWork s (s.plbUse v c va) := fun _ _ => by
  obtain ⟨honly, hcore⟩ := s.plbUse_cores v c va
  refine ⟨by rw [honly], fun d => ?_⟩
  obtain ⟨l, hl⟩ := hcore d
  rw [hl]

/-- A store to cached words that its core does not all own, refused neither on its way nor at its home, comes to a grant (R212): before it,
room in the buffer has woken who waits for it, and the home has done its work. -/
theorem State.registerAs_granted {s : State} {c v : Nat} {e : StoreEntry} (hpol : e.pol = 0) (hvseq : e.vseq = 0) (hv : v = (s.slot e.shid).vf)
    (hstore : s.storeRefusal v e.block e.ma e.agent e.mask = none) (hroute : s.routeCause v c e.slice e.block e.agent e.mask = none)
    (howns : s.ownsAll c v (wordsOf e.block e.mask) = false) :
    ∃ r u, RoomWakes s r ∧ SliceWork r u ∧ s.registerAs c e true = u.grant c v e.block e.ma e.kidx e.data e.mask true := by
  obtain ⟨hplb, -⟩ := (s.roomMade c).plbUse_cores v c (8 * e.block)
  have huse := (s.roomMade c).plbUse_sliceWork v c (8 * e.block)
  have hroom := s.roomMade_wakes c
  obtain ⟨hslots, -⟩ := id hroom
  generalize hr : s.roomMade c = r at hplb huse hroom hslots
  generalize hu : r.plbUse v c (8 * e.block) = u at hplb huse
  generalize hm : some (u.slot e.shid).sh.mode = mode
  have hcount : u.count c 0x006 mode = { s with slots := r.slots, cores := (u.count c 0x006 mode).cores } := by
    rw [State.count, State.countN_only, hplb, hslots]
  have hwork : SliceWork r (u.count c 0x006 mode) := huse.trans (u.countN_sliceWork _ _ _ _)
  have hownsU : u.ownsAll c v (wordsOf e.block e.mask) = false := by rw [hplb, hslots]; exact howns
  refine ⟨r, _, hroom, (hwork.trans ((State.countSlice_sliceWork _ v e.slice 0x012).trans
    (State.roomFor_sliceWork _ v (e.block / 64) e.slice))).trans (State.touchL2_sliceWork _ v (8 * e.block) e.slice e.grain true), ?_⟩
  have hanswer : ((u.count c 0x006 mode).routeCause v c e.slice e.block e.agent e.mask).or
      ((u.count c 0x006 mode).storeRefusal v e.block e.ma e.agent e.mask) = none := by
    rw [hcount]
    exact Option.or_eq_none_iff.2 ⟨hroute, hstore⟩
  unfold State.registerAs
  simp only [hvseq, hpol, ← hv, hr, hu, hm, hownsU, hanswer, if_true, ne_eq, not_true_eq_false, if_false, Bool.false_eq_true]

/-- An entry taken from the buffer of a core, to register (R225). -/
def State.unbuffered (s : State) (c : Nat) (e : StoreEntry) : State := s.updCore c fun k => { k with sbuf := k.sbuf.erase e }
/-- The only entry of a core's buffer, which no refused store holds back, leaves the buffer and registers (R225). -/
theorem State.registerAt_only {s : State} {c : Nat} {e : StoreEntry} (hbuf : (s.core c).sbuf = [e]) (hrefused : (s.slot e.shid).refused = [])
    (whole : Bool) : s.registerAt c 0 whole = (s.unbuffered c e).registerAs c e true := by
  have hfirst : toRegister (· == e) [e] [] = [e] := toRegister_youngest (l := []) (by simp) (by simp)
  have hheld : s.heldBack e = false := by simp [State.heldBack, hrefused]
  simp [State.registerAt, State.unbuffered, hbuf, hfirst, hheld]

/-- So it registers its words at their home, where they are not watched and no vector atomic under way holds one (R212, R225). -/
theorem State.registerAt_registers {s : State} {c v : Nat} {e : StoreEntry} (hbuf : (s.core c).sbuf = [e]) (hpol : e.pol = 0)
    (hvseq : e.vseq = 0) (hv : v = (s.slot e.shid).vf) (hstore : s.storeRefusal v e.block e.ma e.agent e.mask = none)
    (hroute : s.routeCause v c e.slice e.block e.agent e.mask = none) (hrefused : (s.slot e.shid).refused = [])
    (howns : s.ownsAll c v (wordsOf e.block e.mask) = false) (hkey : s.KeyFits e.ma e.kidx) (hwatches : s.watches = []) (hp : s.NoPins)
    (whole : Bool) :
    ((s.registerAt c 0 whole).core c).sbuf = [] ∧
      (∀ j, (∀ w ∈ (s.slot j).wait, w.kind ≠ .storeBuffer) → (s.registerAt c 0 whole).slot j = s.slot j) ∧
      (∀ b, (s.registerAt c 0 whole).byte b =
        if e.ma ≤ b ∧ b < e.ma + 8 ∧ e.mask.getLsbD (b - e.ma) = true then byteAt e.data (b - e.ma) else s.byte b) ∧
      ∀ wd ∈ wordsOf e.block e.mask, (s.registerAt c 0 whole).homeState v wd = .registered c (e.ma + 4 * (wd % 2)) e.kidx := by
  obtain ⟨r, u, hroom, hwork, hgrant⟩ := State.registerAs_granted (s := s.unbuffered c e) (c := c) hpol hvseq hv hstore hroute howns
  have hrp := hroom.noPins (s := s.unbuffered c e) hp
  obtain ⟨hronly, hrslot⟩ := hroom
  obtain ⟨huonly, hubuf⟩ := hwork (by rw [hronly]; exact hwatches) hrp
  obtain ⟨hslots, hsbuf, hbyte, hhome⟩ := State.grant_unwatched (s := u) (ma := e.ma) (kidx := e.kidx) (by rw [huonly, hronly]; exact hwatches)
    (by rw [huonly]; exact hrp) (by rw [huonly, hronly]; exact hkey) c v e.block e.data e.mask
  have hempty : (r.core c).sbuf = [] := by
    have hcore : r.core c = (s.unbuffered c e).core c := by rw [hronly]; rfl
    rw [hcore, State.unbuffered, State.core_updCore_self, hbuf]
    exact List.erase_cons_head ..
  have hubyte (b : Nat) : u.byte b = s.byte b := by rw [huonly, hronly]; rfl
  have huslots : u.slots = r.slots := by rw [huonly]
  rw [State.registerAt_only hbuf hrefused, hgrant]
  refine ⟨((hsbuf c).trans (hubuf c)).trans hempty, fun j hj => ?_, fun b => (hbyte b).trans (if_congr Iff.rfl rfl (hubyte b)), hhome⟩
  obtain ⟨-, -, hkept⟩ := hrslot j
  rw [State.slot, hslots, huslots]
  exact hkept hj

/-! Words that leave a core (R211, R214). -/

/-- Every entry of a key that a test keeps has a property that the default has: so has what the key reads as. -/
theorem SMap.get_filter_forall {α : Type} {d : α} {m : SMap α} {p : Nat × α → Bool} {k : Nat} {q : α → Prop} (hd : q d)
    (h : ∀ x, p (k, x) = true → q x) : q (SMap.get d (m.filter p) k) := by
  obtain hdefault | hlisted := SMap.get_default_or_mem d (m.filter p) k
  · rwa [hdefault]
  · exact h _ (List.mem_filter.1 hlisted).2

/-- The words of a line that a test selects. -/
def selectedWord (line : Nat) (which : Nat → Bool) (wd : Nat) : Bool := wd / 128 == line && which wd
/-- An entry of a home's states for such a word of a VF, which a core owns. -/
def leavingWord (c v line : Nat) (which : Nat → Bool) (e : Nat × HomeState) : Bool :=
  e.1 / 2 ^ 56 == v && selectedWord line which (e.1 % 2 ^ 56) && e.2.owner == some c
/-- Of the words of the VF, those that are selected leave where the core owns them. -/
theorem leavingWord_wordKey (c line : Nat) (which : Nat → Bool) {v wd : Nat} (hwd : wd < 2 ^ 56) (h : HomeState) :
    leavingWord c v line which (wordKey v wd, h) = (selectedWord line which wd && h.owner == some c) := by
  have hkey : wordKey v wd / 2 ^ 56 = v ∧ wordKey v wd % 2 ^ 56 = wd := by unfold wordKey; omega
  obtain ⟨hvf, hword⟩ := hkey
  simp only [leavingWord, hvf, hword, beq_self_eq_true, Bool.true_and]
/-- What of a core's L1 and of the home states is left when words leave the core: where the selvedge lets the write-back through, the states of
the others (R214, R221). -/
theorem State.evictWords_leaves {s : State} (hp : s.NoPins) {c v line : Nat} (which : Nat → Bool)
    (hpass : s.passes v c (s.lineSlice c v line) = true) :
    (s.evictWords c v line which).home = s.home.filter (fun e => !(leavingWord c v line which e)) ∧
      ((s.evictWords c v line which).core c).l1 = (s.core c).l1.filter fun e => !(selectedWord line which e.1) := by
  generalize hdropped : (s.updCore c fun k => { k with l1 := k.l1.keep fun wd => !(selectedWord line which wd) }) = t
  have hl1 : (t.core c).l1 = (s.core c).l1.filter fun e => !(selectedWord line which e.1) := by
    rw [← hdropped, State.core_updCore_self]; rfl
  have hhome : t.home = s.home := by rw [← hdropped]; rfl
  have htp : t.NoPins := by rw [← hdropped]; exact hp
  have hevict : s.evictWords c v line which = if t.home.any (leavingWord c v line which) && t.passes v c (t.lineSlice c v line) then
      { (t.unpin c fun p => p.vf == v && selectedWord line which p.wd).plbUse v c (512 * line) with
        home := ((t.unpin c fun p => p.vf == v && selectedWord line which p.wd).plbUse v c (512 * line)).home.filter
          fun e => !(leavingWord c v line which e) }
      else t := by rw [← hdropped]; rfl
  have htpass : t.passes v c (t.lineSlice c v line) = true := by rw [← hdropped]; exact hpass
  rw [hevict, htpass, Bool.and_true, State.unpin_noPins htp]
  split
  · obtain ⟨honly, hcore⟩ := t.plbUse_cores v c (512 * line)
    obtain ⟨l, hl⟩ := hcore c
    have hkept : (t.plbUse v c (512 * line)).home = s.home := by rw [honly]; exact hhome
    exact ⟨by rw [hkept], ((congrArg Core.l1 hl).trans hl1 :)⟩
  · next hnone =>
    refine ⟨?_, hl1⟩
    rw [hhome] at hnone ⊢
    exact (List.filter_eq_self.2 fun e he => by simpa using List.any_eq_false.1 (Bool.eq_false_iff.2 hnone) e he).symm
/-- So the core neither owns those words nor keeps copies of them, and every other word is as it was (R214). -/
theorem State.evictWords_words {s : State} (hp : s.NoPins) {c v line : Nat} (which : Nat → Bool)
    (hpass : s.passes v c (s.lineSlice c v line) = true) {wd : Nat} (hwd : wd < 2 ^ 56) :
    (selectedWord line which wd = true → ((s.evictWords c v line which).homeState v wd).owner ≠ some c ∧
      SMap.get none ((s.evictWords c v line which).core c).l1 wd = none) ∧
    (selectedWord line which wd = false → (s.evictWords c v line which).homeState v wd = s.homeState v wd ∧
      SMap.get none ((s.evictWords c v line which).core c).l1 wd = SMap.get none (s.core c).l1 wd) := by
  obtain ⟨hhome, hl1⟩ := State.evictWords_leaves hp which hpass
  rw [State.homeState, hhome, hl1, SMap.get_filter (fun w => !(selectedWord line which w))]
  refine ⟨fun hin => ⟨SMap.get_filter_forall (q := fun h => HomeState.owner h ≠ some c) (by simp [HomeState.owner]) fun x hx howner => ?_,
    by simp [hin]⟩, fun hout => ⟨SMap.get_filter_kept ?_, by simp [hout]⟩⟩
  · simp [leavingWord_wordKey _ _ _ hwd, hin, howner] at hx
  · simp [leavingWord_wordKey _ _ _ hwd, hout]
/-- EVICT of a core (R211, R214): the words of the subject's line leave it, all of them or the one that the subject names. -/
theorem execEvict_words {s : State} (hflag : s.subject.flag = false) : ∃ which : Nat → Bool,
    exec .evict s = .next (s.evictWords s.subject.core (s.core s.subject.core).ctx.vf (s.subject.addr / 512) which) ∧
      ∀ wd, which wd = true ↔ s.subject.size = 0 ∨ wd = s.subject.addr / 4 := by
  have hexec : exec .evict s = .next (if s.subject.size = 0 then
      s.evictLine s.subject.core (s.core s.subject.core).ctx.vf (s.subject.addr / 512)
      else s.evictWords s.subject.core (s.core s.subject.core).ctx.vf (s.subject.addr / 512) fun wd => wd == s.subject.addr / 4) :=
    if_neg (by simp [hflag])
  by_cases hsize : s.subject.size = 0
  · exact ⟨fun _ => true, by rw [hexec, if_pos hsize]; rfl, fun wd => by simp [hsize]⟩
  · exact ⟨_, by rw [hexec, if_neg hsize], fun wd => by simp [hsize]⟩

/-! Copies that a core obtains (R207, R215, R224). -/

/-- An access under the key that fits a frame finds its bytes (R351). -/
theorem State.foreign_fits {s : State} {a b k : Nat} (h : s.KeyFits a k) (hframe : b / 65536 = a / 65536) : s.foreign b k = false := by
  obtain h | h := h <;> simp [State.foreign, hframe, h]

/-- Nothing but one core differs. -/
def CoreChanges (c : Nat) (s t : State) : Prop := t = { s with cores := t.cores } ∧ ∀ d, d ≠ c → t.core d = s.core d
/-- Nothing differs. -/
theorem CoreChanges.refl (c : Nat) (s : State) : CoreChanges c s s := ⟨rfl, fun _ _ => rfl⟩
/-- One change after another. -/
theorem CoreChanges.trans {c : Nat} {s t u : State} (h : CoreChanges c s t) (g : CoreChanges c t u) : CoreChanges c s u := by
  obtain ⟨honly, hothers⟩ := h
  obtain ⟨gonly, gothers⟩ := g
  exact ⟨by rw [gonly, honly], fun d hd => (gothers d hd).trans (hothers d hd)⟩
/-- Many such changes in a row. -/
theorem CoreChanges.foldl {α : Type} {c : Nat} {g : State → α → State} (hg : ∀ t a, CoreChanges c t (g t a)) (l : List α) (s : State) :
    CoreChanges c s (l.foldl g s) :=
  List.foldlRecOn (motive := CoreChanges c s) l g (.refl c s) fun t ht a _ => ht.trans (hg t a)
/-- A change of the core. -/
theorem State.updCore_changes (s : State) (c : Nat) (f : Core → Core) : CoreChanges c s (s.updCore c f) :=
  ⟨rfl, fun d hd => by rw [State.core_updCore, if_neg hd]⟩
/-- What it leaves: slots, bytes and home states. -/
theorem CoreChanges.keeps {c : Nat} {s t : State} (h : CoreChanges c s t) :
    t.slots = s.slots ∧ (∀ b, t.byte b = s.byte b) ∧ ∀ v wd, t.homeState v wd = s.homeState v wd := by
  obtain ⟨honly, -⟩ := h
  exact ⟨by rw [honly], fun b => by rw [honly]; rfl, fun v wd => by rw [honly]; rfl⟩

/-- A word of which a core may obtain a Valid copy: it does not own it, and the word is not Owner-lost (R215, R218). -/
abbrev State.Copyable (s : State) (c v wd : Nat) : Prop := (s.homeState v wd).owner ≠ some c ∧ s.isLost v wd = false
/-- A core obtains a copy of one word of an 8-byte unit, if it may (R215). -/
def State.installWord (s : State) (c v blk ma j : Nat) : State :=
  if s.owns c v (2 * blk + j) || s.isLost v (2 * blk + j) then s
  else s.updCore c fun k =>
    { k with l1 := SMap.put none k.l1 (2 * blk + j) (some (s.read32 (ma + 4 * j))), l1bad := k.l1bad.filter fun x => x != 2 * blk + j }
/-- That changes the core only. -/
theorem State.installWord_changes (s : State) (c v blk ma j : Nat) : CoreChanges c s (s.installWord c v blk ma j) := by
  unfold State.installWord
  split
  · exact .refl c s
  · exact s.updCore_changes _ _
/-- The copies of the core afterwards. -/
theorem State.l1_installWord (s : State) (c v blk ma j w : Nat) : SMap.get none ((s.installWord c v blk ma j).core c).l1 w =
    if w = 2 * blk + j ∧ s.Copyable c v w then some (s.read32 (ma + 4 * j)) else SMap.get none (s.core c).l1 w := by
  have hmay : (s.owns c v (2 * blk + j) || s.isLost v (2 * blk + j)) = true ↔ ¬ s.Copyable c v (2 * blk + j) := by
    simp [State.owns, State.Copyable, Classical.or_iff_not_imp_left]
  unfold State.installWord
  by_cases hw : w = 2 * blk + j
  · subst hw
    by_cases hcopy : s.Copyable c v (2 * blk + j)
    · rw [if_neg (by rw [hmay]; exact not_not.2 hcopy), if_pos ⟨rfl, hcopy⟩, State.core_updCore_self, SMap.get_put_self]
    · rw [if_pos (hmay.2 hcopy), if_neg fun h => hcopy h.2]
  · refine Eq.trans ?_ (if_neg fun h => hw h.1).symm
    split
    · rfl
    · rw [State.core_updCore_self, SMap.get_put_of_ne _ _ _ hw]

/-- Words of an 8-byte unit that is not poisoned, obtained at one instant: the words one after another, and the note of whether they are of one
instant (R215, R224). -/
theorem State.installWords_eq {s : State} {c v blk ma : Nat} {js : List Nat} (h : s.poisoned ma = false) :
    ∃ l : Core → List Nat, s.installWords c v blk ma js = (js.foldl (fun t j => t.installWord c v blk ma j) s).updCore c fun k => { k with l1apart := l k } :=
  ⟨_, if_neg (by simp [h])⟩
/-- That changes the core only. -/
theorem State.installWords_changes (s : State) (c v blk ma : Nat) (js : List Nat) : CoreChanges c s (s.installWords c v blk ma js) := by
  cases h : s.poisoned ma
  · obtain ⟨l, hl⟩ := State.installWords_eq (c := c) (v := v) (blk := blk) (js := js) h
    rw [hl]
    exact (CoreChanges.foldl (fun t j => t.installWord_changes c v blk ma j) js s).trans (State.updCore_changes _ _ _)
  · have hnone : s.installWords c v blk ma js = s := if_pos h
    rw [hnone]
    exact .refl c s
/-- The words of a unit, one after another: those that the list names, and that the core may copy, are as memory has them. -/
theorem State.l1_foldl_installWord (s : State) (c v blk ma : Nat) (js : List Nat) (j : Nat) :
    SMap.get none ((js.foldl (fun t j => t.installWord c v blk ma j) s).core c).l1 (2 * blk + j) =
      if j ∈ js ∧ s.Copyable c v (2 * blk + j) then some (s.read32 (ma + 4 * j)) else SMap.get none (s.core c).l1 (2 * blk + j) := by
  induction js generalizing s with
  | nil => simp
  | cons i js ih =>
    obtain ⟨honly, -⟩ := s.installWord_changes c v blk ma i
    have hcopy : (s.installWord c v blk ma i).Copyable c v (2 * blk + j) ↔ s.Copyable c v (2 * blk + j) := by rw [honly]; rfl
    have hread : (s.installWord c v blk ma i).read32 (ma + 4 * j) = s.read32 (ma + 4 * j) := by rw [honly]; rfl
    rw [List.foldl_cons, ih, State.l1_installWord]
    simp only [hcopy, hread]
    by_cases hj : j = i
    · subst hj
      by_cases hcan : s.Copyable c v (2 * blk + j)
      · simp only [List.mem_cons, true_or, true_and, if_pos hcan, ite_self]
      · simp only [hcan, and_false, if_false]
    · simp [hj]
/-- The copies of a core once it has obtained words of an 8-byte unit (R215). -/
theorem State.l1_installWords {s : State} {c v blk ma : Nat} {js : List Nat} (h : s.poisoned ma = false) (j : Nat) :
    SMap.get none ((s.installWords c v blk ma js).core c).l1 (2 * blk + j) =
      if j ∈ js ∧ s.Copyable c v (2 * blk + j) then some (s.read32 (ma + 4 * j)) else SMap.get none (s.core c).l1 (2 * blk + j) := by
  obtain ⟨l, hl⟩ := State.installWords_eq (c := c) (v := v) (blk := blk) (js := js) h
  rw [hl, State.core_updCore_self]
  exact s.l1_foldl_installWord c v blk ma js j

/-- A unit obtained leaves the copies of every other unit as they were (R215). -/
theorem State.l1_installUnit_other (s : State) (c v blk ma : Nat) {w : Nat} (hw : w / 2 ≠ blk) :
    SMap.get none ((s.installUnit c v blk ma).core c).l1 w = SMap.get none (s.core c).l1 w := by
  have hstep (t : State) (j : Nat) (hj : j < 2) :
      SMap.get none ((t.installWord c v blk ma j).core c).l1 w = SMap.get none (t.core c).l1 w :=
    (t.l1_installWord c v blk ma j w).trans (if_neg fun h => by omega)
  cases h : s.poisoned ma
  · obtain ⟨l, hl⟩ := State.installWords_eq (c := c) (v := v) (blk := blk) (js := [0, 1]) h
    rw [State.installUnit, hl, State.core_updCore_self]
    exact (hstep _ 1 (by decide)).trans (hstep _ 0 (by decide))
  · have hnone : s.installUnit c v blk ma = s := if_pos h
    rw [hnone]
/-- Units of a grain, one after another: among them one that is not poisoned, of which a copyable word is then as memory has it (R207, R215). -/
theorem State.l1_foldl_installUnit {s : State} {c v blk ma i j : Nat} (hj : j < 2) (hclean : s.poisoned (ma + 8 * i) = false)
    (hcopy : s.Copyable c v (2 * (blk + i) + j)) (l : List Nat)
    (hl : i ∈ l ∨ SMap.get none (s.core c).l1 (2 * (blk + i) + j) = some (s.read32 (ma + 8 * i + 4 * j))) :
    SMap.get none ((l.foldl (fun t k => t.installUnit c v (blk + k) (ma + 8 * k)) s).core c).l1 (2 * (blk + i) + j) =
      some (s.read32 (ma + 8 * i + 4 * j)) := by
  induction l generalizing s with
  | nil => exact hl.resolve_left List.not_mem_nil
  | cons k l ih =>
    obtain ⟨honly, -⟩ := s.installWords_changes c v (blk + k) (ma + 8 * k) [0, 1]
    have hread (a : Nat) : (s.installUnit c v (blk + k) (ma + 8 * k)).read32 a = s.read32 a := by rw [State.installUnit, honly]; rfl
    have hnow : i ∈ l ∨ SMap.get none ((s.installUnit c v (blk + k) (ma + 8 * k)).core c).l1 (2 * (blk + i) + j) =
        some (s.read32 (ma + 8 * i + 4 * j)) := by
      by_cases hk : i = k
      · subst hk
        exact .inr ((State.l1_installWords hclean j).trans (if_pos ⟨by interval_cases j <;> simp, hcopy⟩))
      · rw [State.l1_installUnit_other _ _ _ _ _ (by omega)]
        exact hl.imp_left fun h => (List.mem_cons.1 h).resolve_left hk
    rw [List.foldl_cons, ← hread]
    rw [← hread] at hnow
    exact ih (by rw [State.installUnit, honly]; exact hclean) (by rw [State.installUnit, honly]; exact hcopy) hnow

/-- Bytes of a grain, in units (R207). -/
theorem grainBytes_units (leaf : Word) : grainBytes leaf = 8 * (grainBytes leaf / 8) ∧ 0 < grainBytes leaf / 8 := by
  unfold grainBytes
  split <;> decide
/-- A grain filled under the key that fits its frame is its units, one after another (R207). -/
theorem State.fillGrain_units {s : State} {c v blk ma kidx : Nat} {leaf : Word} (h : s.foreign ma kidx = false) :
    s.fillGrain c v blk ma kidx leaf = (List.range (grainBytes leaf / 8)).foldl (fun t i =>
      t.installUnit c v (blk / (grainBytes leaf / 8) * (grainBytes leaf / 8) + i)
        (ma / (8 * (grainBytes leaf / 8)) * (8 * (grainBytes leaf / 8)) + 8 * i)) s :=
  if_neg (by simp [h])

section
variable {s : State} {c v : Nat}

/-- An instruction-side copy, which a prefetch of the subject's core obtains (R65, R225). -/
theorem execFill_instruction {a lv at_ ma : Nat} {e : Word} {r : RangeEntry} (hc : c = s.subject.core) (hv : v = (s.core c).ctx.vf)
    (ha : a = s.subject.addr / 4 * 4) (hq : s.quiet c a .fetch = some (e, lv, at_, ma, r)) (hpol : ptePol e = 0) (hkey : s.KeyFits ma r.kidx)
    (hlost : s.isLost v (a / 4) = false) (hclean : s.poisoned ma = false) (hflag : s.subject.flag = true) :
    ∃ t, exec .fill s = .next t ∧ CoreChanges c s t ∧ SMap.get none (t.core c).icache (a / 4) = some (s.read32 ma) := by
  have hexec : exec .fill s = .next (s.updCore c fun k =>
      { k with icache := SMap.put none k.icache (a / 4) (some (s.read32 ma)), iseen := k.iseen.filter fun x => x != a / 4 }) := by
    subst hc hv ha
    show execFill s = _
    simp only [execFill, hflag, if_true, hq, hpol, State.foreign_fits hkey rfl, hlost, hclean, ne_eq, not_true_eq_false, Bool.false_eq_true,
      Bool.or_self, or_self, if_false]
  exact ⟨_, hexec, s.updCore_changes _ _, by rw [State.core_updCore_self, SMap.get_put_self]⟩
/-- Copies of words, which a prefetch of the subject's core obtains (R225). -/
theorem execFill_words {a lv at_ ma : Nat} {e : Word} {r : RangeEntry} (hc : c = s.subject.core) (hv : v = (s.core c).ctx.vf)
    (ha : a = s.subject.addr / 4 * 4) (hq : s.quiet c a .load = some (e, lv, at_, ma, r)) (hpol : ptePol e = 0) (hkey : s.KeyFits ma r.kidx)
    (hcopy : s.Copyable c v (a / 4)) (hclean : s.poisoned (ma / 8 * 8) = false) (hflag : s.subject.flag = false) :
    ∃ t, exec .fill s = .next t ∧ CoreChanges c s t ∧
      SMap.get none (t.core c).l1 (a / 4) = some (s.read32 (ma / 8 * 8 + 4 * (a / 4 % 2))) := by
  generalize hjs : (if s.subject.size = 4 then [a / 4 % 2] else [0, 1]) = js
  have hexec : exec .fill s = .next (s.installWords c v (a / 8) (ma / 8 * 8) js) := by
    subst hc hv ha hjs
    show execFill s = _
    simp only [execFill, hflag, Bool.false_eq_true, if_false, hq, hpol, State.foreign_fits hkey rfl]
    rfl
  have hin : a / 4 % 2 ∈ js := by
    rw [← hjs]
    split
    · simp
    · have : a / 4 % 2 < 2 := Nat.mod_lt _ (by decide)
      simp only [List.mem_cons, List.not_mem_nil, or_false]
      omega
  have hword : 2 * (a / 8) + a / 4 % 2 = a / 4 := by omega
  have hcopied := State.l1_installWords (s := s) (c := c) (v := v) (blk := a / 8) (js := js) hclean (a / 4 % 2)
  rw [hword, if_pos ⟨hin, hcopy⟩] at hcopied
  exact ⟨_, hexec, s.installWords_changes .., hcopied⟩

/-- A read of a grain, answered at its home (R207, R215): the copies that the core obtains of a unit of it that is not poisoned. -/
theorem execHomeRead_grain {a lv at_ ma g b : Nat} {e : Word} {r : RangeEntry} (hc : c = s.subject.core) (hv : v = (s.core c).ctx.vf)
    (ha : a = s.subject.addr / 8 * 8) (hq : s.quiet c a .load = some (e, lv, at_, ma, r)) (hpol : ptePol e = 0) (hkey : s.KeyFits ma r.kidx)
    (hg : g = grainBytes e) (hb : b = ma / g * g + a % g / 8 * 8) (hclean : s.poisoned b = false) :
    ∃ t, exec .homeRead s = .next t ∧ CoreChanges c s t ∧
      ∀ j < 2, s.Copyable c v (a / 4 + j) → SMap.get none (t.core c).l1 (a / 4 + j) = some (s.read32 (b + 4 * j)) := by
  obtain ⟨hunits, hsome⟩ := grainBytes_units e
  have hforeign : s.foreign (ma / 8 * 8) r.kidx = false := State.foreign_fits hkey (by omega)
  have hexec : exec .homeRead s = .next (s.fillGrain c v (a / 8) (ma / 8 * 8) r.kidx e) := by
    subst hc hv ha
    show execHomeRead s = _
    simp only [execHomeRead, hq, hpol, if_true]
  rw [State.fillGrain_units hforeign] at hexec
  rw [← hg] at hunits hsome hexec
  generalize g / 8 = n at hunits hsome hexec
  subst hunits
  have hbase : ma / 8 * 8 / (8 * n) = ma / (8 * n) := by
    rw [← Nat.div_div_eq_div_mul, Nat.mul_div_cancel _ (by decide : 0 < 8), Nat.div_div_eq_div_mul]
  have hunit : b = ma / (8 * n) * (8 * n) + 8 * (a / 8 % n) := by
    rw [hb, Nat.mod_mul_right_div_self, Nat.mul_comm (a / 8 % n)]
  have hblock : a / 8 / n * n + a / 8 % n = a / 8 := Nat.div_add_mod' _ _
  refine ⟨_, hexec, CoreChanges.foldl (fun t i => t.installWords_changes ..) _ s, fun j hj hcopy => ?_⟩
  have hword : a / 4 + j = 2 * (a / 8 / n * n + a / 8 % n) + j := by rw [hblock]; omega
  rw [hword] at hcopy ⊢
  rw [hbase, hunit]
  exact State.l1_foldl_installUnit hj (hunit ▸ hclean) hcopy _ (.inl (List.mem_range.2 (Nat.mod_lt _ hsome)))

/-- A fill of a region that the core holds no entry of (R287, R288). -/
theorem execPlbFill_fills {e : PlbEntry} (hc : c = s.subject.core) (hv : v = (s.core c).ctx.vf) (hclass : classOf c = .control)
    (hwalk : s.plbWalk v (s.subject.addr / 2 ^ 26) = some e) (hq : (s.quietBy c s.subject.addr s.subject.access (some e)).isSome = true)
    (hnone : ∀ p ∈ (s.core c).plb, p.vf ≠ v ∨ p.region ≠ s.subject.addr / 2 ^ 26) :
    exec .plbFill s = .next (s.updCore c fun k => { k with plb := (e :: k.plb).take 64 }) := by
  have hmiss : (s.core c).plb.find? (fun p => p.vf == v && p.region == s.subject.addr / 2 ^ 26) = none :=
    List.find?_eq_none.2 fun p hp hit => by
      rw [Bool.and_eq_true, beq_iff_eq, beq_iff_eq] at hit
      obtain ⟨hvf, hregion⟩ := hit
      exact (hnone p hp).elim (· hvf) (· hregion)
  subst hc hv
  show execPlbFill s = _
  simp only [execPlbFill, hclass, hwalk, hq, State.plbLookup, hmiss, and_self, if_true]
  rfl

/-- A walker's fill of an ATB entry (R291, R294): it is the youngest of at most 128. -/
theorem execAtbFill_fills {e : Word} {lv at_ ma : Nat} {r : RangeEntry} (hc : c = s.subject.core)
    (hv : v = (s.core c).ctx.vf) (hq : s.quiet c s.subject.addr s.subject.access = some (e, lv, at_, ma, r)) :
    ∃ l, exec .atbFill s = .next (s.updCore c fun k => { k with atb :=
      { vf := v, page := s.subject.addr / 65536, leaf := e, leafAt := at_, level := lv, xwr := r.rights, kidx := r.kidx } :: l }) ∧ l.length < 128 := by
  subst hc hv
  refine ⟨((s.core s.subject.core).atb.filter fun a => !(a.vf == (s.core s.subject.core).ctx.vf && a.page == s.subject.addr / 65536)).take 127, ?_,
    by rw [List.length_take]; omega⟩
  show execAtbFill s = _
  simp only [execAtbFill, hq]
  rfl
end

/-! Wakes of watchers (R127, R217). -/

/-- A signal to a Waiting shuttle, where engines act at once: it is Ready (R127). -/
theorem State.signal_wakes {s : State} {k : Nat} (hlife : (s.slot k).life = .waiting) (he : s.eager = true) :
    ((s.signal k).slot k).life = .ready := by
  rw [State.signal, if_pos hlife, if_pos he, State.updSlot, State.slot_setSlot_self]
  rfl
/-- Of the wakes that a home has sent a watcher, the first arrives first (R217). -/
theorem execWatchWake_first {s : State} {w : Watch} (hw : s.watches[s.subject.item]? = some w) (hfired : w.fired = true)
    (hfirst : ∀ x ∈ s.watches, x.fired = true → x.slice = w.slice → x.who = w.who → x = w ∨ w.sent < x.sent) :
    exec .watchWake s = .next (({ s with watches := s.watches.erase w } : State).deliver [w]) := by
  generalize hsame : (s.watches.filter fun x => x.fired && x.slice == w.slice && x.who == w.who) = same
  have hmem : w ∈ same := by
    rw [← hsame, List.mem_filter]
    exact ⟨List.mem_of_getElem? hw, by simp [hfired]⟩
  have hleast : ∀ x ∈ same, x = w ∨ w.sent < x.sent := fun x hx => by
    rw [← hsame, List.mem_filter] at hx
    obtain ⟨hlisted, hx⟩ := hx
    simp only [Bool.and_eq_true, beq_iff_eq] at hx
    obtain ⟨⟨hxf, hslice⟩, hwho⟩ := hx
    exact hfirst x hlisted hxf hslice hwho
  have hfind : (same.find? fun x => same.all fun y => decide (x.sent ≤ y.sent)) = some w := by
    cases hx : same.find? fun x => same.all fun y => decide (x.sent ≤ y.sent) with
    | none =>
      refine absurd (List.all_eq_true.2 fun y hy => decide_eq_true ?_) (List.find?_eq_none.1 hx w hmem)
      obtain rfl | hlater := hleast y hy
      · exact le_rfl
      · exact hlater.le
    | some x =>
      have hall := List.find?_some hx
      simp only [List.all_eq_true, decide_eq_true_eq] at hall
      exact congrArg some ((hleast x (List.mem_of_find?_eq_some hx)).resolve_right (Nat.not_lt.2 (hall w hmem)))
  show execWatchWake s = _
  simp only [execWatchWake, hw, hsame, hfind]

/-- The two steps by which an entry that is alone in the buffer of the subject's core registers (R212, R225): REGISTER of entry 0, and the grant
of the request for a word that the entry touches, behind which nothing is left to apply. -/
theorem exec_registerOnly {s : State} {c : Nat} {e : StoreEntry} {i : Instr} (hc : c = s.subject.core) (hbuf : (s.core c).sbuf = [e])
    (hi : i ∈ [Instr.register, .registrationGrant]) (hitem : i = .register → s.subject.item = 0)
    (htouches : i = .registrationGrant → e.touches (s.subject.addr / 8) (halfOf (s.subject.addr / 4)) = true)
    (hempty : ((s.registerAt c 0 s.subject.flag).core c).sbuf = []) : exec i s = .next (s.registerAt c 0 s.subject.flag) := by
  subst hc
  simp only [List.mem_cons, List.not_mem_nil, or_false] at hi
  obtain rfl | rfl := hi
  · show execRegister s = _
    rw [execRegister, hitem rfl]
  · have hfind : (s.core s.subject.core).sbuf.findIdx? (fun e => e.touches (s.subject.addr / 8) (halfOf (s.subject.addr / 4))) = some 0 := by
      rw [hbuf, List.findIdx?_cons, htouches rfl]
      rfl
    show execRegistrationGrant s = _
    simp only [execRegistrationGrant, hfind, hempty, List.length_nil, State.applyLater]

/-- Settles O43: a lone store's registration is the grant of its words, behind work of the home that changes only cores, home states and L2 lines; the
other steps each meet the one branch that drops, copies, fills or wakes. -/
theorem homesAndCachesStep : Obligations.HomesAndCachesStep := by
  unfold Obligations.HomesAndCachesStep
  intro s c v hc
  refine ⟨fun e hbuf hpol hvseq hv hstore hroute hrefused howns hkey hwatches hp i hi hitem htouches => ?register,
    fun hv hflag hpass hp => ?evict, fun a e lv at_ ma r hv ha hq hpol hkey howner hlost hclean hcleanUnit => ?fill,
    fun a e lv at_ ma r g b hv ha hq hpol hkey hg hb hclean => ?homeRead, fun e hv hclass hwalk hq hnone => ?plb,
    fun e lv at_ ma r hv hq => ?atb, fun w k hw hfired hwho hlife hpass he hfirst => ?wake⟩
  case register =>
    have hregisters := State.registerAt_registers hbuf hpol hvseq hv hstore hroute hrefused howns hkey hwatches hp s.subject.flag
    obtain ⟨hempty, -⟩ := id hregisters
    exact ⟨_, exec_registerOnly hc hbuf hi hitem htouches hempty, hregisters⟩
  case evict =>
    obtain ⟨which, hexec, hwhich⟩ := execEvict_words hflag
    rw [← hc, ← hv] at hexec
    have hgives := State.evictWords_gives hp c v (s.subject.addr / 512) which
    have hslots := hgives.slots
    obtain ⟨honly, -⟩ := hgives
    have hselected (wd : Nat) : selectedWord (s.subject.addr / 512) which wd = true ↔
        wd / 128 = s.subject.addr / 512 ∧ (s.subject.size = 0 ∨ wd = s.subject.addr / 4) := by
      rw [selectedWord, Bool.and_eq_true, beq_iff_eq, hwhich]
    refine ⟨_, hexec, State.byte_of_mem ⟨by rw [honly], by rw [honly]⟩, hslots, fun wd hwd => ?_⟩
    obtain ⟨hgone, hkept⟩ := State.evictWords_words hp which hpass hwd
    exact ⟨fun h => hgone ((hselected wd).2 h), fun h => hkept (Bool.eq_false_iff.2 (mt (hselected wd).1 h))⟩
  case fill =>
    cases hflag : s.subject.flag
    · rw [hflag] at hq
      obtain ⟨t, hexec, hchanges, hcopied⟩ := execFill_words hc hv ha hq hpol hkey ⟨howner, hlost⟩ hcleanUnit hflag
      obtain ⟨hslots, hbyte, -⟩ := hchanges.keeps
      obtain ⟨-, hothers⟩ := hchanges
      exact ⟨t, hexec, hslots, hbyte, hothers, nofun, fun _ => hcopied⟩
    · rw [hflag] at hq
      obtain ⟨t, hexec, hchanges, hcopied⟩ := execFill_instruction hc hv ha hq hpol hkey hlost hclean hflag
      obtain ⟨hslots, hbyte, -⟩ := hchanges.keeps
      obtain ⟨-, hothers⟩ := hchanges
      exact ⟨t, hexec, hslots, hbyte, hothers, fun _ => hcopied, nofun⟩
  case homeRead =>
    obtain ⟨t, hexec, hchanges, hcopied⟩ := execHomeRead_grain hc hv ha hq hpol hkey hg hb hclean
    obtain ⟨hslots, hbyte, hhome⟩ := hchanges.keeps
    exact ⟨t, hexec, hslots, hbyte, hhome, fun j hj howner hlost => hcopied j hj ⟨howner, hlost⟩⟩
  case plb => exact ⟨_, execPlbFill_fills hc hv hclass hwalk hq hnone, s.updCore_onlyCore c _⟩
  case atb =>
    obtain ⟨l, hexec, hlength⟩ := execAtbFill_fills hc hv hq
    exact ⟨_, l, hexec, s.updCore_onlyCore c _, hlength⟩
  case wake =>
    have harrives : ({ s with watches := s.watches.erase w } : State).deliver [w] = ({ s with watches := s.watches.erase w } : State).signal k := by
      simp only [State.deliver, List.foldl_cons, List.foldl_nil, hwho]
      exact if_pos hpass
    obtain ⟨hothers, -⟩ := ({ s with watches := s.watches.erase w } : State).slot_signal k
    refine ⟨_, (execWatchWake_first hw hfired hfirst).trans (congrArg _ harrives), ?_, State.signal_wakes hlife he, hothers, fun b => ?_⟩
    · rw [State.signal_only]
    · rw [State.signal_only]; rfl

end Sys2Proof.Machine

/-! PROOFS. Partition services (R209, R322 to R324, R349, R354, R393): what the reset of a VF, a binding and an unbinding leave, and the answer of
each sub-function; O50. -/

namespace Sys2Proof.Machine

/-! Changes of one partition. -/

/-- A change of one partition is a change of that partition only. -/
theorem State.updPart_onlyPart (s : State) (p : Nat) (f : Partition → Partition) : OnlyPart s p f (s.updPart p f) :=
  ⟨rfl, fun _ h => SMap.get_put_of_ne _ _ _ h, SMap.get_put_self _ _ _ _⟩
/-- Two changes of one partition are one. -/
theorem OnlyPart.trans {s t u : State} {p : Nat} {f g : Partition → Partition} (h : OnlyPart s p f t) (k : OnlyPart t p g u) :
    OnlyPart s p (fun x => g (f x)) u := by
  obtain ⟨honly, hothers, hself⟩ := h
  obtain ⟨konly, kothers, kself⟩ := k
  exact ⟨by rw [konly, honly], fun q hq => (kothers q hq).trans (hothers q hq), by rw [kself, hself]⟩

/-! The reset of a VF that has run (R393): what it leaves. -/

/-- A change after which the partitions, the bytes of memory, and every VF's binding and key are as they were. -/
def KeepsBindings (s t : State) : Prop :=
  t.parts = s.parts ∧ t.mem = s.mem ∧ t.pads = s.pads ∧ ∀ v, (t.vf v).bound = (s.vf v).bound ∧ (t.vf v).keyGen = (s.vf v).keyGen

/-- A change of neither partitions, bytes nor VFs. -/
theorem KeepsBindings.of_vfs {s t : State} (hparts : t.parts = s.parts) (hmem : t.mem = s.mem) (hpads : t.pads = s.pads)
    (hvfs : t.vfs = s.vfs) : KeepsBindings s t :=
  ⟨hparts, hmem, hpads, fun v => by simp only [State.vf, hvfs, and_self]⟩
/-- Nothing changed. -/
theorem KeepsBindings.refl (s : State) : KeepsBindings s s := .of_vfs rfl rfl rfl rfl
/-- One change after another. -/
theorem KeepsBindings.trans {s t u : State} (h : KeepsBindings s t) (g : KeepsBindings t u) : KeepsBindings s u := by
  obtain ⟨hparts, hmem, hpads, hvf⟩ := h
  obtain ⟨gparts, gmem, gpads, gvf⟩ := g
  refine ⟨gparts.trans hparts, gmem.trans hmem, gpads.trans hpads, fun v => ?_⟩
  obtain ⟨hbound, hkey⟩ := hvf v
  obtain ⟨gbound, gkey⟩ := gvf v
  exact ⟨gbound.trans hbound, gkey.trans hkey⟩
/-- Many such changes in a row. -/
theorem KeepsBindings.foldl {α : Type} {g : State → α → State} (hg : ∀ t a, KeepsBindings t (g t a)) (l : List α) (s : State) :
    KeepsBindings s (l.foldl g s) :=
  List.foldlRecOn (motive := KeepsBindings s) l g (.refl s) fun t ht a _ => ht.trans (hg t a)
/-- A change of one VF that leaves its binding and its key alone. -/
theorem KeepsBindings.updVf (s : State) (v : Nat) {f : Vf → Vf} (hbound : (f (s.vf v)).bound = (s.vf v).bound)
    (hkey : (f (s.vf v)).keyGen = (s.vf v).keyGen) : KeepsBindings s (s.updVf v f) := by
  refine ⟨rfl, rfl, rfl, fun w => ?_⟩
  rw [State.updVf, State.vf, SMap.get_put]
  split
  · subst w; exact ⟨hbound, hkey⟩
  · exact ⟨rfl, rfl⟩

/-- A joint entry leaves its queues (R233). -/
theorem State.dropJoint_keepsBindings (s : State) (n : Nat) : KeepsBindings s (s.dropJoint n) := by
  refine ⟨rfl, rfl, rfl, fun v => ?_⟩
  have hvf : (s.dropJoint n).vf v = { s.vf v with coll := (s.vf v).coll.filter fun c => c.2.joint != some n } :=
    SMap.get_map (fun f : Vf => { f with coll := f.coll.filter fun c => c.2.joint != some n }) rfl s.vfs v
  rw [hvf]
  exact ⟨rfl, rfl⟩
/-- Joint entries leave their queues (R233). -/
theorem State.joints_keepsBindings (s : State) : KeepsBindings s s.joints := by
  refine .foldl (fun t n => ?_) _ s
  split
  · exact t.dropJoint_keepsBindings n
  · exact .refl t
/-- An operation ends at its local ranks (R406). -/
theorem State.endRanks_keepsBindings (s : State) (g : CollGroup) (gn n : Nat) (f : Nat → CollEntry → CollEntry) :
    KeepsBindings s (s.endRanks g gn n f) := by
  refine .trans (.foldl (fun t r => ?_) _ s) (State.joints_keepsBindings _)
  split
  · split
    · exact .updVf t _ rfl rfl
    · exact .refl t
  · dsimp only
    split
    · exact .updVf t _ rfl rfl
    · exact .refl t
/-- The collectives of a VF are aborted (R393). -/
theorem State.abortColls_keepsBindings (s : State) (v state : Nat) : KeepsBindings s (s.abortColls v state) :=
  .foldl (fun t _ => KeepsBindings.trans (.updVf t v rfl rfl) (State.endRanks_keepsBindings _ _ _ _ _)) _ s
/-- Wakes delivered to watchers (R217). -/
theorem State.deliver_keepsBindings (s : State) (l : List Watch) : KeepsBindings s (s.deliver l) := by
  refine .foldl (fun t w => ?_) l s
  split
  · split
    · rw [State.signal_only]; exact .of_vfs rfl rfl rfl rfl
    · exact .refl t
  · exact .updVf t _ rfl rfl
  · exact .of_vfs rfl rfl rfl rfl
/-- The wake of a word's watchers (R217). -/
theorem State.wake_keepsBindings (s : State) (v wd : Nat) (lost : Bool) : KeepsBindings s (s.wake v wd lost) := by
  unfold State.wake
  dsimp only
  split
  · split
    · exact KeepsBindings.trans (.of_vfs rfl rfl rfl rfl) (State.deliver_keepsBindings _ _)
    · exact .of_vfs rfl rfl rfl rfl
  · exact .refl s
/-- The words that cores held become Owner-lost (R218). -/
theorem State.loseOwned_keepsBindings (s : State) (v : Nat) (p : Nat → Bool) : KeepsBindings s (s.loseOwned v p) :=
  KeepsBindings.trans (.of_vfs rfl rfl rfl rfl) (.foldl (fun t _ => t.wake_keepsBindings _ _ _) _ _)
/-- Released frames take an epoch, and nothing else changes (R352). -/
theorem State.releaseFrames_only (s : State) (v : Nat) (p : RangeEntry → Bool) : s.releaseFrames v p =
    { s with releaseEpochs := (s.releaseFrames v p).releaseEpochs, frameVfs := (s.releaseFrames v p).frameVfs } :=
  List.foldlRecOn (motive := fun t : State => t = { s with releaseEpochs := t.releaseEpochs, frameVfs := t.frameVfs }) _ _ rfl
    fun t ht e _ => by
      split
      · rw [ht]
      · exact ht

/-- A VF in a partition gets a fresh context (R393). -/
theorem State.freshContext_keepsBindings (s : State) (v p : Nat) : KeepsBindings s (s.freshContext v p) := .of_vfs rfl rfl rfl rfl

/-- THE RESET of a VF (R393): it stays bound where it is, no byte changes, its key is replaced, and its registers are as at reset. -/
theorem State.resetVf_effect (s : State) (v : Nat) :
    (s.resetVf v).parts = s.parts ∧ (∀ b, (s.resetVf v).byte b = s.byte b) ∧ ((s.resetVf v).vf v).bound = (s.vf v).bound ∧
      ((s.resetVf v).vf v).keyGen = (s.vf v).keyGen + 1 ∧ ((s.resetVf v).vf v).hasRun = false ∧ ((s.resetVf v).vf v).regs = {} := by
  have hlost : KeepsBindings s (((s.stopQueues v).abortColls v 3).loseOwned v fun _ => true) :=
    KeepsBindings.trans (KeepsBindings.trans (.updVf s v rfl rfl) (State.abortColls_keepsBindings _ v 3)) (State.loseOwned_keepsBindings _ v _)
  unfold State.resetVf
  extract_lets p live stopped lost fresh cleared
  have hfresh : KeepsBindings lost fresh := by
    show KeepsBindings lost (if live = true then lost.freshContext v p else lost)
    split
    · exact lost.freshContext_keepsBindings v p
    · exact .refl lost
  have hcleared : KeepsBindings s cleared := (hlost.trans hfresh).trans (.of_vfs rfl rfl rfl rfl)
  clear_value cleared
  obtain ⟨hparts, hmem, hpads, hvf⟩ := hcleared
  obtain ⟨hbound, hkey⟩ := hvf v
  rw [State.releaseFrames_only]
  have hreleased (t : State) (epochs vfs : SMap Nat) : ({ t with releaseEpochs := epochs, frameVfs := vfs } : State).vf v = t.vf v := rfl
  rw [hreleased, State.vf_updVf_self]
  exact ⟨hparts, State.byte_of_mem ⟨hmem, hpads⟩, hbound, congrArg (· + 1) hkey, rfl, rfl⟩

/-! Bindings (R322, R349). -/

/-- What a change by another path does to a VF (R344): its interface and its queues differ at most. -/
theorem Vf.otherPath_only (f : Vf) (changed : Bool) :
    f.otherPath changed = { f with tdi := (f.otherPath changed).tdi, queues := (f.otherPath changed).queues } := by
  unfold Vf.otherPath
  split <;> rfl
/-- A binding takes effect (R322, R85): the VF is the partition's youngest, and its interrupts go to the default core. -/
theorem State.bindNow_effect (s : State) (v p : Nat) :
    ((s.bindNow v p).vf v).bound = some p ∧ ((s.bindNow v p).vf v).index = (s.vf v).index ∧
      ((s.bindNow v p).vf v).intCore = s.defaultIntCore p ∧ ((s.bindNow v p).part p).vfs = (s.part p).vfs ++ [v] := by
  have hself : (s.bindNow v p).vf v =
      { (s.vf v).otherPath true with bound := some p, intCore := s.defaultIntCore p, intCoreNext := none } := by
    have hpart (t : State) (f : Partition → Partition) : (t.updPart p f).vf v = t.vf v := rfl
    rw [State.bindNow, hpart, State.vf_updVf_self]
  refine ⟨by rw [hself], ?_, by rw [hself], ?_⟩
  · rw [hself, Vf.otherPath_only]
  · rw [State.bindNow, State.part_updPart, if_pos rfl]
    rfl
/-- An unbinding takes effect (R349, R351): the VF leaves its partition, with a new key; its registers stay, and so do all bytes. -/
theorem State.unbindNow_effect {s : State} {v p : Nat} (hbound : (s.vf v).bound = some p) :
    ((s.unbindNow v).vf v).bound = none ∧ ((s.unbindNow v).vf v).keyGen = (s.vf v).keyGen + 1 ∧
      ((s.unbindNow v).vf v).hasRun = (s.vf v).hasRun ∧ ((s.unbindNow v).vf v).regs = (s.vf v).regs ∧
      ((s.unbindNow v).part p).vfs = (s.part p).vfs.erase v ∧ ∀ b, (s.unbindNow v).byte b = s.byte b := by
  have hpart : s.partOfVf v = p := by rw [State.partOfVf, hbound]; rfl
  have hself : (s.unbindNow v).vf v =
      { (s.vf v).otherPath true with bound := none, keyGen := (s.vf v).keyGen + 1, resetEpoch := s.epoch + 1 } := SMap.get_put_self _ _ _ _
  refine ⟨by rw [hself], by rw [hself], ?_, ?_, ?_, fun b => rfl⟩
  · rw [hself, Vf.otherPath_only]
  · rw [hself, Vf.otherPath_only]
  · rw [State.unbindNow, hpart, State.part_updPart, if_pos rfl]
    rfl

/-! Sections of a partition to which no VF is bound (R323). -/

/-- A section joins such a partition. -/
theorem State.addSectionNow_empty {s : State} {p : Nat} (h : (s.part p).vfs = []) (sec : Nat) :
    s.addSectionNow p sec = s.updPart p fun x => { x with sections := x.sections ||| BitVec.ofNat 32 (2 ^ sec) } := by
  unfold State.addSectionNow
  dsimp only
  rw [h, List.foldl_nil, ite_self]
/-- A section leaves such a partition. -/
theorem State.removeSectionNow_empty {s : State} {p : Nat} (h : (s.part p).vfs = []) (sec : Nat) :
    s.removeSectionNow p sec = s.updPart p fun x => { x with sections := x.sections &&& ~~~(BitVec.ofNat 32 (2 ^ sec)) } := by
  unfold State.removeSectionNow
  dsimp only
  rw [h, if_neg fun hne => hne.2 rfl, List.foldl_nil]
/-- The record of a layout changes neither bytes nor the sections of a partition (R309). -/
theorem State.recordLayout_keeps (s : State) (p : Nat) :
    (∀ b, (s.recordLayout p).byte b = s.byte b) ∧ ((s.recordLayout p).part p).sections = (s.part p).sections :=
  ⟨fun _ => rfl, by rw [State.recordLayout, State.part_updPart, if_pos rfl]⟩
/-- Selvedge registers written change no byte (R221). -/
theorem State.byte_writeSelvedge (s : State) (p b : Nat) : (s.writeSelvedge p).byte b = s.byte b :=
  List.foldlRecOn (motive := fun t : State => t.byte b = s.byte b) _ _ rfl fun _ ht _ _ => ht

/-! Partition services, asked for by the host's PF (R349). -/

/-- The sub-function that the head of the waiting requests asks for is performed, and the mailbox has its reply (R347, R349). -/
theorem State.Asks.partitionServed {s : State} {r : Request} {rest : List Request} (h : s.Asks 0x08 r rest) (hslot : r.slot = none) {i : Instr}
    {sub : Nat} {f : State → Request → Answer} (hexec : exec i s = s.partitionService sub f) (hsub : (r.a 1).toNat = sub) {u : State}
    {status : Nat} {vals : List Word} (ha : f { s with requests := rest } r = ⟨u, status, vals⟩) {p : State → Prop} (hu : p u) :
    Served i s r status vals p := by
  have hservice := h.service (fromS := false) (fromPf := true) (by simp [hslot]) (fun _ => rfl) f
  obtain ⟨hrequests, -⟩ := h
  refine ⟨u, u.reply r status vals, ?_, hu, State.reply_answered (fun k hk => by simp [hslot] at hk) status vals⟩
  rw [hexec, State.partitionService]
  simp only [hrequests, if_pos hsub]
  rw [hservice, ha]

/-- The VF as its unbinding leaves it to its partition (R349, R393): reset if it has run. -/
theorem State.resetIfRun_effect {s t : State} {v : Nat} (ht : t = if (s.vf v).hasRun then s.resetVf v else s) :
    t.parts = s.parts ∧ (∀ b, t.byte b = s.byte b) ∧ (t.vf v).bound = (s.vf v).bound ∧ (s.vf v).keyGen ≤ (t.vf v).keyGen ∧
      ((s.vf v).hasRun = true → (t.vf v).hasRun = false ∧ (t.vf v).regs = {}) := by
  subst ht
  split
  case isTrue hrun =>
    obtain ⟨hparts, hbytes, hbound, hkey, hran, hregs⟩ := s.resetVf_effect v
    exact ⟨hparts, hbytes, hbound, hkey.symm ▸ Nat.le_succ _, fun _ => ⟨hran, hregs⟩⟩
  case isFalse hrun => exact ⟨rfl, fun _ => rfl, rfl, le_rfl, fun h => absurd h hrun⟩

/-- A VF whose interface is not bound is not locked to the PF (R344). -/
theorem State.not_pfLocked {s : State} {v : Nat} (h : (s.vf v).tdi.bound = false) (r : Request) : ¬ s.pfLocked r v = true := by
  rw [State.pfLocked, h, Bool.and_false]
  exact Bool.false_ne_true

/-! The sub-functions of service 0x08 (R349), each on its accepting and refusing conditions. -/

section
variable {s : State} {r : Request} {rest : List Request}

/-- BIND_VF without a good receipt is refused (R354). -/
theorem Served.bindVf_refused (h : s.Asks 0x08 r rest) (hslot : r.slot = none) (hsub : (r.a 1).toNat = 0) {v : Nat} (hv : v = (r.a 2).toNat)
    (hrange : v < 256) (hpart : (r.a 3).toNat < 32) (hfree : (s.vf v).tdi.bound = false) (hreceipt : s.contextReceipt v (r.a 4) = false) :
    Served .bindVf s r 1 [] fun u => u = { s with requests := rest } := by
  subst hv
  refine h.partitionServed hslot (show exec .bindVf s = execBindVf s from rfl) hsub
    ((if_neg (by omega)).trans ((if_neg (State.not_pfLocked hfree r)).trans (if_pos ?_))) rfl
  rw [Bool.or_eq_true]
  exact .inr (congrArg (!·) hreceipt)

/-- BIND_VF with a good receipt gives the VF its bobbin index, and its binding is made or staged (R322). -/
theorem Served.bindVf (h : s.Asks 0x08 r rest) (hslot : r.slot = none) (hsub : (r.a 1).toNat = 0) {v p : Nat} (hv : v = (r.a 2).toNat)
    (hp : p = (r.a 3).toNat) (hrange : v < 256) (hpart : p < 32) (hfree : (s.vf v).tdi.bound = false) (htrusted : s.identityTrusted = true)
    (hbound : (s.vf v).bound = none) (hstaged : s.stagedBind v = false) (hroom : (s.part p).vfs.length + (s.part p).staged.length < 64)
    (hsections : (s.part p).sections ≠ 0) (himport : (s.part p).importFrom = none) (hreceipt : s.contextReceipt v (r.a 4) = true) :
    Served .bindVf s r 0 [BitVec.ofNat 64 (s.indexFor p)] fun u => (u.vf v).index = s.indexFor p ∧
      ((s.part p).vfs = [] → (u.vf v).bound = some p ∧ (u.part p).vfs = [v] ∧ (u.vf v).intCore = s.defaultIntCore p) ∧
      ((s.part p).vfs ≠ [] →
        OnlyPart { s with requests := rest, vfs := u.vfs } p (fun x => { x with staged := x.staged ++ [.bind v] }) u) := by
  let t := ({ s with requests := rest } : State).updVf v fun f => { f with index := s.indexFor p }
  have hindex : (t.vf v).index = s.indexFor p := by rw [State.vf_updVf_self]
  refine h.partitionServed hslot (show exec .bindVf s = execBindVf s from rfl) hsub
    (u := if (s.part p).vfs.isEmpty then t.bindNow v p else t.updPart p fun y => { y with staged := y.staged ++ [.bind v] }) ?_ ?_
  · have hfits := List.length_filter_le (fun c => match c with | .bind _ => true | _ => false) (s.part p).staged
    have haccepted : (!s.identityTrusted || (s.vf v).bound.isSome || s.stagedBind v || decide (64 ≤ (s.part p).vfs.length +
        ((s.part p).staged.filter fun c => match c with | .bind _ => true | _ => false).length) || (s.part p).sections == 0 ||
        (s.part p).importFrom.isSome || !(s.contextReceipt v (r.a 4))) = false := by
      rw [htrusted, hbound, hstaged, himport, hreceipt, decide_eq_false (by omega), beq_eq_false_iff_ne.2 hsections]
      rfl
    subst hv hp
    exact (if_neg (by omega)).trans ((if_neg (State.not_pfLocked hfree r)).trans (if_neg (ne_of_eq_of_ne haccepted Bool.false_ne_true)))
  · cases hvfs : (s.part p).vfs with
    | nil =>
      obtain ⟨hbinds, hkept, hcore, hjoins⟩ := t.bindNow_effect v p
      exact ⟨hkept.trans hindex, fun _ => ⟨hbinds, hjoins.trans (congrArg (· ++ [v]) hvfs), hcore⟩, fun hne => absurd rfl hne⟩
    | cons w ws => exact ⟨hindex, nofun, fun _ => t.updPart_onlyPart p _⟩

/-- UNBIND_VF: the VF is reset if it has run, and its unbinding is made or staged (R349, R393). -/
theorem Served.unbindVf (h : s.Asks 0x08 r rest) (hslot : r.slot = none) (hsub : (r.a 1).toNat = 1) {v p : Nat} (hv : v = (r.a 2).toNat)
    (hrange : v < 256) (hfree : (s.vf v).tdi.bound = false) (hbound : (s.vf v).bound = some p) :
    Served .unbindVf s r 0 [] fun u => ((s.vf v).hasRun = true → (u.vf v).hasRun = false ∧ (u.vf v).regs = {}) ∧
      (s.running v = false → (u.vf v).bound = none ∧ (u.part p).vfs = (s.part p).vfs.erase v ∧ (s.vf v).keyGen < (u.vf v).keyGen) ∧
      (s.running v = true → (u.part p).staged = (s.part p).staged ++ [.unbind v]) ∧ ∀ b, u.byte b = s.byte b := by
  let s' : State := { s with requests := rest }
  obtain ⟨t, ht⟩ : ∃ t, t = if (s'.vf v).hasRun then s'.resetVf v else s' := ⟨_, rfl⟩
  refine h.partitionServed hslot (show exec .unbindVf s = execUnbindVf s from rfl) hsub
    (u := if s.running v then t.updPart p fun y => { y with staged := y.staged ++ [.unbind v] } else t.unbindNow v) ?_ ?_
  · subst hv ht
    refine (if_neg (by omega)).trans ((if_neg (State.not_pfLocked hfree r)).trans ?_)
    show (match (s.vf _).bound with | none => _ | some p => _) = _
    rw [hbound]
    rfl
  · obtain ⟨hparts, hbytes, hstays, hkey, hcleared⟩ := State.resetIfRun_effect ht
    have hpart : t.part p = s.part p := by rw [State.part, hparts]; rfl
    cases hrunning : s.running v
    · obtain ⟨hleft, hkeyed, hran, hregs, hvfs, hunbound⟩ := State.unbindNow_effect (hstays.trans hbound)
      rw [if_neg Bool.false_ne_true, hran, hregs, hkeyed, hvfs, hpart]
      exact ⟨hcleared, fun _ => ⟨hleft, rfl, Nat.lt_succ_of_le hkey⟩, nofun, fun b => (hunbound b).trans (hbytes b)⟩
    · rw [if_pos rfl, State.part_updPart, if_pos rfl, hpart]
      exact ⟨hcleared, nofun, fun _ => rfl, hbytes⟩

/-- HOME_MASK_ENTRY stages the entry, and returns the one in effect (R209, R349). -/
theorem Served.homeMaskEntry (h : s.Asks 0x08 r rest) (hslot : r.slot = none) (hsub : (r.a 1).toNat = 2) {p i : Nat} (hp : p = (r.a 2).toNat)
    (hi : i = (r.a 3).toNat) (hpart : p < 32) (hentry : i < 16) (hmask : (r.a 4).toNat < 2 ^ 32) :
    Served .homeMaskEntry s r 0 [(SMap.get 0 (s.part p).masks i : BitVec 32).zeroExtend 64] fun u =>
      OnlyPart { s with requests := rest } p (fun x => { x with staged := x.staged ++ [.homeMask i ((r.a 4).truncate 32)] }) u := by
  subst hp hi
  refine h.partitionServed hslot (show exec .homeMaskEntry s = execHomeMaskEntry s from rfl) hsub (if_neg ?_) (State.updPart_onlyPart _ _ _)
  omega

/-- The entries of a staged schedule, with the one that the request adds (R324). -/
theorem SMap.range_map_put (m : SMap Word) (i : Nat) (w : Word) :
    ((List.range (i + 1)).map fun k => (SMap.get 0 (SMap.put 0 m i w) k : Word)) =
      (List.range (i + 1)).map fun k => if k = i then w else (SMap.get 0 m k : Word) :=
  List.map_congr_left fun k _ => SMap.get_put 0 m i k w

/-- SCHEDULE_ENTRY without the final flag stages the entry (R324). -/
theorem Served.scheduleEntry_staged (h : s.Asks 0x08 r rest) (hslot : r.slot = none) (hsub : (r.a 1).toNat = 3) {p i : Nat}
    (hp : p = (r.a 2).toNat) (hi : i = (r.a 3).toNat) (hpart : p < 32) (hentry : i < 64) (hmore : r.a 5 = 0) :
    Served .scheduleEntry s r 0 [] fun u =>
      OnlyPart { s with requests := rest } p (fun x => { x with stagedEntries := SMap.put 0 x.stagedEntries i (r.a 4) }) u := by
  subst hp hi
  have hflag : (r.a 5).toNat = 0 := congrArg BitVec.toNat hmore
  exact h.partitionServed hslot (show exec .scheduleEntry s = execScheduleEntry s from rfl) hsub
    ((if_neg (by omega)).trans (if_pos hmore)) (State.updPart_onlyPart _ _ _)

/-- SCHEDULE_ENTRY with the final flag commits the staged entries, or refuses them all (R324). -/
theorem Served.scheduleEntry_final (h : s.Asks 0x08 r rest) (hslot : r.slot = none) (hsub : (r.a 1).toNat = 3) {p i : Nat}
    (hp : p = (r.a 2).toNat) (hi : i = (r.a 3).toNat) (hpart : p < 32) (hentry : i < 64) {l : List Word}
    (hl : l = (List.range (i + 1)).map fun k => if k = i then r.a 4 else (SMap.get 0 (s.part p).stagedEntries k : Word)) (hfinal : r.a 5 = 1) :
    (l.all (schedOk (s.part p).vfs) = true → Served .scheduleEntry s r 0 [] fun u =>
      OnlyPart { s with requests := rest } p (fun x => { x with stagedEntries := [], scheduleNext := some l }) u) ∧
    (l.all (schedOk (s.part p).vfs) = false → Served .scheduleEntry s r 1 [] fun u =>
      OnlyPart { s with requests := rest } p (fun x => { x with stagedEntries := [] }) u) := by
  have hflag : (r.a 5).toNat = 1 := congrArg BitVec.toNat hfinal
  have hne : r.a 5 ≠ 0 := by rw [hfinal]; decide
  let s' : State := { s with requests := rest }
  obtain ⟨t, ht⟩ : ∃ t, t = s'.updPart p fun y => { y with stagedEntries := SMap.put 0 y.stagedEntries i (r.a 4) } := ⟨_, rfl⟩
  have hstaged : OnlyPart s' p (fun y => { y with stagedEntries := SMap.put 0 y.stagedEntries i (r.a 4) }) t := ht ▸ s'.updPart_onlyPart p _
  have hdropped := hstaged.trans (t.updPart_onlyPart p fun y => { y with stagedEntries := [] })
  obtain ⟨-, -, hpartT⟩ := id hstaged
  have hentries : ((List.range (i + 1)).map fun k => (SMap.get 0 (t.part p).stagedEntries k : Word)) = l := by
    rw [hpartT, hl]
    exact SMap.range_map_put _ i (r.a 4)
  have hvfs : (t.part p).vfs = (s.part p).vfs := by rw [hpartT]; rfl
  constructor
  · intro hall
    refine h.partitionServed hslot (show exec .scheduleEntry s = execScheduleEntry s from rfl) hsub
      (u := (t.updPart p fun y => { y with stagedEntries := [] }).updPart p fun y => { y with scheduleNext := some l }) ?_
      (hdropped.trans (State.updPart_onlyPart _ _ _))
    subst hp hi ht
    refine (if_neg (by omega)).trans ((if_neg hne).trans ?_)
    dsimp only
    rw [hentries, hvfs, if_pos hall]
  · intro hnot
    refine h.partitionServed hslot (show exec .scheduleEntry s = execScheduleEntry s from rfl) hsub
      (u := t.updPart p fun y => { y with stagedEntries := [] }) ?_ hdropped
    subst hp hi ht
    refine (if_neg (by omega)).trans ((if_neg hne).trans ?_)
    dsimp only
    rw [hentries, hvfs, hnot]
    rfl

/-- ADD_SECTION of a section that no partition holds or is to get (R323): it joins at once, or at the next switch. -/
theorem Served.addSection (h : s.Asks 0x08 r rest) (hslot : r.slot = none) (hsub : (r.a 1).toNat = 4) {p k : Nat} (hp : p = (r.a 2).toNat)
    (hk : k = (r.a 3).toNat) (hpart : p < 32) (hsec : k < 32) (hfree : s.partOfSection k = 32)
    (hnone : ∀ x ∈ s.parts, Staged.addSection k ∉ x.2.staged) (htrusted : s.identityTrusted = true) :
    Served .addSection s r 0 [] fun u => (∀ b, u.byte b = s.byte b) ∧
      ((s.part p).vfs = [] → (u.part p).sections = (s.part p).sections ||| BitVec.ofNat 32 (2 ^ k)) ∧
      ((s.part p).vfs ≠ [] → OnlyPart { s with requests := rest } p (fun x => { x with staged := x.staged ++ [.addSection k] }) u) := by
  let s' : State := { s with requests := rest }
  refine h.partitionServed hslot (show exec .addSection s = execAddSection s from rfl) hsub
    (u := if (s.part p).vfs.isEmpty then ((s'.addSectionNow p k).recordLayout p).writeSelvedge p
      else s'.updPart p fun y => { y with staged := y.staged ++ [.addSection k] }) ?_ ?_
  · have hunstaged : (s.parts.any fun x => x.2.staged.contains (.addSection k)) = false :=
      List.any_eq_false.2 fun x hx => mt List.contains_iff_mem.1 (hnone x hx)
    have haccepted : ¬ (s.partOfSection k ≠ 32 ∨ (s.parts.any fun x => x.2.staged.contains (.addSection k)) = true ∨
        (!s.identityTrusted) = true) :=
      not_or.2 ⟨not_not.2 hfree, not_or.2 ⟨ne_of_eq_of_ne hunstaged Bool.false_ne_true, by rw [htrusted]; exact Bool.false_ne_true⟩⟩
    subst hp hk
    exact (if_neg (by omega)).trans ((if_neg haccepted).trans (apply_ite (fun u : State => (⟨u, 0, []⟩ : Answer)) _ _ _).symm)
  · cases hvfs : (s.part p).vfs with
    | nil =>
      rw [if_pos List.isEmpty_nil, State.addSectionNow_empty (s := s') hvfs]
      obtain ⟨hbytes, hsections⟩ := (s'.updPart p fun x => { x with sections := x.sections ||| BitVec.ofNat 32 (2 ^ k) }).recordLayout_keeps p
      refine ⟨fun b => (State.byte_writeSelvedge _ p b).trans (hbytes b), fun _ => ?_, fun hne => absurd rfl hne⟩
      rw [State.part_writeSelvedge, hsections, State.part_updPart, if_pos rfl]
      rfl
    | cons w ws => exact ⟨fun _ => rfl, nofun, fun _ => s'.updPart_onlyPart p _⟩

/-- The listed sections of a partition are those that it holds. -/
theorem State.mem_partSections {s : State} {p j : Nat} : j ∈ s.partSections p ↔ j < 32 ∧ (s.part p).hasSection j = true := by
  rw [State.partSections, List.mem_filter, List.mem_range]

/-- REMOVE_SECTION of the only section of a bound partition is refused (R323). -/
theorem Served.removeSection_refused (h : s.Asks 0x08 r rest) (hslot : r.slot = none) (hsub : (r.a 1).toNat = 5) {p k : Nat}
    (hp : p = (r.a 2).toNat) (hk : k = (r.a 3).toNat) (hpart : p < 32) (hsec : k < 32) (hheld : (s.part p).hasSection k = true)
    (hquiet : ∀ v ∈ (s.part p).vfs, s.quiescent v = true) (hvfs : (s.part p).vfs ≠ [])
    (honly : ∀ j < 32, (s.part p).hasSection j = true → j = k) :
    Served .removeSection s r 1 [] fun u => u = { s with requests := rest } := by
  have hpossible : ¬ ((s.part p).hasSection k = false ∨ (s.part p).vfs.all s.quiescent = false) := by
    simp [hheld, List.all_eq_true.2 hquiet]
  have hlast : (s.part p).vfs ≠ [] ∧ (s.partSections p).all (fun n => n == k || (s.part p).staged.contains (.removeSection n)) = true := by
    refine ⟨hvfs, List.all_eq_true.2 fun j hj => ?_⟩
    obtain ⟨hj32, hjheld⟩ := State.mem_partSections.1 hj
    rw [honly j hj32 hjheld, beq_self_eq_true, Bool.true_or]
  subst hp hk
  exact h.partitionServed hslot (show exec .removeSection s = execRemoveSection s from rfl) hsub
    ((if_neg (by omega)).trans ((if_neg hpossible).trans (if_pos hlast))) rfl

/-- REMOVE_SECTION that leaves a bound partition a section (R323): the section leaves at once, or at the next switch. -/
theorem Served.removeSection (h : s.Asks 0x08 r rest) (hslot : r.slot = none) (hsub : (r.a 1).toNat = 5) {p k : Nat} (hp : p = (r.a 2).toNat)
    (hk : k = (r.a 3).toNat) (hpart : p < 32) (hsec : k < 32) (hheld : (s.part p).hasSection k = true)
    (hquiet : ∀ v ∈ (s.part p).vfs, s.quiescent v = true)
    (hother : (s.part p).vfs = [] ∨ ∃ j < 32, (s.part p).hasSection j = true ∧ j ≠ k ∧ Staged.removeSection j ∉ (s.part p).staged) :
    Served .removeSection s r 0 [] fun u => (∀ b, u.byte b = s.byte b) ∧
      ((s.part p).vfs = [] → (u.part p).sections = (s.part p).sections &&& ~~~(BitVec.ofNat 32 (2 ^ k))) ∧
      ((s.part p).vfs ≠ [] → OnlyPart { s with requests := rest } p (fun x => { x with staged := x.staged ++ [.removeSection k] }) u) := by
  let s' : State := { s with requests := rest }
  refine h.partitionServed hslot (show exec .removeSection s = execRemoveSection s from rfl) hsub
    (u := if (s.part p).vfs.isEmpty then (s'.removeSectionNow p k).recordLayout p
      else s'.updPart p fun y => { y with staged := y.staged ++ [.removeSection k] }) ?_ ?_
  · have hpossible : ¬ ((s.part p).hasSection k = false ∨ (s.part p).vfs.all s.quiescent = false) := by
      simp [hheld, List.all_eq_true.2 hquiet]
    have hleaves : ¬ ((s.part p).vfs ≠ [] ∧
        (s.partSections p).all (fun n => n == k || (s.part p).staged.contains (.removeSection n)) = true) := by
      rintro ⟨hvfs, hall⟩
      obtain ⟨j, hj, hjheld, hne, hstays⟩ := hother.resolve_left hvfs
      have hgoes := List.all_eq_true.1 hall j (State.mem_partSections.2 ⟨hj, hjheld⟩)
      rw [Bool.or_eq_true, beq_iff_eq, List.contains_iff_mem] at hgoes
      exact hgoes.elim hne hstays
    subst hp hk
    exact (if_neg (by omega)).trans ((if_neg hpossible).trans ((if_neg hleaves).trans (apply_ite (fun u : State => (⟨u, 0, []⟩ : Answer)) _ _ _).symm))
  · cases hvfs : (s.part p).vfs with
    | nil =>
      rw [if_pos List.isEmpty_nil, State.removeSectionNow_empty (s := s') hvfs]
      obtain ⟨hbytes, hsections⟩ := (s'.updPart p fun x => { x with sections := x.sections &&& ~~~(BitVec.ofNat 32 (2 ^ k)) }).recordLayout_keeps p
      refine ⟨hbytes, fun _ => ?_, fun hne => absurd rfl hne⟩
      rw [hsections, State.part_updPart, if_pos rfl]
      rfl
    | cons w ws => exact ⟨fun _ => rfl, nofun, fun _ => s'.updPart_onlyPart p _⟩

/-- READ_CONFIGURATION changes nothing (R349). -/
theorem Served.readConfiguration (h : s.Asks 0x08 r rest) (hslot : r.slot = none) (hsub : (r.a 1).toNat = 6) {p : Nat} (hp : p = (r.a 2).toNat)
    (hpart : p < 32) :
    Served .readConfiguration s r 0 [(s.part p).sections.zeroExtend 64, (s.part p).gen.zeroExtend 64, BitVec.ofNat 64 (s.part p).vfs.length]
      fun u => u = { s with requests := rest } := by
  subst hp
  exact h.partitionServed hslot (show exec .readConfiguration s = execReadConfiguration s from rfl) hsub (if_neg (by omega)) rfl
end

/-- Settles O50: each sub-function meets the one branch that its conditions leave; a change is made at once where no bound VF must wait for it. -/
theorem partitionServicesAnswer : Obligations.PartitionServicesAnswer := by
  unfold Obligations.PartitionServicesAnswer
  rintro s s' r rest n rfl rfl hslot h
  refine ⟨fun v p hsub hv hp hrange hpart hfree htrusted hbound hstaged hroom hsections himport => ?bind,
    fun v p hsub hv hrange hfree hbound => .unbindVf h hslot hsub hv hrange hfree hbound,
    fun p i hsub hp hi hpart hentry hmask => .homeMaskEntry h hslot hsub hp hi hpart hentry hmask,
    fun p i l hsub hp hi hpart hentry hl => ?schedule,
    fun p k hsub hp hk hpart hsec hfree hnone htrusted => .addSection h hslot hsub hp hk hpart hsec hfree hnone htrusted,
    fun p k hsub hp hk hpart hsec hheld hquiet =>
      ⟨.removeSection_refused h hslot hsub hp hk hpart hsec hheld hquiet, .removeSection h hslot hsub hp hk hpart hsec hheld hquiet⟩,
    fun p hsub hp hpart => .readConfiguration h hslot hsub hp hpart⟩
  case bind =>
    cases hreceipt : s.contextReceipt v (r.a 4)
    · obtain ⟨u, t, hexec, hu, hanswered⟩ := Served.bindVf_refused h hslot hsub hv hrange (hp ▸ hpart) hfree hreceipt
      exact ⟨1, [], u, t, hexec, ⟨nofun, fun _ => ⟨rfl, rfl, hu⟩⟩, hanswered⟩
    · obtain ⟨u, t, hexec, hu, hanswered⟩ :=
        Served.bindVf h hslot hsub hv hp hrange hpart hfree htrusted hbound hstaged hroom hsections himport hreceipt
      exact ⟨0, _, u, t, hexec, ⟨fun _ => ⟨rfl, rfl, hu⟩, nofun⟩, hanswered⟩
  case schedule =>
    refine ⟨.scheduleEntry_staged h hslot hsub hp hi hpart hentry, fun hfinal => ?_, fun hfinal => ?_⟩
    all_goals obtain ⟨hcommitted, hrefused⟩ := Served.scheduleEntry_final h hslot hsub hp hi hpart hentry hl hfinal
    · exact hcommitted
    · exact hrefused

end Sys2Proof.Machine
